-- ==== Sys2Proof/Word.lean ====
section
/-!
DEFINITION. The machine's words (R5: bytes are eight bits, registers 64; multi-byte values are little-endian) and the
plainest arithmetic on them.
-/

namespace Sys2Proof

/-- One byte of memory (R5). -/
abbrev Byte := BitVec 8

/-- A 64-bit register value or memory word (R8). -/
abbrev Word := BitVec 64

/-- A sparse map by natural key: pairs in strictly rising order of the key. -/
abbrev SMap (α : Type) := List (Nat × α)

end Sys2Proof
end

