-- ==== Sys2Proof/Machine/Maps.lean ====
section
/-!
DEFINITION. Operations on sparse maps and on sorted lists of naturals, and the byte and bit helpers that every unit uses
(R5: little-endian).
-/

namespace Sys2Proof.Machine

/-! ## Sparse maps -/

/-- The value at a key. -/
def look {α : Type} : SMap α → Nat → Option α
  | [], _ => none
  | (k, v) :: m, i => if k = i then some v else look m i

/-- The map with a value put at a key, in rising order of keys. -/
def put {α : Type} : SMap α → Nat → α → SMap α
  | [], i, v => [(i, v)]
  | (k, w) :: m, i, v => if i < k then (i, v) :: (k, w) :: m else if k = i then (k, v) :: m else (k, w) :: put m i v

/-- The map without a key. -/
def del {α : Type} (m : SMap α) (i : Nat) : SMap α := m.filter fun p => p.1 != i

/-- The map with the value at a key changed, where there is one. -/
def upd {α : Type} (m : SMap α) (i : Nat) (f : α → α) : SMap α :=
  match look m i with
  | none => m
  | some v => put m i (f v)

/-- The value at a key, or a default. -/
def lookD {α : Type} (m : SMap α) (i : Nat) (d : α) : α := (look m i).getD d

/-! ## Sorted lists of naturals -/

/-- A sorted list with a number put in. -/
def insertNat : List Nat → Nat → List Nat
  | [], i => [i]
  | k :: l, i => if i < k then i :: k :: l else if k = i then k :: l else k :: insertNat l i

/-- A list without a number. -/
def eraseNat (l : List Nat) (i : Nat) : List Nat := l.filter fun k => k != i

/-- A list without its n-th entry. -/
def dropAt {α : Type} : List α → Nat → List α
  | [], _ => []
  | _ :: l, 0 => l
  | a :: l, n + 1 => a :: dropAt l n

/-- The list with its n-th entry replaced. -/
def setAt {α : Type} : List α → Nat → α → List α
  | [], _, _ => []
  | _ :: l, 0, v => v :: l
  | a :: l, n + 1, v => a :: setAt l n v

/-! ## Bytes -/

/-- The number that bytes hold, little-endian. -/
def natOfBytes : List Byte → Nat
  | [] => 0
  | b :: l => b.toNat + 256 * natOfBytes l

/-- The n low bytes of a number, little-endian. -/
def leBytes : Nat → Nat → List Byte
  | _, 0 => []
  | v, n + 1 => BitVec.ofNat 8 v :: leBytes (v / 256) n

/-- n bytes from an offset of a byte string, zero past its end. -/
def slice (l : List Byte) (o n : Nat) : List Byte := (l.drop o).take n

/-- The little-endian number in n bytes from an offset. -/
def field (l : List Byte) (o n : Nat) : Nat := natOfBytes (slice l o n)

/-- The byte at an offset, zero past the end. -/
def byteAt (l : List Byte) (o : Nat) : Nat := ((l[o]?).getD 0).toNat

/-- Whether n bytes from an offset are all zero. -/
def zeroBytes (l : List Byte) (o n : Nat) : Bool := (slice l o n).all fun b => b == 0

/-- The bits of a number from lo, len of them. -/
def bitsOf (w lo len : Nat) : Nat := w / 2 ^ lo % 2 ^ len

/-- Bit i of a number. -/
def bitOf (w i : Nat) : Bool := w / 2 ^ i % 2 == 1

/-- 1 for true. -/
def b2n (b : Bool) : Nat := if b then 1 else 0

/-- An integer from the n low bits of a number, two's complement. -/
def intOf (n w : Nat) : Int :=
  let v := w % 2 ^ n
  if 2 * v < 2 ^ n then (v : Int) else (v : Int) - (2 ^ n : Nat)

/-- The n low bits of an integer, two's complement. -/
def natOfInt (n : Nat) (v : Int) : Nat := (v % (2 ^ n : Nat)).toNat

/-- Sign extension of the low n bits to 64 (R5). -/
def sextN (v : Nat) (n : Nat) : Word := BitVec.ofInt 64 (intOf n v)

/-- An integer clamped to a range (R5). -/
def satInt (v lo hi : Int) : Int := if v < lo then lo else if hi < v then hi else v

/-! ## Checksums -/

/-- One bit of a reflected CRC-32C (R82). -/
def crc32Bit (c : Nat) : Nat := if c % 2 = 1 then (c / 2) ^^^ 0x82F63B78 else c / 2

/-- One byte of a reflected CRC-32C. -/
def crc32Byte (c : Nat) (b : Byte) : Nat :=
  let x := c ^^^ b.toNat
  crc32Bit (crc32Bit (crc32Bit (crc32Bit (crc32Bit (crc32Bit (crc32Bit (crc32Bit x)))))))

/-- CRC-32C: Castagnoli, reflected, initial value and final XOR all ones (R82). -/
def crc32c (l : List Byte) : Nat := (l.foldl crc32Byte 0xFFFFFFFF) ^^^ 0xFFFFFFFF

/-- One bit of the links' CRC-64 (R349). -/
def crc64Bit (c : Nat) : Nat :=
  if 2 ^ 63 ≤ c then ((c * 2) % 2 ^ 64) ^^^ 0x42F0E1EBA9EA3693 else c * 2

/-- One byte of the links' CRC-64. -/
def crc64Byte (c : Nat) (b : Byte) : Nat :=
  let x := c ^^^ (b.toNat * 2 ^ 56)
  crc64Bit (crc64Bit (crc64Bit (crc64Bit (crc64Bit (crc64Bit (crc64Bit (crc64Bit x)))))))

/-- CRC-64, initial value 0, not reflected, no final XOR (R349). -/
def crc64 (l : List Byte) : Nat := l.foldl crc64Byte 0

end Sys2Proof.Machine
end

