-- ==== Sys2Proof/Machine/Float.lean ====
section
/-!
DEFINITION. Number formats and arithmetic (R31 to R44, R204): exact values, rounding into a format in a mode with the
flags of R39, and the operations of the drover's FPU, the homes and the cells.
-/

namespace Sys2Proof.Machine

/-! ## Flags (R39) -/

/-- Result differs from the exact value. -/
def flagNX : BitVec 7 := 1
/-- Tiny and inexact. -/
def flagUF : BitVec 7 := 2
/-- Rounded result beyond the largest finite value. -/
def flagOF : BitVec 7 := 4
/-- Finite non-zero divided by zero. -/
def flagDZ : BitVec 7 := 8
/-- Invalid operation. -/
def flagNV : BitVec 7 := 16
/-- A conversion saturated. -/
def flagSAT : BitVec 7 := 32
/-- An integer MX block was decoded with a NaN scale. -/
def flagSCALENAN : BitVec 7 := 64

/-! ## Formats (R31, R34) -/

/-- The special encodings of a floating-point format. -/
inductive Specials where
  /-- Infinity and NaN with exponent all ones. -/
  | ieee
  /-- No infinity; NaN is S.1111.111 only. -/
  | nanOnly
  /-- Every encoding is finite. -/
  | finite
  deriving DecidableEq, Repr

/-- A floating-point format: exponent and mantissa bits, bias, special encodings. -/
structure FFmt where
  eb : Nat
  mb : Nat
  bias : Nat
  sp : Specials
  deriving DecidableEq, Repr

/-- FP64, which only the drover and the homes compute in. -/
def fp64 : FFmt := { eb := 11, mb := 52, bias := 1023, sp := .ieee }
/-- FP32. -/
def fp32 : FFmt := { eb := 8, mb := 23, bias := 127, sp := .ieee }
/-- BF16. -/
def bf16 : FFmt := { eb := 8, mb := 7, bias := 127, sp := .ieee }
/-- FP16. -/
def fp16 : FFmt := { eb := 5, mb := 10, bias := 15, sp := .ieee }
/-- FP8 E4M3. -/
def e4m3 : FFmt := { eb := 4, mb := 3, bias := 7, sp := .nanOnly }
/-- FP8 E5M2. -/
def e5m2 : FFmt := { eb := 5, mb := 2, bias := 15, sp := .ieee }
/-- FP6 E2M3. -/
def e2m3 : FFmt := { eb := 2, mb := 3, bias := 1, sp := .finite }
/-- FP6 E3M2. -/
def e3m2 : FFmt := { eb := 3, mb := 2, bias := 3, sp := .finite }
/-- FP4 E2M1. -/
def e2m1 : FFmt := { eb := 2, mb := 1, bias := 1, sp := .finite }

/-- Bits of an element. -/
def FFmt.width (f : FFmt) : Nat := 1 + f.eb + f.mb

/-- What an element of a format code is (R31). -/
inductive Elem where
  /-- Two's complement of n bits. -/
  | sint (n : Nat)
  /-- Unsigned of n bits. -/
  | uint (n : Nat)
  /-- Floating point. -/
  | flt (f : FFmt)
  /-- Duo-shift (R37). -/
  | d2s
  /-- RAW bytes. -/
  | raw
  deriving DecidableEq, Repr

/-- The element kind of a format code, and whether the format has block scales; none for a reserved code (R31). -/
def elemOf (code : Nat) : Option (Elem × Bool) :=
  match code with
  | 0x00 => some (.sint 8, false)
  | 0x01 => some (.uint 8, false)
  | 0x02 => some (.sint 4, false)
  | 0x03 => some (.sint 16, false)
  | 0x04 => some (.sint 32, false)
  | 0x05 => some (.sint 64, false)
  | 0x08 => some (.flt fp32, false)
  | 0x09 => some (.flt bf16, false)
  | 0x0A => some (.flt fp16, false)
  | 0x0B => some (.flt e4m3, false)
  | 0x0C => some (.flt e5m2, false)
  | 0x0D => some (.flt e2m3, false)
  | 0x0E => some (.flt e3m2, false)
  | 0x0F => some (.flt e2m1, false)
  | 0x10 => some (.flt e4m3, true)
  | 0x11 => some (.flt e5m2, true)
  | 0x12 => some (.flt e2m3, true)
  | 0x13 => some (.flt e3m2, true)
  | 0x14 => some (.flt e2m1, true)
  | 0x15 => some (.sint 8, true)
  | 0x18 => some (.d2s, false)
  | 0x19 => some (.d2s, true)
  | 0x3F => some (.raw, false)
  | _ => none

/-- Bits of an element kind. -/
def Elem.width : Elem → Nat
  | .sint n => n
  | .uint n => n
  | .flt f => f.width
  | .d2s => 8
  | .raw => 8

/-- Bits per element of a format code. -/
def widthOf (code : Nat) : Nat :=
  match elemOf code with
  | some (e, _) => e.width
  | none => 8

/-- Whether a format code has block scales. -/
def isMX (code : Nat) : Bool :=
  match elemOf code with
  | some (_, b) => b
  | none => false

/-- Lanes of a token of an element width (R22). -/
def lanesOfWidth (w : Nat) : Nat :=
  if w = 64 then 4 else if w = 32 then 8 else if w = 16 then 16 else if w = 8 then 32 else if w = 6 then 42 else 64

/-- Elements a token carries: MXFP6 tokens carry 32 of 42 lanes (R23). -/
def lanesOf (code : Nat) : Nat := if isMX code && widthOf code == 6 then 32 else lanesOfWidth (widthOf code)

/-! ## Values -/

/-- A floating-point value: NaN, an infinity, or (−1)^s × m × 2^e. -/
inductive FVal where
  /-- Not a number. -/
  | nan
  /-- Infinity with its sign. -/
  | inf (s : Bool)
  /-- A finite value; m = 0 is a signed zero. -/
  | fin (s : Bool) (m : Nat) (e : Int)
  deriving DecidableEq, Repr

/-- Number of bits of a natural. -/
def bitLen (n : Nat) : Nat := if n = 0 then 0 else Nat.log2 n + 1

/-- The value of an encoding (R34). -/
def FFmt.decode (f : FFmt) (bits : Nat) : FVal :=
  let m := bits % 2 ^ f.mb
  let e := bits / 2 ^ f.mb % 2 ^ f.eb
  let s := bitOf bits (f.eb + f.mb)
  let ones := 2 ^ f.eb - 1
  if f.sp = .ieee ∧ e = ones then (if m = 0 then .inf s else .nan)
  else if f.sp = .nanOnly ∧ e = ones ∧ m = 2 ^ f.mb - 1 then .nan
  else if e = 0 then .fin s m (1 - (f.bias : Int) - f.mb)
  else .fin s (2 ^ f.mb + m) ((e : Int) - f.bias - f.mb)

/-- Exponent of the lowest bit of a subnormal. -/
def FFmt.qmin (f : FFmt) : Int := 1 - (f.bias : Int) - f.mb

/-- Largest exponent field of a finite value. -/
def FFmt.emaxField (f : FFmt) : Nat := if f.sp = .ieee then 2 ^ f.eb - 2 else 2 ^ f.eb - 1

/-- Significand of the largest finite value, with its hidden bit. -/
def FFmt.maxM (f : FFmt) : Nat := if f.sp = .nanOnly then 2 ^ (f.mb + 1) - 2 else 2 ^ (f.mb + 1) - 1

/-- Exponent of the lowest bit of the largest finite value. -/
def FFmt.maxQ (f : FFmt) : Int := (f.emaxField : Int) - f.bias - f.mb

/-- Encoding of a sign bit. -/
def FFmt.signBit (f : FFmt) (s : Bool) : Nat := if s then 2 ^ (f.eb + f.mb) else 0

/-- Encoding of the largest finite value. -/
def FFmt.maxFin (f : FFmt) (s : Bool) : Nat :=
  f.signBit s + f.emaxField * 2 ^ f.mb + (f.maxM - 2 ^ f.mb)

/-- Encoding of an infinity, or of the largest finite value in a format without one. -/
def FFmt.infBits (f : FFmt) (s : Bool) : Nat :=
  if f.sp = .ieee then f.signBit s + (2 ^ f.eb - 1) * 2 ^ f.mb else f.maxFin s

/-- The positive canonical NaN (R35); +0 in a format without one (R41). -/
def FFmt.nanBits (f : FFmt) : Nat :=
  match f.sp with
  | .ieee => (2 ^ f.eb - 1) * 2 ^ f.mb + 2 ^ (f.mb - 1)
  | .nanOnly => 2 ^ (f.eb + f.mb) - 1
  | .finite => 0

/-- Rounding modes (R38). -/
inductive RMode where
  /-- To nearest, ties to even. -/
  | rne
  /-- Toward zero. -/
  | rtz
  /-- Toward −∞. -/
  | rdn
  /-- Toward +∞. -/
  | rup
  deriving DecidableEq, Repr

/-- The mode of a two-bit field (R38). -/
def modeOf (n : Nat) : RMode :=
  match n with
  | 0 => .rne
  | 1 => .rtz
  | 2 => .rdn
  | _ => .rup

/-- Whether a magnitude hi + rem / 2^r rounds up. -/
def roundsUp (m : RMode) (s : Bool) (hi rem r : Nat) : Bool :=
  match m with
  | .rne => let half := 2 ^ r / 2; decide (half < rem) || (rem == half && r != 0 && hi % 2 == 1)
  | .rtz => false
  | .rdn => s && rem != 0
  | .rup => !s && rem != 0

/-- A magnitude m × 2^e rounded to a multiple of 2^q: the multiple, and whether that was exact. -/
def roundTo (mode : RMode) (s : Bool) (m : Nat) (e q : Int) : Nat × Bool :=
  if q ≤ e then (m * 2 ^ (e - q).toNat, true)
  else
    let r := (q - e).toNat
    let hi := m / 2 ^ r
    let rem := m % 2 ^ r
    (if roundsUp mode s hi rem r then hi + 1 else hi, rem == 0)

/-- What a conversion does beyond the largest finite value (R41). -/
inductive Over where
  /-- ∞ or the largest finite value as IEEE 754 prescribes for the mode. -/
  | ieee
  /-- Saturation, with SAT and NX. -/
  | sat
  /-- The canonical NaN with NV (E4M3 with `.ieee`). -/
  | nan
  deriving DecidableEq, Repr

/-- The overflow rule of a format in the default mode: FP8, FP6 and FP4 saturate (R41, R203). -/
def FFmt.over (f : FFmt) : Over := if f.width ≤ 8 then .sat else .ieee

/-- The overflow rule of a format with `.ieee` (R41). -/
def FFmt.overIeee (f : FFmt) : Over :=
  if f.width = 8 then (match f.sp with
    | .ieee => .ieee
    | _ => .nan) else f.over

/-- The encoding and flags of an overflowing value. -/
def FFmt.overflow (f : FFmt) (o : Over) (mode : RMode) (s : Bool) : Nat × BitVec 7 :=
  match o with
  | .sat => (f.maxFin s, flagSAT ||| flagNX)
  | .nan => (f.nanBits, flagNV)
  | .ieee =>
    let inf := match mode with
      | .rne => true
      | .rtz => false
      | .rdn => s
      | .rup => !s
    (if inf then f.infBits s else f.maxFin s, flagOF ||| flagNX)

/-- The encoding of hi × 2^q, where hi has at most mb + 1 bits and q is at least qmin. -/
def FFmt.pack (f : FFmt) (s : Bool) (hi : Nat) (q : Int) : Nat :=
  if hi < 2 ^ f.mb then f.signBit s + hi
  else f.signBit s + ((q - f.qmin).toNat + 1) * 2 ^ f.mb + (hi - 2 ^ f.mb)

/-- The exact magnitude m × 2^e, not zero, rounded into a format (R38, R40): encoding and flags. Tininess is detected
after rounding. -/
def FFmt.round (f : FFmt) (o : Over) (mode : RMode) (s : Bool) (m : Nat) (e : Int) : Nat × BitVec 7 :=
  let p := f.mb + 1
  let q0 := e + bitLen m - p
  let q := max q0 f.qmin
  let (hi, exact) := roundTo mode s m e q
  let (hi, q) := if hi = 2 ^ p then (2 ^ f.mb, q + 1) else (hi, q)
  if f.maxQ < q ∨ (q = f.maxQ ∧ f.maxM < hi) then f.overflow o mode s
  else
    let (h0, _) := roundTo mode s m e q0
    let tiny := decide (q0 + bitLen h0 < f.qmin + p)
    (f.pack s hi q, (if exact then 0 else flagNX) ||| (if !exact && tiny then flagUF else 0))

/-- A value written in a format: encoding and flags. -/
def FFmt.encode (f : FFmt) (o : Over) (mode : RMode) (v : FVal) : Nat × BitVec 7 :=
  match v with
  | .nan => (f.nanBits, if f.sp = .finite then flagNV else 0)
  | .inf s =>
    match o with
    | .ieee => (f.infBits s, 0)
    | .sat => (f.maxFin s, flagSAT ||| flagNX)
    | .nan => (f.nanBits, flagNV)
  | .fin s m e => if m = 0 then (f.signBit s, 0) else f.round o mode s m e

/-! ## Arithmetic on values (R35, R40): the exact result with the flags NV and DZ -/

/-- The exact signed integer of a finite value at a common exponent. -/
def scaled (s : Bool) (m : Nat) (e base : Int) : Int :=
  let v : Int := (m : Int) * 2 ^ (e - base).toNat
  if s then -v else v

/-- A finite value from a signed integer at an exponent. -/
def finOf (zeroSign : Bool) (v e : Int) : FVal :=
  if v = 0 then .fin zeroSign 0 0 else .fin (decide (v < 0)) v.natAbs e

/-- Negation of a value. -/
def FVal.neg : FVal → FVal
  | .nan => .nan
  | .inf s => .inf !s
  | .fin s m e => .fin (!s) m e

/-- Addition. -/
def FVal.add (mode : RMode) (a b : FVal) : FVal × BitVec 7 :=
  match a, b with
  | .nan, _ => (.nan, 0)
  | _, .nan => (.nan, 0)
  | .inf s, .inf t => if s = t then (.inf s, 0) else (.nan, flagNV)
  | .inf s, .fin _ _ _ => (.inf s, 0)
  | .fin _ _ _, .inf t => (.inf t, 0)
  | .fin s m e, .fin t n g =>
    if m = 0 ∧ n = 0 then (.fin (if s = t then s else mode == .rdn) 0 0, 0)
    else
      let base := min e g
      (finOf (mode == .rdn) (scaled s m e base + scaled t n g base) base, 0)

/-- Multiplication. -/
def FVal.mul (a b : FVal) : FVal × BitVec 7 :=
  match a, b with
  | .nan, _ => (.nan, 0)
  | _, .nan => (.nan, 0)
  | .inf s, .inf t => (.inf (s != t), 0)
  | .inf s, .fin t n _ => if n = 0 then (.nan, flagNV) else (.inf (s != t), 0)
  | .fin s m _, .inf t => if m = 0 then (.nan, flagNV) else (.inf (s != t), 0)
  | .fin s m e, .fin t n g => (.fin (s != t) (m * n) (e + g), 0)

/-- Fused multiply and add: 0 × ∞ is invalid with any addend (R40). -/
def FVal.fma (mode : RMode) (a b c : FVal) : FVal × BitVec 7 :=
  match a.mul b with
  | (p, fl) => if fl = 0 then (p.add mode c) else (.nan, fl)

/-- Division with `p` bits of quotient and a sticky bit. -/
def FVal.div (p : Nat) (a b : FVal) : FVal × BitVec 7 :=
  match a, b with
  | .nan, _ => (.nan, 0)
  | _, .nan => (.nan, 0)
  | .inf _, .inf _ => (.nan, flagNV)
  | .inf s, .fin t _ _ => (.inf (s != t), 0)
  | .fin s _ _, .inf t => (.fin (s != t) 0 0, 0)
  | .fin s m e, .fin t n g =>
    if n = 0 then (if m = 0 then (.nan, flagNV) else (.inf (s != t), flagDZ))
    else if m = 0 then (.fin (s != t) 0 0, 0)
    else
      let k := p + 2 + bitLen n - bitLen m
      let x := m * 2 ^ k
      (.fin (s != t) (2 * (x / n) + (if x % n = 0 then 0 else 1)) (e - g - k - 1), 0)

/-- Integer square root, bit by bit from bit i. -/
def isqrtFrom (n : Nat) : Nat → Nat → Nat
  | 0, r => r
  | i + 1, r =>
    let r' := r + 2 ^ i
    if r' * r' ≤ n then isqrtFrom n i r' else isqrtFrom n i r

/-- Integer square root. -/
def isqrt (n : Nat) : Nat := isqrtFrom n (bitLen n / 2 + 1) 0

/-- Square root with at least p bits and a sticky bit; √−0 = −0. -/
def FVal.sqrt (p : Nat) (a : FVal) : FVal × BitVec 7 :=
  match a with
  | .nan => (.nan, 0)
  | .inf s => if s then (.nan, flagNV) else (.inf false, 0)
  | .fin s m e =>
    if m = 0 then (.fin s 0 0, 0)
    else if s then (.nan, flagNV)
    else
      let k := 2 * p + 4 + (if (e - (2 * p + 4 : Nat)) % 2 = 0 then 0 else 1)
      let x := m * 2 ^ k
      let r := isqrt x
      (.fin false (2 * r + (if r * r = x then 0 else 1)) ((e - k) / 2 - 1), 0)

/-- Reciprocal square root (R204). -/
def FVal.rsqrt (p : Nat) (a : FVal) : FVal × BitVec 7 :=
  match a with
  | .nan => (.nan, 0)
  | .inf s => if s then (.nan, flagNV) else (.fin false 0 0, 0)
  | .fin s m e =>
    if m = 0 then (.inf s, flagDZ)
    else if s then (.nan, flagNV)
    else
      let m := if e % 2 = 0 then m else 2 * m
      let e := if e % 2 = 0 then e else e - 1
      let k := p + 4 + bitLen m
      let x := 2 ^ (2 * k)
      let r := isqrt (x / m)
      (.fin false (2 * r + (if r * r * m = x then 0 else 1)) (-(e / 2) - k - 1), 0)

/-- Comparison of two finite values: −1, 0, 1. −0 and +0 are equal. -/
def cmpFin (s : Bool) (m : Nat) (e : Int) (t : Bool) (n : Nat) (g : Int) : Int :=
  let base := min e g
  let d := scaled s m e base - scaled t n g base
  if d < 0 then -1 else if d = 0 then 0 else 1

/-- Order of two values, none with a NaN. -/
def FVal.cmp (a b : FVal) : Option Int :=
  match a, b with
  | .nan, _ => none
  | _, .nan => none
  | .inf s, .inf t => some (if s = t then 0 else if s then -1 else 1)
  | .inf s, .fin _ _ _ => some (if s then -1 else 1)
  | .fin _ _ _, .inf t => some (if t then 1 else -1)
  | .fin s m e, .fin t n g => some (cmpFin s m e t n g)

/-- The sign of a value. -/
def FVal.sign : FVal → Bool
  | .nan => false
  | .inf s => s
  | .fin s _ _ => s

/-- The smaller value by R40: one NaN gives the other operand, −0 orders below +0. -/
def FVal.lesser (a b : FVal) : FVal :=
  match a.cmp b with
  | none => if a = .nan then b else a
  | some d => if d < 0 then a else if 0 < d then b else if a.sign then a else b

/-- The larger value by R40. -/
def FVal.greater (a b : FVal) : FVal :=
  match a.cmp b with
  | none => if a = .nan then b else a
  | some d => if d < 0 then b else if 0 < d then a else if a.sign then b else a

/-! ## Operations on encodings -/

/-- The significant bits a quotient or root needs for a format. -/
def FFmt.prec (f : FFmt) : Nat := f.mb + 3

/-- a + b in a format and mode: encoding and flags. -/
def FFmt.addBits (f : FFmt) (o : Over) (mode : RMode) (a b : Nat) : Nat × BitVec 7 :=
  let (v, fl) := (f.decode a).add mode (f.decode b)
  let (r, fl') := f.encode o mode v
  (r, fl ||| fl')

/-- a × b in a format and mode. -/
def FFmt.mulBits (f : FFmt) (o : Over) (mode : RMode) (a b : Nat) : Nat × BitVec 7 :=
  let (v, fl) := (f.decode a).mul (f.decode b)
  let (r, fl') := f.encode o mode v
  (r, fl ||| fl')

/-- a × b + c in a format and mode, with one rounding. -/
def FFmt.fmaBits (f : FFmt) (o : Over) (mode : RMode) (a b c : Nat) : Nat × BitVec 7 :=
  let (v, fl) := FVal.fma mode (f.decode a) (f.decode b) (f.decode c)
  let (r, fl') := f.encode o mode v
  (r, fl ||| fl')

/-- a / b in a format and mode. -/
def FFmt.divBits (f : FFmt) (o : Over) (mode : RMode) (a b : Nat) : Nat × BitVec 7 :=
  let (v, fl) := FVal.div f.prec (f.decode a) (f.decode b)
  let (r, fl') := f.encode o mode v
  (r, fl ||| fl')

/-- √a in a format and mode. -/
def FFmt.sqrtBits (f : FFmt) (o : Over) (mode : RMode) (a : Nat) : Nat × BitVec 7 :=
  let (v, fl) := (f.decode a).sqrt f.prec
  let (r, fl') := f.encode o mode v
  (r, fl ||| fl')

/-- The encoding with the sign inverted; a NaN stays. -/
def FFmt.negBits (f : FFmt) (a : Nat) : Nat := a ^^^ 2 ^ (f.eb + f.mb)

/-- The smaller of two encodings by R40; NaN results are canonical. -/
def FFmt.minBits (f : FFmt) (a b : Nat) : Nat := (f.encode .ieee .rne (FVal.lesser (f.decode a) (f.decode b))).1

/-- The larger of two encodings by R40. -/
def FFmt.maxBits (f : FFmt) (a b : Nat) : Nat := (f.encode .ieee .rne (FVal.greater (f.decode a) (f.decode b))).1

/-- FP32 addition, RNE, as the accumulators do it. -/
def addF32 (a b : BitVec 32) : BitVec 32 := BitVec.ofNat 32 (fp32.addBits .ieee .rne a.toNat b.toNat).1

/-! ## Integers and D2S8 (R42, R37) -/

/-- An integer as a value. -/
def ofInt (v : Int) : FVal := .fin (decide (v < 0)) v.natAbs 0

/-- A finite value rounded to an integer in a mode: the integer and whether it is exact. -/
def toInteger (mode : RMode) (s : Bool) (m : Nat) (e : Int) : Int × Bool :=
  let (hi, exact) := roundTo mode s m e 0
  (if s then -(hi : Int) else hi, exact)

/-- A value converted to an integer of a range (R42): NaN gives 0 with NV; outside the range the nearer limit with NV
and SAT; inexact sets NX. -/
def FVal.toInt (mode : RMode) (lo hi : Int) (v : FVal) : Int × BitVec 7 :=
  match v with
  | .nan => (0, flagNV)
  | .inf s => (if s then lo else hi, flagNV ||| flagSAT)
  | .fin s m e =>
    let (i, exact) := toInteger mode s m e
    if i < lo then (lo, flagNV ||| flagSAT) else if hi < i then (hi, flagNV ||| flagSAT)
    else (i, if exact then 0 else flagNX)

/-- The integer a D2S8 byte denotes (R37). -/
def d2sVal (b : Nat) : Int :=
  let t1 : Int := 2 ^ (b / 16 % 8)
  let t2 : Int := 2 ^ (b % 8)
  (if bitOf b 7 then -t1 else t1) + (if bitOf b 3 then -t2 else t2)

/-- The canonical D2S8 encoding with exponent e1 of a magnitude at most 256, if there is one with e1 (R42). -/
def d2sWith (s : Bool) (v e1 : Nat) : Option Nat :=
  (List.range 8).findSome? fun e2 =>
    if e2 ≤ e1 ∧ 2 ^ e1 + 2 ^ e2 = v then some (b2n s * 128 + e1 * 16 + b2n s * 8 + e2)
    else if e2 < e1 ∧ 2 ^ e1 - 2 ^ e2 = v then some (b2n s * 128 + e1 * 16 + b2n (!s) * 8 + e2)
    else none

/-- The encoding a unit writes: zero as 0x08, otherwise the one with the smallest e1 (R42). -/
def d2sEnc (s : Bool) (v : Nat) : Option Nat :=
  if v = 0 then some 8 else (List.range 8).findSome? fun e1 => d2sWith s v e1

/-- The nearest representable D2S8 magnitude to m × 2^e; ties to the smaller magnitude (R42). -/
def d2sNearest (m : Nat) (e : Int) : Nat :=
  let dist (v : Nat) : Nat :=
    let base := min e 0
    ((scaled false m e base) - (scaled false v 0 base)).natAbs
  (List.range 257).foldl (fun best v =>
    if (d2sEnc false v).isSome && decide (dist v < dist best) then v else best) 0

/-- A value converted to D2S8 (R42): encoding and flags. A magnitude above 256 is out of range, and its result differs from the exact value:
NV and NX by R39, with SAT (log 95). -/
def FVal.toD2S (v : FVal) : Nat × BitVec 7 :=
  match v with
  | .nan => (8, flagNV)
  | .inf s => ((d2sEnc s 256).getD 8, flagNV ||| flagSAT ||| flagNX)
  | .fin s m e =>
    if m = 0 then (8, 0)
    else if cmpFin false m e false 256 0 = 1 then ((d2sEnc s 256).getD 8, flagNV ||| flagSAT ||| flagNX)
    else
      let v := d2sNearest m e
      ((d2sEnc (s && v != 0) v).getD 8, if cmpFin false m e false v 0 = 0 then 0 else flagNX)

/-- Limits of an integer element kind. -/
def Elem.limits : Elem → Int × Int
  | .sint n => (-(2 ^ (n - 1)), 2 ^ (n - 1) - 1)
  | .uint n => (0, 2 ^ n - 1)
  | _ => (0, 255)

/-- The value of an element's bits. -/
def Elem.val (e : Elem) (bits : Nat) : FVal :=
  match e with
  | .sint n => ofInt (intOf n bits)
  | .uint n => ofInt (bits % 2 ^ n)
  | .flt f => f.decode bits
  | .d2s => ofInt (d2sVal bits)
  | .raw => ofInt (bits % 256)

/-- The integer of an integer element's bits. -/
def Elem.int (e : Elem) (bits : Nat) : Int :=
  match e with
  | .sint n => intOf n bits
  | .uint n => (bits % 2 ^ n : Nat)
  | .d2s => d2sVal bits
  | _ => (bits : Nat)

/-- Whether an element kind is an integer one. -/
def Elem.isInt : Elem → Bool
  | .sint _ => true
  | .uint _ => true
  | .d2s => true
  | .raw => true
  | .flt _ => false

/-- A value converted into an element kind (R41, R42): bits and flags. An integer that
saturates sets NV and SAT, from an integer source as well (R39). -/
def Elem.enc (dst : Elem) (mode : RMode) (ieee : Bool) (v : FVal) : Nat × BitVec 7 :=
  match dst with
  | .flt f => f.encode (if ieee then f.overIeee else f.over) mode v
  | .d2s => v.toD2S
  | .raw => (0, 0)
  | .sint n =>
    let (i, fl) := v.toInt mode (dst.limits).1 (dst.limits).2
    (natOfInt n i, fl)
  | .uint n =>
    let (i, fl) := v.toInt mode (dst.limits).1 (dst.limits).2
    (natOfInt n i, fl)

/-- Integer division and remainder at width n (R44). -/
def divN (n : Nat) (signed : Bool) (a b : Nat) : Nat × Nat :=
  let x := a % 2 ^ n
  let y := b % 2 ^ n
  if y = 0 then (2 ^ n - 1, x)
  else if signed then
    let i := intOf n x
    let j := intOf n y
    if i = -(2 ^ (n - 1) : Int) ∧ j = -1 then (x, 0)
    else (natOfInt n (i.tdiv j), natOfInt n (i.tmod j))
  else (x / y, x % y)

/-! ## EXP2 and LOG2 (R204) -/

/-- Fraction bits of the fixed-point work. -/
def workBits : Nat := 400

/-- 2^(f / 2^k) for 0 ≤ f < 2^k, in fixed point: `c` is 2^(1/2^(k-i)) at the step for bit i. -/
def exp2Frac (f : Nat) : Nat → Nat → Nat → Nat
  | 0, _, acc => acc
  | i + 1, c, acc =>
    let c' := isqrt (c * 2 ^ workBits)
    exp2Frac f i c' (if bitOf f i then acc * c' / 2 ^ workBits else acc)

/-- EXP2 of a finite value as an exact value or one with a sticky bit. -/
def FVal.exp2 (a : FVal) : FVal :=
  match a with
  | .nan => .nan
  | .inf s => if s then .fin false 0 0 else .inf false
  | .fin s m e =>
    if m = 0 then .fin false 1 0
    else if 12 ≤ e + bitLen m then (if s then .fin false 1 (-5000) else .fin false 1 5000)
    else
      let k := (max 0 (-e)).toNat
      let x := scaled s m e (-(k : Int))
      let n := x / (2 ^ k : Nat)
      let f := (x % (2 ^ k : Nat)).toNat
      if f = 0 then .fin false 1 n
      else
        let v := exp2Frac f k (2 ^ (workBits + 1)) (2 ^ workBits)
        .fin false (2 * v + 1) (n - workBits - 1)

/-- Bits of log2 of y / 2^workBits in [1, 2), most significant first. -/
def log2Bits : Nat → Nat → Nat → Nat
  | 0, _, acc => acc
  | i + 1, y, acc =>
    let z := y * y / 2 ^ workBits
    if 2 ^ (workBits + 1) ≤ z then log2Bits i (z / 2) (2 * acc + 1) else log2Bits i z (2 * acc)

/-- LOG2 of a value, with DZ for ±0 and NV below −0. -/
def FVal.log2 (a : FVal) : FVal × BitVec 7 :=
  match a with
  | .nan => (.nan, 0)
  | .inf s => if s then (.nan, flagNV) else (.inf false, 0)
  | .fin s m e =>
    if m = 0 then (.inf true, flagDZ)
    else if s then (.nan, flagNV)
    else
      let l := bitLen m
      let ex : Int := e + l - 1
      if m = 2 ^ (l - 1) then (ofInt ex, 0)
      else
        let y := m * 2 ^ workBits / 2 ^ (l - 1)
        let t : Int := ex * (2 ^ 160 : Nat) + (log2Bits 160 y 0 : Nat)
        if 0 ≤ t then (.fin false (2 * t.toNat + 1) (-161), 0) else (.fin true (2 * t.natAbs - 1) (-161), 0)

end Sys2Proof.Machine
end

