-- ==== Sys2Proof/Syntax.lean ====
section
/-!
DEFINITION. The instructions: one constructor per row of spec/opcode_table.json. The drover's
instructions carry the fields of their words (R68 to R76). The machine's other steps (events) carry what names the unit
that takes the step and what comes in from outside the module.
-/

namespace Sys2Proof

/-- A unit that R346 tests after an error. -/
inductive TestUnit where
  /-- A serai: bank row, cell, drover or porter. -/
  | serai (n : BitVec 12)
  /-- A way of a slice cache. -/
  | sliceWay (slice : BitVec 9) (way : BitVec 4)
  /-- A way of a die's remote cache. -/
  | remoteWay (die : BitVec 3) (way : Nat)
  /-- A lane of a link. -/
  | lane (link : BitVec 5) (lane : BitVec 4)
  /-- A row of DRAM, named by an address in it. -/
  | dramRow (pa : Nat)
  deriving DecidableEq, Repr

/-- Where an ECC error is found (R344, R345). -/
inductive EccSite where
  /-- A corrected single-bit error in a unit. -/
  | corrected (unit : TestUnit)
  /-- An uncorrectable error in the 64-bit word at a physical address. -/
  | word (pa : Nat) (unit : TestUnit)
  /-- An error in the tag array, at the 64-bit word of a physical address. -/
  | tag (pa : Nat) (unit : TestUnit)
  /-- An uncorrectable error in the control state of a serai. -/
  | control (n : BitVec 12)
  deriving DecidableEq, Repr

/-- A bound source of a serai whose token a binding moves (R161, R173). -/
inductive BindSrc where
  /-- The buffer of a reading porter. -/
  | porter (p : BitVec 3)
  /-- The FIFO of an output portal. -/
  | portal (page : BitVec 8) (n : BitVec 3)
  deriving DecidableEq, Repr

/-- What the steward firmware chooses when it loads an expedition image (R279, R358, R359): numbers and frames that the
spec leaves to the loader. -/
structure LoadPlan where
  /-- Expedition id. -/
  expid : BitVec 16
  /-- Slice of the group table, which fixes the start die (R279). -/
  slice : BitVec 9
  /-- Address bits [56:12] of the root table. -/
  ptroot : BitVec 45
  /-- Frame of every mapped 4 KiB page: virtual page number and physical frame number. -/
  frames : List (Nat × Nat)
  /-- Tables of levels 2 to 4: level, the bits of the virtual address above what the table maps (shifted right by 45, 30 and 21
  for levels 2, 3 and 4), physical address. -/
  tables : List (Nat × Nat × Nat)
  /-- Virtual address of the spill area. -/
  spill : Nat
  /-- Virtual address of the chrysalis area (R335). -/
  chrysalis : Nat
  /-- Physical address of the fault log. -/
  flog : Nat
  /-- Modules that carry part of the expedition. -/
  modules : List (BitVec 9)
  deriving DecidableEq, Repr

/-- The instructions and events of spec/opcode_table.json. -/
inductive Instr where
  /-- ILL (R72). Major opcode 0x00 traps ILLEGAL whatever its other bits hold. -/
  | ill (x : BitVec 26)
  /-- ILLEGAL_INSTRUCTION (R74). An instruction word with an unassigned major opcode, an index past its list, or an illegal field value traps ILLEGAL without changing state. -/
  | illegalInstruction (w : BitVec 32)
  /-- ADD (R106). Adds two registers modulo 2^64, or 2^32 sign-extended with W. -/
  | add (d a b : BitVec 5) (w : BitVec 1)
  /-- SUB (R106). Subtracts xb from xa with wrap. -/
  | sub (d a b : BitVec 5) (w : BitVec 1)
  /-- AND (R106). Bitwise AND of two registers. -/
  | and (d a b : BitVec 5)
  /-- OR (R106). Bitwise OR of two registers. -/
  | or (d a b : BitVec 5)
  /-- XOR (R106). Bitwise XOR of two registers. -/
  | xor (d a b : BitVec 5)
  /-- ANDN (R106). xa AND NOT xb. -/
  | andn (d a b : BitVec 5)
  /-- SHL (R106). Shifts xa left by xb mod n. -/
  | shl (d a b : BitVec 5) (w : BitVec 1)
  /-- SHR (R106). Logical right shift of xa by xb mod n. -/
  | shr (d a b : BitVec 5) (w : BitVec 1)
  /-- SAR (R106). Arithmetic right shift of xa by xb mod n. -/
  | sar (d a b : BitVec 5) (w : BitVec 1)
  /-- ROL (R106). Rotates xa left by xb mod n. -/
  | rol (d a b : BitVec 5) (w : BitVec 1)
  /-- MUL (R106). Low n bits of the product. -/
  | mul (d a b : BitVec 5) (w : BitVec 1)
  /-- MULH (R106). High 64 bits of the signed 128-bit product. -/
  | mulh (d a b : BitVec 5)
  /-- MULHU (R106). High 64 bits of the unsigned 128-bit product. -/
  | mulhu (d a b : BitVec 5)
  /-- DIV (R106). Signed quotient by R44, never trapping. -/
  | div (d a b : BitVec 5) (w : BitVec 1)
  /-- DIVU (R106). Unsigned quotient by R44. -/
  | divu (d a b : BitVec 5) (w : BitVec 1)
  /-- REM (R106). Signed remainder by R44. -/
  | rem (d a b : BitVec 5) (w : BitVec 1)
  /-- REMU (R106). Unsigned remainder by R44. -/
  | remu (d a b : BitVec 5) (w : BitVec 1)
  /-- MIN (R106). Smaller of two signed values. -/
  | min (d a b : BitVec 5) (w : BitVec 1)
  /-- MAX (R106). Larger of two signed values. -/
  | max (d a b : BitVec 5) (w : BitVec 1)
  /-- MINU (R106). Smaller of two unsigned values. -/
  | minu (d a b : BitVec 5) (w : BitVec 1)
  /-- MAXU (R106). Larger of two unsigned values. -/
  | maxu (d a b : BitVec 5) (w : BitVec 1)
  /-- CLZ (R106). Counts leading zero bits of xa. -/
  | clz (d a : BitVec 5) (w : BitVec 1)
  /-- CTZ (R106). Counts trailing zero bits of xa. -/
  | ctz (d a : BitVec 5) (w : BitVec 1)
  /-- POPC (R106). Counts set bits of xa. -/
  | popc (d a : BitVec 5) (w : BitVec 1)
  /-- SEXTB (R106). Sign-extends the low byte of xa. -/
  | sextb (d a : BitVec 5)
  /-- SEXTH (R106). Sign-extends the low 16 bits of xa. -/
  | sexth (d a : BitVec 5)
  /-- SEXTW (R106). Sign-extends the low 32 bits of xa. -/
  | sextw (d a : BitVec 5)
  /-- BSWAP (R106). Reverses the eight bytes of xa. -/
  | bswap (d a : BitVec 5)
  /-- ADDI (R107). Adds a sign-extended 16-bit immediate. -/
  | addi (d a : BitVec 5) (i : BitVec 16)
  /-- ANDI (R107). ANDs a zero-extended immediate. -/
  | andi (d a : BitVec 5) (i : BitVec 16)
  /-- ORI (R107). ORs a zero-extended immediate. -/
  | ori (d a : BitVec 5) (i : BitVec 16)
  /-- XORI (R107). XORs a zero-extended immediate. -/
  | xori (d a : BitVec 5) (i : BitVec 16)
  /-- SHLI (R107). Shifts left by an immediate amount. -/
  | shli (d a : BitVec 5) (w : BitVec 1) (n : BitVec 6)
  /-- SHRI (R107). Logical right shift by an immediate amount. -/
  | shri (d a : BitVec 5) (w : BitVec 1) (n : BitVec 6)
  /-- SARI (R107). Arithmetic right shift by an immediate amount. -/
  | sari (d a : BitVec 5) (w : BitVec 1) (n : BitVec 6)
  /-- LUI (R107). Loads a sign-extended immediate shifted left by 16. -/
  | lui (d : BitVec 5) (i : BitVec 16)
  /-- CEQ (R109). Sets a predicate when two registers are equal. -/
  | ceq (p : BitVec 3) (a b : BitVec 5) (w : BitVec 1)
  /-- CNE (R109). Sets a predicate when two registers differ. -/
  | cne (p : BitVec 3) (a b : BitVec 5) (w : BitVec 1)
  /-- CLT (R109). Signed less-than compare into a predicate. -/
  | clt (p : BitVec 3) (a b : BitVec 5) (w : BitVec 1)
  /-- CLTU (R109). Unsigned less-than compare into a predicate. -/
  | cltu (p : BitVec 3) (a b : BitVec 5) (w : BitVec 1)
  /-- CLE (R109). Signed less-or-equal compare into a predicate. -/
  | cle (p : BitVec 3) (a b : BitVec 5) (w : BitVec 1)
  /-- CLEU (R109). Unsigned less-or-equal compare into a predicate. -/
  | cleu (p : BitVec 3) (a b : BitVec 5) (w : BitVec 1)
  /-- CMPI_EQ (R109). Compares xa with a sign-extended immediate for equality. -/
  | cmpiEq (p : BitVec 3) (a : BitVec 5) (i : BitVec 16)
  /-- CMPI_LT (R109). Signed less-than compare with an immediate. -/
  | cmpiLt (p : BitVec 3) (a : BitVec 5) (i : BitVec 16)
  /-- CMPI_LTU (R109). Unsigned less-than compare with a sign-extended immediate. -/
  | cmpiLtu (p : BitVec 3) (a : BitVec 5) (i : BitVec 16)
  /-- CMPI_LE (R109). Signed less-or-equal compare with an immediate. -/
  | cmpiLe (p : BitVec 3) (a : BitVec 5) (i : BitVec 16)
  /-- PAND (R110). ANDs two predicates. -/
  | pand (d a b : BitVec 3)
  /-- POR (R110). ORs two predicates. -/
  | por (d a b : BitVec 3)
  /-- PXOR (R110). XORs two predicates. -/
  | pxor (d a b : BitVec 3)
  /-- PANDN (R110). pa AND NOT pb. -/
  | pandn (d a b : BitVec 3)
  /-- PNOT (R110). Negates a predicate. -/
  | pnot (d a : BitVec 3)
  /-- PSET (R110). Sets a predicate from bit 0 of a register. -/
  | pset (d : BitVec 3) (a : BitVec 5)
  /-- PGET (R110). Writes 1 or 0 from a predicate into a register. -/
  | pget (d : BitVec 5) (a : BitVec 3)
  /-- SEL (R110). Selects xa or xb by a predicate. -/
  | sel (d a b : BitVec 5) (c : BitVec 3)
  /-- FADD (R111). Floating-point addition in FP32 or FP64. -/
  | fadd (d a b : BitVec 5) (p : BitVec 1) (r : BitVec 2)
  /-- FSUB (R111). Floating-point subtraction. -/
  | fsub (d a b : BitVec 5) (p : BitVec 1) (r : BitVec 2)
  /-- FMUL (R111). Floating-point multiplication. -/
  | fmul (d a b : BitVec 5) (p : BitVec 1) (r : BitVec 2)
  /-- FDIV (R111). Floating-point division. -/
  | fdiv (d a b : BitVec 5) (p : BitVec 1) (r : BitVec 2)
  /-- FSQRT (R111). Floating-point square root. -/
  | fsqrt (d a : BitVec 5) (p : BitVec 1) (r : BitVec 2)
  /-- FMIN (R111). Floating-point minimum by R40. -/
  | fmin (d a b : BitVec 5) (p : BitVec 1)
  /-- FMAX (R111). Floating-point maximum by R40. -/
  | fmax (d a b : BitVec 5) (p : BitVec 1)
  /-- FMA (R111). Fused multiply-add into rd with one rounding. -/
  | fma (d a b : BitVec 5) (p : BitVec 1) (r : BitVec 2)
  /-- FCVTIF (R112). Converts an integer to a float. -/
  | fcvtif (d a : BitVec 5) (w u p : BitVec 1) (r : BitVec 2)
  /-- FCVTFI (R112). Converts a float to an integer with saturation. -/
  | fcvtfi (d a : BitVec 5) (w u p : BitVec 1) (r : BitVec 2)
  /-- FCVTFF (R112). Converts between FP32 and FP64. -/
  | fcvtff (d a : BitVec 5) (p : BitVec 1) (r : BitVec 2)
  /-- FCEQ (R111). Float equality compare into a predicate. -/
  | fceq (d : BitVec 3) (a b : BitVec 5) (p : BitVec 1)
  /-- FCLT (R111). Float less-than compare into a predicate. -/
  | fclt (d : BitVec 3) (a b : BitVec 5) (p : BitVec 1)
  /-- FCLE (R111). Float less-or-equal compare into a predicate. -/
  | fcle (d : BitVec 3) (a b : BitVec 5) (p : BitVec 1)
  /-- FCLASS (R113). Writes a one-hot class mask of a float. -/
  | fclass (d a : BitVec 5) (p : BitVec 1)
  /-- LD (R114). Sign-extending load of 1 to 8 bytes. -/
  | ld (d a : BitVec 5) (z o : BitVec 2) (f : BitVec 12)
  /-- LDU (R114). Zero-extending load of 1 to 8 bytes. -/
  | ldu (d a : BitVec 5) (z o : BitVec 2) (f : BitVec 12)
  /-- ST (R114). Stores 1 to 8 bytes of a register. -/
  | st (d a : BitVec 5) (z o : BitVec 2) (f : BitVec 12)
  /-- LDF (R140). Waits until the word is full, then loads it, as an acquire. -/
  | ldf (d a : BitVec 5) (z : BitVec 2) (f : BitVec 12)
  /-- LDFE (R140). Waits until full, loads and marks the word empty. -/
  | ldfe (d a : BitVec 5) (z : BitVec 2) (f : BitVec 12)
  /-- STEF (R140). Waits until empty, stores and marks the word full. -/
  | stef (d a : BitVec 5) (z : BitVec 2) (f : BitVec 12)
  /-- STF (R140). Stores and marks the word full without waiting. -/
  | stf (d a : BitVec 5) (z : BitVec 2) (f : BitVec 12)
  /-- SETE (R140). Marks the word empty, keeping its data. -/
  | sete (a : BitVec 5) (z : BitVec 2) (f : BitVec 12)
  /-- PREF_R (R116). Prefetch hint of a line for reading. -/
  | prefR (a : BitVec 5) (f : BitVec 12)
  /-- PREF_W (R116). Prefetch hint of a line for writing. -/
  | prefW (a : BitVec 5) (f : BitVec 12)
  /-- DLD (R117). Loads a 128-byte descriptor into a descriptor register. -/
  | dld (d : BitVec 4) (a b : BitVec 5) (s : BitVec 3) (o : BitVec 2)
  /-- DST (R117). Stores a descriptor register to memory. -/
  | dst (d : BitVec 4) (a b : BitVec 5) (s : BitVec 3) (o : BitVec 2)
  /-- BR (R119). Predicated PC-relative branch. -/
  | br (n : BitVec 1) (k : BitVec 3) (f : BitVec 22)
  /-- CALL (R119). Predicated branch that links the return address into lr. -/
  | call (n : BitVec 1) (k : BitVec 3) (f : BitVec 22)
  /-- JR (R120). Jumps to the address in xa. -/
  | jr (a : BitVec 5)
  /-- JALR (R120). Jumps to xa and links pc+4 into rd. -/
  | jalr (d a : BitVec 5)
  /-- NOP (R121). Does nothing. -/
  | nop
  /-- TRAP (R121). Raises SWTRAP with TRAPVAL from xa. -/
  | trap (a : BitVec 5)
  /-- ERET (R324). Steward ends handling of its current trap record, resuming or completing by its flags. -/
  | eret
  /-- FENCE (R122). Enters a marker that orders later memory accesses at a scope. -/
  | fence (s : BitVec 3) (o : BitVec 2)
  /-- SLEEP (R123). Stalls the drover until a register, queue or inbox event. -/
  | sleep
  /-- BRK (R121). Raises BRK. -/
  | brk
  /-- IFLUSH (R124). Invalidates the instruction cache and refetches. -/
  | iflush
  /-- HALT (R121). Stops the steward core until device reset. -/
  | halt
  /-- MFC (R125). Reads a control register into xd. -/
  | mfc (d : BitVec 5) (n : BitVec 9)
  /-- MTC (R125). Writes xa into a control register by the rules of R11. -/
  | mtc (a : BitVec 5) (n : BitVec 9)
  /-- AMO_SWAP (R127). Swaps the word at home, returning the old value. -/
  | amoSwap (d a b : BitVec 5) (s : BitVec 3) (o : BitVec 2)
  /-- AMO_ADD (R127). Atomic add returning the old value. -/
  | amoAdd (d a b : BitVec 5) (s : BitVec 3) (o : BitVec 2)
  /-- AMO_AND (R127). Atomic AND returning the old value. -/
  | amoAnd (d a b : BitVec 5) (s : BitVec 3) (o : BitVec 2)
  /-- AMO_OR (R127). Atomic OR returning the old value. -/
  | amoOr (d a b : BitVec 5) (s : BitVec 3) (o : BitVec 2)
  /-- AMO_XOR (R127). Atomic XOR returning the old value. -/
  | amoXor (d a b : BitVec 5) (s : BitVec 3) (o : BitVec 2)
  /-- AMO_MIN (R127). Atomic signed minimum. -/
  | amoMin (d a b : BitVec 5) (s : BitVec 3) (o : BitVec 2)
  /-- AMO_MAX (R127). Atomic signed maximum. -/
  | amoMax (d a b : BitVec 5) (s : BitVec 3) (o : BitVec 2)
  /-- AMO_MINU (R127). Atomic unsigned minimum. -/
  | amoMinu (d a b : BitVec 5) (s : BitVec 3) (o : BitVec 2)
  /-- AMO_MAXU (R127). Atomic unsigned maximum. -/
  | amoMaxu (d a b : BitVec 5) (s : BitVec 3) (o : BitVec 2)
  /-- AMO_FADD (R127). Atomic FP64 add rounded RNE. -/
  | amoFadd (d a b : BitVec 5) (s : BitVec 3) (o : BitVec 2)
  /-- AMO_CAS (R128). Compare-and-swap with new value in rd and expected in rb. -/
  | amoCas (d a b : BitVec 5) (s : BitVec 3) (o : BitVec 2)
  /-- RED_ADD (R129). Non-returning add at the home. -/
  | redAdd (w : BitVec 1) (a b : BitVec 5) (s : BitVec 3) (o : BitVec 2)
  /-- RED_AND (R129). Non-returning AND. -/
  | redAnd (w : BitVec 1) (a b : BitVec 5) (s : BitVec 3) (o : BitVec 2)
  /-- RED_OR (R129). Non-returning OR. -/
  | redOr (w : BitVec 1) (a b : BitVec 5) (s : BitVec 3) (o : BitVec 2)
  /-- RED_XOR (R129). Non-returning XOR. -/
  | redXor (w : BitVec 1) (a b : BitVec 5) (s : BitVec 3) (o : BitVec 2)
  /-- RED_MIN (R129). Non-returning signed minimum. -/
  | redMin (w : BitVec 1) (a b : BitVec 5) (s : BitVec 3) (o : BitVec 2)
  /-- RED_MAX (R129). Non-returning signed maximum. -/
  | redMax (w : BitVec 1) (a b : BitVec 5) (s : BitVec 3) (o : BitVec 2)
  /-- RED_MINU (R129). Non-returning unsigned minimum. -/
  | redMinu (w : BitVec 1) (a b : BitVec 5) (s : BitVec 3) (o : BitVec 2)
  /-- RED_MAXU (R129). Non-returning unsigned maximum. -/
  | redMaxu (w : BitVec 1) (a b : BitVec 5) (s : BitVec 3) (o : BitVec 2)
  /-- RED_FADD (R129). Non-returning float add in FP64 or FP32. -/
  | redFadd (w : BitVec 1) (a b : BitVec 5) (s : BitVec 3) (o : BitVec 2)
  /-- RED_FMIN (R129). Non-returning float minimum. -/
  | redFmin (w : BitVec 1) (a b : BitVec 5) (s : BitVec 3) (o : BitVec 2)
  /-- RED_FMAX (R129). Non-returning float maximum. -/
  | redFmax (w : BitVec 1) (a b : BitVec 5) (s : BitVec 3) (o : BitVec 2)
  /-- GARRIVE (R149). Posts an arrival to a group phase. -/
  | garrive (d a : BitVec 5) (s : BitVec 3) (o : BitVec 2)
  /-- GWAIT (R149). Waits for the phase in which the task's arrival counted. -/
  | gwait (d a : BitVec 5) (s : BitVec 3) (o : BitVec 2)
  /-- GBAR (R149). Arrives at and waits for a group phase. -/
  | gbar (d a : BitVec 5) (s : BitVec 3) (o : BitVec 2)
  /-- GSET (R150). Sets a group's member count and clears departures. -/
  | gset (d a b : BitVec 5)
  /-- GINFO (R150). Returns a group's counts and phase. -/
  | ginfo (d a : BitVec 5)
  /-- GCOLL (R151). Runs an all-reduce, all-gather or broadcast over a group phase. -/
  | gcoll (d a b : BitVec 5) (s : BitVec 3)
  /-- GALLOC (R150). Allocates the lowest free group entry. -/
  | galloc (d a : BitVec 5)
  /-- GFREE (R150). Frees a group entry. -/
  | gfree (d a : BitVec 5)
  /-- QSEL (R155). Writes QPEER from xa. -/
  | qsel (a : BitVec 5)
  /-- QLEN (R155). Returns a queue's entry count or outbound free space. -/
  | qlen (d : BitVec 5) (q : BitVec 2)
  /-- QPEEK (R155). Returns a queue's head entry without removing it. -/
  | qpeek (d : BitVec 5) (q : BitVec 2)
  /-- SOPEN (R163). Opens a porter stream from a descriptor. -/
  | sopen (d : BitVec 5) (a : BitVec 3) (b : BitVec 4)
  /-- SCLOSE (R164). Ends a porter's stream early. -/
  | sclose (d : BitVec 5) (a : BitVec 3)
  /-- SBAR (R165). Holds until selected streams and copies complete, then acquires. -/
  | sbar (m s : BitVec 3)
  /-- SSTAT (R166). Returns a porter's status word. -/
  | sstat (d : BitVec 5) (a : BitVec 3)
  /-- SLINK (R167). Joins a reading porter directly to a writing porter. -/
  | slink (d : BitVec 5) (a b : BitVec 3)
  /-- COPY (R169). Accepts a copy on a channel and leaves rd pending for its status. -/
  | copy (d a b : BitVec 5) (s : BitVec 3)
  /-- CPFLUSH (R170). Empties the copy template cache. -/
  | cpflush
  /-- CPSTAT (R170). Returns copy engine occupancy. -/
  | cpstat (d : BitVec 5)
  /-- PGLOAD (R172). Checks and configures a page image into a quarter. -/
  | pgload (d : BitVec 5) (q : BitVec 2) (b : BitVec 5)
  /-- PGCAST (R172). Patches and loads a page image into chosen caravan serais. -/
  | pgcast (d a b : BitVec 5)
  /-- PGBIND (R173). Binds a source endpoint to a sink endpoint. -/
  | pgbind (d a b : BitVec 5)
  /-- PGDROP (R174). Drops a page from the page set with its bindings. -/
  | pgdrop (d : BitVec 5) (q : BitVec 2)
  /-- PGSTAT (R175). Returns a quarter's status or weight residency. -/
  | pgstat (d : BitVec 5) (q : BitVec 2)
  /-- WLOAD (R176). Loads a weight tile into a cell bank and makes it weight-resident. -/
  | wload (d : BitVec 5) (m : BitVec 4) (b : BitVec 5)
  /-- WDROP (R177). Ends weight residency of a bank. -/
  | wdrop (d b : BitVec 5)
  /-- WPOKE (R178). Places a directive token into an input portal. -/
  | wpoke (d : BitVec 5) (q : BitVec 2) (b : BitVec 5)
  /-- GLOAD (R179). Checks and loads a grammar image into a context. -/
  | gload (d : BitVec 5) (c : BitVec 2) (b : BitVec 5)
  /-- GSTART (R180). Claims a porter and starts a parse on a context. -/
  | gstart (d : BitVec 5) (c : BitVec 2) (s : BitVec 3)
  /-- GSTOP (R181). Stops a parsing or trapped context. -/
  | gstop (d : BitVec 5) (c : BitVec 2)
  /-- GSTAT (R182). Returns a context's status word. -/
  | gstat (d : BitVec 5) (c : BitVec 2)
  /-- WAITA (R182). Holds until a parsing context stops and drains its actions. -/
  | waita (d : BitVec 5) (c : BitVec 2)
  /-- ACTDONE (R183). Removes a context's unpopped records and releases a held eot. -/
  | actdone (c : BitVec 2)
  /-- SPAWN (R184). Creates a caravan from a template with arguments, groups and watches. -/
  | spawn (d a b : BitVec 5)
  /-- RETIRE (R185). Drains posted writes and ends the task. -/
  | retire
  /-- YIELD (R186). Asks the chrysalis engine to save the caravan to the ready queue. -/
  | yield
  /-- TWATCH (R187). Returns at once on a full word, else saves the caravan watching it. -/
  | twatch (d a : BitVec 5)
  /-- TSTAT (R188). Reports the state of a task. -/
  | tstat (d a : BitVec 5)
  /-- TKILL (R189). Kills the caravan of a task. -/
  | tkill (d a : BitVec 5)
  /-- XGATE (R305). Submits one token's gate list to the round the serai joined. -/
  | xgate (d a b : BitVec 5)
  /-- XTOPK (R303). Opens or joins the round of a micro-batch. -/
  | xtopk (d a b : BitVec 5)
  /-- XBIN (R312). Bins routing records into per-expert counts, offsets and token lists. -/
  | xbin (d a b : BitVec 5)
  /-- XSEND (R313). Sends token rows to the devices of their experts. -/
  | xsend (d a b : BitVec 5)
  /-- XRECV (R314). Opens a receive session for a micro-batch's local experts. -/
  | xrecv (d a b : BitVec 5)
  /-- XBIAS (R311). Builds and flips a new bias version from counts. -/
  | xbias (d a b : BitVec 5)
  /-- XSTAT (R192). Reads the die XDE's state. -/
  | xstat (d a : BitVec 5)
  /-- LIW (R76). Loads a sign-extended 32-bit immediate. -/
  | liw (d : BitVec 5) (i : BitVec 32)
  /-- LIH (R108). Writes the high 32 bits of a register from an immediate. -/
  | lih (d : BitVec 5) (i : BitVec 32)
  /-- AMOC_CAS (R134). Compare-and-swap that queues a continuation launch on success. -/
  | amocCas (d a b : BitVec 5) (s : BitVec 3) (o : BitVec 2) (t : BitVec 10) (g : BitVec 22)
  /-- AMOC_DECZ (R134). Decrement that launches a continuation when the word reaches zero. -/
  | amocDecz (d a : BitVec 5) (s : BitVec 3) (o : BitVec 2) (t : BitVec 10) (g : BitVec 22)
  /-- AMOC_ADDGE (R134). Add that launches a continuation when the word crosses its threshold. -/
  | amocAddge (d a b : BitVec 5) (s : BitVec 3) (o : BitVec 2) (t : BitVec 10) (g : BitVec 22)
  /-- DRAIN_WRITE (R268). A posted write is sent from the post buffer to its home once its conditions hold. -/
  | drainWrite (u q : Nat)
  /-- FORWARD (R268). A relaxed read takes its bytes from a covering older store in the post buffer. -/
  | forward (u q : Nat)
  /-- HIT (R268). A relaxed read is served from the drover data cache. -/
  | hit (u q : Nat)
  /-- SEND_READ (R268). A queued read is sent to its home or remote cache once its conditions hold. -/
  | sendRead (u q : Nat)
  /-- ORDER_POINT (R268). An arrived plain read or write is performed indivisibly at its home and replied to. -/
  | orderPoint (u q : Nat)
  /-- HOME_AMO (R127). An AMO is performed at the home order point by the atomic ALU. -/
  | homeAmo (u q : Nat)
  /-- HOME_RED (R129). A RED is performed at its home, errors going to the fault log. -/
  | homeRed (u q : Nat)
  /-- HOME_CONTINUATION (R133). A continuation atomic reserves a relay or spill slot, updates and decides its launch. -/
  | homeContinuation (u q : Nat)
  /-- HOME_FULL_EMPTY (R140). A full/empty access arrives at its home and is performed or becomes a waiter. -/
  | homeFullEmpty (u q : Nat)
  /-- COMPLETE (R268). A reply reaches the drover and its register becomes ready. -/
  | complete (u q : Nat)
  /-- JUNCTION (R130). A junction combines two relaxed REDs bound for one word. -/
  | junction (u q u2 q2 : Nat)
  /-- REMOTE_CACHE_FILL (R260). The remote cache fills a line from a home reply or serves a present line. -/
  | remoteCacheFill (die : BitVec 3) (u q : Nat)
  /-- REMOTE_CACHE_EVICT (R268). The remote cache evicts a line. -/
  | remoteCacheEvict (die : BitVec 3) (line : Nat)
  /-- REMOTE_CACHE_INVALIDATE (R260). A home's invalidation drops a line from a die's remote cache. -/
  | remoteCacheInvalidate (die : BitVec 3) (line : Nat)
  /-- TRANSLATION_WALK (R250). The walker translates an address through four table levels. -/
  | translationWalk (u : Nat) (va : BitVec 64)
  /-- INBOX_MAP_WRITE (R10). A map write lands in an inbox register, by its arm bit. -/
  | inboxMapWrite (u q : Nat)
  /-- MAILBOX_PUSH (R256). An 8-byte store to a serai's mailbox window pushes an entry. -/
  | mailboxPush (u q : Nat)
  /-- PEER_QUEUE_TRANSFER (R155). The head of an outbound queue moves to the peer's inbound queue when it has room. -/
  | peerQueueTransfer (u : Nat) (peer : BitVec 4)
  /-- INVALIDATE_PAGE (R263). Translation control port store of kind 0 drops one virtual page's translations. -/
  | invalidatePage (u q : Nat)
  /-- INVALIDATE_EXPEDITION (R263). Translation control port store of kind 1 drops an expedition's translations. -/
  | invalidateExpedition (u q : Nat)
  /-- INVALIDATE_ALL (R263). Translation control port store of kind 2 drops every translation. -/
  | invalidateAll (u q : Nat)
  /-- INVALIDATION_PERFORMED (R263). An accepted invalidation is performed once holders, accesses and pins have ended. -/
  | invalidationPerformed
  /-- GROUP_ARRIVAL (R148). An arrival reaches the group's home and may complete the phase. -/
  | groupArrival (u q : Nat)
  /-- GROUP_DEPARTURE (R148). A leaving member's departure reaches the group's home. -/
  | groupDeparture (u : Nat) (m : BitVec 2)
  /-- COLLECTIVE_COMBINE (R153). GCOLL contributions are combined and written to each dst. -/
  | collectiveCombine (e : Nat) (g : BitVec 8)
  /-- OFFSETS_READ (R61). The porter reads the ragged offsets array before its first token. -/
  | offsetsRead (n : BitVec 12) (p : BitVec 3)
  /-- GATHER_ENTRY_READ (R63). The porter reads one gather index entry. -/
  | gatherEntryRead (n : BitVec 12) (p : BitVec 3)
  /-- PORTER_READ (R57). A reading porter performs an access and emits tokens of its walk. -/
  | porterRead (n : BitVec 12) (p : BitVec 3)
  /-- PORTER_WRITE (R65). A writing porter consumes a token and places its lanes in memory. -/
  | porterWrite (n : BitVec 12) (p : BitVec 3)
  /-- STREAM_DRAINED (R164). A draining porter goes idle once its eot has left or its writes are performed. -/
  | streamDrained (n : BitVec 12) (p : BitVec 3)
  /-- COPY_MOVE (R268). A copy channel performs accesses of its oldest accepted copy. -/
  | copyMove (n : BitVec 12) (c : BitVec 1)
  /-- COPY_COMPLETE (R169). A copy writes its status into its token register after its writes are performed. -/
  | copyComplete (n : BitVec 12) (c : BitVec 1)
  /-- WRITE_PACKET_SEND (R367). A remote sink's block of chunks is sent as a write packet. -/
  | writePacketSend (n : BitVec 12) (i : Nat)
  /-- CELL_DATA_FIRING (R196). A cell fires on DATA or POISON heads of its inputs. -/
  | cellDataFiring (n : BitVec 12) (q : BitVec 2) (i : BitVec 6)
  /-- CELL_MARK_STEP (R197). A cell consumes MARK heads, acts and applies its mark policy. -/
  | cellMarkStep (n : BitVec 12) (q : BitVec 2) (i : BitVec 6)
  /-- CELL_SCALE_STEP (R198). A cell handles a SCALE token by its scale policy. -/
  | cellScaleStep (n : BitVec 12) (q : BitVec 2) (i : BitVec 6)
  /-- CELL_DIRECTIVE_STEP (R199). A cell handles a DIRECTIVE token by its directive policy. -/
  | cellDirectiveStep (n : BitVec 12) (q : BitVec 2) (i : BitVec 6)
  /-- CELL_EMIT_NEXT (R196). A cell places the next token of a multi-token result. -/
  | cellEmitNext (n : BitVec 12) (q : BitVec 2) (i : BitVec 6)
  /-- OUTPUT_MOVE (R195). An output register's token moves to all its destinations once they have room. -/
  | outputMove (n : BitVec 12) (q : BitVec 2) (i : BitVec 6) (xv : BitVec 1)
  /-- VEIN_HOP (R194). A token advances one hop along a vein. -/
  | veinHop (n : BitVec 12) (q : BitVec 2) (i : BitVec 6) (d : BitVec 2)
  /-- ROUTE (R221). A router moves tokens by its rmap. -/
  | route (n : BitVec 12) (q : BitVec 2) (i : BitVec 6) (d : BitVec 2)
  /-- FORK (R221). A router copies each token of ina to all its outputs. -/
  | fork (n : BitVec 12) (q : BitVec 2) (i : BitVec 6)
  /-- STEER (R222). A router sends data to true or false outputs by a control token. -/
  | steer (n : BitVec 12) (q : BitVec 2) (i : BitVec 6)
  /-- MERGE (R222). A router takes ina or inb by a control token. -/
  | merge (n : BitVec 12) (q : BitVec 2) (i : BitVec 6)
  /-- CARRY (R223). A router carries loop values between INIT and LOOP states. -/
  | carry (n : BitVec 12) (q : BitVec 2) (i : BitVec 6)
  /-- INV (R223). A router holds an invariant and re-emits it while control is true. -/
  | inv (n : BitVec 12) (q : BitVec 2) (i : BitVec 6)
  /-- ACC_UPDATE (R214). An ACC firing updates a bank slot once its tags allow. -/
  | accUpdate (n : BitVec 12) (q : BitVec 2) (i : BitVec 6)
  /-- WAVE_ORDER_PERFORM (R217). The ordering unit performs the next bank or memory cell operation in wave order. -/
  | waveOrderPerform (n : BitVec 12) (q : BitVec 2) (k : Nat)
  /-- BANK_PORT_ACCESS (R219). A bank port performs one access to its bank. -/
  | bankPortAccess (u q : Nat)
  /-- FIRING_ADMIT (R297). A quarter admits an enabled firing's input tokens. -/
  | firingAdmit (n : BitVec 12) (q : BitVec 2)
  /-- PAGER_CLOSE (R298). The pager chooses a candidate and a victim and closes the victim's quarter. -/
  | pagerClose (n : BitVec 12)
  /-- PAGER_CLOSE_TIMEOUT (R299). A close not quiescent within 4,096 cycles reopens and excludes the page. -/
  | pagerCloseTimeout (n : BitVec 12)
  /-- PAGER_SAVE (R299). On quiescence the victim's state is saved into the page-set store. -/
  | pagerSave (n : BitVec 12)
  /-- PAGER_LOAD (R299). The candidate's image and saved state are configured. -/
  | pagerLoad (n : BitVec 12)
  /-- PAGER_OPEN (R299). Firings are admitted to the newly placed page. -/
  | pagerOpen (n : BitVec 12)
  /-- PAGE_IDLE_EXPIRY (R298). A resident page with no enabled firing for 4,096 cycles counts as having zero waiting tokens. -/
  | pageIdleExpiry (n : BitVec 12) (g : BitVec 8)
  /-- PAGER_EXCLUSION_EXPIRY (R299). A page's 65,536-cycle victim exclusion ends. -/
  | pagerExclusionExpiry (n : BitVec 12) (g : BitVec 8)
  /-- PARSE_STEP (R228). A context expands, matches or pops an action against its lookahead. -/
  | parseStep (n : BitVec 12) (g : BitVec 2)
  /-- CONTEXT_FORWARD (R225). A context forwards one token to its bound sink. -/
  | contextForward (n : BitVec 12) (g : BitVec 2)
  /-- SKIP (R238). Recovery discards one token of the skip. -/
  | skip (n : BitVec 12) (g : BitVec 2)
  /-- RECOVERY_POP (R239). Recovery pops to a qualifying entry and fires onerror. -/
  | recoveryPop (n : BitVec 12) (g : BitVec 2)
  /-- INJECT (R233). An INJECT action places a directive into a quarter's input portal. -/
  | inject (n : BitVec 12) (g : BitVec 2)
  /-- POST (R233). A POST action pushes a record to the action port. -/
  | post (n : BitVec 12) (g : BitVec 2)
  /-- COMMAND (R180). A COMMAND action performs its command-table SOPEN or COPY. -/
  | command (n : BitVec 12) (g : BitVec 2)
  /-- TRAP_ACTION (R233). A TRAP action raises SWTRAP for the task. -/
  | trapAction (n : BitVec 12) (g : BitVec 2)
  /-- LAUNCH_DELIVERY (R136). A queued continuation launch is delivered from its relay or spill slot to the bazaar. -/
  | launchDelivery (slice : BitVec 9) (e : Nat)
  /-- WATCH_REGISTER (R283). The bazaar registers a watch record at a word's home. -/
  | watchRegister (cv : Nat) (i : BitVec 2)
  /-- YIELD_THRESHOLD (R281). A caravan whose members have all been blocked past YIELDTH is yielded. -/
  | yieldThreshold (cv : Nat)
  /-- DISPATCH (R288). The bazaar dispatches the first fitting ready caravan and places its members. -/
  | dispatch (die : BitVec 3)
  /-- RESERVING (R288). A head entry passed over for 65,536 cycles starts reserving. -/
  | reserving (die : BitVec 3)
  /-- AGING (R286). An entry waiting 2^20 cycles rises one priority level. -/
  | aging (cv : Nat)
  /-- SPILL_REFILL (R287). The ready queue refills an entry from the spill area. -/
  | spillRefill (die : BitVec 3) (e : Nat)
  /-- ADVERTISE (R292). Every 4,096 cycles a die advertises its free serais. -/
  | advertise (die : BitVec 3)
  /-- MIGRATION_SEND (R292). A full die sends a ready entry to the die with most room. -/
  | migrationSend (die : BitVec 3)
  /-- MIGRATION_RECEIVE (R292). A die takes a migrated entry into its queue or returns it. -/
  | migrationReceive (die : BitVec 3)
  /-- MODULE_ADVERTISE (R293). Every 65,536 cycles module advertisements travel over Ulied. -/
  | moduleAdvertise (dev : BitVec 9)
  /-- MODULE_MIGRATION (R293). An entry with no die room for 65,536 cycles migrates to another module. -/
  | moduleMigration (die : BitVec 3) (dev : BitVec 9)
  /-- DEADLOCK_PREEMPT (R295). A resident-deadlock count reaching 65,536 pre-empts a pinned caravan. -/
  | deadlockPreempt (die : BitVec 3) (e : Nat)
  /-- SAVE_WALK (R338). The chrysalis engine walks and pins a save slot. -/
  | saveWalk (u : Nat)
  /-- GATING (R338). The serai is gated and its queues are sent or saved. -/
  | gating (u : Nat)
  /-- SAVE_COMMIT (R338). After readout the image header is committed with COMPLETE set. -/
  | saveCommit (u : Nat)
  /-- RESTORE (R340). A checked image is read back into a serai and the serai ungated. -/
  | restore (u : Nat)
  /-- HELD_BANK_WRITEOUT (R290). Held banks are written into their owner's image before a serai is reused. -/
  | heldBankWriteout (n : BitVec 12)
  /-- TRAP_DELIVERY (R321). A trapped task is held and its record delivered to a steward. -/
  | trapDelivery (u : Nat)
  /-- RECORD_TAKE (R323). A steward without a current record takes the next one. -/
  | recordTake (k : BitVec 4)
  /-- AGE (R331). An age counter exceeding AGELIM raises AGE. -/
  | age (n : BitVec 12) (edge : Nat)
  /-- WAITLONG (R333). A wait counter exceeding WAITLIM raises WAITLONG. -/
  | waitlong (n : BitVec 12) (edge : Nat)
  /-- ECC_ERROR (R345). An uncorrectable error becomes poison, a log entry or a fatal kill. -/
  | eccError (site : EccSite)
  /-- SELF_TEST (R346). A unit that erred is self-tested and returned, fenced or replaced. -/
  | selfTest (site : TestUnit) (pass : Bool)
  /-- EXPEDITION_END (R279). An expedition ends when no task or launch of it remains. -/
  | expeditionEnd (e : Nat)
  /-- FLIT_SEND (R350). A link sends a numbered DATA flit and keeps it for replay. -/
  | flitSend (link : BitVec 5)
  /-- DATA_FLIT_RECEIVE (R351). A receiver accepts, discards or NAKs a received flit. -/
  | dataFlitReceive (link : BitVec 5) (flit : List (BitVec 8))
  /-- NAK (R351). A sender receiving a NAK replays from ack+1. -/
  | nak (link : BitVec 5) (flit : List (BitVec 8))
  /-- IDLE (R350). A receiver silent for 256 cycles sends an IDLE flit carrying its ack. -/
  | idle (link : BitVec 5)
  /-- NAK_TIMEOUT (R351). An outstanding NAK is resent after 4,096 cycles. -/
  | nakTimeout (link : BitVec 5)
  /-- REPLAY_TIMEOUT (R351). A flit unacknowledged for 4,096 cycles triggers replay. -/
  | replayTimeout (link : BitVec 5)
  /-- LOSS_OF_LOCK (R352). A PHY loss of lock or four bad flits starts retraining. -/
  | lossOfLock (link : BitVec 5) (lanes : BitVec 16)
  /-- RETRAIN_COMPLETE (R352). Retraining chooses the new width or takes the link down. -/
  | retrainComplete (link : BitVec 5) (good : BitVec 16) (ack : Option (BitVec 12))
  /-- PACKET_FORWARD (R355). A packet for another device is forwarded on its routed link. -/
  | packetForward (link : BitVec 5)
  /-- READ_PACKET (R354). A remote read request is performed at the home. -/
  | readPacket (link : BitVec 5)
  /-- WRITE_PACKET (R367). A remote write packet's chunks are performed and answered with write done. -/
  | writePacket (link : BitVec 5)
  /-- READ_DATA (R354). Read data completes a remote read. -/
  | readData (link : BitVec 5)
  /-- ATOMIC_PACKET (R126). A remote atomic is performed at the receiving module's home. -/
  | atomicPacket (link : BitVec 5)
  /-- ATOMIC_RESULT (R354). An atomic result completes the issuer's register. -/
  | atomicResult (link : BitVec 5)
  /-- WRITE_DONE (R367). A write-done packet marks a packet's writes performed at .sy. -/
  | writeDone (link : BitVec 5)
  /-- ROUND_OPEN (R303). Die 0's XDE opens or joins a micro-batch round and fixes its bias version. -/
  | roundOpen (die : BitVec 3)
  /-- GATE_MERGE (R306). Gate lists of a token merge, and a complete token's record is written. -/
  | gateMerge
  /-- XSEND_ROW_SEND (R313). The XDE sends one row packet for an active entry. -/
  | xsendRowSend (die : BitVec 3)
  /-- XDE_ROW (R314). A receiving XDE answers a row packet with ADMIT or a refusal. -/
  | xdeRow
  /-- XDE_RESPONSE (R317). The sender handles a refusal, retargeting or dropping the copy. -/
  | xdeResponse
  /-- XSEND_FINISH (R316). Once all copies are answered the sender sends FINISH to each reachable device. -/
  | xsendFinish (die : BitVec 3)
  /-- XDE_FINISH (R316). A FINISH packet is counted by sessions, which write their done words when complete. -/
  | xdeFinish
  /-- XBIN_WORK (R312). The XDE writes counts, offsets and token lists and its done word. -/
  | xbinWork (die : BitVec 3)
  /-- XBIAS_BUILD (R311). The XDE builds the new bias version and flips it. -/
  | xbiasBuild
  /-- MIGRATION_PACKET (R292). A migration packet carries a caravan entry to another module. -/
  | migrationPacket (link : BitVec 5)
  /-- ADVERTISEMENT_PACKET (R293). An advertisement packet reports another module's room. -/
  | advertisementPacket (link : BitVec 5)
  /-- FIFO_WRITE (R357). A host 64-byte write to a port window FIFO enqueues one token. -/
  | fifoWrite (port : BitVec 6) (off : Nat) (data : List (BitVec 8))
  /-- PCTL_WRITE (R357). A host write to PCTL sets the port mode and clears its error bits. -/
  | pctlWrite (port : BitVec 6) (v : BitVec 64)
  /-- LAUNCH_STREAM (R358). A LAUNCH stream loads an image, starts the expedition and later writes a completion record. -/
  | launchStream (port : BitVec 6) (plan : LoadPlan)
  /-- FEED (R360). A FEED token enters the named input portal. -/
  | feed (port : BitVec 6)
  /-- FUNCTION_LEVEL_RESET (R360). FLR kills the port's expeditions and empties FIFOs. -/
  | functionLevelReset
  /-- ROUTING_TABLE_WRITE (R357). A host write sets a routing entry, storing 31 for values 18-30. -/
  | routingTableWrite (dev : BitVec 9) (v : BitVec 8)
  /-- DEVID_WRITE (R365). A host write sets DEVID unless an expedition has launched. -/
  | devidWrite (v : BitVec 64)
  /-- POWLIM_WRITE (R365). A host write sets the compute limit, clamped to 400-1,900 W. -/
  | powlimWrite (v : BitVec 64)
  /-- THERM_CLEAR (R365). A host write clears THERM bits written as 1. -/
  | thermClear (v : BitVec 64)
  /-- ATTREQ (R363). A host request writes a signed attestation report. -/
  | attreq (addr : BitVec 64)
  /-- HOST_REGISTER_WRITE (R357). A host write to a BAR0 register with no behaviour of its own stores the value. -/
  | hostRegisterWrite (off : Nat) (v : BitVec 64)
  /-- BOOT (R361). After reset the boot ROM verifies and starts the firmware or enters RECOVERY. -/
  | boot
  /-- RECOVERY_IMAGE (R362). In RECOVERY a firmware image stream is verified and started. -/
  | recoveryImage (image : List (BitVec 8))
  /-- MODULE_RESET (R365). Module reset restores registers and restarts the device. -/
  | moduleReset
  /-- GOVERNOR_WINDOW (R366). The governor limits step energy over each 4,096-cycle window. -/
  | governorWindow (n : BitVec 12) (q : BitVec 2) (i : BitVec 6)
  /-- THROTTLE (R366). A junction at 105 C lowers its die's share until 100 C and sets THROTTLE. -/
  | throttle (die : BitVec 3)
  /-- TRIP (R366). At 115 C every die stops its clocks and TRIP is set. -/
  | trip
  /-- BINDING_TRANSFER (R173). A token moves from a bound source (porter buffer, output portal FIFO or context) to its bound sink, including a portal on another serai over the trade mesh or a mailbox that pushes its payload. -/
  | bindingTransfer (n : BitVec 12) (src : BindSrc)
  /-- THROTTLE_RELEASE (R366). When a throttled die's junction falls to 100 C, the governor restores the die's share. -/
  | throttleRelease (die : BitVec 3)
  deriving DecidableEq, Repr

end Sys2Proof
end

