-- ==== Sys2Proof/WellFormed.lean ====
section
/-!
DEFINITION. Which instructions are well formed: the limits on an instruction's fields that R9, R70 and R73 set, beyond
the widths of the fields. The decoder rejects a word whose instruction breaks one, by the name of the check.
-/

namespace Sys2Proof

/-- Why a word, or a term, is no instruction (R74). -/
inductive Reject where
  /-- Fewer bytes than the instruction has. -/
  | truncated
  /-- An unassigned major opcode (R72). -/
  | unassignedMajor
  /-- An operation index past its family's list (R71, R76). -/
  | indexPastList
  /-- A field that R69, R70, R71 or R73 requires to be zero is not. -/
  | reservedField
  /-- A variant, shift kind, prefetch kind or queue number that names nothing (R70, R72, R155). -/
  | badVariant
  /-- A scope of 5 to 7 (R6, R73). -/
  | badScope
  /-- An order that R73 does not accept. -/
  | badOrder
  /-- pred 7 with neg 1 (R70). -/
  | neverBranch
  /-- A W shift by more than 31 (R70). -/
  | shiftAmount
  /-- A use of x28 to x31 that R9 forbids. -/
  | portUse
  /-- An event that names a link past 17 (R1). -/
  | noLink
  /-- An event whose flit is not 256 bytes (R349). -/
  | badFlit
  deriving DecidableEq, Repr

namespace Check

/-- x30 is no source (R9). -/
def source (r : BitVec 5) : Option Reject := if r.toNat = 30 then some .portUse else none

/-- x28, x29 and x31 are no destinations; x30 takes a result that the drover computes (R9, R105). -/
def resultDst (r : BitVec 5) : Option Reject :=
  if r.toNat = 28 ∨ r.toNat = 29 ∨ r.toNat = 31 then some .portUse else none

/-- A destination that is left pending, or that an engine or group writes, is none of x28 to x31 (R9, R146, R158). -/
def pendingDst (r : BitVec 5) : Option Reject := if 28 ≤ r.toNat then some .portUse else none

/-- Scopes 0 to 4 (R6). -/
def scopeOk (s : BitVec 3) : Option Reject := if 5 ≤ s.toNat then some .badScope else none

/-- The orders that R73 accepts. -/
def orderOk (o : BitVec 2) (l : List (BitVec 2)) : Option Reject := if o ∈ l then none else some .badOrder

/-- A branch never taken is illegal (R70). -/
def neverBranch (n : BitVec 1) (k : BitVec 3) : Option Reject :=
  if n.toNat = 1 ∧ k.toNat = 7 then some .neverBranch else none

/-- A W shift moves by at most 31 (R70). -/
def shiftAmount (w : BitVec 1) (n : BitVec 6) : Option Reject :=
  if w.toNat = 1 ∧ 31 < n.toNat then some .shiftAmount else none

/-- The outbound queue has no head to peek at (R155). -/
def peekQueue (q : BitVec 2) : Option Reject := if q.toNat = 3 then some .badVariant else none

/-- Links 0 to 17 (R1). -/
def linkOk (l : BitVec 5) : Option Reject := if 18 ≤ l.toNat then some .noLink else none

/-- A flit is 256 bytes (R349). -/
def flitOk (f : List (BitVec 8)) : Option Reject := if f.length = 256 then none else some .badFlit

end Check

open Check in
/-- The first check that an instruction fails, if any (R9, R70, R73, R155). -/
def Instr.check : Instr → Option Reject
  | .ill _ => none
  | .add d a b _ => resultDst d <|> source a <|> source b
  | .sub d a b _ => resultDst d <|> source a <|> source b
  | .and d a b => resultDst d <|> source a <|> source b
  | .or d a b => resultDst d <|> source a <|> source b
  | .xor d a b => resultDst d <|> source a <|> source b
  | .andn d a b => resultDst d <|> source a <|> source b
  | .shl d a b _ => resultDst d <|> source a <|> source b
  | .shr d a b _ => resultDst d <|> source a <|> source b
  | .sar d a b _ => resultDst d <|> source a <|> source b
  | .rol d a b _ => resultDst d <|> source a <|> source b
  | .mul d a b _ => resultDst d <|> source a <|> source b
  | .mulh d a b => resultDst d <|> source a <|> source b
  | .mulhu d a b => resultDst d <|> source a <|> source b
  | .div d a b _ => resultDst d <|> source a <|> source b
  | .divu d a b _ => resultDst d <|> source a <|> source b
  | .rem d a b _ => resultDst d <|> source a <|> source b
  | .remu d a b _ => resultDst d <|> source a <|> source b
  | .min d a b _ => resultDst d <|> source a <|> source b
  | .max d a b _ => resultDst d <|> source a <|> source b
  | .minu d a b _ => resultDst d <|> source a <|> source b
  | .maxu d a b _ => resultDst d <|> source a <|> source b
  | .clz d a _ => resultDst d <|> source a
  | .ctz d a _ => resultDst d <|> source a
  | .popc d a _ => resultDst d <|> source a
  | .sextb d a => resultDst d <|> source a
  | .sexth d a => resultDst d <|> source a
  | .sextw d a => resultDst d <|> source a
  | .bswap d a => resultDst d <|> source a
  | .addi d a _ => resultDst d <|> source a
  | .andi d a _ => resultDst d <|> source a
  | .ori d a _ => resultDst d <|> source a
  | .xori d a _ => resultDst d <|> source a
  | .shli d a w n => shiftAmount w n <|> resultDst d <|> source a
  | .shri d a w n => shiftAmount w n <|> resultDst d <|> source a
  | .sari d a w n => shiftAmount w n <|> resultDst d <|> source a
  | .lui d _ => resultDst d
  | .ceq _ a b _ => source a <|> source b
  | .cne _ a b _ => source a <|> source b
  | .clt _ a b _ => source a <|> source b
  | .cltu _ a b _ => source a <|> source b
  | .cle _ a b _ => source a <|> source b
  | .cleu _ a b _ => source a <|> source b
  | .cmpiEq _ a _ => source a
  | .cmpiLt _ a _ => source a
  | .cmpiLtu _ a _ => source a
  | .cmpiLe _ a _ => source a
  | .pand _ _ _ => none
  | .por _ _ _ => none
  | .pxor _ _ _ => none
  | .pandn _ _ _ => none
  | .pnot _ _ => none
  | .pset _ a => source a
  | .pget d _ => resultDst d
  | .sel d a b _ => resultDst d <|> source a <|> source b
  | .fadd d a b _ _ => resultDst d <|> source a <|> source b
  | .fsub d a b _ _ => resultDst d <|> source a <|> source b
  | .fmul d a b _ _ => resultDst d <|> source a <|> source b
  | .fdiv d a b _ _ => resultDst d <|> source a <|> source b
  | .fsqrt d a _ _ => resultDst d <|> source a
  | .fmin d a b _ => resultDst d <|> source a <|> source b
  | .fmax d a b _ => resultDst d <|> source a <|> source b
  | .fma d a b _ _ => pendingDst d <|> source a <|> source b
  | .fcvtif d a _ _ _ _ => resultDst d <|> source a
  | .fcvtfi d a _ _ _ _ => resultDst d <|> source a
  | .fcvtff d a _ _ => resultDst d <|> source a
  | .fceq _ a b _ => source a <|> source b
  | .fclt _ a b _ => source a <|> source b
  | .fcle _ a b _ => source a <|> source b
  | .fclass d a _ => resultDst d <|> source a
  | .ld d a _ _ _ => pendingDst d <|> source a
  | .ldu d a _ _ _ => pendingDst d <|> source a
  | .st d a _ _ _ => source d <|> source a
  | .ldf d a _ _ => pendingDst d <|> source a
  | .ldfe d a _ _ => pendingDst d <|> source a
  | .stef d a _ _ => source d <|> source a
  | .stf d a _ _ => source d <|> source a
  | .sete a _ _ => source a
  | .prefR a _ => source a
  | .prefW a _ => source a
  | .dld _ a b s o => scopeOk s <|> orderOk o [0, 1] <|> source a <|> source b
  | .dst _ a b s o => scopeOk s <|> orderOk o [0, 2] <|> source a <|> source b
  | .br n k _ => neverBranch n k
  | .call n k _ => neverBranch n k
  | .jr a => source a
  | .jalr d a => resultDst d <|> source a
  | .nop => none
  | .trap a => source a
  | .eret => none
  | .fence s o => scopeOk s <|> orderOk o [1, 2, 3]
  | .sleep => none
  | .brk => none
  | .iflush => none
  | .halt => none
  | .mfc d _ => resultDst d
  | .mtc a _ => source a
  | .amoSwap d a b s _ => scopeOk s <|> pendingDst d <|> source a <|> source b
  | .amoAdd d a b s _ => scopeOk s <|> pendingDst d <|> source a <|> source b
  | .amoAnd d a b s _ => scopeOk s <|> pendingDst d <|> source a <|> source b
  | .amoOr d a b s _ => scopeOk s <|> pendingDst d <|> source a <|> source b
  | .amoXor d a b s _ => scopeOk s <|> pendingDst d <|> source a <|> source b
  | .amoMin d a b s _ => scopeOk s <|> pendingDst d <|> source a <|> source b
  | .amoMax d a b s _ => scopeOk s <|> pendingDst d <|> source a <|> source b
  | .amoMinu d a b s _ => scopeOk s <|> pendingDst d <|> source a <|> source b
  | .amoMaxu d a b s _ => scopeOk s <|> pendingDst d <|> source a <|> source b
  | .amoFadd d a b s _ => scopeOk s <|> pendingDst d <|> source a <|> source b
  | .amoCas d a b s _ => scopeOk s <|> pendingDst d <|> source a <|> source b
  | .redAdd _ a b s o => scopeOk s <|> orderOk o [0, 2] <|> source a <|> source b
  | .redAnd _ a b s o => scopeOk s <|> orderOk o [0, 2] <|> source a <|> source b
  | .redOr _ a b s o => scopeOk s <|> orderOk o [0, 2] <|> source a <|> source b
  | .redXor _ a b s o => scopeOk s <|> orderOk o [0, 2] <|> source a <|> source b
  | .redMin _ a b s o => scopeOk s <|> orderOk o [0, 2] <|> source a <|> source b
  | .redMax _ a b s o => scopeOk s <|> orderOk o [0, 2] <|> source a <|> source b
  | .redMinu _ a b s o => scopeOk s <|> orderOk o [0, 2] <|> source a <|> source b
  | .redMaxu _ a b s o => scopeOk s <|> orderOk o [0, 2] <|> source a <|> source b
  | .redFadd _ a b s o => scopeOk s <|> orderOk o [0, 2] <|> source a <|> source b
  | .redFmin _ a b s o => scopeOk s <|> orderOk o [0, 2] <|> source a <|> source b
  | .redFmax _ a b s o => scopeOk s <|> orderOk o [0, 2] <|> source a <|> source b
  | .garrive d a s o => scopeOk s <|> orderOk o [0, 2] <|> pendingDst d <|> source a
  | .gwait d a s o => scopeOk s <|> orderOk o [0, 1] <|> pendingDst d <|> source a
  | .gbar d a s _ => scopeOk s <|> pendingDst d <|> source a
  | .gset d a b => pendingDst d <|> source a <|> source b
  | .ginfo d a => pendingDst d <|> source a
  | .gcoll d a b s => scopeOk s <|> pendingDst d <|> source a <|> source b
  | .galloc d a => pendingDst d <|> source a
  | .gfree d a => pendingDst d <|> source a
  | .qsel a => source a
  | .qlen d _ => resultDst d
  | .qpeek d q => peekQueue q <|> resultDst d
  | .sopen d _ _ => pendingDst d
  | .sclose d _ => pendingDst d
  | .sbar _ s => scopeOk s
  | .sstat d _ => pendingDst d
  | .slink d _ _ => pendingDst d
  | .copy d a b s => scopeOk s <|> pendingDst d <|> source a <|> source b
  | .cpflush => none
  | .cpstat d => pendingDst d
  | .pgload d _ b => pendingDst d <|> source b
  | .pgcast d a b => pendingDst d <|> source a <|> source b
  | .pgbind d a b => pendingDst d <|> source a <|> source b
  | .pgdrop d _ => pendingDst d
  | .pgstat d _ => pendingDst d
  | .wload d _ b => pendingDst d <|> source b
  | .wdrop d b => pendingDst d <|> source b
  | .wpoke d _ b => pendingDst d <|> source b
  | .gload d _ b => pendingDst d <|> source b
  | .gstart d _ _ => pendingDst d
  | .gstop d _ => pendingDst d
  | .gstat d _ => pendingDst d
  | .waita d _ => pendingDst d
  | .actdone _ => none
  | .spawn d a b => pendingDst d <|> source a <|> source b
  | .retire => none
  | .yield => none
  | .twatch d a => pendingDst d <|> source a
  | .tstat d a => pendingDst d <|> source a
  | .tkill d a => pendingDst d <|> source a
  | .xgate d a b => pendingDst d <|> source a <|> source b
  | .xtopk d a b => pendingDst d <|> source a <|> source b
  | .xbin d a b => pendingDst d <|> source a <|> source b
  | .xsend d a b => pendingDst d <|> source a <|> source b
  | .xrecv d a b => pendingDst d <|> source a <|> source b
  | .xbias d a b => pendingDst d <|> source a <|> source b
  | .xstat d a => pendingDst d <|> source a
  | .liw d _ => resultDst d
  | .lih d _ => pendingDst d
  | .amocCas d a b s _ _ _ => scopeOk s <|> pendingDst d <|> source a <|> source b
  | .amocDecz d a s _ _ _ => scopeOk s <|> pendingDst d <|> source a
  | .amocAddge d a b s _ _ _ => scopeOk s <|> pendingDst d <|> source a <|> source b
  | .drainWrite _ _ => none
  | .forward _ _ => none
  | .hit _ _ => none
  | .sendRead _ _ => none
  | .orderPoint _ _ => none
  | .homeAmo _ _ => none
  | .homeRed _ _ => none
  | .homeContinuation _ _ => none
  | .homeFullEmpty _ _ => none
  | .complete _ _ => none
  | .junction _ _ _ _ => none
  | .remoteCacheFill _ _ _ => none
  | .remoteCacheEvict _ _ => none
  | .remoteCacheInvalidate _ _ => none
  | .translationWalk _ _ => none
  | .inboxMapWrite _ _ => none
  | .mailboxPush _ _ => none
  | .peerQueueTransfer _ _ => none
  | .invalidatePage _ _ => none
  | .invalidateExpedition _ _ => none
  | .invalidateAll _ _ => none
  | .invalidationPerformed => none
  | .groupArrival _ _ => none
  | .groupDeparture _ _ => none
  | .collectiveCombine _ _ => none
  | .offsetsRead _ _ => none
  | .gatherEntryRead _ _ => none
  | .porterRead _ _ => none
  | .porterWrite _ _ => none
  | .streamDrained _ _ => none
  | .copyMove _ _ => none
  | .copyComplete _ _ => none
  | .writePacketSend _ _ => none
  | .cellDataFiring _ _ _ => none
  | .cellMarkStep _ _ _ => none
  | .cellScaleStep _ _ _ => none
  | .cellDirectiveStep _ _ _ => none
  | .cellEmitNext _ _ _ => none
  | .outputMove _ _ _ _ => none
  | .veinHop _ _ _ _ => none
  | .route _ _ _ _ => none
  | .fork _ _ _ => none
  | .steer _ _ _ => none
  | .merge _ _ _ => none
  | .carry _ _ _ => none
  | .inv _ _ _ => none
  | .accUpdate _ _ _ => none
  | .waveOrderPerform _ _ _ => none
  | .bankPortAccess _ _ => none
  | .firingAdmit _ _ => none
  | .pagerClose _ => none
  | .pagerCloseTimeout _ => none
  | .pagerSave _ => none
  | .pagerLoad _ => none
  | .pagerOpen _ => none
  | .pageIdleExpiry _ _ => none
  | .pagerExclusionExpiry _ _ => none
  | .parseStep _ _ => none
  | .contextForward _ _ => none
  | .skip _ _ => none
  | .recoveryPop _ _ => none
  | .inject _ _ => none
  | .post _ _ => none
  | .command _ _ => none
  | .trapAction _ _ => none
  | .launchDelivery _ _ => none
  | .watchRegister _ _ => none
  | .yieldThreshold _ => none
  | .dispatch _ => none
  | .reserving _ => none
  | .aging _ => none
  | .spillRefill _ _ => none
  | .advertise _ => none
  | .migrationSend _ => none
  | .migrationReceive _ => none
  | .moduleAdvertise _ => none
  | .moduleMigration _ _ => none
  | .deadlockPreempt _ _ => none
  | .saveWalk _ => none
  | .gating _ => none
  | .saveCommit _ => none
  | .restore _ => none
  | .heldBankWriteout _ => none
  | .trapDelivery _ => none
  | .recordTake _ => none
  | .age _ _ => none
  | .waitlong _ _ => none
  | .eccError _ => none
  | .selfTest _ _ => none
  | .expeditionEnd _ => none
  | .flitSend link => linkOk link
  | .dataFlitReceive link flit => linkOk link <|> flitOk flit
  | .nak link flit => linkOk link <|> flitOk flit
  | .idle link => linkOk link
  | .nakTimeout link => linkOk link
  | .replayTimeout link => linkOk link
  | .lossOfLock link _ => linkOk link
  | .retrainComplete link _ _ => linkOk link
  | .packetForward link => linkOk link
  | .readPacket link => linkOk link
  | .writePacket link => linkOk link
  | .readData link => linkOk link
  | .atomicPacket link => linkOk link
  | .atomicResult link => linkOk link
  | .writeDone link => linkOk link
  | .roundOpen _ => none
  | .gateMerge => none
  | .xsendRowSend _ => none
  | .xdeRow => none
  | .xdeResponse => none
  | .xsendFinish _ => none
  | .xdeFinish => none
  | .xbinWork _ => none
  | .xbiasBuild => none
  | .migrationPacket link => linkOk link
  | .advertisementPacket link => linkOk link
  | .fifoWrite _ _ _ => none
  | .pctlWrite _ _ => none
  | .launchStream _ _ => none
  | .feed _ => none
  | .functionLevelReset => none
  | .routingTableWrite _ _ => none
  | .devidWrite _ => none
  | .powlimWrite _ => none
  | .thermClear _ => none
  | .attreq _ => none
  | .hostRegisterWrite _ _ => none
  | .boot => none
  | .recoveryImage _ => none
  | .moduleReset => none
  | .governorWindow _ _ _ => none
  | .throttle _ => none
  | .trip => none
  | .illegalInstruction _ => none
  | .bindingTransfer _ _ => none
  | .throttleRelease _ => none

/-- A well-formed instruction passes every check. -/
def Instr.wellFormed (i : Instr) : Bool := i.check.isNone

/-- Whether an instruction is one of the machine's steps, which no instruction word encodes. -/
def Instr.isEvent : Instr → Bool
  | .ill _ => false
  | .add _ _ _ _ => false
  | .sub _ _ _ _ => false
  | .and _ _ _ => false
  | .or _ _ _ => false
  | .xor _ _ _ => false
  | .andn _ _ _ => false
  | .shl _ _ _ _ => false
  | .shr _ _ _ _ => false
  | .sar _ _ _ _ => false
  | .rol _ _ _ _ => false
  | .mul _ _ _ _ => false
  | .mulh _ _ _ => false
  | .mulhu _ _ _ => false
  | .div _ _ _ _ => false
  | .divu _ _ _ _ => false
  | .rem _ _ _ _ => false
  | .remu _ _ _ _ => false
  | .min _ _ _ _ => false
  | .max _ _ _ _ => false
  | .minu _ _ _ _ => false
  | .maxu _ _ _ _ => false
  | .clz _ _ _ => false
  | .ctz _ _ _ => false
  | .popc _ _ _ => false
  | .sextb _ _ => false
  | .sexth _ _ => false
  | .sextw _ _ => false
  | .bswap _ _ => false
  | .addi _ _ _ => false
  | .andi _ _ _ => false
  | .ori _ _ _ => false
  | .xori _ _ _ => false
  | .shli _ _ _ _ => false
  | .shri _ _ _ _ => false
  | .sari _ _ _ _ => false
  | .lui _ _ => false
  | .ceq _ _ _ _ => false
  | .cne _ _ _ _ => false
  | .clt _ _ _ _ => false
  | .cltu _ _ _ _ => false
  | .cle _ _ _ _ => false
  | .cleu _ _ _ _ => false
  | .cmpiEq _ _ _ => false
  | .cmpiLt _ _ _ => false
  | .cmpiLtu _ _ _ => false
  | .cmpiLe _ _ _ => false
  | .pand _ _ _ => false
  | .por _ _ _ => false
  | .pxor _ _ _ => false
  | .pandn _ _ _ => false
  | .pnot _ _ => false
  | .pset _ _ => false
  | .pget _ _ => false
  | .sel _ _ _ _ => false
  | .fadd _ _ _ _ _ => false
  | .fsub _ _ _ _ _ => false
  | .fmul _ _ _ _ _ => false
  | .fdiv _ _ _ _ _ => false
  | .fsqrt _ _ _ _ => false
  | .fmin _ _ _ _ => false
  | .fmax _ _ _ _ => false
  | .fma _ _ _ _ _ => false
  | .fcvtif _ _ _ _ _ _ => false
  | .fcvtfi _ _ _ _ _ _ => false
  | .fcvtff _ _ _ _ => false
  | .fceq _ _ _ _ => false
  | .fclt _ _ _ _ => false
  | .fcle _ _ _ _ => false
  | .fclass _ _ _ => false
  | .ld _ _ _ _ _ => false
  | .ldu _ _ _ _ _ => false
  | .st _ _ _ _ _ => false
  | .ldf _ _ _ _ => false
  | .ldfe _ _ _ _ => false
  | .stef _ _ _ _ => false
  | .stf _ _ _ _ => false
  | .sete _ _ _ => false
  | .prefR _ _ => false
  | .prefW _ _ => false
  | .dld _ _ _ _ _ => false
  | .dst _ _ _ _ _ => false
  | .br _ _ _ => false
  | .call _ _ _ => false
  | .jr _ => false
  | .jalr _ _ => false
  | .nop => false
  | .trap _ => false
  | .eret => false
  | .fence _ _ => false
  | .sleep => false
  | .brk => false
  | .iflush => false
  | .halt => false
  | .mfc _ _ => false
  | .mtc _ _ => false
  | .amoSwap _ _ _ _ _ => false
  | .amoAdd _ _ _ _ _ => false
  | .amoAnd _ _ _ _ _ => false
  | .amoOr _ _ _ _ _ => false
  | .amoXor _ _ _ _ _ => false
  | .amoMin _ _ _ _ _ => false
  | .amoMax _ _ _ _ _ => false
  | .amoMinu _ _ _ _ _ => false
  | .amoMaxu _ _ _ _ _ => false
  | .amoFadd _ _ _ _ _ => false
  | .amoCas _ _ _ _ _ => false
  | .redAdd _ _ _ _ _ => false
  | .redAnd _ _ _ _ _ => false
  | .redOr _ _ _ _ _ => false
  | .redXor _ _ _ _ _ => false
  | .redMin _ _ _ _ _ => false
  | .redMax _ _ _ _ _ => false
  | .redMinu _ _ _ _ _ => false
  | .redMaxu _ _ _ _ _ => false
  | .redFadd _ _ _ _ _ => false
  | .redFmin _ _ _ _ _ => false
  | .redFmax _ _ _ _ _ => false
  | .garrive _ _ _ _ => false
  | .gwait _ _ _ _ => false
  | .gbar _ _ _ _ => false
  | .gset _ _ _ => false
  | .ginfo _ _ => false
  | .gcoll _ _ _ _ => false
  | .galloc _ _ => false
  | .gfree _ _ => false
  | .qsel _ => false
  | .qlen _ _ => false
  | .qpeek _ _ => false
  | .sopen _ _ _ => false
  | .sclose _ _ => false
  | .sbar _ _ => false
  | .sstat _ _ => false
  | .slink _ _ _ => false
  | .copy _ _ _ _ => false
  | .cpflush => false
  | .cpstat _ => false
  | .pgload _ _ _ => false
  | .pgcast _ _ _ => false
  | .pgbind _ _ _ => false
  | .pgdrop _ _ => false
  | .pgstat _ _ => false
  | .wload _ _ _ => false
  | .wdrop _ _ => false
  | .wpoke _ _ _ => false
  | .gload _ _ _ => false
  | .gstart _ _ _ => false
  | .gstop _ _ => false
  | .gstat _ _ => false
  | .waita _ _ => false
  | .actdone _ => false
  | .spawn _ _ _ => false
  | .retire => false
  | .yield => false
  | .twatch _ _ => false
  | .tstat _ _ => false
  | .tkill _ _ => false
  | .xgate _ _ _ => false
  | .xtopk _ _ _ => false
  | .xbin _ _ _ => false
  | .xsend _ _ _ => false
  | .xrecv _ _ _ => false
  | .xbias _ _ _ => false
  | .xstat _ _ => false
  | .liw _ _ => false
  | .lih _ _ => false
  | .amocCas _ _ _ _ _ _ _ => false
  | .amocDecz _ _ _ _ _ _ => false
  | .amocAddge _ _ _ _ _ _ _ => false
  | .drainWrite _ _ => true
  | .forward _ _ => true
  | .hit _ _ => true
  | .sendRead _ _ => true
  | .orderPoint _ _ => true
  | .homeAmo _ _ => true
  | .homeRed _ _ => true
  | .homeContinuation _ _ => true
  | .homeFullEmpty _ _ => true
  | .complete _ _ => true
  | .junction _ _ _ _ => true
  | .remoteCacheFill _ _ _ => true
  | .remoteCacheEvict _ _ => true
  | .remoteCacheInvalidate _ _ => true
  | .translationWalk _ _ => true
  | .inboxMapWrite _ _ => true
  | .mailboxPush _ _ => true
  | .peerQueueTransfer _ _ => true
  | .invalidatePage _ _ => true
  | .invalidateExpedition _ _ => true
  | .invalidateAll _ _ => true
  | .invalidationPerformed => true
  | .groupArrival _ _ => true
  | .groupDeparture _ _ => true
  | .collectiveCombine _ _ => true
  | .offsetsRead _ _ => true
  | .gatherEntryRead _ _ => true
  | .porterRead _ _ => true
  | .porterWrite _ _ => true
  | .streamDrained _ _ => true
  | .copyMove _ _ => true
  | .copyComplete _ _ => true
  | .writePacketSend _ _ => true
  | .cellDataFiring _ _ _ => true
  | .cellMarkStep _ _ _ => true
  | .cellScaleStep _ _ _ => true
  | .cellDirectiveStep _ _ _ => true
  | .cellEmitNext _ _ _ => true
  | .outputMove _ _ _ _ => true
  | .veinHop _ _ _ _ => true
  | .route _ _ _ _ => true
  | .fork _ _ _ => true
  | .steer _ _ _ => true
  | .merge _ _ _ => true
  | .carry _ _ _ => true
  | .inv _ _ _ => true
  | .accUpdate _ _ _ => true
  | .waveOrderPerform _ _ _ => true
  | .bankPortAccess _ _ => true
  | .firingAdmit _ _ => true
  | .pagerClose _ => true
  | .pagerCloseTimeout _ => true
  | .pagerSave _ => true
  | .pagerLoad _ => true
  | .pagerOpen _ => true
  | .pageIdleExpiry _ _ => true
  | .pagerExclusionExpiry _ _ => true
  | .parseStep _ _ => true
  | .contextForward _ _ => true
  | .skip _ _ => true
  | .recoveryPop _ _ => true
  | .inject _ _ => true
  | .post _ _ => true
  | .command _ _ => true
  | .trapAction _ _ => true
  | .launchDelivery _ _ => true
  | .watchRegister _ _ => true
  | .yieldThreshold _ => true
  | .dispatch _ => true
  | .reserving _ => true
  | .aging _ => true
  | .spillRefill _ _ => true
  | .advertise _ => true
  | .migrationSend _ => true
  | .migrationReceive _ => true
  | .moduleAdvertise _ => true
  | .moduleMigration _ _ => true
  | .deadlockPreempt _ _ => true
  | .saveWalk _ => true
  | .gating _ => true
  | .saveCommit _ => true
  | .restore _ => true
  | .heldBankWriteout _ => true
  | .trapDelivery _ => true
  | .recordTake _ => true
  | .age _ _ => true
  | .waitlong _ _ => true
  | .eccError _ => true
  | .selfTest _ _ => true
  | .expeditionEnd _ => true
  | .flitSend _ => true
  | .dataFlitReceive _ _ => true
  | .nak _ _ => true
  | .idle _ => true
  | .nakTimeout _ => true
  | .replayTimeout _ => true
  | .lossOfLock _ _ => true
  | .retrainComplete _ _ _ => true
  | .packetForward _ => true
  | .readPacket _ => true
  | .writePacket _ => true
  | .readData _ => true
  | .atomicPacket _ => true
  | .atomicResult _ => true
  | .writeDone _ => true
  | .roundOpen _ => true
  | .gateMerge => true
  | .xsendRowSend _ => true
  | .xdeRow => true
  | .xdeResponse => true
  | .xsendFinish _ => true
  | .xdeFinish => true
  | .xbinWork _ => true
  | .xbiasBuild => true
  | .migrationPacket _ => true
  | .advertisementPacket _ => true
  | .fifoWrite _ _ _ => true
  | .pctlWrite _ _ => true
  | .launchStream _ _ => true
  | .feed _ => true
  | .functionLevelReset => true
  | .routingTableWrite _ _ => true
  | .devidWrite _ => true
  | .powlimWrite _ => true
  | .thermClear _ => true
  | .attreq _ => true
  | .hostRegisterWrite _ _ => true
  | .boot => true
  | .recoveryImage _ => true
  | .moduleReset => true
  | .governorWindow _ _ _ => true
  | .throttle _ => true
  | .trip => true
  | .illegalInstruction _ => false
  | .bindingTransfer _ _ => true
  | .throttleRelease _ => true

end Sys2Proof
end

