-- ==== Sys2Proof/Decode.lean ====
section
/-!
DEFINITION. The decoder: total on any bytes, rejecting by name, from the encoding tables of R68 to R76; and after it the
encoder, written from the same tables.
-/

namespace Sys2Proof

/-! ## Fields -/

/-- The field of `len` bits of a word whose lowest bit is bit `lo`. -/
def fld (w : BitVec 32) (lo len : Nat) : BitVec len := BitVec.ofNat len (w.toNat / 2 ^ lo)

/-- Bit i of a scope field, where an FPU conversion keeps its flags (R71). -/
def bitAt (s : BitVec 3) (i : Nat) : BitVec 1 := BitVec.ofNat 1 (s.toNat / 2 ^ i)

/-- The three conversion flags in fn [10:8] (R71). -/
def join3 (w u p : BitVec 1) : BitVec 3 := BitVec.ofNat 3 (w.toNat * 4 + u.toNat * 2 + p.toNat)

/-! ## A-format families -/

/-- Operation list of major opcode 0x01 (R72), with the fields R69, R71 and R73 require to be zero. -/
def decodeAlu (ix : Nat) (rd ra rb : BitVec 5) (s : BitVec 3) (o : BitVec 2) : Except Reject Instr :=
  match ix with
  | 0 => if s = 0 ∧ o.toNat < 2 then .ok (.add rd ra rb (o.setWidth 1)) else .error .reservedField
  | 1 => if s = 0 ∧ o.toNat < 2 then .ok (.sub rd ra rb (o.setWidth 1)) else .error .reservedField
  | 2 => if s = 0 ∧ o = 0 then .ok (.and rd ra rb) else .error .reservedField
  | 3 => if s = 0 ∧ o = 0 then .ok (.or rd ra rb) else .error .reservedField
  | 4 => if s = 0 ∧ o = 0 then .ok (.xor rd ra rb) else .error .reservedField
  | 5 => if s = 0 ∧ o = 0 then .ok (.andn rd ra rb) else .error .reservedField
  | 6 => if s = 0 ∧ o.toNat < 2 then .ok (.shl rd ra rb (o.setWidth 1)) else .error .reservedField
  | 7 => if s = 0 ∧ o.toNat < 2 then .ok (.shr rd ra rb (o.setWidth 1)) else .error .reservedField
  | 8 => if s = 0 ∧ o.toNat < 2 then .ok (.sar rd ra rb (o.setWidth 1)) else .error .reservedField
  | 9 => if s = 0 ∧ o.toNat < 2 then .ok (.rol rd ra rb (o.setWidth 1)) else .error .reservedField
  | 10 => if s = 0 ∧ o.toNat < 2 then .ok (.mul rd ra rb (o.setWidth 1)) else .error .reservedField
  | 11 => if s = 0 ∧ o = 0 then .ok (.mulh rd ra rb) else .error .reservedField
  | 12 => if s = 0 ∧ o = 0 then .ok (.mulhu rd ra rb) else .error .reservedField
  | 13 => if s = 0 ∧ o.toNat < 2 then .ok (.div rd ra rb (o.setWidth 1)) else .error .reservedField
  | 14 => if s = 0 ∧ o.toNat < 2 then .ok (.divu rd ra rb (o.setWidth 1)) else .error .reservedField
  | 15 => if s = 0 ∧ o.toNat < 2 then .ok (.rem rd ra rb (o.setWidth 1)) else .error .reservedField
  | 16 => if s = 0 ∧ o.toNat < 2 then .ok (.remu rd ra rb (o.setWidth 1)) else .error .reservedField
  | 17 => if s = 0 ∧ o.toNat < 2 then .ok (.min rd ra rb (o.setWidth 1)) else .error .reservedField
  | 18 => if s = 0 ∧ o.toNat < 2 then .ok (.max rd ra rb (o.setWidth 1)) else .error .reservedField
  | 19 => if s = 0 ∧ o.toNat < 2 then .ok (.minu rd ra rb (o.setWidth 1)) else .error .reservedField
  | 20 => if s = 0 ∧ o.toNat < 2 then .ok (.maxu rd ra rb (o.setWidth 1)) else .error .reservedField
  | 21 => if rb = 0 ∧ s = 0 ∧ o.toNat < 2 then .ok (.clz rd ra (o.setWidth 1)) else .error .reservedField
  | 22 => if rb = 0 ∧ s = 0 ∧ o.toNat < 2 then .ok (.ctz rd ra (o.setWidth 1)) else .error .reservedField
  | 23 => if rb = 0 ∧ s = 0 ∧ o.toNat < 2 then .ok (.popc rd ra (o.setWidth 1)) else .error .reservedField
  | 24 => if rb = 0 ∧ s = 0 ∧ o = 0 then .ok (.sextb rd ra) else .error .reservedField
  | 25 => if rb = 0 ∧ s = 0 ∧ o = 0 then .ok (.sexth rd ra) else .error .reservedField
  | 26 => if rb = 0 ∧ s = 0 ∧ o = 0 then .ok (.sextw rd ra) else .error .reservedField
  | 27 => if rb = 0 ∧ s = 0 ∧ o = 0 then .ok (.bswap rd ra) else .error .reservedField
  | _ => .error .indexPastList

/-- Operation list of major opcode 0x08 (R72), with the fields R69, R71 and R73 require to be zero. -/
def decodeCmp (ix : Nat) (rd ra rb : BitVec 5) (s : BitVec 3) (o : BitVec 2) : Except Reject Instr :=
  match ix with
  | 0 => if rd.toNat < 8 ∧ s = 0 ∧ o.toNat < 2 then .ok (.ceq (rd.setWidth 3) ra rb (o.setWidth 1)) else .error .reservedField
  | 1 => if rd.toNat < 8 ∧ s = 0 ∧ o.toNat < 2 then .ok (.cne (rd.setWidth 3) ra rb (o.setWidth 1)) else .error .reservedField
  | 2 => if rd.toNat < 8 ∧ s = 0 ∧ o.toNat < 2 then .ok (.clt (rd.setWidth 3) ra rb (o.setWidth 1)) else .error .reservedField
  | 3 => if rd.toNat < 8 ∧ s = 0 ∧ o.toNat < 2 then .ok (.cltu (rd.setWidth 3) ra rb (o.setWidth 1)) else .error .reservedField
  | 4 => if rd.toNat < 8 ∧ s = 0 ∧ o.toNat < 2 then .ok (.cle (rd.setWidth 3) ra rb (o.setWidth 1)) else .error .reservedField
  | 5 => if rd.toNat < 8 ∧ s = 0 ∧ o.toNat < 2 then .ok (.cleu (rd.setWidth 3) ra rb (o.setWidth 1)) else .error .reservedField
  | _ => .error .indexPastList

/-- Operation list of major opcode 0x0A (R72), with the fields R69, R71 and R73 require to be zero. -/
def decodePred (ix : Nat) (rd ra rb : BitVec 5) (s : BitVec 3) (o : BitVec 2) : Except Reject Instr :=
  match ix with
  | 0 => if rd.toNat < 8 ∧ ra.toNat < 8 ∧ rb.toNat < 8 ∧ s = 0 ∧ o = 0 then .ok (.pand (rd.setWidth 3) (ra.setWidth 3) (rb.setWidth 3)) else .error .reservedField
  | 1 => if rd.toNat < 8 ∧ ra.toNat < 8 ∧ rb.toNat < 8 ∧ s = 0 ∧ o = 0 then .ok (.por (rd.setWidth 3) (ra.setWidth 3) (rb.setWidth 3)) else .error .reservedField
  | 2 => if rd.toNat < 8 ∧ ra.toNat < 8 ∧ rb.toNat < 8 ∧ s = 0 ∧ o = 0 then .ok (.pxor (rd.setWidth 3) (ra.setWidth 3) (rb.setWidth 3)) else .error .reservedField
  | 3 => if rd.toNat < 8 ∧ ra.toNat < 8 ∧ rb.toNat < 8 ∧ s = 0 ∧ o = 0 then .ok (.pandn (rd.setWidth 3) (ra.setWidth 3) (rb.setWidth 3)) else .error .reservedField
  | 4 => if rd.toNat < 8 ∧ ra.toNat < 8 ∧ rb = 0 ∧ s = 0 ∧ o = 0 then .ok (.pnot (rd.setWidth 3) (ra.setWidth 3)) else .error .reservedField
  | 5 => if rd.toNat < 8 ∧ rb = 0 ∧ s = 0 ∧ o = 0 then .ok (.pset (rd.setWidth 3) ra) else .error .reservedField
  | 6 => if ra.toNat < 8 ∧ rb = 0 ∧ s = 0 ∧ o = 0 then .ok (.pget rd (ra.setWidth 3)) else .error .reservedField
  | 7 => if s.toNat < 2 then .ok (.sel rd ra rb (BitVec.ofNat 3 (s.toNat * 4 + o.toNat))) else .error .reservedField
  | _ => .error .indexPastList

/-- Operation list of major opcode 0x0C (R72), with the fields R69, R71 and R73 require to be zero. -/
def decodeFpu (ix : Nat) (rd ra rb : BitVec 5) (s : BitVec 3) (o : BitVec 2) : Except Reject Instr :=
  match ix with
  | 0 => if s.toNat < 2 then .ok (.fadd rd ra rb (s.setWidth 1) o) else .error .reservedField
  | 1 => if s.toNat < 2 then .ok (.fsub rd ra rb (s.setWidth 1) o) else .error .reservedField
  | 2 => if s.toNat < 2 then .ok (.fmul rd ra rb (s.setWidth 1) o) else .error .reservedField
  | 3 => if s.toNat < 2 then .ok (.fdiv rd ra rb (s.setWidth 1) o) else .error .reservedField
  | 4 => if rb = 0 ∧ s.toNat < 2 then .ok (.fsqrt rd ra (s.setWidth 1) o) else .error .reservedField
  | 5 => if s.toNat < 2 ∧ o = 0 then .ok (.fmin rd ra rb (s.setWidth 1)) else .error .reservedField
  | 6 => if s.toNat < 2 ∧ o = 0 then .ok (.fmax rd ra rb (s.setWidth 1)) else .error .reservedField
  | 7 => if s.toNat < 2 then .ok (.fma rd ra rb (s.setWidth 1) o) else .error .reservedField
  | 8 => if rb = 0 then .ok (.fcvtif rd ra (bitAt s 2) (bitAt s 1) (bitAt s 0) o) else .error .reservedField
  | 9 => if rb = 0 then .ok (.fcvtfi rd ra (bitAt s 2) (bitAt s 1) (bitAt s 0) o) else .error .reservedField
  | 10 => if rb = 0 ∧ s.toNat < 2 then .ok (.fcvtff rd ra (s.setWidth 1) o) else .error .reservedField
  | 11 => if rd.toNat < 8 ∧ s.toNat < 2 ∧ o = 0 then .ok (.fceq (rd.setWidth 3) ra rb (s.setWidth 1)) else .error .reservedField
  | 12 => if rd.toNat < 8 ∧ s.toNat < 2 ∧ o = 0 then .ok (.fclt (rd.setWidth 3) ra rb (s.setWidth 1)) else .error .reservedField
  | 13 => if rd.toNat < 8 ∧ s.toNat < 2 ∧ o = 0 then .ok (.fcle (rd.setWidth 3) ra rb (s.setWidth 1)) else .error .reservedField
  | 14 => if rb = 0 ∧ s.toNat < 2 ∧ o = 0 then .ok (.fclass rd ra (s.setWidth 1)) else .error .reservedField
  | _ => .error .indexPastList

/-- Operation list of major opcode 0x16 (R72), with the fields R69, R71 and R73 require to be zero. -/
def decodeDesc (ix : Nat) (rd ra rb : BitVec 5) (s : BitVec 3) (o : BitVec 2) : Except Reject Instr :=
  match ix with
  | 0 => if rd.toNat < 16 then .ok (.dld (rd.setWidth 4) ra rb s o) else .error .reservedField
  | 1 => if rd.toNat < 16 then .ok (.dst (rd.setWidth 4) ra rb s o) else .error .reservedField
  | _ => .error .indexPastList

/-- Operation list of major opcode 0x1A (R72), with the fields R69, R71 and R73 require to be zero. -/
def decodeJump (ix : Nat) (rd ra rb : BitVec 5) (s : BitVec 3) (o : BitVec 2) : Except Reject Instr :=
  match ix with
  | 0 => if rd = 0 ∧ rb = 0 ∧ s = 0 ∧ o = 0 then .ok (.jr ra) else .error .reservedField
  | 1 => if rb = 0 ∧ s = 0 ∧ o = 0 then .ok (.jalr rd ra) else .error .reservedField
  | _ => .error .indexPastList

/-- Operation list of major opcode 0x1C (R72), with the fields R69, R71 and R73 require to be zero. -/
def decodeSys (ix : Nat) (rd ra rb : BitVec 5) (s : BitVec 3) (o : BitVec 2) : Except Reject Instr :=
  match ix with
  | 0 => if rd = 0 ∧ ra = 0 ∧ rb = 0 ∧ s = 0 ∧ o = 0 then .ok .nop else .error .reservedField
  | 1 => if rd = 0 ∧ rb = 0 ∧ s = 0 ∧ o = 0 then .ok (.trap ra) else .error .reservedField
  | 2 => if rd = 0 ∧ ra = 0 ∧ rb = 0 ∧ s = 0 ∧ o = 0 then .ok .eret else .error .reservedField
  | 3 => if rd = 0 ∧ ra = 0 ∧ rb = 0 then .ok (.fence s o) else .error .reservedField
  | 4 => if rd = 0 ∧ ra = 0 ∧ rb = 0 ∧ s = 0 ∧ o = 0 then .ok .sleep else .error .reservedField
  | 5 => if rd = 0 ∧ ra = 0 ∧ rb = 0 ∧ s = 0 ∧ o = 0 then .ok .brk else .error .reservedField
  | 6 => if rd = 0 ∧ ra = 0 ∧ rb = 0 ∧ s = 0 ∧ o = 0 then .ok .iflush else .error .reservedField
  | 7 => if rd = 0 ∧ ra = 0 ∧ rb = 0 ∧ s = 0 ∧ o = 0 then .ok .halt else .error .reservedField
  | _ => .error .indexPastList

/-- Operation list of major opcode 0x20 (R72), with the fields R69, R71 and R73 require to be zero. -/
def decodeAmo (ix : Nat) (rd ra rb : BitVec 5) (s : BitVec 3) (o : BitVec 2) : Except Reject Instr :=
  match ix with
  | 0 => .ok (.amoSwap rd ra rb s o)
  | 1 => .ok (.amoAdd rd ra rb s o)
  | 2 => .ok (.amoAnd rd ra rb s o)
  | 3 => .ok (.amoOr rd ra rb s o)
  | 4 => .ok (.amoXor rd ra rb s o)
  | 5 => .ok (.amoMin rd ra rb s o)
  | 6 => .ok (.amoMax rd ra rb s o)
  | 7 => .ok (.amoMinu rd ra rb s o)
  | 8 => .ok (.amoMaxu rd ra rb s o)
  | 9 => .ok (.amoFadd rd ra rb s o)
  | 10 => .ok (.amoCas rd ra rb s o)
  | _ => .error .indexPastList

/-- Operation list of major opcode 0x21 (R72), with the fields R69, R71 and R73 require to be zero. -/
def decodeRed (ix : Nat) (rd ra rb : BitVec 5) (s : BitVec 3) (o : BitVec 2) : Except Reject Instr :=
  match ix with
  | 0 => if rd.toNat < 2 then .ok (.redAdd (rd.setWidth 1) ra rb s o) else .error .reservedField
  | 1 => if rd.toNat < 2 then .ok (.redAnd (rd.setWidth 1) ra rb s o) else .error .reservedField
  | 2 => if rd.toNat < 2 then .ok (.redOr (rd.setWidth 1) ra rb s o) else .error .reservedField
  | 3 => if rd.toNat < 2 then .ok (.redXor (rd.setWidth 1) ra rb s o) else .error .reservedField
  | 4 => if rd.toNat < 2 then .ok (.redMin (rd.setWidth 1) ra rb s o) else .error .reservedField
  | 5 => if rd.toNat < 2 then .ok (.redMax (rd.setWidth 1) ra rb s o) else .error .reservedField
  | 6 => if rd.toNat < 2 then .ok (.redMinu (rd.setWidth 1) ra rb s o) else .error .reservedField
  | 7 => if rd.toNat < 2 then .ok (.redMaxu (rd.setWidth 1) ra rb s o) else .error .reservedField
  | 8 => if rd.toNat < 2 then .ok (.redFadd (rd.setWidth 1) ra rb s o) else .error .reservedField
  | 9 => if rd.toNat < 2 then .ok (.redFmin (rd.setWidth 1) ra rb s o) else .error .reservedField
  | 10 => if rd.toNat < 2 then .ok (.redFmax (rd.setWidth 1) ra rb s o) else .error .reservedField
  | _ => .error .indexPastList

/-- Operation list of major opcode 0x23 (R72), with the fields R69, R71 and R73 require to be zero. -/
def decodeSync (ix : Nat) (rd ra rb : BitVec 5) (s : BitVec 3) (o : BitVec 2) : Except Reject Instr :=
  match ix with
  | 0 => if rb = 0 then .ok (.garrive rd ra s o) else .error .reservedField
  | 1 => if rb = 0 then .ok (.gwait rd ra s o) else .error .reservedField
  | 2 => if rb = 0 then .ok (.gbar rd ra s o) else .error .reservedField
  | 3 => if s = 0 ∧ o = 0 then .ok (.gset rd ra rb) else .error .reservedField
  | 4 => if rb = 0 ∧ s = 0 ∧ o = 0 then .ok (.ginfo rd ra) else .error .reservedField
  | 5 => if o = 0 then .ok (.gcoll rd ra rb s) else .error .reservedField
  | 6 => if rb = 0 ∧ s = 0 ∧ o = 0 then .ok (.galloc rd ra) else .error .reservedField
  | 7 => if rb = 0 ∧ s = 0 ∧ o = 0 then .ok (.gfree rd ra) else .error .reservedField
  | _ => .error .indexPastList

/-- Operation list of major opcode 0x24 (R72), with the fields R69, R71 and R73 require to be zero. -/
def decodeQ (ix : Nat) (rd ra rb : BitVec 5) (s : BitVec 3) (o : BitVec 2) : Except Reject Instr :=
  match ix with
  | 0 => if rd = 0 ∧ rb = 0 ∧ s = 0 ∧ o = 0 then .ok (.qsel ra) else .error .reservedField
  | 1 => if ra = 0 ∧ rb.toNat < 4 ∧ s = 0 ∧ o = 0 then .ok (.qlen rd (rb.setWidth 2)) else .error .reservedField
  | 2 => if ra = 0 ∧ rb.toNat < 4 ∧ s = 0 ∧ o = 0 then .ok (.qpeek rd (rb.setWidth 2)) else .error .reservedField
  | _ => .error .indexPastList

/-- Operation list of major opcode 0x28 (R72), with the fields R69, R71 and R73 require to be zero. -/
def decodeStrm (ix : Nat) (rd ra rb : BitVec 5) (s : BitVec 3) (o : BitVec 2) : Except Reject Instr :=
  match ix with
  | 0 => if ra.toNat < 8 ∧ rb.toNat < 16 ∧ s = 0 ∧ o = 0 then .ok (.sopen rd (ra.setWidth 3) (rb.setWidth 4)) else .error .reservedField
  | 1 => if ra.toNat < 8 ∧ rb = 0 ∧ s = 0 ∧ o = 0 then .ok (.sclose rd (ra.setWidth 3)) else .error .reservedField
  | 2 => if rd.toNat < 8 ∧ ra = 0 ∧ rb = 0 ∧ o = 0 then .ok (.sbar (rd.setWidth 3) s) else .error .reservedField
  | 3 => if ra.toNat < 8 ∧ rb = 0 ∧ s = 0 ∧ o = 0 then .ok (.sstat rd (ra.setWidth 3)) else .error .reservedField
  | 4 => if ra.toNat < 8 ∧ rb.toNat < 8 ∧ s = 0 ∧ o = 0 then .ok (.slink rd (ra.setWidth 3) (rb.setWidth 3)) else .error .reservedField
  | _ => .error .indexPastList

/-- Operation list of major opcode 0x29 (R72), with the fields R69, R71 and R73 require to be zero. -/
def decodeCopy (ix : Nat) (rd ra rb : BitVec 5) (s : BitVec 3) (o : BitVec 2) : Except Reject Instr :=
  match ix with
  | 0 => if o = 0 then .ok (.copy rd ra rb s) else .error .reservedField
  | 1 => if rd = 0 ∧ ra = 0 ∧ rb = 0 ∧ s = 0 ∧ o = 0 then .ok .cpflush else .error .reservedField
  | 2 => if ra = 0 ∧ rb = 0 ∧ s = 0 ∧ o = 0 then .ok (.cpstat rd) else .error .reservedField
  | _ => .error .indexPastList

/-- Operation list of major opcode 0x2A (R72), with the fields R69, R71 and R73 require to be zero. -/
def decodeWing (ix : Nat) (rd ra rb : BitVec 5) (s : BitVec 3) (o : BitVec 2) : Except Reject Instr :=
  match ix with
  | 0 => if ra.toNat < 4 ∧ s = 0 ∧ o = 0 then .ok (.pgload rd (ra.setWidth 2) rb) else .error .reservedField
  | 1 => if s = 0 ∧ o = 0 then .ok (.pgcast rd ra rb) else .error .reservedField
  | 2 => if s = 0 ∧ o = 0 then .ok (.pgbind rd ra rb) else .error .reservedField
  | 3 => if ra.toNat < 4 ∧ rb = 0 ∧ s = 0 ∧ o = 0 then .ok (.pgdrop rd (ra.setWidth 2)) else .error .reservedField
  | 4 => if ra.toNat < 4 ∧ rb = 0 ∧ s = 0 ∧ o = 0 then .ok (.pgstat rd (ra.setWidth 2)) else .error .reservedField
  | 5 => if ra.toNat < 16 ∧ s = 0 ∧ o = 0 then .ok (.wload rd (ra.setWidth 4) rb) else .error .reservedField
  | 6 => if ra = 0 ∧ s = 0 ∧ o = 0 then .ok (.wdrop rd rb) else .error .reservedField
  | 7 => if ra.toNat < 4 ∧ s = 0 ∧ o = 0 then .ok (.wpoke rd (ra.setWidth 2) rb) else .error .reservedField
  | _ => .error .indexPastList

/-- Operation list of major opcode 0x2B (R72), with the fields R69, R71 and R73 require to be zero. -/
def decodeGram (ix : Nat) (rd ra rb : BitVec 5) (s : BitVec 3) (o : BitVec 2) : Except Reject Instr :=
  match ix with
  | 0 => if ra.toNat < 4 ∧ s = 0 ∧ o = 0 then .ok (.gload rd (ra.setWidth 2) rb) else .error .reservedField
  | 1 => if ra.toNat < 4 ∧ rb.toNat < 8 ∧ s = 0 ∧ o = 0 then .ok (.gstart rd (ra.setWidth 2) (rb.setWidth 3)) else .error .reservedField
  | 2 => if ra.toNat < 4 ∧ rb = 0 ∧ s = 0 ∧ o = 0 then .ok (.gstop rd (ra.setWidth 2)) else .error .reservedField
  | 3 => if ra.toNat < 4 ∧ rb = 0 ∧ s = 0 ∧ o = 0 then .ok (.gstat rd (ra.setWidth 2)) else .error .reservedField
  | 4 => if ra.toNat < 4 ∧ rb = 0 ∧ s = 0 ∧ o = 0 then .ok (.waita rd (ra.setWidth 2)) else .error .reservedField
  | 5 => if rd = 0 ∧ ra.toNat < 4 ∧ rb = 0 ∧ s = 0 ∧ o = 0 then .ok (.actdone (ra.setWidth 2)) else .error .reservedField
  | _ => .error .indexPastList

/-- Operation list of major opcode 0x2C (R72), with the fields R69, R71 and R73 require to be zero. -/
def decodeTask (ix : Nat) (rd ra rb : BitVec 5) (s : BitVec 3) (o : BitVec 2) : Except Reject Instr :=
  match ix with
  | 0 => if s = 0 ∧ o = 0 then .ok (.spawn rd ra rb) else .error .reservedField
  | 1 => if rd = 0 ∧ ra = 0 ∧ rb = 0 ∧ s = 0 ∧ o = 0 then .ok .retire else .error .reservedField
  | 2 => if rd = 0 ∧ ra = 0 ∧ rb = 0 ∧ s = 0 ∧ o = 0 then .ok .yield else .error .reservedField
  | 3 => if rb = 0 ∧ s = 0 ∧ o = 0 then .ok (.twatch rd ra) else .error .reservedField
  | 4 => if rb = 0 ∧ s = 0 ∧ o = 0 then .ok (.tstat rd ra) else .error .reservedField
  | 5 => if rb = 0 ∧ s = 0 ∧ o = 0 then .ok (.tkill rd ra) else .error .reservedField
  | _ => .error .indexPastList

/-- Operation list of major opcode 0x2D (R72), with the fields R69, R71 and R73 require to be zero. -/
def decodeXde (ix : Nat) (rd ra rb : BitVec 5) (s : BitVec 3) (o : BitVec 2) : Except Reject Instr :=
  match ix with
  | 0 => if s = 0 ∧ o = 0 then .ok (.xgate rd ra rb) else .error .reservedField
  | 1 => if s = 0 ∧ o = 0 then .ok (.xtopk rd ra rb) else .error .reservedField
  | 2 => if s = 0 ∧ o = 0 then .ok (.xbin rd ra rb) else .error .reservedField
  | 3 => if s = 0 ∧ o = 0 then .ok (.xsend rd ra rb) else .error .reservedField
  | 4 => if s = 0 ∧ o = 0 then .ok (.xrecv rd ra rb) else .error .reservedField
  | 5 => if s = 0 ∧ o = 0 then .ok (.xbias rd ra rb) else .error .reservedField
  | 6 => if rb = 0 ∧ s = 0 ∧ o = 0 then .ok (.xstat rd ra) else .error .reservedField
  | _ => .error .indexPastList

/-! ## The other formats -/

/-- 0x06: the kind in imm16 [7:6], W in [8], the amount in [5:0]; [15:9] zero (R70). -/
def decodeShift (rd ra : BitVec 5) (w : BitVec 32) : Except Reject Instr :=
  if fld w 9 7 = 0 then
    match (fld w 6 2).toNat with
    | 0 => .ok (.shli rd ra (fld w 8 1) (fld w 0 6))
    | 1 => .ok (.shri rd ra (fld w 8 1) (fld w 0 6))
    | 2 => .ok (.sari rd ra (fld w 8 1) (fld w 0 6))
    | _ => .error .badVariant
  else .error .reservedField

/-- 0x09: the kind in rd [4:3], the predicate in rd [2:0] (R109). -/
def decodeCmpi (ra : BitVec 5) (w : BitVec 32) : Except Reject Instr :=
  match (fld w 24 2).toNat with
  | 0 => .ok (.cmpiEq (fld w 21 3) ra (fld w 0 16))
  | 1 => .ok (.cmpiLt (fld w 21 3) ra (fld w 0 16))
  | 2 => .ok (.cmpiLtu (fld w 21 3) ra (fld w 0 16))
  | _ => .ok (.cmpiLe (fld w 21 3) ra (fld w 0 16))

/-- 0x13: LDF and LDFE by ord (R70). -/
def decodeLdf (rd ra : BitVec 5) (z o : BitVec 2) (f : BitVec 12) : Except Reject Instr :=
  match o.toNat with
  | 0 => .ok (.ldf rd ra z f)
  | 1 => .ok (.ldfe rd ra z f)
  | _ => .error .badVariant

/-- 0x14: STEF, STF and SETE by ord; rd of SETE is zero (R70, R101). -/
def decodeStf (rd ra : BitVec 5) (z o : BitVec 2) (f : BitVec 12) : Except Reject Instr :=
  match o.toNat with
  | 0 => .ok (.stef rd ra z f)
  | 1 => .ok (.stf rd ra z f)
  | 2 => if rd = 0 then .ok (.sete ra z f) else .error .reservedField
  | _ => .error .badVariant

/-- 0x15: the prefetch kind in rd; sz and ord zero (R72). -/
def decodePref (rd ra : BitVec 5) (z o : BitVec 2) (f : BitVec 12) : Except Reject Instr :=
  if z = 0 ∧ o = 0 then
    match rd.toNat with
    | 0 => .ok (.prefR ra f)
    | 1 => .ok (.prefW ra f)
    | _ => .error .badVariant
  else .error .reservedField

/-- 0x3F: the operation in sub [5:0], the second word beside it (R76). -/
def decodeExt (rd ra rb : BitVec 5) (s : BitVec 3) (o : BitVec 2) (ix : Nat) (w1 : BitVec 32) : Except Reject Instr :=
  match ix with
  | 0 => if ra = 0 ∧ rb = 0 ∧ s = 0 ∧ o = 0 then .ok (.liw rd w1) else .error .reservedField
  | 1 => if ra = 0 ∧ rb = 0 ∧ s = 0 ∧ o = 0 then .ok (.lih rd w1) else .error .reservedField
  | 2 => .ok (.amocCas rd ra rb s o (fld w1 22 10) (fld w1 0 22))
  | 3 => if rb = 0 then .ok (.amocDecz rd ra s o (fld w1 22 10) (fld w1 0 22)) else .error .reservedField
  | 4 => .ok (.amocAddge rd ra rb s o (fld w1 22 10) (fld w1 0 22))
  | _ => .error .indexPastList

/-- Whether the word opens a two-word instruction: every word of the X format does, whatever its index (R67, R68). -/
def twoWords (w : BitVec 32) : Bool := (fld w 26 6).toNat = 63

/-- The instruction of a word and, for the X format, the word after it (R68, R72), before the checks of R9, R70, R73. -/
def decodeRaw (w w1 : BitVec 32) : Except Reject Instr :=
  let rd := fld w 21 5
  let ra := fld w 16 5
  let rb := fld w 11 5
  let s := fld w 8 3
  let o := fld w 6 2
  let ix := (fld w 0 6).toNat
  let z := fld w 14 2
  let q := fld w 12 2
  let f := fld w 0 12
  let i := fld w 0 16
  match (fld w 26 6).toNat with
  | 0 => .ok (.ill (fld w 0 26))
  | 2 => .ok (.addi rd ra i)
  | 3 => .ok (.andi rd ra i)
  | 4 => .ok (.ori rd ra i)
  | 5 => .ok (.xori rd ra i)
  | 6 => decodeShift rd ra w
  | 7 => if ra = 0 then .ok (.lui rd i) else .error .reservedField
  | 9 => decodeCmpi ra w
  | 16 => .ok (.ld rd ra z q f)
  | 17 => .ok (.ldu rd ra z q f)
  | 18 => .ok (.st rd ra z q f)
  | 19 => decodeLdf rd ra z q f
  | 20 => decodeStf rd ra z q f
  | 21 => decodePref rd ra z q f
  | 24 => .ok (.br (fld w 25 1) (fld w 22 3) (fld w 0 22))
  | 25 => .ok (.call (fld w 25 1) (fld w 22 3) (fld w 0 22))
  | 29 => if ra = 0 ∧ fld w 9 7 = 0 then .ok (.mfc rd (fld w 0 9)) else .error .reservedField
  | 30 => if rd = 0 ∧ fld w 9 7 = 0 then .ok (.mtc ra (fld w 0 9)) else .error .reservedField
  | 63 => decodeExt rd ra rb s o ix w1
  | 1 => decodeAlu ix rd ra rb s o
  | 8 => decodeCmp ix rd ra rb s o
  | 10 => decodePred ix rd ra rb s o
  | 12 => decodeFpu ix rd ra rb s o
  | 22 => decodeDesc ix rd ra rb s o
  | 26 => decodeJump ix rd ra rb s o
  | 28 => decodeSys ix rd ra rb s o
  | 32 => decodeAmo ix rd ra rb s o
  | 33 => decodeRed ix rd ra rb s o
  | 35 => decodeSync ix rd ra rb s o
  | 36 => decodeQ ix rd ra rb s o
  | 40 => decodeStrm ix rd ra rb s o
  | 41 => decodeCopy ix rd ra rb s o
  | 42 => decodeWing ix rd ra rb s o
  | 43 => decodeGram ix rd ra rb s o
  | 44 => decodeTask ix rd ra rb s o
  | 45 => decodeXde ix rd ra rb s o
  | _ => .error .unassignedMajor

/-- The instruction of a word and the word after it, with the checks of R9, R70 and R73. -/
def decodePair (w w1 : BitVec 32) : Except Reject Instr :=
  match decodeRaw w w1 with
  | .error e => .error e
  | .ok i =>
    match i.check with
    | none => .ok i
    | some e => .error e

/-- Decoding a list of words: the instruction and the words after it. -/
def decodeWords : List (BitVec 32) → Except Reject (Instr × List (BitVec 32))
  | [] => .error .truncated
  | w :: rest =>
    if twoWords w then
      match rest with
      | [] => .error .truncated
      | w1 :: rest' => (decodePair w w1).map fun i => (i, rest')
    else (decodePair w 0).map fun i => (i, rest)

/-- The 32-bit word of four bytes, little-endian (R67). -/
def wordOf (b0 b1 b2 b3 : Byte) : BitVec 32 :=
  BitVec.ofNat 32 (b0.toNat + b1.toNat * 2 ^ 8 + b2.toNat * 2 ^ 16 + b3.toNat * 2 ^ 24)

/-- Decoding the bytes at an instruction's address: the instruction and how many bytes it has. Total on any bytes. -/
def decode : List Byte → Except Reject (Instr × Nat)
  | b0 :: b1 :: b2 :: b3 :: rest =>
    let w := wordOf b0 b1 b2 b3
    if twoWords w then
      match rest with
      | c0 :: c1 :: c2 :: c3 :: _ => (decodePair w (wordOf c0 c1 c2 c3)).map fun i => (i, 8)
      | _ => .error .truncated
    else (decodePair w 0).map fun i => (i, 4)
  | _ => .error .truncated

/-- Byte k, little-endian, of a number. -/
def byteOf (w k : Nat) : Byte := BitVec.ofNat 8 (w / 2 ^ (8 * k))

/-- The little-endian bytes of a number. -/
def bytesOf (w n : Nat) : List Byte := (List.range n).map (byteOf w)

/-- What the decoder reads from an instruction whose bits are w, numbered as spec/opcode_table.json numbers them: the
first word lowest; the bits from nbits on are zero up to the longest instruction, eight bytes. -/
def decodeTableWord (nbits w : Nat) : Option Instr :=
  match decode (bytesOf (w % 2 ^ nbits) 8) with
  | .ok (i, _) => some i
  | .error _ => none

/-! ## The encoder -/

/-- An A-format word, or word 0 of an X-format instruction (R68, R76). -/
def packA (op : Nat) (rd ra rb : BitVec 5) (s : BitVec 3) (o : BitVec 2) (ix : Nat) : BitVec 32 :=
  BitVec.ofNat 32 (op * 2 ^ 26 + rd.toNat * 2 ^ 21 + ra.toNat * 2 ^ 16 + rb.toNat * 2 ^ 11 + s.toNat * 2 ^ 8 +
    o.toNat * 2 ^ 6 + ix)

/-- An I-format word (R68). -/
def packI (op : Nat) (rd ra : BitVec 5) (i : BitVec 16) : BitVec 32 :=
  BitVec.ofNat 32 (op * 2 ^ 26 + rd.toNat * 2 ^ 21 + ra.toNat * 2 ^ 16 + i.toNat)

/-- An M-format word (R68). -/
def packM (op : Nat) (rd ra : BitVec 5) (z o : BitVec 2) (f : BitVec 12) : BitVec 32 :=
  BitVec.ofNat 32 (op * 2 ^ 26 + rd.toNat * 2 ^ 21 + ra.toNat * 2 ^ 16 + z.toNat * 2 ^ 14 + o.toNat * 2 ^ 12 + f.toNat)

/-- A B-format word (R68). -/
def packB (op : Nat) (n : BitVec 1) (k : BitVec 3) (f : BitVec 22) : BitVec 32 :=
  BitVec.ofNat 32 (op * 2 ^ 26 + n.toNat * 2 ^ 25 + k.toNat * 2 ^ 22 + f.toNat)

/-- The imm16 of a shift (R70). -/
def packShift (w : BitVec 1) (kind : Nat) (n : BitVec 6) : BitVec 16 :=
  BitVec.ofNat 16 (w.toNat * 2 ^ 8 + kind * 2 ^ 6 + n.toNat)

/-- The rd field of CMPI (R109). -/
def packKind (kind : Nat) (p : BitVec 3) : BitVec 5 := BitVec.ofNat 5 (kind * 8 + p.toNat)

/-- Word 1 of a continuation atomic (R76). -/
def packLaunch (t : BitVec 10) (g : BitVec 22) : BitVec 32 := BitVec.ofNat 32 (t.toNat * 2 ^ 22 + g.toNat)

/-- The words of an instruction (R68 to R76); an event has none. -/
def encode : Instr → List (BitVec 32)
  | .ill x => [BitVec.ofNat 32 x.toNat]
  | .add d a b w => [packA 1 d a b 0 (w.setWidth 2) 0]
  | .sub d a b w => [packA 1 d a b 0 (w.setWidth 2) 1]
  | .and d a b => [packA 1 d a b 0 0 2]
  | .or d a b => [packA 1 d a b 0 0 3]
  | .xor d a b => [packA 1 d a b 0 0 4]
  | .andn d a b => [packA 1 d a b 0 0 5]
  | .shl d a b w => [packA 1 d a b 0 (w.setWidth 2) 6]
  | .shr d a b w => [packA 1 d a b 0 (w.setWidth 2) 7]
  | .sar d a b w => [packA 1 d a b 0 (w.setWidth 2) 8]
  | .rol d a b w => [packA 1 d a b 0 (w.setWidth 2) 9]
  | .mul d a b w => [packA 1 d a b 0 (w.setWidth 2) 10]
  | .mulh d a b => [packA 1 d a b 0 0 11]
  | .mulhu d a b => [packA 1 d a b 0 0 12]
  | .div d a b w => [packA 1 d a b 0 (w.setWidth 2) 13]
  | .divu d a b w => [packA 1 d a b 0 (w.setWidth 2) 14]
  | .rem d a b w => [packA 1 d a b 0 (w.setWidth 2) 15]
  | .remu d a b w => [packA 1 d a b 0 (w.setWidth 2) 16]
  | .min d a b w => [packA 1 d a b 0 (w.setWidth 2) 17]
  | .max d a b w => [packA 1 d a b 0 (w.setWidth 2) 18]
  | .minu d a b w => [packA 1 d a b 0 (w.setWidth 2) 19]
  | .maxu d a b w => [packA 1 d a b 0 (w.setWidth 2) 20]
  | .clz d a w => [packA 1 d a 0 0 (w.setWidth 2) 21]
  | .ctz d a w => [packA 1 d a 0 0 (w.setWidth 2) 22]
  | .popc d a w => [packA 1 d a 0 0 (w.setWidth 2) 23]
  | .sextb d a => [packA 1 d a 0 0 0 24]
  | .sexth d a => [packA 1 d a 0 0 0 25]
  | .sextw d a => [packA 1 d a 0 0 0 26]
  | .bswap d a => [packA 1 d a 0 0 0 27]
  | .addi d a i => [packI 2 d a i]
  | .andi d a i => [packI 3 d a i]
  | .ori d a i => [packI 4 d a i]
  | .xori d a i => [packI 5 d a i]
  | .shli d a w n => [packI 6 d a (packShift w 0 n)]
  | .shri d a w n => [packI 6 d a (packShift w 1 n)]
  | .sari d a w n => [packI 6 d a (packShift w 2 n)]
  | .lui d i => [packI 7 d 0 i]
  | .ceq p a b w => [packA 8 (p.setWidth 5) a b 0 (w.setWidth 2) 0]
  | .cne p a b w => [packA 8 (p.setWidth 5) a b 0 (w.setWidth 2) 1]
  | .clt p a b w => [packA 8 (p.setWidth 5) a b 0 (w.setWidth 2) 2]
  | .cltu p a b w => [packA 8 (p.setWidth 5) a b 0 (w.setWidth 2) 3]
  | .cle p a b w => [packA 8 (p.setWidth 5) a b 0 (w.setWidth 2) 4]
  | .cleu p a b w => [packA 8 (p.setWidth 5) a b 0 (w.setWidth 2) 5]
  | .cmpiEq p a i => [packI 9 (packKind 0 p) a i]
  | .cmpiLt p a i => [packI 9 (packKind 1 p) a i]
  | .cmpiLtu p a i => [packI 9 (packKind 2 p) a i]
  | .cmpiLe p a i => [packI 9 (packKind 3 p) a i]
  | .pand d a b => [packA 10 (d.setWidth 5) (a.setWidth 5) (b.setWidth 5) 0 0 0]
  | .por d a b => [packA 10 (d.setWidth 5) (a.setWidth 5) (b.setWidth 5) 0 0 1]
  | .pxor d a b => [packA 10 (d.setWidth 5) (a.setWidth 5) (b.setWidth 5) 0 0 2]
  | .pandn d a b => [packA 10 (d.setWidth 5) (a.setWidth 5) (b.setWidth 5) 0 0 3]
  | .pnot d a => [packA 10 (d.setWidth 5) (a.setWidth 5) 0 0 0 4]
  | .pset d a => [packA 10 (d.setWidth 5) a 0 0 0 5]
  | .pget d a => [packA 10 d (a.setWidth 5) 0 0 0 6]
  | .sel d a b c => [packA 10 d a b (BitVec.ofNat 3 (c.toNat / 4)) (BitVec.ofNat 2 (c.toNat % 4)) 7]
  | .fadd d a b p r => [packA 12 d a b (p.setWidth 3) r 0]
  | .fsub d a b p r => [packA 12 d a b (p.setWidth 3) r 1]
  | .fmul d a b p r => [packA 12 d a b (p.setWidth 3) r 2]
  | .fdiv d a b p r => [packA 12 d a b (p.setWidth 3) r 3]
  | .fsqrt d a p r => [packA 12 d a 0 (p.setWidth 3) r 4]
  | .fmin d a b p => [packA 12 d a b (p.setWidth 3) 0 5]
  | .fmax d a b p => [packA 12 d a b (p.setWidth 3) 0 6]
  | .fma d a b p r => [packA 12 d a b (p.setWidth 3) r 7]
  | .fcvtif d a w u p r => [packA 12 d a 0 (join3 w u p) r 8]
  | .fcvtfi d a w u p r => [packA 12 d a 0 (join3 w u p) r 9]
  | .fcvtff d a p r => [packA 12 d a 0 (p.setWidth 3) r 10]
  | .fceq d a b p => [packA 12 (d.setWidth 5) a b (p.setWidth 3) 0 11]
  | .fclt d a b p => [packA 12 (d.setWidth 5) a b (p.setWidth 3) 0 12]
  | .fcle d a b p => [packA 12 (d.setWidth 5) a b (p.setWidth 3) 0 13]
  | .fclass d a p => [packA 12 d a 0 (p.setWidth 3) 0 14]
  | .ld d a z o f => [packM 16 d a z o f]
  | .ldu d a z o f => [packM 17 d a z o f]
  | .st d a z o f => [packM 18 d a z o f]
  | .ldf d a z f => [packM 19 d a z 0 f]
  | .ldfe d a z f => [packM 19 d a z 1 f]
  | .stef d a z f => [packM 20 d a z 0 f]
  | .stf d a z f => [packM 20 d a z 1 f]
  | .sete a z f => [packM 20 0 a z 2 f]
  | .prefR a f => [packM 21 0 a 0 0 f]
  | .prefW a f => [packM 21 1 a 0 0 f]
  | .dld d a b s o => [packA 22 (d.setWidth 5) a b s o 0]
  | .dst d a b s o => [packA 22 (d.setWidth 5) a b s o 1]
  | .br n k f => [packB 24 n k f]
  | .call n k f => [packB 25 n k f]
  | .jr a => [packA 26 0 a 0 0 0 0]
  | .jalr d a => [packA 26 d a 0 0 0 1]
  | .nop => [packA 28 0 0 0 0 0 0]
  | .trap a => [packA 28 0 a 0 0 0 1]
  | .eret => [packA 28 0 0 0 0 0 2]
  | .fence s o => [packA 28 0 0 0 s o 3]
  | .sleep => [packA 28 0 0 0 0 0 4]
  | .brk => [packA 28 0 0 0 0 0 5]
  | .iflush => [packA 28 0 0 0 0 0 6]
  | .halt => [packA 28 0 0 0 0 0 7]
  | .mfc d n => [packI 29 d 0 (n.setWidth 16)]
  | .mtc a n => [packI 30 0 a (n.setWidth 16)]
  | .amoSwap d a b s o => [packA 32 d a b s o 0]
  | .amoAdd d a b s o => [packA 32 d a b s o 1]
  | .amoAnd d a b s o => [packA 32 d a b s o 2]
  | .amoOr d a b s o => [packA 32 d a b s o 3]
  | .amoXor d a b s o => [packA 32 d a b s o 4]
  | .amoMin d a b s o => [packA 32 d a b s o 5]
  | .amoMax d a b s o => [packA 32 d a b s o 6]
  | .amoMinu d a b s o => [packA 32 d a b s o 7]
  | .amoMaxu d a b s o => [packA 32 d a b s o 8]
  | .amoFadd d a b s o => [packA 32 d a b s o 9]
  | .amoCas d a b s o => [packA 32 d a b s o 10]
  | .redAdd w a b s o => [packA 33 (w.setWidth 5) a b s o 0]
  | .redAnd w a b s o => [packA 33 (w.setWidth 5) a b s o 1]
  | .redOr w a b s o => [packA 33 (w.setWidth 5) a b s o 2]
  | .redXor w a b s o => [packA 33 (w.setWidth 5) a b s o 3]
  | .redMin w a b s o => [packA 33 (w.setWidth 5) a b s o 4]
  | .redMax w a b s o => [packA 33 (w.setWidth 5) a b s o 5]
  | .redMinu w a b s o => [packA 33 (w.setWidth 5) a b s o 6]
  | .redMaxu w a b s o => [packA 33 (w.setWidth 5) a b s o 7]
  | .redFadd w a b s o => [packA 33 (w.setWidth 5) a b s o 8]
  | .redFmin w a b s o => [packA 33 (w.setWidth 5) a b s o 9]
  | .redFmax w a b s o => [packA 33 (w.setWidth 5) a b s o 10]
  | .garrive d a s o => [packA 35 d a 0 s o 0]
  | .gwait d a s o => [packA 35 d a 0 s o 1]
  | .gbar d a s o => [packA 35 d a 0 s o 2]
  | .gset d a b => [packA 35 d a b 0 0 3]
  | .ginfo d a => [packA 35 d a 0 0 0 4]
  | .gcoll d a b s => [packA 35 d a b s 0 5]
  | .galloc d a => [packA 35 d a 0 0 0 6]
  | .gfree d a => [packA 35 d a 0 0 0 7]
  | .qsel a => [packA 36 0 a 0 0 0 0]
  | .qlen d q => [packA 36 d 0 (q.setWidth 5) 0 0 1]
  | .qpeek d q => [packA 36 d 0 (q.setWidth 5) 0 0 2]
  | .sopen d a b => [packA 40 d (a.setWidth 5) (b.setWidth 5) 0 0 0]
  | .sclose d a => [packA 40 d (a.setWidth 5) 0 0 0 1]
  | .sbar m s => [packA 40 (m.setWidth 5) 0 0 s 0 2]
  | .sstat d a => [packA 40 d (a.setWidth 5) 0 0 0 3]
  | .slink d a b => [packA 40 d (a.setWidth 5) (b.setWidth 5) 0 0 4]
  | .copy d a b s => [packA 41 d a b s 0 0]
  | .cpflush => [packA 41 0 0 0 0 0 1]
  | .cpstat d => [packA 41 d 0 0 0 0 2]
  | .pgload d q b => [packA 42 d (q.setWidth 5) b 0 0 0]
  | .pgcast d a b => [packA 42 d a b 0 0 1]
  | .pgbind d a b => [packA 42 d a b 0 0 2]
  | .pgdrop d q => [packA 42 d (q.setWidth 5) 0 0 0 3]
  | .pgstat d q => [packA 42 d (q.setWidth 5) 0 0 0 4]
  | .wload d m b => [packA 42 d (m.setWidth 5) b 0 0 5]
  | .wdrop d b => [packA 42 d 0 b 0 0 6]
  | .wpoke d q b => [packA 42 d (q.setWidth 5) b 0 0 7]
  | .gload d c b => [packA 43 d (c.setWidth 5) b 0 0 0]
  | .gstart d c s => [packA 43 d (c.setWidth 5) (s.setWidth 5) 0 0 1]
  | .gstop d c => [packA 43 d (c.setWidth 5) 0 0 0 2]
  | .gstat d c => [packA 43 d (c.setWidth 5) 0 0 0 3]
  | .waita d c => [packA 43 d (c.setWidth 5) 0 0 0 4]
  | .actdone c => [packA 43 0 (c.setWidth 5) 0 0 0 5]
  | .spawn d a b => [packA 44 d a b 0 0 0]
  | .retire => [packA 44 0 0 0 0 0 1]
  | .yield => [packA 44 0 0 0 0 0 2]
  | .twatch d a => [packA 44 d a 0 0 0 3]
  | .tstat d a => [packA 44 d a 0 0 0 4]
  | .tkill d a => [packA 44 d a 0 0 0 5]
  | .xgate d a b => [packA 45 d a b 0 0 0]
  | .xtopk d a b => [packA 45 d a b 0 0 1]
  | .xbin d a b => [packA 45 d a b 0 0 2]
  | .xsend d a b => [packA 45 d a b 0 0 3]
  | .xrecv d a b => [packA 45 d a b 0 0 4]
  | .xbias d a b => [packA 45 d a b 0 0 5]
  | .xstat d a => [packA 45 d a 0 0 0 6]
  | .liw d i => [packA 63 d 0 0 0 0 0, i]
  | .lih d i => [packA 63 d 0 0 0 0 1, i]
  | .amocCas d a b s o t g => [packA 63 d a b s o 2, packLaunch t g]
  | .amocDecz d a s o t g => [packA 63 d a 0 s o 3, packLaunch t g]
  | .amocAddge d a b s o t g => [packA 63 d a b s o 4, packLaunch t g]
  | .drainWrite _ _ => []
  | .forward _ _ => []
  | .hit _ _ => []
  | .sendRead _ _ => []
  | .orderPoint _ _ => []
  | .homeAmo _ _ => []
  | .homeRed _ _ => []
  | .homeContinuation _ _ => []
  | .homeFullEmpty _ _ => []
  | .complete _ _ => []
  | .junction _ _ _ _ => []
  | .remoteCacheFill _ _ _ => []
  | .remoteCacheEvict _ _ => []
  | .remoteCacheInvalidate _ _ => []
  | .translationWalk _ _ => []
  | .inboxMapWrite _ _ => []
  | .mailboxPush _ _ => []
  | .peerQueueTransfer _ _ => []
  | .invalidatePage _ _ => []
  | .invalidateExpedition _ _ => []
  | .invalidateAll _ _ => []
  | .invalidationPerformed => []
  | .groupArrival _ _ => []
  | .groupDeparture _ _ => []
  | .collectiveCombine _ _ => []
  | .offsetsRead _ _ => []
  | .gatherEntryRead _ _ => []
  | .porterRead _ _ => []
  | .porterWrite _ _ => []
  | .streamDrained _ _ => []
  | .copyMove _ _ => []
  | .copyComplete _ _ => []
  | .writePacketSend _ _ => []
  | .cellDataFiring _ _ _ => []
  | .cellMarkStep _ _ _ => []
  | .cellScaleStep _ _ _ => []
  | .cellDirectiveStep _ _ _ => []
  | .cellEmitNext _ _ _ => []
  | .outputMove _ _ _ _ => []
  | .veinHop _ _ _ _ => []
  | .route _ _ _ _ => []
  | .fork _ _ _ => []
  | .steer _ _ _ => []
  | .merge _ _ _ => []
  | .carry _ _ _ => []
  | .inv _ _ _ => []
  | .accUpdate _ _ _ => []
  | .waveOrderPerform _ _ _ => []
  | .bankPortAccess _ _ => []
  | .firingAdmit _ _ => []
  | .pagerClose _ => []
  | .pagerCloseTimeout _ => []
  | .pagerSave _ => []
  | .pagerLoad _ => []
  | .pagerOpen _ => []
  | .pageIdleExpiry _ _ => []
  | .pagerExclusionExpiry _ _ => []
  | .parseStep _ _ => []
  | .contextForward _ _ => []
  | .skip _ _ => []
  | .recoveryPop _ _ => []
  | .inject _ _ => []
  | .post _ _ => []
  | .command _ _ => []
  | .trapAction _ _ => []
  | .launchDelivery _ _ => []
  | .watchRegister _ _ => []
  | .yieldThreshold _ => []
  | .dispatch _ => []
  | .reserving _ => []
  | .aging _ => []
  | .spillRefill _ _ => []
  | .advertise _ => []
  | .migrationSend _ => []
  | .migrationReceive _ => []
  | .moduleAdvertise _ => []
  | .moduleMigration _ _ => []
  | .deadlockPreempt _ _ => []
  | .saveWalk _ => []
  | .gating _ => []
  | .saveCommit _ => []
  | .restore _ => []
  | .heldBankWriteout _ => []
  | .trapDelivery _ => []
  | .recordTake _ => []
  | .age _ _ => []
  | .waitlong _ _ => []
  | .eccError _ => []
  | .selfTest _ _ => []
  | .expeditionEnd _ => []
  | .flitSend _ => []
  | .dataFlitReceive _ _ => []
  | .nak _ _ => []
  | .idle _ => []
  | .nakTimeout _ => []
  | .replayTimeout _ => []
  | .lossOfLock _ _ => []
  | .retrainComplete _ _ _ => []
  | .packetForward _ => []
  | .readPacket _ => []
  | .writePacket _ => []
  | .readData _ => []
  | .atomicPacket _ => []
  | .atomicResult _ => []
  | .writeDone _ => []
  | .roundOpen _ => []
  | .gateMerge => []
  | .xsendRowSend _ => []
  | .xdeRow => []
  | .xdeResponse => []
  | .xsendFinish _ => []
  | .xdeFinish => []
  | .xbinWork _ => []
  | .xbiasBuild => []
  | .migrationPacket _ => []
  | .advertisementPacket _ => []
  | .fifoWrite _ _ _ => []
  | .pctlWrite _ _ => []
  | .launchStream _ _ => []
  | .feed _ => []
  | .functionLevelReset => []
  | .routingTableWrite _ _ => []
  | .devidWrite _ => []
  | .powlimWrite _ => []
  | .thermClear _ => []
  | .attreq _ => []
  | .hostRegisterWrite _ _ => []
  | .boot => []
  | .recoveryImage _ => []
  | .moduleReset => []
  | .governorWindow _ _ _ => []
  | .throttle _ => []
  | .trip => []
  | .illegalInstruction _ => []
  | .bindingTransfer _ _ => []
  | .throttleRelease _ => []

end Sys2Proof
end

