-- ==== Sys2Proof/Config.lean ====
section
/-!
DEFINITION. What the spec leaves open about this part: the free values (constants without a body, so that nothing can be
proved of the value they take) and the signature and digest functions named by R361 to R364.
-/

namespace Sys2Proof.Config

/-- The free value number n: a word on which the spec puts no bound (log 6). -/
opaque freeWord : Nat → Word

/-- A free byte of free value number n at offset o: engine region of an image (R336), bytes a failed WLOAD leaves
(R176), contents of cell banks (R14) (log 6). -/
opaque freeByte : Nat → Nat → Byte

/-- Whether the instruction cache still holds a line it has filled (R124 leaves it open): by cycle and line (log 17). -/
opaque icacheKeeps : Nat → Nat → Bool

/-- Whether the template cache still holds a block that memory no longer agrees with (R169, R170 leave it open): by cycle and address
(log 13). -/
opaque templateKeeps : Nat → Nat → Bool

/-- Which entry a full epoch directory evicts (R273 leaves it open): index among its entries, by home and granule (log 76). -/
opaque dirVictim : Nat → Nat → Nat

/-- Which of the differing entries of a run serves a translation (R251): entry index in the run, by run address
(log 18). -/
opaque runEntry : Nat → Nat → Nat

/-- The junction tree of a placement (R49, R153 fix no order of combination): key by which participant i of the
serais given stands in the order, and the place at which step k of the tree combines two neighbours (log 33). -/
opaque junctionKey : List Nat → Nat → Nat

/-- See `junctionKey`. -/
opaque junctionPair : List Nat → Nat → Nat

/-- SHAKE256 with a 32-byte digest (R361, R364), of a byte string (log 19). -/
opaque shake256 : List Byte → List Byte

/-- XMSS-SHAKE256_20_256 verification (R361, R362): public key, message, signature (log 19). -/
opaque xmssVerify : List Byte → List Byte → List Byte → Bool

/-- The device's XMSS signature of a message under the one-time index (R363): 2,820 bytes (log 19). -/
opaque xmssSign : Nat → List Byte → Fin 2820 → Byte

/-- Module power and temperatures as the sensors report them (R365), by cycle (log 21). -/
opaque sensorPower : Nat → Word

/-- See `sensorPower`. -/
opaque sensorTemp : Nat → Word

end Sys2Proof.Config
end

