-- ==== Sys2Proof/Machine/State.lean ====
section
/-!
DEFINITION. The state of the module: everything the spec gives it, as plain data, and State.reset. Each structure's
docstring names the rules that give its fields; INVENTORY.md lists them one by one with their reset values.
-/

namespace Sys2Proof.Machine

/-! ## Tokens and translations -/

/-- A token of 295 bits (R20, R21), and beside them the coordinates that its stream carries for poison and trap records
(R25, R26, R224): level 1 in [11:0], level 2 in [23:12], as the porter's counters stood when it made the token (log 39). -/
structure Token where
  kind : BitVec 3
  level : BitVec 4
  mask : BitVec 32
  payload : BitVec 256
  pos : BitVec 24 := 0
  deriving DecidableEq, Repr

/-- A leaf translation as a holder keeps it (R50, R249, R261): the page in virtual and physical bytes, the device of a
remote page, permissions and attributes. -/
structure Leaf where
  expid : Nat
  vbase : Nat
  size : Nat
  pbase : Nat
  rmt : Bool
  dev : Nat
  canR : Bool
  canW : Bool
  canX : Bool
  user : Bool
  fmt : BitVec 6
  watched : Bool
  tagged : Bool
  replicable : Bool
  deriving DecidableEq, Repr

/-- An error that travels to the first reader of a register (R18, R139): trap cause, TRAPVAL, address of the originating
instruction and the auxiliary word. -/
structure LateErr where
  cause : Nat
  val : Word
  origin : Word
  aux0 : Word
  deriving DecidableEq, Repr

/-! ## The drover's memory accesses (R266 to R268) -/

/-- What an access does at its home. -/
inductive AccKind where
  /-- LD, sign-extended (R114). -/
  | load
  /-- LDU, zero-extended (R114). -/
  | loadU
  /-- One word of a DLD (R117). -/
  | dload
  /-- ST (R114). -/
  | store
  /-- One word of a DST (R117). -/
  | dstore
  /-- LDF (R140). -/
  | ldf
  /-- LDFE (R140). -/
  | ldfe
  /-- STEF (R140). -/
  | stef
  /-- STF (R140). -/
  | stf
  /-- SETE (R140). -/
  | sete
  /-- AMO with its operation index (R127). -/
  | amo (op : Nat)
  /-- AMO.CAS (R128). -/
  | amoCas
  /-- RED with its operation index and width (R129). -/
  | red (op : Nat) (w32 : Bool)
  /-- AMOC.CAS (R134). -/
  | amocCas
  /-- AMOC.DECZ (R134). -/
  | amocDecz
  /-- AMOC.ADDGE (R134). -/
  | amocAddge
  /-- The posted arrival of GARRIVE, or of GBAR when it waits (R149). -/
  | arrive (g : Nat) (waits : Bool)
  /-- The marker of a FENCE (R122). -/
  | fence
  /-- What holds younger accesses until the phase of group g completes that a GWAIT or GBAR with acquire waits for (R149). -/
  | phase (g : Nat)
  deriving DecidableEq, Repr

/-- How far an access has come. -/
inductive Phase where
  /-- In the issue queue or post buffer. -/
  | queued
  /-- On a junction path to its home. -/
  | sent
  /-- A waiter record at its home (R141). -/
  | waiting
  /-- Handed to a steward (R143). -/
  | steward
  /-- Sent to another module (R355), under this tag. -/
  | remote (tag : Nat)
  /-- A RED combined into another drover's in a junction (R130): performed with that one. -/
  | joined (u seq : Nat)
  /-- Performed; the reply is on its way back. -/
  | replied
  deriving DecidableEq, Repr

/-- One access of a drover, or a FENCE marker. Entries of one instruction share `inst`. -/
structure Access where
  seq : Nat
  inst : Nat
  kind : AccKind
  pc : Word
  va : Nat
  pa : Nat
  size : Nat
  leaf : Leaf
  /-- Destination register, or descriptor register of a dload. -/
  rd : Nat
  /-- Word number of a DLD or DST. -/
  word : Nat
  data : Word
  data2 : Word
  acq : Bool
  rel : Bool
  scope : Nat
  tmpl : Nat
  tag : Nat
  phase : Phase
  sentAt : Nat
  reply : Word
  late : Option LateErr
  /-- The line the reply carries for the data cache (R259). -/
  line : Option (BitVec 512)
  /-- The issuer's clock at issue (R271). -/
  clk : SMap Nat
  deriving DecidableEq, Repr

/-! ## The drover -/

/-- What a pending register awaits (R16, R19). -/
inductive Await where
  /-- The access with this sequence number. -/
  | access (seq : Nat)
  /-- A copy: channel and copy number (R169). -/
  | copy (ch : Nat) (id : Nat)
  /-- The completion of a group's phase (R149). -/
  | group (g : Nat)
  /-- A map write into an armed inbox register (R10). -/
  | inbox
  /-- A wait that a steward keeps (R143), by arbiter sequence number and die. -/
  | steward (seq : Nat)
  deriving DecidableEq, Repr

/-- A 64-byte chunk that a reading walk has read in one step and still draws elements from (R276): its number, its bytes, the words
lost to an error with its cause and, for a dead window, its serai and cell as 256 × serai + cell, and whether an element has been drawn
from it. -/
structure ReadChunk where
  chunk : Nat
  bytes : List (BitVec 8)
  lost : BitVec 8
  cause : Nat
  port : Nat
  used : Bool
  deriving DecidableEq, Repr

/-- An instruction that has begun and holds issue (R146, R159, R123, R261, R273). -/
inductive Hold where
  /-- No hold. -/
  | idle
  /-- A TLB miss for an address (R261). -/
  | walk (va : Nat)
  /-- SLEEP (R123). -/
  | sleep
  /-- WLOAD under way (R176, R246): positions of its tile passed, elements read, and the chunks it draws from. -/
  | tile (passed : Nat) (elems : List (Nat × Nat × Nat × Nat)) (got : List ReadChunk)
  /-- SBAR with the streams and copies it selected and its scope (R165). -/
  | sbar (streams copies : List Nat) (scope : Nat)
  /-- Waits for an engine's answer (GCOLL, XTOPK, TWATCH in place). -/
  | waiting
  /-- YIELD waits for the reservation walk (R186). -/
  | yielding
  /-- The answer has come: the result of the held instruction. -/
  | result (w : Word)
  /-- A watched-page access waits for its home's check (R273). -/
  | check (seq : Nat)
  /-- The check of the instruction's access, with this sequence number, has passed. -/
  | checked (seq : Nat)
  deriving DecidableEq, Repr

/-- A trap that has been raised (R321, R325): cause, TRAPPC, TRAPVAL, origin and the cause's words. -/
structure TrapReq where
  cause : Nat
  pc : Word
  val : Word
  origin : Word
  aux0 : Word
  aux1 : Word
  aux2 : Word
  /-- The sink that raised POISON (R329): 0 none, 1 + p a porter, 16 the mailbox, 32 + g a context, 64 + n a copy;
  48 + g names the context of a TRAP action (R233). -/
  sink : Nat := 0
  deriving DecidableEq, Repr

/-- Whether a drover's clock runs. -/
inductive Run where
  /-- Not started: a steward before boot, a task that holds no serai. -/
  | off
  /-- Dispatched; the first instruction issues 64 cycles after (R290). -/
  | starting (since : Nat)
  /-- Issuing. -/
  | running
  /-- Gated by the chrysalis engine (R338). -/
  | gated
  /-- A halted steward (R121). -/
  | halted
  deriving DecidableEq, Repr

/-- An entry of a queue port (R155), with the pushing member and the clock it releases (R156). -/
structure QEntry where
  val : Word
  peer : Nat
  clk : SMap Nat
  deriving DecidableEq, Repr


/-- A release as an acquire meets it (R270, R271): agent, the caravan and die it stood in, scope, and the clock. -/
structure Release where
  agent : Nat
  caravan : Option Nat
  die : Nat
  scope : Nat
  clk : SMap Nat
  deriving DecidableEq, Repr

/-- A member that waits for a phase (R149): task, register, and, where it acquires, the scope. -/
structure PhaseWait where
  u : Nat
  rd : Nat
  acq : Bool
  scope : Nat
  deriving DecidableEq, Repr

/-- A task's own state in a group it belongs to (R147, R149): an arrival not yet waited for, the phase in which it
counted, the wait that has been issued, and, once that phase is complete, its result and what its arrivals released. -/
structure Member where
  arrived : Bool
  phase : Option Nat
  wait : Option PhaseWait
  result : Option Word
  rels : List Release
  freed : Bool
  deriving DecidableEq, Repr

/-- The register files (R8). x28 to x31 hold nothing: they are ports (R9). -/
structure Regs where
  x : Vector Word 32
  p : BitVec 8
  d : Vector (BitVec 1024) 16
  pc : Word
  deriving DecidableEq, Repr

/-- The read-write control registers and counters of R11. -/
structure Ctl where
  fflags : BitVec 5
  qpeer : BitVec 4
  yieldth : BitVec 48
  arm : BitVec 4
  ovr : BitVec 4
  instret : Word
  govhold : Word
  deriving DecidableEq, Repr

/-- The steward registers of R12. -/
structure Stew where
  trapcause : BitVec 8
  trappc : Word
  trapval : Word
  traprec : Word
  ptroot : BitVec 45
  scratch : Word
  deriving DecidableEq, Repr

/-- The scoreboard (R16 to R18): pending scalar registers, late errors, pending and poisoned descriptor registers. -/
structure Board where
  pend : SMap Await
  late : SMap LateErr
  dpend : SMap Nat
  dbad : SMap LateErr
  /-- The clock the completion of a token register releases (R271). -/
  clk : SMap (SMap Nat)
  deriving DecidableEq, Repr

/-- The queue ports (R155). -/
structure Queues where
  mbx : List QEntry
  act : List QEntry
  inq : List QEntry
  outq : SMap (List QEntry)
  deriving DecidableEq, Repr

/-- The drover's side of memory (R259, R261, R266). -/
structure MemSide where
  accs : List Access
  nextSeq : Nat
  nextSent : Nat
  dcache : SMap (BitVec 512)
  icache : SMap (BitVec 512)
  tlb : List Leaf
  deriving DecidableEq, Repr

/-- A drover: that of a task, or a steward core. -/
structure Drover where
  steward : Bool
  /-- Expedition of the task; of the current record for a steward (R324). -/
  exp : Nat
  /-- The serai that holds the task, or the number of the steward core. -/
  core : Option Nat
  run : Run
  regs : Regs
  ctl : Ctl
  stew : Stew
  board : Board
  queues : Queues
  mem : MemSide
  members : SMap Member
  hold : Hold
  /-- Asynchronous traps raised and not yet taken (R322). -/
  async : List TrapReq
  /-- A trap taken and not yet delivered (R321). -/
  trap : Option TrapReq
  /-- Held by a delivered trap (R321). -/
  held : Bool
  /-- The cycle since which the drover has been blocked without interruption, and what it is blocked on (R281), modulo 64: a
  register or port by its number, 32 a hold, 33 an access held behind a FENCE, 34 held by a trap. The quotient is, for a read
  port, how many entries beside one the instruction reads, and for 33 the register of the access. -/
  blockedAt : Option (Nat × Nat)
  /-- Inbox registers that a map write has reached in this cycle: the drover writes them in a later one (R10). -/
  mapNow : BitVec 4
  /-- The happens-before clock (R272, R273): epoch of every agent known. -/
  clk : SMap Nat
  deriving DecidableEq, Repr

/-! ## The serai's engines -/

/-- Position in a descriptor walk (R56, R57): window indexes, what comes next, the open DATA token, and the list
entries read so far. -/
structure Walk where
  ks : List Nat
  /-- Level of the next pass to enter, or one above the level being closed; 0 marks the end. -/
  level : Nat
  /-- True while levels are being closed. -/
  closing : Bool
  /-- The walk has passed its last position. -/
  done : Bool
  offs : List Nat
  offsRead : Bool
  gather : SMap Nat
  gatherNext : Nat
  lanes : Nat
  pay : BitVec 256
  mask : BitVec 32
  /-- Scales of the open token by slot; for a writing walk those latched, with key 2 once a SCALE token has come. -/
  scales : SMap (BitVec 8)
  /-- Origin record of an error met while the open token was read (R345). -/
  bad : Option Word
  /-- Coordinates of the open token's first lane. -/
  first : BitVec 24
  /-- Chunks read and not done with. -/
  got : List ReadChunk
  deriving DecidableEq, Repr

/-- Who has claimed a porter. -/
inductive Claim where
  /-- A parse context (R180). -/
  | context (g : Nat)
  /-- A copy of a channel (R169). -/
  | copy (ch : Nat) (id : Nat)
  deriving DecidableEq, Repr

/-- A 64-byte chunk that a writing stream has filled and not yet performed (R276, R367): where it goes, its 64 bytes, and
for each byte the bits that the stream writes. -/
structure Chunk where
  leaf : Leaf
  /-- The stream or copy that filled it. -/
  sid : Nat
  /-- The stream marks the words it writes full (R163). -/
  setTag : Bool
  va : Nat
  pa : Nat
  bytes : List (BitVec 8)
  bits : List (BitVec 8)
  deriving DecidableEq, Repr

/-- A porter (R15, R163 to R167, R66). -/
structure Porter where
  cond : Nat
  dir : Bool
  setTag : Bool
  scratch : Bool
  sid : Nat
  desc : BitVec 1024
  walk : Walk
  buf : List Token
  /-- Tokens of a step that follow the buffer's tail (marks that close together). -/
  more : List Token
  count : BitVec 32
  fcause : BitVec 8
  oob : Bool
  ragged : Bool
  noscale : Bool
  fmtmix : Bool
  aflags : BitVec 7
  /-- Accesses of the drover with a smaller number precede the stream (R163). -/
  after : Nat
  claim : Option Claim
  /-- The porter joined by SLINK (R167). -/
  link : Option Nat
  passed : Bool
  leaf : Option Leaf
  /-- Tokens are discarded up to MARK 15 (R164). -/
  closing : Bool
  eotDone : Bool
  /-- A POISON record of this sink is outstanding, and tokens counted since (R329). -/
  poisonOut : Bool
  poisonCnt : Nat
  /-- Chunks filled and not yet performed, oldest first, and tags of write packets sent and not answered (R367). -/
  chunks : List Chunk
  packets : List Nat
  clk : SMap Nat
  deriving DecidableEq, Repr

/-- An end of a token path (R161); the task is named by its key, wherever it runs. -/
inductive Ep where
  /-- Porter p of task u. -/
  | porter (u p : Nat)
  /-- Portal i of the page pg of task u. -/
  | portal (u pg i : Nat)
  /-- The mailbox of task u. -/
  | mailbox (u : Nat)
  /-- Context g of task u. -/
  | context (u g : Nat)
  /-- A copy of a channel of task u. -/
  | copy (u ch id : Nat)
  /-- A host ingress port (R360). -/
  | port (i : Nat)
  deriving DecidableEq, Repr

/-- An accepted copy (R169). -/
structure CopyJob where
  id : Nat
  scope : Nat
  setTag : Bool
  srcMem : Bool
  dstMem : Bool
  src : Option Ep
  dst : Option Ep
  desc : BitVec 1024
  walk : Walk
  /-- Pinned translations of the memory end. -/
  pins : List Leaf
  /-- Tokens read from memory and not yet placed. -/
  buf : List Token
  moved : Nat
  rd : Nat
  /-- The status once it is known; the copy then completes (R169). -/
  code : Option Nat
  /-- The source is read and discarded up to its eot (R169). -/
  discard : Bool
  eotDone : Bool
  after : Nat
  /-- Accepted by a COMMAND action of this context (R180). -/
  cmd : Option Nat
  owner : Nat
  pc : Word
  late : Option LateErr
  chunks : List Chunk
  packets : List Nat
  poisonOut : Bool
  poisonCnt : Nat
  clk : SMap Nat
  deriving DecidableEq, Repr

/-- The copy engine (R168 to R170). -/
structure CopyEngine where
  ch : Vector (List CopyJob) 2
  templates : SMap (List (BitVec 8))
  deriving DecidableEq, Repr

/-- An entry of a context's stack (R227). -/
inductive StkEntry where
  /-- A terminal column, the action of its match, the production's lhs. -/
  | term (col : Nat) (act : Option Nat) (lhs : Nat)
  /-- A nonterminal, the action of its derivation, the production's lhs. -/
  | nonterm (n : Nat) (act : Option Nat) (lhs : Nat)
  /-- An action index. -/
  | action (a : Nat)
  deriving DecidableEq, Repr

/-- A fired action: its index and its entry of the action table (R89), as the grammar held it when it fired. -/
structure Fired where
  idx : Nat
  word : Nat
  deriving DecidableEq, Repr

/-- An item of a context's output order (R236). -/
inductive OutItem where
  /-- A forwarded token. -/
  | tok (t : Token)
  /-- The place of a fired INJECT. -/
  | inject
  deriving DecidableEq, Repr

/-- A parse context (R15, R179 to R183, R225 to R240). -/
structure Context where
  cond : Nat
  grammar : Option (List (BitVec 8))
  stack : List StkEntry
  terminals : BitVec 32
  /-- Action FIFO, oldest first. -/
  afifo : List Fired
  /-- Output order not yet delivered; at most one token of it. -/
  out : List OutItem
  porter : Option Nat
  inRun : Bool
  /-- A skip at work (R238): its level and the owner of the mismatch. -/
  skip : Option (Nat × Nat)
  /-- A skip that has ended (R239): its level, or 15 at `eot`, and the owner. -/
  skipMark : Option (Nat × Nat)
  tcause : BitVec 8
  postlost : Bool
  cmdfail : Bool
  holdeot : Bool
  eotheld : Bool
  ctab : List (BitVec 8)
  /-- COMMAND operations not yet complete: stream and copy numbers. -/
  cmds : List Nat
  stopping : Bool
  /-- A TRAP action waits for the trap's handling (R233). -/
  trapWait : Bool
  poisonOut : Bool
  poisonCnt : Nat
  deriving DecidableEq, Repr

/-- A token in a hop or portal FIFO, with the readers that have taken it (R194). -/
structure HopTok where
  tok : Token
  byCell : Bool
  byXv : Bool
  /-- It has reached the far end of its hop; always so in a portal FIFO. -/
  here : Bool
  deriving DecidableEq, Repr

/-- The registers of a cell (R195 to R214). -/
structure Cell where
  out : Option Token
  emit : List Token
  lastMark : BitVec 4
  flags : BitVec 7
  /-- Latched scales by 2 × input + slot (R198). -/
  scales : SMap (BitVec 8)
  poison : Option Word
  acc : Word
  seenNan : Bool
  seenVal : Bool
  segStart : Bool
  /-- ARGMAX and TOPK8: the best pairs, value bits and index (R211). -/
  pairs : List (BitVec 64 × BitVec 32)
  n : BitVec 32
  /-- CIM: position counter, the current block's element bits with their scale, the column accumulators (R213). -/
  k : Nat
  block : List (Option (BitVec 16))
  blockScale : BitVec 8
  accs : List (BitVec 32)
  noWeight : Bool
  krange : Bool
  /-- PACK: the output buffer (R208). -/
  buf : List (BitVec 32)
  /-- ACC: select bit and slot counter (R214). -/
  h : Bool
  slot : Nat
  deriving DecidableEq, Repr

/-- A router's registers (R195, R223). -/
structure Router where
  out : Option Token
  /-- Where the token in `out` goes: directions N E S W and the portal. -/
  dirs : BitVec 4
  portal : Option Nat
  /-- Tokens of the same step that follow `out` to the same destinations (R220). -/
  emit : List Token
  /-- CARRY in LOOP, INV in HELD. -/
  loop : Bool
  held : Option Token
  deriving DecidableEq, Repr

/-- An operation that waits in the wave-order unit (R217). -/
structure WaveOp where
  cell : Nat
  q : Token
  d : Token
  deriving DecidableEq, Repr

/-- A page of a serai's page set (R172, R296): its image and the state that follows it. -/
structure Page where
  cells : List (BitVec 128)
  xvs : List (BitVec 64)
  portals : List (BitVec 64)
  pinned : Bool
  cst : SMap Cell
  xst : SMap Router
  /-- Hop leaving position i in direction d, by 4 × i + d. -/
  hops : SMap (List HopTok)
  fifos : SMap (List HopTok)
  /-- Tokens of each input portal admitted and not consumed (R297). -/
  admitted : SMap Nat
  waves : List WaveOp
  /-- wthis and wsucc of the operation performed last (R217). -/
  lastWave : Nat × Nat
  firings : BitVec 16
  /-- Cause of the poison that the step at work has created, which its quarter keeps (R175); 0 between steps. -/
  made : BitVec 8
  /-- For each portal, the cycle of the last token that entered it, and that token's place in the cycle's order (R178, R236). -/
  entered : SMap (Nat × Nat)
  quarter : Option Nat
  since : Nat
  enabledAt : Nat
  idle : Bool
  excludedAt : Option Nat
  deriving DecidableEq, Repr

/-- The pager of a serai (R298, R299). -/
inductive Pager where
  /-- No placement in progress. -/
  | idle
  /-- Closing the victim's quarter since a cycle. -/
  | closing (q cand victim since : Nat)
  /-- The quarter is free for the candidate, since a cycle. -/
  | saved (q cand since : Nat)
  /-- The candidate is configured, since a cycle. -/
  | loaded (q cand since : Nat)
  deriving DecidableEq, Repr

/-- What a bank holds beside its bytes (R176, R177, R213): residency, the weight-format record, and the scale store:
block exponents, with none for a block recorded as NaN, by 512 × column + block. -/
structure Bank where
  resident : Bool
  fmt : Option (BitVec 6)
  exps : SMap (Option Int)
  deriving DecidableEq, Repr

/-- A counter of the watchdog (R331, R333). -/
structure Age where
  age : Nat
  wait : Nat
  deriving DecidableEq, Repr

/-- A serai (R7): its engines. The drover is the task's. -/
structure Serai where
  porters : Vector Porter 8
  copy : CopyEngine
  ctxs : Vector Context 4
  /-- Context the parse unit last served (R241). -/
  lastCtx : Nat
  pages : SMap Page
  pager : Pager
  banks : SMap Bank
  /-- Number of the next stream or copy. -/
  nextSid : Nat
  /-- Clocks that completed streams and copies release, by the bit of SBAR's mask that selects them (R165, R271). -/
  past : SMap (SMap Nat)
  /-- Cause of the last poison created in each quarter (R175). -/
  qcause : Vector (BitVec 8) 4
  /-- The cycle of the last POST, and its context (R235). -/
  lastPost : Nat × Nat
  /-- The round last joined: micro-batch and number (R305). -/
  joined : Option (Nat × Nat)
  mbxPoisonOut : Bool
  mbxPoisonCnt : Nat
  ages : SMap Age
  deriving DecidableEq, Repr

/-! ## Homes, expeditions, scheduling -/

/-- What waits at a home (R141, R283), with the key and the physical address of its word. -/
inductive Waiter where
  /-- A drover's full/empty access. -/
  | access (word pa u seq : Nat)
  /-- A watch record: entry i of caravan cv. -/
  | watch (word pa cv i : Nat)
  /-- A drover's push at the full mailbox of task m (R256). -/
  | push (m u seq : Nat)
  /-- A full/empty access of a remote module is answered when served (R355): packet. -/
  | remote (word src tag : Nat) (kind : AccKind) (pa size : Nat) (data : Word)
  deriving DecidableEq, Repr

/-- A continuation launch (R133, R136): expedition, template, old value, tag, word, and the clock it releases. -/
structure Launch where
  exp : Nat
  tmpl : Nat
  old : Word
  tag : Nat
  word : Nat
  va : Word
  issuer : Nat
  /-- The cycle in which the atomic was performed. -/
  since : Nat
  clk : SMap Nat
  deriving DecidableEq, Repr

/-- A participant's contribution to a GCOLL (R151 to R153). -/
structure Contribution where
  u : Nat
  rd : Nat
  param : List (BitVec 8)
  deriving DecidableEq, Repr

/-- A group's entry in the group table (R29, R147 to R150). -/
structure Group where
  count : Nat
  arrived : Nat
  phase : BitVec 32
  departed : Nat
  depFlag : Bool
  /-- Members whose departure is deferred to the phase's completion. -/
  deferred : Nat
  /-- Tasks whose arrival is outstanding, with whether they wait. -/
  arrivals : List (Nat × Bool)
  waiters : List PhaseWait
  colls : List Contribution
  /-- The collective of the phase is combined and written; writes to other modules may still be awaited (R154). -/
  combined : Bool
  /-- What the arrivals of the phase release (R271). -/
  rels : List Release
  deriving DecidableEq, Repr

/-- A template entry (R359). -/
structure Template where
  entry : Word
  prio : Nat
  size : Nat
  pinned : Bool
  deriving DecidableEq, Repr

/-- An expedition (R29, R279). -/
structure Expedition where
  templates : SMap Template
  groups : SMap Group
  /-- Slice that homes the group table, and so fixes the start die (R279). -/
  home : Nat
  modules : List Nat
  ptroot : BitVec 45
  spillAddr : Nat
  spillCap : Nat
  /-- Spill entries of launches; caravans spilled are counted by their place. -/
  spill : List Launch
  spillOpen : Bool
  /-- Slices that have sent their record since the spill area last had room (R135). -/
  spillNoted : List Nat
  chrysalis : Nat
  slots : Nat
  flog : Nat
  flogCap : Nat
  ageLim : Nat
  waitLim : Nat
  nextTask : Nat
  port : Option Nat
  key : Word
  ending : Bool
  deriving DecidableEq, Repr

/-- Life-cycle state of a task, with the codes of TSTAT (R188). -/
inductive TaskState where
  /-- 0 -/
  | spawned
  /-- 1 -/
  | watching
  /-- 2 -/
  | ready
  /-- 3 -/
  | dispatched
  /-- 4 -/
  | running
  /-- 5 -/
  | blocked
  /-- 6 -/
  | yielded
  /-- 7 -/
  | retired
  /-- 8 -/
  | killed
  deriving DecidableEq, Repr

/-- A task (R29). Its key is its drover's. -/
structure Task where
  exp : Nat
  taskid : Nat
  caravan : Nat
  index : Nat
  state : TaskState
  args : List Word
  /-- Group ids of memberships 0 to 3. -/
  groups : List (Option Nat)
  departed : Bool
  /-- Image slot that holds the task while it is out of its serai, and whether it is full. -/
  slot : Option Nat
  full : Bool
  /-- The header of its image without the crc, as last written (R337). -/
  header : List (BitVec 8)
  /-- The serai in which its banks are held (R290). -/
  heldAt : Option Nat
  deriving DecidableEq, Repr

/-- Where a caravan stands. -/
inductive Place where
  /-- Watching its words, on a die's bazaar. -/
  | watching (die : Nat)
  /-- In the ready queue of a die. -/
  | queue (die : Nat)
  /-- In the spill area, counted as ready on a die. -/
  | spilled (die : Nat)
  /-- On its serais. -/
  | resident (die : Nat)
  /-- Yielded, out of its serais, not yet ready. -/
  | yielded (die : Nat)
  /-- On its way to another die. -/
  | migrating (die dst : Nat)
  /-- On its way to another module. -/
  | module (dev : Nat)
  /-- All members retired or killed. -/
  | gone
  deriving DecidableEq, Repr

/-- A caravan (R29, R280 to R295). -/
structure Caravan where
  exp : Nat
  tmpl : Nat
  members : List Nat
  pinned : Bool
  prio : Nat
  /-- Readiness time and the input arbiter's order within it (R285). -/
  ready : Nat
  order : Nat
  agedAt : Nat
  /-- In the ready queue, the cycle since which it has been passed over without interruption (R288); on its serais, the cycle
  of its last pre-emption that was refused (R295). -/
  passedAt : Option Nat
  /-- The cycle of its last rise (R286). -/
  rose : Option Nat
  place : Place
  /-- Why it is being saved (R337) and whether it is full. -/
  reason : Option Nat
  /-- Watched words still empty, by entry. -/
  watches : SMap Nat
  hint : Nat
  near : Option Nat
  /-- An event has made it ready while its save still runs. -/
  wake : Bool
  dispatchedAt : Nat
  lastAdvert : Nat
  /-- The module that it came from, by device, and its number there (R279, R293). -/
  origin : Option (Nat × Nat)
  deriving DecidableEq, Repr

/-- A die's bazaar (R284 to R295). -/
structure Bazaar where
  reserving : Option Nat
  /-- The cycle of the last dispatch: one a cycle (R288). -/
  lastDispatch : Option Nat
  advertised : Nat
  advertisedAt : Nat
  migrating : Bool
  /-- Resident-deadlock counts: expedition to the cycle since which the conditions hold. -/
  deadlock : SMap Nat
  arrivals : Nat
  deriving DecidableEq, Repr

/-- The chrysalis engine at work on one task (R338 to R340). -/
inductive Saving where
  /-- Slot walked and pinned, with the translations. -/
  | walked (slot : Nat) (full : Bool) (pins : List Leaf)
  /-- Serai gated, header opened. -/
  | gatedIn (slot : Nat) (full : Bool) (cycle : Nat) (pins : List Leaf)
  /-- A write faulted; waits for ERET of the SAVE record. -/
  | faulted (slot : Nat) (full : Bool)
  deriving DecidableEq, Repr

/-- A trap record (R325) with the task it holds. -/
structure Record where
  task : Option Nat
  caravan : Option Nat
  exp : Nat
  notask : Bool
  fatal : Bool
  defer : Bool
  heldFlag : Bool
  seq : Nat
  die : Nat
  serai : Nat
  req : TrapReq
  /-- The deferred operation: access of a drover, or watch entry of a caravan. -/
  deferAcc : Option Nat
  deferWatch : Option (Nat × Nat)
  /-- Address in steward memory; 0 until it is written there. -/
  addr : Nat
  /-- x1 to x31 pending at capture. -/
  pending : BitVec 32
  /-- Its 512 bytes as captured. -/
  image : List (BitVec 8)
  /-- What its delivery releases (R321). -/
  clk : SMap Nat
  deriving DecidableEq, Repr

/-- The last accesses of a granule (R273): the slice whose directory holds it, the write, and reads since, each with agent,
epoch and class. -/
structure Granule where
  slice : Nat
  write : Option (Nat × Nat × Nat)
  reads : List (Nat × Nat × Nat)
  deriving DecidableEq, Repr

/-- A walk in progress (R250): the die whose walker it is, whose translation, the address, the level whose entry is read next and its
table. -/
structure TableWalk where
  die : Nat
  tag : Nat
  va : Nat
  level : Nat
  table : Nat
  deriving DecidableEq, Repr

/-- The walkers (R250, R261, R262): the leaves of each die's second-level cache, walks in progress, and pages, as die, tag and page
number, whose last walk met an uncorrectable entry. -/
structure Walkers where
  leaves : SMap (List Leaf)
  walks : List TableWalk
  failed : List (Nat × Nat × Nat)
  deriving DecidableEq, Repr

/-- An invalidation that the translation control port has accepted (R263). -/
structure Inval where
  kind : Nat
  exp : Nat
  vpn : Nat
  /-- The store that asked for it. -/
  u : Nat
  seq : Nat
  deriving DecidableEq, Repr

/-! ## The dispatch engine (R303 to R320) -/

/-- One entry of a gate list or merged list: expert, score bits and key bits (R306). -/
structure GateEntry where
  expert : Nat
  score : BitVec 32
  key : BitVec 32
  deriving DecidableEq, Repr

/-- Merging state of a token. -/
structure GateTok where
  got : Nat
  nan : Bool
  list : List GateEntry
  written : Bool
  deriving DecidableEq, Repr

/-- A round of a micro-batch. -/
structure Round where
  /-- Number of this opening among all. -/
  id : Nat
  block : List (BitVec 8)
  slot : Nat
  bver : BitVec 8
  toks : SMap GateTok
  dropNan : Nat
  done : Nat
  closed : Bool
  /-- Its done word, while that waits for the records to be performed (R304). -/
  ending : Option Word
  dies : List Nat
  /-- Its opener, and the opener's expedition. -/
  owner : Nat
  exp : Nat
  clk : SMap Nat
  deriving DecidableEq, Repr

/-- A gate list submitted and not yet merged (R305). -/
structure GateList where
  mb : Nat
  tok : Nat
  nan : Bool
  list : List GateEntry
  deriving DecidableEq, Repr

/-- An XTOPK waiting for die 0's answer (R303). -/
structure OpenReq where
  u : Nat
  exp : Nat
  die : Nat
  mb : Nat
  block : List (BitVec 8)
  done : Nat
  clk : SMap Nat
  deriving DecidableEq, Repr

/-- A receive session (R314). -/
structure Session where
  die : Nat
  mb : Nat
  block : List (BitVec 8)
  desc : BitVec 1024
  admitted : List Nat
  finishes : Nat
  done : Nat
  /-- Status code of a fault met while rows were written (R190). -/
  cut : Option Nat
  /-- Its done word, while that waits for what it covers to be performed (R304). -/
  ending : Option Word
  /-- Its opener, and the opener's expedition. -/
  owner : Nat
  exp : Nat
  clk : SMap Nat
  deriving DecidableEq, Repr

/-- Work accepted by an XDE: XSEND, XBIN or XBIAS. -/
structure XWork where
  op : Nat
  die : Nat
  mb : Nat
  block : List (BitVec 8)
  desc : BitVec 1024
  done : Nat
  /-- XBIN: the records read at acceptance (R312). -/
  recs : List (BitVec 8)
  /-- Status code of a fault that cuts the work short (R190). -/
  cut : Option Nat
  /-- Its done word, while that waits for what it covers to be performed (R304). -/
  ending : Option Word
  /-- XSEND: next token and rank, copies sent and not answered as (device, token, rank), counts and the worst code. -/
  tok : Nat
  rank : Nat
  unanswered : List (Nat × Nat × Nat)
  /-- Copies retargeted and not yet sent again, and all that have been, as (token, rank) (R317). -/
  retarget : List (Nat × Nat)
  alts : List (Nat × Nat)
  admitted : Nat
  dropped : Nat
  code : Nat
  unreachable : Bool
  experts : Nat
  owner : Nat
  exp : Nat
  clk : SMap Nat
  deriving DecidableEq, Repr

/-- A packet (R354). -/
structure Packet where
  ptype : Nat
  err : Nat
  dst : Nat
  src : Nat
  tag : Nat
  addr : Nat
  data : List (BitVec 8)
  /-- Bits that R354 leaves free, beside the source (log 37). -/
  flags : Nat := 0
  deriving DecidableEq, Repr

/-- The XDEs of the module. -/
structure Xde where
  rounds : SMap Round
  /-- Number of the next round. -/
  nextRound : Nat
  opens : List OpenReq
  lists : List GateList
  sessions : List Session
  work : List XWork
  /-- Packets of the module to itself, rows and FINISHes apart from responses, with their arrival numbers. -/
  own : List (Nat × Packet)
  ownResp : List (Nat × Packet)
  /-- Rows of which some packets have come, by source device (log 37). -/
  parts : SMap (List (BitVec 8))
  /-- Refusal packets received since reset, by die (R192). -/
  refusals : SMap Nat
  bias : Vector (SMap (BitVec 32)) 2
  biasVer : Vector (BitVec 8) 2
  newest : BitVec 8
  deriving DecidableEq, Repr

/-! ## Links, host, management (R349 to R368) -/

/-- A link (R349 to R353, R368). -/
structure Link where
  up : Bool
  lanes : BitVec 16
  width : Nat
  retraining : Bool
  nextSeq : Nat
  /-- Sent and unacknowledged flits, oldest first: number, and SOP and EOP in bits 0 and 1 of a byte before the payload. -/
  replay : List (Nat × List (BitVec 8))
  /-- Flits to be sent again before new ones. -/
  resend : List (Nat × List (BitVec 8))
  /-- Cycle of the last ack progress, or of the sending of the oldest unacknowledged flit. -/
  progressAt : Nat
  expect : Nat
  /-- A good DATA flit has been received: the ack is valid. -/
  av : Bool
  /-- A NAK is outstanding, sent in this cycle. -/
  nak : Option Nat
  /-- Cycle in which a new ack was last sent, and that ack. -/
  ackSentAt : Nat
  ackedTo : Nat
  /-- Bad flits discarded among the last 1,024 received, by number of reception; flits received. -/
  bad : List Nat
  received : Nat
  /-- Flits of packets waiting to be sent: first of its packet, last of its packet, payload. -/
  outFlits : List (Bool × Bool × List (BitVec 8))
  /-- Payload of accepted flits being assembled. -/
  inFlits : List (List (BitVec 8))
  /-- Whole packets received, with their arrival numbers. -/
  inPackets : List (Nat × Packet)
  /-- Flits on the wire to the peer, newest last. -/
  wire : List (List (BitVec 8))
  deriving DecidableEq, Repr

/-- A request sent to another module whose reply is awaited (R354, R367): who asked, and the link it left by. -/
inductive RemoteReq where
  /-- An access of a drover. -/
  | access (u seq link : Nat)
  /-- A chunk block of a porter of task u. -/
  | porter (u p link : Nat)
  /-- A chunk block of a copy of task u. -/
  | copy (u ch id link : Nat)
  /-- A line that an engine or a fetch reads, by its key. -/
  | line (key link : Nat)
  /-- A write of an engine, by the agent that sent it. -/
  | posted (agent link : Nat)
  /-- Entry i of the watches of caravan cv (R283). -/
  | watch (cv i link : Nat)
  deriving DecidableEq, Repr

/-- A line of another module's memory that an engine has asked for (R354). -/
inductive Far where
  /-- Asked for under a tag. -/
  | asked (tag : Nat)
  /-- Arrived, with the tags of its words. -/
  | line (v : BitVec 512) (tags : BitVec 8)
  /-- Failed, with the cause that the reply carries. -/
  | failed (cause : Nat)
  deriving DecidableEq, Repr

/-- A host ingress port (R357, R358). -/
structure Port where
  fifo : List Token
  mode : Bool
  portal : Nat
  pageid : Nat
  expid : Nat
  taskid : Nat
  overrun : Bool
  badtoken : Bool
  notarget : Bool
  comp : Word
  deriving DecidableEq, Repr

/-- Management state (R361 to R366). -/
structure Mgmt where
  devid : BitVec 9
  launched : Bool
  powlim : BitVec 11
  ecccnt : Word
  uecnt : Word
  linkerr : Word
  govcnt : Word
  throttle : Bool
  /-- TRIP of THERM, which the host may clear, and whether the dies' clocks stand, which only module reset ends (R366). -/
  trip : Bool
  stopped : Bool
  throttled : BitVec 8
  /-- 0 booting, 1 running, 2 RECOVERY. -/
  bootst : Nat
  fwver : Nat
  flash : SMap (BitVec 8)
  fuseDigest : List (BitVec 8)
  rollback : Nat
  otCounter : Nat
  fwdig : List (BitVec 8)
  imgdigs : List (List (BitVec 8))
  imgTrunc : Bool
  vectors : BitVec 65
  deriving DecidableEq, Repr

/-- Health (R346, R347, R365). -/
structure Health where
  fenced : List Nat
  withdrawn : List Nat
  spares : Vector Nat 8
  replace : Bool
  waysOff : List (Nat × Nat)
  remoteOff : List (Nat × Nat)
  lanesRemoved : Nat
  rows : List Nat
  testing : List TestUnit
  deriving DecidableEq, Repr

/-- What the governors count (R366, R3): for each die, the cycle until which each of its CIM cells is active, by 256 × serai + cell; and
the cells, as serai, quarter and local cell, whose step they withhold in a cycle (log 20). -/
structure Governor where
  cycle : Nat
  cims : Vector (SMap Nat) 8
  held : List (Nat × Nat × Nat)
  deriving DecidableEq, Repr

/-- Physical memory: bytes by address in canonical form, those of an unlisted address being 0 (log 2). -/
structure Memory where
  cells : List Host.Cell
  deriving DecidableEq, Repr

/-- What the homes hold (R254 to R258, R141, R133, R273, R260). -/
structure Homes where
  mem : Memory
  /-- Full words, by address / 8, in rising order. -/
  tags : List Nat
  /-- Words marked uncorrectable (R345). -/
  bad : List Nat
  /-- Words whose tag array has an error (R132). -/
  badTags : List Nat
  waiters : List Waiter
  /-- Relay queue entries by slice. -/
  relay : List (Nat × Launch)
  /-- Epoch directory. -/
  dir : SMap Granule
  /-- Releases on words, each with the bytes of the word that still hold its value or a later atomic's (R271). -/
  rel : SMap (List (BitVec 8 × Release))
  /-- Remote cache lines of each die, by 8 × line + die. -/
  rcache : SMap (BitVec 512)
  invals : List Inval
  deriving DecidableEq, Repr

/-- Scheduling state. -/
structure Sched where
  exps : SMap Expedition
  tasks : SMap Task
  caravans : SMap Caravan
  nextKey : Nat
  nextCv : Nat
  bazaars : Vector Bazaar 8
  saving : SMap Saving
  saveno : SMap Nat
  /-- Room that other modules have advertised, by device, and the cycle of this module's last advertisement to each (R293). -/
  modAdverts : SMap Nat
  /-- Working serais on the largest die of other modules, as they have advertised them (R291). -/
  modWorking : SMap Nat
  advertSent : SMap Nat
  /-- Engine state of tasks out of their serais. -/
  images : SMap Serai
  /-- Banks held in a serai for a task (R290), and killed serais whose windows are dead (R343). -/
  heldBanks : SMap Nat
  dead : List Nat
  /-- Serais given to saved tasks whose images are not yet read (R340), with the task. -/
  restoring : SMap Nat
  /-- Expedition for which a serai was last prepared. -/
  lastExp : SMap Nat
  deriving DecidableEq, Repr

/-- Trap delivery (R321 to R324, R348). -/
structure Traps where
  seq : Vector Nat 10
  /-- Records that wait at the arbiter. -/
  waiting : List Record
  queues : Vector (List Record) 16
  current : Vector (Option Record) 16
  /-- Number of records written, which places the next one in steward memory. -/
  written : Nat
  /-- Base of the area of steward memory that holds the records: the spec names no address (log 34). -/
  area : Nat
  deriving DecidableEq, Repr

/-- The module. -/
structure Chip where
  drovers : SMap Drover
  serais : SMap Serai
  binds : List (Ep × Ep)
  homes : Homes
  walkers : Walkers
  sched : Sched
  traps : Traps
  xde : Xde
  links : Vector Link 18
  requests : SMap RemoteReq
  nextTag : Nat
  /-- Number of the next packet to arrive. -/
  arrivals : Nat
  /-- Lines of other modules read by engines, by agent and line. -/
  far : SMap Far
  routes : SMap Nat
  ports : Vector Port 64
  images : SMap (List (BitVec 8))
  mgmt : Mgmt
  health : Health
  gov : Governor
  /-- The model's own counter of free values taken so far (log 6). -/
  free : Nat
  deriving DecidableEq, Repr

/-! ## The state of the model -/

/-- One turn of the agenda: which agent moves next (log 3). -/
inductive Turn where
  /-- A step of the machine other than an issue. -/
  | event (i : Instr)
  /-- The drover with this key issues. -/
  | issue (u : Nat)
  /-- Cycles pass. -/
  | tick (n : Nat)
  /-- The reads of porters and copies go this many elements on from their walks' places, until another such turn (S10 of R268). -/
  | ahead (n : Nat)
  deriving DecidableEq, Repr

/-- The state: the module, the cycle counter, and the model's own three fields: the agenda, which says which agent moves
next, the drover that issues when the agenda is empty, and how far on from their walks' places reads go (log 3). -/
structure State where
  chip : Chip
  cycle : Nat
  agenda : List Turn
  focus : Nat
  ahead : Nat
  deriving DecidableEq, Repr

/-! ## Outcomes that stop the model -/

/-- Where the machine itself stops. -/
inductive Fault where
  /-- Raised by every step after TRIP until module reset: every die has stopped its clocks (R366). Safe: the hardware
  does not go on either. -/
  | clocksStopped
  deriving DecidableEq, Repr

/-- What the model gives no meaning to. -/
inductive Refusal where
  /-- Raised by an arm of exec whose instruction has no meaning yet. Safe: nothing is claimed of it. -/
  | notModelled (mnemonic : String)
  /-- Raised by an engine command (STRM, COPY, WING and GRAM families), RETIRE, YIELD or TWATCH issued by a steward core, to
  which the spec gives no engines and no task (R1, R7). Safe: nothing is claimed of it. -/
  | noEngine
  deriving DecidableEq, Repr

/-! ## Reset -/

/-- No token. -/
def Walk.start : Walk :=
  { ks := [], level := 0, closing := false, done := true, offs := [], offsRead := false, gather := [], gatherNext := 0,
    lanes := 0, pay := 0, mask := 0, scales := [], bad := none, first := 0, got := [] }

/-- An idle, unbound porter (R14). -/
def Porter.reset : Porter :=
  { cond := 0, dir := false, setTag := false, scratch := false, sid := 0, desc := 0, walk := Walk.start, buf := [],
    more := [], count := 0, fcause := 0, oob := false, ragged := false, noscale := false, fmtmix := false, aflags := 0,
    after := 0, claim := none, link := none, passed := false, leaf := none, closing := false, eotDone := false,
    poisonOut := false, poisonCnt := 0, chunks := [], packets := [], clk := [] }

/-- An idle context with no grammar (R14). -/
def Context.reset : Context :=
  { cond := 0, grammar := none, stack := [], terminals := 0, afifo := [], out := [], porter := none, inRun := false,
    skip := none, skipMark := none, tcause := 0, postlost := false, cmdfail := false, holdeot := false,
    eotheld := false, ctab := [], cmds := [], stopping := false, trapWait := false,
    poisonOut := false, poisonCnt := 0 }

/-- A serai as a task of another expedition, or none, leaves it (R14, R290). -/
def Serai.reset : Serai :=
  { porters := Vector.replicate 8 Porter.reset,
    copy := { ch := Vector.replicate 2 [], templates := [] },
    ctxs := Vector.replicate 4 Context.reset, lastCtx := 3, pages := [], pager := .idle, banks := [], nextSid := 1,
    past := [], qcause := Vector.replicate 4 0, lastPost := (0, 0), joined := none, mbxPoisonOut := false, mbxPoisonCnt := 0, ages := [] }

/-- The register files with everything zero (R14). -/
def Regs.zero : Regs :=
  { x := Vector.replicate 32 0, p := 0, d := Vector.replicate 16 0, pc := 0 }

/-- A drover with nothing pending; YIELDTH at its first-dispatch value (R11). -/
def Drover.fresh (steward : Bool) (core : Option Nat) : Drover :=
  { steward := steward, exp := 0, core := core, run := .off, regs := Regs.zero,
    ctl := { fflags := 0, qpeer := 0, yieldth := 0x10000, arm := 0, ovr := 0, instret := 0, govhold := 0 },
    stew := { trapcause := 0, trappc := 0, trapval := 0, traprec := 0, ptroot := 0, scratch := 0 },
    board := { pend := [], late := [], dpend := [], dbad := [], clk := [] },
    queues := { mbx := [], act := [], inq := [], outq := [] },
    mem := { accs := [], nextSeq := 1, nextSent := 1, dcache := [], icache := [], tlb := [] },
    members := [], hold := .idle, async := [], trap := none, held := false, blockedAt := none, mapNow := 0, clk := [] }

/-- A link at full width with nothing sent (log 1). -/
def Link.reset : Link :=
  { up := true, lanes := 0xFFFF, width := 16, retraining := false, nextSeq := 0, replay := [], resend := [],
    progressAt := 0, expect := 0, av := false, nak := none, ackSentAt := 0, ackedTo := 4095, bad := [], received := 0,
    outFlits := [], inFlits := [], inPackets := [], wire := [] }

/-- An ingress port with an empty FIFO (log 1). -/
def Port.reset : Port :=
  { fifo := [], mode := false, portal := 0, pageid := 0, expid := 0, taskid := 0, overrun := false, badtoken := false,
    notarget := false, comp := 0 }

/-- A bazaar with an empty queue. -/
def Bazaar.reset : Bazaar :=
  { reserving := none, lastDispatch := none, advertised := 0, advertisedAt := 0, migrating := false, deadlock := [], arrivals := 0 }

/-- The sixteen steward cores before boot (R361), keys 0 to 15. -/
def resetStewards : SMap Drover := (List.range 16).map fun k => (k, Drover.fresh true (some k))

/-- The module right after reset, given what survives a reset: flash, fuses, the two counters of I/O die 0, and the
units that are fenced (R361, R363, R347). -/
def Chip.afterReset (m : Mgmt) (h : Health) : Chip :=
  { drovers := resetStewards, serais := [], binds := [],
    homes := { mem := { cells := [] }, tags := [], bad := [], badTags := [], waiters := [], relay := [], dir := [], rel := [],
               rcache := [], invals := [] },
    walkers := { leaves := [], walks := [], failed := [] },
    sched := { exps := [], tasks := [], caravans := [], nextKey := 16, nextCv := 1,
               bazaars := Vector.replicate 8 Bazaar.reset, saving := [], saveno := [],
               modAdverts := [], modWorking := [], advertSent := [], images := [], heldBanks := [], dead := [], restoring := [], lastExp := [] },
    traps := { seq := Vector.replicate 10 0, waiting := [], queues := Vector.replicate 16 [],
               current := Vector.replicate 16 none, written := 0, area := 0x3FFFFE00000 },
    xde := { rounds := [], nextRound := 0, opens := [], lists := [], sessions := [], work := [], own := [], ownResp := [],
             parts := [], refusals := [], bias := Vector.replicate 2 [], biasVer := #v[0, 255], newest := 0 },
    links := Vector.replicate 18 Link.reset, requests := [], nextTag := 0, arrivals := 0, far := [], routes := [],
    ports := Vector.replicate 64 Port.reset, images := [],
    mgmt := { devid := 0, launched := false, powlim := 1900, ecccnt := 0, uecnt := 0, linkerr := 0, govcnt := 0,
              throttle := false, trip := false, stopped := false, throttled := 0, bootst := 0, fwver := 0, flash := m.flash,
              fuseDigest := m.fuseDigest, rollback := m.rollback, otCounter := m.otCounter, fwdig := [],
              imgdigs := [], imgTrunc := false, vectors := 0 },
    health := h,
    gov := { cycle := 0, cims := Vector.replicate 8 [], held := [] },
    free := 0 }

/-- Management state as it leaves the factory (log 1): flash and fuses empty. -/
def Mgmt.blank : Mgmt :=
  { devid := 0, launched := false, powlim := 1900, ecccnt := 0, uecnt := 0, linkerr := 0, govcnt := 0,
    throttle := false, trip := false, stopped := false, throttled := 0, bootst := 0, fwver := 0, flash := [], fuseDigest := [],
    rollback := 0, otCounter := 0, fwdig := [], imgdigs := [], imgTrunc := false, vectors := 0 }

/-- No unit fenced; eight spares on each die (R2). -/
def Health.blank : Health :=
  { fenced := [], withdrawn := [], spares := Vector.replicate 8 8, replace := false, waysOff := [], remoteOff := [],
    lanesRemoved := 0, rows := [], testing := [] }

/-- The machine right after reset (R361, R365; log 1): booting, nothing in memory, no turn on the agenda, steward 0 in
focus. -/
def State.reset : State :=
  { chip := Chip.afterReset Mgmt.blank Health.blank, cycle := 0, agenda := [], focus := 0, ahead := 0 }

end Sys2Proof.Machine
end

