-- ==== Sys2Proof/Machine/Store.lean ====
section
/-!
DEFINITION. Physical memory: reading and writing bytes in the canonical form, the physical map and placement (R253 to
R256), the full/empty tags (R27) and the uncorrectable marks (R345) beside the words.
-/

namespace Sys2Proof.Machine

/-! ## Bytes in canonical form -/

/-- What a byte that is not listed reads as (log 2). -/
def Memory.background : Byte := 0

/-- The byte at an address of a cell list. -/
def readCells : List Host.Cell → Nat → Byte
  | [], _ => Memory.background
  | (k, b) :: m, a => if k = a then b else readCells m a

/-- The byte at an address. -/
def Memory.read (m : Memory) (a : Nat) : Byte := readCells m.cells a

/-- n bytes from an address. -/
def Memory.readBytes (m : Memory) (a n : Nat) : List Byte := (List.range n).map fun i => m.read (a + i)

/-- The cells of consecutive bytes from an address that differ from the background. -/
def freshCells : Nat → List Byte → List Host.Cell
  | _, [] => []
  | a, b :: l => if b = Memory.background then freshCells (a + 1) l else (a, b) :: freshCells (a + 1) l

/-- Memory with consecutive bytes written from an address. -/
def Memory.write (m : Memory) (a : Nat) (bs : List Byte) : Memory :=
  { cells := (m.cells.filter fun c => c.1 < a) ++ freshCells a bs ++
      m.cells.filter fun c => a + bs.length ≤ c.1 }

/-- Addresses strictly rising. -/
def risingCells : List Host.Cell → Bool
  | [] => true
  | [_] => true
  | (a, _) :: (b, y) :: m => decide (a < b) && risingCells ((b, y) :: m)

/-- The canonical form: addresses strictly rising, no entry equal to the background. -/
def Memory.wf (m : Memory) : Bool := risingCells m.cells && m.cells.all fun c => c.2 != Memory.background

/-! ## The physical map -/

/-- The regions of the physical space (R253). -/
inductive Region where
  /-- HBM4E, interleaved. -/
  | hbmI
  /-- HBM4E, die-local. -/
  | hbmD
  /-- LPDDR6, interleaved. -/
  | lpddr
  /-- Translation control port. -/
  | tcp
  /-- A serai window: serai and offset. -/
  | serai (n off : Nat)
  /-- Host memory. -/
  | host
  /-- Outside every region. -/
  | hole
  deriving DecidableEq, Repr

/-- The region of a physical address (R253). -/
def regionOf (pa : Nat) : Region :=
  if pa < 0x8000000000 then .hbmI
  else if pa < 0x10000000000 then .hbmD
  else if pa < 0x20000000000 then .hole
  else if pa < 0x40000000000 then .lpddr
  else if pa < 0x40000001000 then .tcp
  else if pa < 0x80000000000 then .hole
  else if pa < 0x82000000000 then .serai ((pa - 0x80000000000) / 0x2000000) ((pa - 0x80000000000) % 0x2000000)
  else if pa < 0xC0000000000 then .hole
  else if pa < 0x100000000000 then .host
  else .hole

/-- What stands at an offset of a serai window (R256). -/
inductive Window where
  /-- Byte off of the bank of cell c. -/
  | bank (c off : Nat)
  /-- The status word of a porter. -/
  | porter (p : Nat)
  /-- The status word of a context. -/
  | context (g : Nat)
  /-- The mailbox. -/
  | mailbox
  /-- Inbox register x(24+k). -/
  | inbox (k : Nat)
  /-- Not listed: a hole. -/
  | none
  deriving DecidableEq, Repr

/-- What stands at an offset of a serai window (R256). -/
def windowOf (off : Nat) : Window :=
  if off < 0x1000000 then .bank (off / 0x10000) (off % 0x10000)
  else if off < 0x1008000 ∧ off % 0x1000 < 8 then .porter ((off - 0x1000000) / 0x1000)
  else if 0x1010000 ≤ off ∧ off < 0x1014000 ∧ off % 0x1000 < 8 then .context ((off - 0x1010000) / 0x1000)
  else if 0x1020000 ≤ off ∧ off < 0x1020008 then .mailbox
  else if 0x1030000 ≤ off ∧ off < 0x1030020 then .inbox ((off - 0x1030000) / 8)
  else .none

/-- Physical address of a byte of a cell bank (R256). -/
def bankAddr (n c off : Nat) : Nat := 0x80000000000 + n * 0x2000000 + c * 0x10000 + off

/-- The home slice of a frame in the interleaved windows (R254, R255): three nine-bit groups of the frame number. -/
def hashSlice (f : Nat) : Nat := (f % 512) ^^^ (f / 512 % 512) ^^^ (f / 2 ^ 18 % 512)

/-- The home slice of a physical address of module memory (R254, R255). -/
def sliceOf (pa : Nat) : Nat :=
  match regionOf pa with
  | .hbmI => hashSlice (pa / 4096)
  | .hbmD =>
    let f := pa / 4096 % 2 ^ 24
    64 * (pa / 2 ^ 36 % 8) + ((f % 64) ^^^ (f / 64 % 64) ^^^ (f / 4096 % 64) ^^^ (f / 2 ^ 18 % 64))
  | .lpddr => hashSlice (pa / 4096 % 2 ^ 27)
  | _ => 0

/-- The order point of a physical address: slices 0 to 511, the bank port of serai n as 512 + n, the host port and the
control port after those (R258, R219). -/
def homeOf (pa : Nat) : Nat :=
  match regionOf pa with
  | .serai n _ => 512 + n
  | .host => 4608
  | .tcp => 4609
  | _ => sliceOf pa

/-- Where a byte is kept: the two HBM4E windows name the same DRAM, so an address of the interleaved window is turned
into the die-local address of the same location (R254). -/
def canon (pa : Nat) : Nat :=
  match regionOf pa with
  | .hbmI =>
    let f := pa / 4096
    0x8000000000 + (hashSlice f / 64) * 2 ^ 36 + ((f / 2 ^ 9) * 64 + f % 64) * 4096 + pa % 4096
  | _ => pa

/-! ## Reading and writing at a home -/

/-- The byte at a physical address. -/
def Homes.byte (h : Homes) (pa : Nat) : Byte := h.mem.read (canon pa)

/-- n bytes from a physical address that do not cross a 4 KiB frame. -/
def Homes.bytes (h : Homes) (pa n : Nat) : List Byte := h.mem.readBytes (canon pa) n

/-- The little-endian number in n bytes. -/
def Homes.num (h : Homes) (pa n : Nat) : Nat := natOfBytes (h.bytes pa n)

/-- The 64-bit word at an address. -/
def Homes.word (h : Homes) (pa : Nat) : Word := BitVec.ofNat 64 (h.num pa 8)

/-- The 64-byte line that holds an address. -/
def Homes.line (h : Homes) (pa : Nat) : BitVec 512 := BitVec.ofNat 512 (h.num (pa / 64 * 64) 64)

/-- Homes with bytes written from a physical address, within one frame. -/
def Homes.write (h : Homes) (pa : Nat) (bs : List Byte) : Homes := { h with mem := h.mem.write (canon pa) bs }

/-- Homes with the low n bytes of a number written. -/
def Homes.writeNum (h : Homes) (pa n v : Nat) : Homes := h.write pa (leBytes v n)

/-- Key of the 64-bit word that holds an address, for tags and marks. -/
def wordKey (pa : Nat) : Nat := canon pa / 8

/-- The full/empty tag of the word that holds an address (R27). -/
def Homes.tag (h : Homes) (pa : Nat) : Bool := h.tags.contains (wordKey pa)

/-- Homes with the tag of the word that holds an address set; an error in the tag is gone with it (log 89). -/
def Homes.setTag (h : Homes) (pa : Nat) (full : Bool) : Homes :=
  { h with tags := if full then insertNat h.tags (wordKey pa) else eraseNat h.tags (wordKey pa),
           badTags := eraseNat h.badTags (wordKey pa) }

/-- Whether the tag of the word that holds an address has an uncorrectable error (R132, R344). -/
def Homes.badTag (h : Homes) (pa : Nat) : Bool := h.badTags.contains (wordKey pa)

/-- Homes with an uncorrectable error in the tag of the word that holds an address. -/
def Homes.setBadTag (h : Homes) (pa : Nat) : Homes := { h with badTags := insertNat h.badTags (wordKey pa) }

/-- The tags of the eight words of a line, first in bit 0. -/
def Homes.lineTags (h : Homes) (pa : Nat) : BitVec 8 :=
  BitVec.ofNat 8 ((List.range 8).foldl (fun m i => m + b2n (h.tag (pa / 64 * 64 + 8 * i)) * 2 ^ i) 0)

/-- Whether the word that holds an address is marked uncorrectable (R345). -/
def Homes.isBad (h : Homes) (pa : Nat) : Bool := h.bad.contains (wordKey pa)

/-- Homes with the mark of the word that holds an address set or cleared. -/
def Homes.setBad (h : Homes) (pa : Nat) (b : Bool) : Homes :=
  { h with bad := if b then insertNat h.bad (wordKey pa) else eraseNat h.bad (wordKey pa) }

/-- Homes with the marks of every whole word among n bytes from an address cleared (R345). -/
def Homes.clearBad (h : Homes) (pa n : Nat) : Homes :=
  let a := canon pa
  { h with bad := h.bad.filter fun k => !(a ≤ 8 * k && 8 * k + 8 ≤ a + n) }

/-- Whether any word that n bytes from an address touch is marked uncorrectable. -/
def Homes.anyBad (h : Homes) (pa n : Nat) : Bool :=
  let a := canon pa
  h.bad.any fun k => decide (a < 8 * k + 8 ∧ 8 * k < a + n)

/-- Bytes from an address across frames: frame by frame, since consecutive frames of a window need not be neighbours
in DRAM. -/
def Homes.bytesLong (h : Homes) (pa n : Nat) : List Byte := (List.range n).map fun i => h.byte (pa + i)

/-- A long write, frame by frame. -/
def Homes.writeLong (h : Homes) (pa : Nat) : Nat → List Byte → Homes
  | 0, _ => h
  | fuel + 1, bs =>
    if bs = [] then h
    else
      let n := 4096 - pa % 4096
      (h.write pa (bs.take n)).writeLong (pa + n) fuel (bs.drop n)

end Sys2Proof.Machine
end

