-- ==== Sys2Proof/Machine/Ops.lean ====
section
/-!
DEFINITION. The named operations over the state that the meanings share: drovers and registers, the scoreboard and the
queue ports (R8, R9, R16 to R18), the fault log (R330), taking a trap (R321, R322) and returning from one (R324).
-/

namespace Sys2Proof.Machine

/-! ## Parts of the chip -/

/-- The drover with a key. -/
def Chip.drover? (c : Chip) (u : Nat) : Option Drover := look c.drovers u

/-- The chip with a drover replaced. -/
def Chip.setDrover (c : Chip) (u : Nat) (d : Drover) : Chip := { c with drovers := put c.drovers u d }

/-- The chip with a drover changed. -/
def Chip.onDrover (c : Chip) (u : Nat) (f : Drover → Drover) : Chip :=
  match c.drover? u with
  | none => c
  | some d => c.setDrover u (f d)

/-- A serai; one that nothing has used is as at reset. -/
def Chip.serai (c : Chip) (n : Nat) : Serai := lookD c.serais n Serai.reset

/-- The chip with a serai replaced. -/
def Chip.setSerai (c : Chip) (n : Nat) (s : Serai) : Chip := { c with serais := put c.serais n s }

/-- The chip with a serai changed. -/
def Chip.onSerai (c : Chip) (n : Nat) (f : Serai → Serai) : Chip := c.setSerai n (f (c.serai n))

/-- A porter of a serai. -/
def Serai.porter (v : Serai) (p : Nat) : Porter := (v.porters[p]?).getD Porter.reset

/-- The serai with a porter changed. -/
def Serai.onPorter (v : Serai) (p : Nat) (f : Porter → Porter) : Serai :=
  { v with porters := v.porters.setIfInBounds p (f (v.porter p)) }

/-- A context of a serai. -/
def Serai.ctx (v : Serai) (g : Nat) : Context := (v.ctxs[g]?).getD Context.reset

/-- The serai with a context changed. -/
def Serai.onCtx (v : Serai) (g : Nat) (f : Context → Context) : Serai :=
  { v with ctxs := v.ctxs.setIfInBounds g (f (v.ctx g)) }

/-- The chip with its homes changed. -/
def Chip.onHomes (c : Chip) (f : Homes → Homes) : Chip := { c with homes := f c.homes }

/-- The chip with its scheduling state changed. -/
def Chip.onSched (c : Chip) (f : Sched → Sched) : Chip := { c with sched := f c.sched }

/-- The chip with its traps changed. -/
def Chip.onTraps (c : Chip) (f : Traps → Traps) : Chip := { c with traps := f c.traps }

/-- The chip with its dispatch engines changed. -/
def Chip.onXde (c : Chip) (f : Xde → Xde) : Chip := { c with xde := f c.xde }

/-- The chip with its management state changed. -/
def Chip.onMgmt (c : Chip) (f : Mgmt → Mgmt) : Chip := { c with mgmt := f c.mgmt }

/-- The chip with an expedition changed. -/
def Chip.onExp (c : Chip) (e : Nat) (f : Expedition → Expedition) : Chip :=
  c.onSched fun s => { s with exps := upd s.exps e f }

/-- An expedition. -/
def Chip.exp? (c : Chip) (e : Nat) : Option Expedition := look c.sched.exps e

/-- The chip with a task changed. -/
def Chip.onTask (c : Chip) (u : Nat) (f : Task → Task) : Chip :=
  c.onSched fun s => { s with tasks := upd s.tasks u f }

/-- A task. -/
def Chip.task? (c : Chip) (u : Nat) : Option Task := look c.sched.tasks u

/-- The chip with a caravan changed. -/
def Chip.onCaravan (c : Chip) (v : Nat) (f : Caravan → Caravan) : Chip :=
  c.onSched fun s => { s with caravans := upd s.caravans v f }

/-- A caravan. -/
def Chip.caravan? (c : Chip) (v : Nat) : Option Caravan := look c.sched.caravans v

/-- The caravan of a task. -/
def Chip.caravanOf? (c : Chip) (u : Nat) : Option Caravan :=
  match c.task? u with
  | none => none
  | some t => c.caravan? t.caravan

/-- The key of the task that holds a serai, if one does. -/
def Chip.holder? (c : Chip) (n : Nat) : Option Nat :=
  (c.drovers.find? fun p => !p.2.steward && p.2.core == some n).map fun p => p.1

/-- The key of the task of an expedition with a TASKID. -/
def Chip.taskKey? (c : Chip) (e taskid : Nat) : Option Nat :=
  (c.sched.tasks.find? fun p => p.2.exp == e && p.2.taskid == taskid).map fun p => p.1

/-- A free value, and the chip that has taken it (log 6). -/
def Chip.takeFree (c : Chip) : Word × Chip := (Config.freeWord c.free, { c with free := c.free + 1 })

/-- The state with its chip changed; cycle, agenda and focus stand. -/
def State.onChip (s : State) (f : Chip → Chip) : State := { s with chip := f s.chip }

/-- A step of the machine that changes the chip. -/
def State.eventStep (s : State) (f : Chip → Nat → Chip) : Host.Outcome State Fault Refusal :=
  .next (s.onChip fun c => f c s.cycle)

/-! ## Fault log (R330) -/

/-- The next number of a die's event arbiter (R348). -/
def Chip.nextSeq (c : Chip) (die : Nat) : Nat × Chip :=
  let n := (c.traps.seq[die]?).getD 0
  (n, c.onTraps fun t => { t with seq := t.seq.setIfInBounds die (n + 1) })

/-- An event of a die counted by its arbiter (R348). -/
def Chip.numbered (c : Chip) (die : Nat) : Chip := (c.nextSeq die).2

/-- The number of the I/O die on which a link stands, behind the compute dies (R349; log 88). -/
def linkDie (l : Nat) : Nat := 8 + l / 9

/-- A fault-log entry's fields. -/
structure LogEntry where
  cause : Nat
  orphan : Bool
  fatal : Bool
  taskid : Nat
  addr : Word
  val : Word
  extra : Word
  deriving DecidableEq, Repr

/-- The 64 bytes of an entry (R330). -/
def LogEntry.bytes (e : LogEntry) (seq : Nat) : List Byte :=
  leBytes e.cause 1 ++ leBytes (b2n e.orphan + 2 * b2n e.fatal) 1 ++ leBytes 0 2 ++ leBytes e.taskid 4 ++
    leBytes e.addr.toNat 8 ++ leBytes e.val.toNat 8 ++ leBytes e.extra.toNat 8 ++ leBytes seq 8 ++ leBytes 0 24

/-- Entry written at one order point into an expedition's log, or counted as lost when the log is full. The capacity
counts the entries behind the header (log 22). -/
def Chip.logFault (c : Chip) (die e : Nat) (entry : LogEntry) : Chip :=
  match c.exp? e with
  | none => c
  | some x =>
    let (seq, c) := c.nextSeq die
    let h := c.homes
    let n := h.num x.flog 8
    if n < x.flogCap then
      c.onHomes fun h => (h.write (x.flog + 64 * (n + 1)) (entry.bytes seq)).writeNum x.flog 8 (n + 1)
    else c.onHomes fun h => h.writeNum (x.flog + 8) 8 (h.num (x.flog + 8) 8 + 1)

/-- The die of a drover's serai; stewards report as die 0. -/
def Drover.die (d : Drover) : Nat := if d.steward then 0 else d.core.getD 0 / 512

/-- Whether a task lives. -/
def Task.alive (t : Task) : Bool := t.state != .retired && t.state != .killed

/-- Whether a log entry of a task is an orphan: the task has ended, or its expedition is exiting (R330). -/
def Chip.orphaned (c : Chip) (u : Nat) : Bool :=
  match c.task? u with
  | none => true
  | some t => !t.alive || ((c.exp? t.exp).map (·.ending)).getD true

/-- A late error never read, written to the log (R18, R139, R330). -/
def Chip.logLate (c : Chip) (u : Nat) (d : Drover) (l : LateErr) : Chip :=
  c.logFault d.die d.exp
    { cause := l.cause, orphan := !d.steward && c.orphaned u, fatal := false,
      taskid := ((c.task? u).map (·.taskid)).getD 0, addr := l.val, val := if l.cause = 6 then l.aux0 else 0,
      extra := 0 }

/-! ## Clocks (R271, R272) -/

/-- The join of two clocks. -/
def joinClk (a b : SMap Nat) : SMap Nat := b.foldl (fun m p => put m p.1 (max (lookD m p.1 0) p.2)) a

/-- Every access that a module's race directories hold: what an acquire through another module is taken to learn, and a task that comes from
one to know, since packets carry no clocks (log 94). -/
def Homes.seen (h : Homes) : SMap Nat :=
  h.dir.foldl (fun k g => (g.2.write.toList ++ g.2.reads).foldl (fun k r => put k r.1 (max (lookD k r.1 0) r.2.1)) k) []

/-- Where a drover stands for a `.di` scope: its compute die, or, for a steward, its I/O die (R145). -/
def Drover.site (d : Drover) : Nat := if d.steward then 8 + d.core.getD 0 / 8 else d.core.getD 0 / 512

/-- A release of a drover. -/
def Chip.releaseOf (c : Chip) (u : Nat) (d : Drover) (scope : Nat) (clk : SMap Nat) : Release :=
  { agent := u, caravan := (c.task? u).map (·.caravan), die := d.site, scope := scope, clk := clk }

/-- Whether b is among the observers of a scope for a (R145). -/
def Release.observes (scope : Nat) (a b : Release) : Bool :=
  a.agent == b.agent || decide (3 ≤ scope) || (scope == 2 && a.die == b.die) ||
    (scope == 1 && a.caravan.isSome && a.caravan == b.caravan)

/-- Whether a release synchronises with an acquire, which stands here in the same form (R270). -/
def Release.meets (a q : Release) : Bool := a.observes a.scope q && Release.observes q.scope q a

/-- What an acquire of a drover at a scope learns from releases (R270, R271). -/
def Chip.learns (c : Chip) (u : Nat) (d : Drover) (scope : Nat) (l : List Release) : SMap Nat :=
  (l.filter fun r => r.meets (c.releaseOf u d scope [])).foldl (fun k r => joinClk k r.clk) []

/-- A task's epoch advances at each of its acquires and releases (R273). -/
def Drover.tick (d : Drover) (u : Nat) : Drover := { d with clk := put d.clk u (lookD d.clk u 0 + 1) }

/-- The drover after an acquire of a clock: it knows more, and its data cache is empty (R259, S9 of R268). -/
def Drover.acquire (d : Drover) (u : Nat) (k : SMap Nat) : Drover :=
  let d := { d with clk := joinClk d.clk k }.tick u
  { d with mem := { d.mem with dcache := [], accs := d.mem.accs.map fun a => { a with line := none } } }

/-- An acquire of a drover is performed (S9): the clock it reads reaches the drover and its younger accesses. -/
def Drover.acquireFrom (d : Drover) (u q : Nat) (k : SMap Nat) : Drover :=
  let d := d.acquire u k
  { d with mem := { d.mem with accs := d.mem.accs.map fun a => if q < a.seq then { a with clk := joinClk a.clk k } else a } }

/-! ## Scalar registers, predicates, descriptor registers (R8) -/

/-- The value of x0 to x27; x0 reads zero. -/
def Regs.getX (r : Regs) (n : BitVec 5) : Word := if n = 0 then 0 else r.x[n.toNat]

/-- A write of x0 to x27; a write of x0 is discarded. -/
def Regs.setX (r : Regs) (n : BitVec 5) (v : Word) : Regs := if n = 0 then r else { r with x := r.x.set n.toNat v }

/-- A predicate; p7 reads true. -/
def Regs.getP (r : Regs) (n : BitVec 3) : Bool := if n = 7 then true else r.p.getLsbD n.toNat

/-- The predicates with one written. -/
def setBitP (p : BitVec 8) (n : Nat) (b : Bool) : BitVec 8 :=
  if b then p ||| BitVec.ofNat 8 (2 ^ n) else p &&& ~~~(BitVec.ofNat 8 (2 ^ n))

/-- A write of a predicate; a write of p7 is discarded. -/
def Regs.setP (r : Regs) (n : BitVec 3) (b : Bool) : Regs := if n = 7 then r else { r with p := setBitP r.p n.toNat b }

/-- A descriptor register. -/
def Regs.getD (r : Regs) (n : BitVec 4) : BitVec 1024 := r.d[n.toNat]

/-! ## The scoreboard (R16, R17) -/

/-- Whether a scalar register is pending. -/
def Drover.isPending (d : Drover) (n : BitVec 5) : Bool := (look d.board.pend n.toNat).isSome

/-- An access by number. -/
def Drover.acc? (d : Drover) (seq : Nat) : Option Access := d.mem.accs.find? fun a => a.seq == seq

/-- Whether an access's register is a token register (R16). -/
def AccKind.isToken : AccKind → Bool
  | .ldf => true
  | .ldfe => true
  | .arrive _ waits => waits
  | .phase _ => true
  | _ => false

/-- Whether an older FENCE with acquire holds an access and itself awaits a token register's completion (R281). -/
def Drover.heldByToken (d : Drover) (seq : Nat) : Bool :=
  d.mem.accs.any fun m => m.kind == .fence && m.acq && decide (m.seq < seq) &&
    d.mem.accs.any fun a => decide (a.seq < m.seq) && a.kind.isToken

/-- What a stall on pending register r is a block on (R281): the register, 33 for an access held behind a FENCE, nothing
for a plain load or an AMO. -/
def Drover.blocksOn (d : Drover) (r : Nat) : Await → Option Nat
  | .access seq =>
    match d.acc? seq with
    | none => none
    | some a => if a.kind.isToken then some r else if d.heldByToken seq then some (33 + 64 * r) else none
  | _ => some r

/-- How many entries a read port holds. -/
def Drover.portLen (d : Drover) (n : Nat) : Nat :=
  if n = 28 then d.queues.mbx.length else if n = 29 then d.queues.act.length
  else if n = 31 then d.queues.inq.length else 0

/-- Whether reading the sources stalls, and what that stall is a block on: a pending register, or a read port with
fewer entries than the sources that name it (R9, R17). -/
def Drover.srcStall (d : Drover) (l : List (BitVec 5)) : Option (Option Nat) :=
  match l.find? fun r => d.isPending r with
  | some r => some ((look d.board.pend r.toNat).bind (d.blocksOn r.toNat))
  | none =>
    (l.find? fun r => (28 ≤ r.toNat && r.toNat != 30) && decide (d.portLen r.toNat < l.count r)).map fun r =>
      some (r.toNat + 64 * (l.count r - 1))

/-- Whether what a drover is blocked on has not come yet (R281). -/
def Drover.blockedOn (d : Drover) (on : Nat) : Bool :=
  let what := on % 64
  if what < 28 then (look d.board.pend what).isSome
  else if what = 30 then decide (16 ≤ (lookD d.queues.outq d.ctl.qpeer.toNat []).length)
  else if what < 32 then decide (d.portLen what < on / 64 + 1)
  else if what = 32 then match d.hold with
    | .result _ => false
    | _ => true
  else if what = 33 then match look d.board.pend (on / 64) with
    | some (.access q) => d.heldByToken q
    | _ => false
  else true

/-- Since when the drover has been blocked without interruption, if it is blocked now (R281). -/
def Drover.blockedSince (d : Drover) : Option Nat := d.blockedAt.bind fun b => if d.blockedOn b.2 then some b.1 else none

/-- Whether a map write has reached a register in this cycle (R10). -/
def Drover.mapped (d : Drover) (r : Nat) : Bool := decide (24 ≤ r) && d.mapNow.getLsbD (r - 24)

/-- Whether writing a destination stalls: it is pending (R17, rule 2), x30's queue is full (R9), or a map write has reached
it in this cycle, in which the drover's write would have come first (R10). -/
def Drover.dstStall (d : Drover) (r : BitVec 5) : Option (Option Nat) :=
  if r.toNat = 30 then
    if 16 ≤ (lookD d.queues.outq d.ctl.qpeer.toNat []).length then some (some 30) else none
  else if d.mapped r.toNat then some none
  else (look d.board.pend r.toNat).map (d.blocksOn r.toNat)

/-! ## Traps of a drover (R321, R322) -/

/-- A synchronous trap at the drover's pc. -/
def Drover.trapAt (d : Drover) (cause : Nat) (val : Word) : TrapReq :=
  { cause := cause, pc := d.regs.pc, val := val, origin := 0, aux0 := 0, aux1 := 0, aux2 := 0 }

/-- Taking a trap: the drover stops issuing, TRAPPC and TRAPVAL stand in the request, a stall is abandoned; nothing
else changes. A steward that traps stops as HALT stops it (R323). -/
def Drover.takeTrap (d : Drover) (t : TrapReq) : Drover :=
  { d with trap := some t, hold := .idle, run := if d.steward then .halted else d.run }

/-- Returning from a trap (R324): the task goes on at an address, with the values that a steward left in its record: x1 to
x27 that were ready at capture, predicates, FFLAGS and QPEER. Registers pending at capture keep what they receive. -/
def Drover.resume (d : Drover) (pc : Word) (xs : Nat → Word) (pending : BitVec 32) (preds : BitVec 8) (fflags : BitVec 5)
    (qpeer : BitVec 4) : Drover :=
  { d with
    regs := { d.regs with
      x := Vector.ofFn fun (i : Fin 32) => if i.val = 0 ∨ 28 ≤ i.val ∨ pending.getLsbD i.val then d.regs.x[i] else xs i.val,
      p := preds, pc := pc },
    ctl := { d.ctl with fflags := fflags, qpeer := qpeer },
    held := false, trap := none, blockedAt := none }

/-- What an issue attempt answers. -/
inductive Res (α : Type) where
  /-- The instruction issues. -/
  | ok (a : α)
  /-- It stalls, and nothing has changed; with what the stall is a block on, if it is one (R281). -/
  | stall (on : Option Nat)
  /-- It has begun and holds issue (R146, R159, R261): chip and drover with what has begun, and what the hold is
  a block on. -/
  | hold (c : Chip) (d : Drover) (on : Option Nat)
  /-- It traps; the drover is as before but for a late error consumed. -/
  | trap (t : TrapReq) (d : Drover)

/-- Sequencing of issue attempts. -/
def Res.bind {α β : Type} (r : Res α) (f : α → Res β) : Res β :=
  match r with
  | .ok a => f a
  | .stall b => .stall b
  | .hold c d b => .hold c d b
  | .trap t d => .trap t d

/-- Goes on unless there is a stall. -/
def unlessStall {α : Type} (o : Option (Option Nat)) (k : Res α) : Res α :=
  match o with
  | none => k
  | some b => .stall b

/-- The trap that a late error becomes at the instruction that reads the register (R18, R139, R327). -/
def Drover.lateTrap (d : Drover) (l : LateErr) : TrapReq :=
  { cause := l.cause, pc := d.regs.pc, val := l.val, origin := l.origin, aux0 := l.aux0, aux1 := 0,
    aux2 := if l.cause = 6 then 4 else 0 }

/-- Reading a source, once the stalls of R17 are over: x0 to x27, or a pop of a read port (R9). A register with a late
error traps (R18, R139); x30 is no source. -/
def Drover.readX (d : Drover) (u : Nat) (r : BitVec 5) : Res (Word × Drover) :=
  if r.toNat < 28 then
    match look d.board.late r.toNat with
    | some l =>
      .trap (d.lateTrap l) { d with board := { d.board with late := del d.board.late r.toNat } }
    | none =>
      match look d.board.clk r.toNat with
      | none => .ok (d.regs.getX r, d)
      | some k =>
        .ok (d.regs.getX r, { d with board := { d.board with clk := del d.board.clk r.toNat } }.acquire u k)
  else if r.toNat = 28 then
    match d.queues.mbx with
    | [] => .stall (some 28)
    | e :: q =>
      .ok (e.val, if e.clk = [] then { d with queues := { d.queues with mbx := q } }
        else { d with queues := { d.queues with mbx := q } }.acquire u e.clk)
  else if r.toNat = 29 then
    match d.queues.act with
    | [] => .stall (some 29)
    | e :: q => .ok (e.val, { d with queues := { d.queues with act := q } })
  else if r.toNat = 31 then
    match d.queues.inq with
    | [] => .stall (some 31)
    | e :: q => .ok (e.val, { d with queues := { d.queues with inq := q } }.acquire u e.clk)
  else .trap (d.trapAt 1 0) d

/-- Goes on unless a source holds a late error: the first of them traps before any source is read, so that the trap is
precise (R18, R105). -/
def Drover.unlessLate {α : Type} (d : Drover) (l : List (BitVec 5)) (k : Res α) : Res α :=
  match l.findSome? fun r => (look d.board.late r.toNat).map fun e => (r, e) with
  | some (r, e) => .trap (d.lateTrap e) { d with board := { d.board with late := del d.board.late r.toNat } }
  | none => k

/-- Two sources, ra before rb (R9). -/
def Drover.read2 (d : Drover) (u : Nat) (a b : BitVec 5) : Res (Word × Word × Drover) :=
  d.unlessLate [a, b] <|
    (d.readX u a).bind fun (va, d) => (d.readX u b).bind fun (vb, d) => .ok (va, vb, d)

/-- Writing x0 to x27: what stood there is replaced, a late error never read is dropped (its log entry is written by
`State.commit`). -/
def Drover.writeX (d : Drover) (r : BitVec 5) (v : Word) : Drover :=
  { d with regs := d.regs.setX r v,
           board := { d.board with late := del d.board.late r.toNat, clk := del d.board.clk r.toNat } }

/-- Leaving a destination pending (R16); x0 never becomes pending (R17, rule 3). -/
def Drover.pendX (d : Drover) (r : BitVec 5) (a : Await) : Drover :=
  if r.toNat = 0 then d
  else { d with board := { d.board with pend := put d.board.pend r.toNat a, late := del d.board.late r.toNat,
                                        clk := del d.board.clk r.toNat } }

/-- A completion: the register becomes ready with a value (R16). -/
def Drover.completeX (d : Drover) (r : Nat) (v : Word) : Drover :=
  { d with regs := d.regs.setX (BitVec.ofNat 5 r) v, board := { d.board with pend := del d.board.pend r } }

/-- A completion with a late error (R18). -/
def Drover.completeLate (d : Drover) (r : Nat) (l : LateErr) : Drover :=
  { d with board := { d.board with pend := del d.board.pend r, late := put d.board.late r l } }

/-- The caravan's members still on their serais: whether index i names a member that has not retired (R157). -/
def Chip.peerAlive (c : Chip) (u i : Nat) : Bool :=
  match c.caravanOf? u with
  | none => false
  | some v =>
    match v.members[i]? with
    | none => false
    | some m =>
      match c.task? m with
      | none => false
      | some t => t.state != .retired && t.state != .killed

/-- Reductions. -/
def AccKind.isRed : AccKind → Bool
  | .red _ _ => true
  | _ => false

/-- Whether the access reads, and so goes into the issue queue (R266). -/
def AccKind.isRead : AccKind → Bool
  | .load => true
  | .loadU => true
  | .dload => true
  | .ldf => true
  | .ldfe => true
  | .amo _ => true
  | .amoCas => true
  | .amocCas => true
  | .amocDecz => true
  | .amocAddge => true
  | _ => false

/-- Whether an entry of the queues stands for no access: a FENCE marker, or the hold of a GWAIT. -/
def AccKind.isMarker : AccKind → Bool
  | .fence => true
  | .phase _ => true
  | _ => false

/-- Whether an access has an address. -/
def Access.placed (a : Access) : Bool :=
  match a.kind with
  | .fence => false
  | .phase _ => false
  | .arrive _ _ => false
  | _ => true

/-- Whether an access is performed at a scope (R145, R267): performed, or, at `.se` and `.cv`, a write to this module out
on the mesh. A STEF counts only when it is performed (R140). -/
def Access.performedAt (x : Access) (scope : Nat) : Bool :=
  x.phase == .replied || x.kind.isMarker ||
    (decide (scope ≤ 1) && !x.kind.isRead && !x.leaf.rmt && x.kind != .stef && match x.phase with
      | .sent => true
      | .joined _ _ => true
      | _ => false)

/-- Whether every older access of the drover but its REDs is performed at caravan scope, as a push requires (R145, R156). -/
def Drover.pushReady (d : Drover) : Bool := d.mem.accs.all fun a => a.kind.isRed || a.performedAt 1

/-- A result that the drover computes goes to its destination: x1 to x27, nowhere for x0, a push through x30 (R9, R105);
a push to no living member raises ILLEGAL (R11, R157), with the drover as it was before its operands were read (R105). A
push waits until the accesses that it releases are out. -/
def State.result (s : State) (d : Drover) (r : BitVec 5) (v : Word) : Res Drover :=
  if r.toNat = 30 then
    if s.chip.peerAlive s.focus d.ctl.qpeer.toNat then
      if d.pushReady then
        let p := d.ctl.qpeer.toNat
        let d := d.tick s.focus
        .ok { d with queues := { d.queues with
          outq := put d.queues.outq p (lookD d.queues.outq p [] ++ [{ val := v, peer := p, clk := d.clk }]) } }
      else .stall none
    else .trap (d.trapAt 1 0) ((s.chip.drover? s.focus).getD d)
  else .ok (d.writeX r v)

/-! ## Issue -/

/-- The drover in focus. -/
def State.cur? (s : State) : Option Drover := s.chip.drover? s.focus

/-- The instruction has issued: the pc moves on, it is counted, and the stall is over. -/
def Drover.retire (d : Drover) (n : Nat) : Drover :=
  { d with regs := { d.regs with pc := d.regs.pc + BitVec.ofNat 64 n },
           ctl := { d.ctl with instret := d.ctl.instret + 1 }, hold := .idle, blockedAt := none }

/-- An event ends a SLEEP (R123): the held instruction has its answer. -/
def Drover.wake (d : Drover) : Drover := if d.hold = .sleep then { d with hold := .result 0 } else d

/-- A stall: the cycle since which the drover is blocked is kept or cleared (R281). -/
def Drover.stalled (d : Drover) (on : Option Nat) (cycle : Nat) : Drover :=
  { d with blockedAt := on.map fun o => (d.blockedSince.getD cycle, o) }

/-- Late errors that a new drover has lost, and so must be logged: those on registers written unread (R18). -/
def lostErrors (old new : Drover) : List LateErr :=
  ((old.board.late.filter fun p => (look new.board.late p.1).isNone) ++
    old.board.dbad.filter fun p => (look new.board.dbad p.1).isNone).map fun p => p.2

/-- The state with the drover in focus replaced, and lost late errors logged. -/
def State.commit (s : State) (old new : Drover) : State :=
  s.onChip fun c => (lostErrors old new).foldl (fun c l => c.logLate s.focus old l) (c.setDrover s.focus new)

/-- The state after the drover in focus has trapped. -/
def State.takeTrap (s : State) (t : TrapReq) (d : Drover) : State :=
  s.onChip fun c => c.setDrover s.focus (d.takeTrap t)

/-- The words of an instruction in the trap record, for ILLEGAL and PRIV (R327). -/
def withWords (i : Instr) (t : TrapReq) : TrapReq :=
  if t.cause = 1 ∨ t.cause = 0x14 then
    { t with aux0 := ((encode i)[0]?.getD 0).setWidth 64, aux1 := ((encode i)[1]?.getD 0).setWidth 64 }
  else t

/-- An instruction that changes its drover alone; the pc moves on by `n` bytes beyond what `f` answers. -/
def State.issues (s : State) (i : Instr) (n : Nat) (f : Drover → Res Drover) : Host.Outcome State Fault Refusal :=
  match s.cur? with
  | none => .next s
  | some d =>
    match f d with
    | .ok d' => .next (s.commit d (d'.retire n))
    | .stall b => .next (s.onChip fun c => c.setDrover s.focus (d.stalled b s.cycle))
    | .hold c d' b => .next ({ s with chip := c }.commit d (d'.stalled b s.cycle))
    | .trap t d' => .next (s.takeTrap (withWords i t) d')

/-- Bytes of an instruction. -/
def Instr.bytes (i : Instr) : Nat := 4 * (encode i).length

/-- An instruction that changes its drover alone and goes on to the next instruction. -/
def State.drove (s : State) (i : Instr) (f : Drover → Res Drover) : Host.Outcome State Fault Refusal :=
  s.issues i (Instr.bytes i) f

/-- An instruction that changes its drover and more of the chip: `f` answers the changed chip and the drover's new
value. -/
def State.drives (s : State) (i : Instr) (f : Drover → Res (Chip × Drover)) : Host.Outcome State Fault Refusal :=
  match s.cur? with
  | none => .next s
  | some d =>
    match f d with
    | .ok (c, d') => .next ({ s with chip := c }.commit d (d'.retire (Instr.bytes i)))
    | .stall b => .next (s.onChip fun c => c.setDrover s.focus (d.stalled b s.cycle))
    | .hold c d' b => .next ({ s with chip := c }.commit d (d'.stalled b s.cycle))
    | .trap t d' => .next (s.takeTrap (withWords i t) d')

end Sys2Proof.Machine
end

