-- ==== Sys2Proof/Machine/Operands.lean ====
section
/-!
DEFINITION. The operand forms of the scalar instructions (R105): which registers are read at issue, after the stalls of
R17, and where the result goes.
-/

namespace Sys2Proof.Machine

/-- xd from two scalar sources. -/
def State.op2 (s : State) (i : Instr) (d a b : BitVec 5) (f : Word → Word → Word) :
    Host.Outcome State Fault Refusal :=
  s.drove i fun dr =>
    unlessStall (dr.srcStall [a, b]) <| unlessStall (dr.dstStall d) <|
      (dr.read2 s.focus a b).bind fun (va, vb, dr) => s.result dr d (f va vb)

/-- xd from one scalar source. -/
def State.op1 (s : State) (i : Instr) (d a : BitVec 5) (f : Word → Word) : Host.Outcome State Fault Refusal :=
  s.drove i fun dr =>
    unlessStall (dr.srcStall [a]) <| unlessStall (dr.dstStall d) <|
      (dr.readX s.focus a).bind fun (va, dr) => s.result dr d (f va)

/-- xd from the drover's other registers. -/
def State.op0 (s : State) (i : Instr) (d : BitVec 5) (f : Drover → Word) : Host.Outcome State Fault Refusal :=
  s.drove i fun dr => unlessStall (dr.dstStall d) <| s.result dr d (f dr)

/-- pd from two scalar sources. Predicates never stall (R105). -/
def State.cmp2 (s : State) (i : Instr) (p : BitVec 3) (a b : BitVec 5) (f : Word → Word → Bool) :
    Host.Outcome State Fault Refusal :=
  s.drove i fun dr =>
    unlessStall (dr.srcStall [a, b]) <|
      (dr.read2 s.focus a b).bind fun (va, vb, dr) => .ok { dr with regs := dr.regs.setP p (f va vb) }

/-- pd from one scalar source. -/
def State.cmp1 (s : State) (i : Instr) (p : BitVec 3) (a : BitVec 5) (f : Word → Bool) :
    Host.Outcome State Fault Refusal :=
  s.drove i fun dr =>
    unlessStall (dr.srcStall [a]) <|
      (dr.readX s.focus a).bind fun (va, dr) => .ok { dr with regs := dr.regs.setP p (f va) }

/-- pd from predicates. -/
def State.pred (s : State) (i : Instr) (p : BitVec 3) (f : Regs → Bool) : Host.Outcome State Fault Refusal :=
  s.drove i fun dr => .ok { dr with regs := dr.regs.setP p (f dr.regs) }

end Sys2Proof.Machine
end

