-- ==== Sys2Proof/Machine/Alu.lean ====
section
/-!
DEFINITION. Integer register operations (R106) and immediate operations (R107, R108, R76).
-/

namespace Sys2Proof.Machine

/-! ## Operations at a width -/

/-- An operation at 64 bits, or at 32 bits with the result sign-extended when W is set (R106). -/
def atWidth (w : BitVec 1) (f : (n : Nat) → BitVec n → BitVec n → BitVec n) (a b : Word) : Word :=
  if w = 1 then (f 32 (a.setWidth 32) (b.setWidth 32)).signExtend 64 else f 64 a b

/-- Number of leading zeros. -/
def clzN (n : Nat) (a : BitVec n) : BitVec n := BitVec.ofNat n (n - bitLen a.toNat)

/-- Trailing zeros of a number below 2^n, n when it is 0. -/
def ctzNat : Nat → Nat → Nat
  | _, 0 => 0
  | a, n + 1 => if a % 2 = 1 then 0 else 1 + ctzNat (a / 2) n

/-- Number of trailing zeros. -/
def ctzN (n : Nat) (a : BitVec n) : BitVec n := BitVec.ofNat n (ctzNat a.toNat n)

/-- Set bits among the n low ones. -/
def popNat : Nat → Nat → Nat
  | _, 0 => 0
  | a, n + 1 => a % 2 + popNat (a / 2) n

/-- Number of set bits. -/
def popN (n : Nat) (a : BitVec n) : BitVec n := BitVec.ofNat n (popNat a.toNat n)

/-- The eight bytes reversed. -/
def bswap (a : Word) : Word := BitVec.ofNat 64 (natOfBytes (leBytes a.toNat 8).reverse)

/-- ADD (R106). -/
def execAdd (d a b : BitVec 5) (w : BitVec 1) (s : State) : Host.Outcome State Fault Refusal :=
  s.op2 (.add d a b w) d a b (atWidth w fun _ x y => x + y)
/-- SUB (R106). -/
def execSub (d a b : BitVec 5) (w : BitVec 1) (s : State) : Host.Outcome State Fault Refusal :=
  s.op2 (.sub d a b w) d a b (atWidth w fun _ x y => x - y)
/-- AND (R106). -/
def execAnd (d a b : BitVec 5) (s : State) : Host.Outcome State Fault Refusal :=
  s.op2 (.and d a b) d a b fun x y => x &&& y
/-- OR (R106). -/
def execOr (d a b : BitVec 5) (s : State) : Host.Outcome State Fault Refusal :=
  s.op2 (.or d a b) d a b fun x y => x ||| y
/-- XOR (R106). -/
def execXor (d a b : BitVec 5) (s : State) : Host.Outcome State Fault Refusal :=
  s.op2 (.xor d a b) d a b fun x y => x ^^^ y
/-- ANDN (R106). -/
def execAndn (d a b : BitVec 5) (s : State) : Host.Outcome State Fault Refusal :=
  s.op2 (.andn d a b) d a b fun x y => x &&& ~~~y
/-- SHL (R106): by b mod n. -/
def execShl (d a b : BitVec 5) (w : BitVec 1) (s : State) : Host.Outcome State Fault Refusal :=
  s.op2 (.shl d a b w) d a b (atWidth w fun n x y => x <<< (y.toNat % n))
/-- SHR (R106). -/
def execShr (d a b : BitVec 5) (w : BitVec 1) (s : State) : Host.Outcome State Fault Refusal :=
  s.op2 (.shr d a b w) d a b (atWidth w fun n x y => x >>> (y.toNat % n))
/-- SAR (R106). -/
def execSar (d a b : BitVec 5) (w : BitVec 1) (s : State) : Host.Outcome State Fault Refusal :=
  s.op2 (.sar d a b w) d a b (atWidth w fun n x y => x.sshiftRight (y.toNat % n))
/-- ROL (R106). -/
def execRol (d a b : BitVec 5) (w : BitVec 1) (s : State) : Host.Outcome State Fault Refusal :=
  s.op2 (.rol d a b w) d a b (atWidth w fun n x y => x.rotateLeft (y.toNat % n))
/-- MUL (R106). -/
def execMul (d a b : BitVec 5) (w : BitVec 1) (s : State) : Host.Outcome State Fault Refusal :=
  s.op2 (.mul d a b w) d a b (atWidth w fun _ x y => x * y)
/-- MULH (R106): bits [127:64] of the signed product. -/
def execMulh (d a b : BitVec 5) (s : State) : Host.Outcome State Fault Refusal :=
  s.op2 (.mulh d a b) d a b fun x y => BitVec.ofInt 64 (x.toInt * y.toInt / 2 ^ 64)
/-- MULHU (R106): bits [127:64] of the unsigned product. -/
def execMulhu (d a b : BitVec 5) (s : State) : Host.Outcome State Fault Refusal :=
  s.op2 (.mulhu d a b) d a b fun x y => BitVec.ofNat 64 (x.toNat * y.toNat / 2 ^ 64)
/-- DIV (R106, R44). -/
def execDiv (d a b : BitVec 5) (w : BitVec 1) (s : State) : Host.Outcome State Fault Refusal :=
  s.op2 (.div d a b w) d a b (atWidth w fun n x y => BitVec.ofNat n (divN n true x.toNat y.toNat).1)
/-- DIVU (R106, R44). -/
def execDivu (d a b : BitVec 5) (w : BitVec 1) (s : State) : Host.Outcome State Fault Refusal :=
  s.op2 (.divu d a b w) d a b (atWidth w fun n x y => BitVec.ofNat n (divN n false x.toNat y.toNat).1)
/-- REM (R106, R44). -/
def execRem (d a b : BitVec 5) (w : BitVec 1) (s : State) : Host.Outcome State Fault Refusal :=
  s.op2 (.rem d a b w) d a b (atWidth w fun n x y => BitVec.ofNat n (divN n true x.toNat y.toNat).2)
/-- REMU (R106, R44). -/
def execRemu (d a b : BitVec 5) (w : BitVec 1) (s : State) : Host.Outcome State Fault Refusal :=
  s.op2 (.remu d a b w) d a b (atWidth w fun n x y => BitVec.ofNat n (divN n false x.toNat y.toNat).2)
/-- MIN (R106). -/
def execMin (d a b : BitVec 5) (w : BitVec 1) (s : State) : Host.Outcome State Fault Refusal :=
  s.op2 (.min d a b w) d a b (atWidth w fun _ x y => if x.slt y then x else y)
/-- MAX (R106). -/
def execMax (d a b : BitVec 5) (w : BitVec 1) (s : State) : Host.Outcome State Fault Refusal :=
  s.op2 (.max d a b w) d a b (atWidth w fun _ x y => if x.slt y then y else x)
/-- MINU (R106). -/
def execMinu (d a b : BitVec 5) (w : BitVec 1) (s : State) : Host.Outcome State Fault Refusal :=
  s.op2 (.minu d a b w) d a b (atWidth w fun _ x y => if x.ult y then x else y)
/-- MAXU (R106). -/
def execMaxu (d a b : BitVec 5) (w : BitVec 1) (s : State) : Host.Outcome State Fault Refusal :=
  s.op2 (.maxu d a b w) d a b (atWidth w fun _ x y => if x.ult y then y else x)
/-- CLZ (R106). -/
def execClz (d a : BitVec 5) (w : BitVec 1) (s : State) : Host.Outcome State Fault Refusal :=
  s.op1 (.clz d a w) d a fun x => atWidth w (fun n x _ => clzN n x) x 0
/-- CTZ (R106). -/
def execCtz (d a : BitVec 5) (w : BitVec 1) (s : State) : Host.Outcome State Fault Refusal :=
  s.op1 (.ctz d a w) d a fun x => atWidth w (fun n x _ => ctzN n x) x 0
/-- POPC (R106). -/
def execPopc (d a : BitVec 5) (w : BitVec 1) (s : State) : Host.Outcome State Fault Refusal :=
  s.op1 (.popc d a w) d a fun x => atWidth w (fun n x _ => popN n x) x 0
/-- SEXTB (R106). -/
def execSextb (d a : BitVec 5) (s : State) : Host.Outcome State Fault Refusal :=
  s.op1 (.sextb d a) d a fun x => (x.setWidth 8).signExtend 64
/-- SEXTH (R106). -/
def execSexth (d a : BitVec 5) (s : State) : Host.Outcome State Fault Refusal :=
  s.op1 (.sexth d a) d a fun x => (x.setWidth 16).signExtend 64
/-- SEXTW (R106). -/
def execSextw (d a : BitVec 5) (s : State) : Host.Outcome State Fault Refusal :=
  s.op1 (.sextw d a) d a fun x => (x.setWidth 32).signExtend 64
/-- BSWAP (R106). -/
def execBswap (d a : BitVec 5) (s : State) : Host.Outcome State Fault Refusal :=
  s.op1 (.bswap d a) d a bswap

/-! ## Immediates (R70, R107) -/

/-- ADDI: sext(imm16). -/
def execAddi (d a : BitVec 5) (i : BitVec 16) (s : State) : Host.Outcome State Fault Refusal :=
  s.op1 (.addi d a i) d a fun x => x + i.signExtend 64
/-- ANDI: zext(imm16). -/
def execAndi (d a : BitVec 5) (i : BitVec 16) (s : State) : Host.Outcome State Fault Refusal :=
  s.op1 (.andi d a i) d a fun x => x &&& i.setWidth 64
/-- ORI: zext(imm16). -/
def execOri (d a : BitVec 5) (i : BitVec 16) (s : State) : Host.Outcome State Fault Refusal :=
  s.op1 (.ori d a i) d a fun x => x ||| i.setWidth 64
/-- XORI: zext(imm16). -/
def execXori (d a : BitVec 5) (i : BitVec 16) (s : State) : Host.Outcome State Fault Refusal :=
  s.op1 (.xori d a i) d a fun x => x ^^^ i.setWidth 64
/-- SHLI (R107). -/
def execShli (d a : BitVec 5) (w : BitVec 1) (n : BitVec 6) (s : State) : Host.Outcome State Fault Refusal :=
  s.op1 (.shli d a w n) d a fun x => atWidth w (fun k x _ => x <<< (n.toNat % k)) x 0
/-- SHRI (R107). -/
def execShri (d a : BitVec 5) (w : BitVec 1) (n : BitVec 6) (s : State) : Host.Outcome State Fault Refusal :=
  s.op1 (.shri d a w n) d a fun x => atWidth w (fun k x _ => x >>> (n.toNat % k)) x 0
/-- SARI (R107). -/
def execSari (d a : BitVec 5) (w : BitVec 1) (n : BitVec 6) (s : State) : Host.Outcome State Fault Refusal :=
  s.op1 (.sari d a w n) d a fun x => atWidth w (fun k x _ => x.sshiftRight (n.toNat % k)) x 0
/-- LUI: sext(imm16) × 65536. -/
def execLui (d : BitVec 5) (i : BitVec 16) (s : State) : Host.Outcome State Fault Refusal :=
  s.op0 (.lui d i) d fun _ => i.signExtend 64 <<< 16
/-- LIW: sext(imm32) (R76). -/
def execLiw (d : BitVec 5) (i : BitVec 32) (s : State) : Host.Outcome State Fault Refusal :=
  s.op0 (.liw d i) d fun _ => i.signExtend 64
/-- LIH: the high half; the low half is kept, so rd is read (R76, R108). -/
def execLih (d : BitVec 5) (i : BitVec 32) (s : State) : Host.Outcome State Fault Refusal :=
  s.op1 (.lih d i) d d fun x => i.setWidth 64 <<< 32 ||| (x.setWidth 32).setWidth 64

end Sys2Proof.Machine
end

