-- ==== Sys2Proof/Machine/Compare.lean ====
section
/-!
DEFINITION. Comparisons (R109) and predicate operations (R110).
-/

namespace Sys2Proof.Machine

/-- A comparison's operand: the low 32 bits sign-extended for W and a signed compare. -/
def cmpS (w : BitVec 1) (x : Word) : Word := if w = 1 then (x.setWidth 32).signExtend 64 else x

/-- A comparison's operand: the low 32 bits zero-extended for W and an unsigned compare. -/
def cmpU (w : BitVec 1) (x : Word) : Word := if w = 1 then (x.setWidth 32).setWidth 64 else x

/-- CEQ (R109). -/
def execCeq (p : BitVec 3) (a b : BitVec 5) (w : BitVec 1) (s : State) : Host.Outcome State Fault Refusal :=
  s.cmp2 (.ceq p a b w) p a b fun x y => cmpU w x == cmpU w y
/-- CNE (R109). -/
def execCne (p : BitVec 3) (a b : BitVec 5) (w : BitVec 1) (s : State) : Host.Outcome State Fault Refusal :=
  s.cmp2 (.cne p a b w) p a b fun x y => cmpU w x != cmpU w y
/-- CLT (R109). -/
def execClt (p : BitVec 3) (a b : BitVec 5) (w : BitVec 1) (s : State) : Host.Outcome State Fault Refusal :=
  s.cmp2 (.clt p a b w) p a b fun x y => (cmpS w x).slt (cmpS w y)
/-- CLTU (R109). -/
def execCltu (p : BitVec 3) (a b : BitVec 5) (w : BitVec 1) (s : State) : Host.Outcome State Fault Refusal :=
  s.cmp2 (.cltu p a b w) p a b fun x y => (cmpU w x).ult (cmpU w y)
/-- CLE (R109). -/
def execCle (p : BitVec 3) (a b : BitVec 5) (w : BitVec 1) (s : State) : Host.Outcome State Fault Refusal :=
  s.cmp2 (.cle p a b w) p a b fun x y => (cmpS w x).sle (cmpS w y)
/-- CLEU (R109). -/
def execCleu (p : BitVec 3) (a b : BitVec 5) (w : BitVec 1) (s : State) : Host.Outcome State Fault Refusal :=
  s.cmp2 (.cleu p a b w) p a b fun x y => (cmpU w x).ule (cmpU w y)
/-- CMPI.eq (R109). -/
def execCmpiEq (p : BitVec 3) (a : BitVec 5) (i : BitVec 16) (s : State) : Host.Outcome State Fault Refusal :=
  s.cmp1 (.cmpiEq p a i) p a fun x => x == i.signExtend 64
/-- CMPI.lt (R109). -/
def execCmpiLt (p : BitVec 3) (a : BitVec 5) (i : BitVec 16) (s : State) : Host.Outcome State Fault Refusal :=
  s.cmp1 (.cmpiLt p a i) p a fun x => x.slt (i.signExtend 64)
/-- CMPI.ltu: the sign-extended immediate as an unsigned number (R70). -/
def execCmpiLtu (p : BitVec 3) (a : BitVec 5) (i : BitVec 16) (s : State) : Host.Outcome State Fault Refusal :=
  s.cmp1 (.cmpiLtu p a i) p a fun x => x.ult (i.signExtend 64)
/-- CMPI.le (R109). -/
def execCmpiLe (p : BitVec 3) (a : BitVec 5) (i : BitVec 16) (s : State) : Host.Outcome State Fault Refusal :=
  s.cmp1 (.cmpiLe p a i) p a fun x => x.sle (i.signExtend 64)

/-- PAND (R110). -/
def execPand (d a b : BitVec 3) (s : State) : Host.Outcome State Fault Refusal :=
  s.pred (.pand d a b) d fun r => r.getP a && r.getP b
/-- POR (R110). -/
def execPor (d a b : BitVec 3) (s : State) : Host.Outcome State Fault Refusal :=
  s.pred (.por d a b) d fun r => r.getP a || r.getP b
/-- PXOR (R110). -/
def execPxor (d a b : BitVec 3) (s : State) : Host.Outcome State Fault Refusal :=
  s.pred (.pxor d a b) d fun r => r.getP a != r.getP b
/-- PANDN (R110). -/
def execPandn (d a b : BitVec 3) (s : State) : Host.Outcome State Fault Refusal :=
  s.pred (.pandn d a b) d fun r => r.getP a && !r.getP b
/-- PNOT (R110). -/
def execPnot (d a : BitVec 3) (s : State) : Host.Outcome State Fault Refusal :=
  s.pred (.pnot d a) d fun r => !r.getP a
/-- PSET: bit 0 of xa (R110). -/
def execPset (d : BitVec 3) (a : BitVec 5) (s : State) : Host.Outcome State Fault Refusal :=
  s.cmp1 (.pset d a) d a fun x => x.getLsbD 0
/-- PGET (R110). -/
def execPget (d : BitVec 5) (a : BitVec 3) (s : State) : Host.Outcome State Fault Refusal :=
  s.op0 (.pget d a) d fun dr => if dr.regs.getP a then 1 else 0
/-- SEL reads both sources, whichever it selects (R110). -/
def execSel (d a b : BitVec 5) (c : BitVec 3) (s : State) : Host.Outcome State Fault Refusal :=
  s.drove (.sel d a b c) fun dr =>
    unlessStall (dr.srcStall [a, b]) <| unlessStall (dr.dstStall d) <|
      (dr.read2 s.focus a b).bind fun (va, vb, dr) => s.result dr d (if dr.regs.getP c then va else vb)

end Sys2Proof.Machine
end

