-- ==== Sys2Proof/Machine/Translate.lean ====
section
/-!
DEFINITION. Translation (R248 to R253, R257, R261): page-table entries and the walk, what a TLB answers, permissions,
and the caravan window.
-/

namespace Sys2Proof.Machine

/-- Bytes of a page by size code (R250). -/
def pageBytes (code : Nat) : Nat :=
  match code with
  | 0 => 2 ^ 12
  | 1 => 2 ^ 16
  | 2 => 2 ^ 21
  | 3 => 2 ^ 25
  | 4 => 2 ^ 30
  | 5 => 2 ^ 33
  | _ => 2 ^ 36

/-- The level at which a leaf of a size code stands (R250). -/
def pageLevel (code : Nat) : Nat := if code < 2 then 4 else if code < 4 then 3 else 2

/-- Entries that a page of a size code occupies (R250). -/
def runLength (code : Nat) : Nat :=
  match code with
  | 1 => 16
  | 3 => 16
  | 5 => 8
  | 6 => 64
  | _ => 1

/-- The index of a virtual address at a level (R248). -/
def vaIndex (va level : Nat) : Nat :=
  match level with
  | 1 => bitsOf va 45 12
  | 2 => bitsOf va 30 15
  | 3 => bitsOf va 21 9
  | _ => bitsOf va 12 9

/-- Alignment of a table by level (R248). -/
def tableAlign (level : Nat) : Nat :=
  match level with
  | 1 => 2 ^ 16
  | 2 => 2 ^ 19
  | _ => 2 ^ 13

/-- Whether a leaf's attributes agree with the region of its address (R253): tier, dielocal, rmt. -/
def regionAgrees (pa : Nat) (tier dielocal rmt : Bool) : Bool :=
  match regionOf pa with
  | .hbmI => !tier && !dielocal
  | .hbmD => !tier && dielocal
  | .lpddr => tier && !dielocal
  | .tcp => !tier && !dielocal && !rmt
  | .serai _ _ => !tier && !rmt
  | .host => !tier && !dielocal && !rmt
  | .hole => false

/-- A valid leaf's checks, and the translation it gives at a level for an address (R50, R249, R250, R253). -/
def leafOf (expid va level lo hi : Nat) : Option Leaf :=
  let code := bitsOf hi 33 3
  let fmt := bitsOf hi 42 6
  let pa := bitsOf lo 12 32 * 4096
  let rmt := bitOf lo 54
  let reserved := bitsOf lo 44 10 != 0 || bitsOf lo 6 6 != 0 || bitsOf hi 48 16 != 0 || bitsOf hi 0 33 != 0 ||
    bitOf hi 41 || (!rmt && bitsOf lo 55 9 != 0)
  if reserved || code == 7 || (elemOf fmt).isNone then none
  else if level = 1 ∨ pageLevel code ≠ level then none
  else if pa % pageBytes code ≠ 0 then none
  else if !regionAgrees pa (bitOf hi 36) (bitOf hi 37) rmt then none
  else
    some { expid := expid, vbase := va / pageBytes code * pageBytes code, size := pageBytes code, pbase := pa,
           rmt := rmt, dev := bitsOf lo 55 9, canR := bitOf lo 2, canW := bitOf lo 3, canX := bitOf lo 4,
           user := bitOf lo 5, fmt := BitVec.ofNat 6 fmt, watched := bitOf hi 40, tagged := bitOf hi 39,
           replicable := bitOf hi 38 }

/-- The two words of a table entry, read in one step; none when the entry is uncorrectable (R251, R262). -/
def Homes.entry (h : Homes) (a : Nat) : Option (Nat × Nat) :=
  if h.anyBad a 16 then none else some (h.num a 8, h.num (a + 8) 8)

/-- The entry that serves an address whose leaf spans a run: any of the run's entries when they differ (R251, log 18). -/
def Homes.runEntry (h : Homes) (level t i : Nat) (e : Nat × Nat) : Option (Nat × Nat) :=
  let code := bitsOf e.2 33 3
  let n := runLength code
  if bitOf e.1 1 && 1 < n && pageLevel code == level then
    let first := i / n * n
    let all := (List.range n).map fun k => h.entry (t + 16 * (first + k))
    if all.all fun x => x == some e then some e
    else h.entry (t + 16 * (first + Config.runEntry (t + 16 * first) i % n))
  else some e

/-- What one step of a walk answers. -/
inductive WalkStep where
  /-- The leaf. -/
  | done (l : Leaf)
  /-- A pointer: the table of the next level. -/
  | on (t : Nat)
  /-- A failed check: XLATE. -/
  | fault
  /-- An uncorrectable entry, with its address: XLATE, and logged (R262). -/
  | bad (a : Nat)
  deriving DecidableEq, Repr

/-- One step of a walk: the entry of a level's table, whole, and its checks (R250). -/
def Homes.walkStep (h : Homes) (expid va level t : Nat) : WalkStep :=
  let i := vaIndex va level
  match (h.entry (t + 16 * i)).bind (h.runEntry level t i) with
  | none => .bad (t + 16 * i)
  | some (lo, hi) =>
    if !bitOf lo 0 then .fault
    else if bitOf lo 1 then
      match leafOf expid va level lo hi with
      | some l => .done l
      | none => .fault
    else
      let t' := bitsOf lo 12 32 * 4096
      if level = 4 ∨ bitsOf lo 44 20 ≠ 0 ∨ bitsOf lo 2 10 ≠ 0 ∨ hi ≠ 0 ∨ t' % tableAlign (level + 1) ≠ 0 then .fault
      else .on t'

/-- The steps of a walk from a table at a level, with no store between them: fuel counts the levels left. -/
def Homes.walkFrom (h : Homes) (expid va t : Nat) : Nat → WalkStep
  | 0 => .fault
  | fuel + 1 =>
    match h.walkStep expid va (4 - fuel) t with
    | .on t' => h.walkFrom expid va t' fuel
    | r => r

/-- Whether the walker takes an address under a root (R248, R250). -/
def walkable (ptroot : BitVec 45) (va : Nat) : Bool := !(decide (2 ^ 57 ≤ va) || bitsOf va 45 12 == 0xFFF || ptroot.toNat % 16 != 0)

/-- The whole walk of a virtual address under a root. -/
def Homes.walkAll (h : Homes) (expid : Nat) (ptroot : BitVec 45) (va : Nat) : WalkStep :=
  if walkable ptroot va then h.walkFrom expid va (ptroot.toNat * 4096) 4 else .fault

/-- The leaf that the walk of a virtual address under a root finds (R248, R250). -/
def Homes.walk (h : Homes) (expid : Nat) (ptroot : BitVec 45) (va : Nat) : Option Leaf :=
  match h.walkAll expid ptroot va with
  | .done l => some l
  | _ => none

/-- The physical address a leaf gives. -/
def Leaf.pa (l : Leaf) (va : Nat) : Nat := l.pbase + (va - l.vbase)

/-- Whether a leaf covers an address for an expedition. -/
def Leaf.covers (l : Leaf) (expid va : Nat) : Bool :=
  l.expid == expid && decide (l.vbase ≤ va) && decide (va < l.vbase + l.size)

/-- What kind of access asks for a translation (R252). -/
inductive Need where
  /-- Instruction fetch. -/
  | fetch
  /-- Reads. -/
  | read
  /-- Writes. -/
  | write
  /-- Both. -/
  | both
  deriving DecidableEq, Repr

/-- Whether a leaf grants an access; steward mode ignores U (R252). -/
def Leaf.grants (l : Leaf) (steward : Bool) (n : Need) : Bool :=
  (steward || l.user) &&
    match n with
    | .fetch => l.canX
    | .read => l.canR
    | .write => l.canW
    | .both => l.canR && l.canW

/-- The tag of a translation: the expedition id, and one of its own for each steward, whose table belongs to no
expedition (log 5). -/
def Drover.expTag (d : Drover) : Nat := if d.steward then 65536 + d.core.getD 0 else d.exp

/-- The root of a drover's table: its own PTROOT for a steward, its expedition's for a task (R12, R248). -/
def Chip.rootOf (c : Chip) (d : Drover) : BitVec 45 :=
  if d.steward then d.stew.ptroot else
    match c.exp? d.exp with
    | none => 0
    | some x => x.ptroot

/-- Start of the caravan window (R248, R257). -/
def caravanBase : Nat := 0x01FFE00000000000

/-- The leaf of the caravan window over a serai (R257). -/
def windowLeaf (expid va n c : Nat) : Leaf :=
  let _ := va
  { expid := expid, vbase := caravanBase + c * 0x2000000, size := 0x2000000, pbase := 0x80000000000 + n * 0x2000000,
    rmt := false, dev := 0, canR := true, canW := true, canX := false, user := true, fmt := 0x3F, watched := false,
    tagged := true, replicable := false }

/-- A leaf that maps an address to itself: how a steward addresses physical memory before it has set PTROOT (log 5). -/
def flatLeaf (va : Nat) : Leaf :=
  { expid := 65536, vbase := va / 4096 * 4096, size := 4096, pbase := va / 4096 * 4096, rmt := false, dev := 0,
    canR := true, canW := true, canX := true, user := false, fmt := 0x3F, watched := false, tagged := true,
    replicable := false }

/-- What a translation answers. -/
inductive Trans where
  /-- The leaf, of this module or another. -/
  | leaf (l : Leaf)
  /-- A member of the caravan that is out of its serai: task and window offset (R257). -/
  | image (u off : Nat)
  /-- No holder has it: a walk is needed (R261). -/
  | miss
  /-- XLATE. -/
  | fault
  deriving DecidableEq, Repr

/-- Translation of an address for a drover through its TLB (R248, R257, R261). -/
def Chip.translate (c : Chip) (u : Nat) (d : Drover) (va : Nat) : Trans :=
  if 2 ^ 57 ≤ va then .fault
  else if d.steward ∧ d.stew.ptroot = 0 then
    if regionOf va = .hole then .fault else .leaf (flatLeaf va)
  else if bitsOf va 45 12 = 0xFFF then
    match c.caravanOf? u with
    | none => .fault
    | some v =>
      let k := (va - caravanBase) / 0x2000000
      match v.members[k]? with
      | none => .fault
      | some m =>
        match c.drover? m with
        | none => .fault
        | some dm =>
          match dm.core with
          | some n => .leaf (windowLeaf d.exp va n k)
          | none => .image m ((va - caravanBase) % 0x2000000)
  else
    match d.mem.tlb.find? fun l => l.covers d.expTag va with
    | some l => .leaf l
    | none => .miss

/-- The access a serai window's offset allows (R256). -/
def windowAllows (w : Window) (size : Nat) (isLoad isStore isCont isFetch : Bool) : Bool :=
  match w with
  | .bank _ _ => !isFetch && !isCont
  | .porter _ => size == 8 && isLoad
  | .context _ => size == 8 && isLoad
  | .mailbox => size == 8 && isStore
  | .inbox _ => size == 8 && isStore
  | .none => false

/-- Kinds that read memory plainly or store plainly, for R256. -/
def AccKind.isLoad : AccKind → Bool
  | .load => true
  | .loadU => true
  | _ => false

/-- See `AccKind.isLoad`. -/
def AccKind.isStore : AccKind → Bool
  | .store => true
  | _ => false

/-- Continuation atomics. -/
def AccKind.isCont : AccKind → Bool
  | .amocCas => true
  | .amocDecz => true
  | .amocAddge => true
  | _ => false

/-- Atomics, reductions and full/empty accesses, which the host region and a serai's state words do not take
(R256, R356). -/
def AccKind.isSync : AccKind → Bool
  | .ldf => true
  | .ldfe => true
  | .stef => true
  | .stf => true
  | .sete => true
  | .amo _ => true
  | .amoCas => true
  | .red _ _ => true
  | .amocCas => true
  | .amocDecz => true
  | .amocAddge => true
  | _ => false

/-- Full/empty accesses (R140). -/
def AccKind.isFullEmpty : AccKind → Bool
  | .ldf => true
  | .ldfe => true
  | .stef => true
  | .stf => true
  | .sete => true
  | _ => false

/-- The access's need of permissions (R252). -/
def AccKind.need : AccKind → Need
  | .load => .read
  | .loadU => .read
  | .dload => .read
  | .ldf => .read
  | .store => .write
  | .dstore => .write
  | .stef => .write
  | .stf => .write
  | .sete => .write
  | .fence => .read
  | .arrive _ _ => .read
  | .phase _ => .read
  | _ => .both

/-- Trap cause of an access of a kind and size at a leaf, after translation: XLATE for a hole, PERM as R27, R252, R256,
R263, R356 and R126 say; none when it may go on. -/
def accessFault (steward : Bool) (l : Leaf) (va size : Nat) (k : AccKind) : Option Nat :=
  let pa := l.pa va
  let reg := if l.rmt then Region.hbmI else regionOf pa
  let hole : Bool := match reg with
    | .hole => true
    | .serai _ off => windowOf off == .none
    | _ => false
  if hole then some 3
  else if !l.grants steward k.need then some 4
  else if k.isFullEmpty && !l.tagged then some 4
  else
    match reg with
    | .serai _ off => if windowAllows (windowOf off) size k.isLoad k.isStore k.isCont false then none else some 4
    | .host => if k.isSync then some 4 else none
    | .tcp =>
      if steward && size == 8 && ((k.isStore && pa % 4096 == 0) || (k.isLoad && pa % 4096 == 8)) then none else some 4
    | _ => none

end Sys2Proof.Machine
end

