-- ==== Sys2Proof/Machine/Remote.lean ====
section
/-!
DEFINITION. Packets to other modules (R354, R355), and how the engines read and write memory by virtual address: piece by
piece, each piece within one 64-byte chunk (R276), at the home or in another module (R126, R367).
-/

namespace Sys2Proof.Machine

/-! ## Packets -/

/-- Header and payload of a packet as bytes (R354). -/
def Packet.bytes (p : Packet) : List Byte :=
  leBytes p.ptype 1 ++ leBytes p.err 1 ++ leBytes p.dst 2 ++ leBytes (p.src + 512 * p.flags) 2 ++ leBytes p.tag 2 ++ leBytes p.addr 6 ++
    leBytes p.data.length 2 ++ p.data

/-- A packet read back from its bytes. -/
def packetOf (b : List Byte) : Packet :=
  { ptype := byteAt b 0, err := byteAt b 1 % 16, dst := field b 2 2 % 512, src := field b 4 2 % 512, tag := field b 6 2,
    addr := field b 8 6 % 2 ^ 44, data := slice b 16 (field b 14 2 % 4096),
    flags := field b 4 2 / 512 }

/-- The flits of a packet's bytes: at most 240 bytes each, the last one marked (R349, R354). -/
def flitsOf : Nat → Bool → List Byte → List (Bool × Bool × List Byte)
  | 0, _, _ => []
  | n + 1, first, b =>
    if b.length ≤ 240 then [(first, true, b)] else (first, false, b.take 240) :: flitsOf n false (b.drop 240)

/-- The link that leads towards a device, if it is up (R355). -/
def Chip.linkTo (c : Chip) (dev : Nat) : Option Nat :=
  let l := lookD c.routes dev 31
  match c.links[l]? with
  | none => none
  | some k => if k.up then some l else none

/-- The chip with a link changed. -/
def Chip.onLink (c : Chip) (l : Nat) (f : Link → Link) : Chip :=
  match c.links[l]? with
  | none => c
  | some k => { c with links := c.links.setIfInBounds l (f k) }

/-- The chip with a packet queued on a link. -/
def Chip.queuePacket (c : Chip) (l : Nat) (p : Packet) : Chip :=
  c.onLink l fun k => { k with outFlits := k.outFlits ++ flitsOf 10 true p.bytes }

/-- A request to another module: its packet queued and its reply awaited under a new tag; none when no link leads there
(R355). -/
def Chip.request (c : Chip) (dev ptype addr : Nat) (data : List Byte) (who : Nat → RemoteReq) : Option (Nat × Chip) :=
  match c.linkTo dev with
  | none => none
  | some l =>
    let tag := c.nextTag
    let p : Packet := { ptype := ptype, err := 0, dst := dev, src := c.mgmt.devid.toNat, tag := tag, addr := addr, data := data }
    some (tag, { c.queuePacket l p with requests := put c.requests tag (who l), nextTag := (tag + 1) % 65536 })

/-- A packet that awaits no reply, dropped when no link leads to its device. -/
def Chip.send (c : Chip) (p : Packet) : Chip :=
  match c.linkTo p.dst with
  | none => c
  | some l => c.queuePacket l p

/-- A leaf that names the module's own DEVID is local (R355). -/
def Chip.localLeaf (c : Chip) (l : Leaf) : Leaf := if l.rmt ∧ l.dev = c.mgmt.devid.toNat then { l with rmt := false } else l

/-! ## Engines' translation -/

/-- The leaf that a die's second-level translation cache holds for an address (R261). -/
def Chip.cachedLeaf (c : Chip) (die tag va : Nat) : Option Leaf := (lookD c.walkers.leaves die []).find? fun l => l.covers tag va

/-- A leaf that a walk has found enters the second-level cache of its die, 32,768 leaves; of a full one the entry that leaves is a
free choice (R261, log 14). -/
def Chip.keepLeaf (c : Chip) (die : Nat) (l : Leaf) : Chip :=
  let all := lookD c.walkers.leaves die []
  if all.contains l then c
  else if all.length < 32768 then { c with walkers := { c.walkers with leaves := put c.walkers.leaves die (all ++ [l]) } }
  else
    let (w, c) := c.takeFree
    { c with walkers := { c.walkers with leaves := put c.walkers.leaves die (all.eraseIdx (w.toNat % all.length) ++ [l]) } }

/-- Whether the walker's last walk of an address's page met an uncorrectable entry, which it has logged (R262). -/
def Chip.walkFailed (c : Chip) (die tag va : Nat) : Bool := c.walkers.failed.contains (die, tag, va / 4096)

/-- Translation by the walker for an engine, with no TLB (R250, R257, R261): a leaf of the die's second-level cache, or a walk (log 58).
An uncorrectable entry is met by TRANSLATION_WALK, which logs it, before the engine takes its XLATE (R262). -/
def Chip.resolve (c : Chip) (u : Nat) (d : Drover) (va : Nat) : Trans :=
  match c.translate u { d with mem := { d.mem with tlb := [] } } va with
  | .miss =>
    match c.cachedLeaf d.site d.expTag va with
    | some l => .leaf (c.localLeaf l)
    | none =>
      match c.homes.walkAll d.expTag (c.rootOf d) va with
      | .done l => .leaf (c.localLeaf l)
      | .bad _ => if c.walkFailed d.site d.expTag va then .fault else .miss
      | _ => .fault
  | t => t

/-- Trap cause of an engine's access through a leaf (R252, R256, R263). -/
def engineFault (steward : Bool) (l : Leaf) (va : Nat) (n : Need) : Option Nat :=
  let reg := if l.rmt then Region.hbmI else regionOf (l.pa va)
  let hole : Bool := match reg with
    | .hole => true
    | .serai _ off => windowOf off == .none
    | _ => false
  if hole then some 3
  else if !l.grants steward n then some 4
  else
    match reg with
    | .serai _ off => match windowOf off with
      | .bank _ _ => none
      | _ => some 4
    | .tcp => some 4
    | _ => none

/-- What an engine's access answers. -/
inductive Got (α : Type) where
  /-- Done. -/
  | ok (a : α) (c : Chip)
  /-- It must wait: for a line of another module, or for a caravan member that is out of its serai. -/
  | wait (c : Chip)
  /-- It fails: cause, and the address at fault. -/
  | bad (cause : Nat) (va : Nat)

/-- Sequencing of engine accesses. -/
def Got.bind {α β : Type} (g : Got α) (f : α → Chip → Got β) : Got β :=
  match g with
  | .ok a c => f a c
  | .wait c => .wait c
  | .bad k va => .bad k va

/-- Whether an address is translated by a walk, and not by the caravan window or a steward's flat map. -/
def Drover.walks (d : Drover) (va : Nat) : Bool := bitsOf va 45 12 != 0xFFF && !(d.steward && d.stew.ptroot == 0)

/-- The leaf of an engine's access: one of those it has pinned, or what the walker answers. -/
def Chip.engineLeaf (c : Chip) (u : Nat) (d : Drover) (va : Nat) (n : Need) (pins : List Leaf := []) : Got Leaf :=
  match pins.find? fun l => l.covers d.expTag va with
  | some l =>
    match engineFault d.steward l va n with
    | some k => .bad k va
    | none => .ok l c
  | none =>
    match c.resolve u d va with
    | .fault => .bad 3 va
    | .miss => .wait c
    | .image _ off => if windowOf off = .none then .bad 3 va else .wait c
    | .leaf l =>
      match engineFault d.steward l va n with
      | some k => .bad k va
      | none => .ok l (if d.walks va then c.keepLeaf d.site l else c)

/-! ## Reading -/

/-- Key of an agent's line of another module. -/
def farKey (agent dev pa : Nat) : Nat := agent * 2 ^ 50 + dev * 2 ^ 40 + pa / 64

/-- A piece within one chunk of another module's memory: asked for once, then awaited, then consumed (R354). -/
def Chip.farPiece (c : Chip) (agent : Nat) (l : Leaf) (pa n va : Nat) : Got (List Byte) :=
  let key := farKey agent l.dev pa
  match look c.far key with
  | some (.line v _) => .ok (slice (leBytes v.toNat 64) (pa % 64) n) c
  | some (.failed k) => .bad k va
  | some (.asked _) => .wait c
  | none =>
    match c.request l.dev 0 (pa / 64 * 64) (leBytes 64 2 ++ leBytes 1 1) (fun k => .line key k) with
    | none => .bad 0x49 va
    | some (tag, c) => .wait { c with far := put c.far key (.asked tag) }

/-- The tags of a line of another module that an agent has fetched. -/
def Chip.farTags (c : Chip) (agent : Nat) (l : Leaf) (pa : Nat) : BitVec 8 :=
  match look c.far (farKey agent l.dev pa) with
  | some (.line _ t) => t
  | _ => 0

/-- The chip without the lines an agent has fetched or asked for; the answer to a request that is forgotten has no effect. -/
def Chip.dropFar (c : Chip) (agent : Nat) : Chip :=
  { c with far := c.far.filter fun p => p.1 / 2 ^ 50 != agent }

/-- The chip without a line an agent has fetched. -/
def Chip.dropLine (c : Chip) (agent : Nat) (l : Leaf) (pa : Nat) : Chip := { c with far := del c.far (farKey agent l.dev pa) }

/-- Whether a serai's banks are dead (R343). -/
def Chip.isDead (c : Chip) (n : Nat) : Bool := c.sched.dead.contains n

/-- Cause that a local read meets: an uncorrectable word (R345), or a dead window (R343). -/
def Chip.readError (c : Chip) (pa n : Nat) : Option Nat :=
  match regionOf pa with
  | .serai k _ => if c.isDead k then some 0x47 else if c.homes.anyBad pa n then some 0x49 else none
  | _ => if c.homes.anyBad pa n then some 0x49 else none

/-- The epoch under which an access of an agent counts: a release ends its own (R273). -/
def epochOf (clk : SMap Nat) (me : Nat) (rel : Bool) : Nat := lookD clk me 0 + if rel then 0 else 1

/-- Whether a write of a drover to a home is on its way there and happens before an access of another agent with a clock: the
meshes deliver it first (R145, S12 of R268; log 75). REDs are exempt (R131). -/
def Chip.behind (c : Chip) (me : Nat) (clk : SMap Nat) (pa : Nat) : Bool :=
  c.drovers.any fun p => p.1 != me && p.2.mem.accs.any fun x =>
    x.phase == .sent && x.placed && !x.leaf.rmt && !x.kind.isRead && !x.kind.isRed && homeOf x.pa == homeOf pa &&
      decide (epochOf x.clk p.1 x.rel ≤ lookD clk p.1 0)

/-- Whether an address of a page stands at a slice. -/
def atSlice (pa : Nat) : Bool :=
  match regionOf pa with
  | .hbmI => true
  | .hbmD => true
  | .lpddr => true
  | _ => false

/-- Whether a die's remote cache serves reads of an address through a leaf (R260): a replicable page whose home is another die; on a
watched page the home checks every access (R273). -/
def remoteServes (die : Nat) (l : Leaf) (pa : Nat) : Bool :=
  l.replicable && !l.rmt && !l.watched && atSlice pa && decide (die < 8) && sliceOf pa / 64 != die

/-- Key of a line in a die's remote cache. -/
def remoteKey (die pa : Nat) : Nat := canon pa / 64 * 8 + die

/-- A line kept by a die's remote cache, 4,194,304 lines (R3); of a full one the line that leaves is a free choice (log 84). -/
def Chip.remoteKeep (c : Chip) (die pa : Nat) : Chip :=
  let key := remoteKey die pa
  let mine := c.homes.rcache.filter fun p => p.1 % 8 == die
  if mine.length < 4194304 then c.onHomes fun h => { h with rcache := put h.rcache key (h.line pa) }
  else
    let (w, c) := c.takeFree
    c.onHomes fun h => { h with rcache := put (del h.rcache (((mine[w.toNat % mine.length]?).map fun p => p.1).getD key)) key (h.line pa) }

/-- A local chunk as its home gives it: a dead window (R343) and an uncorrectable word (R345) lose what they hold. -/
def Chip.homeChunk (c : Chip) (pa : Nat) : ReadChunk :=
  let dead := match regionOf pa with
    | .serai k off => if c.isDead k then some (256 * k + off / 0x10000 % 256) else none
    | _ => none
  match dead with
  | some port => { chunk := 0, bytes := List.replicate 64 0, lost := 0xFF, cause := 0x47, port := port, used := false }
  | none =>
    { chunk := 0, bytes := c.homes.bytes pa 64, cause := 0x49, port := 0, used := false,
      lost := BitVec.ofNat 8 ((List.range 8).foldl (fun m i => m + b2n (c.homes.isBad (pa + 8 * i)) * 2 ^ i) 0) }

/-- A local chunk read from a die in one step (R276): from the die's remote cache where that serves it, which keeps what it lacks
(R260). -/
def Chip.chunkRead (c : Chip) (die : Nat) (l : Leaf) (pa : Nat) : ReadChunk × Chip :=
  if remoteServes die l pa then
    match look c.homes.rcache (remoteKey die pa) with
    | some line => ({ chunk := 0, bytes := leBytes line.toNat 64, lost := 0, cause := 0, port := 0, used := false }, c)
    | none => let g := c.homeChunk pa; (g, if g.lost = 0 then c.remoteKeep die pa else c)
  else (c.homeChunk pa, c)

/-- n bytes within one chunk at an address. -/
def Chip.readPiece (c : Chip) (agent u : Nat) (d : Drover) (va n : Nat) (pins : List Leaf := []) : Got (List Byte) :=
  (c.engineLeaf u d va .read pins).bind fun l c =>
    let pa := l.pa va
    if l.rmt then c.farPiece agent l pa n va
    else if c.behind u d.clk pa then .wait c
    else
      match c.readError pa n with
      | some k => .bad k va
      | none => .ok (c.homes.bytes pa n) c

/-- Bytes over several chunks; fuel counts the chunks. Every line of another module is asked for at once. -/
def Chip.readVa (c : Chip) (agent u : Nat) (d : Drover) (va : Nat) : Nat → Nat → Got (List Byte)
  | 0, _ => .ok [] c
  | fuel + 1, n =>
    if n = 0 then .ok [] c
    else
      let k := min n (64 - va % 64)
      match c.readPiece agent u d va k with
      | .bad e a => .bad e a
      | .ok b c => (c.readVa agent u d (va + k) fuel (n - k)).bind fun bs c => .ok (b ++ bs) c
      | .wait c =>
        match c.readVa agent u d (va + k) fuel (n - k) with
        | .bad e a => .bad e a
        | .ok _ c => .wait c
        | .wait c => .wait c

/-- n bytes from an address. -/
def Chip.readBlock (c : Chip) (agent u : Nat) (d : Drover) (va n : Nat) : Got (List Byte) :=
  c.readVa agent u d va (n / 64 + 2) n

/-! ## Writing -/

/-- The agent number of a drover's own block reads. -/
def blockAgent (u : Nat) : Nat := u * 64

/-- The remote caches' copies of a line dropped before a write of a replicable page is performed (R260). -/
def Homes.dropCopies (h : Homes) (pa : Nat) : Homes :=
  { h with rcache := h.rcache.filter fun p => p.1 / 8 != canon pa / 64 }

/-- The bytes that n bytes from an address take of the word with a key, as a mask. -/
def byteMask (pa n key : Nat) : BitVec 8 :=
  BitVec.ofNat 8 (((List.range 8).filter fun i => decide (canon pa ≤ 8 * key + i ∧ 8 * key + i < canon pa + n)).foldl (fun m i => m + 2 ^ i) 0)

/-- The releases whose value bytes from an address replace are forgotten (R271). -/
def Homes.unrelease (h : Homes) (pa n : Nat) : Homes :=
  { h with rel := h.rel.filterMap fun (p : Nat × List (BitVec 8 × Release)) =>
    if 8 * p.1 + 8 ≤ canon pa ∨ canon pa + n ≤ 8 * p.1 then some p
    else
      match p.2.filterMap fun (r : BitVec 8 × Release) =>
          let m := r.1 &&& ~~~(byteMask pa n p.1)
          if m = 0 then none else some (m, r.2) with
      | [] => none
      | l => some (p.1, l) }

/-- Local bytes written at a home: every word covered whole is good again (R345), remote copies are gone (R260), and what
stood there releases nothing more. -/
def Homes.storeBytes (h : Homes) (pa : Nat) (bs : List Byte) : Homes :=
  (((h.dropCopies pa).write pa bs).clearBad pa bs.length).unrelease pa bs.length

/-- Whether a cell's bank is weight-resident (R176). -/
def Chip.bankResident (c : Chip) (n cell : Nat) : Bool :=
  match look (c.serai n).banks cell with
  | none => false
  | some b => b.resident

/-- Whether a write to a local address is dropped: a dead window (R343) or a weight-resident bank (R176). -/
def Chip.writeDropped (c : Chip) (pa : Nat) : Bool :=
  match regionOf pa with
  | .serai k off => c.isDead k || match windowOf off with
    | .bank cell _ => c.bankResident k cell
    | _ => false
  | _ => false

/-- Bytes written within one chunk; the answer says whether the write was dropped. -/
def Chip.writePiece (c : Chip) (u : Nat) (d : Drover) (va : Nat) (bs : List Byte) (pins : List Leaf := []) : Got Bool :=
  (c.engineLeaf u d va .write pins).bind fun l c =>
    let pa := l.pa va
    if l.rmt then
      match c.request l.dev 1 pa bs (fun k => .posted (blockAgent u) k) with
      | none => .bad 0x49 va
      | some (_, c) => .ok false c
    else if c.writeDropped pa then .ok true c
    else .ok false (c.onHomes fun h => h.storeBytes pa bs)

/-- Bytes written over several chunks, in rising order; a failure leaves what is written. -/
def Chip.writeVa (c : Chip) (u : Nat) (d : Drover) (va : Nat) : Nat → List Byte → Chip × Option Nat
  | 0, _ => (c, none)
  | fuel + 1, bs =>
    if bs = [] then (c, none)
    else
      let k := min bs.length (64 - va % 64)
      match c.writePiece u d va (bs.take k) with
      | .bad e _ => (c, some e)
      | .wait c => (c, some 0x49)
      | .ok _ c => c.writeVa u d (va + k) fuel (bs.drop k)

/-- Bytes written from an address: the chip, and the cause of the first failure. -/
def Chip.writeBlock (c : Chip) (u : Nat) (d : Drover) (va : Nat) (bs : List Byte) : Chip × Option Nat :=
  c.writeVa u d va (bs.length / 64 + 2) bs

/-- Whether a write of the chrysalis engine, or of a spill entry, meets an uncorrectable error (R339, R327): a line with a marked word
while a self-test is due may be lasting bad, and whether it is shows in no state: a free value (log 81). -/
def Chip.writeFails (c : Chip) (pa : Nat) : Bool × Chip :=
  if c.health.testing ≠ [] ∧ c.homes.anyBad (pa / 64 * 64) 64 then
    let (w, c) := c.takeFree
    (w.getLsbD 0, c)
  else (false, c)

/-- Bytes of an image or a spill entry written over several chunks, in rising order; a failure leaves what is written. -/
def Chip.storeVa (c : Chip) (u : Nat) (d : Drover) (pins : List Leaf) (va : Nat) : Nat → List Byte → Chip × Option Nat
  | 0, _ => (c, none)
  | fuel + 1, bs =>
    if bs = [] then (c, none)
    else
      let k := min bs.length (64 - va % 64)
      match c.engineLeaf u d va .write pins with
      | .bad e _ => (c, some e)
      | .wait c => (c, some 3)
      | .ok l c =>
        match if l.rmt then (false, c) else c.writeFails (l.pa va) with
        | (true, c) => (c, some 0x49)
        | (false, c) =>
          match c.writePiece u d va (bs.take k) pins with
          | .bad e _ => (c, some e)
          | .wait c => (c, some 3)
          | .ok _ c => c.storeVa u d pins (va + k) fuel (bs.drop k)

/-- Bytes of an image or a spill entry written: the chip, and the cause of the first failure. -/
def Chip.storeBlock (c : Chip) (u : Nat) (d : Drover) (va : Nat) (bs : List Byte) (pins : List Leaf := []) : Chip × Option Nat :=
  c.storeVa u d pins va (bs.length / 64 + 2) bs

/-- The cause of the first page among n bytes from an address that an engine may not reach, with the address. -/
def Chip.rangeFault (c : Chip) (u : Nat) (d : Drover) (va : Nat) (need : Need) : Nat → Nat → Option (Nat × Nat)
  | 0, _ => none
  | fuel + 1, n =>
    if n = 0 then none
    else
      match c.engineLeaf u d va need with
      | .bad k a => some (k, a)
      | _ =>
        let k := 4096 - va % 4096
        if n ≤ k then none else c.rangeFault u d (va + k) need fuel (n - k)

/-- Whether an engine's access to n bytes from an address must wait: for a member of the caravan that is out of its serai (R257), or for
a write that comes before it and is on its way (`Chip.behind`). -/
def Chip.rangeWaits (c : Chip) (u : Nat) (d : Drover) (va : Nat) (need : Need) : Nat → Nat → Bool
  | 0, _ => false
  | fuel + 1, n =>
    if n = 0 then false
    else
      let k := 4096 - va % 4096
      (match c.engineLeaf u d va need with
        | .wait _ => true
        | .bad _ _ => false
        | .ok l _ => !l.rmt && c.behind u d.clk (l.pa va)) || (decide (k < n) && c.rangeWaits u d (va + k) need fuel (n - k))

/-- Whether a write of an engine to n bytes from an address must wait. -/
def Chip.writeWaits (c : Chip) (u : Nat) (d : Drover) (va n : Nat) : Bool := c.rangeWaits u d va .write (n / 4096 + 2) n

/-! ## Blocks that an instruction names -/

/-- Whether a write of the drover other than a RED to any of n bytes from an address still waits to be performed: an engine
reads the drover's own writes (log 30), and does not wait for its REDs (R131). -/
def Drover.writesInto (d : Drover) (va n : Nat) : Bool :=
  d.mem.accs.any fun a => !a.kind.isRead && !a.kind.isRed && a.phase != .replied && decide (a.va < va + n ∧ va < a.va + a.size)

/-- Whether every access of the drover but its REDs has been performed: what the releases of R131 that do not cover
REDs wait for. -/
def Drover.released (d : Drover) : Bool :=
  d.mem.accs.all fun a => a.phase == .replied || a.kind.isRed || a.kind.isMarker

/-- A block at an address in a scalar operand: MISALIGN, XLATE and PERM precise (R158, R18); an uncorrectable word traps
POISON (log 29); a block in another module holds the instruction until it has come. `d0` is the drover before the
operands were read. -/
def State.block {α : Type} (s : State) (c : Chip) (d0 : Drover) (va : Word) (n align : Nat)
    (k : List Byte → Chip → Res α) : Res α :=
  if va.toNat % align ≠ 0 then .trap (d0.trapAt 2 va) d0
  else if d0.writesInto va.toNat n then .stall (some 32)
  else
    match c.readBlock (blockAgent s.focus) s.focus d0 va.toNat n with
    | .ok b c => k b (c.dropFar (blockAgent s.focus))
    | .wait c => .hold c d0 (some 32)
    | .bad e a =>
      if e = 3 ∨ e = 4 then .trap (d0.trapAt e (BitVec.ofNat 64 a)) d0
      else .trap { d0.trapAt 6 (BitVec.ofNat 64 a) with aux2 := 4 } d0

end Sys2Proof.Machine
end

