-- ==== Sys2Proof/Machine/Access.lean ====
section
/-!
DEFINITION. How an instruction asks for a memory access (S1 of R268): address checks in the order of R75, translation,
the room of issue queue and post buffer (R266), the check of a watched page (R273), and the entry in the queues.
-/

namespace Sys2Proof.Machine

/-- How many reads the issue queue holds, those of one instruction counting once (R266). -/
def Drover.readsHeld (d : Drover) : Nat :=
  ((d.mem.accs.filter fun a => (a.kind.isRead || a.kind == .fence) && a.phase != .replied).map (·.inst)).dedup.length

/-- How many writes and markers the post buffer holds (R266). -/
def Drover.writesHeld (d : Drover) : Nat :=
  ((d.mem.accs.filter fun a => !a.kind.isRead && a.phase != .replied).map (·.inst)).dedup.length

/-- A leaf that stands in an access that has no address. -/
def noLeaf : Leaf :=
  { expid := 0, vbase := 0, size := 0, pbase := 0, rmt := false, dev := 0, canR := false, canW := false, canX := false,
    user := false, fmt := 0, watched := false, tagged := false, replicable := false }

/-- An access that has no address: a FENCE marker or an arrival. -/
def Drover.postless (d : Drover) (k : AccKind) (acq rel : Bool) (scope rd : Nat) : Access :=
  { seq := d.mem.nextSeq, inst := d.mem.nextSeq, kind := k, pc := d.regs.pc, va := 0, pa := 0, size := 0,
    leaf := noLeaf, rd := rd, word := 0, data := 0, data2 := 0, acq := acq, rel := rel, scope := scope, tmpl := 0,
    tag := 0, phase := .queued, sentAt := 0, reply := 0, late := none, line := none, clk := d.clk }

/-- The drover with an access entered. -/
def Drover.post (d : Drover) (a : Access) : Drover :=
  { d with mem := { d.mem with accs := d.mem.accs ++ [a], nextSeq := d.mem.nextSeq + 1 } }

/-- What an instruction asks of memory. -/
structure Ask where
  kind : AccKind
  size : Nat
  /-- Alignment that the address must have. -/
  align : Nat
  acq : Bool
  rel : Bool
  scope : Nat
  /-- Register that the access completes: scalar, or descriptor of a DLD. -/
  rd : Nat
  data2 : Word
  tmpl : Nat
  tag : Nat
  /-- Data of each word; one, or sixteen for DLD and DST. -/
  words : List Word
  deriving DecidableEq, Repr

/-- Whether an ask is plain in the sense of R272. -/
def Ask.plain (a : Ask) : Bool :=
  match a.kind with
  | .load => !a.acq && !a.rel
  | .loadU => !a.acq && !a.rel
  | .store => !a.acq && !a.rel
  | .dload => !a.acq && !a.rel
  | .dstore => !a.acq && !a.rel
  | _ => false

/-- Word i of an ask as an access at an address (R126: on remote memory every scope is `.sy`). -/
def Drover.access (d : Drover) (a : Ask) (l : Leaf) (va i : Nat) (data : Word) : Access :=
  { seq := d.mem.nextSeq + i, inst := d.mem.nextSeq, kind := a.kind, pc := d.regs.pc, va := va + 8 * i,
    pa := l.pa va + 8 * i, size := a.size, leaf := l, rd := a.rd, word := i, data := data, data2 := a.data2,
    acq := a.acq, rel := a.rel, scope := if l.rmt then 4 else a.scope, tmpl := a.tmpl, tag := a.tag, phase := .queued,
    sentAt := 0, reply := 0, late := none, line := none, clk := d.clk }

/-- The accesses of an ask, word by word. -/
def Drover.accesses (d : Drover) (a : Ask) (l : Leaf) (va : Nat) : Nat → List Word → List Access
  | _, [] => []
  | i, w :: ws => d.access a l va i w :: d.accesses a l va (i + 1) ws

/-- The drover with an ask entered in its queues; a release advances its epoch first (R273). -/
def Drover.enter (d : Drover) (u : Nat) (a : Ask) (l : Leaf) (va : Nat) : Drover :=
  let d := if a.rel then d.tick u else d
  { d with mem := { d.mem with accs := d.mem.accs ++ d.accesses a l va 0 a.words,
                               nextSeq := d.mem.nextSeq + a.words.length } }

/-- A full queue stalls issue, and that stall does not count as a block (R266). -/
def Drover.room (d : Drover) (k : AccKind) : Bool :=
  if k.isRead then decide (d.readsHeld < 16) else decide (d.writesHeld < 32)

/-- Whether a store or atomic goes to a weight-resident bank (R176). -/
def Chip.storesToResident (c : Chip) (l : Leaf) (va : Nat) (k : AccKind) : Bool :=
  !l.rmt && k.need != .read &&
    match regionOf (l.pa va) with
    | .serai n off => match windowOf off with
      | .bank cell _ => c.bankResident n cell
      | _ => false
    | _ => false

/-- The leaf through which a drover's access goes, or why it does not go on (R75, R248 to R257, R261). A mailbox push or
inbox write to a member that is out of its serai goes on, towards the image; any other access to such a member waits
(R257, log 28). `d0` is the drover before the operands were read. -/
def State.leafFor (s : State) (d0 : Drover) (va : Nat) (a : Ask) : Res Leaf :=
  match s.chip.translate s.focus d0 va with
  | .fault => .trap (d0.trapAt 3 (BitVec.ofNat 64 va)) d0
  | .miss => .hold s.chip { d0 with hold := .walk va } none
  | .image _ off =>
    if windowOf off = .none then .trap (d0.trapAt 3 (BitVec.ofNat 64 va)) d0
    else if a.kind.isStore ∧ a.size = 8 ∧ windowAllows (windowOf off) 8 false true false false ∧
        (windowOf off = .mailbox ∨ ∃ k ∈ List.range 4, windowOf off = .inbox k) then
      .ok (windowLeaf d0.exp va (d0.core.getD 0) ((va - caravanBase) / 0x2000000))
    else .stall none
  | .leaf l =>
    match accessFault d0.steward l va a.size a.kind with
    | some c => .trap (d0.trapAt c (BitVec.ofNat 64 va)) d0
    | none => if s.chip.storesToResident l va a.kind then .trap (d0.trapAt 4 (BitVec.ofNat 64 va)) d0 else .ok l

/-- An access of an instruction, once its operands are read: `d0` is the drover before reading them, `d` after, `fin`
leaves the destination pending. On a watched page a plain access enters the queues first and the instruction issues when
its home has checked it (R273). -/
def State.memory (s : State) (d0 d : Drover) (va : Word) (a : Ask) (fin : Drover → Nat → Drover) : Res Drover :=
  match d0.hold with
  | .check _ => .stall none
  | .checked seq => .ok (fin d seq)
  | _ =>
    if !d0.room a.kind then .stall none
    else if va.toNat % a.align ≠ 0 then .trap (d0.trapAt 2 va) d0
    else
      (s.leafFor d0 va.toNat a).bind fun l =>
        if l.watched && a.plain then
          .hold s.chip { d0.enter s.focus a l va.toNat with hold := .check d0.mem.nextSeq } none
        else .ok (fin (d.enter s.focus a l va.toNat) d.mem.nextSeq)

end Sys2Proof.Machine
end

