-- ==== Sys2Proof/Machine/Fetch.lean ====
section
/-!
DEFINITION. Fetching an instruction (R67, R124, R252): translation for execution, the instruction cache, the two words
of an instruction, and its decoding.
-/

namespace Sys2Proof.Machine

/-- What a fetch answers. -/
inductive Fetched (α : Type) where
  /-- The fetched thing, and the drover with its instruction cache filled. -/
  | got (a : α) (d : Drover)
  /-- The walk of an address is needed (R261). -/
  | walk (va : Nat)
  /-- A line of another module must arrive: physical address and device. -/
  | remote (l : Leaf) (va : Nat)
  /-- A fault of the fetch: cause and TRAPVAL (R75). -/
  | fault (cause : Nat) (va : Word)

/-- Key of a line in the instruction cache: physical line, and the device of a remote page. -/
def fetchKey (l : Leaf) (pa : Nat) : Nat := pa / 64 + if l.rmt then (l.dev + 1) * 2 ^ 40 else 0

/-- The 32-bit word of a line at an address. -/
def wordInLine (line : BitVec 512) (pa : Nat) : BitVec 32 := line.extractLsb' (8 * (pa % 64)) 32

/-- The word at an address through the instruction cache: a line held may be stale, and whether a stale one is still held
is left open (R124, log 17). -/
def State.fetchThrough (s : State) (d : Drover) (l : Leaf) (va : Nat) : Fetched (BitVec 32) :=
  let pa := l.pa va
  let key := fetchKey l pa
  match look d.mem.icache key with
  | some line =>
    let fresh := s.chip.homes.line pa
    if l.rmt || line == fresh || Config.icacheKeeps s.cycle key then .got (wordInLine line pa) d
    else
      .got (wordInLine fresh pa) { d with mem := { d.mem with icache := put d.mem.icache key fresh } }
  | none =>
    if l.rmt then .remote l va
    else
      let fresh := s.chip.homes.line pa
      .got (wordInLine fresh pa) { d with mem := { d.mem with icache := put d.mem.icache key fresh } }

/-- One instruction word: MISALIGN, XLATE, PERM (R67, R252, R256), and POISON for a word marked uncorrectable
(log 23). -/
def State.fetchWord (s : State) (d : Drover) (va : Word) : Fetched (BitVec 32) :=
  if va.toNat % 4 ≠ 0 then .fault 2 va
  else
    match s.chip.translate s.focus d va.toNat with
    | .fault => .fault 3 va
    | .image _ off => .fault (if windowOf off = .none then 3 else 4) va
    | .miss => .walk va.toNat
    | .leaf l =>
      let pa := l.pa va.toNat
      let hole : Bool := match if l.rmt then Region.hbmI else regionOf pa with
        | .hole => true
        | .serai _ off => windowOf off == .none
        | _ => false
      if hole then .fault 3 va
      else if !l.grants d.steward .fetch then .fault 4 va
      else
        match if l.rmt then Region.hbmI else regionOf pa with
        | .serai _ _ => .fault 4 va
        | .tcp => .fault 4 va
        | _ =>
          if !l.rmt && s.chip.homes.anyBad pa 4 && (look d.mem.icache (fetchKey l pa)).isNone then .fault 6 va
          else s.fetchThrough d l va.toNat

/-- The instruction at the pc: a second word belongs to the instruction (R67), and words that decode to nothing are
the ILLEGAL instruction (R74). -/
def State.fetchInstr (s : State) (d : Drover) : Fetched Instr :=
  match s.fetchWord d d.regs.pc with
  | .walk va => .walk va
  | .remote l va => .remote l va
  | .fault c va => .fault c va
  | .got w d =>
    if twoWords w then
      match s.fetchWord d (d.regs.pc + 4) with
      | .walk va => .walk va
      | .remote l va => .remote l va
      | .fault c va => .fault c va
      | .got w1 d =>
        match decodePair w w1 with
        | .ok i => .got i d
        | .error _ => .got (.illegalInstruction w) d
    else
      match decodePair w 0 with
      | .ok i => .got i d
      | .error _ => .got (.illegalInstruction w) d

end Sys2Proof.Machine
end

