-- ==== Sys2Proof/Machine/Control.lean ====
section
/-!
DEFINITION. Branches and jumps (R119, R120), illegal words (R72, R74), and the system instructions that need no other
unit (R121 to R125). ERET and HALT stand with the traps.
-/

namespace Sys2Proof.Machine

/-! ## Illegal words -/

/-- Word 1 of an instruction of two words, for the trap record (R327): zero where it cannot be fetched. -/
def State.secondWord (s : State) (d : Drover) (w : BitVec 32) : Word :=
  if twoWords w then
    match s.fetchWord d (d.regs.pc + 4) with
    | .got w1 _ => w1.setWidth 64
    | _ => 0
  else 0

/-- ILL (R72): always ILLEGAL. -/
def execIll (x : BitVec 26) (s : State) : Host.Outcome State Fault Refusal :=
  s.drove (.ill x) fun d => .trap (d.trapAt 1 0) d

/-- The operation indexes of a major opcode whose rd, ra and rb name scalar registers, as sets of bits (R70 to R72, R76); in a format
without an index every one of the 64 counts. -/
def registerUse (op : Nat) : Nat × Nat × Nat :=
  let all := 2 ^ 64 - 1
  match op with
  | 1 => (2 ^ 28 - 1, 2 ^ 28 - 1, 2 ^ 21 - 1)
  | 2 => (all, all, 0)
  | 3 => (all, all, 0)
  | 4 => (all, all, 0)
  | 5 => (all, all, 0)
  | 6 => (all, all, 0)
  | 7 => (all, 0, 0)
  | 8 => (0, 0x3F, 0x3F)
  | 9 => (0, all, 0)
  | 10 => (0xC0, 0xA0, 0x80)
  | 12 => (0x47FF, 0x7FFF, 0x38EF)
  | 16 => (all, all, 0)
  | 17 => (all, all, 0)
  | 18 => (all, all, 0)
  | 19 => (all, all, 0)
  | 20 => (all, all, 0)
  | 21 => (0, all, 0)
  | 22 => (0, 0x3, 0x3)
  | 26 => (0x2, 0x3, 0)
  | 28 => (0, 0x2, 0)
  | 29 => (all, 0, 0)
  | 30 => (0, all, 0)
  | 32 => (0x7FF, 0x7FF, 0x7FF)
  | 33 => (0, 0x7FF, 0x7FF)
  | 35 => (0xFF, 0xFF, 0x28)
  | 36 => (0x6, 0x1, 0)
  | 40 => (0x1B, 0, 0)
  | 41 => (0x5, 0x1, 0x1)
  | 42 => (0xFF, 0x6, 0xE7)
  | 43 => (0x1F, 0, 0x1)
  | 44 => (0x39, 0x39, 0x1)
  | 45 => (0x7F, 0x7F, 0x3F)
  | 63 => (0x1F, 0x1C, 0x14)
  | _ => (0, 0, 0)

/-- The scalar registers that the operation which a word names reads or writes. -/
def wordRegisters (w : BitVec 32) : List (BitVec 5) :=
  let u := registerUse (fld w 26 6).toNat
  let pick := fun (set : Nat) (lo : Nat) => if set.testBit (fld w 0 6).toNat then [fld w lo 5] else []
  pick u.1 21 ++ pick u.2.1 16 ++ pick u.2.2 11

/-- ILLEGAL_INSTRUCTION (R74): ILLEGAL, with the words in the record (R327) and no change of state. The stall of R17 on a register that the
operation reads or writes comes first (R75, log 92). -/
def execIllegalInstruction (w : BitVec 32) (s : State) : Host.Outcome State Fault Refusal :=
  match s.cur? with
  | none => .next s
  | some d =>
    match (wordRegisters w).find? fun r => d.isPending r with
    | some r =>
      .next (s.onChip fun c => c.setDrover s.focus (d.stalled ((look d.board.pend r.toNat).bind (d.blocksOn r.toNat)) s.cycle))
    | none => .next (s.takeTrap { d.trapAt 1 0 with aux0 := w.setWidth 64, aux1 := s.secondWord d w } d)

/-! ## Branches and jumps -/

/-- The branch target (R119). -/
def branchTarget (pc : Word) (f : BitVec 22) : Word := pc + f.signExtend 64 <<< 2

/-- Whether a branch is taken. -/
def Regs.taken (r : Regs) (n : BitVec 1) (k : BitVec 3) : Bool := r.getP k != (n == 1)

/-- The drover with its pc set. -/
def Drover.jump (d : Drover) (t : Word) : Drover := { d with regs := { d.regs with pc := t } }

/-- BR (R119). -/
def execBr (n : BitVec 1) (k : BitVec 3) (f : BitVec 22) (s : State) : Host.Outcome State Fault Refusal :=
  s.issues (.br n k f) 0 fun d =>
    .ok (d.jump (if d.regs.taken n k then branchTarget d.regs.pc f else d.regs.pc + 4))

/-- CALL (R119): a taken call stalls while lr is pending; one that is not taken leaves lr. -/
def execCall (n : BitVec 1) (k : BitVec 3) (f : BitVec 22) (s : State) : Host.Outcome State Fault Refusal :=
  s.issues (.call n k f) 0 fun d =>
    if d.regs.taken n k then
      unlessStall (d.dstStall 27) <| .ok ((d.writeX 27 (d.regs.pc + 4)).jump (branchTarget d.regs.pc f))
    else .ok (d.jump (d.regs.pc + 4))

/-- JR (R120). -/
def execJr (a : BitVec 5) (s : State) : Host.Outcome State Fault Refusal :=
  s.issues (.jr a) 0 fun d =>
    unlessStall (d.srcStall [a]) <|
      (d.readX s.focus a).bind fun (t, d') =>
        if t.toNat % 4 ≠ 0 then .trap (d.trapAt 2 t) d else .ok (d'.jump t)

/-- JALR (R120): the target is read before the link is written. -/
def execJalr (d a : BitVec 5) (s : State) : Host.Outcome State Fault Refusal :=
  s.issues (.jalr d a) 0 fun dr =>
    unlessStall (dr.srcStall [a]) <| unlessStall (dr.dstStall d) <|
      (dr.readX s.focus a).bind fun (t, dr') =>
        if t.toNat % 4 ≠ 0 then .trap (dr.trapAt 2 t) dr
        else (s.result dr' d (dr.regs.pc + 4)).bind fun dr' => .ok (dr'.jump t)

/-! ## System instructions -/

/-- NOP (R121). -/
def execNop (s : State) : Host.Outcome State Fault Refusal := s.drove .nop fun d => .ok d

/-- A trap whose resume address is the next instruction (R121, R322). -/
def Drover.trapAfter (d : Drover) (cause : Nat) (val : Word) : TrapReq :=
  { d.trapAt cause val with pc := d.regs.pc + 4 }

/-- TRAP (R121): SWTRAP with TRAPVAL from xa; the operand has been read, so a port has been popped (log 24). -/
def execTrap (a : BitVec 5) (s : State) : Host.Outcome State Fault Refusal :=
  s.drove (.trap a) fun d =>
    unlessStall (d.srcStall [a]) <|
      (d.readX s.focus a).bind fun (v, d') => .trap (d.trapAfter 0x13 v) (d'.jump (d.regs.pc + 4))

/-- BRK (R121). -/
def execBrk (s : State) : Host.Outcome State Fault Refusal :=
  s.drove .brk fun d => .trap (d.trapAfter 0x12 0) (d.jump (d.regs.pc + 4))

/-- The markers of a FENCE, one for each of its orders (R122). -/
def Drover.postFence (d : Drover) (acq rel : Bool) (scope : Nat) : Drover :=
  let inst := d.mem.nextSeq
  let d := if acq then d.post { d.postless .fence true false scope 0 with inst := inst } else d
  if rel then d.post { d.postless .fence false true scope 0 with inst := inst } else d

/-- FENCE (R122): a marker in issue queue and post buffer, which holds no instruction that is not a memory access. -/
def execFence (s : BitVec 3) (o : BitVec 2) (st : State) : Host.Outcome State Fault Refusal :=
  st.drove (.fence s o) fun d =>
    if 16 ≤ d.readsHeld ∨ 32 ≤ d.writesHeld then .stall none
    else .ok (d.postFence (o.getLsbD 0) (o.getLsbD 1) s.toNat)

/-- SLEEP (R123): ends at once when a queue holds an entry; otherwise it holds until `Drover.wake`. -/
def execSleep (s : State) : Host.Outcome State Fault Refusal :=
  s.drove .sleep fun d =>
    match d.hold with
    | .result _ => .ok d
    | _ =>
      if d.queues.mbx ≠ [] ∨ d.queues.act ≠ [] ∨ d.queues.inq ≠ [] then .ok d
      else .hold s.chip { d with hold := .sleep } (some 32)

/-- IFLUSH (R124): the instruction cache is emptied once this drover's earlier stores are performed, so that the next
fetch sees them (log 25). -/
def execIflush (s : State) : Host.Outcome State Fault Refusal :=
  s.drove .iflush fun d =>
    if d.mem.accs.any fun a => !a.kind.isRead && !a.kind.isMarker && !(match a.kind with | .arrive _ _ => true | _ => false)
    then .stall none
    else .ok { d with mem := { d.mem with icache := [] } }

/-! ## Control registers (R11 to R13, R125) -/

/-- Whether a number names a control register. -/
def ctlAssigned (n : Nat) : Bool := n ≤ 5 || (8 ≤ n && n ≤ 10) || (16 ≤ n && n ≤ 21) || (0x100 ≤ n && n ≤ 0x106)

/-- Whether an assigned register may be written. -/
def ctlWritable (n : Nat) : Bool := (16 ≤ n && n ≤ 20) || n == 0x102 || n == 0x103 || n == 0x105 || n == 0x106

/-- PENDING: bit n set when xn is pending. -/
def Drover.pendingBits (d : Drover) : Nat := d.board.pend.foldl (fun v p => v + 2 ^ p.1) 0

/-- GROUPS of a task (R11). -/
def groupsWord (g : List (Option Nat)) : Word :=
  let at' := fun i => (g[i]?).getD none
  let part := fun i => match at' i with
    | none => 0
    | some k => 2 ^ (32 + i) + k * 2 ^ (8 * i)
  BitVec.ofNat 64 (part 0 + part 1 + part 2 + part 3)

/-- The value of a control register; none where the spec gives no value: a register of the task, read by a steward
core, which runs none (log 26). -/
def State.ctlValue (s : State) (d : Drover) (n : Nat) : Option Word :=
  let task := s.chip.task? s.focus
  let cv := s.chip.caravanOf? s.focus
  if n = 0 then task.map fun t => BitVec.ofNat 64 t.taskid
  else if n = 1 then task.map fun t => BitVec.ofNat 64 t.exp
  else if n = 2 then if d.steward then none else some (BitVec.ofNat 64 (d.core.getD 0))
  else if n = 3 then
    match task, cv with
    | some t, some v => some (BitVec.ofNat 64 ((v.members.length - 1) * 16 + t.index))
    | _, _ => none
  else if n = 4 then cv.map fun v => BitVec.ofNat 64 v.prio
  else if n = 5 then task.map fun t => groupsWord t.groups
  else if n = 8 then some (BitVec.ofNat 64 s.cycle)
  else if n = 9 then some d.ctl.instret
  else if n = 10 then some d.ctl.govhold
  else if n = 16 then some (d.ctl.fflags.setWidth 64)
  else if n = 17 then some (d.ctl.qpeer.setWidth 64)
  else if n = 18 then some (d.ctl.yieldth.setWidth 64)
  else if n = 19 then some (d.ctl.arm.setWidth 64)
  else if n = 20 then some (d.ctl.ovr.setWidth 64)
  else if n = 21 then some (BitVec.ofNat 64 d.pendingBits)
  else if n = 0x100 then some 1
  else if n = 0x101 then some (d.stew.trapcause.setWidth 64)
  else if n = 0x102 then some d.stew.trappc
  else if n = 0x103 then some d.stew.trapval
  else if n = 0x104 then some d.stew.traprec
  else if n = 0x105 then some (d.stew.ptroot.setWidth 64 <<< 12)
  else some d.stew.scratch

/-- The trap of a control-register access: ILLEGAL before PRIV (R13, R75). -/
def ctlFault (d : Drover) (n : Nat) (write : Bool) : Option Nat :=
  if !ctlAssigned n || (write && !ctlWritable n) then some 1
  else if 0x100 ≤ n && !d.steward then some 0x14
  else none

/-- MFC (R125). -/
def execMfc (d : BitVec 5) (n : BitVec 9) (s : State) : Host.Outcome State Fault Refusal :=
  s.drives (.mfc d n) fun dr =>
    unlessStall (dr.dstStall d) <|
      match ctlFault dr n.toNat false with
      | some c => .trap (dr.trapAt c 0) dr
      | none =>
        let (v, c) := match s.ctlValue dr n.toNat with
          | some v => (v, s.chip)
          | none => s.chip.takeFree
        (s.result dr d v).bind fun dr' => .ok (c, dr')

/-- The four inbox registers whose arm bit goes from 0 to 1. -/
def newlyArmed (old new : BitVec 4) : List Nat := (List.range 4).filter fun k => !old.getLsbD k && new.getLsbD k

/-- The four inbox registers whose arm bit goes from 1 to 0. -/
def newlyCleared (old new : BitVec 4) : List Nat := newlyArmed new old

/-- INBOXARM_WRITE (R10): newly armed registers become pending, cleared ones are ready with their old value. -/
def Drover.writeArm (d : Drover) (v : BitVec 4) : Drover :=
  let d1 := (newlyArmed d.ctl.arm v).foldl (fun d k => d.pendX (BitVec.ofNat 5 (24 + k)) .inbox) d
  let d2 := (newlyCleared d.ctl.arm v).foldl
    (fun d k => { d with board := { d.board with pend := del d.board.pend (24 + k) } }) d1
  { d2 with ctl := { d2.ctl with arm := v } }

/-- A write of a control register by the rules of R11 and R12. -/
def Drover.writeCtl (d : Drover) (n : Nat) (v : Word) : Drover :=
  if n = 16 then { d with ctl := { d.ctl with fflags := v.setWidth 5 } }
  else if n = 17 then { d with ctl := { d.ctl with qpeer := v.setWidth 4 } }
  else if n = 18 then
    { d with ctl := { d.ctl with yieldth := if (v.setWidth 48).toNat < 1024 then 1024 else v.setWidth 48 } }
  else if n = 19 then d.writeArm (v.setWidth 4)
  else if n = 20 then { d with ctl := { d.ctl with ovr := d.ctl.ovr &&& ~~~(v.setWidth 4) } }
  else if n = 0x102 then { d with stew := { d.stew with trappc := v } }
  else if n = 0x103 then { d with stew := { d.stew with trapval := v } }
  else if n = 0x105 then { d with stew := { d.stew with ptroot := v.extractLsb' 12 45 } }
  else { d with stew := { d.stew with scratch := v } }

/-- Whether arming stalls: a register to be armed is pending already, and arming writes its scoreboard entry (R17,
rule 2; log 27). -/
def Drover.armStall (d : Drover) (n : Nat) (v : Word) : Option (Option Nat) :=
  if n = 19 then
    match (newlyArmed d.ctl.arm (v.setWidth 4)).find? fun k => (look d.board.pend (24 + k)).isSome with
    | none => none
    | some k => d.dstStall (BitVec.ofNat 5 (24 + k))
  else none

/-- MTC (R125). -/
def execMtc (a : BitVec 5) (n : BitVec 9) (s : State) : Host.Outcome State Fault Refusal :=
  s.drove (.mtc a n) fun dr =>
    unlessStall (dr.srcStall [a]) <|
      match ctlFault dr n.toNat true with
      | some c => .trap (dr.trapAt c 0) dr
      | none =>
        (dr.readX s.focus a).bind fun (v, dr') =>
          unlessStall (dr.armStall n.toNat v) <| .ok (dr'.writeCtl n.toNat v)

end Sys2Proof.Machine
end

