-- ==== Sys2Proof/Machine/Records.lean ====
section
/-!
DEFINITION. Trap records (R321 to R327): their bytes, their delivery to a steward, and raising a trap for a task from
outside its instruction stream.
-/

namespace Sys2Proof.Machine

/-- PENDING as a record shows it: bit n for xn. -/
def Drover.pendingMask (d : Drover) : BitVec 32 :=
  d.board.pend.foldl (fun v p => v ||| BitVec.ofNat 32 (2 ^ p.1)) 0

/-- The preds byte with p7 read as 1 (R325). -/
def Regs.predByte (r : Regs) : Nat := (r.p ||| 0x80).toNat

/-- Bytes 320 to 327: fflags, preds, pending. -/
def Drover.flagBytes (d : Drover) : List Byte :=
  leBytes (d.ctl.fflags.toNat * 2 ^ 40 + d.regs.predByte * 2 ^ 32 + d.pendingMask.toNat) 8

/-- Bytes 328 to 335: inboxovr, inboxarm, qpeer. -/
def Drover.inboxBytes (d : Drover) : List Byte :=
  leBytes (d.ctl.ovr.toNat * 2 ^ 16 + d.ctl.arm.toNat * 2 ^ 8 + d.ctl.qpeer.toNat) 8

/-- x0 to x31 as 256 bytes; the slots of x0 and of the ports hold zero (R325, R8). -/
def Regs.bytes (r : Regs) : List Byte :=
  (List.range 32).flatMap fun n => leBytes (if n < 28 then (r.getX (BitVec.ofNat 5 n)).toNat else 0) 8

/-- The 512 bytes of a record (R325); a record of no task has no registers. -/
def Record.bytes (r : Record) (taskid : Nat) (d : Option Drover) : List Byte :=
  leBytes (taskid * 2 ^ 32 + r.exp % 65536 * 2 ^ 16 + b2n r.notask * 2 ^ 11 + b2n r.fatal * 2 ^ 10 + b2n r.defer * 2 ^ 9 +
      b2n r.heldFlag * 2 ^ 8 + r.req.cause) 8 ++
    leBytes (r.seq % 2 ^ 32 * 2 ^ 32 + r.serai % 4096) 8 ++ leBytes r.req.pc.toNat 8 ++ leBytes r.req.val.toNat 8 ++
    leBytes r.req.origin.toNat 8 ++ leBytes r.req.aux0.toNat 8 ++ leBytes r.req.aux1.toNat 8 ++
    leBytes r.req.aux2.toNat 8 ++
    (match d with
      | none => leBytes 0 280
      | some d => d.regs.bytes ++ d.flagBytes ++ d.inboxBytes ++ leBytes d.ctl.yieldth.toNat 8) ++
    leBytes 0 168

/-- Whether a steward core runs. -/
def Chip.stewardRuns (c : Chip) (k : Nat) : Bool :=
  match c.drover? k with
  | none => false
  | some d => d.steward && (d.run == .running)

/-- Undelivered records a steward holds. -/
def Chip.stewardLoad (c : Chip) (k : Nat) : Nat := ((c.traps.queues[k]?).getD []).length

/-- The lowest-numbered running steward. -/
def Chip.firstSteward (c : Chip) : Option Nat := (List.range 16).find? fun k => c.stewardRuns k

/-- The steward that gets a record of a die (R323); die 8 stands for the I/O dies and for halted stewards. -/
def Chip.stewardFor (c : Chip) (die : Nat) : Option Nat :=
  if die < 8 then
    let a := 2 * die
    let b := 2 * die + 1
    if c.stewardRuns a && (!c.stewardRuns b || decide (c.stewardLoad a ≤ c.stewardLoad b)) then some a
    else if c.stewardRuns b then some b else c.firstSteward
  else c.firstSteward

/-- A record with its bytes, as they stand at capture (R325). -/
def Chip.capture (c : Chip) (r : Record) : Record :=
  let taskid := if r.notask then 0 else ((r.task.bind fun u => c.task? u).map (·.taskid)).getD 0
  { r with image := r.bytes taskid (if r.notask then none else r.task.bind fun u => c.drover? u) }

/-- A record delivered: written to steward memory and queued; it waits at the arbiter when the steward's 64 places are
taken or no steward runs (R323). One delivered again keeps its place in steward memory, unchanged. -/
def Chip.deliverRecord (c : Chip) (r : Record) : Chip :=
  match c.stewardFor r.die with
  | none => c.onTraps fun t => { t with waiting := t.waiting ++ [r] }
  | some k =>
    if 64 ≤ c.stewardLoad k then c.onTraps fun t => { t with waiting := t.waiting ++ [r] }
    else
      let queue := fun (c : Chip) (r : Record) => c.onTraps fun t =>
        { t with queues := t.queues.setIfInBounds k (((t.queues[k]?).getD []) ++ [r]) }
      if r.addr ≠ 0 then queue c r
      else
        let addr := c.traps.area + 512 * (c.traps.written % 2048)
        queue ((c.onHomes fun h => h.storeBytes addr r.image).onTraps fun t => { t with written := t.written + 1 }) { r with addr := addr }

/-- The records that wait at the arbiter are delivered as far as there is room. -/
def Chip.flushRecords (c : Chip) : Chip :=
  let w := c.traps.waiting
  w.foldl (fun c r => c.deliverRecord r) (c.onTraps fun t => { t with waiting := [] })

/-- A record that concerns no held task: SPILL, SYNCRES, SAVE, TEAMDEAD (R326). -/
def Chip.raiseRecord (c : Chip) (die exp serai : Nat) (notask fatal defer : Bool) (task caravan : Option Nat)
    (q : TrapReq) (acc : Option Nat) (watch : Option (Nat × Nat)) : Chip :=
  let (n, c) := c.nextSeq die
  c.deliverRecord (c.capture
    { task := task, caravan := caravan, exp := exp, notask := notask, fatal := fatal, defer := defer, heldFlag := false, seq := n,
      die := die, serai := serai, req := q, deferAcc := acc, deferWatch := watch, addr := 0, pending := 0, image := [], clk := [] })

/-- A request with a cause and its words, and no instruction. -/
def trapWords (cause : Nat) (val aux0 aux1 aux2 : Word) : TrapReq :=
  { cause := cause, pc := 0, val := val, origin := 0, aux0 := aux0, aux1 := aux1, aux2 := aux2 }

/-- An asynchronous trap for a task: taken before its next instruction issues (R322). -/
def Chip.raiseAsync (c : Chip) (u : Nat) (q : TrapReq) : Chip :=
  c.onDrover u fun d => { d with async := d.async ++ [q] }

end Sys2Proof.Machine
end

