-- ==== Sys2Proof/Machine/Bazaar.lean ====
section
/-!
DEFINITION. The bazaar's records (R280 to R290): states of caravans, the ready queue and the spill area, what makes a
yielded or watching caravan ready, and the chrysalis image of a task that is out of its serai (R19, R335 to R337).
-/

namespace Sys2Proof.Machine

/-! ## States -/

/-- The living members of a caravan. -/
def Chip.living (c : Chip) (v : Caravan) : List Nat :=
  v.members.filter fun u => match c.task? u with
    | none => false
    | some t => t.alive

/-- The chip with the state of a caravan's living members set (R280). -/
def Chip.setMembers (c : Chip) (v : Caravan) (st : TaskState) : Chip :=
  (c.living v).foldl (fun c u => c.onTask u fun t => { t with state := st }) c

/-- TASKID of member 0. -/
def Chip.firstTaskid (c : Chip) (v : Caravan) : Nat :=
  ((v.members.head?.bind fun u => c.task? u).map (·.taskid)).getD 0

/-! ## The ready queue (R284 to R287) -/

/-- Order within one cycle, as one number (R285): class and number within it. -/
def arbiterOrder (cls n : Nat) : Nat := cls * 2 ^ 40 + n

/-- Entries in a die's ready queue: an entry on its way to another die stays until the receiver has taken it (R292). -/
def Chip.queueLen (c : Chip) (die : Nat) : Nat :=
  (c.sched.caravans.filter fun p => match p.2.place with
    | .queue d => d == die
    | .migrating d _ => d == die
    | _ => false).length

/-- Spill entries in use by an expedition. -/
def Chip.spillUsed (c : Chip) (e : Nat) : Nat :=
  ((c.exp? e).map (·.spill.length)).getD 0 +
    (c.sched.caravans.filter fun p => p.2.exp == e && match p.2.place with
      | .spilled _ => true
      | _ => false).length

/-- Whether an expedition's spill area has room for a new entry beside the reserve of 16 (R287). -/
def Chip.spillRoom (c : Chip) (e : Nat) : Bool :=
  match c.exp? e with
  | none => false
  | some x => x.spillOpen && decide (c.spillUsed e + 16 < x.spillCap)

/-- Room in an expedition's spill area: slices that have sent their record may send another (R135). -/
def Chip.spillFreed (c : Chip) (e : Nat) : Chip := if c.spillRoom e then c.onExp e fun x => { x with spillNoted := [] } else c

/-- A slice of a die as it reaches an expedition's memory for a spill entry: it is no task. -/
def spiller (e die : Nat) : Drover := { Drover.fresh false (some (512 * die)) with exp := e }

/-- A spill entry written: its 64 bytes have no layout in the spec (log 35); a fault closes the area and raises SPILL, with the entry's
address and the cause (R138, R327). -/
def Chip.writeSpill (c : Chip) (e die : Nat) : Chip :=
  match c.exp? e with
  | none => c
  | some x =>
    let addr := x.spillAddr + 64 * (c.spillUsed e % max x.spillCap 1)
    match { c with free := c.free + 1 }.storeBlock (2 ^ 32) (spiller e die) addr ((List.range 64).map fun i => Config.freeByte c.free i) with
    | (c, none) => c
    | (c, some k) =>
      (c.onExp e fun x => { x with spillOpen := false }).raiseRecord die e 0 true false false none none
        (trapWords 0x0D 0 (BitVec.ofNat 64 addr) (BitVec.ofNat 64 k) 0) none none

/-- A caravan enters a die's ready queue, or the spill area when the queue is full (R284, R287). -/
def Chip.enqueue (c : Chip) (v die time order : Nat) : Chip :=
  match c.caravan? v with
  | none => c
  | some x =>
    let room := decide (c.queueLen die < 2048)
    let c := (c.onCaravan v fun x =>
      { x with ready := time, order := order, agedAt := time, passedAt := none,
               place := if room then .queue die else .spilled die }).setMembers x .ready
    if room then c else c.writeSpill x.exp die

/-! ## Images (R335 to R337) -/

/-- Virtual address of a save slot (R335): after the slot table, 64 KiB aligned. -/
def slotAddr (chrysalis slot : Nat) : Nat := (chrysalis + 4096 + 65535) / 65536 * 65536 + slot * 0x1020000

/-- An entry of the pending table (R336 gives its size, not its layout; log 36): kind and numbers of what is awaited. -/
def awaitBytes : Option Await → List Byte
  | none => leBytes 0 32
  | some (.access q) => leBytes 1 8 ++ leBytes q 24
  | some (.copy ch id) => leBytes 2 8 ++ leBytes ch 8 ++ leBytes id 16
  | some (.group g) => leBytes 3 8 ++ leBytes g 24
  | some .inbox => leBytes 4 32
  | some (.steward q) => leBytes 5 8 ++ leBytes q 24

/-- A token's entry of 40 bytes in the engine region (R336). -/
def Token.entry (t : Token) : List Byte :=
  leBytes t.payload.toNat 32 ++ leBytes t.mask.toNat 4 ++ leBytes t.kind.toNat 1 ++ leBytes t.level.toNat 1 ++ leBytes 0 2

/-- The tokens that a page holds. -/
def Page.tokens (g : Page) : List Token :=
  (g.fifos.flatMap fun p => p.2.map (·.tok)) ++ (g.hops.flatMap fun p => p.2.map (·.tok)) ++
    (g.cst.flatMap fun p => p.2.out.toList ++ p.2.emit) ++
    (g.xst.flatMap fun p => p.2.out.toList ++ p.2.emit ++ p.2.held.toList) ++ g.waves.flatMap fun w => [w.q, w.d]

/-- The tokens that a serai's engines hold. -/
def Serai.tokens (v : Serai) : List Token :=
  (v.porters.toList.flatMap fun p => p.buf ++ p.more) ++ (v.copy.ch.toList.flatMap fun jobs => jobs.flatMap (·.buf)) ++
    (v.ctxs.toList.flatMap fun x => x.out.filterMap fun o => match o with
      | .tok t => some t
      | .inject => none) ++ v.pages.flatMap fun p => p.2.tokens

/-- Bytes 64 to 96 KiB of an image (R336). The engine region holds the entries of the engines' tokens; the rest of its layout is the
stepping's own, and those bytes are free (log 36). -/
def Drover.imageBody (d : Drover) (toks : List Token) (free : Nat) : List Byte :=
  d.regs.bytes ++ leBytes d.regs.pc.toNat 8 ++ d.flagBytes ++ d.inboxBytes ++ leBytes d.ctl.yieldth.toNat 8 ++
    leBytes d.ctl.instret.toNat 8 ++ leBytes d.ctl.govhold.toNat 8 ++ leBytes 0 144 ++
    d.regs.d.toList.flatMap (fun v => leBytes v.toNat 128) ++
    (List.range 32).flatMap (fun n => awaitBytes (look d.board.pend n)) ++ leBytes 0 512 ++
    (toks.flatMap Token.entry ++ (List.range 94208).map (Config.freeByte free)).take 94208

/-- The header of an image without its crc (R337). -/
def headerBytes (saveno exp cvidx reason : Nat) (held full complete : Bool) (taskid serai cycle member0 : Nat) : List Byte :=
  leBytes (saveno % 2 ^ 32 * 2 ^ 32 + exp * 2 ^ 16 + cvidx * 2 ^ 12 + b2n held * 2 ^ 8 + reason * 2 ^ 4 +
      b2n full * 2 + b2n complete) 8 ++
    leBytes taskid 4 ++ leBytes serai 2 ++ leBytes 0 2 ++ leBytes cycle 8 ++ leBytes member0 8 ++ leBytes 0 28

/-- The image with its crc in bytes 60 to 63 (R337). -/
def sealImage (header body : List Byte) : List Byte :=
  header ++ leBytes (crc32c (header ++ leBytes 0 4 ++ body)) 4 ++ body

/-- A header as it stands while the task is out of its serai: bit 8 says whether a trap holds the task (R337, R324). -/
def heldHeader (h : List Byte) (held : Bool) : List Byte := h.take 1 ++ leBytes (byteAt h 1 / 2 * 2 + b2n held) 1 ++ h.drop 2

/-- The image of a task that is out of its serai brought up to date: registers and pending table as the drover's state
stands, the header with the hold, the crc anew (R19). -/
def Chip.syncImage (c : Chip) (u : Nat) : Chip :=
  match c.task? u, c.drover? u with
  | some t, some d =>
    match t.slot, d.core, c.exp? t.exp with
    | some slot, none, some x =>
      let h := heldHeader t.header d.held
      let toks := ((look c.sched.images u).map Serai.tokens).getD []
      let c := { c with free := c.free + 1 }.onTask u fun t => { t with header := h }
      (c.writeBlock u d (slotAddr x.chrysalis slot) (sealImage h (d.imageBody toks c.free))).1
    | _, _, _ => c
  | _, _ => c

/-! ## Events that make a caravan ready (R282, R283) -/

/-- A yielded caravan becomes ready at an event of a member, or, while its save runs, when the save ends. -/
def Chip.wakeCaravan (c : Chip) (cycle v : Nat) : Chip :=
  match c.caravan? v with
  | none => c
  | some x =>
    match x.place with
    | .yielded die => c.enqueue v die cycle (arbiterOrder 4 (c.firstTaskid x))
    | .resident _ => if x.reason.isSome then c.onCaravan v fun x => { x with wake := true } else c
    | _ => c

/-- Something has reached task u: `what` is a register or port number as in `Drover.blockedAt`. The image is brought up to
date, and if the member was blocked on it, the caravan is ready. -/
def Chip.reached (c : Chip) (cycle u what : Nat) (token : Bool) : Chip :=
  match c.task? u, c.drover? u with
  | some t, some d =>
    let c := if d.core.isNone then c.syncImage u else c
    match d.blockedAt with
    | some (_, on) => if on % 64 = what ∨ (on % 64 = 33 ∧ token) then c.wakeCaravan cycle t.caravan else c
    | none => c
  | _, _ => c

/-- A watched word of a caravan is full: entry i below 4 of its watch list, or 16 + k for the TWATCH of member k. The
fill's clock reaches every member (R283). -/
def Chip.watchDone (c : Chip) (cycle v i : Nat) (k : SMap Nat) : Chip :=
  match c.caravan? v with
  | none => c
  | some x =>
    let c := x.members.foldl (fun c u => c.onDrover u fun d => d.acquire u k) c
    let c := c.onCaravan v fun x => { x with watches := del x.watches i }
    let c := if 16 ≤ i then
        match x.members[i - 16]? with
        | none => c
        | some u => c.onDrover u fun d => if d.hold = .waiting then { d with hold := .result 0 } else d
      else c
    match c.caravan? v with
    | none => c
    | some x =>
      if x.watches ≠ [] then c
      else
        match x.place with
        | .watching die => c.enqueue v die cycle (arbiterOrder 4 (c.firstTaskid x))
        | .resident _ => if x.reason.isSome then c.onCaravan v fun x => { x with wake := true } else c
        | _ => c

end Sys2Proof.Machine
end

