-- ==== Sys2Proof/Machine/Post.lean ====
section
/-!
DEFINITION. The drover's side of the ordering model (S2 to S5, S7, S9, S12 of R268): the conditions under which an access
leaves its queue, what a reply does when it reaches the drover, and combining in a junction (R130).
-/

namespace Sys2Proof.Machine

/-! ## Conditions -/

/-- The 64-byte line of an access, with the device of a remote page. -/
def Access.lineKey (a : Access) : Nat := (if a.leaf.rmt then a.leaf.dev + 1 else 0) * 2 ^ 40 + a.pa / 64

/-- Accesses of older instructions. -/
def Drover.older (d : Drover) (a : Access) : List Access := d.mem.accs.filter fun x => decide (x.seq < a.seq) && x.inst != a.inst

/-- No older access to the line is unperformed (S2, S4, S5). -/
def Drover.lineFree (d : Drover) (a : Access) : Bool :=
  !a.placed || (d.older a).all fun x => !x.placed || x.phase == .replied || x.lineKey != a.lineKey

/-- No older acquire, no older marker with acquire, and no older wait with acquire for a phase (R149), is unperformed. -/
def Drover.acquiresDone (d : Drover) (a : Access) : Bool :=
  (d.older a).all fun x => !x.acq || (!x.kind.isMarker && x.phase == .replied)

/-- A release waits for every older access, REDs included, at its scope. -/
def Drover.releaseReady (d : Drover) (a : Access) : Bool :=
  !a.rel || (d.older a).all fun x => x.performedAt a.scope

/-- Stores, atomics, full/empty accesses and DSTs: what FENCE.rel orders (R122). -/
def AccKind.fenced : AccKind → Bool
  | .store => true
  | .dstore => true
  | .ldf => true
  | .ldfe => true
  | .stef => true
  | .stf => true
  | .sete => true
  | .amo _ => true
  | .amoCas => true
  | .amocCas => true
  | .amocDecz => true
  | .amocAddge => true
  | _ => false

/-- A marker with release has nothing unperformed before it at its scope. -/
def Drover.markerReleased (d : Drover) (m : Access) : Bool :=
  (d.older m).all fun x => !x.kind.fenced || x.performedAt m.scope

/-- No older marker with release holds the access back (S2, R122). -/
def Drover.markersReleased (d : Drover) (a : Access) : Bool :=
  (d.older a).all fun m => m.kind != .fence || !m.rel || d.markerReleased m

/-- S2 of R268. -/
def Drover.canDrain (d : Drover) (a : Access) : Bool :=
  a.phase == .queued && !a.kind.isRead && a.kind != .fence && d.lineFree a && d.acquiresDone a && d.releaseReady a &&
    d.markersReleased a

/-- S5 of R268; R122 for atomics and full/empty loads behind a marker with release. -/
def Drover.canSendRead (d : Drover) (a : Access) : Bool :=
  a.phase == .queued && a.kind.isRead && d.lineFree a && d.acquiresDone a && d.releaseReady a &&
    (!a.kind.fenced || d.markersReleased a)

/-! ## Markers -/

/-- Whether an entry is the wait for a phase. -/
def AccKind.isPhase : AccKind → Bool
  | .phase _ => true
  | _ => false

/-- A marker is done: older reads and waits for phases completed when it acquires, older writes performed when it releases (R122,
R281; log 79). -/
def Drover.markerDone (d : Drover) (m : Access) : Bool :=
  (!m.acq || (d.older m).all fun x => !x.kind.isRead && !x.kind.isPhase) && (!m.rel || d.markerReleased m)

/-- Markers that are done leave the queues, oldest first; one that acquires empties the data cache (S9). A FENCE with both
orders has a marker for each, so that younger reads wait for older reads alone (R122). -/
def Drover.settle (d : Drover) : Drover :=
  (d.mem.accs.filter fun m => m.kind == .fence).foldl (fun d m =>
    if d.markerDone m then
      let accs := d.mem.accs.filter fun x => x.seq != m.seq
      if m.acq then
        { d with mem := { d.mem with accs := accs.map fun x => { x with line := none }, dcache := [] } }
      else { d with mem := { d.mem with accs := accs } }
    else d) d

/-! ## Changing an access -/

/-- The drover with an access changed. -/
def Drover.onAcc (d : Drover) (q : Nat) (f : Access → Access) : Drover :=
  { d with mem := { d.mem with accs := d.mem.accs.map fun a => if a.seq = q then f a else a } }

/-- The drover without an access: it is performed, complete, or given up. -/
def Drover.dropAcc (d : Drover) (q : Nat) : Drover :=
  { d with mem := { d.mem with accs := d.mem.accs.filter fun a => a.seq != q } }

/-- An access that is performed and answered: value, error, the line for the cache, and what it learns when it acquires. -/
def Drover.answer (d : Drover) (u q : Nat) (w : Word) (late : Option LateErr) (line : Option (BitVec 512)) (k : SMap Nat) :
    Drover :=
  match d.acc? q with
  | none => d
  | some a =>
    let d := d.onAcc q fun a => { a with phase := .replied, reply := w, late := late, line := line }
    let d : Drover := match d.hold with
      | .check h => if h = a.inst ∧ (d.mem.accs.all fun x => x.inst != h || x.phase == .replied) then { d with hold := .checked h } else d
      | _ => d
    (if a.acq then d.acquireFrom u q k else d).settle

/-- A line with some of its bytes replaced. -/
def patchLine (line : BitVec 512) (off : Nat) (bs : List Byte) : BitVec 512 :=
  let b := leBytes line.toNat 64
  BitVec.ofNat 512 (natOfBytes (b.take off ++ bs ++ b.drop (off + bs.length)))

/-- The drover's copy of an access's line dropped, where it has one or one is on its way (R259); lines of other modules are
not cached. -/
def Drover.dropLine (d : Drover) (a : Access) : Drover :=
  if a.leaf.rmt then d
  else
    { d with mem := { d.mem with
      dcache := del d.mem.dcache (a.pa / 64),
      accs := d.mem.accs.map fun (x : Access) => if x.placed ∧ x.lineKey = a.lineKey then { x with line := none } else x } }

/-- The drover's copy of an access's line changed, where it has one or one is on its way (R259). -/
def Drover.fixLine (d : Drover) (a : Access) (fix : BitVec 512 → BitVec 512) : Drover :=
  if a.leaf.rmt then d
  else
    { d with mem := { d.mem with
      dcache := upd d.mem.dcache (a.pa / 64) fix,
      accs := d.mem.accs.map fun (x : Access) => if x.placed ∧ x.lineKey = a.lineKey then { x with line := x.line.map fix } else x } }

/-- A write leaves the post buffer: it is performed. The instruction that a watched page holds may issue once it is its last
access, and one that acquires holds younger accesses no longer (R115). -/
def Drover.leave (d : Drover) (u : Nat) (a : Access) (k : SMap Nat) : Drover :=
  let d : Drover := match d.hold with
    | .check h => if h = a.inst ∧ (d.mem.accs.all fun x => x.inst != h || x.seq == a.seq) then { d with hold := .checked h } else d
    | _ => d
  let d := d.dropAcc a.seq
  (if a.acq then d.acquireFrom u a.seq k else d).settle

/-- A write of the drover is performed, and updates its copy of the line, where there is one, and lines on their way
(R259). -/
def Drover.written (d : Drover) (u q : Nat) (k : SMap Nat) : Drover :=
  match d.acc? q with
  | none => d
  | some a => (d.fixLine a fun l => patchLine l (a.pa % 64) (leBytes a.data.toNat a.size)).leave u a k

/-- A write of another kind than a plain store is performed: the copy of its line is dropped (R259). -/
def Drover.writtenDrop (d : Drover) (u q : Nat) (k : SMap Nat) : Drover :=
  match d.acc? q with
  | none => d
  | some a => (d.dropLine a).leave u a k

/-! ## Packets of accesses (R126, R354) -/

/-- Code of an access in a packet: the spec gives packets no payload layout (log 37). -/
def AccKind.code : AccKind → Nat × Nat
  | .load => (0, 0)
  | .loadU => (1, 0)
  | .dload => (2, 0)
  | .store => (3, 0)
  | .dstore => (4, 0)
  | .ldf => (5, 0)
  | .ldfe => (6, 0)
  | .stef => (7, 0)
  | .stf => (8, 0)
  | .sete => (9, 0)
  | .amo op => (10, op)
  | .amoCas => (11, 0)
  | .red op w => (12, op + 16 * b2n w)
  | .amocCas => (13, 0)
  | .amocDecz => (14, 0)
  | .amocAddge => (15, 0)
  | .arrive _ _ => (16, 0)
  | .fence => (17, 0)
  | .phase _ => (18, 0)

/-- The access kind of a code. -/
def kindOf (code op : Nat) : AccKind :=
  match code with
  | 0 => .load
  | 1 => .loadU
  | 2 => .dload
  | 3 => .store
  | 4 => .dstore
  | 5 => .ldf
  | 6 => .ldfe
  | 7 => .stef
  | 8 => .stf
  | 9 => .sete
  | 10 => .amo op
  | 11 => .amoCas
  | 12 => .red (op % 16) (op / 16 == 1)
  | 13 => .amocCas
  | 14 => .amocDecz
  | _ => .amocAddge

/-- Packet type of an access: read, write, or atomic (R354). -/
def AccKind.ptype : AccKind → Nat
  | .load => 0
  | .loadU => 0
  | .dload => 0
  | .store => 1
  | .dstore => 1
  | _ => 3

/-- Payload of an access's packet (log 37): what is read, what is written, or the atomic with its operands, the
expedition, template, tag and address of a continuation. -/
def Access.payload (a : Access) (exp : Nat) : List Byte :=
  match a.kind.ptype with
  | 0 => leBytes a.size 2
  | 1 => leBytes a.data.toNat a.size
  | _ =>
    leBytes a.kind.code.1 1 ++ leBytes a.kind.code.2 1 ++ leBytes a.size 2 ++ leBytes exp 2 ++ leBytes a.tmpl 2 ++
      leBytes a.tag 4 ++ leBytes a.va 8 ++ leBytes a.data.toNat 8 ++ leBytes a.data2.toNat 8

/-- An error of an access of the drover: poison at its register (R18, R329). -/
def Access.lateOf (a : Access) (origin : Word) : LateErr :=
  { cause := 6, val := BitVec.ofNat 64 a.va, origin := a.pc, aux0 := origin }

/-- An origin record (R25). -/
def originRecord (kind serai cell page cause k1 k2 : Nat) : Word :=
  BitVec.ofNat 64 (kind * 2 ^ 60 + serai % 4096 * 2 ^ 48 + cell % 256 * 2 ^ 40 + page % 256 * 2 ^ 32 + cause % 256 * 2 ^ 24 +
    k2 % 4096 * 2 ^ 12 + k1 % 4096)

/-- The cause in the fault log of a posted write or RED that fails: TAGERR where the home's tag array alone is at fault (R132, R330;
log 89). -/
def Chip.writeCause (c : Chip) (a : Access) : Nat :=
  if !a.leaf.rmt && a.kind.isRed && c.homes.badTag a.pa && !c.homes.anyBad a.pa a.size then 0x4A else 0x49

/-- A posted write or RED that fails: an entry in the fault log (R132, R353; log 38). -/
def Chip.logWrite (c : Chip) (u : Nat) (d : Drover) (a : Access) : Chip :=
  let extra := match a.kind with
    | .red op w => op + 256 * b2n w
    | _ => 0
  c.logFault d.die d.exp
    { cause := c.writeCause a, orphan := !d.steward && c.orphaned u, fatal := false, taskid := ((c.task? u).map (·.taskid)).getD 0,
      addr := BitVec.ofNat 64 a.va, val := a.data, extra := BitVec.ofNat 64 extra }

/-- An access that another module answers with an error: late for a read, in the log for a write (R354). -/
def Chip.failAccessAs (c : Chip) (u q cause : Nat) : Chip :=
  match c.drover? u with
  | none => c
  | some d =>
    match d.acc? q with
    | none => c
    | some a =>
      if a.kind.isRead then
        c.setDrover u (d.answer u q 0 (some (a.lateOf (originRecord 5 0 0 0 cause 0 0))) none [])
      else (c.logWrite u d a).setDrover u (d.writtenDrop u q [])

/-- An access that another module cannot serve: MEMERR (R353, R355). -/
def Chip.failAccess (c : Chip) (u q : Nat) : Chip := c.failAccessAs u q 0x49

/-- An access leaves its queue: towards its home, or as a packet to another module. -/
def Chip.sendAccess (c : Chip) (u : Nat) (d : Drover) (a : Access) : Chip :=
  if a.leaf.rmt then
    match c.request a.leaf.dev a.kind.ptype a.pa (a.payload d.exp) (fun k => .access u a.seq k) with
    | none => c.failAccess u a.seq
    | some (tag, c) => c.setDrover u (d.onAcc a.seq fun a => { a with phase := .remote tag }).settle
  else
    c.setDrover u
      ({ d with mem := { d.mem with nextSent := d.mem.nextSent + 1 } }.onAcc a.seq
        fun a => { a with phase := .sent, sentAt := d.mem.nextSent }).settle

/-- An access named by drover and number, for an event. -/
def State.withAcc (s : State) (u q : Nat) (f : Chip → Nat → Drover → Access → Chip) : Host.Outcome State Fault Refusal :=
  s.eventStep fun c cycle =>
    match c.drover? u with
    | none => c
    | some d =>
      match d.acc? q with
      | none => c
      | some a => f c cycle d a

/-- Whether a drover's queues move: those of a task that is saved stand in its image (R338). -/
def Chip.moves (c : Chip) (u : Nat) (d : Drover) : Bool :=
  d.steward || d.core.isSome || !(c.task? u).any Task.alive

/-- DRAIN_WRITE (S2 of R268). -/
def execDrainWrite (u q : Nat) (s : State) : Host.Outcome State Fault Refusal :=
  s.withAcc u q fun c _ d a => if d.canDrain a && c.moves u d then c.sendAccess u d a else c

/-- SEND_READ (S5 of R268). -/
def execSendRead (u q : Nat) (s : State) : Host.Outcome State Fault Refusal :=
  s.withAcc u q fun c _ d a => if d.canSendRead a && c.moves u d then c.sendAccess u d a else c

/-- A relaxed LD, LDU or DLD word that no watched page checks: what may be forwarded, or hit (S3, S4, R273). -/
def Access.easy (a : Access) : Bool :=
  (a.kind == .load || a.kind == .loadU || a.kind == .dload) && !a.acq && !a.rel && !a.leaf.watched && a.phase == .queued

/-- Older writes that overlap a read. -/
def Drover.overlaps (d : Drover) (a : Access) : List Access :=
  (d.older a).filter fun x => x.placed && !x.kind.isRead && x.phase != .replied && x.leaf.rmt == a.leaf.rmt &&
    (!a.leaf.rmt || x.leaf.dev == a.leaf.dev) && decide (x.pa < a.pa + a.size ∧ a.pa < x.pa + x.size)

/-- The value of bytes read by an access: LD sign-extends, the others zero-extend. -/
def AccKind.extend (k : AccKind) (size v : Nat) : Word :=
  match k with
  | .loadU => BitVec.ofNat 64 (v % 2 ^ (8 * size))
  | _ => sextN v (8 * size)

/-- Whether a store is a map write, which never forwards (S3, R256). -/
def Access.mapWrite (a : Access) : Bool :=
  if a.leaf.rmt then false
  else match regionOf a.pa with
    | .serai _ off => match windowOf off with
      | .mailbox => true
      | .inbox _ => true
      | _ => false
    | _ => false

/-- FORWARD (S3 of R268): from the youngest older overlapping write, if it is an ST or DST that covers the read. -/
def execForward (u q : Nat) (s : State) : Host.Outcome State Fault Refusal :=
  s.withAcc u q fun c _ d a =>
    if a.easy && c.moves u d then
      match (d.overlaps a).getLast? with
      | none => c
      | some x =>
        if (x.kind == .store || x.kind == .dstore) && !x.mapWrite && decide (x.pa ≤ a.pa ∧ a.pa + a.size ≤ x.pa + x.size) then
          let v := x.data.toNat / 2 ^ (8 * (a.pa - x.pa))
          c.setDrover u (d.answer u q (a.kind.extend a.size v) none none [])
        else c
    else c

/-- Pages whose lines the data cache holds: local pages of the three memory regions (R259). -/
def Access.cacheable (a : Access) : Bool :=
  !a.leaf.rmt && match regionOf a.pa with
    | .hbmI => true
    | .hbmD => true
    | .lpddr => true
    | _ => false

/-- HIT (S4 of R268). -/
def execHit (u q : Nat) (s : State) : Host.Outcome State Fault Refusal :=
  s.withAcc u q fun c _ d a =>
    match look d.mem.dcache (a.pa / 64) with
    | none => c
    | some line =>
      if a.easy && c.moves u d && a.cacheable && d.lineFree a && d.acquiresDone a && (d.overlaps a).isEmpty then
        let v := field (leBytes line.toNat 64) (a.pa % 64) a.size
        c.setDrover u (d.answer u q (a.kind.extend a.size v) none none [])
      else c

/-! ## Completion (S7) -/

/-- A line enters the data cache; past its 512 lines the one longest in the list leaves. -/
def fillLine (m : SMap (BitVec 512)) (k : Nat) (v : BitVec 512) : SMap (BitVec 512) :=
  let m := put m k v
  if 512 < m.length then m.filter fun p => p.1 != ((m.find? fun p => p.1 != k).map fun p => p.1).getD k else m

/-- One word of a DLD arrives: the register is ready with its last word, poisoned by any error (R118). -/
def Drover.completeDesc (d : Drover) (a : Access) : Drover :=
  let n := a.rd % 16
  let v := d.regs.d[n]?.getD 0
  let m : BitVec 1024 := BitVec.ofNat 1024 (2 ^ 64 - 1) <<< (64 * a.word)
  let v := v &&& ~~~m ||| a.reply.setWidth 1024 <<< (64 * a.word)
  let left := lookD d.board.dpend n 1 - 1
  { d with regs := { d.regs with d := d.regs.d.setIfInBounds n v },
           board := { d.board with dpend := if left = 0 then del d.board.dpend n else put d.board.dpend n left,
                                   dbad := match a.late with
                                     | none => d.board.dbad
                                     | some l => put d.board.dbad n l } }

/-- A reply reaches its register. -/
def Drover.completeAcc (d : Drover) (a : Access) : Drover :=
  match a.kind with
  | .dload => d.completeDesc a
  | _ =>
    if look d.board.pend a.rd = some (.access a.seq) then
      let d := d.completeX a.rd a.reply
      match a.late with
      | none => d
      | some l => d.completeLate a.rd l
    else d

/-- Whether a reply may be applied: replies to reads of one line in the order of those reads, a watched page's instruction has
issued, and no map write has reached the register in this cycle (R10). -/
def Drover.canComplete (d : Drover) (a : Access) : Bool :=
  a.phase == .replied && a.placed && (a.kind == .dload || !d.mapped a.rd) && ((d.older a).all fun x => !x.kind.isRead || !x.placed || x.lineKey != a.lineKey) &&
    match d.hold with
    | .check h => a.inst != h
    | .checked h => a.inst != h
    | _ => true

/-- COMPLETE (S7 of R268): the register is ready, a line fills the cache, a SLEEP ends with a register made ready (R123), a task out of its serai has
it in its image (R19). A late error with no register to carry it is logged (R139). -/
def execComplete (u q : Nat) (s : State) : Host.Outcome State Fault Refusal :=
  s.withAcc u q fun c cycle d a =>
    if d.canComplete a then
      let d1 := (d.completeAcc a).dropAcc q
      let d1 := if d1.board.pend == d.board.pend then d1 else d1.wake
      let d1 : Drover := match a.line with
        | none => d1
        | some l => if a.cacheable then { d1 with mem := { d1.mem with dcache := fillLine d1.mem.dcache (a.pa / 64) l } } else d1
      let c := c.setDrover u d1.settle
      let c : Chip := match a.late with
        | none => c
        | some l => if a.kind != .dload && look d.board.pend a.rd != some (.access a.seq) then c.logLate u d l else c
      if a.kind == .dload then c else c.reached cycle u a.rd a.kind.isToken
    else c

/-! ## Junctions (R130) -/

/-- The old word combined with an operand by a RED's operation, at its width (R129). -/
def redFun (op : Nat) (w32 : Bool) (old b : Nat) : Nat :=
  let n := if w32 then 32 else 64
  let old := old % 2 ^ n
  let b := b % 2 ^ n
  let f := if w32 then fp32 else fp64
  match op with
  | 0 => (old + b) % 2 ^ n
  | 1 => old &&& b
  | 2 => old ||| b
  | 3 => old ^^^ b
  | 4 => if intOf n old ≤ intOf n b then old else b
  | 5 => if intOf n old ≤ intOf n b then b else old
  | 6 => min old b
  | 7 => max old b
  | 8 => (f.addBits .ieee .rne old b).1
  | 9 => f.minBits old b
  | _ => f.maxBits old b

/-- Whether two REDs may combine: operation, width, address, scope, and both relaxed. -/
def combinable (a b : Access) : Bool :=
  (match a.kind, b.kind with
    | .red o w, .red o2 w2 => o == o2 && w == w2
    | _, _ => false) &&
  a.phase == .sent && b.phase == .sent && a.pa == b.pa && a.scope == b.scope && !a.acq && !a.rel && !b.acq && !b.rel &&
    !a.leaf.rmt && !b.leaf.rmt

/-- JUNCTION (R130): the second RED rides on the first and is performed with it. -/
def execJunction (u q u2 q2 : Nat) (s : State) : Host.Outcome State Fault Refusal :=
  s.withAcc u q fun c _ _ a =>
    match c.drover? u2 with
    | none => c
    | some d2 =>
      match d2.acc? q2 with
      | none => c
      | some b =>
        if combinable a b && (u != u2 || q != q2) then
          let v := match a.kind with
            | .red op w => BitVec.ofNat 64 (redFun op w a.data.toNat b.data.toNat)
            | _ => a.data
          let move := fun (x : Access) => if x.phase = .joined u2 q2 then { x with phase := .joined u q } else x
          let c := { c with drovers := c.drovers.map fun (p : Nat × Drover) =>
            (p.1, { p.2 with mem := { p.2.mem with accs := p.2.mem.accs.map move } }) }
          let c := c.onDrover u fun d => d.onAcc q fun a => { a with data := v }
          c.onDrover u2 fun d => d.onAcc q2 fun b => { b with phase := .joined u q }
        else c

end Sys2Proof.Machine
end

