-- ==== Sys2Proof/Machine/Home.lean ====
section
/-!
DEFINITION. The steps of the order points (S6 of R268): plain reads and writes, atomics, reductions, continuation
atomics, full/empty accesses with their waiters, the bank ports, the race check of watched pages (R273), the remote
caches (R260), and walks (R250).
-/

namespace Sys2Proof.Machine

/-! ## Performing one access on memory -/

/-- What performing answers: memory, value, and whether an uncorrectable word stood in the way (R345). -/
structure Perf where
  homes : Homes
  reply : Word
  bad : Bool

/-- The word that a returning atomic writes (R127). -/
def amoFun (op : Nat) (old b : Word) : Word :=
  match op with
  | 0 => b
  | 1 => old + b
  | 2 => old &&& b
  | 3 => old ||| b
  | 4 => old ^^^ b
  | 5 => if old.toInt ≤ b.toInt then old else b
  | 6 => if old.toInt ≤ b.toInt then b else old
  | 7 => if old.toNat ≤ b.toNat then old else b
  | 8 => if old.toNat ≤ b.toNat then b else old
  | _ => BitVec.ofNat 64 (fp64.addBits .ieee .rne old.toNat b.toNat).1

/-- A read at its home. -/
def Homes.performRead (h : Homes) (k : AccKind) (pa size : Nat) : Perf :=
  { homes := h, reply := k.extend size (h.num pa size), bad := h.anyBad pa size }

/-- A write at its home (R260, R345). -/
def Homes.performWrite (h : Homes) (pa size : Nat) (data : Word) : Perf :=
  { homes := h.storeBytes pa (leBytes data.toNat size), reply := 0, bad := false }

/-- A read-modify-write at its home: an uncorrectable word is left as it is (R345). -/
def Homes.performRmw (h : Homes) (pa size : Nat) (f : Nat → Nat) : Perf :=
  if h.anyBad pa size then { homes := h, reply := 0, bad := true }
  else
    let old := h.num pa size
    { homes := (h.dropCopies pa).writeNum pa size (f old), reply := BitVec.ofNat 64 old, bad := false }

/-- An access performed whole at the home of its word (R28, R126 to R129, R140). A RED whose word has an error in its tag leaves
the word as it was (R132). Continuation atomics are performed by
`Chip.continuation`. -/
def Homes.perform (h : Homes) (k : AccKind) (pa size : Nat) (data data2 : Word) : Perf :=
  match k with
  | .load => h.performRead .load pa size
  | .loadU => h.performRead .loadU pa size
  | .dload => h.performRead .dload pa size
  | .store => h.performWrite pa size data
  | .dstore => h.performWrite pa size data
  | .ldf => h.performRead .ldf pa size
  | .ldfe => let p := h.performRead .ldfe pa size; { p with homes := p.homes.setTag pa false }
  | .stef => let p := h.performWrite pa size data; { p with homes := p.homes.setTag pa true }
  | .stf => let p := h.performWrite pa size data; { p with homes := p.homes.setTag pa true }
  | .sete => { homes := h.setTag pa false, reply := 0, bad := false }
  | .amo op => h.performRmw pa 8 fun old => (amoFun op (BitVec.ofNat 64 old) data).toNat
  | .amoCas => h.performRmw pa 8 fun old => if old = data.toNat then data2.toNat else old
  | .red op w =>
    if h.badTag pa then { homes := h, reply := 0, bad := true }
    else h.performRmw pa (if w then 4 else 8) fun old => redFun op w old data.toNat
  | _ => { homes := h, reply := 0, bad := false }

/-- Whether a full/empty access finds the tag it waits for (R140). -/
def Homes.feReady (h : Homes) (k : AccKind) (pa : Nat) : Bool :=
  match k with
  | .ldf => h.tag pa
  | .ldfe => h.tag pa
  | .stef => !h.tag pa
  | _ => true

/-! ## Releases on words (R271) -/

/-- The releases that bytes from an address of one word carry. -/
def Homes.releasesAt (h : Homes) (pa n : Nat) : List Release :=
  ((lookD h.rel (wordKey pa) []).filter fun r => r.1 &&& byteMask pa n (wordKey pa) != 0).map fun r => r.2

/-- What the releases at device scope on the word of an address release together: what a fill makes known (R187). -/
def Homes.clockOf (h : Homes) (pa : Nat) : SMap Nat :=
  ((lookD h.rel (wordKey pa) []).filter fun r => decide (3 ≤ r.2.scope)).foldl (fun k r => joinClk k r.2.clk) []

/-- Homes with a release put on bytes of a word, beside what they carry. -/
def Homes.releaseOn (h : Homes) (pa n : Nat) (r : Release) : Homes :=
  { h with rel := put h.rel (wordKey pa) (lookD h.rel (wordKey pa) [] ++ [(byteMask pa n (wordKey pa), r)]) }

/-- The word's releases after an access of a drover: an ordered write or read-modify-write adds its own. What a write replaces is
gone already (`Homes.storeBytes`); SETE leaves the data, and so what it releases. -/
def Chip.release (c : Chip) (u : Nat) (d : Drover) (a : Access) : Chip :=
  if a.rel && !(a.kind == .load || a.kind == .loadU || a.kind == .dload || a.kind == .sete) then
    c.onHomes fun h => h.releaseOn a.pa a.size (c.releaseOf u d a.scope a.clk)
  else c

/-- What an acquire of a drover learns at its word, before it changes it. -/
def Chip.learned (c : Chip) (u : Nat) (d : Drover) (a : Access) : SMap Nat :=
  if a.acq then c.learns u d a.scope (c.homes.releasesAt a.pa a.size) else []

/-! ## Races on watched pages (R273) -/

/-- What a race names: the first access's agent, class, and whether it wrote. -/
structure Race where
  agent : Nat
  cls : Nat
  wrote : Bool
  deriving DecidableEq, Repr

/-- Whether a recorded access happens before one with a clock. -/
def happened (clk : SMap Nat) (me : Nat) (r : Nat × Nat × Nat) : Bool := r.1 == me || decide (r.2.1 ≤ lookD clk r.1 0)

/-- The race that an access of an agent makes in one granule. -/
def raceIn (g : Granule) (clk : SMap Nat) (me : Nat) (isWrite : Bool) : Option Race :=
  match g.write with
  | some w =>
    if !happened clk me w then some { agent := w.1, cls := w.2.2, wrote := true }
    else if isWrite then (g.reads.find? fun r => !happened clk me r).map fun r => { agent := r.1, cls := r.2.2, wrote := false }
    else none
  | none =>
    if isWrite then (g.reads.find? fun r => !happened clk me r).map fun r => { agent := r.1, cls := r.2.2, wrote := false }
    else none

/-- The granules that n bytes from an address touch. -/
def granules (pa n : Nat) : List Nat :=
  (List.range ((canon pa % 64 + n + 63) / 64)).map fun i => canon pa / 64 + i

/-- The first race that n bytes make. -/
def Homes.race (h : Homes) (clk : SMap Nat) (me pa n : Nat) (isWrite : Bool) : Option Race :=
  (granules pa n).findSome? fun g => (look h.dir g).bind fun e => raceIn e clk me isWrite

/-- The directory with room for a granule at a home: one that holds 8,192 entries evicts one (R273, log 76). -/
def Homes.dirRoom (h : Homes) (home g : Nat) : SMap Granule :=
  let mine := h.dir.filter fun p => p.2.slice == home
  if (look h.dir g).isSome || decide (mine.length < 8192) then h.dir
  else
    match mine[Config.dirVictim home g % mine.length]? with
    | none => h.dir
    | some p => del h.dir p.1

/-- The directory with an access recorded, under its epoch (R273). -/
def Homes.record (h : Homes) (clk : SMap Nat) (me cls : Nat) (rel : Bool) (pa n : Nat) (isWrite : Bool) : Homes :=
  let it := (me, epochOf clk me rel, cls)
  (granules pa n).foldl (fun (h : Homes) g =>
    let e := lookD h.dir g { slice := homeOf pa, write := none, reads := [] }
    { h with dir := put (h.dirRoom (homeOf pa) g) g (if isWrite then { e with write := some it, reads := [] }
      else { e with reads := e.reads.filter (fun r => r.1 != me) ++ [it] }) }) h

/-- What the record of a RACE says of the first access: task, class, and whether it wrote (R327). -/
def Chip.raceWord (c : Chip) (r : Race) : Word :=
  BitVec.ofNat 64 (((c.task? (r.agent % 2 ^ 32)).map (·.taskid)).getD 0 * 2 ^ 32 + r.cls * 4 + 2 * b2n r.wrote)

/-- RACE taken at a drover's instruction: nothing performed, its accesses gone, the trap precise at the instruction
(R273, R327). -/
def Chip.takeRace (c : Chip) (u : Nat) (d : Drover) (a : Access) (r : Race) : Chip :=
  let t := { d.trapAt 0x0E (BitVec.ofNat 64 a.va) with aux0 := c.raceWord r }
  let d := { d with mem := { d.mem with accs := d.mem.accs.filter fun x => x.inst != a.inst } }
  c.setDrover u (d.takeTrap t)

/-! ## Arrival -/

/-- Whether a sent access is next on its path from its drover: messages from one source to one home arrive in the order sent
(S12). -/
def Drover.arrived (d : Drover) (a : Access) : Bool :=
  a.phase == .sent && d.mem.accs.all fun x => x.phase != .sent || !x.placed || homeOf x.pa != homeOf a.pa || decide (a.sentAt ≤ x.sentAt)

/-- Whether an access has arrived at its home: nothing that it follows is still on its way there (S12 of R268, R145). -/
def Chip.arrived (c : Chip) (u : Nat) (d : Drover) (a : Access) : Bool := d.arrived a && !c.behind u a.clk a.pa

/-- Whether remote caches hold copies of an access's line (R260). -/
def Homes.copied (h : Homes) (pa : Nat) : Bool := h.rcache.any fun p => p.1 / 8 == canon pa / 64

/-- A write to a replicable page waits until every remote copy is gone (R260). -/
def Homes.writable (h : Homes) (a : Access) : Bool := a.kind.need == .read || !a.leaf.replicable || !h.copied a.pa

/-- The line that a plain load's reply carries. -/
def Homes.lineFor (h : Homes) (a : Access) : Option (BitVec 512) :=
  if a.cacheable && !h.anyBad (a.pa / 64 * 64) 64 && (a.kind == .load || a.kind == .loadU || a.kind == .dload) then some (h.line a.pa)
  else none

/-- The watched-page check of a plain access: whole instruction at its first word (R273). -/
def Chip.raceCheck (c : Chip) (u : Nat) (d : Drover) (a : Access) : Option Race × Chip :=
  if !a.leaf.watched then (none, c)
  else
    let words := d.mem.accs.filter fun x => x.inst == a.inst
    let plain := !a.acq && !a.rel
    let sixteen := a.kind == .dload || a.kind == .dstore
    let first := !sixteen || words.length == 16 && words.all fun x => x.phase != .replied
    let (pa, n) := if sixteen then (a.pa - 8 * a.word, 128) else (a.pa, a.size)
    let wr := a.kind.need != .read
    if !first then (none, c)
    else
      match if plain && (a.kind == .load || a.kind == .loadU || a.kind == .store || sixteen) then c.homes.race a.clk u pa n wr else none with
      | some r => (some r, c)
      | none => (none, c.onHomes fun h => h.record a.clk u 0 a.rel pa n wr)

/-- Origin record of an error at a local address: slice, or bank port (R328). -/
def localOrigin (pa cause : Nat) : Word :=
  match regionOf pa with
  | .serai n off => match windowOf off with
    | .bank cell _ => originRecord 2 n cell 0 cause 0 0
    | _ => originRecord 2 n 0 0 cause 0 0
  | _ => originRecord 5 0 0 0 cause 0 0

/-- The accesses that ride on a RED are performed with it (R130). -/
def Chip.dropJoined (c : Chip) (u q : Nat) : Chip :=
  { c with drovers := c.drovers.map fun (p : Nat × Drover) =>
    if p.2.mem.accs.any (fun (x : Access) => x.phase == Phase.joined u q) then
      (p.1, { p.2 with mem := { p.2.mem with accs := p.2.mem.accs.filter fun (x : Access) => x.phase != Phase.joined u q } }.settle)
    else p }

/-- An access that has arrived is performed and answered. -/
def Chip.performAcc (c : Chip) (u : Nat) (d : Drover) (a : Access) : Chip :=
  let k := c.learned u d a
  let p := c.homes.perform a.kind a.pa a.size a.data a.data2
  let c := { c with homes := p.homes }.release u d a
  match a.kind with
  | .store => c.setDrover u (d.written u a.seq k)
  | .dstore => c.setDrover u (d.written u a.seq k)
  | .stef => c.setDrover u (d.writtenDrop u a.seq k)
  | .stf => c.setDrover u (d.writtenDrop u a.seq k)
  | .sete => c.setDrover u (d.writtenDrop u a.seq k)
  | .red _ _ =>
    let c := if p.bad then c.logWrite u d a else c
    (c.setDrover u (d.writtenDrop u a.seq k)).dropJoined u a.seq
  | _ =>
    let late := if p.bad then some (a.lateOf (localOrigin a.pa 0x49)) else none
    let d := if a.kind == .load || a.kind == .loadU || a.kind == .dload then d else d.dropLine a
    c.setDrover u (d.answer u a.seq p.reply late (c.homes.lineFor a) k)

/-- An access of a kind that never races is recorded at its home as it is performed (R273). -/
def Chip.performNoted (c : Chip) (u : Nat) (d : Drover) (a : Access) : Chip := (c.raceCheck u d a).2.performAcc u d a

/-- The REDs that ride on another are recorded with it (R130, R273). -/
def Chip.noteJoined (c : Chip) (u q : Nat) : Chip :=
  c.drovers.foldl (fun c p => (p.2.mem.accs.filter fun (x : Access) => x.phase == Phase.joined u q).foldl (fun c x => (c.raceCheck p.1 p.2 x).2) c) c

/-! ## Waiters (R141 to R144) -/

/-- The key of the word that a waiter waits for; a push waits for no word. -/
def Waiter.word : Waiter → Nat
  | .access w _ _ _ => w
  | .watch w _ _ _ => w
  | .push _ _ _ => 2 ^ 64
  | .remote w _ _ _ _ _ _ => w

/-- The physical address through which a waiter came, which names its home. -/
def Waiter.at : Waiter → Nat
  | .access _ pa _ _ => pa
  | .watch _ pa _ _ => pa
  | .push _ _ _ => 2 ^ 64
  | .remote _ _ _ _ pa _ _ => pa

/-- Whether a waiter's condition holds now. -/
def Chip.waiterReady (c : Chip) (w : Waiter) : Bool :=
  match w with
  | .access _ _ u q =>
    match (c.drover? u).bind fun d => d.acc? q with
    | none => false
    | some a => c.homes.feReady a.kind a.pa
  | .watch key _ _ _ => c.homes.tags.contains key
  | .push _ _ _ => false
  | .remote _ _ _ k pa _ _ => c.homes.feReady k pa

/-- An atomic result for a request of another module (R354). -/
def Chip.answerRemote (c : Chip) (dst tag ptype err : Nat) (data : List Byte) : Chip :=
  c.send { ptype := ptype, err := err, dst := dst, src := c.mgmt.devid.toNat, tag := tag, addr := 0, data := data }

/-- A waiter is served. -/
def Chip.serveOne (c : Chip) (cycle : Nat) (w : Waiter) : Chip :=
  let c := c.onHomes fun h => { h with waiters := h.waiters.erase w }
  match w with
  | .access _ _ u q =>
    match c.drover? u with
    | none => c
    | some d =>
      match d.acc? q with
      | none => c
      | some a => c.performNoted u d a
  | .watch _ pa v i => c.watchDone cycle v i (c.homes.clockOf pa)
  | .push _ _ _ => c
  | .remote _ src tag k pa size data =>
    let p := c.homes.perform k pa size data 0
    { c with homes := p.homes }.answerRemote src tag 4 (if p.bad then 9 else 0) (leBytes p.reply.toNat 8)

/-- WAITER_SERVE (R141): the oldest waiter of the word whose condition holds, until none does. -/
def Chip.serveWord (c : Chip) (cycle key : Nat) : Nat → Chip
  | 0 => c
  | fuel + 1 =>
    match c.homes.waiters.find? fun w => w.word == key && c.waiterReady w with
    | none => c
    | some w => (c.serveOne cycle w).serveWord cycle key fuel

/-- The word's waiters served after a change of its tag. -/
def Chip.serve (c : Chip) (cycle pa : Nat) : Chip := c.serveWord cycle (wordKey pa) (c.homes.waiters.length + 1)

/-- Whether a home has a waiter record free for a word (R141): 16 a word; 4,096 a slice, 256 a bank port. -/
def Chip.waiterRoom (c : Chip) (pa : Nat) : Bool :=
  let mine := c.homes.waiters.filter fun w => w.word == wordKey pa
  let here := c.homes.waiters.filter fun w => w.word != 2 ^ 64 && homeOf w.at == homeOf pa
  let limit := match regionOf pa with
    | .serai _ _ => 256
    | _ => 4096
  decide (mine.length < 16) && decide (here.length < limit)

/-- WAITER_EXHAUSTION (R143): the wait goes to a steward as a SYNCRES record. -/
def Chip.exhausted (c : Chip) (u : Nat) (d : Drover) (a : Access) : Chip :=
  let op := if a.kind == .ldf || a.kind == .ldfe then 0x13 else 0x14
  let c := c.setDrover u (d.onAcc a.seq fun a => { a with phase := .steward })
  c.raiseRecord d.die d.exp (d.core.getD 0) false false true (some u) none
    (trapWords 0x0F (BitVec.ofNat 64 a.va)
      (BitVec.ofNat 64 (a.rd * 2 ^ 8 + (Nat.log2 a.size) * 2 ^ 6 + op)) (BitVec.ofNat 64 a.va)
      (if a.kind == .stef then a.data else 0)) (some a.seq) none

/-- A full/empty access arrives (R140, R141); one of a task that has ended meanwhile, and would wait, is cancelled (R144). -/
def Chip.fullEmpty (c : Chip) (cycle u : Nat) (d : Drover) (a : Access) : Chip :=
  if c.homes.feReady a.kind a.pa then (c.performNoted u d a).serve cycle a.pa
  else if (c.task? u).any fun t => !t.alive then c.setDrover u (d.dropAcc a.seq).settle
  else if c.waiterRoom a.pa then
    (c.setDrover u (d.onAcc a.seq fun a => { a with phase := .waiting })).onHomes fun h =>
      { h with waiters := h.waiters ++ [.access (wordKey a.pa) a.pa u a.seq] }
  else c.exhausted u d a

/-! ## The events -/

/-- The region of a local access; another module's for a remote page. -/
def Access.region (a : Access) : Region := if a.leaf.rmt then .hole else regionOf a.pa

/-- Number of invalidations accepted and not performed (R263). -/
def Homes.openInvals (h : Homes) : Nat := h.invals.length

/-- Plain reads and writes. -/
def AccKind.isPlainKind : AccKind → Bool
  | .load => true
  | .loadU => true
  | .dload => true
  | .store => true
  | .dstore => true
  | _ => false

/-- ORDER_POINT (S6 of R268): a plain access at a slice or the host port; the control port's load, and its stores of
kinds 3 to 7, which are dropped (R263). -/
def execOrderPoint (u q : Nat) (s : State) : Host.Outcome State Fault Refusal :=
  s.withAcc u q fun c _ d a =>
    if !c.arrived u d a || !a.kind.isPlainKind then c
    else
      match a.region with
      | .serai _ _ => c
      | .hole => c
      | .tcp =>
        if a.kind == .store then
          if a.data.toNat / 2 ^ 61 < 3 then c else c.setDrover u (d.writtenDrop u q [])
        else c.setDrover u (d.answer u q (BitVec.ofNat 64 c.homes.openInvals) none none [])
      | _ =>
        if !c.homes.writable a then c
        else
          match c.raceCheck u d a with
          | (some r, c) => c.takeRace u d a r
          | (none, c) => c.performAcc u d a

/-- Whether an access stands at a slice. -/
def Access.atSlice (a : Access) : Bool := !a.leaf.rmt && Machine.atSlice a.pa

/-- HOME_AMO (R127, R128). -/
def execHomeAmo (u q : Nat) (s : State) : Host.Outcome State Fault Refusal :=
  s.withAcc u q fun c _ d a =>
    let isAmo : Bool := match a.kind with
      | .amo _ => true
      | .amoCas => true
      | _ => false
    if isAmo && c.arrived u d a && a.atSlice && c.homes.writable a then c.performNoted u d a else c

/-- HOME_RED (R129, R132). -/
def execHomeRed (u q : Nat) (s : State) : Host.Outcome State Fault Refusal :=
  s.withAcc u q fun c _ d a =>
    if a.kind.isRed && c.arrived u d a && a.atSlice && c.homes.writable a then (c.noteJoined u q).performNoted u d a else c

/-- HOME_FULL_EMPTY (R140, R141, R143). -/
def execHomeFullEmpty (u q : Nat) (s : State) : Host.Outcome State Fault Refusal :=
  s.withAcc u q fun c cycle d a =>
    if a.kind.isFullEmpty && c.arrived u d a && a.atSlice && c.homes.writable a then c.fullEmpty cycle u d a else c

/-! ## Continuation atomics (R133 to R138) -/

/-- Launches a slice's relay queue holds. -/
def Homes.relayLen (h : Homes) (slice : Nat) : Nat := (h.relay.filter fun p => p.1 == slice).length

/-- What a form does to its word: new word, whether it launches, and underflow (R134). -/
def contForm (k : AccKind) (old thr : Nat) (b new : Word) : Nat × Bool × Bool :=
  match k with
  | .amocCas => if old = b.toNat then (new.toNat, true, false) else (old, false, false)
  | .amocDecz => if old = 0 then (0, false, true) else (old - 1, old == 1, false)
  | _ =>
    let o := intOf 64 old
    let t := intOf 64 thr
    ((old + b.toNat) % 2 ^ 64, decide (o < t ∧ t ≤ o + b.toInt), false)

/-- One SYNCRES record of a slice for a full spill area, until the area has had room again (R135). -/
def Chip.spillFull (c : Chip) (e slice : Nat) : Chip :=
  match c.exp? e with
  | none => c
  | some x =>
    if x.spillOpen && !x.spillNoted.contains slice then
      (c.onExp e fun x => { x with spillNoted := insertNat x.spillNoted slice }).raiseRecord (slice / 64) e 0 true false false none none
        (trapWords 0x0F 0 (BitVec.ofNat 64 (2 * 2 ^ 13 + 0x3F)) (BitVec.ofNat 64 x.spillAddr) 0) none none
    else c

/-- A continuation atomic at its slice (R133): the reservation, the form, the launch. Answers the status, or that the
word is uncorrectable. -/
def Chip.continuation (c : Chip) (k : AccKind) (exp pa : Nat) (b new : Word) (l : Launch) : Chip × Option Nat :=
  let slice := sliceOf pa
  let relay := decide (c.homes.relayLen slice < 64)
  if !relay && !c.spillRoom exp then (c.spillFull exp slice, some 2)
  else if c.homes.anyBad pa (if k == .amocAddge then 16 else 8) then (c, none)
  else
    let old := c.homes.num pa 8
    let (w, ok, under) := contForm k old (c.homes.num (pa + 8) 8) b new
    if under then (c, some 3)
    else
      let c := c.onHomes fun h => (h.dropCopies pa).writeNum pa 8 w
      if !ok then (c, some 0)
      else
        let l := { l with old := BitVec.ofNat 64 old }
        if relay then (c.onHomes fun h => { h with relay := h.relay ++ [(slice, l)] }, some 1)
        else ((c.writeSpill exp (slice / 64)).onExp exp fun x => { x with spill := x.spill ++ [l] }, some 1)

/-- The agent under which the performance of a continuation atomic is known, so that a launch covers it without the issuer's other
accesses (R271). -/
def contAgent (u q : Nat) : Nat := (2 ^ 60 + q) * 2 ^ 32 + u

/-- The launch of an access (R136, R137): it covers the atomic's own write, and the issuer's earlier accesses when the order says so
and the slice, an agent at device scope, is among the observers of the scope (R270). -/
def Chip.launchOf (c : Chip) (cycle u : Nat) (d : Drover) (a : Access) : Launch :=
  let slice : Release := { agent := 2 ^ 32, caravan := none, die := sliceOf a.pa / 64, scope := 3, clk := [] }
  let k := if a.rel && (c.releaseOf u d a.scope []).meets slice then a.clk else []
  { exp := d.exp, tmpl := a.tmpl, old := 0, tag := a.tag, word := a.pa, va := BitVec.ofNat 64 a.va, issuer := u, since := cycle,
    clk := if a.leaf.watched then put k (contAgent u a.seq) 1 else k }

/-- A continuation atomic on a watched page is recorded as performed under its own agent, which the issuer's later accesses know
(R271, R273). -/
def Chip.noteCont (c : Chip) (u : Nat) (d : Drover) (a : Access) : Chip × Drover :=
  if a.leaf.watched then
    let k := contAgent u a.seq
    (c.onHomes fun h => h.record [] k 0 false a.pa 8 true,
      { d with clk := put d.clk k 1,
               mem := { d.mem with accs := d.mem.accs.map fun x => if a.seq < x.seq then { x with clk := put x.clk k 1 } else x } })
  else (c, d)

/-- The late error of an underflow (R139). -/
def underflow (a : Access) : LateErr :=
  { cause := 0x0B, val := BitVec.ofNat 64 a.va, origin := a.pc, aux0 := BitVec.ofNat 64 a.tag }

/-- HOME_CONTINUATION (R133): a continuation atomic that is performed releases and acquires as an atomic does (R126). -/
def execHomeContinuation (u q : Nat) (s : State) : Host.Outcome State Fault Refusal :=
  s.withAcc u q fun c cycle d a =>
    if a.kind.isCont && c.arrived u d a && a.atSlice && c.homes.writable a then
      let k := c.learned u d a
      match c.continuation a.kind d.exp a.pa a.data a.data2 (c.launchOf cycle u d a) with
      | (c, none) => c.setDrover u (d.answer u q 0 (some (a.lateOf (localOrigin a.pa 0x49))) none [])
      | (c, some st) =>
        let (c, d) := if st ≤ 1 then (c.release u d a).noteCont u d a else (c, d)
        c.setDrover u ((d.dropLine a).answer u q (BitVec.ofNat 64 st) (if st = 3 then some (underflow a) else none) none k)
    else c

/-! ## Bank ports and windows (R219, R256) -/

/-- The task that holds a serai, with its drover. -/
def Chip.holderOf (c : Chip) (n : Nat) : Option (Nat × Drover) :=
  (c.holder? n).bind fun u => (c.drover? u).map fun d => (u, d)

/-- An access to a dead window (R343): reads return POISON, writes are dropped. -/
def Chip.deadAccess (c : Chip) (u : Nat) (d : Drover) (a : Access) : Chip :=
  if a.kind.isRead then
    c.setDrover u (d.answer u a.seq 0 (some (a.lateOf (localOrigin a.pa 0x47))) none [])
  else c.setDrover u (d.writtenDrop u a.seq [])

/-- An access that changes memory at a bank made weight-resident since its issue (R176): nothing is written; an atomic returns the
word, a full/empty load goes on (log 77). -/
def Chip.residentAccess (c : Chip) (cycle u : Nat) (d : Drover) (a : Access) : Chip :=
  if !a.kind.isRead then c.setDrover u (d.writtenDrop u a.seq [])
  else if a.kind.isFullEmpty then c.fullEmpty cycle u d a
  else
    let p := c.homes.performRead .load a.pa 8
    c.setDrover u ((d.dropLine a).answer u a.seq p.reply (if p.bad then some (a.lateOf (localOrigin a.pa 0x49)) else none) none (c.learned u d a))

/-- BANK_PORT_ACCESS (R219): any access to a cell bank; loads of a porter's or context's state word, whose values are
given. -/
def Chip.bankAccess (c : Chip) (cycle u : Nat) (d : Drover) (a : Access) (stateWord : Window → Nat → Word) : Chip :=
  if !c.arrived u d a then c
  else
    match a.region with
    | .serai n off =>
      match windowOf off with
      | .bank cell _ =>
        if c.isDead n then c.deadAccess u d a
        else if c.bankResident n cell && a.kind.need != .read then c.residentAccess cycle u d a
        else if a.kind.isFullEmpty then c.fullEmpty cycle u d a
        else
          match c.raceCheck u d a with
          | (some r, c) => c.takeRace u d a r
          | (none, c) => c.performAcc u d a
      | .porter p => c.setDrover u (d.answer u a.seq (stateWord (.porter p) n) none none [])
      | .context g => c.setDrover u (d.answer u a.seq (stateWord (.context g) n) none none [])
      | _ => c
    | _ => c

/-- The drover with an entry in its mailbox. -/
def Drover.pushMbx (d : Drover) (e : QEntry) : Drover := { d with queues := { d.queues with mbx := d.queues.mbx ++ [e] } }

/-- The drover with an entry in its inbound peer queue. -/
def Drover.pushInq (d : Drover) (e : QEntry) : Drover := { d with queues := { d.queues with inq := d.queues.inq ++ [e] } }

/-- The drover with an entry in its action port. -/
def Drover.pushAct (d : Drover) (e : QEntry) : Drover := { d with queues := { d.queues with act := d.queues.act ++ [e] } }

/-- The drover that a mailbox or inbox store is for: the member of the issuer's caravan under its caravan window, in or
out of its serai (R257), else the task that holds the serai; none where a killed task's windows are dead (R343). -/
def Chip.mapTarget (c : Chip) (u : Nat) (a : Access) : Option Nat :=
  let m := if bitsOf a.va 45 12 = 0xFFF then (c.caravanOf? u).bind fun v => v.members[(a.va - caravanBase) / 0x2000000]?
    else
      match a.region with
      | .serai n _ => c.holder? n
      | _ => none
  m.filter fun m => !(c.task? m).any fun t => t.state == .killed

/-- A map write reaches an inbox register (R10). -/
def Drover.inboxWrite (d : Drover) (k : Nat) (v : Word) (clk : SMap Nat) : Drover :=
  let r := 24 + k
  let armed := d.ctl.arm.getLsbD k
  let bit : BitVec 4 := BitVec.ofNat 4 (2 ^ k)
  let d1 := { d with
    regs := d.regs.setX (BitVec.ofNat 5 r) v,
    board := { d.board with pend := if armed then del d.board.pend r else d.board.pend, late := del d.board.late r,
                            clk := if clk = [] then del d.board.clk r else put d.board.clk r clk },
    ctl := if armed then { d.ctl with arm := d.ctl.arm &&& ~~~bit } else { d.ctl with ovr := d.ctl.ovr ||| bit },
    mapNow := d.mapNow ||| bit }
  d1.wake

/-- A map write reaches inbox register k of a task; a late error that nothing has read is logged (R18, R329). -/
def Chip.mapWrite (c : Chip) (cycle m k : Nat) (v : Word) (clk : SMap Nat) : Chip :=
  match c.drover? m with
  | none => c
  | some d =>
    let d1 := d.inboxWrite k v clk
    ((lostErrors d d1).foldl (fun c l => c.logLate m d l) (c.setDrover m d1)).reached cycle m (24 + k) true

/-- INBOX_MAP_WRITE (R10, R257): a map write to a serai that no task holds reaches no register. -/
def execInboxMapWrite (u q : Nat) (s : State) : Host.Outcome State Fault Refusal :=
  s.withAcc u q fun c cycle d a =>
    match a.region with
    | .serai _ off =>
      match windowOf off with
      | .inbox k =>
        if !c.arrived u d a || a.kind != .store then c
        else
          let t := c.mapTarget u a
          let c := c.setDrover u (d.writtenDrop u q [])
          match t with
          | none => c
          | some m => c.mapWrite cycle m k a.data (if a.rel then a.clk else [])
      | _ => c
    | _ => c

/-- Whether a waiter is a push at the mailbox of a task. -/
def Waiter.pushTo (m : Nat) : Waiter → Bool
  | .push k _ _ => k == m
  | _ => false

/-- A push that reaches no mailbox is dropped, with its record if it waits. -/
def Chip.dropPush (c : Chip) (u q : Nat) (d : Drover) : Chip :=
  (c.setDrover u (d.writtenDrop u q [])).onHomes fun h => { h with waiters := h.waiters.filter fun w => match w with
    | .push _ v k => !(v == u && k == q)
    | _ => true }

/-- MAILBOX_PUSH (R256): a push that finds the mailbox full, or others waiting, waits at the target's bank port, posted as a STEF that
waits is; pushes that wait go in the order of their arrival (R219). -/
def execMailboxPush (u q : Nat) (s : State) : Host.Outcome State Fault Refusal :=
  s.withAcc u q fun c cycle d a =>
    match a.region with
    | .serai _ off =>
      if windowOf off ≠ .mailbox ∨ !(c.arrived u d a || a.phase == .waiting) ∨ a.kind != .store then c
      else
        match (c.mapTarget u a).filter fun m => a.phase != .waiting || c.homes.waiters.contains (.push m u q) with
        | none => c.dropPush u q d
        | some m =>
          match c.drover? m with
          | none => c.dropPush u q d
          | some dm =>
            let first := c.homes.waiters.find? (Waiter.pushTo m)
            if a.phase == .waiting then
              if first != some (.push m u q) ∨ 64 ≤ dm.queues.mbx.length then c
              else
                let c := (c.setDrover u (d.writtenDrop u q [])).onHomes fun h => { h with waiters := h.waiters.erase (.push m u q) }
                let c := c.onDrover m fun d => (d.pushMbx { val := a.data, peer := 0, clk := if a.rel then a.clk else [] }).wake
                c.reached cycle m 28 false
            else if first.isSome ∨ 64 ≤ dm.queues.mbx.length then
              (c.setDrover u (d.onAcc q fun a => { a with phase := .waiting })).onHomes fun h =>
                { h with waiters := h.waiters ++ [.push m u q] }
            else
              let c := c.setDrover u (d.writtenDrop u q [])
              let c := c.onDrover m fun d => (d.pushMbx { val := a.data, peer := 0, clk := if a.rel then a.clk else [] }).wake
              c.reached cycle m 28 false
    | _ => c

/-- PEER_QUEUE_TRANSFER (R155): the head of an outbound queue moves when the peer's inbound queue has room. -/
def execPeerQueueTransfer (u : Nat) (peer : BitVec 4) (s : State) : Host.Outcome State Fault Refusal :=
  s.eventStep fun c cycle =>
    match c.drover? u, (c.caravanOf? u).bind fun v => v.members[peer.toNat]? with
    | some d, some m =>
      match lookD d.queues.outq peer.toNat [], c.drover? m with
      | e :: r, some dm =>
        if 32 ≤ dm.queues.inq.length then c
        else
          let c := c.onDrover u fun d => { d with queues := { d.queues with outq := put d.queues.outq peer.toNat r } }
          let c := c.onDrover m fun d => (d.pushInq e).wake
          c.reached cycle m 31 false
      | _, _ => c
    | _, _ => c

/-! ## Remote caches (R260) -/

/-- REMOTE_CACHE_FILL (S8): a plain read of a replicable page homed on another die is served from a present line, or
performed at the home with the line kept. -/
def execRemoteCacheFill (die : BitVec 3) (u q : Nat) (s : State) : Host.Outcome State Fault Refusal :=
  s.withAcc u q fun c _ d a =>
    if c.arrived u d a && remoteServes die.toNat a.leaf a.pa && d.site == die.toNat && (a.kind == .load || a.kind == .loadU || a.kind == .dload) then
      match look c.homes.rcache (remoteKey die.toNat a.pa) with
      | some line =>
        let v := field (leBytes line.toNat 64) (a.pa % 64) a.size
        c.setDrover u (d.answer u q (a.kind.extend a.size v) none (if a.cacheable then some line else none) (c.learned u d a))
      | none =>
        let c := if c.homes.anyBad (a.pa / 64 * 64) 64 then c else c.remoteKeep die.toNat a.pa
        c.performAcc u d a
    else c

/-- REMOTE_CACHE_EVICT (S8): `line` is a canonical line number. -/
def execRemoteCacheEvict (die : BitVec 3) (line : Nat) (s : State) : Host.Outcome State Fault Refusal :=
  s.eventStep fun c _ => c.onHomes fun h => { h with rcache := del h.rcache (8 * line + die.toNat) }

/-- REMOTE_CACHE_INVALIDATE (R260): the home's request drops the die's copy. -/
def execRemoteCacheInvalidate (die : BitVec 3) (line : Nat) (s : State) : Host.Outcome State Fault Refusal :=
  s.eventStep fun c _ => c.onHomes fun h => { h with rcache := del h.rcache (8 * line + die.toNat) }

/-! ## Walks and invalidations (R250, R261, R263) -/

/-- A translation enters a TLB of 64 entries (R261); of a full one the entry named by `victim` leaves. -/
def fillTlb (t : List Leaf) (l : Leaf) (victim : Nat) : List Leaf :=
  (if t.length < 64 then t else t.eraseIdx (victim % t.length)) ++ [l]

/-- A walk's leaf enters the second-level cache, and the TLB of a drover that waits for it. Which entry leaves a full TLB, the spec does
not say: a free value (log 14). -/
def Chip.walkFound (c : Chip) (u : Nat) (d : Drover) (va : Nat) (l : Leaf) : Chip :=
  let c := c.keepLeaf d.site l
  if d.hold = .walk va ∧ d.run = .running then
    let (victim, c) := if d.mem.tlb.length < 64 then (0, c) else c.takeFree
    c.setDrover u { d with mem := { d.mem with tlb := fillTlb d.mem.tlb (c.localLeaf l) victim.toNat }, hold := .idle }
  else c

/-- A walk that fails is XLATE for the drover that waits for it. -/
def Chip.walkLost (c : Chip) (u : Nat) (d : Drover) (va : BitVec 64) : Chip :=
  if d.hold = .walk va.toNat ∧ d.run = .running then c.setDrover u (d.takeTrap (d.trapAt 3 va)) else c

/-- An uncorrectable entry logged, at the entry's address (R262, log 78). -/
def Chip.logEntry (c : Chip) (u : Nat) (d : Drover) (a : Nat) : Chip :=
  c.logFault d.die d.exp
    { cause := 0x49, orphan := !d.steward && c.orphaned u, fatal := false, taskid := ((c.task? u).map (·.taskid)).getD 0,
      addr := BitVec.ofNat 64 a, val := 0, extra := 0 }

/-- TRANSLATION_WALK (R250, R261): a leaf of the die's second-level cache serves, or else one entry of the walk is read, in one step at
its home. The walk serves a drover that waits for the address, or comes ahead of an engine's need (log 58). -/
def execTranslationWalk (u : Nat) (va : BitVec 64) (s : State) : Host.Outcome State Fault Refusal :=
  s.eventStep fun c _ =>
    match c.drover? u with
    | none => c
    | some d =>
      let v := va.toNat
      if !d.walks v then c
      else if !walkable (c.rootOf d) v then c.walkLost u d va
      else
        match c.cachedLeaf d.site d.expTag v with
        | some l => c.walkFound u d v l
        | none =>
          let mine := fun (w : TableWalk) => w.die == d.site && w.tag == d.expTag && w.va == v
          let w := (c.walkers.walks.find? mine).getD { die := d.site, tag := d.expTag, va := v, level := 1, table := (c.rootOf d).toNat * 4096 }
          let c := { c with walkers := { c.walkers with
            walks := c.walkers.walks.filter fun w => !mine w, failed := c.walkers.failed.filter fun p => p != (d.site, d.expTag, v / 4096) } }
          match c.homes.walkStep d.expTag v w.level w.table with
          | .done l => c.walkFound u d v l
          | .on t => { c with walkers := { c.walkers with walks := c.walkers.walks ++ [{ w with level := w.level + 1, table := t }] } }
          | .fault => c.walkLost u d va
          | .bad a =>
            ({ c with walkers := { c.walkers with failed := c.walkers.failed ++ [(d.site, d.expTag, v / 4096)] } }.logEntry u d a).walkLost u d va

/-- Whether a leaf matches an invalidation (R263). -/
def Inval.hits (i : Inval) (l : Leaf) : Bool :=
  match i.kind with
  | 0 => l.expid == i.exp && decide (l.vbase ≤ i.vpn * 4096) && decide (i.vpn * 4096 < l.vbase + l.size)
  | 1 => l.expid == i.exp
  | _ => true

/-- Whether an invalidation matches every page of a tag, as it must when only the tag is known. -/
def Inval.hitsTag (i : Inval) (tag : Nat) : Bool := i.kind == 2 || i.exp == tag

/-- Every holder drops its matching translations (R261, R263); walks in progress begin anew. -/
def Chip.dropLeaves (c : Chip) (i : Inval) : Chip :=
  { c with
    drovers := c.drovers.map fun (p : Nat × Drover) => (p.1, { p.2 with mem := { p.2.mem with tlb := p.2.mem.tlb.filter fun l => !i.hits l } }),
    serais := c.serais.map fun (p : Nat × Serai) => (p.1, { p.2 with porters := p.2.porters.map fun (q : Porter) =>
      { q with leaf := if q.leaf.any i.hits then none else q.leaf } }),
    walkers :=
      { leaves := c.walkers.leaves.map fun (p : Nat × List Leaf) => (p.1, p.2.filter fun l => !i.hits l),
        walks := c.walkers.walks.filter fun w => !i.hitsTag w.tag,
        failed := c.walkers.failed.filter fun p => !i.hitsTag p.2.1 } }

/-- An invalidation accepted (R263): the holders drop their translations. -/
def Chip.acceptInval (c : Chip) (u : Nat) (d : Drover) (a : Access) (kind : Nat) : Chip :=
  let w := a.data.toNat
  if a.kind != .store || a.region != .tcp || a.pa % 4096 != 0 || w / 2 ^ 61 != kind || !c.arrived u d a then c
  else
    let i : Inval := { kind := kind, exp := bitsOf w 45 16, vpn := bitsOf w 0 45, u := u, seq := a.seq }
    ((c.setDrover u (d.onAcc a.seq fun a => { a with phase := .waiting })).dropLeaves i).onHomes fun h => { h with invals := h.invals ++ [i] }

/-- INVALIDATE_PAGE (R263). -/
def execInvalidatePage (u q : Nat) (s : State) : Host.Outcome State Fault Refusal :=
  s.withAcc u q fun c _ d a => c.acceptInval u d a 0

/-- INVALIDATE_EXPEDITION (R263). -/
def execInvalidateExpedition (u q : Nat) (s : State) : Host.Outcome State Fault Refusal :=
  s.withAcc u q fun c _ d a => c.acceptInval u d a 1

/-- INVALIDATE_ALL (R263). -/
def execInvalidateAll (u q : Nat) (s : State) : Host.Outcome State Fault Refusal :=
  s.withAcc u q fun c _ d a => c.acceptInval u d a 2

/-- Whether a copy or a chrysalis transfer has a matching page pinned (R263). -/
def Chip.pinned (c : Chip) (i : Inval) : Bool :=
  (c.serais.any fun p => p.2.copy.ch.toList.any fun jobs => jobs.any fun j => j.pins.any i.hits) ||
    c.sched.saving.any fun p => match p.2 with
      | .walked _ _ pins => pins.any i.hits
      | .gatedIn _ _ _ pins => pins.any i.hits
      | .faulted _ _ => false

/-- Whether an access translated through a matching page is still unperformed (R263): of a drover, or a chunk of a stream or copy. Of
lines asked for and packets sent to other modules the leaf is not kept, so any of them is waited for. -/
def Chip.inFlight (c : Chip) (i : Inval) : Bool :=
  (c.drovers.any fun p => p.2.mem.accs.any fun a =>
    a.placed && a.phase != .replied && i.hits a.leaf && !(p.1 == i.u && a.seq == i.seq)) ||
    (c.serais.any fun p =>
      (p.2.porters.toList.any fun q => q.packets != [] || q.chunks.any fun k => i.hits k.leaf) ||
        p.2.copy.ch.toList.any fun jobs => jobs.any fun j => j.packets != [] || j.chunks.any fun k => i.hits k.leaf) ||
    c.requests.any fun r => match r.2 with
      | .line _ _ => true
      | .posted _ _ => true
      | _ => false

/-- INVALIDATION_PERFORMED (R263): the oldest accepted one, once nothing that used its translations is left; what has been refilled
meanwhile is dropped with it. -/
def execInvalidationPerformed (s : State) : Host.Outcome State Fault Refusal :=
  s.eventStep fun c _ =>
    match c.homes.invals with
    | [] => c
    | i :: r =>
      if c.inFlight i || c.pinned i then c
      else ((c.dropLeaves i).onHomes fun h => { h with invals := r }).onDrover i.u fun d => d.writtenDrop i.u i.seq []

end Sys2Proof.Machine
end

