-- ==== Sys2Proof/Machine/Tensor.lean ====
section
/-!
DEFINITION. Tensor descriptors and their checks (R55, R64), the walk (R56, R57, R60, R62), the layout of elements (R53, R54),
and tokens (R20 to R25).
-/

namespace Sys2Proof.Machine

/-! ## Tokens -/

/-- A MARK of a level. -/
def Token.mark (l : Nat) : Token := { kind := 1, level := BitVec.ofNat 4 l, mask := 0, payload := 0 }

/-- The end of a tile. -/
def Token.eot : Token := Token.mark 15

/-- A POISON token: origin record, and the mask of the token it replaces. -/
def Token.poison (origin : Word) (mask : BitVec 32) : Token :=
  { kind := 4, level := 0, mask := mask, payload := origin.setWidth 256 }

/-- A DIRECTIVE token. -/
def Token.directive (code : Nat) : Token := { kind := 3, level := 0, mask := 0, payload := BitVec.ofNat 256 code }

/-- A token with the coordinates of a stream's position. -/
def Token.placed (t : Token) (at' : BitVec 24) : Token := { t with pos := at' }

/-- Whether a token is the end of its tile. -/
def Token.isEot (t : Token) : Bool := t.kind == 1 && t.level == 15

/-- The mask bit of a lane of a width (R22): narrow lanes go in pairs. -/
def laneBit (w i : Nat) : Nat := if w ≤ 6 then i / 2 else i

/-- Whether a lane of a token is valid. -/
def Token.valid (t : Token) (w i : Nat) : Bool := t.mask.getLsbD (laneBit w i)

/-- The bits of a lane. -/
def laneBits (pay : BitVec 256) (w i : Nat) : Nat := (pay >>> (i * w)).toNat % 2 ^ w

/-- The payload with a lane, which was zero, filled. -/
def setLane (pay : BitVec 256) (w i bits : Nat) : BitVec 256 := pay ||| (BitVec.ofNat 256 (bits % 2 ^ w) <<< (i * w))

/-- The mask with a lane's bit set. -/
def setMask (m : BitVec 32) (w i : Nat) : BitVec 32 := m ||| BitVec.ofNat 32 (2 ^ laneBit w i)

/-! ## Descriptors (R55) -/

/-- A level record. -/
structure Level where
  ext : Nat
  stride : Int
  org : Int
  wext : Nat
  deriving DecidableEq, Repr

/-- A descriptor's fields. -/
structure Desc where
  fmt : Nat
  base : Nat
  rlev : Nat
  side : Nat
  rank : Nat
  mmask : Nat
  glev : Nat
  scaleOff : Bool
  zpad : Bool
  reserved : Bool
  levels : List Level
  deriving DecidableEq, Repr

/-- The fields of a descriptor register. -/
def descOf (v : BitVec 1024) : Desc :=
  let n := v.toNat
  { base := bitsOf n 0 57, fmt := bitsOf n 58 6, side := bitsOf n 64 57, rlev := bitsOf n 124 4,
    zpad := bitOf n 128, scaleOff := bitOf n 129, glev := bitsOf n 144 4, mmask := bitsOf n 148 8, rank := bitsOf n 156 4,
    reserved := bitOf n 57 || bitsOf n 121 3 != 0 || bitsOf n 130 14 != 0,
    levels := (List.range 9).map fun l =>
      let o := 160 + 96 * l
      { ext := bitsOf n o 32, stride := intOf 32 (bitsOf n (o + 32) 32), org := intOf 16 (bitsOf n (o + 64) 16),
        wext := bitsOf n (o + 80) 16 } }

/-- The record of level l, from 1. -/
def Desc.lev (d : Desc) (l : Nat) : Level := (d.levels[l - 1]?).getD { ext := 0, stride := 0, org := 0, wext := 0 }

/-- Window positions of a level that is not ragged (R56). -/
def Level.count (l : Level) : Nat := if l.wext ≠ 0 then l.wext else ((l.ext : Int) - l.org).toNat

/-- Whether a level emits its mark. -/
def Desc.marked (d : Desc) (l : Nat) : Bool := bitOf d.mmask (l - 1) && decide (1 ≤ l ∧ l ≤ 8)

/-- Entries of the offsets array (R60). -/
def Desc.offsCount (d : Desc) : Nat := if d.rlev = 0 then 0 else (d.lev (d.rlev + 1)).ext + 1

/-- Where the gather list begins (R55). -/
def Desc.gatherBase (d : Desc) : Nat := d.side + 4 * d.offsCount

/-- A descriptor with an offset added to its base, as COPY adds it (R169). -/
def rebase (v : BitVec 1024) (off : Word) : BitVec 1024 :=
  let b := (v.toNat + off.toNat) % 2 ^ 57
  BitVec.ofNat 1024 (v.toNat / 2 ^ 57 * 2 ^ 57 + b)

/-- The first check of R64 that a descriptor fails: status code and level. The checks go in the order of the table. -/
def Desc.check (d : Desc) : Option (Nat × Nat) :=
  let levels := (List.range d.rank).map (· + 1)
  let w := widthOf d.fmt
  if d.rank = 0 ∨ 9 < d.rank then some (2, 0)
  else if (elemOf d.fmt).isNone then some (3, 0)
  else
    match (List.range 8).find? fun i => decide (d.rank ≤ i) && bitOf d.mmask i with
    | some i => some (4, i + 1)
    | none =>
      let r := d.lev d.rlev
      if d.rlev ≠ 0 ∧ (d.rank ≤ d.rlev ∨ 4096 < (d.lev (d.rlev + 1)).ext ∨ r.org ≠ 0 ∨ r.wext ≠ 0 ∨ d.rlev + 1 = d.glev) then
        some (5, d.rlev)
      else if d.glev ≠ 0 ∧ (d.glev ≠ d.rank ∨ (d.lev d.glev).org < 0) then some (6, d.glev)
      else if (d.rlev ≠ 0 ∨ d.glev ≠ 0) ∧ d.side % 4 ≠ 0 then some (7, 0)
      else if isMX d.fmt ∧ d.base % 8 ≠ 0 then some (7, 0)
      else if !isMX d.fmt ∧ 16 ≤ w ∧ d.base % (w / 8) ≠ 0 then some (7, 0)
      else if isMX d.fmt ∧ ((d.lev 1).stride ≠ 1 ∨ (d.lev 1).org % 32 ≠ 0 ∨
          (d.rlev ≠ 1 ∧ !d.marked 1 ∧ (d.lev 1).count % 32 ≠ 0)) then some (8, 1)
      else
        match if isMX d.fmt then levels.find? fun l => decide (2 ≤ l) && (d.lev l).stride % 32 != 0 else none with
        | some l => some (8, l)
        | none => if d.reserved then some (9, 0) else none

/-! ## The walk (R56, R57) -/

/-- Window index of level l. -/
def Walk.k (w : Walk) (l : Nat) : Nat := (w.ks[l - 1]?).getD 0

/-- The walk with a window index. -/
def Walk.setK (w : Walk) (l v : Nat) : Walk := { w with ks := setAt w.ks (l - 1) v }

/-- The coordinates at the walk's position: k_1 and k_2 modulo 4,096 (R26, R56). -/
def Walk.pos (w : Walk) : BitVec 24 := BitVec.ofNat 24 (w.k 2 % 4096 * 4096 + w.k 1 % 4096)

/-- Where a level's position lies: coordinate, whether it is out of bounds, and whether it is a hole. -/
structure Spot where
  c : Nat
  out : Bool
  hole : Bool
  deriving DecidableEq, Repr

/-- The coordinate of an ordinary level at a window index, clamped (R56, R59). -/
def Level.spot (l : Level) (k : Nat) : Spot :=
  let q := l.org + k
  let out := decide (q < 0 ∨ (l.ext : Int) ≤ q)
  { c := (satInt q 0 ((l.ext : Int) - 1)).toNat, out := out, hole := false }

/-- The coordinate that an entry of a gather list gives (R62). -/
def Level.entrySpot (l : Level) (e : Nat) : Spot :=
  if e = 0xFFFFFFFF then { c := 0, out := false, hole := true }
  else if e < l.ext then { c := e, out := false, hole := false }
  else { c := l.ext - 1, out := true, hole := false }

/-- Entry j of the offsets array. -/
def Walk.off (w : Walk) (j : Nat) : Nat := (w.offs[j]?).getD 0

/-- The instance of the ragged level that the walk stands in. -/
def Walk.instanceOf (w : Walk) (d : Desc) : Nat := ((d.lev (d.rlev + 1)).spot (w.k (d.rlev + 1))).c

/-- Length of the present instance of the ragged level, and whether an entry makes it empty (R60, R64). With a level of extent 0 above it
the offsets array has no instance to give: the instance is empty, and RAGGED is not set (log 83). -/
def Walk.raggedCount (w : Walk) (d : Desc) : Nat × Bool :=
  let j := w.instanceOf d
  if (d.lev (d.rlev + 1)).ext ≤ j then (0, false)
  else
    let a := w.off j
    let b := w.off (j + 1)
    if b < a then (0, true)
    else if isMX d.fmt ∧ d.rlev = 1 ∧ (a % 32 ≠ 0 ∨ (!d.marked 1 ∧ (b - a) % 32 ≠ 0)) then (0, true)
    else (b - a, false)

/-- Positions of a level's present pass, and whether RAGGED is due. -/
def Walk.count (w : Walk) (d : Desc) (l : Nat) : Nat × Bool :=
  if l = d.rlev then w.raggedCount d else ((d.lev l).count, false)

/-- The walk at the beginning of a pass of level l: down to the first element, or to the close of the first empty pass;
with whether RAGGED is due. -/
def Walk.enter (d : Desc) : Nat → Walk → Walk × Bool
  | 0, w => (w, false)
  | l + 1, w =>
    let w := w.setK (l + 1) 0
    let (n, r) := w.count d (l + 1)
    if n = 0 then ({ w with level := l + 1, closing := true }, r)
    else if l = 0 then ({ w with level := 1, closing := false }, r)
    else let (w', r') := Walk.enter d l w; (w', r || r')

/-- The walk past the close of level l: to the next position of level l + 1, to that level's close, or to the end. -/
def Walk.closeNext (w : Walk) (d : Desc) (l : Nat) : Walk × Bool :=
  if d.rank ≤ l then ({ w with done := true, closing := true, level := d.rank }, false)
  else
    let k := w.k (l + 1) + 1
    if k < (w.count d (l + 1)).1 then
      let w := w.setK (l + 1) k
      let w := if l + 1 = d.glev then { w with gather := w.gather.filter fun p => k ≤ p.1 } else w
      Walk.enter d l w
    else ({ w.setK (l + 1) k with level := l + 1, closing := true }, false)

/-- The walk past one element. -/
def Walk.elemNext (w : Walk) (d : Desc) : Walk :=
  let k := w.k 1 + 1
  let w := w.setK 1 k
  let w := if d.glev = 1 then { w with gather := w.gather.filter fun p => k ≤ p.1 } else w
  if k < (w.count d 1).1 then w else { w with closing := true, level := 1 }

/-- A walk not yet begun: level 0. -/
def Walk.opened (d : Desc) : Walk :=
  { Walk.start with ks := List.replicate 9 0, done := false, offsRead := d.rlev == 0 }

/-- Whether a walk may begin: its offsets array is read. -/
def Walk.begun (w : Walk) : Bool := w.level != 0

/-- The walk begun. -/
def Walk.begin (w : Walk) (d : Desc) : Walk × Bool := if w.begun then (w, false) else Walk.enter d d.rank w

/-- Where the walk's present element stands: element position, and whether it is out of bounds, padded or a hole (R56,
R59, R60, R62); none while its gather entry is unread. -/
structure Where where
  p : Int
  out : Bool
  hole : Bool
  /-- Nothing to clamp to: a level of extent 0 (R59). -/
  bare : Bool
  deriving DecidableEq, Repr

/-- The coordinate of a level at the present position. -/
def Walk.spot (w : Walk) (d : Desc) (l : Nat) : Option Spot :=
  if l = d.rlev then some { c := w.off (w.instanceOf d) + w.k l, out := false, hole := false }
  else if l = d.glev then (look w.gather (w.k l)).map (d.lev l).entrySpot
  else some ((d.lev l).spot (w.k l))

/-- The present element over its levels. -/
def Walk.whereFrom (w : Walk) (d : Desc) : Nat → Option Where
  | 0 => some { p := 0, out := false, hole := false, bare := false }
  | l + 1 =>
    match w.whereFrom d l, w.spot d (l + 1) with
    | some a, some s =>
      some { p := a.p + s.c * (d.lev (l + 1)).stride, out := a.out || s.out, hole := a.hole || s.hole,
             bare := a.bare || (l + 1 != d.rlev && (d.lev (l + 1)).ext == 0) }
    | _, _ => none

/-- The present element. -/
def Walk.here (w : Walk) (d : Desc) : Option Where := w.whereFrom d d.rank

/-- Whether a reading walk's lane is zero with its valid bit clear (R59, R62). -/
def Where.padded (x : Where) (d : Desc) : Bool := x.hole || (x.out && (d.zpad || x.bare))

/-- Whether a lane sets OOB (R59, R62): a true hole never does. -/
def Where.setsOob (x : Where) : Bool := x.out && !x.hole

/-! ## Elements in memory (R53, R54) -/

/-- Bytes of an MX block. -/
def blockBytes (fmt : Nat) : Nat := 4 * widthOf fmt

/-- Bytes of an MX record. -/
def recordBytes (fmt : Nat) : Nat := 8 + 8 * blockBytes fmt

/-- A virtual address from an integer; what lies outside 64 bits wraps, and has no translation. -/
def vaOf (v : Int) : Nat := (v % (2 ^ 64 : Nat)).toNat

/-- Bit address of element p. -/
def elemBit (fmt base : Nat) (p : Int) : Int :=
  if isMX fmt then
    ((base : Int) + p / 256 * recordBytes fmt + 8 + p / 32 % 8 * blockBytes fmt) * 8 + p % 32 * widthOf fmt
  else (base : Int) * 8 + p * widthOf fmt

/-- Byte address of the scale of element p's block. -/
def scaleAt (fmt base : Nat) (p : Int) : Nat := vaOf ((base : Int) + p / 256 * recordBytes fmt + p / 32 % 8)

/-- First byte, bit offset in it, and number of bytes of element p. -/
def elemSpan (fmt base : Nat) (p : Int) : Nat × Nat × Nat :=
  let bit := elemBit fmt base p
  let sh := (bit % 8).toNat
  (vaOf (bit / 8), sh, (sh + widthOf fmt + 7) / 8)

end Sys2Proof.Machine
end

