-- ==== Sys2Proof/Machine/Flow.lean ====
section
/-!
DEFINITION. The memory end of a stream or copy (R51, R52, R57 to R65, R261, R262, R273, R276): reading elements into tokens,
placing tokens' lanes into 64-byte chunks, and performing a chunk.
-/

namespace Sys2Proof.Machine

/-! ## Reaching memory -/

/-- Who reads or writes: the task and its drover, the number under which lines of other modules are fetched, the agent of
R273 with its class and clock, the descriptor's format, and the origin kind of its poison (R328). -/
structure MemEnd where
  u : Nat
  d : Drover
  agent : Nat
  me : Nat
  cls : Nat
  clk : SMap Nat
  fmt : Nat
  okind : Nat
  setTag : Bool
  /-- Translations it holds (R261). -/
  held : List Leaf

/-- What an access of a memory end answers. -/
inductive EndRes (α : Type) where
  /-- Done; with the translation it now holds. -/
  | ok (a : α) (c : Chip) (l : Option Leaf)
  /-- It waits, for another module or for a member that is out of its serai. -/
  | wait (c : Chip)
  /-- It ends the stream: XLATE, PERM, FMTMIX or RACE. -/
  | stop (cause : Nat) (race : Option (Race × Nat))

/-- The comparison of R52. -/
def fmtMix (l : Leaf) (fmt : Nat) : Bool := l.fmt.toNat != fmt && l.fmt.toNat != 0x3F && fmt != 0x3F

/-- The translation of an address: one that is held, or a refill with its comparison of formats (R52, R261). Those of the
caravan window are not kept, since members move. -/
def Chip.endLeaf (c : Chip) (m : MemEnd) (va : Nat) (n : Need) : EndRes Leaf :=
  match m.held.find? fun l => l.covers m.d.expTag va with
  | some l =>
    match engineFault m.d.steward l va n with
    | some k => .stop k none
    | none => if fmtMix l m.fmt then .stop 0x48 none else .ok l c (some l)
  | none =>
    match c.engineLeaf m.u m.d va n with
    | .bad k _ => .stop k none
    | .wait c => .wait c
    | .ok l c =>
      if fmtMix l m.fmt then .stop 0x48 none
      else .ok l c (if bitsOf va 45 12 = 0xFFF then none else some l)

/-- The race of an access within one chunk (R273). -/
def Chip.endRace (c : Chip) (m : MemEnd) (l : Leaf) (pa n : Nat) (wr : Bool) : Option Race :=
  if l.watched then c.homes.race m.clk m.me pa n wr else none

/-- The access recorded, on a watched page. -/
def Chip.endNote (c : Chip) (m : MemEnd) (l : Leaf) (pa n : Nat) (wr : Bool) : Chip :=
  if l.watched then c.onHomes fun h => h.record m.clk m.me m.cls false pa n wr else c

/-- A chunk read by its number, in one step (R276), once no write that comes before it is on its way (`Chip.behind`). -/
def Chip.endChunk (c : Chip) (m : MemEnd) (k : Nat) : EndRes ReadChunk :=
  match c.endLeaf m (64 * k) .read with
  | .wait c => .wait c
  | .stop e r => .stop e r
  | .ok l c h =>
    let pa := l.pa (64 * k)
    if l.rmt then
      match c.farPiece m.agent l pa 64 (64 * k) with
      | .ok b c => .ok { chunk := k, bytes := b, lost := 0, cause := 0, port := 0, used := false } (c.dropLine m.agent l pa) h
      | .wait c => .wait c
      | .bad e _ => .ok { chunk := k, bytes := List.replicate 64 0, lost := 0xFF, cause := e, port := 0, used := false } (c.dropLine m.agent l pa) h
    else if c.behind m.me m.clk pa then .wait c
    else
      match c.endRace m l pa 64 false with
      | some r => .stop 0x0E (some (r, 64 * k))
      | none => let (g, c) := c.chunkRead m.d.site l pa; .ok { g with chunk := k } (c.endNote m l pa 64 false) h

/-- The chunks that n bytes from an address stand in, by number. -/
def chunksOf (va n : Nat) : List Nat := if va / 64 = (va + n - 1) / 64 then [va / 64] else [va / 64, (va + n - 1) / 64]

/-- The chunks that element p needs: that of its block's scale too, where that is read (R54, R58). -/
def Desc.needs (d : Desc) (p : Int) : List Nat :=
  let s := elemSpan d.fmt d.base p
  let e := chunksOf s.1 s.2.2
  if isMX d.fmt && !d.scaleOff then
    let k := scaleAt d.fmt d.base p / 64
    if e.contains k then e else k :: e
  else e

/-- The first needed chunk that is not held. -/
def missing (got : List ReadChunk) (needs : List Nat) : Option Nat := needs.find? fun k => !(got.any fun g => g.chunk == k)

/-- The chunks held once an element is drawn: those used before that it does not need have gone. -/
def turnTo (got : List ReadChunk) (needs : List Nat) : List ReadChunk :=
  (got.filter fun g => !g.used || needs.contains g.chunk).map fun g => if needs.contains g.chunk then { g with used := true } else g

/-- n bytes drawn from chunks held, and the chunk in which one of them is lost. -/
def drawn (got : List ReadChunk) (va n : Nat) : List Byte × Option ReadChunk :=
  let at' := fun (i : Nat) => got.find? fun g => g.chunk == (va + i) / 64
  ((List.range n).map fun i => ((at' i).bind fun g => g.bytes[(va + i) % 64]?).getD 0,
    (List.range n).findSome? fun i => (at' i).filter fun g => g.lost.getLsbD ((va + i) % 64 / 8))

/-- What an entry of a side list answers. -/
inductive SideRes where
  /-- Read. -/
  | ok (e : Nat) (c : Chip)
  /-- It waits. -/
  | wait (c : Chip)
  /-- It ends the stream: XLATE, PERM or RACE. -/
  | stop (cause : Nat) (race : Option (Race × Nat))
  /-- It is lost. -/
  | err (cause : Nat)

/-- An entry of a side list: 32 bits, read whole (R61, R63). Side lists have no format. -/
def Chip.sideEntry (c : Chip) (m : MemEnd) (va : Nat) : SideRes :=
  match c.endChunk { m with fmt := 0x3F, held := [] } (va / 64) with
  | .ok g c _ =>
    match drawn [g] va 4 with
    | (b, none) => .ok (natOfBytes b) c
    | (_, some x) => .err x.cause
  | .wait c => .wait c
  | .stop k r => .stop k r

/-! ## Reading (R57 to R59) -/

/-- A reading walk at work. -/
structure Pull where
  c : Chip
  w : Walk
  held : Option Leaf
  toks : List Token
  oob : Bool
  ragged : Bool
  /-- An integer MX block with a NaN scale was met (R36). -/
  nan : Bool
  moved : Nat
  eot : Bool
  /-- Why the stream ends early. -/
  stop : Option (Nat × Option (Race × Nat))

/-- The origin record of a memory end at its walk's position. -/
def MemEnd.origin (m : MemEnd) (w : Walk) (cause : Nat) : Word := originRecord m.okind (m.d.core.getD 0) 0 0 cause (w.k 1) (w.k 2)

/-- The origin record of data lost with a chunk: of a dead window its bank port (R328, R343). -/
def MemEnd.lostOrigin (m : MemEnd) (w : Walk) (g : ReadChunk) : Word :=
  if g.cause = 0x47 then originRecord 2 (g.port / 256) (g.port % 256) 0 0x47 (w.k 1) (w.k 2) else m.origin w g.cause

/-- The walk with an empty open token. -/
def Walk.emptied (w : Walk) : Walk := { w with lanes := 0, pay := 0, mask := 0, scales := [], bad := none, first := 0 }

/-- The SCALE token of the open token (R21, R58): with a mask bit for each block that had a lane to read, so the second alone where the
first block is all padded (log 83). -/
def Walk.scaleToken (w : Walk) : Token :=
  let s := fun (n : Nat) => ((look w.scales n).getD 0).toNat
  let m := b2n (look w.scales 0).isSome + 2 * b2n (look w.scales 1).isSome
  { kind := 2, level := 0, mask := BitVec.ofNat 32 m, payload := BitVec.ofNat 256 (s 0 + 256 * s 1), pos := w.first }

/-- The open token, with its SCALE token before it; POISON when its data was lost. -/
def Walk.tokens (w : Walk) (d : Desc) : List Token :=
  match w.bad with
  | some o => [(Token.poison o w.mask).placed w.first]
  | none =>
    (if isMX d.fmt && !d.scaleOff then [w.scaleToken] else []) ++
      [{ kind := 0, level := 0, mask := w.mask, payload := w.pay, pos := w.first }]

/-- The open token emitted. -/
def Pull.emit (s : Pull) (d : Desc) : Pull := { s with toks := s.toks ++ s.w.tokens d, w := s.w.emptied }

/-- The walk with one lane more, with bits where it is valid. -/
def Walk.addLane (w : Walk) (d : Desc) (v : Option Nat) : Walk :=
  let n := widthOf d.fmt
  let w1 := match v with
    | none => w
    | some b => { w with pay := setLane w.pay n w.lanes b, mask := setMask w.mask n w.lanes }
  { w1 with lanes := w.lanes + 1, first := if w.lanes = 0 then w.pos else w.first }.elemNext d

/-- The mask that the open token would have had. -/
def Walk.restMask (d : Desc) : Nat → Walk → BitVec 32
  | 0, w => w.mask
  | f + 1, w =>
    if w.done || w.lanes == lanesOf d.fmt then w.mask
    else if w.closing then if d.marked w.level then w.mask else Walk.restMask d f (w.closeNext d w.level).1
    else
      let ok := match w.here d with
        | none => true
        | some x => !x.padded d
      Walk.restMask d f (w.addLane d (if ok then some 0 else none))

/-- A stream that stops (R52, R262): one POISON in place of the token that needed the page. -/
def Pull.fail (s : Pull) (m : MemEnd) (d : Desc) (cause : Nat) (r : Option (Race × Nat)) : Pull :=
  { s with toks := s.toks ++ [(Token.poison (m.origin s.w cause) (Walk.restMask d 256 s.w)).placed (if s.w.lanes = 0 then s.w.pos else s.w.first)],
           stop := some (cause, r) }

/-- Whether a walk has just latched a NaN scale of an integer MX block. -/
def nanScale (d : Desc) (w : Walk) : Bool :=
  (match elemOf d.fmt with
    | some (.flt _, _) => false
    | _ => true) && isMX d.fmt && look w.scales (w.lanes / 32) == some 0xFF

/-- The scale of the present lane's slot latched where the open token lacks it, that of the slot's first unpadded lane (log 83), and the
chunk in which it is lost. -/
def Walk.latched (w : Walk) (d : Desc) (p : Int) : Walk × Option ReadChunk :=
  let slot := w.lanes / 32
  if !isMX d.fmt || d.scaleOff || (look w.scales slot).isSome then (w, none)
  else
    match drawn w.got (scaleAt d.fmt d.base p) 1 with
    | (b, none) => ({ w with scales := put w.scales slot (b.headD 0) }, none)
    | (_, lost) => (w, lost)

/-- One element, whose chunks are held, put into the open token. -/
def Pull.element (s : Pull) (m : MemEnd) (d : Desc) (x : Where) : Pull :=
  let w0 := { s.w with got := turnTo s.w.got (d.needs x.p) }
  let (va, sh, n) := elemSpan d.fmt d.base x.p
  let s := { s with oob := s.oob || x.setsOob, moved := s.moved + 1 }
  let lost := fun (w : Walk) (g : ReadChunk) => { s with w := ({ w with bad := some (m.lostOrigin w g) } : Walk).addLane d (some 0) }
  match w0.latched d x.p with
  | (w, some g) => lost w g
  | (w, none) =>
    let s := { s with nan := s.nan || nanScale d w }
    match drawn w.got va n with
    | (_, some g) => lost w g
    | (b, none) => { s with w := w.addLane d (some (natOfBytes b / 2 ^ sh)) }

/-- A reading walk goes on: it draws elements from the chunks it holds, reads one chunk more where it needs one, and stops when it has
emitted; `read` says that this step has read its chunk. An outer position or gather entry out of range sets OOB with its first lane (log
83). -/
def Pull.run (m : MemEnd) (d : Desc) : Nat → Bool → Pull → Pull
  | 0, _, s => s
  | f + 1, read, s =>
    if s.w.lanes == lanesOf d.fmt then s.emit d
    else if s.w.done then
      if s.w.lanes = 0 then { s with toks := s.toks ++ [Token.eot.placed s.w.pos], eot := true } else s.emit d
    else if s.w.closing then
      if d.marked s.w.level && s.w.lanes != 0 then s.emit d
      else
        let (w, r) := s.w.closeNext d s.w.level
        let s1 := { s with w := w, ragged := s.ragged || r }
        if d.marked s.w.level then { s1 with toks := s1.toks ++ [(Token.mark s.w.level).placed s.w.pos] } else Pull.run m d f read s1
    else
      match s.w.here d with
      | none => s
      | some x =>
        if x.padded d then Pull.run m d f read { s with w := s.w.addLane d none, oob := s.oob || x.setsOob }
        else
          match missing s.w.got (d.needs x.p) with
          | none => Pull.run m d f read (s.element m d x)
          | some k =>
            if read then s
            else
              match s.c.endChunk { m with held := s.held.toList ++ m.held } k with
              | .ok g c h => Pull.run m d f true { s with c := c, held := h, w := { s.w with got := s.w.got ++ [g] } }
              | .wait c => { s with c := c }
              | .stop e r => s.fail m d e r

/-- The chunk that the walk lacks for the element n places on, where the entries read so far say which that is. -/
def Walk.lacks (d : Desc) : Nat → Nat → Walk → Option Nat
  | 0, _, _ => none
  | f + 1, n, w =>
    if w.done then none
    else if w.closing then Walk.lacks d f n (w.closeNext d w.level).1
    else
      match w.here d, n with
      | none, _ => none
      | some x, 0 => if x.padded d then none else missing w.got (d.needs x.p)
      | some _, n + 1 => Walk.lacks d f n (w.elemNext d)

/-- A read ahead of the walk's order (S10 of R268): the chip and the walk with the chunk; nothing where the chunk may not be read now, so
that the walk meets what stands in its way in order. -/
def Walk.readAhead (w : Walk) (c : Chip) (m : MemEnd) (d : Desc) (n : Nat) : Chip × Walk :=
  match Walk.lacks d 4096 n w with
  | none => (c, w)
  | some k =>
    match c.endChunk m k with
    | .ok g c _ => (c, { w with got := w.got ++ [g] })
    | .wait c => (c, w)
    | .stop _ _ => (c, w)

/-- Whether a walk holds every chunk that it will still draw from. -/
def Walk.allRead (d : Desc) : Nat → Walk → Bool
  | 0, _ => false
  | f + 1, w =>
    if w.done then true
    else if w.closing then Walk.allRead d f (w.closeNext d w.level).1
    else
      match w.here d with
      | none => false
      | some x =>
        if x.padded d then Walk.allRead d f (w.elemNext d)
        else (missing w.got (d.needs x.p)).isNone && Walk.allRead d f ({ w with got := turnTo w.got (d.needs x.p) }.elemNext d)

/-! ## Writing (R65) -/

/-- More steps than a walk can have. -/
def walkFuel : Nat := 2 ^ 300

/-- The walk over the closes of unmarked levels, and whether RAGGED is due. -/
def Walk.cross (d : Desc) : Nat → Walk → Walk × Bool
  | 0, w => (w, false)
  | f + 1, w =>
    if w.done || !w.closing || d.marked w.level then (w, false)
    else
      let (w1, r1) := w.closeNext d w.level
      let (w2, r2) := Walk.cross d f w1
      (w2, r1 || r2)

/-- Lanes being placed: element position, bits and scale slot of each lane that is stored. -/
structure Place2 where
  w : Walk
  oob : Bool
  ragged : Bool
  puts : List (Int × Nat × Nat)
  /-- A gather entry is not read yet. -/
  waits : Bool

/-- The lanes of a DATA or POISON token take their positions, from lane i on. -/
def Place2.lanes (d : Desc) (t : Token) : Nat → Nat → Place2 → Place2
  | 0, _, s => s
  | n + 1, i, s =>
    let (w, r) := s.w.cross d walkFuel
    let s := { s with w := w, ragged := s.ragged || r }
    let wd := widthOf d.fmt
    let v := t.valid wd i
    if w.done || w.closing then Place2.lanes d t n (i + 1) { s with oob := s.oob || v }
    else
      match w.here d with
      | none => { s with waits := true }
      | some x =>
        let s1 := { s with w := w.elemNext d }
        Place2.lanes d t n (i + 1)
          (if !v then s1
            else if x.out then { s1 with oob := true }
            else if x.hole || t.kind == 4 then s1
            else { s1 with puts := s1.puts ++ [(x.p, laneBits t.payload wd i, i / 32)] })

/-- An incoming mark ends passes (R65). A pass of an unmarked level that has taken its last lane is still that level's present pass until
the next lane or mark comes (log 83). -/
def Walk.ended (w : Walk) (d : Desc) (l : Nat) : Walk × Bool :=
  if w.done || d.rank < l || l = 0 then (w, false)
  else if w.closing && d.marked w.level && decide (l < w.level) then (w, false)
  else
    let above := fun (w : Walk) => w.closing && !d.marked w.level && decide (l < w.level)
    let (w1, r1) := if above w then w.cross d walkFuel else (w, false)
    if w1.done || (w1.closing && decide (l < w1.level)) then (w1, r1)
    else
      let (w2, r2) := w1.closeNext d l
      (w2, r1 || r2)

/-- A run of bytes to be written: address, bytes, and the bits of each that are written. -/
abbrev ByteRun := Nat × List Byte × List Byte

/-- The run of one element that is not of an MX format. -/
def elemRun (d : Desc) (p : Int) (bits : Nat) : ByteRun :=
  let (va, sh, n) := elemSpan d.fmt d.base p
  (va, leBytes (bits * 2 ^ sh) n, leBytes ((2 ^ widthOf d.fmt - 1) * 2 ^ sh) n)

/-- Encoding of zero in an element slot that no valid lane fills (R65, R42). -/
def zeroElem (fmt : Nat) : Nat :=
  match elemOf fmt with
  | some (.d2s, _) => 0x08
  | _ => 0

/-- The runs of one MX block: its scale byte, and all 32 slots (R65). A block whose scale the latched SCALE token lacks takes 0x7F, and
NOSCALE is not set (log 83). -/
def blockRuns (d : Desc) (scales : SMap Byte) (b : Int) (puts : List (Int × Nat × Nat)) : List ByteRun :=
  let mine := puts.filter fun q => q.1 / 32 == b
  let slot := (mine.head?.map fun q => q.2.2).getD 0
  let n := widthOf d.fmt
  let v := (List.range 32).foldl (fun (v j : Nat) =>
    let e := match (mine.filter fun q => q.1 % 32 == (j : Int)).getLast? with
      | some q => q.2.1
      | none => zeroElem d.fmt
    v + e * 2 ^ (n * j)) 0
  [(scaleAt d.fmt d.base (32 * b), [(look scales slot).getD 0x7F], [0xFF]),
    ((elemSpan d.fmt d.base (32 * b)).1, leBytes v (blockBytes d.fmt), List.replicate (blockBytes d.fmt) 0xFF)]

/-- The runs that a token's lanes write. -/
def runsOf (d : Desc) (scales : SMap Byte) (puts : List (Int × Nat × Nat)) : List ByteRun :=
  if isMX d.fmt then (puts.map fun q => q.1 / 32).dedup.flatMap fun b => blockRuns d scales b puts
  else puts.map fun q => elemRun d q.1 q.2.1

/-- Bytes laid over others from an offset, under masks. -/
def overlay (old : List Byte) (off : Nat) (new bits : List Byte) : List Byte :=
  let mid := ((slice old off new.length).zip (new.zip bits)).map fun p => (p.1 &&& ~~~p.2.2) ||| (p.2.1 &&& p.2.2)
  old.take off ++ mid ++ old.drop (off + new.length)

/-- A run within one chunk added to the chunks filled: into the last one when it is the same chunk. -/
def addRun (l : Leaf) (sid : Nat) (setTag : Bool) (r : ByteRun) (chunks : List Chunk) : List Chunk :=
  let pa := l.pa r.1
  let fill := fun (k : Chunk) =>
    { k with bytes := overlay k.bytes (pa % 64) r.2.1 r.2.2,
             bits := overlay k.bits (pa % 64) (List.replicate r.2.1.length 0xFF) r.2.2 }
  let fresh : Chunk := { leaf := l, sid := sid, setTag := setTag, va := r.1 / 64 * 64, pa := pa / 64 * 64, bytes := List.replicate 64 0, bits := List.replicate 64 0 }
  match chunks.getLast? with
  | some k => if k.pa = pa / 64 * 64 ∧ k.sid = sid ∧ k.setTag = setTag ∧ k.leaf.rmt = l.rmt ∧ k.leaf.dev = l.dev then chunks.dropLast ++ [fill k] else chunks ++ [fill fresh]
  | none => [fill fresh]

/-- Runs translated and put into chunks, and the chunks filled before one that fails. -/
def Chip.addRuns (c : Chip) (m : MemEnd) : Nat → List ByteRun → Option Leaf → List Chunk → EndRes Unit × List Chunk
  | 0, _, h, ks => (.ok () c h, ks)
  | _ + 1, [], h, ks => (.ok () c h, ks)
  | f + 1, r :: rest, h, ks =>
    match c.endLeaf { m with held := h.toList ++ m.held } r.1 .write with
    | .wait c => (.wait c, ks)
    | .stop k x => (.stop k x, ks)
    | .ok l c h1 =>
      let n := 64 - r.1 % 64
      let ks := addRun l (m.me / 2 ^ 32) m.setTag (r.1, r.2.1.take n, r.2.2.take n) ks
      let rest := if r.2.1.length ≤ n then rest else (r.1 + n, r.2.1.drop n, r.2.2.drop n) :: rest
      c.addRuns m f rest h1 ks

/-! ## Performing a chunk (R276) -/

/-- Words of a chunk, by their bits: all 64 bits written, or any. -/
def Chunk.words (k : Chunk) (all : Bool) : List Nat :=
  (List.range 8).filter fun i =>
    let b := slice k.bits (8 * i) 8
    if all then b.all fun x => x == 0xFF else b.any fun x => x != 0

/-- Homes with a chunk written as one step: bits that it does not cover keep their values; words covered whole are good
again (R345). -/
def Homes.storeChunk (h : Homes) (k : Chunk) : Homes :=
  let h1 := (h.dropCopies k.pa).write k.pa (overlay (h.bytes k.pa 64) 0 k.bytes k.bits)
  let h1 := (k.words true).foldl (fun h i => h.setBad (k.pa + 8 * i) false) h1
  (k.bits.zipIdx.filter fun b => b.1 != 0).foldl (fun h b => h.unrelease (k.pa + b.2) 1) h1

/-- A chunk written, with its tags (R27) and the waiters they release. -/
def Chip.doChunk (c : Chip) (cycle : Nat) (m : MemEnd) (k : Chunk) : Chip :=
  let c := (c.endNote m k.leaf k.pa 64 true).onHomes fun h => h.storeChunk k
  if k.setTag && k.leaf.tagged then
    (k.words false).foldl (fun c i => (c.onHomes fun h => h.setTag (k.pa + 8 * i) true).serve cycle (k.pa + 8 * i)) c
  else c

/-- A local chunk performed, as an access of the stream or copy that filled it: the chip, whether it was dropped at a weight-resident
bank, and the race it made instead. -/
def Chip.performChunk (c : Chip) (cycle : Nat) (m : MemEnd) (k : Chunk) : Chip × Bool × Option (Race × Nat) :=
  let m := { m with me := m.u + 2 ^ 32 * k.sid }
  match c.endRace m k.leaf k.pa 64 true with
  | some r => (c, false, some (r, k.va))
  | none =>
    match regionOf k.pa with
    | .serai n off =>
      if c.isDead n then (c, false, none)
      else if c.writeDropped (bankAddr n (off / 0x10000) (off % 0x10000)) then (c, true, none)
      else (c.doChunk cycle m k, false, none)
    | _ => (c.doChunk cycle m k, false, none)

/-! ## Sinks of poison (R329) -/

/-- A POISON record for the task of a sink, unless one is outstanding: the chip, and the sink's two fields as they
become. -/
def Chip.sinkPoison (c : Chip) (u : Nat) (isOut : Bool) (cnt : Nat) (sink aux2 : Nat) (origin : Word) : Chip × Bool × Nat :=
  if isOut then (c, true, min (cnt + 1) 0xFFFFFFFF)
  else
    (c.raiseAsync u { trapWords 6 0 origin (BitVec.ofNat 64 cnt) (BitVec.ofNat 64 aux2) with sink := sink }, true, 0)

/-- RACE for the task of a stream or copy, at the next instruction that it issues (R273). -/
def Chip.streamRace (c : Chip) (u : Nat) (r : Race) (va : Nat) : Chip :=
  c.raiseAsync u (trapWords 0x0E (BitVec.ofNat 64 va) (c.raceWord r) 0 0)

end Sys2Proof.Machine
end

