-- ==== Sys2Proof/Machine/Bind.lean ====
section
/-!
DEFINITION. Endpoints and bindings (R161, R173), what a sink accepts, and what engine commands share: operands, holds and
status words (R158 to R160).
-/

namespace Sys2Proof.Machine

/-! ## Commands -/

/-- A status word (R160). -/
def statusWord (code detail value : Nat) : Word := BitVec.ofNat 64 (value % 2 ^ 32 * 2 ^ 32 + detail % 256 * 256 + code)

/-- OK with no value. -/
def statusOk : Word := 0

/-- A failure with no detail. -/
def failWord (code : Nat) : Word := statusWord code 0 0

/-- An engine command of the task in focus, given its serai. A steward core has no engines (R1, R7). -/
def State.commands (s : State) (i : Instr) (f : Nat → Drover → Res (Chip × Drover)) : Host.Outcome State Fault Refusal :=
  match s.cur? with
  | none => .next s
  | some d =>
    if d.steward then .refused .noEngine
    else
      match d.core with
      | none => .next s
      | some n => s.drives i (f n)

/-- A mode word in rd: the command stalls while rd is pending, and x0 gives 0 (R158). -/
def Drover.modeWord (d : Drover) (u : Nat) (r : BitVec 5) (k : Word → Drover → Res (Chip × Drover)) : Res (Chip × Drover) :=
  unlessStall (d.dstStall r) <| (d.readX u r).bind fun (w, d) => k w d

/-- The result of a command written. -/
def Drover.status (c : Chip) (d : Drover) (r : BitVec 5) (w : Word) : Res (Chip × Drover) := .ok (c, d.writeX r w)

/-- The agent of R273 that a stream or copy with a number is. -/
def streamAgent (u sid : Nat) : Nat := u + 2 ^ 32 * sid

/-! ## Engines of a task -/

/-- The serai that a task holds. -/
def Chip.seraiOf (c : Chip) (u : Nat) : Option Nat := (c.drover? u).bind fun d => if d.steward then none else d.core

/-- The task that holds a serai, its drover and its engines, for a step of an engine. A gated or killed task's engines do
not move (R300, R338, R343). -/
def Chip.engineAt (c : Chip) (n : Nat) : Option (Nat × Drover × Serai) :=
  match c.holderOf n with
  | none => none
  | some (u, d) =>
    match d.run with
    | .gated => none
    | _ => some (u, d, c.serai n)

/-- A step of an engine of a serai. -/
def State.engineStep (s : State) (n : BitVec 12) (f : Chip → Nat → Nat → Drover → Serai → Chip) :
    Host.Outcome State Fault Refusal :=
  s.eventStep fun c cycle =>
    match c.engineAt n.toNat with
    | none => c
    | some (u, d, v) => f c cycle u d v

/-- What is bound to a source. -/
def Chip.sinkOf (c : Chip) (e : Ep) : Option Ep := (c.binds.find? fun b => b.1 == e).map fun b => b.2

/-- Whether a host ingress port in FEED mode feeds an input portal, as a bound source (R360). -/
def Chip.hostFeeds (c : Chip) (e : Ep) : Bool :=
  match e with
  | .portal u pg i => c.ports.toList.any fun p => p.mode && p.portal == i && p.pageid == pg && c.taskKey? p.expid p.taskid == some u
  | _ => false

/-- Whether an endpoint is bound, as source or as sink. -/
def Chip.isBound (c : Chip) (e : Ep) : Bool := (c.binds.any fun b => b.1 == e || b.2 == e) || c.hostFeeds e

/-- Whether an endpoint is bound as a source. -/
def Chip.boundSource (c : Chip) (e : Ep) : Bool := c.binds.any fun b => b.1 == e

/-- Whether an endpoint is bound as a sink. -/
def Chip.boundSink (c : Chip) (e : Ep) : Bool := (c.binds.any fun b => b.2 == e) || c.hostFeeds e

/-- Whether a copy of a task has reserved an endpoint, as source or as sink, until it completes (R169). -/
def Chip.reserved (c : Chip) (e : Ep) (asSource : Bool) : Bool :=
  c.serais.any fun p => p.2.copy.ch.toList.any fun jobs => jobs.any fun j =>
    if asSource then j.src == some e else j.dst == some e

/-! ## Sinks -/

/-- Capacity of a portal FIFO (R194). -/
def portalDepth : Nat := 16

/-- Whether a writing porter takes a token: it is open with room and its `eot` has not come, or it is closing and discards
(R163, R164). -/
def Porter.takes (p : Porter) : Bool :=
  p.dir && ((p.cond == 1 && !p.closing && decide (p.buf.length < 16) && !(p.buf.any Token.isEot)) || (p.closing && !p.eotDone))

/-- The porter with a token given to it. -/
def Porter.give (p : Porter) (t : Token) : Porter :=
  if p.closing then { p with eotDone := t.isEot, passed := true } else { p with buf := p.buf ++ [t], passed := true }

/-- Place of a WPOKE token among the tokens that enter a portal in one cycle: behind bound tokens, of place 0, and the INJECTs of context
g, of place 1 + g (R178, R236). -/
def wpokePlace : Nat := 5

/-- The page with a token at the tail of a portal's FIFO, if there is room; in the cycle of a token whose place comes after its own it may
not enter (R178, R236). -/
def Page.offer (g : Page) (cycle place i : Nat) (t : Token) : Option Page :=
  let q := lookD g.fifos i []
  if portalDepth ≤ q.length || (look g.entered i).any fun e => e.1 == cycle && decide (place < e.2) then none
  else some { g with fifos := put g.fifos i (q ++ [{ tok := t, byCell := false, byXv := false, here := true }]),
                     entered := put g.entered i (cycle, place) }

/-- A token offered to a sink: the chip once it has entered, none while it may not (R161, R163, R194). -/
def Chip.accept (c : Chip) (cycle : Nat) (e : Ep) (t : Token) : Option Chip :=
  match e with
  | .porter u p =>
    (c.seraiOf u).bind fun n =>
      let q := (c.serai n).porter p
      if q.takes then some (c.onSerai n fun v => v.onPorter p fun q => q.give t) else none
  | .portal u pg i =>
    (c.seraiOf u).bind fun n =>
      (look (c.serai n).pages pg).bind fun g =>
        (g.offer cycle 0 i t).map fun g => c.onSerai n fun v => { v with pages := put v.pages pg g }
  | .mailbox u =>
    match c.seraiOf u, c.drover? u with
    | some n, some d =>
      if t.kind = 0 then
        if 64 ≤ d.queues.mbx.length then none
        else
          let c := c.onDrover u fun d => (d.pushMbx { val := t.payload.setWidth 64, peer := 0, clk := [] }).wake
          some (c.reached cycle u 28 false)
      else if t.kind = 4 then
        let v := c.serai n
        let (c, o, k) := c.sinkPoison u v.mbxPoisonOut v.mbxPoisonCnt 16 2 (t.payload.setWidth 64)
        some (c.onSerai n fun v => { v with mbxPoisonOut := o, mbxPoisonCnt := k })
      else some c
    | _, _ => none
  | _ => none

/-- The chip without a binding. -/
def Chip.unbind (c : Chip) (src : Ep) : Chip := { c with binds := c.binds.filter fun b => b.1 != src }

end Sys2Proof.Machine
end

