-- ==== Sys2Proof/Machine/MemInstr.lean ====
section
/-!
DEFINITION. Loads, stores, prefetches, descriptor loads and stores (R114 to R118), full/empty accesses (R140), atomics,
reductions and continuation atomics (R126 to R134): what each does at issue. What happens at the home stands with the
homes' steps.
-/

namespace Sys2Proof.Machine

/-- An M-format address (R70). -/
def mAddr (x : Word) (f : BitVec 12) : Word := x + f.signExtend 64

/-- The destination register left pending on an access (R16). -/
def pendOn (r : BitVec 5) (d : Drover) (seq : Nat) : Drover := d.pendX r (.access seq)

/-- Nothing left pending. -/
def pendNone (d : Drover) (_ : Nat) : Drover := d

/-- An ask of one word. -/
def ask1 (k : AccKind) (z : BitVec 2) (acq rel : Bool) (rd : Nat) (w : Word) : Ask :=
  { kind := k, size := 2 ^ z.toNat, align := 2 ^ z.toNat, acq := acq, rel := rel, scope := 3, rd := rd, data2 := 0,
    tmpl := 0, tag := 0, words := [w] }

/-- A load of the M format (R114, R140). -/
def State.loadM (s : State) (i : Instr) (k : AccKind) (d a : BitVec 5) (z : BitVec 2) (acq rel : Bool)
    (f : BitVec 12) : Host.Outcome State Fault Refusal :=
  s.drove i fun dr =>
    unlessStall (dr.srcStall [a]) <| unlessStall (dr.dstStall d) <|
      (dr.readX s.focus a).bind fun (x, dr') =>
        s.memory dr dr' (mAddr x f) (ask1 k z acq rel d.toNat 0) (pendOn d)

/-- A store of the M format: address from ra, data from rd (R114, R140). ra is read before rd. -/
def State.storeM (s : State) (i : Instr) (k : AccKind) (d a : BitVec 5) (z : BitVec 2) (acq rel : Bool)
    (f : BitVec 12) : Host.Outcome State Fault Refusal :=
  s.drove i fun dr =>
    unlessStall (dr.srcStall [a, d]) <|
      (dr.read2 s.focus a d).bind fun (x, v, dr') =>
        s.memory dr dr' (mAddr x f) (ask1 k z acq rel 0 v) pendNone

/-- LD (R114, R115). -/
def execLd (d a : BitVec 5) (z o : BitVec 2) (f : BitVec 12) (s : State) : Host.Outcome State Fault Refusal :=
  s.loadM (.ld d a z o f) .load d a z (o.getLsbD 0) (o.getLsbD 1) f

/-- LDU (R114, R115). -/
def execLdu (d a : BitVec 5) (z o : BitVec 2) (f : BitVec 12) (s : State) : Host.Outcome State Fault Refusal :=
  s.loadM (.ldu d a z o f) .loadU d a z (o.getLsbD 0) (o.getLsbD 1) f

/-- ST (R114, R115). -/
def execSt (d a : BitVec 5) (z o : BitVec 2) (f : BitVec 12) (s : State) : Host.Outcome State Fault Refusal :=
  s.storeM (.st d a z o f) .store d a z (o.getLsbD 0) (o.getLsbD 1) f

/-- LDF (R140): an acquire. -/
def execLdf (d a : BitVec 5) (z : BitVec 2) (f : BitVec 12) (s : State) : Host.Outcome State Fault Refusal :=
  s.loadM (.ldf d a z f) .ldf d a z true false f

/-- LDFE (R140): an acquire. -/
def execLdfe (d a : BitVec 5) (z : BitVec 2) (f : BitVec 12) (s : State) : Host.Outcome State Fault Refusal :=
  s.loadM (.ldfe d a z f) .ldfe d a z true false f

/-- STEF (R140): a release. -/
def execStef (d a : BitVec 5) (z : BitVec 2) (f : BitVec 12) (s : State) : Host.Outcome State Fault Refusal :=
  s.storeM (.stef d a z f) .stef d a z false true f

/-- STF (R140): a release. -/
def execStf (d a : BitVec 5) (z : BitVec 2) (f : BitVec 12) (s : State) : Host.Outcome State Fault Refusal :=
  s.storeM (.stf d a z f) .stf d a z false true f

/-- SETE (R140): a release; rd is 0 and no data is stored. -/
def execSete (a : BitVec 5) (z : BitVec 2) (f : BitVec 12) (s : State) : Host.Outcome State Fault Refusal :=
  s.drove (.sete a z f) fun dr =>
    unlessStall (dr.srcStall [a]) <|
      (dr.readX s.focus a).bind fun (x, dr') =>
        s.memory dr dr' (mAddr x f) (ask1 .sete z false true 0 0) pendNone

/-- A prefetch (R116): the operand is read, nothing else happens. -/
def State.prefetch (s : State) (i : Instr) (a : BitVec 5) : Host.Outcome State Fault Refusal :=
  s.drove i fun dr => unlessStall (dr.srcStall [a]) <| (dr.readX s.focus a).bind fun (_, dr') => .ok dr'

/-- PREF.r (R116). -/
def execPrefR (a : BitVec 5) (f : BitVec 12) (s : State) : Host.Outcome State Fault Refusal := s.prefetch (.prefR a f) a

/-- PREF.w (R116). -/
def execPrefW (a : BitVec 5) (f : BitVec 12) (s : State) : Host.Outcome State Fault Refusal := s.prefetch (.prefW a f) a

/-! ## Descriptors -/

/-- The sixteen words of a descriptor register. -/
def descWords (v : BitVec 1024) : List Word := (List.range 16).map fun i => v.extractLsb' (64 * i) 64

/-- An instruction that uses a descriptor register: it stalls while the register is pending, and traps when it is
poisoned (R18, R118). -/
def Drover.useDesc {α : Type} (d : Drover) (n : BitVec 4) (k : BitVec 1024 → Res α) : Res α :=
  if (look d.board.dpend n.toNat).isSome then .stall none
  else
    match look d.board.dbad n.toNat with
    | some l => .trap (d.lateTrap l) { d with board := { d.board with dbad := del d.board.dbad n.toNat } }
    | none => k (d.regs.getD n)

/-- An ask for sixteen words. -/
def ask16 (k : AccKind) (acq rel : Bool) (scope rd : Nat) (ws : List Word) : Ask :=
  { kind := k, size := 8, align := 128, acq := acq, rel := rel, scope := scope, rd := rd, data2 := 0, tmpl := 0,
    tag := 0, words := ws }

/-- A descriptor register left pending on sixteen words; a poison never used is lost, and logged (R18). -/
def pendDesc (n : BitVec 4) (d : Drover) (_ : Nat) : Drover :=
  { d with board := { d.board with dpend := put d.board.dpend n.toNat 16, dbad := del d.board.dbad n.toNat } }

/-- DLD (R117, R118). -/
def execDld (d : BitVec 4) (a b : BitVec 5) (s : BitVec 3) (o : BitVec 2) (st : State) :
    Host.Outcome State Fault Refusal :=
  st.drove (.dld d a b s o) fun dr =>
    unlessStall (dr.srcStall [a, b]) <|
      if (look dr.board.dpend d.toNat).isSome && !(match dr.hold with | .checked _ => true | _ => false) then .stall none
      else
        (dr.read2 st.focus a b).bind fun (x, y, dr') =>
          st.memory dr dr' (x + y)
            (ask16 .dload (o.getLsbD 0) (o.getLsbD 1) s.toNat d.toNat (List.replicate 16 0)) (pendDesc d)

/-- DST (R117, R118). -/
def execDst (d : BitVec 4) (a b : BitVec 5) (s : BitVec 3) (o : BitVec 2) (st : State) :
    Host.Outcome State Fault Refusal :=
  st.drove (.dst d a b s o) fun dr =>
    unlessStall (dr.srcStall [a, b]) <|
      dr.useDesc d fun v =>
        (dr.read2 st.focus a b).bind fun (x, y, dr') =>
          st.memory dr dr' (x + y) (ask16 .dstore (o.getLsbD 0) (o.getLsbD 1) s.toNat 0 (descWords v)) pendNone

/-! ## Atomics and reductions -/

/-- An ask of an atomic on a word. -/
def askAmo (k : AccKind) (size : Nat) (s : BitVec 3) (o : BitVec 2) (rd : Nat) (b c : Word) : Ask :=
  { kind := k, size := size, align := size, acq := o.getLsbD 0, rel := o.getLsbD 1, scope := s.toNat, rd := rd,
    data2 := c, tmpl := 0, tag := 0, words := [b] }

/-- A returning atomic (R127): address from ra, operand from rb. -/
def State.amo (st : State) (i : Instr) (op : Nat) (d a b : BitVec 5) (s : BitVec 3) (o : BitVec 2) :
    Host.Outcome State Fault Refusal :=
  st.drove i fun dr =>
    unlessStall (dr.srcStall [a, b]) <| unlessStall (dr.dstStall d) <|
      (dr.read2 st.focus a b).bind fun (x, y, dr') =>
        st.memory dr dr' x (askAmo (.amo op) 8 s o d.toNat y 0) (pendOn d)

/-- AMO.SWAP (R127). -/
def execAmoSwap (d a b : BitVec 5) (s : BitVec 3) (o : BitVec 2) (st : State) : Host.Outcome State Fault Refusal :=
  st.amo (.amoSwap d a b s o) 0 d a b s o
/-- AMO.ADD (R127). -/
def execAmoAdd (d a b : BitVec 5) (s : BitVec 3) (o : BitVec 2) (st : State) : Host.Outcome State Fault Refusal :=
  st.amo (.amoAdd d a b s o) 1 d a b s o
/-- AMO.AND (R127). -/
def execAmoAnd (d a b : BitVec 5) (s : BitVec 3) (o : BitVec 2) (st : State) : Host.Outcome State Fault Refusal :=
  st.amo (.amoAnd d a b s o) 2 d a b s o
/-- AMO.OR (R127). -/
def execAmoOr (d a b : BitVec 5) (s : BitVec 3) (o : BitVec 2) (st : State) : Host.Outcome State Fault Refusal :=
  st.amo (.amoOr d a b s o) 3 d a b s o
/-- AMO.XOR (R127). -/
def execAmoXor (d a b : BitVec 5) (s : BitVec 3) (o : BitVec 2) (st : State) : Host.Outcome State Fault Refusal :=
  st.amo (.amoXor d a b s o) 4 d a b s o
/-- AMO.MIN (R127). -/
def execAmoMin (d a b : BitVec 5) (s : BitVec 3) (o : BitVec 2) (st : State) : Host.Outcome State Fault Refusal :=
  st.amo (.amoMin d a b s o) 5 d a b s o
/-- AMO.MAX (R127). -/
def execAmoMax (d a b : BitVec 5) (s : BitVec 3) (o : BitVec 2) (st : State) : Host.Outcome State Fault Refusal :=
  st.amo (.amoMax d a b s o) 6 d a b s o
/-- AMO.MINU (R127). -/
def execAmoMinu (d a b : BitVec 5) (s : BitVec 3) (o : BitVec 2) (st : State) : Host.Outcome State Fault Refusal :=
  st.amo (.amoMinu d a b s o) 7 d a b s o
/-- AMO.MAXU (R127). -/
def execAmoMaxu (d a b : BitVec 5) (s : BitVec 3) (o : BitVec 2) (st : State) : Host.Outcome State Fault Refusal :=
  st.amo (.amoMaxu d a b s o) 8 d a b s o
/-- AMO.FADD (R127). -/
def execAmoFadd (d a b : BitVec 5) (s : BitVec 3) (o : BitVec 2) (st : State) : Host.Outcome State Fault Refusal :=
  st.amo (.amoFadd d a b s o) 9 d a b s o

/-- An atomic that also reads its destination: new value from rd, operand from rb (R128, R134). rd is x0 to x27. -/
def State.casLike (st : State) (i : Instr) (d a b : BitVec 5) (k : Word → Word → Ask) :
    Host.Outcome State Fault Refusal :=
  st.drove i fun dr =>
    unlessStall (dr.srcStall [a, b, d]) <| unlessStall (dr.dstStall d) <| dr.unlessLate [a, b, d] <|
      (dr.read2 st.focus a b).bind fun (x, y, dr1) =>
        (dr1.readX st.focus d).bind fun (c, dr2) => st.memory dr dr2 x (k y c) (pendOn d)

/-- AMO.CAS (R128): expected from rb, new value from rd. -/
def execAmoCas (d a b : BitVec 5) (s : BitVec 3) (o : BitVec 2) (st : State) : Host.Outcome State Fault Refusal :=
  st.casLike (.amoCas d a b s o) d a b fun y c => askAmo .amoCas 8 s o d.toNat y c

/-- A reduction (R129): nothing is left pending. -/
def State.red (st : State) (i : Instr) (op : Nat) (w : BitVec 1) (a b : BitVec 5) (s : BitVec 3) (o : BitVec 2) :
    Host.Outcome State Fault Refusal :=
  st.drove i fun dr =>
    unlessStall (dr.srcStall [a, b]) <|
      (dr.read2 st.focus a b).bind fun (x, y, dr') =>
        st.memory dr dr' x (askAmo (.red op (w == 1)) (if w = 1 then 4 else 8) s o 0 y 0) pendNone

/-- RED.ADD (R129). -/
def execRedAdd (w : BitVec 1) (a b : BitVec 5) (s : BitVec 3) (o : BitVec 2) (st : State) :
    Host.Outcome State Fault Refusal := st.red (.redAdd w a b s o) 0 w a b s o
/-- RED.AND (R129). -/
def execRedAnd (w : BitVec 1) (a b : BitVec 5) (s : BitVec 3) (o : BitVec 2) (st : State) :
    Host.Outcome State Fault Refusal := st.red (.redAnd w a b s o) 1 w a b s o
/-- RED.OR (R129). -/
def execRedOr (w : BitVec 1) (a b : BitVec 5) (s : BitVec 3) (o : BitVec 2) (st : State) :
    Host.Outcome State Fault Refusal := st.red (.redOr w a b s o) 2 w a b s o
/-- RED.XOR (R129). -/
def execRedXor (w : BitVec 1) (a b : BitVec 5) (s : BitVec 3) (o : BitVec 2) (st : State) :
    Host.Outcome State Fault Refusal := st.red (.redXor w a b s o) 3 w a b s o
/-- RED.MIN (R129). -/
def execRedMin (w : BitVec 1) (a b : BitVec 5) (s : BitVec 3) (o : BitVec 2) (st : State) :
    Host.Outcome State Fault Refusal := st.red (.redMin w a b s o) 4 w a b s o
/-- RED.MAX (R129). -/
def execRedMax (w : BitVec 1) (a b : BitVec 5) (s : BitVec 3) (o : BitVec 2) (st : State) :
    Host.Outcome State Fault Refusal := st.red (.redMax w a b s o) 5 w a b s o
/-- RED.MINU (R129). -/
def execRedMinu (w : BitVec 1) (a b : BitVec 5) (s : BitVec 3) (o : BitVec 2) (st : State) :
    Host.Outcome State Fault Refusal := st.red (.redMinu w a b s o) 6 w a b s o
/-- RED.MAXU (R129). -/
def execRedMaxu (w : BitVec 1) (a b : BitVec 5) (s : BitVec 3) (o : BitVec 2) (st : State) :
    Host.Outcome State Fault Refusal := st.red (.redMaxu w a b s o) 7 w a b s o
/-- RED.FADD (R129). -/
def execRedFadd (w : BitVec 1) (a b : BitVec 5) (s : BitVec 3) (o : BitVec 2) (st : State) :
    Host.Outcome State Fault Refusal := st.red (.redFadd w a b s o) 8 w a b s o
/-- RED.FMIN (R129). -/
def execRedFmin (w : BitVec 1) (a b : BitVec 5) (s : BitVec 3) (o : BitVec 2) (st : State) :
    Host.Outcome State Fault Refusal := st.red (.redFmin w a b s o) 9 w a b s o
/-- RED.FMAX (R129). -/
def execRedFmax (w : BitVec 1) (a b : BitVec 5) (s : BitVec 3) (o : BitVec 2) (st : State) :
    Host.Outcome State Fault Refusal := st.red (.redFmax w a b s o) 10 w a b s o

/-! ## Continuation atomics -/

/-- An ask of a continuation atomic with its template and tag (R134, R136). -/
def askCont (k : AccKind) (align : Nat) (s : BitVec 3) (o : BitVec 2) (rd : Nat) (b c : Word) (t : BitVec 10)
    (g : BitVec 22) : Ask :=
  { askAmo k 8 s o rd b c with align := align, tmpl := t.toNat, tag := g.toNat }

/-- AMOC.CAS (R134): expected from rb, new value from rd. -/
def execAmocCas (d a b : BitVec 5) (s : BitVec 3) (o : BitVec 2) (t : BitVec 10) (g : BitVec 22) (st : State) :
    Host.Outcome State Fault Refusal :=
  st.casLike (.amocCas d a b s o t g) d a b fun y c => askCont .amocCas 8 s o d.toNat y c t g

/-- AMOC.DECZ (R134). -/
def execAmocDecz (d a : BitVec 5) (s : BitVec 3) (o : BitVec 2) (t : BitVec 10) (g : BitVec 22) (st : State) :
    Host.Outcome State Fault Refusal :=
  st.drove (.amocDecz d a s o t g) fun dr =>
    unlessStall (dr.srcStall [a]) <| unlessStall (dr.dstStall d) <|
      (dr.readX st.focus a).bind fun (x, dr') =>
        st.memory dr dr' x (askCont .amocDecz 8 s o d.toNat 0 0 t g) (pendOn d)

/-- AMOC.ADDGE (R134): the word is 16-aligned, its threshold stands beside it. -/
def execAmocAddge (d a b : BitVec 5) (s : BitVec 3) (o : BitVec 2) (t : BitVec 10) (g : BitVec 22) (st : State) :
    Host.Outcome State Fault Refusal :=
  st.drove (.amocAddge d a b s o t g) fun dr =>
    unlessStall (dr.srcStall [a, b]) <| unlessStall (dr.dstStall d) <|
      (dr.read2 st.focus a b).bind fun (x, y, dr') =>
        st.memory dr dr' x (askCont .amocAddge 16 s o d.toNat y 0 t g) (pendOn d)

end Sys2Proof.Machine
end

