-- ==== Sys2Proof/Machine/Stream.lean ====
section
/-!
DEFINITION. Streams (R162 to R167): SOPEN, SCLOSE, SBAR, SSTAT, SLINK, the steps of the porters (R56 to R66, S10 of R268), and
the movement of tokens over bindings (R161, R173).
-/

namespace Sys2Proof.Machine

/-! ## The instructions -/

/-- The memory end of a porter. -/
def Porter.memEnd (q : Porter) (u : Nat) (d : Drover) (p : Nat) : MemEnd :=
  { u := u, d := d, agent := blockAgent u + 8 + p, me := streamAgent u q.sid, cls := 1, clk := q.clk,
    fmt := (descOf q.desc).fmt, okind := 1, setTag := q.setTag, held := q.leaf.toList }

/-- The clock that a porter's stream gives to whoever sees it complete. -/
def Porter.released (q : Porter) (u : Nat) : SMap Nat := if q.sid = 0 then q.clk else put q.clk (streamAgent u q.sid) 1

/-- The bit of SBAR's mask that selects a porter's stream (R165). -/
def Porter.maskBit (q : Porter) : Nat := if q.scratch then (if q.dir then 1 else 0) else 2

/-- A completed stream's or copy's clock kept for the SBARs that select it (R165, R271). -/
def Serai.keptPast (v : Serai) (bit : Nat) (clk : SMap Nat) : SMap (SMap Nat) := put v.past bit (joinClk (lookD v.past bit []) clk)

/-- A porter with its stream opened (R163); the sticky flags clear (R66). Chunks of a faulted stream that SCLOSE ended are
still performed. -/
def Porter.opened (q : Porter) (sid : Nat) (v : BitVec 1024) (dir setTag scratch : Bool) (leaf : Option Leaf) (after : Nat)
    (clk : SMap Nat) : Porter :=
  { q with cond := 1, dir := dir, setTag := setTag, scratch := scratch, sid := sid, desc := v, walk := Walk.opened (descOf v),
           buf := [], more := [], count := 0, fcause := 0, oob := false, ragged := false, noscale := false, fmtmix := false,
           aflags := 0, after := after, passed := false, leaf := leaf, closing := false, eotDone := false, clk := clk }

/-- Whether a binding or a claim fixes a porter's side, as a source and as a sink (R161). -/
def Chip.porterSides (c : Chip) (u p : Nat) (q : Porter) : Bool × Bool :=
  let e := Ep.porter u p
  let ctx := match q.claim with
    | some (.context _) => true
    | _ => false
  (ctx || c.boundSource e || c.reserved e true, c.boundSink e || c.reserved e false)

/-- Steps 2 to 5 of SOPEN (R163), as an instruction or a COMMAND action gives it: the status, and the chip with the stream
open. The mode word is checked after the condition and before the descriptor. -/
def Chip.openStream (c : Chip) (n u : Nat) (d : Drover) (p : Nat) (mode : Word) (v : BitVec 1024) : Word × Chip :=
  let s := c.serai n
  let q := s.porter p
  let m := mode.toNat
  if q.cond ≠ 0 then (failWord 1, c)
  else if 4 ≤ m ∨ m = 2 then (failWord 20, c)
  else
    match (descOf v).check with
    | some (k, l) => (statusWord k l 0, c)
    | none =>
      let (src, snk) := c.porterSides u p q
      if (src && bitOf m 0) || (snk && !bitOf m 0) then (failWord 22, c)
      else
        let leaf := match c.resolve u d (descOf v).base with
          | .leaf l => some l
          | _ => none
        let scratch := match leaf with
          | none => false
          | some l => !l.rmt && match regionOf (l.pa (descOf v).base) with
            | .serai _ off => match windowOf off with
              | .bank _ _ => true
              | _ => false
            | _ => false
        let keep := leaf.filter fun _ => bitsOf (descOf v).base 45 12 != 0xFFF
        (statusOk, (c.dropFar (q.memEnd u d p).agent).onSerai n fun s =>
          { s.onPorter p fun q => q.opened s.nextSid v (bitOf m 0) (bitOf m 1) scratch keep d.mem.nextSeq d.clk with
            nextSid := s.nextSid + 1, past := s.keptPast q.maskBit (q.released u) })

/-- SOPEN (R163): a release at serai scope. -/
def execSopen (d : BitVec 5) (p : BitVec 3) (b : BitVec 4) (s : State) : Host.Outcome State Fault Refusal :=
  s.commands (.sopen d p b) fun n dr =>
    dr.modeWord s.focus d fun mode dr1 =>
      dr.useDesc b fun v =>
        let dr2 := dr1.tick s.focus
        let (w, c) := s.chip.openStream n s.focus dr2 p.toNat mode v
        Drover.status c dr2 d w

/-- A stream ended early (R164): status and porter. What a reading porter has not emitted is discarded; a writing one
discards what comes up to the next MARK 15. -/
def Porter.close (q : Porter) : Word × Porter :=
  if q.cond = 3 then (statusOk, { q with cond := 0, buf := [], more := [] })
  else if q.cond ≠ 1 then (failWord 1, q)
  else if q.dir then
    if q.buf.any Token.isEot then (statusOk, { q with cond := 2 }) else (statusOk, { q with cond := 2, closing := true })
  else
    (statusOk, { q with cond := 2, closing := true, buf := [Token.eot], more := [], eotDone := true,
                        walk := { q.walk.emptied with done := true, got := [] } })

/-- SCLOSE (R164). -/
def execSclose (d : BitVec 5) (p : BitVec 3) (s : State) : Host.Outcome State Fault Refusal :=
  s.commands (.sclose d p) fun n dr =>
    unlessStall (dr.dstStall d) <|
      let q := ((s.chip.serai n).porter p.toNat).close
      Drover.status (s.chip.onSerai n fun v => v.onPorter p.toNat fun _ => q.2) dr d q.1

/-- Whether the stream with a number has completed in the sense of R165: a reading one has read all that it will read, a writing one has
performed its writes. -/
def Serai.streamDone (v : Serai) (sid : Nat) : Bool :=
  (v.porters.toList.all fun q => q.chunks.all fun k => k.sid != sid) &&
    match v.porters.toList.find? fun q => q.sid == sid with
    | none => true
    | some q =>
      if q.dir then q.packets == [] && (q.cond == 0 || q.cond == 3 || q.eotDone || (q.closing && q.buf == []))
      else q.cond == 0 || q.cond == 3 || Walk.allRead (descOf q.desc) walkFuel q.walk

/-- Whether the copy with a number has completed: its token register is written. -/
def Serai.copyDone (v : Serai) (id : Nat) : Bool := v.copy.ch.toList.all fun jobs => jobs.all fun j => j.id != id

/-- Numbers of the copies queued or moving. -/
def Serai.copyIds (v : Serai) : List Nat := v.copy.ch.toList.flatMap fun jobs => List.map CopyJob.id jobs

/-- Streams that a mask selects (R165), those of them that SCLOSE has ended with writes left too. -/
def Serai.selected (v : Serai) (mask : Nat) : List Nat :=
  (v.porters.toList.filter fun q => (q.cond != 0 || q.chunks != [] || q.packets != []) && bitOf mask q.maskBit).map (·.sid)

/-- The clocks that SBAR acquires (R165, R271): of the streams it selected, of those that stand completed in their porters, and of the
streams and copies before them. -/
def Serai.clockOf (v : Serai) (u mask : Nat) (sids : List Nat) : SMap Nat :=
  let now := (v.porters.toList.filter fun q => bitOf mask q.maskBit && (q.cond == 0 || sids.contains q.sid)).foldl (fun k q => joinClk k (q.released u)) []
  (v.past.filter fun p => bitOf mask p.1).foldl (fun k p => joinClk k p.2) now

/-- SBAR (R165): holds until what it selected at issue has completed; then an acquire at its scope. Mask 0 completes at
once. -/
def execSbar (d : BitVec 3) (sc : BitVec 3) (s : State) : Host.Outcome State Fault Refusal :=
  s.commands (.sbar d sc) fun n dr =>
    let v := s.chip.serai n
    let (st, cp) := match dr.hold with
      | .sbar st cp _ => (st, cp)
      | _ => (v.selected d.toNat,
        if bitOf d.toNat 2 then v.copyIds else [])
    if (st.all fun x => v.streamDone x) && cp.all fun x => v.copyDone x then
      .ok (s.chip, dr.acquire s.focus (v.clockOf s.focus d.toNat st))
    else .hold s.chip { dr with hold := .sbar st cp sc.toNat } (some 32)

/-- The word of SSTAT (R166). -/
def Porter.word (q : Porter) : Word :=
  BitVec.ofNat 64 (q.count.toNat * 2 ^ 32 + q.fcause.toNat * 2 ^ 24 + b2n q.fmtmix * 2 ^ 19 + b2n q.noscale * 2 ^ 18 +
    b2n q.ragged * 2 ^ 17 + b2n q.oob * 2 ^ 16 + q.aflags.toNat * 2 ^ 8 + b2n q.dir * 8 + q.cond)

/-- SSTAT (R166). -/
def execSstat (d : BitVec 5) (p : BitVec 3) (s : State) : Host.Outcome State Fault Refusal :=
  s.commands (.sstat d p) fun n dr =>
    unlessStall (dr.dstStall d) <| Drover.status s.chip dr d ((s.chip.serai n).porter p.toNat).word

/-- Whether a porter is open for reading (R15). -/
def Porter.isReading (q : Porter) : Bool := !q.dir && q.cond == 1

/-- Whether a porter still gives tokens as a source: until its `eot` has left its buffer, unless SCLOSE has ended it. -/
def Porter.isGiving (q : Porter) : Bool := !q.dir && (q.cond == 1 || (q.cond == 2 && !q.closing))

/-- Whether a porter is neither bound, nor linked, nor claimed (R167, R173, R180). -/
def Chip.porterFree (c : Chip) (u p : Nat) (q : Porter) : Bool :=
  !c.isBound (.porter u p) && q.link.isNone && q.claim.isNone && !c.reserved (.porter u p) true && !c.reserved (.porter u p) false

/-- SLINK (R167). -/
def execSlink (d : BitVec 5) (a b : BitVec 3) (s : State) : Host.Outcome State Fault Refusal :=
  s.commands (.slink d a b) fun n dr =>
    unlessStall (dr.dstStall d) <|
      let v := s.chip.serai n
      let x := v.porter a.toNat
      let y := v.porter b.toNat
      if a ≠ b ∧ s.chip.porterFree s.focus a.toNat x ∧ s.chip.porterFree s.focus b.toNat y ∧ x.isReading ∧ y.dir ∧ y.cond = 1 ∧
          !x.passed ∧ !y.passed then
        Drover.status (s.chip.onSerai n fun v =>
          (v.onPorter a.toNat fun q => { q with link := some b.toNat }).onPorter b.toNat fun q => { q with link := some a.toNat })
          dr d statusOk
      else Drover.status s.chip dr d (failWord 22)

/-! ## What comes before a stream's tokens -/

/-- S10: a stream's first access follows every access but the REDs (R131) that the drover issued before the SOPEN, at `.se` (R163); those
that are still on the mesh come before it at their home (`Chip.behind`). -/
def Drover.cleared (d : Drover) (after : Nat) : Bool :=
  d.mem.accs.all fun a => decide (after ≤ a.seq) || a.kind.isRed || a.performedAt 0

/-- A porter put into the faulted condition (R15, R52, R262, R273). -/
def Porter.faulted (q : Porter) (cause : Nat) : Porter :=
  { q with cond := 3, fcause := BitVec.ofNat 8 cause, fmtmix := q.fmtmix || cause == 0x48 }

/-- A writing porter's fault at a walk's position: it is origin and sink of its own POISON (R262); RACE raises RACE instead (R273). -/
def Chip.porterFault (c : Chip) (n u p : Nat) (q : Porter) (m : MemEnd) (w : Walk) (cause : Nat) (r : Option (Race × Nat)) : Chip :=
  match r with
  | some (r, va) => (c.streamRace u r va).onSerai n fun v => v.onPorter p fun _ => q.faulted cause
  | none =>
    let (c, o, k) := c.sinkPoison u q.poisonOut q.poisonCnt (1 + p) 1 (m.origin w cause)
    c.onSerai n fun v => v.onPorter p fun _ => { q.faulted cause with poisonOut := o, poisonCnt := k }

/-- A fault while a side list is read: for a reading porter a POISON token with no lanes (R262). -/
def Chip.sideFault (c : Chip) (n u p : Nat) (q : Porter) (m : MemEnd) (cause : Nat) (r : Option (Race × Nat)) : Chip :=
  if q.dir then c.porterFault n u p q m q.walk cause r
  else
    let c := match r with
      | some (r, va) => c.streamRace u r va
      | none => c
    c.onSerai n fun v => v.onPorter p fun _ =>
      { q.faulted cause with more := q.more ++ [Token.poison (m.origin q.walk cause) 0] }

/-- OFFSETS_READ (R61): one entry of the offsets array, whole; the array is read before the stream's first token. -/
def execOffsetsRead (n : BitVec 12) (p : BitVec 3) (s : State) : Host.Outcome State Fault Refusal :=
  s.engineStep n fun c _ u d v =>
    let q := v.porter p.toNat
    let ds := descOf q.desc
    if (q.cond ≠ 1 ∧ !(q.cond = 2 ∧ q.dir)) ∨ q.walk.offsRead ∨ !d.cleared q.after then c
    else
      let m := q.memEnd u d p.toNat
      match c.sideEntry m (ds.side + 4 * q.walk.offs.length) with
      | .wait c => c
      | .stop k r => c.sideFault n.toNat u p.toNat q m k r
      | .err k => c.sideFault n.toNat u p.toNat q m k none
      | .ok e c =>
        let offs := q.walk.offs ++ [e]
        c.onSerai n.toNat fun v => v.onPorter p.toNat fun q =>
          { q with walk := { q.walk with offs := offs, offsRead := decide (ds.offsCount ≤ offs.length) } }

/-- Whether the next entry of a gather list may be read: in order, and at most 64 places ahead (R63). -/
def Walk.gatherDue (w : Walk) (d : Desc) : Bool :=
  d.glev != 0 && w.begun && !w.done && decide (w.gatherNext < (d.lev d.glev).count) && decide (w.gatherNext ≤ w.k d.glev + 64)

/-- Address of the next entry of a gather list (R62). -/
def Walk.gatherAt (w : Walk) (d : Desc) : Nat := d.gatherBase + 4 * ((d.lev d.glev).org.toNat + w.gatherNext)

/-- The walk with its next gather entry. -/
def Walk.gathered (w : Walk) (d : Desc) (e : Nat) : Walk :=
  { w with gather := if w.k d.glev ≤ w.gatherNext then put w.gather w.gatherNext e else w.gather, gatherNext := w.gatherNext + 1 }

/-- GATHER_ENTRY_READ (R63). -/
def execGatherEntryRead (n : BitVec 12) (p : BitVec 3) (s : State) : Host.Outcome State Fault Refusal :=
  s.engineStep n fun c _ u d v =>
    let q := v.porter p.toNat
    let ds := descOf q.desc
    if (q.cond ≠ 1 ∧ !(q.cond = 2 ∧ q.dir)) ∨ !q.walk.offsRead ∨ !d.cleared q.after then c
    else
      let (w, r) := q.walk.begin ds
      let q := { q with walk := w, ragged := q.ragged || r }
      let c := c.onSerai n.toNat fun v => v.onPorter p.toNat fun _ => q
      if !w.gatherDue ds then c
      else
        let m := q.memEnd u d p.toNat
        match c.sideEntry m (w.gatherAt ds) with
        | .wait c => c
        | .stop k r => c.sideFault n.toNat u p.toNat q m k r
        | .err k => c.sideFault n.toNat u p.toNat q m k none
        | .ok e c => c.onSerai n.toNat fun v => v.onPorter p.toNat fun q => { q with walk := q.walk.gathered ds e }

/-! ## The porters' steps -/

/-- Tokens that wait behind a full buffer enter it. -/
def Porter.refill (q : Porter) : Porter :=
  let room := 16 - q.buf.length
  { q with buf := q.buf ++ q.more.take room, more := q.more.drop room }

/-- What a read step leaves in the porter. -/
def Porter.pulled (q : Porter) (s : Pull) : Porter :=
  let q := { q with walk := s.w, leaf := s.held, more := q.more ++ s.toks, oob := q.oob || s.oob, ragged := q.ragged || s.ragged,
                    aflags := if s.nan then q.aflags ||| flagSCALENAN else q.aflags, eotDone := s.eot,
                    cond := if s.eot then 2 else q.cond }
  match s.stop with
  | none => q.refill
  | some (k, _) => (q.faulted k).refill

/-- PORTER_READ (R57, R59, R262, S10): one chunk read, and the tokens that this completes; they wait in the buffer of 16. With
`State.ahead` the chunk is that of an element so many places on. -/
def execPorterRead (n : BitVec 12) (p : BitVec 3) (s : State) : Host.Outcome State Fault Refusal :=
  s.engineStep n fun c _ u d v =>
    let q := (v.porter p.toNat).refill
    let ds := descOf q.desc
    if q.dir then c
    else if q.cond ≠ 1 ∨ q.more ≠ [] ∨ 16 ≤ q.buf.length ∨ !q.walk.offsRead ∨ !d.cleared q.after ∨ q.eotDone then
      c.onSerai n.toNat fun v => v.onPorter p.toNat fun _ => q
    else
      let (w, r) := q.walk.begin ds
      let m := q.memEnd u d p.toNat
      if s.ahead ≠ 0 then
        let (c, w) := w.readAhead c m ds s.ahead
        c.onSerai n.toNat fun v => v.onPorter p.toNat fun _ => { q with walk := w, ragged := q.ragged || r }
      else
        let r := Pull.run { m with held := [] } ds 512 false
          { c := c, w := w, held := q.leaf, toks := [], oob := false, ragged := r, nan := false, moved := 0, eot := false, stop := none }
        let c := match r.stop with
          | some (_, some (x, va)) => r.c.streamRace u x va
          | _ => r.c
        c.onSerai n.toNat fun v => v.onPorter p.toNat fun _ => q.pulled r

/-- The porter after it has consumed a token that writes nothing. -/
def Porter.consumed (q : Porter) (w : Walk) (ragged : Bool) : Porter :=
  { q with walk := w, ragged := q.ragged || ragged, buf := q.buf.drop 1, count := q.count + 1 }

/-- A link ends when its sink consumes the `eot` (R167). -/
def Serai.unlink (v : Serai) (p : Nat) : Serai :=
  match (v.porter p).link with
  | none => v
  | some x => (v.onPorter p fun q => { q with link := none }).onPorter x fun q => { q with link := none }

/-- A latched SCALE token (R65). -/
def latchScale (t : Token) : SMap Byte :=
  let one := fun (n : Nat) => if t.mask.getLsbD n then [(n, (t.payload >>> (8 * n)).setWidth 8)] else []
  one 0 ++ one 1 ++ [(2, 0)]

/-- A writing porter consumes one token (R65). A latched scale outlasts a POISON token, and serves the next DATA token (log 83). -/
def Chip.consume (c : Chip) (n u p : Nat) (d : Drover) (q : Porter) (t : Token) : Chip :=
  let ds := descOf q.desc
  let put' := fun (c : Chip) (q : Porter) => c.onSerai n fun v => v.onPorter p fun _ => q
  let m := q.memEnd u d p
  if t.kind = 0 ∨ t.kind = 4 then
    let s := Place2.lanes ds t (lanesOf ds.fmt) 0 { w := q.walk, oob := false, ragged := false, puts := [], waits := false }
    if s.waits then c
    else
      let mx := isMX ds.fmt && t.kind == 0
      let q1 := q.consumed (if mx then { s.w with scales := [] } else s.w) s.ragged
      let q1 := { q1 with oob := q1.oob || s.oob, noscale := q1.noscale || (mx && (look q.walk.scales 2).isNone) }
      if t.kind = 4 then
        let (c, o, k) := c.sinkPoison u q.poisonOut q.poisonCnt (1 + p) 1 (t.payload.setWidth 64)
        put' c { q1 with poisonOut := o, poisonCnt := k }
      else
        match c.addRuns { m with held := [] } (4 * s.puts.length + 8) (runsOf ds q.walk.scales s.puts) q.leaf q.chunks with
        | (.wait c, _) => c
        | (.stop k r, _) => c.porterFault n u p q1 m (q.walk.cross ds walkFuel).1 k r
        | (.ok _ c h, ks) => put' c { q1 with chunks := ks, leaf := h }
  else if t.isEot then
    (put' c { q.consumed { q.walk with done := true } false with eotDone := true, cond := 2 }).onSerai n fun v => v.unlink p
  else if t.kind = 1 then
    let (w, r) := q.walk.ended ds t.level.toNat
    put' c (q.consumed w r)
  else if t.kind = 2 ∧ isMX ds.fmt then put' c (q.consumed { q.walk with scales := latchScale t } false)
  else put' c (q.consumed q.walk false)

/-- Whether the oldest chunk is whole: the stream has gone on to another, or has ended (R276). -/
def chunkReady (chunks : List Chunk) (ended : Bool) : Option Chunk :=
  match chunks with
  | [] => none
  | [k] => if ended then some k else none
  | k :: _ => some k

/-- Whether a writing porter fills no chunk further. -/
def Porter.ended (q : Porter) : Bool := q.eotDone || q.cond == 0 || q.cond == 3 || (q.closing && q.buf == [])

/-- PORTER_WRITE (R65, S10): the oldest whole chunk is performed, or, with none, one token is consumed. -/
def execPorterWrite (n : BitVec 12) (p : BitVec 3) (s : State) : Host.Outcome State Fault Refusal :=
  s.engineStep n fun c cycle u d v =>
    let q := v.porter p.toNat
    if !d.cleared q.after then c
    else
      match chunkReady (q.chunks.filter fun k => !k.leaf.rmt) (q.ended || (q.chunks.getLast?.any fun k => k.leaf.rmt)) with
      | some k =>
        if c.behind (streamAgent u k.sid) q.clk k.pa then c
        else
        let (c, drop, race) := c.performChunk cycle (q.memEnd u d p.toNat) k
        let q1 := { q with chunks := q.chunks.erase k, oob := q.oob || drop }
        (match race with
          | some (r, va) => c.porterFault n.toNat u p.toNat q1 (q.memEnd u d p.toNat) q.walk 0x0E (some (r, va))
          | none => c.onSerai n.toNat fun v => v.onPorter p.toNat fun _ => q1)
      | none =>
        match q.buf with
        | [] => c
        | t :: _ =>
          if !q.dir ∨ q.cond = 0 ∨ q.cond = 3 ∨ !q.walk.offsRead then c
          else
            let (w, r) := q.walk.begin (descOf q.desc)
            c.consume n.toNat u p.toNat d { q with walk := w, ragged := q.ragged || r } t

/-- STREAM_DRAINED (R164): a draining porter is idle once its `eot` has left, or its writes are performed. -/
def execStreamDrained (n : BitVec 12) (p : BitVec 3) (s : State) : Host.Outcome State Fault Refusal :=
  s.eventStep fun c _ =>
    let q := (c.serai n.toNat).porter p.toNat
    let done := if q.dir then q.buf == [] && q.eotDone && q.chunks == [] && q.packets == [] else q.buf == [] && q.more == [] && q.eotDone
    if q.cond = 2 ∧ done then
      c.onSerai n.toNat fun v =>
        let v := v.onPorter p.toNat fun q => { q with cond := 0, closing := false }
        if q.dir then v.unlink p.toNat else v
    else c

/-! ## Bindings -/

/-- The porter with the token at its buffer's head emitted. -/
def Porter.emitted (q : Porter) : Porter := { q with buf := q.buf.drop 1, count := q.count + 1, passed := true }

/-- Where a porter's tokens go: its link, or what is bound to it; nowhere while a context or copy has claimed it. -/
def Chip.porterSink (c : Chip) (u p : Nat) (q : Porter) : Option Ep :=
  match q.link with
  | some x => some (.porter u x)
  | none => if q.claim.isSome then none else c.sinkOf (.porter u p)

/-- BINDING_TRANSFER (R173): one token from a bound source into its sink, which may be in another serai of the caravan. -/
def execBindingTransfer (n : BitVec 12) (b : BindSrc) (s : State) : Host.Outcome State Fault Refusal :=
  s.engineStep n fun c cycle u _ v =>
    match b with
    | .porter p =>
      let q := v.porter p.toNat
      (match q.buf, c.porterSink u p.toNat q with
        | t :: _, some e =>
          if q.dir then c
          else
            match c.accept cycle e t with
            | none => c
            | some c => c.onSerai n.toNat fun v => v.onPorter p.toNat Porter.emitted
        | _, _ => c)
    | .portal pg i =>
      match look v.pages pg.toNat, c.sinkOf (.portal u pg.toNat i.toNat) with
      | some g, some e =>
        (match lookD g.fifos i.toNat [] with
          | [] => c
          | t :: _ =>
            match c.accept cycle e t.tok with
            | none => c
            | some c => c.onSerai n.toNat fun v =>
              { v with pages := upd v.pages pg.toNat fun g => { g with fifos := put g.fifos i.toNat ((lookD g.fifos i.toNat []).drop 1) } })
      | _, _ => c

end Sys2Proof.Machine
end

