-- ==== Sys2Proof/Machine/Copy.lean ====
section
/-!
DEFINITION. Copies (R168 to R170, S11 of R268): COPY, CPFLUSH, CPSTAT, the steps of the copy channels, and the write packets
of streams and copies to other modules (R367).
-/

namespace Sys2Proof.Machine

/-! ## Acceptance -/

/-- An endpoint word (R161) of a task at an index of its caravan; none when a bit that its type does not name is set, the
type is reserved, or it names no member. -/
def Chip.endpoint (c : Chip) (u w : Nat) : Option Ep :=
  let member := fun (i : Nat) => match c.caravanOf? u with
    | none => if i = 0 then some u else none
    | some v => v.members[i]?
  match bitsOf w 28 4 with
  | 0 => if bitsOf w 3 25 = 0 ∧ w < 2 ^ 32 then some (.porter u (w % 8)) else none
  | 1 => if bitsOf w 3 13 = 0 ∧ w < 2 ^ 32 then (member (bitsOf w 24 4)).map fun m => .portal m (bitsOf w 16 8) (w % 8) else none
  | 2 => if bitsOf w 0 24 = 0 ∧ w < 2 ^ 32 then (member (bitsOf w 24 4)).map fun m => .mailbox m else none
  | 3 => if bitsOf w 2 26 = 0 ∧ w < 2 ^ 32 then some (.context u (w % 4)) else none
  | _ => none

/-- A page of a task's page set. -/
def Chip.pageOf (c : Chip) (u pg : Nat) : Option Page := (c.seraiOf u).bind fun n => look (c.serai n).pages pg

/-- Whether a portal word is in use, and as an output (R83): rate 0 marks a portal not used. -/
def portalUse (w : BitVec 64) : Option Bool := if bitsOf w.toNat 8 8 = 0 then none else some (bitOf w.toNat 7)

/-- Whether a page's portal is used with a direction; true for an output. -/
def Page.portalIs (g : Page) (i : Nat) (isOut : Bool) : Bool := portalUse ((g.portals[i]?).getD 0) == some isOut

/-- Whether an endpoint exists and may be a copy's source (R161, R169): a porter that is idle or open for reading, or an
output portal. -/
def Chip.copySource (c : Chip) (e : Ep) : Bool :=
  match e with
  | .porter u p =>
    match c.seraiOf u with
    | none => false
    | some n =>
      let q := (c.serai n).porter p
      (q.cond == 0 || q.isGiving) && c.porterFree u p q
  | .portal u pg i => ((c.pageOf u pg).any fun g => g.portalIs i true) && !c.isBound e && !c.reserved e true
  | _ => false

/-- Whether an endpoint exists and may be a copy's sink. -/
def Chip.copySink (c : Chip) (e : Ep) : Bool :=
  match e with
  | .porter u p =>
    match c.seraiOf u with
    | none => false
    | some n =>
      let q := (c.serai n).porter p
      (q.cond == 0 || (q.dir && q.cond == 1)) && c.porterFree u p q
  | .portal u pg i => ((c.pageOf u pg).any fun g => g.portalIs i false) && !c.isBound e && !c.reserved e false
  | _ => false

/-- Whether a parameter block breaks R168. -/
def copyBad (b : List Byte) : Bool :=
  let ctl := byteAt b 0
  let sk := ctl % 4
  let dk := ctl / 4 % 4
  let okEp := fun (o : Nat) => bitsOf (field b o 4) 28 4 ≤ 1
  64 ≤ ctl || 1 < sk || 1 < dk || (sk == 0 && dk == 0) || (bitOf ctl 4 && dk != 0) || !zeroBytes b 1 3 || !zeroBytes b 12 4 ||
    !zeroBytes b 32 32 || (if sk = 0 then !zeroBytes b 4 4 || field b 16 8 % 128 != 0 else !zeroBytes b 16 8 || !okEp 4) ||
    (if dk = 0 then !zeroBytes b 8 4 || field b 24 8 % 128 != 0 else !zeroBytes b 24 8 || !okEp 8)

/-- The pages that a run of bytes touches, by an address in each. -/
def pagesOf (va n : Nat) : List Nat := if va / 4096 = (va + n - 1) / 4096 then [va] else [va, (va + n - 1) / 4096 * 4096]

/-- Addresses, one in each page, that an element's access touches (R53, R54, R65): a written MX block is touched whole. -/
def touches (d : Desc) (p : Int) (wr : Bool) : List Nat :=
  if isMX d.fmt then
    pagesOf (scaleAt d.fmt d.base p) 1 ++
      (if wr then pagesOf (elemSpan d.fmt d.base (p / 32 * 32)).1 (blockBytes d.fmt)
        else let s := elemSpan d.fmt d.base p; pagesOf s.1 s.2.2)
  else let s := elemSpan d.fmt d.base p; pagesOf s.1 s.2.2

/-- What pinning answers: the translations, or a fault with its address. -/
inductive Pins where
  /-- Every local page pinned. -/
  | ok (l : List Leaf)
  /-- A line of another module is awaited. -/
  | wait (c : Chip)
  /-- XLATE or PERM. -/
  | bad (cause va : Nat)

/-- Addresses pinned one by one; those of other modules and of the caravan window are not kept. -/
def Chip.pinAll (c : Chip) (u : Nat) (d : Drover) (n : Need) : List Nat → List Leaf → Pins
  | [], l => .ok l
  | va :: r, l =>
    if l.any fun x => x.covers d.expTag va then c.pinAll u d n r l
    else
      match c.engineLeaf u d va n with
      | .bad k a => .bad k a
      | .wait c => .wait c
      | .ok x _ => c.pinAll u d n r (if x.rmt || bitsOf va 45 12 = 0xFFF then l else l ++ [x])

/-- What the side list of a walk answers. -/
inductive SideList where
  /-- Read. -/
  | ok (l : List Nat) (c : Chip)
  /-- A line of another module is awaited, or a write that comes before it. -/
  | wait (c : Chip)
  /-- XLATE, PERM or RACE at an address. -/
  | stop (cause va : Nat) (race : Option (Race × Nat))
  /-- An entry is lost. -/
  | err (cause : Nat)

/-- The side list of a copy's walk, read at acceptance, each entry once (R61, R62). -/
def Chip.sideAll (c : Chip) (m : MemEnd) (va : Nat) : Nat → List Nat → SideList
  | 0, l => .ok l c
  | n + 1, l =>
    match c.sideEntry m va with
    | .ok e c => c.sideAll m (va + 4) n (l ++ [e])
    | .wait c => .wait c
    | .stop k r => .stop k va r
    | .err k => .err k

/-- The pages that a walk touches, position by position (R169). -/
def Walk.pagesFrom (d : Desc) (wr : Bool) (list : List Nat) : Nat → Walk → List Nat → List Nat
  | 0, _, acc => acc
  | f + 1, w, acc =>
    if w.done then acc
    else if w.closing then Walk.pagesFrom d wr list f (w.closeNext d w.level).1 acc
    else
      let w1 := { w with gather := match list[w.k d.glev]? with
        | some e => [(w.k d.glev, e)]
        | none => [] }
      let here := match w1.here d with
        | none => []
        | some x => if x.hole || (wr && x.out) || (!wr && x.padded d) then [] else touches d x.p wr
      let acc := here.foldl (fun a va => if a.any fun b => b / 4096 == va / 4096 then a else a ++ [va]) acc
      Walk.pagesFrom d wr list f (w.elemNext d) acc

/-- A memory endpoint prepared: its walk with side lists read, and its pins. -/
inductive Prep where
  /-- Ready. -/
  | ok (w : Walk) (l : List Leaf) (c : Chip)
  /-- It waits. -/
  | wait (c : Chip)
  /-- XLATE or PERM, precise at the COPY. -/
  | bad (cause va : Nat)
  /-- An entry of a side list is lost: a late error of the copy. -/
  | lost (cause : Nat)
  /-- A side list's read is a race (R273). -/
  | raced (r : Race) (va : Nat)

/-- What a side list that could not be read makes of a copy. -/
def SideList.prep (s : SideList) (f : List Nat → Chip → Prep) : Prep :=
  match s with
  | .ok l c => f l c
  | .wait c => .wait c
  | .stop _ _ (some (r, a)) => .raced r a
  | .stop k va none => .bad k va
  | .err k => .lost k

/-- The memory endpoint of a copy translated and pinned. Its side lists are its first accesses, so they follow the drover's earlier
accesses (R169); the pages its walk touches depend on them. -/
def Chip.prepare (c : Chip) (u : Nat) (d : Drover) (m : MemEnd) (ds : Desc) (wr : Bool) : Prep :=
  if (ds.rlev ≠ 0 ∨ ds.glev ≠ 0) ∧ !d.cleared d.mem.nextSeq then .wait c
  else
    (c.sideAll m ds.side ds.offsCount []).prep fun offs c =>
      (c.sideAll m (ds.gatherBase + 4 * (ds.lev ds.glev).org.toNat) (if ds.glev = 0 then 0 else (ds.lev ds.glev).count) []).prep fun list c =>
        let w := { Walk.opened ds with offs := offs, offsRead := true, gather := list.zipIdx.map fun e => (e.2, e.1), gatherNext := list.length }
        match c.pinAll u d (if wr then .write else .read) (Walk.pagesFrom ds wr list walkFuel (w.begin ds).1 []) [] with
        | .ok l => .ok w l c
        | .wait c => .wait c
        | .bad k a => .bad k a

/-- The memory end of a copy. -/
def CopyJob.memEnd (j : CopyJob) (u : Nat) (d : Drover) (ch : Nat) : MemEnd :=
  { u := u, d := d, agent := blockAgent u + 16 + ch, me := streamAgent u j.id, cls := 2, clk := j.clk,
    fmt := (descOf j.desc).fmt, okind := 4, setTag := j.setTag, held := j.pins }

/-- A copy engine's channel. -/
def CopyEngine.jobs (e : CopyEngine) (ch : Nat) : List CopyJob := (e.ch[ch]?).getD []

/-- The serai with a channel's copies changed. -/
def Serai.onChannel (v : Serai) (ch : Nat) (f : List CopyJob → List CopyJob) : Serai :=
  { v with copy := { v.copy with ch := v.copy.ch.setIfInBounds ch (f (v.copy.jobs ch)) } }

/-- What a COPY answers once its block is known. -/
inductive CopyRes where
  /-- Refused, with a status. -/
  | refused (w : Word)
  /-- Accepted under a number. -/
  | accepted (id : Nat) (c : Chip)
  /-- A line of another module is awaited, or the channel is full. -/
  | wait (c : Chip)
  /-- XLATE or PERM, precise. -/
  | fault (cause va : Nat)

/-- COPY from its parameter block on (R169), as an instruction or a COMMAND action gives it: `cmd` is the context of the
action. -/
def Chip.acceptCopy (c : Chip) (n u : Nat) (d : Drover) (b : List Byte) (off : Word) (scope rd : Nat) (cmd : Option Nat) : CopyRes :=
  let ctl := byteAt b 0
  let ch := ctl / 32 % 2
  if 8 ≤ ((c.serai n).copy.jobs ch).length then .wait c
  else if copyBad b then .refused (failWord 21)
  else
    let srcMem := ctl % 4 == 0
    let dstMem := ctl / 4 % 4 == 0
    let mem := srcMem || dstMem
    let at' := field b (if srcMem then 16 else 24) 8
    match if !mem then .ok [] c else if d.writesInto at' 128 then .wait c else c.readBlock (blockAgent u) u d at' 128 with
    | .wait c => .wait c
    | .bad k a => .fault k a
    | .ok db c =>
      let v := if mem then rebase (BitVec.ofNat 1024 (natOfBytes db)) off else 0
      let ds := descOf v
      match if mem then ds.check else none with
      | some (k, l) => .refused (statusWord k l 0)
      | none =>
        let id := (c.serai n).nextSid
        let src := if srcMem then none else c.endpoint u (field b 4 4)
        let dst := if dstMem then none else c.endpoint u (field b 8 4)
        if (!srcMem && !src.any c.copySource) || (!dstMem && !dst.any c.copySink) then .refused (failWord 22)
        else
          let j : CopyJob :=
            { id := id, scope := scope, setTag := bitOf ctl 4, srcMem := srcMem, dstMem := dstMem, src := src, dst := dst, desc := v,
              walk := Walk.opened ds, pins := [], buf := [], moved := 0, rd := rd, code := none, discard := false, eotDone := false,
              after := d.mem.nextSeq, cmd := cmd, owner := u, pc := d.regs.pc, late := none, chunks := [], packets := [],
              poisonOut := false, poisonCnt := 0, clk := d.clk }
          let add := fun (c : Chip) (w : Walk) (l : List Leaf) =>
            c.onSerai n fun s => { s.onChannel ch fun q => q ++ [{ j with walk := w, pins := l }] with nextSid := s.nextSid + 1 }
          if mem then
            match c.prepare u d (j.memEnd u d ch) ds dstMem with
            | .ok w l c => .accepted id (add c w l)
            | .wait c => .wait c
            | .bad k a => .fault k a
            | .lost _ => .accepted id (add c { Walk.opened ds with offsRead := false } [])
            | .raced r a =>
              .accepted id ((c.streamRace u r a).onSerai n fun s =>
                { s.onChannel ch fun q => q ++ [{ j with code := some 64, eotDone := true }] with nextSid := s.nextSid + 1 })
          else .accepted id (add c { Walk.start with done := true } [])

/-- A block put into the template cache of 16; of a full cache another block leaves, and the spec does not say which (log 13). -/
def Chip.rememberTemplate (c : Chip) (n va : Nat) (b : List Byte) : Chip :=
  let others := (c.serai n).copy.templates.filter fun p => p.1 != va
  if others.length < 16 then c.onSerai n fun v => { v with copy := { v.copy with templates := put others va b } }
  else
    let (w, c) := c.takeFree
    c.onSerai n fun v => { v with copy := { v.copy with templates := put (others.eraseIdx (w.toNat % others.length)) va b } }

/-- Whether a cached block stands in memory as it is held. -/
def Chip.templateStands (c : Chip) (u : Nat) (d : Drover) (va : Nat) (b : List Byte) : Bool :=
  match c.readBlock (blockAgent u) u d va 64 with
  | .ok m _ => m == b
  | _ => false

/-- COPY (R169): the block through the template cache, then acceptance; x[rd] is then pending. A release at serai scope. Whether a
block that memory no longer agrees with is still held, the spec leaves open (R170, log 13). -/
def execCopy (d a b : BitVec 5) (sc : BitVec 3) (s : State) : Host.Outcome State Fault Refusal :=
  s.commands (.copy d a b sc) fun n dr =>
    unlessStall (dr.srcStall [a, b]) <| unlessStall (dr.dstStall d) <|
      (dr.read2 s.focus a b).bind fun (x, y, dr1) =>
        let go := fun (blk : List Byte) (c : Chip) =>
          let dr2 := dr1.tick s.focus
          match c.acceptCopy n s.focus dr2 blk y sc.toNat d.toNat none with
          | .refused w => Drover.status c dr1 d w
          | .accepted id c =>
            let traps := ((c.drover? s.focus).map (·.async)).getD dr2.async
            .ok (c, { dr2.pendX d (.copy (byteAt blk 0 / 32 % 2) id) with async := traps })
          | .wait c => .hold c dr (some 32)
          | .fault k va => if k = 3 ∨ k = 4 then .trap (dr.trapAt k (BitVec.ofNat 64 va)) dr
            else .trap { dr.trapAt 6 (BitVec.ofNat 64 va) with aux2 := 4 } dr
        if x.toNat % 64 ≠ 0 then .trap (dr.trapAt 2 x) dr
        else
          match look (s.chip.serai n).copy.templates x.toNat with
          | some blk =>
            if s.chip.templateStands s.focus dr x.toNat blk || Config.templateKeeps s.cycle x.toNat then go blk s.chip
            else s.block s.chip dr x 64 64 fun b c => go b (c.rememberTemplate n x.toNat b)
          | none => s.block s.chip dr x 64 64 fun b c => go b (c.rememberTemplate n x.toNat b)

/-- CPFLUSH (R170). -/
def execCpflush (s : State) : Host.Outcome State Fault Refusal :=
  s.commands .cpflush fun n dr =>
    .ok (s.chip.onSerai n fun v => { v with copy := { v.copy with templates := [] } }, dr)

/-- CPSTAT (R170). -/
def execCpstat (d : BitVec 5) (s : State) : Host.Outcome State Fault Refusal :=
  s.commands (.cpstat d) fun n dr =>
    unlessStall (dr.dstStall d) <|
      let e := (s.chip.serai n).copy
      Drover.status s.chip dr d
        (BitVec.ofNat 64 (e.templates.length * 2 ^ 16 + (e.jobs 1).length * 2 ^ 8 + (e.jobs 0).length))

/-! ## Moving -/

/-- The status code of a late error's cause (R169): XLATE, PERM, otherwise MEMERR. -/
def lateCode (cause : Nat) : Nat := if cause = 3 then 35 else if cause = 4 then 36 else 37

/-- The late error that a copy's register carries (R18, R169). -/
def CopyJob.lateErr (j : CopyJob) (cause : Nat) (origin : Word) : LateErr :=
  { cause := if cause = 3 ∨ cause = 4 then cause else 6, val := BitVec.ofNat 64 (descOf j.desc).base, origin := j.pc,
    aux0 := if cause = 3 ∨ cause = 4 then 0 else origin }

/-- A copy stopped by a late error with an origin record. -/
def CopyJob.failedBy (j : CopyJob) (cause : Nat) (origin : Word) : CopyJob :=
  { j with code := some (lateCode cause), late := some (j.lateErr cause origin), eotDone := true }

/-- A copy stopped by a late error where its walk stands. -/
def CopyJob.failed (j : CopyJob) (m : MemEnd) (cause : Nat) : CopyJob := j.failedBy cause (m.origin j.walk cause)

/-- The chip with the oldest copy of a channel replaced. -/
def Chip.setJob (c : Chip) (n ch : Nat) (j : CopyJob) : Chip :=
  c.onSerai n fun v => v.onChannel ch fun q => j :: q.drop 1

/-- What a read step leaves in a copy: FMTMIX sends its POISON and then `eot`; a late error stops the copy (R169). -/
def Chip.copyPulled (c : Chip) (n u ch : Nat) (j : CopyJob) (m : MemEnd) (s : Pull) : Chip :=
  let j1 := { j with walk := s.w, moved := j.moved + s.moved, buf := j.buf ++ s.toks }
  match s.stop with
  | none =>
    match s.w.bad, s.toks.find? fun t => t.kind == 4 with
    | some o, _ => c.setJob n ch (j.failedBy 0x49 o)
    | none, some t => c.setJob n ch (j.failedBy 0x49 (t.payload.setWidth 64))
    | none, none => c.setJob n ch j1
  | some (0x48, _) => c.setJob n ch { j1 with buf := j1.buf ++ [Token.eot], walk := { j1.walk with done := true }, code := some 3 }
  | some (_, some (r, va)) => (c.streamRace u r va).setJob n ch { j with code := some 64, eotDone := true }
  | some (k, none) => c.setJob n ch (j.failed m k)

/-- A copy's sink takes the token at the head of its buffer, if it may; `eot` is last. -/
def Chip.copyDeliver (c : Chip) (cycle n ch : Nat) (j : CopyJob) : Option Chip :=
  match j.buf, j.dst with
  | t :: r, some e => (c.accept cycle e t).map fun c => c.setJob n ch { j with buf := r, eotDone := j.eotDone || t.isEot }
  | _, _ => none

/-- The next token of a copy's source, and the chip that has given it. -/
def Chip.copyTake (c : Chip) (j : CopyJob) : Option (Token × Chip) :=
  match j.src with
  | some (.porter u p) =>
    (c.seraiOf u).bind fun n =>
      let q := (c.serai n).porter p
      match q.buf with
      | t :: _ => if q.dir then none else some (t, c.onSerai n fun v => v.onPorter p Porter.emitted)
      | [] => none
  | some (.portal u pg i) =>
    (c.seraiOf u).bind fun n =>
      (look (c.serai n).pages pg).bind fun g =>
        match lookD g.fifos i [] with
        | t :: r => some (t.tok, c.onSerai n fun v => { v with pages := put v.pages pg { g with fifos := put g.fifos i r } })
        | [] => none
  | _ => none

/-- A memory sink takes one token (R65, R169). Of a token that meets a page of another format, the lanes before that page are written. `c0` is
the chip before the token was taken. -/
def Chip.copyConsume (c0 c : Chip) (n u ch : Nat) (j : CopyJob) (m : MemEnd) (t : Token) : Chip :=
  let ds := descOf j.desc
  let (w0, _) := j.walk.begin ds
  if t.isEot then c.setJob n ch { j with walk := { w0 with done := true }, eotDone := true }
  else if j.discard then c.setJob n ch j
  else if t.kind = 0 ∨ t.kind = 4 then
    let s := Place2.lanes ds t (lanesOf ds.fmt) 0 { w := w0, oob := false, ragged := false, puts := [], waits := false }
    let mx := isMX ds.fmt && t.kind == 0
    let j1 := { j with walk := if mx then { s.w with scales := [] } else s.w, moved := j.moved + s.puts.length }
    if t.kind = 4 then
      let (c, o, k) := c.sinkPoison u j.poisonOut j.poisonCnt (64 + j.id) 1 (t.payload.setWidth 64)
      c.setJob n ch { j1 with poisonOut := o, poisonCnt := k }
    else
      match c.addRuns m (4 * s.puts.length + 8) (runsOf ds w0.scales s.puts) none j.chunks with
      | (.wait _, _) => c0
      | (.stop 0x48 _, ks) => c.setJob n ch { j with discard := true, code := some 3, chunks := ks }
      | (.stop k _, _) => c.setJob n ch (j.failed m k)
      | (.ok _ c _, ks) => c.setJob n ch { j1 with chunks := ks }
  else if t.kind = 1 then c.setJob n ch { j with walk := (w0.ended ds t.level.toNat).1 }
  else if t.kind = 2 ∧ isMX ds.fmt then c.setJob n ch { j with walk := { w0 with scales := latchScale t } }
  else c.setJob n ch { j with walk := w0 }

/-- COPY_MOVE (R169, S11): one step of a channel's oldest copy: a chunk performed, a token delivered or placed, or a chunk read. With
`State.ahead` the chunk read is that of an element so many places on. -/
def execCopyMove (n : BitVec 12) (ch : BitVec 1) (s : State) : Host.Outcome State Fault Refusal :=
  s.engineStep n fun c cycle u d v =>
    match v.copy.jobs ch.toNat with
    | [] => c
    | j :: _ =>
      let m := j.memEnd u d ch.toNat
      let ds := descOf j.desc
      let put' := fun (c : Chip) (j : CopyJob) => c.setJob n.toNat ch.toNat j
      if !d.cleared j.after then c
      else if s.ahead ≠ 0 then
        if j.srcMem && j.walk.offsRead && !j.eotDone then
          let (c, w) := (j.walk.begin ds).1.readAhead c m ds s.ahead
          put' c { j with walk := w }
        else c
      else
        match chunkReady (j.chunks.filter fun k => !k.leaf.rmt) (j.eotDone || (j.chunks.getLast?.any fun k => k.leaf.rmt)) with
        | some k =>
          if c.behind (streamAgent u j.id) j.clk k.pa then c
          else
            let (c, _, race) := c.performChunk cycle m k
            let j1 := { j with chunks := j.chunks.erase k }
            (match race with
              | some (r, va) => put' (c.streamRace u r va) { j1 with code := some 64, eotDone := true, chunks := [] }
              | none => put' c j1)
        | none =>
          if j.eotDone then c
          else if (j.srcMem || j.dstMem) && !j.walk.offsRead then put' c (j.failed m 0x49)
          else if j.dstMem then
            match c.copyTake j with
            | none => c
            | some (t, c1) => c.copyConsume c1 n.toNat u ch.toNat j m t
          else
            match c.copyDeliver cycle n.toNat ch.toNat j with
            | some c => c
            | none =>
              if j.srcMem then
                let (w, r) := j.walk.begin ds
                if 16 ≤ j.buf.length ∨ (j.walk.done ∧ j.buf.any Token.isEot) then c
                else
                  let r := Pull.run m ds 512 false
                    { c := c, w := w, held := none, toks := [], oob := false, ragged := r, nan := false, moved := 0, eot := false, stop := none }
                  r.c.copyPulled n.toNat u ch.toNat j m r
              else if 16 ≤ j.buf.length ∨ j.buf.any Token.isEot then c
              else
                match c.copyTake j with
                | none => c
                | some (t, c) => put' c { j with buf := j.buf ++ [t], moved := j.moved + (if t.kind = 0 then t.mask.cpop.toNat else 0) }

/-- The status that a copy writes: elements moved when it is OK (R169, R160). -/
def CopyJob.status (j : CopyJob) (free : Word) : Word :=
  match j.code with
  | none => statusWord 0 0 j.moved
  | some 64 => free
  | some k => failWord k

/-- A copy's end seen by the context whose COMMAND began it (R180, R182). -/
def Serai.cmdDone (v : Serai) (j : CopyJob) : Serai :=
  match j.cmd with
  | none => v
  | some g => v.onCtx g fun x => { x with cmds := x.cmds.filter (· != j.id), cmdfail := x.cmdfail || j.code.isSome }

/-- COPY_COMPLETE (R169): the oldest copy of a channel writes its status once its writes are performed; the write is a
release, and the first read of the register the acquire. After RACE the spec states no status: a free value. -/
def execCopyComplete (n : BitVec 12) (ch : BitVec 1) (s : State) : Host.Outcome State Fault Refusal :=
  s.engineStep n fun c cycle u d v =>
    match v.copy.jobs ch.toNat with
    | [] => c
    | j :: _ =>
      if !j.eotDone ∨ j.chunks ≠ [] ∨ j.packets ≠ [] then c
      else
        let (free, c) := if j.code = some 64 then c.takeFree else (0, c)
        let c := c.onSerai n.toNat fun v =>
          { (v.cmdDone j).onChannel ch.toNat fun q => q.drop 1 with past := v.keptPast 2 (put j.clk (streamAgent u j.id) 1) }
        let pending := look d.board.pend j.rd == some (.copy ch.toNat j.id)
        if !pending then
          (match j.late with
            | some l => if j.cmd.isNone then c.logLate u d l else c
            | none => c)
        else
          let d1 := match j.late with
            | some l => (d.completeX j.rd (j.status free)).completeLate j.rd l
            | none => d.completeX j.rd (j.status free)
          let d1 := { d1 with board := { d1.board with clk := put d1.board.clk j.rd (put j.clk (streamAgent u j.id) 1) } }
          (c.setDrover u d1.wake).reached cycle u j.rd true

/-! ## Write packets (R367) -/

/-- The chunks of the oldest block of another module, in order, and whether a later chunk stands behind them. -/
def firstBlock (chunks : List Chunk) : List Chunk × Bool :=
  match chunks.filter fun k => k.leaf.rmt with
  | [] => ([], false)
  | k :: r =>
    let same := fun (x : Chunk) => x.leaf.dev == k.leaf.dev && x.pa / 2048 == k.pa / 2048
    (k :: r.takeWhile same, (r.dropWhile same) != [] || (chunks.getLast?.any fun x => !x.leaf.rmt))

/-- The 2,048 bytes of a block, and the bits of each that are written. -/
def blockImage (l : List Chunk) : List Byte × List Byte :=
  l.foldl (fun (p : List Byte × List Byte) k =>
    let o := k.pa % 2048
    (overlay p.1 o k.bytes k.bits, overlay p.2 o (List.replicate 64 0xFF) k.bits)) (List.replicate 2048 0, List.replicate 2048 0)

/-- The packets of a block: address, flags and payload (log 37). One whose written bytes are all whole and contiguous is
one packet of those bytes; otherwise bytes are followed by their masks, at most 1,024 of each in a packet. Flag 1 says
that masks follow, flag 2 that written words become full. -/
def blockPackets (base : Nat) (tag : Bool) (img : List Byte × List Byte) : List (Nat × Nat × List Byte) :=
  let lo := (img.2.takeWhile fun b => b == 0).length
  let n := 2048 - lo - (img.2.reverse.takeWhile fun b => b == 0).length
  let bytes := slice img.1 lo n
  let masks := slice img.2 lo n
  if masks.all fun b => b == 0xFF then [(base + lo, 2 * b2n tag, bytes)]
  else
    let part := fun (o k : Nat) => (base + lo + o, 1 + 2 * b2n tag, slice bytes o k ++ slice masks o k)
    if n ≤ 1024 then [part 0 n] else [part 0 1024, part 1024 (n - 1024)]

/-- Packets sent to a device; their tags, or none when no link leads there. -/
def Chip.sendBlocks (c : Chip) (dev : Nat) (who : Nat → RemoteReq) : List (Nat × Nat × List Byte) → List Nat → Option (List Nat × Chip)
  | [], tags => some (tags, c)
  | p :: r, tags =>
    match c.linkTo dev with
    | none => none
    | some l =>
      let tag := c.nextTag
      let k : Packet := { ptype := 1, err := 0, dst := dev, src := c.mgmt.devid.toNat, tag := tag, addr := p.1, data := p.2.2, flags := p.2.1 }
      { c.queuePacket l k with requests := put c.requests tag (who l), nextTag := (tag + 1) % 65536 }.sendBlocks dev who r (tags ++ [tag])

/-- WRITE_PACKET_SEND (R367): the oldest block of porter i, or, from 8 on, of the oldest copy of channel i − 8, once its
last chunk is ready. -/
def execWritePacketSend (n : BitVec 12) (i : Nat) (s : State) : Host.Outcome State Fault Refusal :=
  s.engineStep n fun c _ u d v =>
    if i < 8 then
      let q := v.porter i
      let (blk, more) := firstBlock q.chunks
      match blk with
      | [] => c
      | k :: _ =>
        if !more && !q.ended then c
        else
          let q1 := { q with chunks := q.chunks.filter fun x => !blk.contains x }
          match c.sendBlocks k.leaf.dev (fun l => .porter u i l)
              (blockPackets (k.pa / 2048 * 2048) (k.setTag && k.leaf.tagged) (blockImage blk)) [] with
          | some (tags, c) => c.onSerai n.toNat fun v => v.onPorter i fun _ => { q1 with packets := q1.packets ++ tags }
          | none => c.porterFault n.toNat u i q1 (q.memEnd u d i) q.walk 0x49 none
    else
      match v.copy.jobs (i - 8) with
      | [] => c
      | j :: _ =>
        let (blk, more) := firstBlock j.chunks
        match blk with
        | [] => c
        | k :: _ =>
          if !more && !j.eotDone then c
          else
            let j1 := { j with chunks := j.chunks.filter fun x => !blk.contains x }
            match c.sendBlocks k.leaf.dev (fun l => .copy u (i - 8) j.id l)
                (blockPackets (k.pa / 2048 * 2048) (k.setTag && k.leaf.tagged) (blockImage blk)) [] with
            | some (tags, c) => c.setJob n.toNat (i - 8) { j1 with packets := j1.packets ++ tags }
            | none => c.setJob n.toNat (i - 8) { (j1.failed (j.memEnd u d (i - 8)) 0x49) with chunks := [] }

end Sys2Proof.Machine
end

