-- ==== Sys2Proof/Machine/Flags.lean ====
section
/-!
DEFINITION. The drover FPU's operand forms: values in FP32 or FP64 (R71, R111), and the exceptions that each operation
ORs into FFLAGS (R39).
-/

namespace Sys2Proof.Machine

/-- FFLAGS with an operation's exceptions: the low five bits of the flag byte (R39). -/
def orFlags (f : BitVec 5) (fl : BitVec 7) : BitVec 5 := f ||| fl.setWidth 5

/-- The drover with exceptions ORed into FFLAGS. -/
def Drover.orFlags (d : Drover) (fl : BitVec 7) : Drover :=
  { d with ctl := { d.ctl with fflags := Machine.orFlags d.ctl.fflags fl } }

/-- The format that the precision bit names (R71). -/
def fpFmt (p : BitVec 1) : FFmt := if p = 1 then fp64 else fp32

/-- A source's encoding: an FP32 source ignores bits [63:32] (R71). -/
def fpSrc (p : BitVec 1) (v : Word) : Nat := if p = 1 then v.toNat else v.toNat % 2 ^ 32

/-- An FP32 result writes zero to bits [63:32]. -/
def fpDst (r : Nat × BitVec 7) : Word × BitVec 7 := (BitVec.ofNat 64 r.1, r.2)

/-- xd and FFLAGS from two sources. -/
def State.fop2 (s : State) (i : Instr) (d a b : BitVec 5) (f : Word → Word → Word × BitVec 7) :
    Host.Outcome State Fault Refusal :=
  s.drove i fun dr =>
    unlessStall (dr.srcStall [a, b]) <| unlessStall (dr.dstStall d) <|
      (dr.read2 s.focus a b).bind fun (va, vb, dr) => s.result (dr.orFlags (f va vb).2) d (f va vb).1

/-- xd and FFLAGS from one source. -/
def State.fop1 (s : State) (i : Instr) (d a : BitVec 5) (f : Word → Word × BitVec 7) :
    Host.Outcome State Fault Refusal :=
  s.drove i fun dr =>
    unlessStall (dr.srcStall [a]) <| unlessStall (dr.dstStall d) <|
      (dr.readX s.focus a).bind fun (va, dr) => s.result (dr.orFlags (f va).2) d (f va).1

end Sys2Proof.Machine
end

