-- ==== Sys2Proof/Machine/Fpu.lean ====
section
/-!
DEFINITION. The drover's floating point (R111 to R113).
-/

namespace Sys2Proof.Machine

/-- FADD (R111). -/
def execFadd (d a b : BitVec 5) (p : BitVec 1) (r : BitVec 2) (s : State) : Host.Outcome State Fault Refusal :=
  s.fop2 (.fadd d a b p r) d a b fun x y =>
    fpDst ((fpFmt p).addBits .ieee (modeOf r.toNat) (fpSrc p x) (fpSrc p y))
/-- FSUB: a + (−b) (R111). -/
def execFsub (d a b : BitVec 5) (p : BitVec 1) (r : BitVec 2) (s : State) : Host.Outcome State Fault Refusal :=
  s.fop2 (.fsub d a b p r) d a b fun x y =>
    fpDst ((fpFmt p).addBits .ieee (modeOf r.toNat) (fpSrc p x) ((fpFmt p).negBits (fpSrc p y)))
/-- FMUL (R111). -/
def execFmul (d a b : BitVec 5) (p : BitVec 1) (r : BitVec 2) (s : State) : Host.Outcome State Fault Refusal :=
  s.fop2 (.fmul d a b p r) d a b fun x y =>
    fpDst ((fpFmt p).mulBits .ieee (modeOf r.toNat) (fpSrc p x) (fpSrc p y))
/-- FDIV (R111). -/
def execFdiv (d a b : BitVec 5) (p : BitVec 1) (r : BitVec 2) (s : State) : Host.Outcome State Fault Refusal :=
  s.fop2 (.fdiv d a b p r) d a b fun x y =>
    fpDst ((fpFmt p).divBits .ieee (modeOf r.toNat) (fpSrc p x) (fpSrc p y))
/-- FSQRT (R111). -/
def execFsqrt (d a : BitVec 5) (p : BitVec 1) (r : BitVec 2) (s : State) : Host.Outcome State Fault Refusal :=
  s.fop1 (.fsqrt d a p r) d a fun x => fpDst ((fpFmt p).sqrtBits .ieee (modeOf r.toNat) (fpSrc p x))
/-- FMIN sets no flags (R111). -/
def execFmin (d a b : BitVec 5) (p : BitVec 1) (s : State) : Host.Outcome State Fault Refusal :=
  s.fop2 (.fmin d a b p) d a b fun x y => (BitVec.ofNat 64 ((fpFmt p).minBits (fpSrc p x) (fpSrc p y)), 0)
/-- FMAX sets no flags (R111). -/
def execFmax (d a b : BitVec 5) (p : BitVec 1) (s : State) : Host.Outcome State Fault Refusal :=
  s.fop2 (.fmax d a b p) d a b fun x y => (BitVec.ofNat 64 ((fpFmt p).maxBits (fpSrc p x) (fpSrc p y)), 0)

/-- FMA reads rd as its addend, and so stalls while rd is pending (R111). -/
def execFma (d a b : BitVec 5) (p : BitVec 1) (r : BitVec 2) (s : State) : Host.Outcome State Fault Refusal :=
  s.drove (.fma d a b p r) fun dr =>
    unlessStall (dr.srcStall [d, a, b]) <| unlessStall (dr.dstStall d) <| dr.unlessLate [d, a, b] <|
      (dr.readX s.focus d).bind fun (vd, dr) =>
      (dr.read2 s.focus a b).bind fun (va, vb, dr) =>
        let x := fpDst ((fpFmt p).fmaBits .ieee (modeOf r.toNat) (fpSrc p va) (fpSrc p vb) (fpSrc p vd))
        s.result (dr.orFlags x.2) d x.1

/-- The integer source of FCVTIF (R112). -/
def cvtSrc (w u : BitVec 1) (x : Word) : Int :=
  let n := if w = 1 then 32 else 64
  if u = 1 then (x.toNat % 2 ^ n : Nat) else intOf n x.toNat

/-- FCVTIF: integer to float (R112). -/
def execFcvtif (d a : BitVec 5) (w u p : BitVec 1) (r : BitVec 2) (s : State) : Host.Outcome State Fault Refusal :=
  s.fop1 (.fcvtif d a w u p r) d a fun x =>
    fpDst ((fpFmt p).encode .ieee (modeOf r.toNat) (ofInt (cvtSrc w u x)))

/-- The range of FCVTFI's target (R112). -/
def cvtLimits (w u : BitVec 1) : Int × Int :=
  let n := if w = 1 then 32 else 64
  if u = 1 then (0, 2 ^ n - 1) else (-(2 ^ (n - 1)), 2 ^ (n - 1) - 1)

/-- FCVTFI: float to integer with saturation (R112). A 32-bit signed result is sign-extended, an unsigned one
zero-extended. -/
def execFcvtfi (d a : BitVec 5) (w u p : BitVec 1) (r : BitVec 2) (s : State) : Host.Outcome State Fault Refusal :=
  s.fop1 (.fcvtfi d a w u p r) d a fun x =>
    let (i, fl) := ((fpFmt p).decode (fpSrc p x)).toInt (modeOf r.toNat) (cvtLimits w u).1 (cvtLimits w u).2
    (BitVec.ofInt 64 i, fl)

/-- FCVTFF: fn [8] names the destination; the source has the other precision (R112). -/
def execFcvtff (d a : BitVec 5) (p : BitVec 1) (r : BitVec 2) (s : State) : Host.Outcome State Fault Refusal :=
  s.fop1 (.fcvtff d a p r) d a fun x =>
    fpDst ((fpFmt p).encode .ieee (modeOf r.toNat) ((fpFmt (1 - p)).decode (fpSrc (1 - p) x)))

/-- Comparison of two encodings; none with a NaN (R40). -/
def fpCmp (p : BitVec 1) (x y : Word) : Option Int :=
  ((fpFmt p).decode (fpSrc p x)).cmp ((fpFmt p).decode (fpSrc p y))

/-- FCEQ (R111). -/
def execFceq (d : BitVec 3) (a b : BitVec 5) (p : BitVec 1) (s : State) : Host.Outcome State Fault Refusal :=
  s.cmp2 (.fceq d a b p) d a b fun x y => fpCmp p x y == some 0
/-- FCLT (R111). -/
def execFclt (d : BitVec 3) (a b : BitVec 5) (p : BitVec 1) (s : State) : Host.Outcome State Fault Refusal :=
  s.cmp2 (.fclt d a b p) d a b fun x y => fpCmp p x y == some (-1)
/-- FCLE (R111). -/
def execFcle (d : BitVec 3) (a b : BitVec 5) (p : BitVec 1) (s : State) : Host.Outcome State Fault Refusal :=
  s.cmp2 (.fcle d a b p) d a b fun x y => fpCmp p x y == some (-1) || fpCmp p x y == some 0

/-- The one bit of FCLASS (R113). -/
def fclassBit (f : FFmt) (bits : Nat) : Nat :=
  match f.decode bits with
  | .nan => 8
  | .inf s => if s then 0 else 7
  | .fin s m _ =>
    if m = 0 then (if s then 3 else 4)
    else if m < 2 ^ f.mb then (if s then 2 else 5)
    else if s then 1 else 6

/-- FCLASS (R113). -/
def execFclass (d a : BitVec 5) (p : BitVec 1) (s : State) : Host.Outcome State Fault Refusal :=
  s.op1 (.fclass d a p) d a fun x => BitVec.ofNat 64 (2 ^ fclassBit (fpFmt p) (fpSrc p x))

end Sys2Proof.Machine
end

