-- ==== Sys2Proof/Machine/Image.lean ====
section
/-!
DEFINITION. Page images (R77 to R84): the fields of cell words, crossvein words and portal entries, and the checks of
PGLOAD and PGCAST with the field rules of R193, R202, R203, R205, R206, R213, R217 and R220 to R223.
-/

namespace Sys2Proof.Machine

/-! ## Cell words (R77) -/

/-- The operation of a cell, in the order of R79. -/
inductive CellOp where
  /-- 0x00 -/
  | pass
  /-- 0x01 -/
  | const
  /-- 0x02 -/
  | add
  /-- 0x03 -/
  | sub
  /-- 0x04 -/
  | mul
  /-- 0x05 -/
  | fma
  /-- 0x06 -/
  | neg
  /-- 0x07 -/
  | abs
  /-- 0x08 -/
  | min
  /-- 0x09 -/
  | max
  /-- 0x0A -/
  | cmpeq
  /-- 0x0B -/
  | cmplt
  /-- 0x0C -/
  | cmple
  /-- 0x0D -/
  | sel
  /-- 0x0E -/
  | and
  /-- 0x0F -/
  | or
  /-- 0x10 -/
  | xor
  /-- 0x11 -/
  | not
  /-- 0x12 -/
  | shl
  /-- 0x13 -/
  | shr
  /-- 0x14 -/
  | sar
  /-- 0x15 -/
  | cvt
  /-- 0x16 -/
  | expand
  /-- 0x17 -/
  | pack
  /-- 0x18 -/
  | recip
  /-- 0x19 -/
  | rsqrt
  /-- 0x1A -/
  | exp2
  /-- 0x1B -/
  | log2
  /-- 0x1C -/
  | redsum
  /-- 0x1D -/
  | redmax
  /-- 0x1E -/
  | redmin
  /-- 0x1F -/
  | scan
  /-- 0x20 -/
  | argmax
  /-- 0x21 -/
  | topk8
  /-- 0x22 -/
  | dot
  /-- 0x23 -/
  | cim
  /-- 0x24 -/
  | acc
  /-- 0x25 -/
  | bld
  /-- 0x26 -/
  | bst
  /-- 0x27 -/
  | gld
  /-- 0x28 -/
  | gst
  /-- 0x29 -/
  | dup
  /-- 0x2A -/
  | shuf
  /-- 0x2B -/
  | bcast
  /-- 0x2C -/
  | mask
  /-- 0x2D -/
  | tagset
  deriving DecidableEq, Repr

/-- The operations in the order of their opcodes. -/
def cellOps : List CellOp :=
  [.pass, .const, .add, .sub, .mul, .fma, .neg, .abs, .min, .max, .cmpeq, .cmplt, .cmple, .sel, .and, .or, .xor, .not, .shl,
    .shr, .sar, .cvt, .expand, .pack, .recip, .rsqrt, .exp2, .log2, .redsum, .redmax, .redmin, .scan, .argmax, .topk8, .dot,
    .cim, .acc, .bld, .bst, .gld, .gst, .dup, .shuf, .bcast, .mask, .tagset]

/-- A cell word's fields. -/
structure CellWord where
  op : CellOp
  fmt : Nat
  rnd : Nat
  insel : List Nat
  omask : Nat
  oport : Nat
  mpol : Nat
  mlev : Nat
  spol : Nat
  dpol : Nat
  const : Nat
  bbase : Nat
  blen : Nat
  wpred : Nat
  wthis : Nat
  wsucc : Nat
  deriving DecidableEq, Repr

/-- The fields of a cell word (R77). -/
def cellOf (w : BitVec 128) : CellWord :=
  let n := w.toNat
  let f := bitsOf n
  { op := (cellOps[f 120 8]?).getD .pass, fmt := f 114 6, rnd := f 112 2, insel := [f 108 4, f 104 4, f 100 4], omask := f 96 4,
    oport := f 92 4, mpol := f 90 2, mlev := f 86 4, spol := f 84 2, dpol := f 82 2, const := f 50 32, bbase := f 40 10,
    blen := f 30 10, wpred := f 20 10, wthis := f 10 10, wsucc := f 0 10 }

/-- Units of a cell's bank region: blen 0 reads as 1,024. -/
def CellWord.units (c : CellWord) : Nat := if c.blen = 0 then 1024 else c.blen

/-- Inputs that an operation names (R202); ACC names two, the second optional. -/
def CellOp.inputs : CellOp → Nat
  | .add | .sub | .mul | .min | .max | .cmpeq | .cmplt | .cmple | .and | .or | .xor | .dot | .acc | .bst | .gst => 2
  | .fma | .sel => 3
  | _ => 1

/-- Whether an operation performs accesses in wave order (R217). -/
def CellOp.isMem : CellOp → Bool
  | .bld | .bst | .gld | .gst => true
  | _ => false

/-- Whether an operation has a bank region (R77). -/
def CellOp.hasBank : CellOp → Bool
  | .cim | .acc | .bld | .bst | .gld | .gst | .tagset => true
  | _ => false

/-- Whether an operation reads const beside a constant input (R77). -/
def CellOp.usesConst : CellOp → Bool
  | .const | .shl | .shr | .sar | .cvt | .shuf | .mask => true
  | _ => false

/-- Whether an operation accumulates (R200). -/
def CellOp.accumulates : CellOp → Bool
  | .redsum | .redmax | .redmin | .scan | .argmax | .topk8 | .dot | .cim | .acc => true
  | _ => false

/-- Whether a row of R202 accepts mpol trigger. -/
def CellOp.triggers : CellOp → Bool
  | .redsum | .redmax | .redmin | .scan | .argmax | .topk8 | .dot | .acc => true
  | _ => false

/-- Directive codes that a row of R202 responds to besides PASSMARK. -/
def CellOp.directives : CellOp → List Nat
  | .pack => [1]
  | .redsum | .redmax | .redmin | .argmax | .topk8 | .dot => [1, 2, 3]
  | .scan => [1, 2, 4]
  | .cim => [1, 2]
  | .acc => [1, 2, 5, 6]
  | .tagset => [2]
  | _ => []

/-- Group I of R202. -/
def groupI : List Nat := [0, 1, 2, 3, 4, 5]
/-- Group F. -/
def groupF : List Nat := [8, 9, 10, 11, 12, 13, 14, 15]
/-- Group X. -/
def groupX : List Nat := [0x10, 0x11, 0x12, 0x13, 0x14, 0x15, 0x19]
/-- Group P. -/
def groupP : List Nat := groupI ++ groupF ++ [0x18, 0x3F]
/-- Group W. -/
def groupW : List Nat := [0, 1, 3, 4, 5, 8, 9, 10, 11, 12, 0x18, 0x3F]

/-- Formats that a row of R202 admits. -/
def CellOp.formats : CellOp → List Nat
  | .pass | .mask => groupP ++ groupX
  | .const | .sel | .and | .or | .xor | .not | .bcast => groupP
  | .add | .sub | .mul | .min | .max | .neg | .abs | .cmpeq | .cmplt | .cmple | .redsum | .redmax | .redmin | .scan =>
    groupI ++ groupF
  | .fma => groupF
  | .shl | .shr | .sar => groupI
  | .cvt => groupI ++ groupF ++ [0x18]
  | .expand => [0, 1, 2, 3, 4] ++ groupF ++ [0x18] ++ groupX
  | .pack => groupI ++ groupF ++ [0x18] ++ groupX
  | .recip | .rsqrt | .exp2 | .log2 => [8, 9, 10]
  | .argmax | .topk8 => [0, 1, 2, 3, 4] ++ groupF
  | .dot => [0x0B, 0x0C, 0x09, 0x0A, 0x08, 0x10, 0x11, 0x15]
  | .cim => [0x02, 0x00, 0x01, 0x18, 0x0B, 0x0C, 0x0D, 0x0E, 0x0F, 0x09, 0x0A] ++ groupX
  | .acc => [8]
  | .bld | .bst | .dup | .shuf => groupW
  | .gld | .gst => [4, 8]
  | .tagset => [4]

/-! ## Positions (R193) -/

/-- The position next to position i in direction d: 0 N, 1 E, 2 S, 3 W; none outside the quarter. -/
def neighbour (i d : Nat) : Option Nat :=
  if d = 0 then (if i < 8 then none else some (i - 8))
  else if d = 1 then (if i % 8 = 7 then none else some (i + 1))
  else if d = 2 then (if 56 ≤ i then none else some (i + 8))
  else if i % 8 = 0 then none
  else some (i - 1)

/-- Directions of a four-bit field, its high bit N. -/
def dirsOf (m : Nat) : List Nat := (List.range 4).filter fun d => bitOf m (3 - d)

/-- Whether a select is one of R78 with its source inside the quarter (R193). -/
def selOk (i s : Nat) : Bool := s != 6 && s != 7 && (!(1 ≤ s && s ≤ 4) || (neighbour i (s - 1)).isSome)

/-- Whether every direction of a field stays inside the quarter. -/
def dirsOk (i m : Nat) : Bool := (dirsOf m).all fun d => (neighbour i d).isSome

/-- Whether a list of selects names one non-constant source twice. -/
def twice (l : List Nat) : Bool := let n := l.filter fun s => s != 0 && s != 5; n.dedup.length != n.length

/-- Whether a value is a mark level that a field may name. -/
def levelOk (l : Nat) : Bool := (1 ≤ l && l ≤ 8) || l == 15

/-- Whether the cell word at a position breaks check 4 of R84. -/
def CellWord.bad (c : CellWord) (i : Nat) : Bool :=
  let n := c.op.inputs
  let latches := c.op == .expand || c.op == .dot || c.op == .cim
  let k := c.const
  c.mpol == 3 || c.spol == 3 || c.dpol == 3 || (decide (c.oport < 8) && c.oport != 0) ||
    (if c.mpol = 2 then !levelOk c.mlev || !c.op.triggers else c.mlev != 0) ||
    !c.op.formats.contains c.fmt || (c.spol == 1 && !latches) || (latches && isMX c.fmt && c.spol != 1) ||
    (c.insel.zipIdx.any fun p =>
      (if p.2 < n then p.1 == 0 && !(c.op == .acc && p.2 == 1) else p.1 != 0) || !selOk i p.1) ||
    twice c.insel || !dirsOk i c.omask ||
    ((c.bbase != 0 || c.blen != 0) && (!c.op.hasBank || c.op == .cim)) ||
    ((c.wpred != 0 || c.wthis != 0 || c.wsucc != 0) && !c.op.isMem) ||
    (k != 0 && !c.op.usesConst && !c.insel.contains 5) ||
    (match c.op with
      | .shl | .shr | .sar => decide (64 ≤ k)
      | .shuf => decide (lanesOf c.fmt ≤ bitsOf k 0 6) || decide (lanesOf c.fmt ≤ bitsOf k 8 6) || bitsOf k 6 2 != 0 ||
          bitsOf k 14 18 != 0
      | .cvt => decide (128 ≤ k) || isMX (k % 64) || k % 64 == 0x3F || (elemOf (k % 64)).isNone
      | _ => false)

/-! ## Crossvein words (R80) -/

/-- A crossvein word's fields; rmap as its four selects N, E, S, W. -/
structure XvWord where
  xop : Nat
  ctl : Nat
  ina : Nat
  inb : Nat
  omt : Nat
  omf : Nat
  oport : Nat
  rmap : List Nat
  rest : Bool
  deriving DecidableEq, Repr

/-- The fields of a crossvein word (R80). -/
def xvOf (w : BitVec 64) : XvWord :=
  let f := bitsOf w.toNat
  { xop := f 60 4, ctl := f 56 4, ina := f 52 4, inb := f 48 4, omt := f 44 4, omf := f 40 4, oport := f 36 4,
    rmap := [f 28 4, f 24 4, f 20 4, f 16 4], rest := f 32 4 != 0 || f 0 16 != 0 }

/-- Whether a ROUTE with no source: an idle crossvein (R80). -/
def XvWord.idle (x : XvWord) : Bool := x.xop == 0 && x.rmap.all fun s => s == 0

/-- Directions that a crossvein writes. -/
def XvWord.writes (x : XvWord) : List Nat :=
  (List.range 4).filter fun d => bitOf x.omt (3 - d) || bitOf x.omf (3 - d) || (x.rmap[d]?).getD 0 != 0

/-- The fields that an operator uses (R80): ctl, ina, inb, omt, omf, oport, rmap. -/
def xvUses (xop : Nat) : List Bool :=
  match xop with
  | 0 => [false, false, false, false, false, true, true]
  | 1 => [true, true, false, true, true, false, false]
  | 2 => [true, true, true, true, false, true, false]
  | 3 => [true, true, true, true, false, true, false]
  | 4 => [true, true, false, true, false, true, false]
  | _ => [false, true, false, true, false, true, false]

/-- Whether the crossvein word at a position breaks check 4 of R84. A router has no constant, so select 5 names none of its
sources (log 41). -/
def XvWord.bad (x : XvWord) (i : Nat) : Bool :=
  let u := xvUses x.xop
  let used := fun (n : Nat) => (u[n]?).getD false
  let r := x.rmap.foldl (· + ·) 0
  x.rest || (decide (x.oport < 8) && x.oport != 0) ||
    ([x.ctl, x.ina, x.inb, x.omt, x.omf, x.oport, r].zipIdx.any fun p => p.1 != 0 && !used p.2) ||
    ([x.ctl, x.ina, x.inb].zipIdx.any fun p => used p.2 && p.1 == 0) ||
    ((x.ctl :: x.ina :: x.inb :: x.rmap).any fun s => s == 5 || !selOk i s) ||
    twice [x.ctl, x.ina, x.inb] || (x.xop == 0 && x.oport != 0 && r == 0) ||
    (x.writes.any fun d => (neighbour i d).isNone)

/-! ## The page image (R81 to R84) -/

/-- The words of an image, and its header's masks. -/
structure PageImage where
  pageid : Nat
  pinned : Bool
  cells : List (BitVec 128)
  xvs : List (BitVec 64)
  portals : List (BitVec 64)
  deriving DecidableEq, Repr

/-- Words of n bytes in an image. -/
def imageWords (b : List Byte) (o n count : Nat) : List Nat := (List.range count).map fun i => field b (o + n * i) n

/-- The parts of an image. -/
def pageImage (b : List Byte) : PageImage :=
  { pageid := byteAt b 6, pinned := bitOf (byteAt b 7) 0,
    cells := (imageWords b 0x40 16 64).map fun w => BitVec.ofNat 128 w,
    xvs := (imageWords b 0x440 8 64).map fun w => BitVec.ofNat 64 w,
    portals := (imageWords b 0x640 16 8).map fun w => BitVec.ofNat 64 (w % 2 ^ 64) }

/-- Whether a crc field that is not zero fails to match (R82). -/
def crcBad (b : List Byte) : Bool :=
  let c := field b 60 4
  c != 0 && crc32c (b.take 60 ++ [0, 0, 0, 0] ++ b.drop 64) != c

/-- The cell at which a portal stands (R83). -/
def portalCell (w : BitVec 64) : Nat :=
  let pos := bitsOf w.toNat 0 3
  match bitsOf w.toNat 3 3 with
  | 0 => pos
  | 1 => 8 * pos + 7
  | 2 => 56 + pos
  | _ => 8 * pos

/-- Whether a portal entry breaks R83. -/
def portalBad (b : List Byte) (n : Nat) : Bool :=
  let w := field b (0x640 + 16 * n) 8
  let hi := field b (0x648 + 16 * n) 8
  let i := bitOf (byteAt b 24) n
  let o := bitOf (byteAt b 25) n
  let rate := bitsOf w 8 8
  if rate = 0 then w != 0 || hi != 0 || i || o
  else
    bitsOf w 16 48 != 0 || hi != 0 || decide (16 < rate) || decide (4 ≤ bitsOf w 3 3) || o != bitOf w 7 || i == bitOf w 7 ||
      (bitOf w 7 && bitOf w 6)

/-- Whether a select or an oport names a portal of the other side, unused, or of another cell. -/
def PageImage.portalAt (g : PageImage) (i s : Nat) (isOut : Bool) : Bool :=
  decide (s < 8) ||
    (let w := (g.portals[s - 8]?).getD 0
     portalUse w == some isOut && portalCell w == i)

/-- Whether position i breaks the portal rules of R83. -/
def PageImage.portalsBad (g : PageImage) (i : Nat) : Bool :=
  let c := (g.cells[i]?).getD 0
  let x := xvOf ((g.xvs[i]?).getD 0)
  let w := cellOf c
  (c != 0 && ((w.insel.any fun s => !g.portalAt i s false) || !g.portalAt i w.oport true)) ||
    ((x.ctl :: x.ina :: x.inb :: x.rmap).any fun s => !g.portalAt i s false) || !g.portalAt i x.oport true

/-- The memory cells of an image: position and word. -/
def PageImage.memCells (g : PageImage) : List (Nat × CellWord) :=
  g.cells.zipIdx.filterMap fun p =>
    let w := cellOf p.1
    if p.1 != 0 && w.op.isMem then some (p.2, w) else none

/-- The first memory cell that breaks the wave rules of R217. -/
def PageImage.waveBad (g : PageImage) : Option Nat :=
  let m := g.memCells
  let names := m.map fun p => p.2.wthis
  (m.find? fun p =>
    let w := p.2
    (if w.wthis = 0 then w.wpred != 0x3FF else decide (0x3FD < w.wthis)) ||
      ((m.takeWhile fun q => q.1 != p.1).any fun q => q.2.wthis == w.wthis) ||
      (w.wpred != 0x3FF && !names.contains w.wpred) || (decide (w.wsucc < 0x3FE) && !names.contains w.wsucc)).map fun p => p.1

/-- The first check of R84 that an image fails: status code and detail. -/
def checkPage (b : List Byte) : Option (Nat × Nat) :=
  let g := pageImage b
  let cellAt := fun (i : Nat) => (g.cells[i]?).getD 0
  let xvAt := fun (i : Nat) => (g.xvs[i]?).getD 0
  let has := fun (o i : Nat) => bitOf (field b o 8) i
  let first := fun (p : Nat → Bool) => (List.range 64).find? p
  if field b 0 4 ≠ 0x45474150 ∨ field b 4 2 ≠ 1 ∨ crcBad b ∨ 2 ≤ byteAt b 7 ∨ !zeroBytes b 26 34 ∨ !zeroBytes b 0x6C0 2368 then
    some (10, 0)
  else
    match first fun i => (has 8 i && decide (0x2E ≤ (cellAt i).toNat / 2 ^ 120)) || (has 16 i && decide (6 ≤ (xvAt i).toNat / 2 ^ 60)) with
    | some i => some (11, i)
    | none =>
      match first fun i => has 8 i && (elemOf (cellOf (cellAt i)).fmt).isNone with
      | some i => some (3, i)
      | none =>
        match first fun i =>
          let c := cellOf (cellAt i)
          let x := xvOf (xvAt i)
          (if has 8 i then c.bad i else cellAt i != 0) || (if has 16 i then x.bad i else xvAt i != 0) ||
            (has 8 i && x.writes.any fun d => bitOf c.omask (3 - d)) with
        | some i => some (12, i)
        | none =>
          match g.waveBad with
          | some i => some (12, i)
          | none =>
            match first fun i => decide (1024 < (cellOf (cellAt i)).bbase + (cellOf (cellAt i)).units) with
            | some i => some (13, i)
            | none =>
              match (List.range 8).find? fun n => portalBad b n with
              | some n => some (14, n)
              | none => (first g.portalsBad).map fun i => (14, i)

/-- The page that an image configures, before any token (R172): cells and routers as PGLOAD starts them. -/
def PageImage.page (g : PageImage) (q cycle : Nat) : Page :=
  { cells := g.cells, xvs := g.xvs, portals := g.portals, pinned := g.pinned, cst := [], xst := [], hops := [], fifos := [],
    admitted := [], waves := [], lastWave := (0, 0x3FE), firings := 0, made := 0, entered := [], quarter := some q, since := cycle,
    enabledAt := cycle, idle := false, excludedAt := none }

end Sys2Proof.Machine
end

