-- ==== Sys2Proof/Machine/Wing.lean ====
section
/-!
DEFINITION. Quarters and their conditions (R15, R297), and the wing instructions (R171 to R178): PGLOAD, PGCAST, PGBIND,
PGDROP, PGSTAT, WLOAD, WDROP and WPOKE.
-/

namespace Sys2Proof.Machine

/-! ## Quarters -/

/-- The wing cell of local cell i of quarter q (R7, R81). -/
def wingCell (q i : Nat) : Nat := 16 * (i / 8 + 8 * (q / 2)) + i % 8 + 8 * (q % 2)

/-- The quarter that holds a wing cell (R7). -/
def quarterOf (c : Nat) : Nat := 2 * (c / 128) + c % 16 / 8

/-- The page resident in a quarter, with its pageid. -/
def Serai.resident (v : Serai) (q : Nat) : Option (Nat × Page) := v.pages.find? fun p => p.2.quarter == some q

/-- Whether a page is between firings (R297): every admitted token consumed, none in a hop, an output register or an
emission. A waiting ACC firing has consumed nothing, so its inputs are counted where they stand. -/
def Page.quiescent (g : Page) : Bool :=
  (g.admitted.all fun p => p.2 == 0) && (g.hops.all fun p => p.2 == []) &&
    (g.cst.all fun p => p.2.out.isNone && p.2.emit == []) && g.xst.all fun p => p.2.out.isNone && p.2.emit == []

/-- The quarter that the pager holds (R299). -/
def Pager.quarter : Pager → Option Nat
  | .idle => none
  | .closing q _ _ _ => some q
  | .saved q _ _ => some q
  | .loaded q _ _ => some q

/-- The page that the pager is placing. -/
def Pager.candidate : Pager → Option Nat
  | .idle => none
  | .closing _ c _ _ => some c
  | .saved _ c _ => some c
  | .loaded _ c _ => some c

/-- A quarter's condition (R15, R297, R299). -/
def Serai.condition (v : Serai) (q : Nat) : Nat :=
  if v.pager.quarter = some q then 3
  else
    match v.resident q with
    | none => 0
    | some (_, g) => if g.quiescent then 1 else 2

/-- Whether a WING command waits for a quarter (R171). -/
def Serai.quarterBusy (v : Serai) (q : Nat) : Bool := decide (2 ≤ v.condition q)

/-! ## Loading pages (R172) -/

/-- An image loaded into a quarter: status code and detail, and the serai. -/
def Serai.load (v : Serai) (q cycle : Nat) (b : List Byte) : (Nat × Nat) × Serai :=
  match checkPage b with
  | some e => (e, v)
  | none =>
    let g := pageImage b
    if (look v.pages g.pageid).isSome then ((23, 0), v)
    else if 64 ≤ v.pages.length then ((24, 0), v)
    else
      let left : SMap Page := v.pages.map fun p => if p.2.quarter = some q then (p.1, { p.2 with quarter := none }) else p
      ((0, 0), { v with pages := put left g.pageid (g.page q cycle) })

/-- PGLOAD (R172). -/
def execPgload (d : BitVec 5) (q : BitVec 2) (b : BitVec 5) (s : State) : Host.Outcome State Fault Refusal :=
  s.commands (.pgload d q b) fun n dr =>
    unlessStall (dr.srcStall [b]) <| unlessStall (dr.dstStall d) <|
      (dr.readX s.focus b).bind fun (x, dr1) =>
        if x.toNat % 64 = 0 ∧ (s.chip.serai n).quarterBusy q.toNat then .hold s.chip dr (some 32)
        else
          s.block s.chip dr x 4096 64 fun img c =>
            let ((k, t), v) := (c.serai n).load q.toNat s.cycle img
            Drover.status (c.setSerai n v) dr1 d (statusWord k t 0)

/-- Whether a pattern and mask choose an index of the caravan (R172). -/
def chosen (pattern mask i : Nat) : Bool := (i &&& mask) == (pattern &&& mask)

/-- Whether a cast block is faulty (R172). -/
def castBad (b : List Byte) : Bool :=
  let count := byteAt b 2
  decide (4 ≤ byteAt b 0) || decide (64 < count) || !zeroBytes b 3 5 || !zeroBytes b 16 48 || field b 8 8 % 8 != 0 ||
    (count == 0 && field b 8 8 != 0)

/-- Whether a delta entry is faulty. -/
def deltaBad (w : Nat) : Bool := bitsOf w 32 6 != 0 || decide (127 < bitsOf w 43 7 + bitsOf w 38 5)

/-- A delta entry written into an image. -/
def applyDelta (b : List Byte) (w : Nat) : List Byte :=
  let o := 0x40 + 16 * bitsOf w 50 6
  let lo := bitsOf w 43 7
  let n := bitsOf w 38 5 + 1
  let old := field b o 16
  let new := old / 2 ^ (lo + n) * 2 ^ (lo + n) + bitsOf w 0 32 % 2 ^ n * 2 ^ lo + old % 2 ^ lo
  b.take o ++ leBytes new 16 ++ b.drop (o + 16)

/-- The image as the entries that choose an index patch it, in list order. -/
def patched (b : List Byte) (deltas : List Nat) (i : Nat) : List Byte :=
  (deltas.filter fun w => chosen (bitsOf w 60 4) (bitsOf w 56 4) i).foldl applyDelta b

/-- The members that a cast block chooses: index and key. -/
def Chip.castTo (c : Chip) (u sel : Nat) : List (Nat × Nat) :=
  match c.caravanOf? u with
  | none => []
  | some v => (v.members.zipIdx.map fun p => (p.2, p.1)).filter fun p => chosen (sel / 16) (sel % 16) p.1

/-- Loads of one cast: the chip, the failed indexes as a mask, and the first code. -/
def Chip.castAll (c : Chip) (q cycle : Nat) (img : List Byte) (deltas : List Nat) : List (Nat × Nat) → Nat → Nat → Chip × Nat × Nat
  | [], m, k => (c, m, k)
  | (i, u) :: r, m, k =>
    match c.seraiOf u with
    | none => c.castAll q cycle img deltas r m k
    | some n =>
      let ((e, _), v) := (c.serai n).load q cycle (patched img deltas i)
      if e = 0 then (c.setSerai n v).castAll q cycle img deltas r m k
      else c.castAll q cycle img deltas r (m + 2 ^ i) (if k = 0 then e else k)

/-- PGCAST (R172): the command waits until every chosen quarter may be configured, and every chosen member is in its
serai. -/
def execPgcast (d a b : BitVec 5) (s : State) : Host.Outcome State Fault Refusal :=
  s.commands (.pgcast d a b) fun _ dr =>
    unlessStall (dr.srcStall [a, b]) <| unlessStall (dr.dstStall d) <|
      (dr.read2 s.focus a b).bind fun (x, y, dr1) =>
        if x.toNat % 64 ≠ 0 then .trap (dr.trapAt 2 x) dr
        else
          s.block s.chip dr y 64 64 fun blk c =>
            if castBad blk then Drover.status c dr1 d (failWord 21)
            else
              let q := byteAt blk 0
              let chs := c.castTo s.focus (byteAt blk 1)
              let busy := chs.any fun p => match c.seraiOf p.2 with
                | none => true
                | some n => (c.serai n).quarterBusy q
              if busy then .hold c dr (some 32)
              else
                s.block c dr x 4096 64 fun img c =>
                  match c.readBlock (blockAgent s.focus) s.focus dr (field blk 8 8) (8 * byteAt blk 2) with
                  | .wait c => .hold c dr (some 32)
                  | .bad _ _ => Drover.status c dr1 d (failWord 21)
                  | .ok l c =>
                    let deltas := imageWords l 0 8 (byteAt blk 2)
                    if deltas.any deltaBad then Drover.status c dr1 d (failWord 21)
                    else
                      let (c, m, k) := (c.dropFar (blockAgent s.focus)).castAll q s.cycle img deltas chs 0 0
                      Drover.status c dr1 d (if m = 0 then statusOk else BitVec.ofNat 64 (m * 2 ^ 16 + k * 256 + 34))

/-! ## Bindings (R173) -/

/-- Whether an endpoint exists and is a source that no binding, link, claim or copy has (R161, R173). -/
def Chip.bindSource (c : Chip) (e : Ep) : Bool :=
  match e with
  | .porter u p =>
    match c.seraiOf u with
    | none => false
    | some n =>
      let q := (c.serai n).porter p
      (q.cond == 0 || !q.dir) && q.link.isNone && q.claim.isNone && !c.reserved e true && !c.reserved e false && !c.boundSink e
  | .portal u pg i => ((c.pageOf u pg).any fun g => g.portalIs i true) && !c.reserved e true
  | .context u _ => (c.seraiOf u).isSome
  | _ => false

/-- Whether an endpoint exists and is a sink that no binding, link, claim or copy has. -/
def Chip.bindSink (c : Chip) (e : Ep) : Bool :=
  match e with
  | .porter u p =>
    match c.seraiOf u with
    | none => false
    | some n =>
      let q := (c.serai n).porter p
      (q.cond == 0 || q.dir) && q.link.isNone && q.claim.isNone && !c.reserved e true && !c.reserved e false && !c.boundSource e
  | .portal u pg i => ((c.pageOf u pg).any fun g => g.portalIs i false) && !c.reserved e false
  | .mailbox u => (c.drover? u).isSome
  | _ => false

/-- Whether an endpoint is a porter. -/
def Ep.isPorter : Ep → Bool
  | .porter _ _ => true
  | _ => false

/-- A binding made or removed: status code and chip. -/
def Chip.bindPair (c : Chip) (u : Nat) (src snk : Word) : Nat × Chip :=
  match c.endpoint u src.toNat with
  | none => (22, c)
  | some a =>
    if !c.bindSource a then (22, c)
    else if snk.toNat = 15 * 2 ^ 28 then (0, c.unbind a)
    else
      match c.endpoint u snk.toNat with
      | none => (22, c)
      | some b =>
        if !c.bindSink b || c.boundSource a || c.boundSink b || (a.isPorter && b.isPorter) then (22, c)
        else (0, { c with binds := c.binds ++ [(a, b)] })

/-- PGBIND (R173). -/
def execPgbind (d a b : BitVec 5) (s : State) : Host.Outcome State Fault Refusal :=
  s.commands (.pgbind d a b) fun _ dr =>
    unlessStall (dr.srcStall [a, b]) <| unlessStall (dr.dstStall d) <|
      (dr.read2 s.focus a b).bind fun (x, y, dr1) =>
        let (k, c) := s.chip.bindPair s.focus x y
        Drover.status c dr1 d (failWord k)

/-- Whether an endpoint is a portal of a page. -/
def Ep.ofPage (e : Ep) (u pg : Nat) : Bool :=
  match e with
  | .portal v p _ => v == u && p == pg
  | _ => false

/-- A page dropped with its bindings and tokens (R174). -/
def Chip.dropPage (c : Chip) (n u pg : Nat) : Chip :=
  { c.onSerai n fun v => { v with pages := del v.pages pg } with
    binds := c.binds.filter fun b => !b.1.ofPage u pg && !b.2.ofPage u pg }

/-- PGDROP (R174): the mode is tested first. -/
def execPgdrop (d : BitVec 5) (q : BitVec 2) (s : State) : Host.Outcome State Fault Refusal :=
  s.commands (.pgdrop d q) fun n dr =>
    dr.modeWord s.focus d fun mode dr1 =>
      let m := mode.toNat
      let v := s.chip.serai n
      if 257 ≤ m ∨ (m ≠ 0 ∧ q ≠ 0) then Drover.status s.chip dr1 d (failWord 20)
      else
        let target := if m = 0 then v.resident q.toNat else (look v.pages (m - 1)).map fun g => (m - 1, g)
        let busy := (m == 0 && v.quarterBusy q.toNat) || (target.any fun p => v.pager.candidate == some p.1 ||
          p.2.quarter.any fun k => v.quarterBusy k)
        if busy then .hold s.chip dr (some 32)
        else
          match target with
          | none => Drover.status s.chip dr1 d (failWord 1)
          | some (pg, _) => Drover.status (s.chip.dropPage n s.focus pg) dr1 d statusOk

/-- The OR of a page's cell flag bytes. -/
def Page.flags (g : Page) : Nat := (g.cst.foldl (fun f p => f ||| p.2.flags) (0 : BitVec 7)).toNat

/-- The result of PGSTAT (R175). -/
def Serai.pgstat (v : Serai) (q mode : Nat) : Word :=
  let k := v.condition q
  let h := mode % 4
  if 2 ≤ h then
    let bits := (List.range 32).foldl (fun m i =>
      m + (if (look v.banks (wingCell q (32 * (h - 2) + i))).any fun b => b.resident then 2 ^ i else 0)) 0
    BitVec.ofNat 64 (bits * 256 + k)
  else
    let c := ((v.qcause[q]?).getD 0).toNat * 2 ^ 8 + k
    match v.resident q with
    | none => BitVec.ofNat 64 c
    | some (pg, g) => BitVec.ofNat 64 (g.firings.toNat * 2 ^ 48 + pg * 2 ^ 24 + g.flags * 2 ^ 16 + c)

/-- PGSTAT (R175). -/
def execPgstat (d : BitVec 5) (q : BitVec 2) (s : State) : Host.Outcome State Fault Refusal :=
  s.commands (.pgstat d q) fun n dr =>
    dr.modeWord s.focus d fun mode dr1 =>
      Drover.status s.chip dr1 d ((s.chip.serai n).pgstat q.toNat mode.toNat)

/-! ## Weights (R176, R177) -/

/-- Formats of R46. -/
def weightFormats : List Nat := [0x00, 0x02, 0x14, 0x15, 0x18, 0x19]

/-- Columns of a weight format (R213). -/
def weightCols (fmt : Option (BitVec 6)) : Nat :=
  match fmt with
  | some f => if f = 0x02 ∨ f = 0x14 then 256 else 128
  | none => 128

/-- Whether a descriptor is outside the limits of R176. -/
def Desc.badTile (d : Desc) : Bool :=
  let n1 := (d.lev 1).count
  let n2 := (d.lev 2).count
  d.rank != 2 || d.rlev != 0 || d.glev != 0 || !weightFormats.contains d.fmt || n1 == 0 || decide (512 < n1) || n2 == 0 ||
    decide ((if widthOf d.fmt = 4 then 256 else 128) < n2)

/-- The tile's positions in walk order: K index, column, and element position; none for a padded one (R59). -/
def Desc.tile (d : Desc) : List (Nat × Nat × Option Int) :=
  (List.range (d.lev 2).count).flatMap fun j => (List.range (d.lev 1).count).map fun k =>
    let a := (d.lev 1).spot k
    let b := (d.lev 2).spot j
    let bare := (d.lev 1).ext == 0 || (d.lev 2).ext == 0
    (k, j, if (a.out || b.out) && (d.zpad || bare) then none else some (a.c * (d.lev 1).stride + b.c * (d.lev 2).stride))

/-- Whether a cell of a resident page uses a bank through an operation that reads or writes it (R176). -/
def Serai.bankUsed (v : Serai) (cell : Nat) : Bool :=
  v.pages.any fun p => match p.2.quarter with
    | none => false
    | some q => p.2.cells.zipIdx.any fun w => w.1 != 0 && wingCell q w.2 == cell && (cellOf w.1).op.hasBank && (cellOf w.1).op != .cim

/-- The first page of a tile that may not be read: cause and address. -/
def Chip.tileFault (c : Chip) (u : Nat) (d : Drover) (ds : Desc) : List (Nat × Nat × Option Int) → Option (Nat × Nat)
  | [] => none
  | (_, _, none) :: r => c.tileFault u d ds r
  | (_, _, some p) :: r =>
    match (touches ds p false).findSome? fun va => match c.engineLeaf u d va .read with
      | .bad k a => some (k, a)
      | _ => none with
    | some e => some e
    | none => c.tileFault u d ds r

/-- How the reading of a tile stands. -/
inductive TileEnd where
  /-- It goes on. -/
  | going
  /-- A line of another module is awaited, or an access that comes before. -/
  | waits
  /-- Data is lost, or its page has another format (R52, R176; log 82). -/
  | lost
  /-- XLATE or PERM. -/
  | bad (cause va : Nat)
  /-- RACE (R273). -/
  | raced (r : Race) (va : Nat)
  deriving DecidableEq, Repr

/-- A tile being read: positions passed; K index, column, element bits and scale byte of each element; and the chunks held. -/
structure TileRead where
  c : Chip
  passed : Nat
  elems : List (Nat × Nat × Nat × Nat)
  got : List ReadChunk
  stands : TileEnd

/-- The memory end of a WLOAD: an access of its drover (R273). -/
def Drover.tileEnd (d : Drover) (u fmt : Nat) : MemEnd :=
  { u := u, d := d, agent := blockAgent u + 3, me := u, cls := 0, clk := d.clk, fmt := fmt, okind := 1, setTag := false, held := [] }

/-- Whether an older access of the drover to a chunk is still to be performed, or an older acquire (S5 of R268). -/
def Drover.before (d : Drover) (chunk : Nat) : Bool :=
  d.mem.accs.any fun a => a.phase != .replied && ((a.placed && a.va / 64 == chunk) || a.acq)

/-- The chunks of an element read, where they are not held. -/
def TileRead.fetch (m : MemEnd) : List Nat → TileRead → TileRead
  | [], s => s
  | k :: r, s =>
    if s.stands ≠ .going then s
    else if s.got.any fun g => g.chunk == k then TileRead.fetch m r s
    else if m.d.before k then { s with stands := .waits }
    else
      match s.c.endChunk m k with
      | .ok g c _ => TileRead.fetch m r { s with c := c, got := s.got ++ [g] }
      | .wait c => { s with c := c, stands := .waits }
      | .stop _ (some (x, va)) => { s with stands := .raced x va }
      | .stop e none => { s with stands := if e = 0x48 then .lost else .bad e (64 * k) }

/-- The tile's elements and scales, each read once and in order (R246), from the position that stands first in the list. -/
def TileRead.run (m : MemEnd) (ds : Desc) : List (Nat × Nat × Option Int) → TileRead → TileRead
  | [], s => s
  | (_, _, none) :: r, s => TileRead.run m ds r { s with passed := s.passed + 1 }
  | (k, j, some p) :: r, s =>
    let needs := ds.needs p
    let s := TileRead.fetch m needs { s with got := turnTo s.got needs }
    if s.stands ≠ .going then s
    else
      let (va, sh, n) := elemSpan ds.fmt ds.base p
      match drawn s.got va n, if isMX ds.fmt then drawn s.got (scaleAt ds.fmt ds.base p) 1 else ([127], none) with
      | (b, none), (t, none) =>
        TileRead.run m ds r
          { s with passed := s.passed + 1, elems := s.elems ++ [(k, j, natOfBytes b / 2 ^ sh % 2 ^ widthOf ds.fmt, natOfBytes t)] }
      | _, _ => { s with stands := .lost }

/-- Whether a format's scale 0xFF makes its block zeros (R47). -/
def zeroOnNan (fmt scale : Nat) : Bool := scale == 0xFF && (fmt == 0x15 || fmt == 0x19)

/-- The bytes of a bank that holds a tile (R176): positions outside it are zero weights, whose encoding is that of R65. -/
def tileBytes (fmt : Nat) (elems : List (Nat × Nat × Nat × Nat)) : List Byte :=
  (List.range 512).flatMap fun k =>
    let row := elems.filter fun e => e.1 == k
    let at' := fun (j : Nat) => match row.find? fun e => e.2.1 == j with
      | some (_, _, b, s) => if zeroOnNan fmt s then zeroElem fmt else b
      | none => zeroElem fmt
    (List.range 128).map fun o =>
      BitVec.ofNat 8 (if widthOf fmt = 4 then at' (2 * o) + 16 * at' (2 * o + 1) else at' o)

/-- The column exponent of a block (R46); none for a block recorded as NaN. -/
def blockExp (fmt scale : Nat) : Option Int :=
  if scale = 0xFF then (if fmt = 0x14 then none else some 0)
  else some ((scale : Int) - (if fmt = 0x19 then 127 else if fmt = 0x15 then 133 else 128))

/-- The scale store of a tile: by 512 × column + block. -/
def tileExps (fmt : Nat) (elems : List (Nat × Nat × Nat × Nat)) : SMap (Option Int) :=
  if !isMX fmt then []
  else elems.foldl (fun m e =>
    let key := 512 * e.2.1 + e.1 / 32
    if (look m key).isSome then m else put m key (blockExp fmt e.2.2.2)) []

/-- n bytes that nothing constrains (log 6). -/
def Chip.freeBytes (c : Chip) (n : Nat) : List Byte × Chip :=
  ((List.range n).flatMap fun i => leBytes (Config.freeWord (c.free + i)).toNat 8, { c with free := c.free + n })

/-- WLOAD (R176): precise faults before the bank changes; lost data leaves the bank undefined. SCALEOFF of its descriptor is ignored: the
scales are read (log 83). -/
def execWload (d : BitVec 5) (m : BitVec 4) (b : BitVec 5) (s : State) : Host.Outcome State Fault Refusal :=
  s.commands (.wload d m b) fun n dr =>
    unlessStall (dr.srcStall [b]) <| unlessStall (dr.dstStall d) <|
      dr.useDesc m fun desc =>
        (dr.readX s.focus b).bind fun (x, dr1) =>
          let ds := descOf desc
          let cell := x.toNat % 256
          let v := s.chip.serai n
          if 256 ≤ x.toNat then Drover.status s.chip dr1 d (failWord 21)
          else if v.quarterBusy (quarterOf cell) then .hold s.chip dr (some 32)
          else
            match ds.check with
            | some (k, l) => Drover.status s.chip dr1 d (statusWord k l 0)
            | none =>
              if ds.badTile then Drover.status s.chip dr1 d (failWord 25)
              else if v.bankUsed cell then Drover.status s.chip dr1 d (failWord 1)
              else
                match s.chip.tileFault s.focus dr ds ds.tile with
                | some (k, a) => .trap (dr.trapAt k (BitVec.ofNat 64 a)) dr
                | none =>
                  let m := dr.tileEnd s.focus ds.fmt
                  let t0 : TileRead := match dr.hold with
                    | .tile passed elems got => { c := s.chip, passed := passed, elems := elems, got := got, stands := .going }
                    | _ => { c := s.chip.dropFar m.agent, passed := 0, elems := [], got := [], stands := .going }
                  let t := TileRead.run m { ds with scaleOff := false } (ds.tile.drop t0.passed) t0
                  let base := bankAddr n cell 0
                  let fill := fun (bs : List Byte) (k : Bank) (c : Chip) =>
                    (c.onHomes fun h => (h.writeLong base 32 bs).clearBad base 65536).onSerai n fun v =>
                      { v with banks := put v.banks cell k }
                  match t.stands with
                  | .waits => .hold t.c { dr with hold := .tile t.passed t.elems t.got } (some 32)
                  | .bad k a => .trap (dr.trapAt k (BitVec.ofNat 64 a)) dr
                  | .raced r a => .trap { dr.trapAt 0x0E (BitVec.ofNat 64 a) with aux0 := s.chip.raceWord r } dr
                  | .lost =>
                    let (bs, c) := (t.c.dropFar m.agent).freeBytes 8192
                    Drover.status (fill bs { resident := false, fmt := none, exps := [] } c) dr1 d (failWord 37)
                  | .going =>
                    let nan := t.elems.any fun e => zeroOnNan ds.fmt e.2.2.2
                    Drover.status
                      (fill (tileBytes ds.fmt t.elems)
                        { resident := true, fmt := some (BitVec.ofNat 6 ds.fmt), exps := tileExps ds.fmt t.elems } t.c)
                      dr1 d (statusWord 0 (if nan then 0x40 else 0) 0)

/-- WDROP (R177): given to the quarter that holds the cell, so an unconfigured one refuses it (R15). -/
def execWdrop (d b : BitVec 5) (s : State) : Host.Outcome State Fault Refusal :=
  s.commands (.wdrop d b) fun n dr =>
    unlessStall (dr.srcStall [b]) <| unlessStall (dr.dstStall d) <|
      (dr.readX s.focus b).bind fun (x, dr1) =>
        let cell := x.toNat % 256
        let v := s.chip.serai n
        if 256 ≤ x.toNat then Drover.status s.chip dr1 d (failWord 21)
        else if v.quarterBusy (quarterOf cell) then .hold s.chip dr (some 32)
        else if v.condition (quarterOf cell) = 0 then Drover.status s.chip dr1 d (failWord 1)
        else if !s.chip.bankResident n cell then Drover.status s.chip dr1 d (failWord 26)
        else
          let lo := bankAddr n cell 0 / 8
          let c := s.chip.onHomes fun h =>
            { h with tags := h.tags.filter fun k => decide (k < lo ∨ lo + 8192 ≤ k),
                     badTags := h.badTags.filter fun k => decide (k < lo ∨ lo + 8192 ≤ k) }
          Drover.status (c.onSerai n fun v => { v with banks := upd v.banks cell fun k => { k with resident := false } })
            dr1 d statusOk

/-! ## WPOKE (R178) -/

/-- A directive code that is assigned (R24). -/
def directiveOk (k : Nat) : Bool := 1 ≤ k && k ≤ 0x0D

/-- WPOKE (R178). -/
def execWpoke (d : BitVec 5) (q : BitVec 2) (b : BitVec 5) (s : State) : Host.Outcome State Fault Refusal :=
  s.commands (.wpoke d q b) fun n dr =>
    unlessStall (dr.srcStall [b]) <| unlessStall (dr.dstStall d) <|
      (dr.readX s.focus b).bind fun (x, dr1) =>
        let v := s.chip.serai n
        let code := x.toNat % 256
        let i := x.toNat / 256 % 8
        if v.condition q.toNat = 3 then .hold s.chip dr (some 32)
        else if 2048 ≤ x.toNat then Drover.status s.chip dr1 d (failWord 21)
        else if !directiveOk code then Drover.status s.chip dr1 d (failWord 12)
        else
          match v.resident q.toNat with
          | none => Drover.status s.chip dr1 d (failWord 1)
          | some (pg, g) =>
            if !g.portalIs i false then Drover.status s.chip dr1 d (failWord 14)
            else
              match g.offer s.cycle wpokePlace i (Token.directive code) with
              | none => .hold s.chip dr (some 32)
              | some g => Drover.status (s.chip.onSerai n fun v => { v with pages := put v.pages pg g }) dr1 d statusOk

end Sys2Proof.Machine
end

