-- ==== Sys2Proof/Machine/Cells.lean ====
section
/-!
DEFINITION. What a cell computes (R196 to R214): lane arithmetic, conversions, reductions, the matrix cells and the
accumulating cells, as functions of a cell's word, its registers, its bank and the tokens that it takes.
-/

namespace Sys2Proof.Machine

/-! ## Where a cell stands, and what it sees of its bank -/

/-- A cell's place and word. -/
structure Seat where
  n : Nat
  q : Nat
  i : Nat
  pg : Nat
  w : CellWord
  deriving DecidableEq, Repr

/-- A cell's view of its own bank: bytes and tags by offset, weight residency, weight format, and column exponents. -/
structure BankView where
  resident : Bool
  fmt : Option (BitVec 6)
  byte : Nat → Nat
  full : Nat → Bool
  eb : Nat → Nat → Option Int

/-- What a step of a cell does: its registers after, the tokens that it emits in order, the cause of the last poison that
it created, and what it does to its bank: bytes by offset, and tags by the offset of their words. -/
structure Fire where
  cell : Cell
  toks : List Token
  cause : Option Nat
  writes : List (Nat × List Byte)
  tags : List (Nat × Bool)
  deriving DecidableEq, Repr

/-- A step that leaves the bank alone. -/
def Fire.of (s : Cell) (toks : List Token) : Fire := { cell := s, toks := toks, cause := none, writes := [], tags := [] }

/-- Origin record of poison that a cell creates (R25, R224): the cell's number within the wing, as R25 lays the field out (log 40). -/
def Seat.origin (st : Seat) (cause : Nat) (pos : BitVec 24) : Word :=
  originRecord 0 st.n (wingCell st.q st.i) st.pg cause (pos.toNat % 4096) (pos.toNat / 4096)

/-- A POISON token that a cell creates. -/
def Seat.poison (st : Seat) (cause : Nat) (mask : BitVec 32) (pos : BitVec 24) : Token :=
  (Token.poison (st.origin cause pos) mask).placed pos

/-- A step whose outcome is new poison. -/
def Seat.spoil (st : Seat) (s : Cell) (cause : Nat) (mask : BitVec 32) (pos : BitVec 24) : Fire :=
  { Fire.of s [st.poison cause mask pos] with cause := some cause }

/-! ## Lanes -/

/-- The mask with every lane of a format valid (R22). -/
def fullMask (fmt : Nat) : BitVec 32 :=
  let n := lanesOf fmt
  BitVec.ofNat 32 (2 ^ (if widthOf fmt ≤ 6 then n / 2 else n) - 1)

/-- The token of a constant input (R78): const truncated to the lane width in every lane. -/
def CellWord.constToken (w : CellWord) : Token :=
  let wd := widthOf w.fmt
  { kind := 0, level := 0, mask := fullMask w.fmt,
    payload := (List.range (lanesOf w.fmt)).foldl (fun p i => setLane p wd i w.const) 0 }

/-- A payload from the lanes of a width that a mask leaves valid; the others are zero (R201). -/
def fillLanes (wd n : Nat) (mask : BitVec 32) (f : Nat → Nat × BitVec 7) : BitVec 256 × BitVec 7 :=
  (List.range n).foldl (fun (p : BitVec 256 × BitVec 7) i =>
    if mask.getLsbD (laneBit wd i) then (setLane p.1 wd i (f i).1, p.2 ||| (f i).2) else p) (0, 0)

/-- A DATA token of lanes of 32 bits from lane 0, with all of them valid. -/
def token32 (l : List Nat) : Token :=
  { kind := 0, level := 0, mask := BitVec.ofNat 32 (2 ^ l.length - 1),
    payload := l.zipIdx.foldl (fun p x => setLane p 32 x.2 x.1) 0 }

/-- A DATA token with one value in lane 0 of a width, mask bit 0 alone set. -/
def tokenOne (wd bits : Nat) : Token := { kind := 0, level := 0, mask := 1, payload := setLane 0 wd 0 bits }

/-- Valid lanes of a token: lane number and bits. -/
def Token.lanes (t : Token) (fmt : Nat) : List (Nat × Nat) :=
  (List.range (lanesOf fmt)).filterMap fun i =>
    if t.valid (widthOf fmt) i then some (i, laneBits t.payload (widthOf fmt) i) else none

/-- The element kind of a format, INT8 for a reserved code. -/
def elemKind (fmt : Nat) : Elem := ((elemOf fmt).getD (.sint 8, false)).1

/-! ## Elementwise operations (R203, R204) -/

/-- One lane of an elementwise operation on up to three operands. -/
def laneOp (op : CellOp) (e : Elem) (m : RMode) (sh a b c : Nat) : Nat × BitVec 7 :=
  let wd := e.width
  let wrap := fun (v : Int) => (natOfInt wd v, (0 : BitVec 7))
  let ones := fun (t : Bool) => ((if t then 2 ^ wd - 1 else 0), (0 : BitVec 7))
  let cmp := (e.val a).cmp (e.val b)
  match op with
  | .and => (a &&& b, 0)
  | .or => (a ||| b, 0)
  | .xor => (a ^^^ b, 0)
  | .not => (2 ^ wd - 1 - a % 2 ^ wd, 0)
  | .sel => (if a % 2 = 1 then b else c, 0)
  | .shl => (a * 2 ^ (sh % wd) % 2 ^ wd, 0)
  | .shr => (a / 2 ^ (sh % wd), 0)
  | .sar => (natOfInt wd (intOf wd a / (2 ^ (sh % wd) : Nat)), 0)
  | .cmpeq => ones (cmp == some 0)
  | .cmplt => ones (cmp == some (-1))
  | .cmple => ones (cmp == some 0 || cmp == some (-1))
  | _ =>
    match e with
    | .flt f =>
      let enc := fun (mode : RMode) (r : FVal × BitVec 7) =>
        let x := f.encode f.over mode r.1
        (x.1, r.2 ||| x.2)
      (match op with
        | .add => f.addBits f.over m a b
        | .sub => enc m ((f.decode a).add m (f.decode b).neg)
        | .mul => f.mulBits f.over m a b
        | .fma => f.fmaBits f.over m a b c
        | .neg => enc m ((f.decode a).neg, 0)
        | .abs => enc m (if (f.decode a).sign then (f.decode a).neg else f.decode a, 0)
        | .min => enc m (FVal.lesser (f.decode a) (f.decode b), 0)
        | .max => enc m (FVal.greater (f.decode a) (f.decode b), 0)
        | .recip => enc m (FVal.div f.prec (ofInt 1) (f.decode a))
        | .rsqrt => enc m ((f.decode a).rsqrt f.prec)
        | .exp2 => enc .rne ((f.decode a).exp2, 0)
        | .log2 => enc .rne (f.decode a).log2
        | _ => (a, 0))
    | _ =>
      let x := e.int a
      let y := e.int b
      match op with
      | .add => wrap (x + y)
      | .sub => wrap (x - y)
      | .mul => wrap (x * y)
      | .neg => wrap (-x)
      | .abs => wrap x.natAbs
      | .min => wrap (min x y)
      | .max => wrap (max x y)
      | _ => (a, 0)

/-- An elementwise firing (R201). -/
def Cell.elementwise (s : Cell) (w : CellWord) (ins : List Token) : Fire :=
  let wd := widthOf w.fmt
  let mask := ins.foldl (fun m t => m &&& t.mask) (fullMask w.fmt)
  let at' := fun (k i : Nat) => match ins[k]? with
    | some t => laneBits t.payload wd i
    | none => 0
  let (p, fl) := fillLanes wd (lanesOf w.fmt) mask fun i =>
    laneOp w.op (elemKind w.fmt) (modeOf w.rnd) (w.const % 64) (at' 0 i) (at' 1 i) (at' 2 i)
  Fire.of { s with flags := s.flags ||| fl } [{ kind := 0, level := 0, mask := mask, payload := p }]

/-! ## Data movement (R205) -/

/-- The tokens of a data-movement firing on its first operand. -/
def moveTokens (w : CellWord) (t : Token) : List Token :=
  let wd := widthOf w.fmt
  let n := lanesOf w.fmt
  let pick := fun (src : Nat → Nat) =>
    let mask := (List.range n).foldl (fun m i => if t.valid wd (src i) then setMask m wd i else m) (0 : BitVec 32)
    ({ kind := 0, level := 0, mask := mask,
       payload := (List.range n).foldl (fun p i => setLane p wd i (laneBits t.payload wd (src i))) 0 } : Token)
  match w.op with
  | .const =>
    [{ kind := 0, level := 0, mask := t.mask,
       payload := (List.range n).foldl (fun p i => setLane p wd i w.const) 0 }]
  | .mask =>
    let m := t.mask &&& BitVec.ofNat 32 w.const &&& fullMask w.fmt
    let gone := fillLanes wd n (t.mask &&& ~~~m) fun i => (laneBits t.payload wd i, 0)
    [{ t with mask := m, payload := t.payload &&& ~~~gone.1 }]
  | .shuf => [pick fun i => ((i + w.const / 256 % 64) % n) ^^^ (w.const % 64)]
  | .bcast =>
    [{ kind := 0, level := 0, mask := if t.mask.getLsbD 0 then fullMask w.fmt else 0,
       payload := (List.range n).foldl (fun p i => setLane p wd i (laneBits t.payload wd 0)) 0 }]
  | .dup => [pick fun i => i / 2, pick fun i => n / 2 + i / 2]
  | _ => [t]

/-! ## CVT, EXPAND and PACK (R206 to R208) -/

/-- Values laid into tokens of a destination format, from lane 0 of each: a pair is valid when its lower lane is. -/
def layOut (fmt : Nat) (vals : List (Option (Nat × BitVec 7))) : List Token × BitVec 7 :=
  let wd := widthOf fmt
  let nd := lanesOf fmt
  let one := fun (l : List (Option (Nat × BitVec 7))) =>
    let at' := fun (i : Nat) => (l[i]?).getD none
    let low := fun (i : Nat) => if wd ≤ 6 then i / 2 * 2 else i
    let mask := (List.range nd).foldl (fun m i => if (at' i).isSome && low i == i then setMask m wd i else m) (0 : BitVec 32)
    let r := (List.range nd).foldl (fun (p : BitVec 256 × BitVec 7) i =>
      match at' i with
      | some (b, fl) => (setLane p.1 wd i b, p.2 ||| fl)
      | none => p) (0, 0)
    (({ kind := 0, level := 0, mask := mask, payload := r.1 } : Token), r.2)
  let parts := (List.range ((vals.length + nd - 1) / nd)).map fun t => one ((vals.drop (t * nd)).take nd)
  (parts.map (·.1), parts.foldl (fun f p => f ||| p.2) 0)

/-- CVT (R206). -/
def Cell.convert (s : Cell) (w : CellWord) (t : Token) : Fire :=
  let src := w.const % 64
  let e := elemKind src
  let vals := (List.range (lanesOf src)).map fun i =>
    if t.valid (widthOf src) i then
      some ((elemKind w.fmt).enc (modeOf w.rnd) (bitOf w.const 6) (e.val (laneBits t.payload (widthOf src) i)))
    else none
  let (toks, fl) := layOut w.fmt vals
  Fire.of { s with flags := s.flags ||| fl } toks

/-- The scale that an input has latched for a slot (R198). -/
def Cell.scale (s : Cell) (input slot : Nat) : Nat := ((look s.scales (2 * input + slot)).getD 0x7F).toNat

/-- The value of an element of a format without its scale: MXINT8 integers count in units of 2^−6 (R36). -/
def elementVal (fmt bits : Nat) : FVal :=
  if fmt = 0x15 then
    (match ofInt (intOf 8 bits) with
      | .fin s m _ => .fin s m (-6)
      | v => v)
  else (elemKind fmt).val bits

/-- A value times an E8M0 scale that is not NaN (R36). -/
def FVal.scaled (v : FVal) (e : Nat) : FVal :=
  match v with
  | .fin s m x => .fin s m (x + e - 127)
  | v => v

/-- EXPAND (R207). -/
def Cell.expand (s : Cell) (w : CellWord) (t : Token) : Fire :=
  let e := elemKind w.fmt
  let vals := (List.range (lanesOf w.fmt)).map fun i =>
    if !t.valid (widthOf w.fmt) i then none
    else
      let b := laneBits t.payload (widthOf w.fmt) i
      if e.isInt && !isMX w.fmt then some (natOfInt 32 (e.int b), 0)
      else
        let k := if isMX w.fmt then s.scale 0 (i / 32) else 127
        if k = 255 then (if e.isInt then some (0, flagSCALENAN) else some (fp32.nanBits, 0))
        else some (fp32.encode .ieee (modeOf w.rnd) ((elementVal w.fmt b).scaled k))
  let (toks, fl) := layOut 0x04 vals
  Fire.of { s with flags := s.flags ||| fl } toks

/-- Exponent of the largest power of two in an element format (R43). -/
def mxEmax (fmt : Nat) : Int :=
  match fmt with
  | 0x10 => 8
  | 0x11 => 15
  | 0x12 => 2
  | 0x13 => 4
  | 0x14 => 2
  | 0x15 => 0
  | _ => 7

/-- floor(log2) of a finite value that is not zero. -/
def floorLog2 (m : Nat) (e : Int) : Int := e + bitLen m - 1

/-- The largest floor(log2) among finite values that are not zero. -/
def topLog2 (l : List FVal) : Option Int :=
  l.foldl (fun a v => match v with
    | .fin _ m e => if m = 0 then a else
      (match a with
        | none => some (floorLog2 m e)
        | some x => some (max x (floorLog2 m e)))
    | _ => a) none

/-- A block encoded in an MX format (R43): scale byte, and the elements' bits with flags. -/
def mxBlock (fmt : Nat) (m : RMode) (l : List FVal) : Nat × List (Nat × BitVec 7) :=
  if l.any fun v => match v with
    | .fin _ _ _ => false
    | _ => true
  then (0xFF, l.map fun _ => (0, 0))
  else
    let x : Int := match topLog2 l with
      | none => 0
      | some t => satInt (t - mxEmax fmt) (-127) 127
    let shift := fun (v : FVal) (k : Int) => match v with
      | .fin s n e => FVal.fin s n (e + k)
      | v => v
    ((x + 127).toNat, l.map fun v =>
      match elemKind fmt with
      | .flt f => f.encode f.over m (shift v (-x))
      | .d2s => (shift v (-x)).toD2S
      | _ =>
        let (i, fl) := (shift v (6 - x)).toInt m (-128) 127
        (natOfInt 8 i, fl))

/-- A token packed from at most one token's worth of FP32 values (R208): the tokens and flags. -/
def packToken (w : CellWord) (held : List (BitVec 32)) : List Token × BitVec 7 :=
  let n := lanesOf w.fmt
  let wd := widthOf w.fmt
  let vals := held.map fun b => fp32.decode b.toNat
  let finish := fun (bits : List (Nat × BitVec 7)) =>
    let body := layOut w.fmt (bits.map some)
    let pad := (List.range n).foldl (fun p i => if bits.length ≤ i then setLane p wd i (zeroElem w.fmt) else p) (0 : BitVec 256)
    (body.1.map fun t => { t with payload := t.payload ||| pad }, body.2)
  if isMX w.fmt then
    let b0 := mxBlock w.fmt (modeOf w.rnd) (vals.take 32)
    let b1 := mxBlock w.fmt (modeOf w.rnd) (vals.drop 32)
    let two := 32 < held.length
    let sc : Token := { kind := 2, level := 0, mask := if two then 3 else 1,
                        payload := BitVec.ofNat 256 (b0.1 + (if two then 256 * b1.1 else 0)) }
    let (d, fl) := finish (b0.2 ++ (if two then b1.2 else []))
    (sc :: d, fl)
  else finish (vals.map fun v => (elemKind w.fmt).enc (modeOf w.rnd) false v)

/-- Full tokens taken from PACK's buffer. -/
def Cell.packFull (w : CellWord) : Nat → Cell → List Token → Cell × List Token
  | 0, s, acc => (s, acc)
  | f + 1, s, acc =>
    let n := lanesOf w.fmt
    if s.buf.length < n then (s, acc)
    else
      let (t, fl) := packToken w (s.buf.take n)
      Cell.packFull w f { s with buf := s.buf.drop n, flags := s.flags ||| fl } (acc ++ t)

/-- PACK takes a token of FP32 lanes. -/
def Cell.packIn (s : Cell) (w : CellWord) (t : Token) : Fire :=
  let s1 := { s with buf := s.buf ++ (t.lanes 0x08).map fun x => BitVec.ofNat 32 x.2 }
  let (s2, toks) := Cell.packFull w 8 s1 []
  Fire.of s2 toks

/-- PACK's partial buffer emitted. -/
def Cell.packRest (s : Cell) (w : CellWord) : Cell × List Token :=
  if s.buf = [] then (s, [])
  else
    let (t, fl) := packToken w s.buf
    ({ s with buf := [], flags := s.flags ||| fl }, t)

/-! ## Reductions and scans (R209 to R211) -/

/-- Element kind of an accumulator (R209, R210). -/
def CellWord.accKind (w : CellWord) : Elem :=
  match w.op with
  | .redmax | .redmin => elemKind w.fmt
  | .redsum | .scan =>
    if w.fmt = 5 then .sint 64
    else
      (match elemKind w.fmt with
        | .flt _ => .flt fp32
        | _ => .sint 32)
  | _ => .flt fp32

/-- Lowest or highest value of a format, the identity of REDMAX or REDMIN. -/
def extreme (e : Elem) (lowest : Bool) : Nat :=
  match e with
  | .flt f => f.infBits lowest
  | e => natOfInt e.width (if lowest then e.limits.1 else e.limits.2)

/-- The accumulator's identity. -/
def CellWord.identity (w : CellWord) : Nat :=
  match w.op with
  | .redmax => extreme (elemKind w.fmt) true
  | .redmin => extreme (elemKind w.fmt) false
  | _ => 0

/-- A cell as PGLOAD leaves it. -/
def Cell.fresh (w : CellWord) : Cell :=
  { out := none, emit := [], lastMark := 0, flags := 0, scales := [], poison := none, acc := BitVec.ofNat 64 w.identity,
    seenNan := false, seenVal := false, segStart := false, pairs := [], n := 0, k := 0, block := [], blockScale := 0x7F,
    accs := [], noWeight := false, krange := false, buf := [], h := false, slot := 0 }

/-- The accumulator at its identity, nothing seen. -/
def Cell.cleared (s : Cell) (w : CellWord) : Cell :=
  { s with acc := BitVec.ofNat 64 w.identity, seenNan := false, seenVal := false, segStart := false, pairs := [], n := 0 }

/-- The exact sum of values from the left; nothing sums to +0. -/
def sumVals : List FVal → FVal × BitVec 7
  | [] => (.fin false 0 0, 0)
  | v :: l => l.foldl (fun (a : FVal × BitVec 7) x => let r := a.1.add .rne x; (r.1, a.2 ||| r.2)) (v, 0)

/-- An FP32 accumulator with an exact value added (R209, R48): the value is rounded first. -/
def accAdd (acc : Nat) (t : FVal × BitVec 7) : Nat × BitVec 7 :=
  let r := fp32.encode .ieee .rne t.1
  let x := fp32.addBits .ieee .rne acc r.1
  (x.1, t.2 ||| r.2 ||| x.2)

/-- A data firing of REDSUM, REDMAX or REDMIN. -/
def Cell.reduce (s : Cell) (w : CellWord) (t : Token) : Cell :=
  let e := elemKind w.fmt
  let l := t.lanes w.fmt
  match w.op, e with
  | .redsum, .flt f =>
    let (a, fl) := accAdd s.acc.toNat (sumVals (l.map fun x => f.decode x.2))
    { s with acc := BitVec.ofNat 64 a, flags := s.flags ||| fl }
  | .redsum, e =>
    let k := w.accKind.width
    { s with acc := BitVec.ofNat 64 (natOfInt k (l.foldl (fun a x => a + e.int x.2) (intOf k s.acc.toNat))) }
  | op, .flt f =>
    l.foldl (fun (s : Cell) x =>
      match f.decode x.2 with
      | .nan => { s with seenNan := true }
      | v =>
        let a := f.decode s.acc.toNat
        let b := if op = .redmax then FVal.greater a v else FVal.lesser a v
        { s with seenVal := true, acc := BitVec.ofNat 64 (f.encode .ieee .rne b).1 }) s
  | op, e =>
    l.foldl (fun (s : Cell) x =>
      let a := e.int s.acc.toNat
      let b := if op = .redmax then max a (e.int x.2) else min a (e.int x.2)
      { s with acc := BitVec.ofNat 64 (natOfInt e.width b) }) s

/-- The value that a reduction emits. -/
def Cell.reduced (s : Cell) (w : CellWord) : Nat :=
  match w.op, w.accKind with
  | .redmax, .flt f => if s.seenNan && !s.seenVal then f.nanBits else s.acc.toNat
  | .redmin, .flt f => if s.seenNan && !s.seenVal then f.nanBits else s.acc.toNat
  | _, _ => s.acc.toNat

/-- An emission's tokens, each replaced by the record of a poisoned state, which is then clear (R200). -/
def Cell.releasing (s : Cell) (toks : List Token) : Cell × List Token :=
  match s.poison with
  | none => (s, toks)
  | some o => ({ s with poison := none }, toks.map fun t => Token.poison o t.mask)

/-- A SCAN firing (R210); each firing emits, and so releases a poisoned state (R200). -/
def Cell.scan (s : Cell) (w : CellWord) (t : Token) : Fire :=
  let e := elemKind w.fmt
  let wd := widthOf w.fmt
  let k := w.accKind.width
  let (s, p) := (t.lanes w.fmt).foldl (fun (a : Cell × BitVec 256) x =>
    let s := if a.1.segStart then { a.1 with acc := 0, segStart := false } else a.1
    let (r, fl) := match e with
      | .flt f => fp32.addBits .ieee .rne s.acc.toNat (fp32.encode .ieee .rne (f.decode x.2)).1
      | e => (natOfInt k (intOf k s.acc.toNat + e.int x.2), 0)
    let (o, fo) := e.enc (modeOf w.rnd) false (w.accKind.val r)
    ({ s with acc := BitVec.ofNat 64 r, flags := s.flags ||| fl ||| fo }, setLane a.2 wd x.1 o)) (s, 0)
  let (s, toks) := s.releasing [{ t with payload := p }]
  Fire.of s toks

/-- Whether value a beats b strictly, both in a format. -/
def beats (e : Elem) (a b : Nat) : Bool := (e.val a).cmp (e.val b) == some 1

/-- A pair put among the best, those of lower index before equals, at most m kept. -/
def offerPair (e : Elem) (m : Nat) (v : BitVec 64) (i : BitVec 32) (l : List (BitVec 64 × BitVec 32)) :
    List (BitVec 64 × BitVec 32) :=
  let ahead := l.takeWhile fun p => !beats e v.toNat p.1.toNat
  (ahead ++ (v, i) :: l.drop ahead.length).take m

/-- A data firing of ARGMAX or TOPK8 (R211). -/
def Cell.rank (s : Cell) (w : CellWord) (t : Token) : Cell :=
  let e := elemKind w.fmt
  (t.lanes w.fmt).foldl (fun (s : Cell) x =>
    let s1 := { s with n := s.n + 1 }
    match e.val x.2 with
    | .nan => s1
    | _ => { s1 with pairs := offerPair e (if w.op = .argmax then 1 else 8) (BitVec.ofNat 64 x.2) s.n s.pairs }) s

/-- A value of a format as FP32 or INT32, exactly. -/
def widen32 (e : Elem) (bits : Nat) : Nat :=
  match e with
  | .flt f => (fp32.encode .ieee .rne (f.decode bits)).1
  | e => natOfInt 32 (e.int bits)

/-- The tokens that ARGMAX or TOPK8 emits for held pairs. -/
def rankTokens (w : CellWord) (pairs : List (BitVec 64 × BitVec 32)) : List Token :=
  let e := elemKind w.fmt
  if w.op = .argmax then
    (match pairs with
      | p :: _ => [token32 [widen32 e p.1.toNat, p.2.toNat]]
      | [] => [token32 [widen32 e (extreme e true), 0xFFFFFFFF]])
  else [token32 (pairs.map fun p => widen32 e p.1.toNat), token32 (pairs.map fun p => p.2.toNat)]

/-! ## DOT (R48, R212) -/

/-- An operand of DOT: element times latched scale, rounded to FP32. -/
def Cell.dotIn (s : Cell) (w : CellWord) (input : Nat) (t : Token) (i : Nat) : FVal × BitVec 7 :=
  let k := if isMX w.fmt then s.scale input (i / 32) else 127
  if k = 255 then (.nan, 0)
  else
    let r := fp32.encode .ieee .rne ((elementVal w.fmt (laneBits t.payload (widthOf w.fmt) i)).scaled k)
    (fp32.decode r.1, r.2)

/-- Neighbours of a list added in pairs. -/
def pairSum : List (FVal × BitVec 7) → List (FVal × BitVec 7)
  | a :: b :: l => let r := a.1.add .rne b.1; (r.1, a.2 ||| b.2 ||| r.2) :: pairSum l
  | l => l

/-- The pairwise tree sum, in at most n rounds. -/
def treeSum : Nat → List (FVal × BitVec 7) → FVal × BitVec 7
  | _, [] => (.fin false 0 0, 0)
  | _, [a] => a
  | 0, a :: _ => a
  | n + 1, l => treeSum n (pairSum l)

/-- Whether DOT has latched a NaN scale on either channel (R48). -/
def Cell.dotNan (s : Cell) (w : CellWord) : Bool :=
  isMX w.fmt && (List.range ((lanesOf w.fmt + 31) / 32)).any fun k => s.scale 0 k == 255 || s.scale 1 k == 255

/-- A data firing of DOT. -/
def Cell.dotFire (s : Cell) (w : CellWord) (a b : Token) : Cell :=
  let wd := widthOf w.fmt
  let ps := (List.range (lanesOf w.fmt)).map fun i =>
    if a.valid wd i && b.valid wd i then
      let x := s.dotIn w 0 a i
      let y := s.dotIn w 1 b i
      let r := x.1.mul y.1
      (r.1, x.2 ||| y.2 ||| r.2)
    else (FVal.fin false 0 0, 0)
  let sum := treeSum 6 ps
  let (r, fl) := accAdd s.acc.toNat (if s.dotNan w then (.nan, sum.2) else sum)
  { s with acc := BitVec.ofNat 64 r, flags := s.flags ||| fl }

/-! ## CIM (R45 to R47, R213) -/

/-- The integer that a weight's bits stand for (R46). -/
def weightInt (fmt bits : Nat) : Int :=
  match fmt with
  | 0x14 =>
    (match e2m1.decode bits with
      | .fin s m e => scaled s m (e + 1) 0
      | _ => 0)
  | 0x18 => d2sVal bits
  | 0x19 => d2sVal bits
  | 0x02 => intOf 4 bits
  | _ => intOf 8 bits

/-- Weight (k, j) of a bank (R176). -/
def BankView.weight (v : BankView) (k j : Nat) : Int :=
  let f := (v.fmt.getD 0).toNat
  if widthOf f = 4 then weightInt f (v.byte (128 * k + j / 2) / (if j % 2 = 0 then 1 else 16) % 16)
  else weightInt f (v.byte (128 * k + j))

/-- A block of A elements in ALN16 (R45): mantissas and exponent. -/
def align16 (l : List FVal) : List Int × Int :=
  match topLog2 l with
  | none => (l.map fun _ => 0, 0)
  | some t =>
    let ea := t - 14
    (l.map fun v => match v with
      | .fin s m e => satInt (toInteger .rne s m (e - ea)).1 (-32767) 32767
      | _ => 0, ea)

/-- Products of the infinite elements of a block with a column's weights, summed under IEEE rules (R47). -/
def infSum (l : List (FVal × Int)) : FVal × BitVec 7 :=
  sumValsFlags ((l.filter fun p => match p.1 with
    | .inf _ => true
    | _ => false).map fun p => p.1.mul (ofInt p.2))
where
  /-- Values with flags, summed. -/
  sumValsFlags : List (FVal × BitVec 7) → FVal × BitVec 7
    | [] => (.fin false 0 0, 0)
    | v :: r => r.foldl (fun (a : FVal × BitVec 7) x => let s := a.1.add .rne x.1; (s.1, a.2 ||| x.2 ||| s.2)) v

/-- The value of a block for column j (R46, R47); a weight block recorded as NaN makes it NaN, infinities or none. -/
def blockValue (v : BankView) (b j : Nat) (vals : List FVal) (nan : Bool) (al : List Int × Int) : FVal × BitVec 7 :=
  if nan then (.nan, 0)
  else
    match v.eb b j with
    | none => (.nan, 0)
    | some e =>
      let ws := (List.range 32).map fun i => v.weight (32 * b + i) j
      if vals.any fun x => match x with
        | .inf _ => true
        | _ => false
      then infSum (vals.zip ws)
      else
        let sum := (al.1.zip ws).foldl (fun (a : Int) p => a + p.1 * p.2) 0
        (finOf false sum (al.2 + e), 0)

/-- A block multiplied into the accumulators (R46). Without resident weights the row is lost (R213). -/
def Cell.cimBlock (s : Cell) (w : CellWord) (v : BankView) (b : Nat) : Cell :=
  let s1 := { s with block := [] }
  if 16 ≤ b then s1
  else if !v.resident then { s1 with noWeight := true }
  else
    let sc := if isMX w.fmt then s.blockScale.toNat else 127
    let elems := s.block ++ List.replicate (32 - s.block.length) none
    let vals := elems.map fun x => match x with
      | some bits => (elementVal w.fmt bits.toNat).scaled sc
      | none => .fin false 0 0
    let nan := sc == 255 || vals.any fun x => x == .nan
    let al := align16 vals
    let (accs, fl) := (List.range (weightCols v.fmt)).foldl (fun (a : List (BitVec 32) × BitVec 7) j =>
      let bv := blockValue v b j vals nan al
      let x := accAdd (((s.accs[j]?).getD 0).toNat) bv
      (a.1 ++ [BitVec.ofNat 32 x.1], a.2 ||| x.2)) ([], 0)
    { s1 with accs := accs, flags := s.flags ||| fl }

/-- One lane of A: its position, and its block when full (R213). -/
def Cell.cimLane (s : Cell) (st : Seat) (v : BankView) (t : Token) (i : Nat) : Cell :=
  let wd := widthOf st.w.fmt
  let ok := t.valid wd i
  let x := if ok then some (BitVec.ofNat 16 (laneBits t.payload wd i)) else none
  let s1 : Cell := { s with k := s.k + 1, blockScale := if s.k % 32 = 0 then BitVec.ofNat 8 (s.scale 0 (i / 32)) else s.blockScale }
  if 512 ≤ s.k then if ok then { s1 with poison := some (st.origin 0x43 t.pos), krange := true } else s1
  else
    let s2 := { s1 with block := s.block ++ [x] }
    if s2.block.length = 32 then s2.cimBlock st.w v (s.k / 32) else s2

/-- A data firing of CIM. -/
def Cell.cimFire (s : Cell) (st : Seat) (v : BankView) (t : Token) : Fire :=
  let s1 := (List.range (lanesOf st.w.fmt)).foldl (fun s i => s.cimLane st v t i) s
  { Fire.of s1 [] with cause := if s1.krange && !s.krange then some 0x43 else none }

/-- A row of CIM begun anew. -/
def Cell.cimClear (s : Cell) : Cell := { s with accs := [], k := 0, block := [], noWeight := false, krange := false }

/-- CIM's emission (R213). -/
def Cell.cimEmit (s : Cell) (st : Seat) (v : BankView) (pos : BitVec 24) : Fire :=
  let s1 := if s.block = [] then s else s.cimBlock st.w v (s.k / 32)
  let lost := s1.noWeight || !v.resident
  let toks := (List.range (weightCols v.fmt / 8)).map fun t =>
    if lost then st.poison 0x42 0xFF pos
    else token32 ((List.range 8).map fun j => ((s1.accs[8 * t + j]?).getD 0).toNat)
  let (s2, toks) := s1.cimClear.releasing toks
  { Fire.of s2 toks with cause := if lost then some 0x42 else none }

/-! ## ACC (R214) -/

/-- Bank offset of slot k of half h. -/
def CellWord.slotAt (w : CellWord) (h : Bool) (k : Nat) : Nat := 64 * w.bbase + 32 * w.units * b2n h + 32 * k

/-- The 32 bytes of a slot. -/
def BankView.slot (v : BankView) (o : Nat) : List Byte := (List.range 32).map fun i => BitVec.ofNat 8 (v.byte (o + i))

/-- A slot's four tags. -/
def slotTags (o : Nat) (full : Bool) : List (Nat × Bool) := [(o, full), (o + 8, full), (o + 16, full), (o + 24, full)]

/-- A DATA token of a slot's bytes, every lane of a format valid. -/
def slotToken (bs : List Byte) (fmt : Nat) : Token :=
  { kind := 0, level := 0, mask := fullMask fmt, payload := BitVec.ofNat 256 (natOfBytes bs) }

/-- Whether ACC's tags let slot k be updated. -/
def Cell.accReady (s : Cell) (w : CellWord) (v : BankView) : Bool :=
  let o := w.slotAt s.h s.slot
  let d := w.slotAt (!s.h) s.slot
  ((slotTags o true).all fun p => v.full p.1) && (slotTags d true).all fun p => !v.full p.1

/-- RESET of ACC, after tokens; at a weight-resident bank, which it does not write, it makes POISON WRESIDENT (R214, R224; log 65). -/
def Cell.accReset (s : Cell) (st : Seat) (v : BankView) (pos : BitVec 24) (toks : List Token) : Fire :=
  let w := st.w
  if v.resident then { Fire.of { s with slot := 0 } (toks ++ [st.poison 0x46 0 pos]) with cause := some 0x46 }
  else
    { Fire.of { s with slot := 0 } toks with
      writes := [(w.slotAt s.h 0, List.replicate (32 * w.units) 0)]
      tags := (List.range w.units).flatMap fun k => slotTags (w.slotAt s.h k) true ++ slotTags (w.slotAt (!s.h) k) false }

/-- FLUSH of ACC. -/
def Cell.accFlush (s : Cell) (st : Seat) (v : BankView) (pos : BitVec 24) : Fire :=
  let w := st.w
  let toks := (List.range (min s.slot w.units)).map fun k => slotToken (v.slot (w.slotAt (!s.h) k)) 8
  let (s, toks) := s.releasing toks
  s.accReset st v pos toks

/-- A firing of ACC on a partial, with its chain partial; none while the tags do not allow it. -/
def Cell.accFire (s : Cell) (st : Seat) (v : BankView) (p : Token) (chain : Option Token) : Option Fire :=
  let w := st.w
  if v.resident then some (st.spoil s 0x46 p.mask p.pos)
  else if w.units ≤ s.slot then some (st.spoil s 0x44 p.mask p.pos)
  else if !s.accReady w v then none
  else
    let o := w.slotAt s.h s.slot
    let d := w.slotAt (!s.h) s.slot
    let lane := fun (i : Nat) =>
      let old := natOfBytes (v.slot (o + 4 * i) |>.take 4)
      let pi := laneBits p.payload 32 i
      let ok := p.valid 32 i && chain.all fun c => c.valid 32 i
      if !ok then (old, (0 : BitVec 7))
      else
        let (t, f1) := match chain with
          | none => (pi, 0)
          | some c => fp32.addBits .ieee .rne (laneBits c.payload 32 i) pi
        let (r, f2) := fp32.addBits .ieee .rne old t
        (r, f1 ||| f2)
    let new := (List.range 8).flatMap fun i => leBytes (lane i).1 4
    let fl := (List.range 8).foldl (fun f i => f ||| (lane i).2) (0 : BitVec 7)
    let (s1, toks) := { s with slot := s.slot + 1, flags := s.flags ||| fl }.releasing [slotToken new 8]
    some { Fire.of s1 toks with writes := [(d, new)], tags := slotTags d true ++ slotTags o false }

/-! ## TAGSET (R218) -/

/-- A firing of TAGSET. -/
def Cell.tagset (s : Cell) (st : Seat) (v : BankView) (t : Token) : Fire :=
  let w := st.w
  let lane := fun (i : Nat) => intOf 32 (laneBits t.payload 32 i)
  let a := lane 0
  let m := lane 1
  if v.resident then st.spoil s 0x46 t.mask t.pos
  else if a < 0 ∨ m < 0 ∨ (2 * w.units : Nat) < a + m ∨ ¬(lane 2 = 0 ∨ lane 2 = 1) then st.spoil s 0x45 t.mask t.pos
  else
    { Fire.of s [t] with
      tags := (List.range m.toNat).flatMap fun k => slotTags (64 * w.bbase + 32 * (a.toNat + k)) (lane 2 == 1) }

/-- RESET of TAGSET: every tag of the region empty; a weight-resident bank gives POISON WRESIDENT (R218). -/
def Cell.tagClear (s : Cell) (st : Seat) (v : BankView) (pos : BitVec 24) : Fire :=
  if v.resident then st.spoil s 0x46 0 pos
  else { Fire.of s [] with tags := (List.range (2 * st.w.units)).flatMap fun k => slotTags (64 * st.w.bbase + 32 * k) false }

/-! ## The steps of a cell (R196 to R200) -/

/-- A data firing whose heads are all DATA. -/
def Cell.data (s : Cell) (st : Seat) (v : BankView) (ins : List Token) : Fire :=
  let w := st.w
  let a := (ins.head?).getD w.constToken
  match w.op with
  | .pass | .const | .mask | .shuf | .bcast | .dup => Fire.of s (moveTokens w a)
  | .cvt => s.convert w a
  | .expand => s.expand w a
  | .pack => s.packIn w a
  | .redsum | .redmax | .redmin => Fire.of (s.reduce w a) []
  | .scan => s.scan w a
  | .argmax | .topk8 => Fire.of (s.rank w a) []
  | .dot => Fire.of (s.dotFire w a ((ins[1]?).getD a)) []
  | .cim => s.cimFire st v a
  | .tagset => s.tagset st v a
  | .acc | .bld | .bst | .gld | .gst => Fire.of s []
  | _ => s.elementwise w ins

/-- FLUSH: what the operation emits and leaves; EMITID leaves the state. -/
def Cell.flush (s : Cell) (st : Seat) (v : BankView) (pos : BitVec 24) (identity : Bool) : Fire :=
  let w := st.w
  match w.op with
  | .pack => let (s, t) := s.packRest w; Fire.of s t
  | .cim => s.cimEmit st v pos
  | .acc => s.accFlush st v pos
  | .argmax | .topk8 =>
    let (s1, t) := s.releasing (rankTokens w (if identity then [] else s.pairs))
    Fire.of (if identity then s1 else s1.cleared w) t
  | _ =>
    let (s1, t) := s.releasing [tokenOne w.accKind.width (if identity then w.identity else s.reduced w)]
    Fire.of (if identity then s1 else s1.cleared w) t

/-- RESET. -/
def Cell.resetOp (s : Cell) (st : Seat) (v : BankView) (pos : BitVec 24) : Fire :=
  match st.w.op with
  | .cim => Fire.of s.cimClear []
  | .acc => s.accReset st v pos []
  | .tagset => s.tagClear st v pos
  | _ => Fire.of (s.cleared st.w) []

/-- The trigger action of an operation (R197). -/
def Cell.trigger (s : Cell) (st : Seat) (v : BankView) (pos : BitVec 24) : Fire :=
  match st.w.op with
  | .scan => Fire.of { s with acc := 0, segStart := false } []
  | .acc => Fire.of { s with slot := 0 } []
  | _ => s.flush st v pos false

/-- One step's outcome followed by more tokens. -/
def Fire.andThen (f : Fire) (toks : List Token) : Fire := { f with toks := f.toks ++ toks }

/-- What an operation does at a mark by its own definition (R197): CIM emits at level 1, PACK empties its buffer. -/
def Cell.atMark (s : Cell) (st : Seat) (v : BankView) (pos : BitVec 24) (lvl : Nat) : Fire :=
  match st.w.op with
  | .pack => let (s, t) := s.packRest st.w; Fire.of s t
  | .cim => if lvl = 1 then s.cimEmit st v pos else Fire.of s []
  | _ => Fire.of s []

/-- A mark step whose heads agree (R197). -/
def Cell.mark (s : Cell) (st : Seat) (v : BankView) (pos : BitVec 24) (lvl : Nat) : Fire :=
  let f := s.atMark st v pos lvl
  if st.w.mpol = 1 ∧ lvl ≠ 15 then { f with cell := { f.cell with lastMark := BitVec.ofNat 4 lvl } }
  else if st.w.mpol = 2 ∧ st.w.mlev ≤ lvl then
    let g := f.cell.trigger st v pos
    { g with toks := f.toks ++ g.toks ++ [Token.mark lvl] }
  else f.andThen [Token.mark lvl]

/-- A DIRECTIVE handled by dpol (R199, R24). -/
def Cell.directive (s : Cell) (st : Seat) (v : BankView) (t : Token) : Fire :=
  let code := t.payload.toNat % 256
  if !directiveOk code then st.spoil s 0x40 t.mask t.pos
  else if st.w.dpol = 1 then Fire.of s [t]
  else if st.w.dpol = 2 then Fire.of s []
  else if code = 0x0D then
    (if s.lastMark = 0 then Fire.of s [] else Fire.of { s with lastMark := 0 } [Token.mark s.lastMark.toNat])
  else if !st.w.op.directives.contains code then Fire.of s [t]
  else
    match code with
    | 1 => s.flush st v t.pos false
    | 2 => s.resetOp st v t.pos
    | 3 => s.flush st v t.pos true
    | 4 => Fire.of { s with segStart := true } []
    | _ => Fire.of { s with h := code == 6, slot := 0 } []

/-- A SCALE token at an input handled by spol (R198). -/
def Cell.scaleStep (s : Cell) (w : CellWord) (input : Nat) (t : Token) : Fire :=
  if w.spol = 0 then Fire.of s [t]
  else if w.spol = 1 then
    let set := fun (m : SMap Byte) (n : Nat) =>
      if t.mask.getLsbD n then put m (2 * input + n) ((t.payload >>> (8 * n)).setWidth 8) else m
    Fire.of { s with scales := set (set s.scales 0) 1 } []
  else Fire.of s []

/-- A firing with POISON among its heads (R200). -/
def Cell.poisoned (s : Cell) (w : CellWord) (t : Token) : Fire :=
  Fire.of (if w.op.accumulates then { s with poison := some (t.payload.setWidth 64) } else s) [t]

end Sys2Proof.Machine
end

