-- ==== Sys2Proof/Machine/Quarter.lean ====
section
/-!
DEFINITION. A configured quarter at work (R193 to R201, R214 to R224, R297): hops, portals and readers, the steps of cells and
routers, bank accesses, the wave-order unit, and the admission of firings.
-/

namespace Sys2Proof.Machine

/-! ## Hops, portals and readers (R194) -/

/-- The key of the hop that leaves position i in direction d. -/
def hopKey (i d : Nat) : Nat := 4 * i + d

/-- The hop that select s (1 to 4) reads at position i. -/
def readHop (i s : Nat) : Option Nat := (neighbour i (s - 1)).map fun j => hopKey j ((s + 1) % 4)

/-- The word of the cell at a position. -/
def Page.word (g : Page) (i : Nat) : CellWord := cellOf ((g.cells[i]?).getD 0)

/-- Whether a cell stands at a position. -/
def Page.hasCell (g : Page) (i : Nat) : Bool := (g.cells[i]?).getD 0 != 0

/-- The crossvein word at a position. -/
def Page.xv (g : Page) (i : Nat) : XvWord := xvOf ((g.xvs[i]?).getD 0)

/-- The registers of the cell at a position. -/
def Page.cellAt (g : Page) (i : Nat) : Cell := lookD g.cst i (Cell.fresh (g.word i))

/-- A router as PGLOAD leaves it (R223). -/
def Router.fresh : Router := { out := none, dirs := 0, portal := none, emit := [], loop := false, held := none }

/-- The registers of the router at a position. -/
def Page.routerAt (g : Page) (i : Nat) : Router := lookD g.xst i Router.fresh

/-- Sources that the cell at a position reads. -/
def Page.cellReads (g : Page) (i : Nat) : List Nat :=
  if g.hasCell i then (g.word i).insel.filter fun s => s != 0 && s != 5 else []

/-- Sources that the router at a position reads. -/
def Page.xvReads (g : Page) (i : Nat) : List Nat :=
  let x := g.xv i
  (x.ctl :: x.ina :: x.inb :: x.rmap).filter fun s => s != 0

/-- Tokens that stand behind a select at a position, those of a portal once admitted (R297). -/
def Page.queue (g : Page) (i s : Nat) : List HopTok :=
  if s < 8 then
    (match readHop i s with
      | none => []
      | some k => (lookD g.hops k []).takeWhile fun t => t.here)
  else if lookD g.admitted (s - 8) 0 = 0 then []
  else lookD g.fifos (s - 8) []

/-- The head that a reader at a position sees behind a select: it has not taken it yet. -/
def Page.head (g : Page) (i s : Nat) (xv : Bool) : Option Token :=
  match g.queue i s with
  | [] => none
  | t :: _ => if (if xv then t.byXv else t.byCell) then none else some t.tok

/-- A queue whose head one of its readers has taken; it leaves when every reader has. -/
def takeHead (l : List HopTok) (xv cell router : Bool) : List HopTok × Bool :=
  match l with
  | [] => ([], false)
  | t :: r =>
    let t1 := if xv then { t with byXv := true } else { t with byCell := true }
    if (t1.byCell || !cell) && (t1.byXv || !router) then (r, true) else (t1 :: r, false)

/-- A head taken by the cell or the router at a position. -/
def Page.take (g : Page) (i s : Nat) (xv : Bool) : Page :=
  let cell := (g.cellReads i).contains s
  let router := (g.xvReads i).contains s
  if s < 8 then
    (match readHop i s with
      | none => g
      | some k => { g with hops := put g.hops k (takeHead (lookD g.hops k []) xv cell router).1 })
  else
    let (l, gone) := takeHead (lookD g.fifos (s - 8) []) xv cell router
    { g with fifos := put g.fifos (s - 8) l,
             admitted := if gone then put g.admitted (s - 8) (lookD g.admitted (s - 8) 0 - 1) else g.admitted }

/-- Whether anything reads the far end of a hop. -/
def Page.hopRead (g : Page) (k : Nat) : Bool :=
  match neighbour (k / 4) (k % 4) with
  | none => false
  | some j => let s := (k % 4 + 2) % 4 + 1; (g.cellReads j).contains s || (g.xvReads j).contains s

/-! ## Steps of a quarter -/

/-- Whether a quarter's cells move: its page is configured and not in the middle of a placement (R299). -/
def Serai.quarterRuns (v : Serai) (q : Nat) : Bool :=
  match v.pager with
  | .saved k _ _ => k != q
  | .loaded k _ _ => k != q
  | _ => true

/-- A step of the page resident in a quarter of a serai: the chip that `f` gives. -/
def State.pageStep (s : State) (n : BitVec 12) (q : BitVec 2) (f : Chip → Nat → Nat → Nat → Page → Chip) :
    Host.Outcome State Fault Refusal :=
  s.engineStep n fun c cycle u _ v =>
    match v.resident q.toNat with
    | none => c
    | some (pg, g) => if v.quarterRuns q.toNat then f c cycle u pg g else c

/-- A serai with a page replaced; its quarter keeps the cause of poison that the step has created (R175). -/
def Serai.setPage (v : Serai) (pg : Nat) (g : Page) : Serai :=
  { v with pages := put v.pages pg { g with made := 0 },
           qcause := match g.quarter with
             | some q => if g.made = 0 then v.qcause else v.qcause.setIfInBounds q g.made
             | none => v.qcause }

/-- The chip with a page of a serai replaced. -/
def Chip.setPage (c : Chip) (n pg : Nat) (g : Page) : Chip := c.onSerai n fun v => v.setPage pg g

/-- The page with a cell's registers replaced. -/
def Page.setCell (g : Page) (i : Nat) (s : Cell) : Page := { g with cst := put g.cst i s }

/-- The page with a router's registers replaced. -/
def Page.setRouter (g : Page) (i : Nat) (r : Router) : Page := { g with xst := put g.xst i r }

/-- Used inputs of a cell with their selects. -/
def CellWord.inputs (w : CellWord) : List (Nat × Nat) := (w.insel.zipIdx.map fun p => (p.2, p.1)).filter fun p => p.2 != 0

/-- Used inputs that are not constant. -/
def CellWord.live (w : CellWord) : List (Nat × Nat) := w.inputs.filter fun p => p.2 != 5

/-- A token of reserved kind, or a MARK of a reserved level (R21, R197). -/
def Token.isBad (t : Token) : Bool := decide (4 < t.kind.toNat) || (t.kind == 1 && !levelOk t.level.toNat)

/-- A MARK that is not handled as poison. -/
def Token.isMark (t : Token) : Bool := t.kind == 1 && levelOk t.level.toNat

/-- The step that a cell takes next (R196). -/
inductive NextStep where
  /-- None can be taken. -/
  | none
  /-- The next token of a result of several. -/
  | emit
  /-- A SCALE or DIRECTIVE at an input: number, select, token. -/
  | side (k s : Nat) (t : Token)
  /-- A firing on heads with a mark among them. -/
  | marks (heads : List Token)
  /-- A firing on DATA and POISON. -/
  | data (heads : List Token)
  deriving DecidableEq, Repr

/-- The choice of R196. -/
def Page.next (g : Page) (i : Nat) : NextStep :=
  let s := g.cellAt i
  let w := g.word i
  if !g.hasCell i then .none
  else if s.emit ≠ [] then if s.out.isNone then .emit else .none
  else
    match w.live.findSome? fun p => match g.head i p.2 false with
      | some t => if t.kind = 2 ∨ t.kind = 3 then some (p.1, p.2, t) else none
      | none => none with
    | some (k, sel, t) => .side k sel t
    | none =>
      let heads := w.live.filterMap fun p => g.head i p.2 false
      if heads.length ≠ w.live.length ∨ s.out.isSome then .none
      else if heads.any Token.isMark then .marks heads
      else .data heads

/-- Every live input's head taken. -/
def Page.takeAll (g : Page) (i : Nat) : Page := (g.word i).live.foldl (fun g p => g.take i p.2 false) g

/-- The seat of a cell. -/
def Page.seat (g : Page) (n q pg i : Nat) : Seat := { n := n, q := q, i := i, pg := pg, w := g.word i }

/-- A cell's view of a bank. -/
def Chip.bankView (c : Chip) (n cell : Nat) : BankView :=
  let base := bankAddr n cell 0
  let b := look (c.serai n).banks cell
  { resident := b.any fun k => k.resident, fmt := b.bind fun k => k.fmt, byte := fun o => (c.homes.byte (base + o)).toNat,
    full := fun o => c.homes.tag (base + o),
    eb := fun blk j => match b.bind fun k => look k.exps (512 * j + blk) with
      | some e => e
      | none => some 0 }

/-- The view of a cell's own bank. -/
def Seat.view (st : Seat) (c : Chip) : BankView := c.bankView st.n (wingCell st.q st.i)

/-- Bytes written into a bank, and tags changed with the waiters that they release (R219, R141). -/
def Chip.bankWrites (c : Chip) (cycle n cell : Nat) (writes : List (Nat × List Byte)) (tags : List (Nat × Bool)) : Chip :=
  let c := writes.foldl (fun c w => c.onHomes fun h => (h.writeLong (bankAddr n cell w.1) 32 w.2).clearBad (bankAddr n cell w.1) w.2.length) c
  tags.foldl (fun c t => (c.onHomes fun h => h.setTag (bankAddr n cell t.1) t.2).serve cycle (bankAddr n cell t.1)) c

/-- The cell with a step's tokens placed: the first in its output register. -/
def Fire.placed (f : Fire) (pos : BitVec 24) : Cell :=
  match f.toks.map fun t => t.placed pos with
  | [] => f.cell
  | t :: r => { f.cell with out := some t, emit := r }

/-- A step of a cell carried out on the chip. -/
def Chip.fire (c : Chip) (cycle : Nat) (st : Seat) (g : Page) (f : Fire) (pos : BitVec 24) : Chip :=
  let g := { g.setCell st.i (f.placed pos) with made := match f.cause with
    | some k => BitVec.ofNat 8 k
    | none => 0 }
  (c.setPage st.n st.pg g).bankWrites cycle st.n (wingCell st.q st.i) f.writes f.tags

/-- The coordinates of a firing: those of its first head. -/
def headPos (heads : List Token) : BitVec 24 := (heads.head?.map fun t => t.pos).getD 0

/-- The lowest-numbered head that is POISON, or handled as POISON with cause BADKIND (R197). -/
def Seat.poisonOf (st : Seat) (heads : List Token) : Option (Token × Option Nat) :=
  heads.findSome? fun t =>
    if t.kind = 4 then some (t, none)
    else if t.isBad then some (st.poison 0x40 (if t.kind = 1 then 0 else t.mask) t.pos, some 0x40)
    else none

/-- Operands of a firing in input order, constants among them (R78). -/
def CellWord.operands (w : CellWord) : List (Nat × Nat) → List Token → List Token
  | [], _ => []
  | (_, s) :: r, heads =>
    if s = 5 then w.constToken :: w.operands r heads
    else
      match heads with
      | [] => []
      | t :: l => t :: w.operands r l

/-- Operations that the wave-order unit holds for a quarter (R217). -/
def waveDepth : Nat := 16

/-- The governor of a cycle: what it withholds starts anew with each cycle, and a cell that is no longer active leaves its die's count. -/
def Chip.govAt (c : Chip) (cycle : Nat) : Governor :=
  if c.gov.cycle = cycle then c.gov
  else { cycle := cycle, cims := c.gov.cims.map fun m => m.filter fun p => decide (cycle < p.2), held := [] }

/-- The CIM cells of a die that are active in a cycle. -/
def Chip.cims (c : Chip) (cycle n : Nat) : SMap Nat := ((c.govAt cycle).cims[n / 512]?).getD []

/-- Whether a die's governor lets no further CIM cell be active in a cycle (R3, R366). -/
def Chip.cimFull (c : Chip) (cycle n q i : Nat) : Bool :=
  decide (8192 ≤ ((c.cims cycle n).filter fun p => p.1 != 256 * n + wingCell q i).length)

/-- A CIM cell active for a number of cycles: 8 for a block, 1 for a step that processes none (R213). -/
def Chip.countCim (c : Chip) (cycle n q i len : Nat) : Chip :=
  let m := c.cims cycle n
  let k := 256 * n + wingCell q i
  let g := c.govAt cycle
  { c with gov := { g with cims := g.cims.setIfInBounds (n / 512) (put m k (max (lookD m k 0) (cycle + len))) } }

/-- A CIM cell's step carried out where its governor lets it: one that fills or empties its block keeps it active for 8 cycles. -/
def Chip.cimStep (c : Chip) (cycle : Nat) (st : Seat) (x : Cell) (f : Chip → Chip) : Chip :=
  if st.w.op ≠ .cim then f c
  else if c.cimFull cycle st.n st.q st.i then c
  else
    let c1 := f c
    let after := (((c1.serai st.n).pages.find? fun p => p.1 == st.pg).map fun p => p.2.cellAt st.i).getD x
    c1.countCim cycle st.n st.q st.i (if x.k / 32 < after.k / 32 ∨ (x.block ≠ [] ∧ after.block = []) then 8 else 1)

/-- A step of a cell, which its governor withholds in no case in this cycle (R196, R366). -/
def State.cellStep (s : State) (n : BitVec 12) (q : BitVec 2) (i : BitVec 6) (f : Chip → Nat → Nat → Nat → Page → Chip) :
    Host.Outcome State Fault Refusal :=
  s.pageStep n q fun c cycle u pg g => if (c.govAt cycle).held.contains (n.toNat, q.toNat, i.toNat) then c else f c cycle u pg g

/-- CELL_DATA_FIRING (R196, R200). A memory cell's operation enters the wave-order unit, a poisoned one too, so that the
wave goes on past it (log 43); ACC fires by ACC_UPDATE. -/
def execCellDataFiring (n : BitVec 12) (q : BitVec 2) (i : BitVec 6) (s : State) : Host.Outcome State Fault Refusal :=
  s.cellStep n q i fun c cycle _ pg g =>
    let st := g.seat n.toNat q.toNat pg i.toNat
    match g.next i.toNat with
    | .data heads =>
      let ins := st.w.operands st.w.inputs heads
      let p := st.poisonOf heads
      if st.w.op.isMem then
        if waveDepth ≤ g.waves.length then c
        else
          let swap := fun (t : Token) => match st.poisonOf [t] with
            | some (x, _) => x
            | none => t
          let a := swap ((ins.head?).getD Token.eot)
          let b := swap ((ins[1]?).getD a)
          let g1 := g.takeAll i.toNat
          c.setPage n.toNat pg { g1 with waves := g1.waves ++ [{ cell := i.toNat, q := a, d := b }],
                                         made := match p with
                                           | some (_, some k) => BitVec.ofNat 8 k
                                           | _ => 0 }
      else
        c.cimStep cycle st (g.cellAt i.toNat) fun c =>
        match p with
        | some (t, k) => c.fire cycle st (g.takeAll i.toNat) { (g.cellAt i.toNat).poisoned st.w t with cause := k } t.pos
        | none =>
          if st.w.op = .acc then c
          else c.fire cycle st (g.takeAll i.toNat) ((g.cellAt i.toNat).data st (st.view c) ins) (headPos heads)
    | _ => c

/-- CELL_MARK_STEP (R197): marks of one level act and pass by mpol; heads that disagree make MARKSKEW. -/
def execCellMarkStep (n : BitVec 12) (q : BitVec 2) (i : BitVec 6) (s : State) : Host.Outcome State Fault Refusal :=
  s.cellStep n q i fun c cycle _ pg g =>
    let st := g.seat n.toNat q.toNat pg i.toNat
    let x := g.cellAt i.toNat
    match g.next i.toNat with
    | .marks heads =>
      let pos := headPos heads
      let lvl := ((heads.head?).map fun t => t.level).getD 0
      let f := if heads.all fun t => t.isMark && t.level == lvl then x.mark st (st.view c) pos lvl.toNat
        else st.spoil x 0x41 (((heads.find? fun t => t.kind == 0).map fun t => t.mask).getD 0) pos
      c.cimStep cycle st x fun c => c.fire cycle st (g.takeAll i.toNat) f pos
    | _ => c

/-- A SCALE or DIRECTIVE step: a handling that emits waits until the output is free (R196). -/
def Chip.sideStep (c : Chip) (cycle : Nat) (st : Seat) (g : Page) (sel : Nat) (t : Token) (f : Fire) : Chip :=
  if f.toks ≠ [] ∧ (g.cellAt st.i).out.isSome then c
  else c.cimStep cycle st (g.cellAt st.i) fun c => c.fire cycle st (g.take st.i sel false) f t.pos

/-- CELL_SCALE_STEP (R198). -/
def execCellScaleStep (n : BitVec 12) (q : BitVec 2) (i : BitVec 6) (s : State) : Host.Outcome State Fault Refusal :=
  s.cellStep n q i fun c cycle _ pg g =>
    let st := g.seat n.toNat q.toNat pg i.toNat
    match g.next i.toNat with
    | .side k sel t => if t.kind = 2 then c.sideStep cycle st g sel t ((g.cellAt i.toNat).scaleStep st.w k t) else c
    | _ => c

/-- CELL_DIRECTIVE_STEP (R199). -/
def execCellDirectiveStep (n : BitVec 12) (q : BitVec 2) (i : BitVec 6) (s : State) : Host.Outcome State Fault Refusal :=
  s.cellStep n q i fun c cycle _ pg g =>
    let st := g.seat n.toNat q.toNat pg i.toNat
    match g.next i.toNat with
    | .side _ sel t => if t.kind = 3 then c.sideStep cycle st g sel t ((g.cellAt i.toNat).directive st (st.view c) t) else c
    | _ => c

/-- CELL_EMIT_NEXT (R196). -/
def execCellEmitNext (n : BitVec 12) (q : BitVec 2) (i : BitVec 6) (s : State) : Host.Outcome State Fault Refusal :=
  s.cellStep n q i fun c _ _ pg g =>
    let x := g.cellAt i.toNat
    match g.next i.toNat, x.emit with
    | .emit, t :: r => c.setPage n.toNat pg (g.setCell i.toNat { x with out := some t, emit := r })
    | _, _ => c

/-- ACC_UPDATE (R214): a firing of ACC once its tags allow it, at the bank port, indivisible. -/
def execAccUpdate (n : BitVec 12) (q : BitVec 2) (i : BitVec 6) (s : State) : Host.Outcome State Fault Refusal :=
  s.cellStep n q i fun c cycle _ pg g =>
    let st := g.seat n.toNat q.toNat pg i.toNat
    match g.next i.toNat with
    | .data heads =>
      if st.w.op ≠ .acc ∨ (st.poisonOf heads).isSome then c
      else
        match st.w.operands st.w.inputs heads with
        | [] => c
        | p :: r =>
          match (g.cellAt i.toNat).accFire st (st.view c) p r.head? with
          | none => c
          | some f => c.fire cycle st (g.takeAll i.toNat) f (headPos heads)
    | _ => c

/-! ## Movement (R194, R195) -/

/-- Whether every destination of a token has room: directions as a mask, and a portal. -/
def Page.roomFor (g : Page) (i m : Nat) (portal : Option Nat) : Bool :=
  ((dirsOf m).all fun d => decide ((lookD g.hops (hopKey i d) []).length < 2)) &&
    portal.all fun p => decide ((lookD g.fifos p []).length < portalDepth)

/-- A token put at every destination. -/
def Page.deliver (g : Page) (i m : Nat) (portal : Option Nat) (t : Token) : Page :=
  let at' := fun (l : List HopTok) (here : Bool) => l ++ [{ tok := t, byCell := false, byXv := false, here := here }]
  let g := (dirsOf m).foldl (fun (g : Page) d => { g with hops := put g.hops (hopKey i d) (at' (lookD g.hops (hopKey i d) []) false) }) g
  match portal with
  | none => g
  | some p => { g with fifos := put g.fifos p (at' (lookD g.fifos p []) true) }

/-- The portal that an oport field names. -/
def oportOf (o : Nat) : Option Nat := if 8 ≤ o then some (o - 8) else none

/-- OUTPUT_MOVE (R195): the token in the output register of a cell, or of a router, moves to all its destinations. -/
def execOutputMove (n : BitVec 12) (q : BitVec 2) (i : BitVec 6) (xv : BitVec 1) (s : State) :
    Host.Outcome State Fault Refusal :=
  s.pageStep n q fun c _ _ pg g =>
    if xv = 0 then
      let x := g.cellAt i.toNat
      let w := g.word i.toNat
      match x.out with
      | none => c
      | some t =>
        if g.roomFor i.toNat w.omask (oportOf w.oport) then
          c.setPage n.toNat pg ((g.setCell i.toNat { x with out := none }).deliver i.toNat w.omask (oportOf w.oport) t)
        else c
    else
      let r := g.routerAt i.toNat
      match r.out with
      | none => c
      | some t =>
        if g.roomFor i.toNat r.dirs.toNat r.portal then
          c.setPage n.toNat pg ((g.setRouter i.toNat { r with out := r.emit.head?, emit := r.emit.drop 1 }).deliver i.toNat
            r.dirs.toNat r.portal t)
        else c

/-- The first token of a hop that is still on its way arrives at the far end. -/
def arriveFirst : List HopTok → List HopTok
  | [] => []
  | t :: r => if t.here then t :: arriveFirst r else { t with here := true } :: r

/-- VEIN_HOP (R194): a token arrives at the far end of its hop; with no reader there it is discarded. -/
def execVeinHop (n : BitVec 12) (q : BitVec 2) (i : BitVec 6) (d : BitVec 2) (s : State) : Host.Outcome State Fault Refusal :=
  s.pageStep n q fun c _ _ pg g =>
    let k := hopKey i.toNat d.toNat
    let l := lookD g.hops k []
    c.setPage n.toNat pg { g with hops := put g.hops k (if g.hopRead k then arriveFirst l else l.drop 1) }

/-! ## Routers (R220 to R223) -/

/-- A structure token. -/
def Token.isStructure (t : Token) : Bool := t.kind == 1 || t.kind == 2 || t.kind == 3

/-- Whether a control token counts as true, and as false; POISON counts as both (R220). -/
def Token.truth (t : Token) : Bool × Bool :=
  if t.kind = 4 then (true, true) else let b := t.mask.getLsbD 0 && t.payload.getLsbD 0; (b, !b)

/-- What a router's step takes and emits: selects taken, tokens emitted in order, directions and portal, and the loop
state after. -/
structure Routed where
  takes : List Nat
  toks : List Token
  dirs : Nat
  portal : Option Nat
  loop : Bool
  held : Option Token
  /-- The step creates MARKSKEW. -/
  skew : Bool := false
  deriving DecidableEq, Repr

/-- Heads of a router: control, data inputs A and B. -/
structure XvHeads where
  ctl : Option Token
  a : Option Token
  b : Option Token
  deriving DecidableEq, Repr

/-- STEER's step (R222): structure at ina to both sides, else a control token with its data token. -/
def steerStep (x : XvWord) (r : Router) (h : XvHeads) : Option Routed :=
  let go := fun (takes : List Nat) (toks : List Token) (dirs : Nat) =>
    some { takes := takes, toks := toks, dirs := dirs, portal := none, loop := r.loop, held := r.held : Routed }
  match h.a with
  | none => none
  | some t =>
    if t.isStructure then go [x.ina] [t] (x.omt ||| x.omf)
    else
      match h.ctl with
      | none => none
      | some k =>
        if k.kind = 4 then go [x.ctl, x.ina] [k, t] (x.omt ||| x.omf)
        else if k.truth.1 then go [x.ctl, x.ina] [t] x.omt
        else go [x.ctl, x.ina] (if x.omf = 0 then [] else [t]) x.omf

/-- MERGE's step (R222). Two structure tokens that agree become one without a control token, so that a mark that STEER sent
both ways is joined again (log 44). -/
def mergeStep (x : XvWord) (r : Router) (h : XvHeads) : Option Routed :=
  let go := fun (takes : List Nat) (toks : List Token) (skew : Bool) =>
    some { takes := takes, toks := toks, dirs := x.omt, portal := oportOf x.oport, loop := r.loop, held := r.held,
           skew := skew : Routed }
  let skew := fun (a b : Token) =>
    let m := if a.kind = 0 then a.mask else if b.kind = 0 then b.mask else 0
    go [x.ina, x.inb] [{ Token.poison 0 m with pos := a.pos }] true
  match h.a, h.b with
  | some a, some b =>
    if a.isStructure && b.isStructure then
      (if a.kind = b.kind ∧ a.level = b.level then go [x.ina, x.inb] [a] false else skew a b)
    else
      (match h.ctl with
        | none => none
        | some k =>
          let (yes, no) := k.truth
          if (yes && a.isStructure) || (no && b.isStructure) then skew a b
          else if yes && no then go [x.ctl, x.ina, x.inb] [k, a, b] false
          else if yes then go [x.ctl, x.ina] [a] false
          else go [x.ctl, x.inb] [b] false)
  | some a, none =>
    (match h.ctl with
      | some k => if k.truth == (true, false) && !a.isStructure then go [x.ctl, x.ina] [a] false else none
      | none => none)
  | none, some b =>
    (match h.ctl with
      | some k => if k.truth == (false, true) && !b.isStructure then go [x.ctl, x.inb] [b] false else none
      | none => none)
  | none, none => none

/-- CARRY's step (R223). -/
def carryStep (x : XvWord) (r : Router) (h : XvHeads) : Option Routed :=
  let go := fun (takes : List Nat) (toks : List Token) (loop : Bool) =>
    some { takes := takes, toks := toks, dirs := x.omt, portal := oportOf x.oport, loop := loop, held := r.held : Routed }
  if h.a.any Token.isStructure then go [x.ina] h.a.toList r.loop
  else if h.b.any Token.isStructure then go [x.inb] [] r.loop
  else if !r.loop then
    match h.a with
    | some t => go [x.ina] [t] true
    | none => none
  else
    match h.ctl with
    | none => none
    | some k =>
      let (yes, no) := k.truth
      if !yes then go [x.ctl] [] false
      else
        match h.b with
        | none => none
        | some t => if no then go [x.ctl, x.inb] [k, t] false else go [x.ctl, x.inb] [t] true

/-- INV's step (R223). -/
def invStep (x : XvWord) (r : Router) (h : XvHeads) : Option Routed :=
  let go := fun (takes : List Nat) (toks : List Token) (held : Option Token) =>
    some { takes := takes, toks := toks, dirs := x.omt, portal := oportOf x.oport, loop := r.loop, held := held : Routed }
  if h.a.any Token.isStructure then go [x.ina] h.a.toList r.held
  else
    match r.held with
    | none =>
      (match h.a with
        | some t => go [x.ina] [] (some t)
        | none => none)
    | some t =>
      match h.ctl with
      | none => none
      | some k =>
        let (yes, no) := k.truth
        if yes && no then go [x.ctl] [k, t] none
        else if yes then go [x.ctl] [t] (some t)
        else go [x.ctl] [] none

/-- The heads that a router's word names. -/
def Page.xvHeads (g : Page) (i : Nat) (x : XvWord) : XvHeads :=
  let at' := fun (s : Nat) => if s = 0 then none else g.head i s true
  { ctl := at' x.ctl, a := at' x.ina, b := at' x.inb }

/-- A router's step carried out. The record of a poison that it creates names the router by its place in the wing (R25,
log 40). -/
def Page.routed (g : Page) (n q pg i : Nat) (o : Routed) : Page :=
  let g := o.takes.foldl (fun g s => g.take i s true) g
  let toks := if o.skew then o.toks.map fun t =>
      (Token.poison (originRecord 0 n (wingCell q i) pg 0x41 (t.pos.toNat % 4096) (t.pos.toNat / 4096)) t.mask).placed t.pos
    else o.toks
  { g.setRouter i { out := toks.head?, dirs := BitVec.ofNat 4 o.dirs, portal := o.portal, emit := toks.drop 1, loop := o.loop,
                    held := o.held } with
    made := if o.skew then 0x41 else 0 }

/-- A step of the router at a position, when its operator is `xop`, its output is free, and no structure token stands at its
control input; one that does is consumed (R220). -/
def State.routerStep (s : State) (n : BitVec 12) (q : BitVec 2) (i : BitVec 6) (xop : Nat)
    (f : XvWord → Router → XvHeads → Option Routed) : Host.Outcome State Fault Refusal :=
  s.pageStep n q fun c _ _ pg g =>
    let x := g.xv i.toNat
    let r := g.routerAt i.toNat
    if x.xop ≠ xop ∨ r.out.isSome then c
    else
      let h := g.xvHeads i.toNat x
      if h.ctl.any Token.isStructure then c.setPage n.toNat pg (g.take i.toNat x.ctl true)
      else
        match f x r h with
        | none => c
        | some o => c.setPage n.toNat pg (g.routed n.toNat q.toNat pg i.toNat o)

/-- ROUTE (R221): the token of the source that the rmap field of direction d names goes to every output that names it. -/
def execRoute (n : BitVec 12) (q : BitVec 2) (i : BitVec 6) (d : BitVec 2) (s : State) : Host.Outcome State Fault Refusal :=
  s.pageStep n q fun c _ _ pg g =>
    let x := g.xv i.toNat
    let r := g.routerAt i.toNat
    let sel := (x.rmap[d.toNat]?).getD 0
    if x.xop ≠ 0 ∨ sel = 0 ∨ r.out.isSome then c
    else
      match g.head i.toNat sel true with
      | none => c
      | some t =>
        let dirs := (List.range 4).foldl (fun m k => if (x.rmap[k]?).getD 0 = sel then m + 2 ^ (3 - k) else m) 0
        let first := (x.rmap.find? fun s => s != 0) == some sel
        c.setPage n.toNat pg (g.routed n.toNat q.toNat pg i.toNat
          { takes := [sel], toks := [t], dirs := dirs, portal := if first then oportOf x.oport else none, loop := r.loop,
            held := r.held })

/-- FORK (R221). -/
def execFork (n : BitVec 12) (q : BitVec 2) (i : BitVec 6) (s : State) : Host.Outcome State Fault Refusal :=
  s.routerStep n q i 5 fun x r h =>
    h.a.map fun t => { takes := [x.ina], toks := [t], dirs := x.omt, portal := oportOf x.oport, loop := r.loop, held := r.held }

/-- STEER (R222). -/
def execSteer (n : BitVec 12) (q : BitVec 2) (i : BitVec 6) (s : State) : Host.Outcome State Fault Refusal :=
  s.routerStep n q i 1 steerStep

/-- MERGE (R222). -/
def execMerge (n : BitVec 12) (q : BitVec 2) (i : BitVec 6) (s : State) : Host.Outcome State Fault Refusal :=
  s.routerStep n q i 2 mergeStep

/-- CARRY (R223). -/
def execCarry (n : BitVec 12) (q : BitVec 2) (i : BitVec 6) (s : State) : Host.Outcome State Fault Refusal :=
  s.routerStep n q i 3 carryStep

/-- INV (R223). -/
def execInv (n : BitVec 12) (q : BitVec 2) (i : BitVec 6) (s : State) : Host.Outcome State Fault Refusal :=
  s.routerStep n q i 4 invStep

/-! ## Bank and memory cells (R215 to R217) -/

/-- Whether an operation of the unit may be performed after the last one (R217). -/
def Page.waveNext (g : Page) (w : CellWord) : Bool :=
  if g.lastWave.2 = 0x3FE then w.wthis == 0 && w.wpred == 0x3FF
  else w.wpred == g.lastWave.1 || g.lastWave.2 == w.wthis

/-- The valid lanes of a GLD or GST address token: lane and address. -/
def addrLanes (t : Token) : List (Nat × Nat) := t.lanes 4

/-- Whether an address of GLD or GST is out of range (R216). -/
def addrBad (w : CellWord) (size a : Nat) : Bool :=
  let o := a % 65536
  decide (size ≤ bitsOf a 28 4) || bitsOf a 16 4 != 0 || o % 4 != 0 || decide (o < 64 * w.bbase) ||
    decide (64 * (w.bbase + w.units) ≤ o)

/-- Poison that a bank port creates in place of a token (R25, R328). -/
def portPoison (n cell cause : Nat) (t : Token) : Token := (Token.poison (originRecord 2 n cell 0 cause (t.pos.toNat % 4096) (t.pos.toNat / 4096)) t.mask).placed t.pos

/-- What a memory operation answers: it waits, or its token, the cause of new poison, and the chip after it. -/
inductive MemDone where
  /-- A target is out of its serai. -/
  | waits
  /-- Done. -/
  | done (tok : Option Token) (cause : Option Nat) (c : Chip)

/-- BLD and BST on row r of the cell's region (R215). -/
def Chip.rowOp (c : Chip) (cycle : Nat) (st : Seat) (q d : Token) : MemDone :=
  let w := st.w
  let cell := wingCell st.q st.i
  let r := intOf 32 (laneBits q.payload 32 0)
  if !q.mask.getLsbD 0 ∨ r < 0 ∨ (2 * w.units : Nat) ≤ r then .done (some (st.poison 0x45 q.mask q.pos)) (some 0x45) c
  else
    let o := 64 * w.bbase + 32 * r.toNat
    if w.op = .bld then
      if c.homes.anyBad (bankAddr st.n cell o) 32 then .done (some (portPoison st.n cell 0x49 q)) (some 0x49) c
      else .done (some (slotToken (c.homes.bytes (bankAddr st.n cell o) 32) w.fmt)) none c
    else if c.bankResident st.n cell then .done (some (st.poison 0x46 d.mask q.pos)) (some 0x46) c
    else
      let b := widthOf w.fmt / 8
      let lanes := d.lanes w.fmt
      let c := lanes.foldl (fun c x => c.bankWrites cycle st.n cell [(o + b * x.1, leBytes x.2 b)] []) c
      .done none none (c.bankWrites cycle st.n cell [] ((lanes.map fun x => (o + b * x.1) / 8 * 8).dedup.map fun k => (k, true)))

/-- GLD and GST (R216). -/
def Chip.gatherOp (c : Chip) (cycle u : Nat) (st : Seat) (a d : Token) : MemDone :=
  let w := st.w
  let members := (c.caravanOf? u).map (·.members) |>.getD [u]
  let ls := addrLanes a
  let target := fun (x : Nat) => (members[bitsOf x 28 4]?).bind c.seraiOf
  if ls.any fun x => addrBad w members.length x.2 then .done (some (st.poison 0x45 a.mask a.pos)) (some 0x45) c
  else if ls.any fun x => (target x.2).isNone then .waits
  else
    let at' := fun (x : Nat) => ((target x).getD 0, bitsOf x 20 8, x % 65536)
    if w.op = .gst then
      if ls.any fun x => let (m, k, _) := at' x.2; c.bankResident m k then .done (some (st.poison 0x46 a.mask a.pos)) (some 0x46) c
      else
        .done none none (ls.foldl (fun c x =>
          let (m, k, o) := at' x.2
          if c.isDead m || !d.valid 32 x.1 then c
          else c.bankWrites cycle m k [(o, leBytes (laneBits d.payload 32 x.1) 4)] [(o / 8 * 8, true)]) c)
    else
      match ls.find? fun x => let (m, _, _) := at' x.2; c.isDead m with
      | some x => let (m, k, _) := at' x.2; .done (some (portPoison m k 0x47 a)) (some 0x47) c
      | none =>
        match ls.find? fun x => let (m, k, o) := at' x.2; c.homes.anyBad (bankAddr m k o) 4 with
        | some x => let (m, k, _) := at' x.2; .done (some (portPoison m k 0x49 a)) (some 0x49) c
        | none =>
          let pay := ls.foldl (fun p x => let (m, k, o) := at' x.2; setLane p 32 x.1 (c.homes.num (bankAddr m k o) 4)) (0 : BitVec 256)
          .done (some { kind := 0, level := 0, mask := a.mask, payload := pay }) none c

/-- WAVE_ORDER_PERFORM (R217): operation k of the unit, the oldest of its cell, next in wave order. -/
def execWaveOrderPerform (n : BitVec 12) (q : BitVec 2) (k : Nat) (s : State) : Host.Outcome State Fault Refusal :=
  s.pageStep n q fun c cycle u pg g =>
    match g.waves[k]? with
    | none => c
    | some x =>
      let st := g.seat n.toNat q.toNat pg x.cell
      let cell := g.cellAt x.cell
      if !g.waveNext st.w || ((g.waves.take k).any fun y => y.cell == x.cell) || cell.out.isSome || cell.emit != [] then c
      else
        let o :=
          if x.q.kind = 4 then MemDone.done (some x.q) none c
          else if x.d.kind = 4 then MemDone.done (some x.d) none c
          else if st.w.op = .bld ∨ st.w.op = .bst then c.rowOp cycle st x.q x.d
          else c.gatherOp cycle u st x.q x.d
        match o with
        | .waits => c
        | .done tok cause c =>
          let g1 := { g with waves := dropAt g.waves k, lastWave := (st.w.wthis, st.w.wsucc),
                             made := match cause with
                               | some e => BitVec.ofNat 8 e
                               | none => 0 }
          c.setPage n.toNat pg (match tok with
            | none => g1
            | some t => g1.setCell x.cell { cell with out := some (t.placed x.q.pos) })

/-- The status word behind a window of the serai (R256): a porter's, or a context's. -/
def Chip.windowWord (c : Chip) (ctxWord : Serai → Nat → Word) (w : Window) (n : Nat) : Word :=
  match w with
  | .porter p => ((c.serai n).porter p).word
  | .context g => ctxWord (c.serai n) g
  | _ => 0

/-! ## Firings (R297) -/

/-- The rate of a portal. -/
def portalRate (w : BitVec 64) : Nat := bitsOf w.toNat 8 8

/-- Whether a firing is enabled: rates waiting at every input portal, and free at every output portal. -/
def Page.enabled (g : Page) : Bool :=
  (List.range 8).all fun i =>
    let w := (g.portals[i]?).getD 0
    match portalUse w with
    | none => true
    | some false => decide (portalRate w + lookD g.admitted i 0 ≤ (lookD g.fifos i []).length)
    | some true => decide ((lookD g.fifos i []).length + portalRate w ≤ portalDepth)

/-- FIRING_ADMIT (R297): an open quarter admits an enabled firing. -/
def execFiringAdmit (n : BitVec 12) (q : BitVec 2) (s : State) : Host.Outcome State Fault Refusal :=
  s.engineStep n fun c cycle _ _ v =>
    match v.resident q.toNat with
    | none => c
    | some (pg, g) =>
      if v.pager.quarter = some q.toNat ∨ !g.enabled then c
      else
        let admitted := (List.range 8).foldl (fun m i =>
          let w := (g.portals[i]?).getD 0
          if portalUse w = some false then put m i (lookD m i 0 + portalRate w) else m) g.admitted
        c.setPage n.toNat pg { g with admitted := admitted, firings := g.firings + 1, enabledAt := cycle, idle := false }

end Sys2Proof.Machine
end

