-- ==== Sys2Proof/Machine/Grammar.lean ====
section
/-!
DEFINITION. Grammar images (R85 to R90), the grammar instructions (R179 to R183) and the waymark sequencer (R225 to R241): parse
steps, recovery, actions, and what a context forwards.
-/

namespace Sys2Proof.Machine

/-! ## Grammar images -/

/-- Bytes of a grammar image (R85). -/
def grammarSize : Nat := 8576

/-- Number of nonterminals. -/
def gramN (b : List Byte) : Nat := byteAt b 6

/-- Number of productions. -/
def gramP (b : List Byte) : Nat := field b 8 2

/-- Number of actions. -/
def gramA (b : List Byte) : Nat := field b 10 2

/-- Entry of the predictive table for a nonterminal and a column: a production number plus 1, or 0 (R88). -/
def gramEntry (b : List Byte) (n c : Nat) : Nat := field b (0x80 + 32 * n + 2 * c) 2

/-- A production's 16 bytes (R88). -/
def gramProd (b : List Byte) (p : Nat) : List Byte := slice b (0x880 + 16 * p) 16

/-- An action entry (R89). -/
def gramAction (b : List Byte) (a : Nat) : Nat := field b (0x1880 + 8 * a) 8

/-- A recovery entry (R89). -/
def gramRecovery (b : List Byte) (n : Nat) : Nat := field b (0x2080 + 4 * n) 4

/-- A mark level that a recovery entry may name (R89). -/
def recoverLevel (l : Nat) : Bool := (decide (1 ≤ l) && decide (l ≤ 8)) || l == 15

/-- Check 1 of R90. DESIGN CHOICE (log 50): a start nonterminal that is not below N, which R86 forbids and for which R90 names
no status, is BADIMAGE. -/
def gramBadImage (b : List Byte) : Bool :=
  let n := gramN b
  let p := gramP b
  let a := gramA b
  field b 0 4 != 0x4D415247 || field b 4 2 != 1 || n == 0 || decide (64 < n) || decide (n ≤ byteAt b 7) || p == 0 ||
    decide (256 < p) || decide (256 < a) || !zeroBytes b 12 48 || !zeroBytes b 0x50 48 || crcBad b ||
    !zeroBytes b (0x80 + 32 * n) (2048 - 32 * n) || !zeroBytes b (0x880 + 16 * p) (4096 - 16 * p) ||
    !zeroBytes b (0x1880 + 8 * a) (2048 - 8 * a) || !zeroBytes b (0x2080 + 4 * n) (256 - 4 * n)

/-- Check 2: the terminal map (R87). -/
def gramBadTerm (b : List Byte) : Bool :=
  (List.range 16).any fun l =>
    let t := byteAt b (0x40 + l)
    if l = 0 then t != 0 else if l < 9 then t != l && t != 0xFE else if l < 15 then t != 0xFF else t != 9

/-- Check 3: the entry of a row that is faulty; the detail is the production that it names. -/
def gramBadTable (b : List Byte) : Option Nat :=
  (List.range (gramN b)).findSome? fun n =>
    (List.range 16).findSome? fun c =>
      let v := gramEntry b n c
      if v = 0 then none
      else if 10 ≤ c then some 0
      else if gramP b < v ∨ byteAt (gramProd b (v - 1)) 0 % 64 ≠ n then some ((v - 1) % 256)
      else none

/-- Whether a symbol byte is faulty (R88). -/
def symbolBad (n s : Nat) : Bool := if 128 ≤ s then bitOf s 6 || decide (n ≤ s % 64) else decide (9 < s)

/-- Check 4: the production that is faulty. -/
def gramBadSymbol (b : List Byte) : Option Nat :=
  (List.range (gramP b)).find? fun p =>
    let e := gramProd b p
    let len := byteAt e 1
    decide (63 < byteAt e 0) || decide (6 < len) || !zeroBytes e (2 + len) (6 - len) ||
      (List.range len).any fun k => symbolBad (gramN b) (byteAt e (2 + k))

/-- Check 5, on a production's actions. -/
def prodActionBad (b : List Byte) (p : Nat) : Bool :=
  let e := gramProd b p
  let m := byteAt e 8
  decide (2 ^ (byteAt e 1 + 1) ≤ m) ||
    (List.range 7).any fun k => let a := byteAt e (9 + k); if bitOf m k then decide (gramA b ≤ a) else a != 0

/-- Check 5, on an action entry. -/
def actionBad (w : Nat) : Bool :=
  match bitsOf w 60 4 with
  | 0 => bitsOf w 0 43 != 0 || bitsOf w 56 4 != 0 || !directiveOk (bitsOf w 48 8)
  | 1 => bitsOf w 56 4 != 0
  | 2 => bitsOf w 0 48 != 0 || bitsOf w 52 8 != 0
  | 3 => bitsOf w 48 12 != 0
  | _ => true

/-- Check 5: the production or action that is faulty. -/
def gramBadAction (b : List Byte) : Option Nat :=
  match (List.range (gramP b)).find? fun p => prodActionBad b p with
  | some p => some p
  | none => (List.range (gramA b)).find? fun a => actionBad (gramAction b a)

/-- Check 6. -/
def gramBadRecover (b : List Byte) : Bool :=
  (List.range (gramN b)).any fun n =>
    let w := gramRecovery b n
    let level := bitsOf w 26 4
    let owns := bitsOf w 22 4
    let onerr := bitsOf w 13 8
    bitOf w 31 || (if bitOf w 30 then !recoverLevel level else level != 0) || (owns != 0 && !recoverLevel owns) ||
      (if bitOf w 21 then decide (gramA b ≤ onerr) else onerr != 0) || bitsOf w 0 13 != 0

/-- The checks of R90 in order: status code and detail. -/
def checkGrammar (b : List Byte) : Option (Nat × Nat) :=
  if gramBadImage b then some (10, 0)
  else if gramBadTerm b then some (15, 0)
  else
    match gramBadTable b with
    | some p => some (16, p)
    | none =>
      match gramBadSymbol b with
      | some p => some (17, p)
      | none =>
        match gramBadAction b with
        | some k => some (18, k)
        | none => if gramBadRecover b then some (19, 0) else none

/-! ## The status word (R182) -/

/-- COMMAND operations of a context that have not completed (R165, R180). -/
def Serai.liveCmds (v : Serai) (g : Nat) : Nat :=
  ((v.ctx g).cmds.filter fun i => !v.streamDone i || !v.copyDone i).length

/-- The word of GSTAT and WAITA. -/
def Serai.ctxWord (v : Serai) (g : Nat) : Word :=
  let x := v.ctx g
  BitVec.ofNat 64 (x.terminals.toNat * 2 ^ 32 + min (v.liveCmds g) 31 * 2 ^ 27 + x.stack.length * 2 ^ 21 + x.afifo.length * 2 ^ 16 +
    x.tcause.toNat * 2 ^ 8 + b2n x.postlost * 64 + b2n x.cmdfail * 32 + b2n x.eotheld * 16 + b2n x.grammar.isSome * 8 + x.cond)

/-! ## The instructions -/

/-- GLOAD (R179, R90): accepted in conditions 0 and 2. -/
def execGload (d : BitVec 5) (g : BitVec 2) (b : BitVec 5) (s : State) : Host.Outcome State Fault Refusal :=
  s.commands (.gload d g b) fun n dr =>
    unlessStall (dr.srcStall [b]) <| unlessStall (dr.dstStall d) <|
      (dr.readX s.focus b).bind fun (x, dr1) =>
        let cond := ((s.chip.serai n).ctx g.toNat).cond
        if x.toNat % 64 = 0 ∧ cond ≠ 0 ∧ cond ≠ 2 then Drover.status s.chip dr1 d (failWord 1)
        else
          s.block s.chip dr x grammarSize 64 fun img c =>
            match checkGrammar img with
            | some (k, t) => Drover.status c dr1 d (statusWord k t 0)
            | none =>
              Drover.status (c.onSerai n fun v => v.onCtx g.toNat fun x => { x with grammar := some img }) dr1 d statusOk

/-- Whether an entry of a command table is malformed (R180). -/
def commandBad (e : List Byte) : Bool :=
  let arg := byteAt e 1
  let addr := field e 8 8
  !zeroBytes e 3 5 || match byteAt e 0 with
    | 0 => !zeroBytes e 0 16
    | 1 => decide (7 < arg) || addr % 128 != 0
    | 2 => decide (4 < arg) || byteAt e 2 != 0 || addr % 64 != 0
    | _ => true

/-- A context that begins to parse (R180, R227). -/
def Context.started (x : Context) (img : List Byte) (p : Nat) (ctab : List Byte) (hold : Bool) : Context :=
  let n := byteAt img 7
  { x with cond := 1, stack := [.nonterm n none n], terminals := 0, porter := some p, inRun := false, skip := none, skipMark := none,
           tcause := 0, postlost := false, cmdfail := false, holdeot := hold, ctab := ctab, stopping := false }

/-- GSTART (R180): the refusals in the order of its table, after the mode word. -/
def execGstart (d : BitVec 5) (g : BitVec 2) (p : BitVec 3) (s : State) : Host.Outcome State Fault Refusal :=
  s.commands (.gstart d g p) fun n dr =>
    dr.modeWord s.focus d fun mode dr1 =>
      let v := s.chip.serai n
      let x := v.ctx g.toNat
      let q := v.porter p.toNat
      let m := mode.toNat
      if m % 64 / 2 ≠ 0 then Drover.status s.chip dr1 d (failWord 20)
      else
        match x.grammar with
        | none => Drover.status s.chip dr1 d (failWord 27)
        | some img =>
          if x.cond ≠ 0 ∧ x.cond ≠ 2 then Drover.status s.chip dr1 d (failWord 1)
          else if !s.chip.porterFree s.focus p.toNat q || q.passed || (q.cond != 0 && q.dir) then Drover.status s.chip dr1 d (failWord 22)
          else
            let go := fun (tab : List Byte) (c : Chip) =>
              if (List.range 16).any fun k => !(tab == []) && commandBad (slice tab (16 * k) 16) then Drover.status c dr1 d (failWord 21)
              else
                Drover.status (c.onSerai n fun v =>
                  (v.onCtx g.toNat fun x => x.started img p.toNat tab (bitOf m 0)).onPorter p.toNat fun q =>
                    { q with claim := some (.context g.toNat) }) dr1 d statusOk
            let a := m / 64 * 64
            if a = 0 then go [] s.chip else s.block s.chip dr (BitVec.ofNat 64 a) 256 64 go

/-- The porter that a context has claimed is released, with the tokens it has not read. -/
def Serai.release (v : Serai) (g : Nat) : Serai :=
  match (v.ctx g).porter with
  | none => v
  | some p => (v.onPorter p fun q => { q with claim := none }).onCtx g fun x => { x with porter := none }

/-- Whether an item of the output order is a token. -/
def OutItem.isTok : OutItem → Bool
  | .tok _ => true
  | .inject => false

/-- A stopped context (R181). -/
def Serai.stopCtx (v : Serai) (g : Nat) : Serai :=
  (v.release g).onCtx g fun x =>
    { x with cond := 2, stack := [], afifo := [], out := x.out.filter OutItem.isTok, inRun := false, skip := none, skipMark := none,
             tcause := 0, stopping := false }

/-- GSTOP (R181). -/
def execGstop (d : BitVec 5) (g : BitVec 2) (s : State) : Host.Outcome State Fault Refusal :=
  s.commands (.gstop d g) fun n dr =>
    unlessStall (dr.dstStall d) <|
      let x := (s.chip.serai n).ctx g.toNat
      if x.cond = 1 ∧ x.afifo ≠ [] then
        .hold (s.chip.onSerai n fun v => v.onCtx g.toNat fun x => { x with stopping := true }) dr (some 32)
      else if x.cond = 1 ∨ x.cond = 3 then Drover.status (s.chip.onSerai n fun v => v.stopCtx g.toNat) dr d statusOk
      else Drover.status s.chip dr d (failWord 1)

/-- GSTAT (R182). -/
def execGstat (d : BitVec 5) (g : BitVec 2) (s : State) : Host.Outcome State Fault Refusal :=
  s.commands (.gstat d g) fun n dr =>
    unlessStall (dr.dstStall d) <| Drover.status s.chip dr d ((s.chip.serai n).ctxWord g.toNat)

/-- WAITA (R182): given to a context that does not parse, BADSTATE at once. -/
def execWaita (d : BitVec 5) (g : BitVec 2) (s : State) : Host.Outcome State Fault Refusal :=
  s.commands (.waita d g) fun n dr =>
    unlessStall (dr.dstStall d) <|
      let v := s.chip.serai n
      let x := v.ctx g.toNat
      if dr.hold ≠ .waiting ∧ x.cond ≠ 1 then Drover.status s.chip dr d (statusWord 1 x.cond 0)
      else if x.cond ≠ 1 ∧ x.afifo = [] ∧ v.liveCmds g.toNat = 0 then Drover.status s.chip dr d (v.ctxWord g.toNat)
      else .hold s.chip { dr with hold := .waiting } (some 32)

/-- ACTDONE (R183): the context's records leave the action port, and a held `eot` goes on. -/
def execActdone (g : BitVec 2) (s : State) : Host.Outcome State Fault Refusal :=
  s.commands (.actdone g) fun n dr =>
    let keep := dr.queues.act.filter fun e => e.val.toNat / 2 ^ 62 != g.toNat
    .ok (s.chip.onSerai n fun v => v.onCtx g.toNat fun x => if x.eotheld then { x with eotheld := false } else x,
      { dr with queues := { dr.queues with act := keep } })

/-! ## Classes of tokens (R225) -/

/-- What the parser makes of a token. -/
inductive Cls where
  /-- A column. -/
  | col (c : Nat)
  /-- Not seen. -/
  | unseen
  /-- Seen, with no column. -/
  | noCol
  deriving DecidableEq, Repr

/-- The class of a token under a grammar's terminal map. -/
def clsOf (img : List Byte) (t : Token) : Cls :=
  match t.kind.toNat with
  | 0 => .col 0
  | 4 => .col 0
  | 1 =>
    let l := t.level.toNat
    if l = 0 ∨ (9 ≤ l ∧ l ≤ 14) then .noCol
    else
      let m := byteAt img (0x40 + l)
      if m = 0xFE then .unseen else .col m
  | 2 => .unseen
  | 3 => .unseen
  | _ => .noCol

/-- The lookahead code of a trap (R240). -/
def laCode (t : Token) : Nat :=
  match t.kind.toNat with
  | 0 => 0
  | 4 => 0
  | 1 => t.level.toNat
  | k => 11 + k

/-- The symbol byte of the top entry (R240). -/
def topCode : List StkEntry → Nat
  | [] => 0xFF
  | .term c _ _ :: _ => c
  | .nonterm n _ _ :: _ => 0x80 + n
  | .action _ :: _ => 0x40

/-! ## Parse steps -/

/-- What a step does: the context, whether the lookahead leaves the porter, and a trap with its cause and TRAPVAL. -/
structure CtxStep where
  ctx : Context
  takes : Bool
  trap : Option (Nat × Nat)
  deriving DecidableEq, Repr

/-- A trap of the sequencer (R240): the stack stands, tcause is set, no action is performed any more. -/
def Context.trapped (x : Context) (g cause top la aidx : Nat) (pos : BitVec 24) : CtxStep :=
  { ctx := { x with cond := 3, tcause := BitVec.ofNat 8 cause, out := x.out.filter OutItem.isTok }, takes := false,
    trap := some (cause, g * 2 ^ 62 + top * 2 ^ 54 + la * 2 ^ 48 + aidx * 2 ^ 32 + pos.toNat) }

/-- An action fired (R233, R236). -/
def Context.fire (x : Context) (img : List Byte) : Option Nat → Context
  | none => x
  | some a =>
    let w := gramAction img a
    { x with afifo := x.afifo ++ [{ idx := a, word := w }], out := if bitsOf w 60 4 = 0 then x.out ++ [OutItem.inject] else x.out }

/-- Whether the FIFO has room for an action that fires (R233). -/
def Context.roomFor (x : Context) (a : Option Nat) : Bool := a.isNone || decide (x.afifo.length < 16)

/-- Whether the output order may take a token. -/
def Context.outFree (x : Context) : Bool := !x.out.any OutItem.isTok

/-- A symbol of a production as a stack entry (R228). -/
def prodEntry (e : List Byte) (k lhs : Nat) : StkEntry :=
  let s := byteAt e (2 + k)
  let act := if bitOf (byteAt e 8) (k + 1) then some (byteAt e (10 + k)) else none
  if 128 ≤ s then .nonterm (s % 64) act lhs else .term s act lhs

/-- An expansion of a nonterminal by a production (R228); none where its action waits. -/
def Context.expand (x : Context) (img : List Byte) (g n p : Nat) (act : Option Nat) (t : Token) (rest : List StkEntry) : Option CtxStep :=
  let e := gramProd img p
  let len := byteAt e 1
  if 32 < rest.length + b2n act.isSome + len then some (x.trapped g 8 (0x80 + n) (laCode t) 0 t.pos)
  else
    let first := if bitOf (byteAt e 8) 0 then some (byteAt e 9) else none
    if !x.roomFor first then none
    else
      let base := match act with
        | none => rest
        | some a => .action a :: rest
      let stack := (List.range len).map (fun k => prodEntry e k n) ++ base
      some { ctx := { x with stack := stack }.fire img first, takes := false, trap := none }

/-- A mismatch (R237): the owner's recovery, or PARSE. -/
def Context.mismatch (x : Context) (img : List Byte) (g : Nat) (owner : Option Nat) (t : Token) : CtxStep :=
  match owner with
  | none => x.trapped g 7 (topCode x.stack) (laCode t) 0 t.pos
  | some n =>
    let w := gramRecovery img n
    if bitOf w 30 then { ctx := { x with skip := some (bitsOf w 26 4, n) }, takes := false, trap := none }
    else x.trapped g 7 (topCode x.stack) (laCode t) 0 t.pos

/-- The match of a visible mark (R228, R230): it joins the output order, and its action stands behind it. At the final `eot`
the context stops, or traps when entries are left. -/
def Context.matched (x : Context) (img : List Byte) (g : Nat) (act : Option Nat) (t : Token) (rest : List StkEntry) : CtxStep :=
  let eot := t.level == 15
  let y := { x with stack := rest, terminals := x.terminals + 1, out := x.out ++ [OutItem.tok t], eotheld := eot && x.holdeot }.fire img act
  if !eot then { ctx := y, takes := true, trap := none }
  else if rest = [] then { ctx := { y with cond := 2 }, takes := true, trap := none }
  else { y.trapped g 7 (topCode rest) 15 0 t.pos with takes := true }

/-- One parse step against a lookahead (R228); none where it cannot be taken. -/
def Context.parse (x : Context) (img : List Byte) (g : Nat) (t : Token) : Option CtxStep :=
  let c := clsOf img t
  if x.inRun then
    match x.stack with
    | .term _ act _ :: rest =>
      if c = .unseen ∨ c = .col 0 ∨ !x.roomFor act then none
      else some { ctx := { x with stack := rest, inRun := false }.fire img act, takes := false, trap := none }
    | _ => none
  else
    match x.stack, c with
    | _, .unseen => none
    | [], _ => some (x.mismatch img g none t)
    | .action a :: rest, _ =>
      if x.roomFor (some a) then some { ctx := { x with stack := rest }.fire img (some a), takes := false, trap := none } else none
    | .term _ _ lhs :: _, .noCol => some (x.mismatch img g (some lhs) t)
    | .nonterm n _ _ :: _, .noCol => some (x.mismatch img g (some n) t)
    | .term k act lhs :: rest, .col c =>
      if k ≠ c then some (x.mismatch img g (some lhs) t)
      else if !x.outFree then none
      else if c = 0 then
        some { ctx := { x with inRun := true, terminals := x.terminals + 1, out := x.out ++ [OutItem.tok t] }, takes := true, trap := none }
      else if x.roomFor act then some (x.matched img g act t rest) else none
    | .nonterm n act _ :: rest, .col c =>
      match gramEntry img n c with
      | 0 => some (x.mismatch img g (some n) t)
      | p + 1 => x.expand img g n p act t rest

/-- One token of a skip (R238): `eot` stays; a mark of the level or above ends it. -/
def Context.skipped (x : Context) (l owner : Nat) (t : Token) : CtxStep :=
  if t.isEot then { ctx := { x with skip := none, skipMark := some (15, owner) }, takes := false, trap := none }
  else if t.kind = 1 ∧ l ≤ t.level.toNat then { ctx := { x with skip := none, skipMark := some (l, owner) }, takes := true, trap := none }
  else { ctx := x, takes := true, trap := none }

/-- The stack after the pops of R239. -/
def popTo (img : List Byte) (l : Nat) : List StkEntry → List StkEntry
  | [] => []
  | e :: r =>
    let stays : Bool := match e with
      | .term c _ _ => l == 15 && c == 9
      | .nonterm n _ _ => bitsOf (gramRecovery img n) 22 4 == l
      | .action _ => false
    if stays then e :: r else popTo img l r

/-- The pops and onerror of R239; `t` is the lookahead, needed only for a trap. -/
def Context.recovered (x : Context) (img : List Byte) (g l owner : Nat) (t : Option Token) : Option CtxStep :=
  let y := { x with stack := popTo img l x.stack, skipMark := none }
  if y.stack = [] then
    match t with
    | some t => if clsOf img t = .unseen then none else some (y.trapped g 7 0xFF (laCode t) 0 t.pos)
    | none => none
  else
    let w := gramRecovery img owner
    let act := if bitOf w 21 then some (bitsOf w 13 8) else none
    if x.roomFor act then some { ctx := y.fire img act, takes := false, trap := none } else none

/-- Which unit of the sequencer a step is. -/
inductive StepKind where
  /-- PARSE_STEP. -/
  | parse
  /-- SKIP. -/
  | skip
  /-- RECOVERY_POP. -/
  | pop
  deriving DecidableEq, Repr

/-- The lookahead of a context: the token at the head of its claimed porter. -/
def Serai.lookahead (v : Serai) (g : Nat) : Option Token := (v.ctx g).porter.bind fun p => (v.porter p).buf.head?

/-- The next step of a context, if it can be taken (R241). -/
def Serai.nextStep (v : Serai) (g : Nat) : Option (StepKind × CtxStep) :=
  let x := v.ctx g
  match x.grammar with
  | none => none
  | some img =>
    if x.cond ≠ 1 ∨ x.stopping ∨ x.trapWait then none
    else
      match x.skip, x.skipMark with
      | some (l, o), _ => (v.lookahead g).map fun t => (.skip, x.skipped l o t)
      | none, some (l, o) => (x.recovered img g l o (v.lookahead g)).map fun s => (.pop, s)
      | none, none => ((v.lookahead g).bind fun t => x.parse img g t).map fun s => (.parse, s)

/-- Whether the parse unit grants its next step to a context: the first that can step after the one it last served (R241). -/
def Serai.granted (v : Serai) (g : Nat) : Bool :=
  ((List.range 4).map fun k => (v.lastCtx + 1 + k) % 4).find? (fun h => (v.nextStep h).isSome) == some g

/-- A step carried out: the token leaves the porter, a context that stopped releases it, a trap is raised. -/
def Chip.ctxStep (c : Chip) (n u g : Nat) (o : CtxStep) : Chip :=
  let c := c.onSerai n fun v =>
    let v := match v.lookahead g, (v.ctx g).porter with
      | some _, some p => if o.takes then v.onPorter p Porter.emitted else v
      | _, _ => v
    let v := { v.onCtx g fun _ => o.ctx with lastCtx := g }
    if o.ctx.cond = 2 then v.release g else v
  match o.trap with
  | none => c
  | some (k, w) => c.raiseAsync u (trapWords k (BitVec.ofNat 64 w) 0 0 0)

/-- A step of one kind, when it is the context's next and the unit grants it. -/
def State.sequence (s : State) (n : BitVec 12) (g : BitVec 2) (k : StepKind) : Host.Outcome State Fault Refusal :=
  s.engineStep n fun c _ u _ v =>
    match v.nextStep g.toNat with
    | some (k', o) => if k' = k ∧ v.granted g.toNat then c.ctxStep n.toNat u g.toNat o else c
    | none => c

/-- PARSE_STEP (R228 to R230, R237, R240). -/
def execParseStep (n : BitVec 12) (g : BitVec 2) (s : State) : Host.Outcome State Fault Refusal := s.sequence n g .parse

/-- SKIP (R238). -/
def execSkip (n : BitVec 12) (g : BitVec 2) (s : State) : Host.Outcome State Fault Refusal := s.sequence n g .skip

/-- RECOVERY_POP (R239). -/
def execRecoveryPop (n : BitVec 12) (g : BitVec 2) (s : State) : Host.Outcome State Fault Refusal := s.sequence n g .pop

/-! ## Forwarding (R225, R226, R236) -/

/-- A token given to a context's sink; with none it is discarded, and poison raises POISON. -/
def Chip.ctxDeliver (c : Chip) (cycle n u g : Nat) (t : Token) : Option Chip :=
  match c.sinkOf (.context u g) with
  | some e => c.accept cycle e t
  | none =>
    if t.kind = 4 then
      let x := (c.serai n).ctx g
      let (c, o, k) := c.sinkPoison u x.poisonOut x.poisonCnt (32 + g) 3 (t.payload.setWidth 64)
      some (c.onSerai n fun v => v.onCtx g fun x => { x with poisonOut := o, poisonCnt := k })
    else some c

/-- Whether a context passes on a token without a parse step: one that the parser does not see, or the rest of a run. While
a skip is ending, only where no onerror action can stand before it. -/
def Context.passes (x : Context) (t : Token) : Bool :=
  match x.grammar with
  | none => false
  | some img =>
    let free : Bool := match x.skipMark with
      | none => true
      | some (l, _) => popTo img l x.stack == []
    x.cond == 1 && !x.stopping && x.skip.isNone && free && (clsOf img t == .unseen || (x.inRun && clsOf img t == .col 0))

/-- CONTEXT_FORWARD (R225, R226, R236): the next token of the output order, or, when all of it has gone, a token that passes
without a parse step. A held `eot` waits (R183). -/
def execContextForward (n : BitVec 12) (g : BitVec 2) (s : State) : Host.Outcome State Fault Refusal :=
  s.engineStep n fun c cycle u _ v =>
    let x := v.ctx g.toNat
    match x.out with
    | .tok t :: r =>
      if x.eotheld && t.isEot then c
      else
        match c.ctxDeliver cycle n.toNat u g.toNat t with
        | none => c
        | some c => c.onSerai n.toNat fun v => v.onCtx g.toNat fun x => { x with out := r }
    | .inject :: _ => c
    | [] =>
      match v.lookahead g.toNat, x.porter with
      | some t, some p =>
        if x.passes t then
          match c.ctxDeliver cycle n.toNat u g.toNat t with
          | none => c
          | some c => c.onSerai n.toNat fun v => v.onPorter p Porter.emitted
        else c
      | _, _ => c

/-! ## Actions (R233 to R236) -/

/-- The kind of a fired action (R89). -/
def Fired.kind (a : Fired) : Nat := bitsOf a.word 60 4

/-- The action that a context performs next, when it is of a kind; none after a trap (R240). -/
def Context.due (x : Context) (kind : Nat) : Option Fired :=
  match x.afifo with
  | a :: _ => if a.kind = kind ∧ x.cond ≠ 3 then some a else none
  | [] => none

/-- The INJECT that is due and has its turn in the output order (R236). -/
def Context.dueInject (x : Context) : Option Fired :=
  match x.out with
  | .inject :: _ => x.due 0
  | _ => none

/-- The context without the action just performed. -/
def Context.performed (x : Context) : Context := { x with afifo := x.afifo.drop 1 }

/-- A failed INJECT (R234): PARSE with lookahead class 32. Its action has not been performed, so it stays in the FIFO (R233). -/
def Chip.injectFails (c : Chip) (n u g : Nat) (a : Fired) : Chip :=
  let v := c.serai n
  let x := v.ctx g
  let y := { x with out := x.out.drop 1 }
  let pos := ((v.lookahead g).map fun t => t.pos).getD 0
  let o := y.trapped g 7 (topCode y.stack) 32 a.idx pos
  let c := c.onSerai n fun v => v.onCtx g fun _ => o.ctx
  match o.trap with
  | none => c
  | some (k, w) => c.raiseAsync u (trapWords k (BitVec.ofNat 64 w) 0 0 0)

/-- INJECT (R233, R234, R236): the directive enters its portal; it waits for room and for the pager, and fails where the pager
has placed another page. -/
def execInject (n : BitVec 12) (g : BitVec 2) (s : State) : Host.Outcome State Fault Refusal :=
  s.engineStep n fun c cycle u _ v =>
    match (v.ctx g.toNat).dueInject with
    | none => c
    | some a =>
      let q := bitsOf a.word 46 2
      let i := bitsOf a.word 43 3
      let fails := c.injectFails n.toNat u g.toNat a
      if v.pager.quarter = some q then
        match v.pager with
        | .loaded _ _ _ => fails
        | _ => c
      else
        match v.resident q with
        | none => fails
        | some (pg, p) =>
          if !p.portalIs i false then fails
          else
            match p.offer cycle (1 + g.toNat) i (Token.directive (bitsOf a.word 48 8)) with
            | none => c
            | some p =>
              c.onSerai n.toNat fun v =>
                { v.onCtx g.toNat fun x => { x.performed with out := x.out.drop 1 } with pages := put v.pages pg p }

/-- POST (R233, R181): a record to the action port of 32; while GSTOP waits, a full port loses it. In the cycle of a
higher-numbered context's POST it waits, so that the lower-numbered one's enters first (R235). -/
def execPost (n : BitVec 12) (g : BitVec 2) (s : State) : Host.Outcome State Fault Refusal :=
  s.engineStep n fun c cycle u d v =>
    match (v.ctx g.toNat).due 1 with
    | none => c
    | some a =>
      let done := fun (c : Chip) (lost : Bool) =>
        c.onSerai n.toNat fun v => v.onCtx g.toNat fun x => { x.performed with postlost := x.postlost || lost }
      if v.lastPost.1 = cycle ∧ g.toNat < v.lastPost.2 then c
      else if d.queues.act.length < 32 then
        let e : QEntry := { val := BitVec.ofNat 64 (g.toNat * 2 ^ 62 + bitsOf a.word 0 56), peer := 0, clk := [] }
        let c := (done (c.setDrover u (d.pushAct e).wake) false).onSerai n.toNat fun v => { v with lastPost := (cycle, g.toNat) }
        c.reached cycle u 29 false
      else if (v.ctx g.toNat).stopping then done c true
      else c

/-- COMMAND (R180, R233): SOPEN or COPY with a zero offset, from the command table's entry; a refusal, a fault of its address
or an empty entry sets CMDFAIL. -/
def execCommand (n : BitVec 12) (g : BitVec 2) (s : State) : Host.Outcome State Fault Refusal :=
  s.engineStep n fun c _ u d v =>
    let x := v.ctx g.toNat
    match x.due 2 with
    | none => c
    | some a =>
      let e := slice x.ctab (16 * bitsOf a.word 48 4) 16
      let fails := fun (c : Chip) => c.onSerai n.toNat fun v => v.onCtx g.toNat fun x => { x.performed with cmdfail := true }
      let goes := fun (c : Chip) (id : Nat) => c.onSerai n.toNat fun v => v.onCtx g.toNat fun x => { x.performed with cmds := x.cmds ++ [id] }
      let va := field e 8 8
      let agent := blockAgent u + 32 + g.toNat
      match byteAt e 0 with
      | 1 =>
        match c.readBlock agent u d va 128 with
        | .wait c => c
        | .bad _ _ => fails c
        | .ok b c =>
          let id := (c.serai n.toNat).nextSid
          let (w, c) := (c.dropFar agent).openStream n.toNat u d (byteAt e 1) (BitVec.ofNat 64 (byteAt e 2)) (BitVec.ofNat 1024 (natOfBytes b))
          if w = statusOk then goes c id else fails c
      | 2 =>
        match c.readBlock agent u d va 64 with
        | .wait c => c
        | .bad _ _ => fails c
        | .ok b c =>
          match (c.dropFar agent).acceptCopy n.toNat u d b 0 (byteAt e 1) 0 (some g.toNat) with
          | .refused _ => fails c
          | .accepted id c => goes c id
          | .wait c => c
          | .fault _ _ => fails c
      | _ => fails c

/-- TRAP_ACTION (R233): SWTRAP for the task; the context takes no parse step until the task has been resumed. -/
def execTrapAction (n : BitVec 12) (g : BitVec 2) (s : State) : Host.Outcome State Fault Refusal :=
  s.engineStep n fun c _ u _ v =>
    match (v.ctx g.toNat).due 3 with
    | none => c
    | some a =>
      (c.onSerai n.toNat fun v => v.onCtx g.toNat fun x => { x.performed with trapWait := true }).raiseAsync u
        { trapWords 0x13 (BitVec.ofNat 64 (bitsOf a.word 0 48)) 0 0 0 with sink := 48 + g.toNat }

/-! ## Bank ports -/

/-- BANK_PORT_ACCESS (R219, R256): an access of a drover at a bank port, or a load of a porter's or context's state word. -/
def execBankPortAccess (u q : Nat) (s : State) : Host.Outcome State Fault Refusal :=
  s.withAcc u q fun c cycle d a => c.bankAccess cycle u d a (c.windowWord Serai.ctxWord)

end Sys2Proof.Machine
end

