-- ==== Sys2Proof/Machine/Group.lean ====
section
/-!
DEFINITION. Group operations (R146 to R154), at issue and at the group's home, and the queue-port commands (R155).
-/

namespace Sys2Proof.Machine

/-! ## Result words (R147) -/

/-- The FAIL form with a reason. -/
def groupFail (reason : Nat) : Word := BitVec.ofNat 64 (2 ^ 62 + reason)

/-- The result of a phase: DEPARTED, departed count, phase. -/
def groupResult (g : Group) (phase : BitVec 32) : Word :=
  BitVec.ofNat 64 (b2n g.depFlag * 2 ^ 63 + g.departed * 2 ^ 32 + phase.toNat)

/-! ## The table -/

/-- The expedition whose group table a drover's operations use: its own; for a steward that of its current record. -/
def Chip.groupExp (c : Chip) (d : Drover) : Option Nat :=
  if d.steward then
    match c.traps.current[d.core.getD 0]? with
    | some (some r) => some r.exp
    | _ => none
  else some d.exp

/-- A group's entry. -/
def Chip.group? (c : Chip) (e g : Nat) : Option Group :=
  match c.exp? e with
  | none => none
  | some x => look x.groups g

/-- The chip with a group's entry replaced. -/
def Chip.setGroup (c : Chip) (e g : Nat) (v : Group) : Chip := c.onExp e fun x => { x with groups := put x.groups g v }

/-- A group just allocated or set. -/
def Group.fresh (count : Nat) : Group :=
  { count := count, arrived := 0, phase := 0, departed := 0, depFlag := false, deferred := 0, arrivals := [],
    waiters := [], colls := [], combined := false, rels := [] }

/-- Whether the current phase has arrivals, waiters or deferred departures (R147, BUSY). -/
def Group.busy (g : Group) : Bool := g.arrived != 0 || g.waiters != [] || g.deferred != 0

/-- A departure applied: member count down, departed count up (saturating), DEPARTED set (R148). -/
def Group.depart (g : Group) : Group :=
  { g with count := g.count - 1, departed := min (g.departed + 1) 0xFFFF, depFlag := true }

/-- The task's own state in a group. -/
def Drover.member (d : Drover) (g : Nat) : Option Member := look d.members g

/-- The reason that a task's operation on a group is refused at issue: bits above [7:0], and membership. -/
def memberFail (d : Drover) (a : Word) : Option Nat :=
  if 256 ≤ a.toNat then some 1 else if (d.member a.toNat).isNone then some 2 else none

/-! ## Delivering a phase's result -/

/-- A task's state in a group with no arrival outstanding. -/
def Member.idle : Member := { arrived := false, phase := none, wait := none, result := none, rels := [], freed := false }

/-- A result reaches a waiting drover: its register is ready, its arrival is over, and an acquire lets the accesses behind it go, with
what it learns (R149, R271); no register for x0. -/
def Drover.groupDone (d : Drover) (u g : Nat) (w : PhaseWait) (v : Word) (k : SMap Nat) : Drover :=
  let d := { d with members := upd d.members g fun _ => Member.idle }
  let d := if w.rd = 0 then d else d.completeX w.rd v
  let held := d.mem.accs.find? fun a => a.kind == AccKind.phase g
  let d : Drover := match w.acq, held with
    | true, some a => d.acquireFrom u a.seq k
    | true, none => d.acquire u k
    | false, _ => d
  { d with mem := { d.mem with accs := d.mem.accs.filter fun a => a.kind != AccKind.phase g } }.wake

/-- A result reaches a task that waits for a phase. -/
def Chip.groupDone (c : Chip) (g : Nat) (w : PhaseWait) (v : Word) (rels : List Release) : Chip :=
  c.onDrover w.u fun d => d.groupDone w.u g w v (if w.acq then c.learns w.u d w.scope rels else [])

/-- The results of a completed phase go to the members that arrived in it: to those that wait, and into the state of
those that have yet to wait. -/
def Chip.deliver (c : Chip) (g : Nat) (gr : Group) (w : Word) : Chip :=
  gr.arrivals.foldl (fun c a =>
    match gr.waiters.find? fun v => v.u == a.1 with
    | none => c.onDrover a.1 fun d => { d with members := upd d.members g fun m => { m with result := some w, rels := gr.rels } }
    | some v => c.groupDone g v w gr.rels) c

/-- PHASE_COMPLETE (R148): the deferred departures, the waiters' release, the next phase, as one. -/
def Chip.completePhase (c : Chip) (e g : Nat) (gr : Group) : Chip :=
  let gr1 := (List.range gr.deferred).foldl (fun g _ => g.depart) gr
  let c := c.deliver g gr1 (groupResult gr1 gr1.phase)
  c.setGroup e g { gr1 with arrived := 0, phase := gr1.phase + 1, deferred := 0, arrivals := [], colls := [],
                            combined := false, rels := [],
                            waiters := gr1.waiters.filter fun v => !gr1.arrivals.any fun a => a.1 == v.u }

/-- Completion is evaluated after each arrival and departure (R148); a phase with collectives is completed by
COLLECTIVE_COMBINE. -/
def Chip.evalPhase (c : Chip) (e g : Nat) : Chip :=
  match c.group? e g with
  | none => c
  | some gr => if gr.count ≠ 0 ∧ gr.count ≤ gr.arrived ∧ gr.colls = [] then c.completePhase e g gr else c

/-! ## The instructions -/

/-- An arrival's checks at issue (R149). -/
def arriveFail (d : Drover) (a : Word) : Option Nat :=
  match memberFail d a with
  | some r => some r
  | none =>
    match d.member a.toNat with
    | none => some 2
    | some m => if m.arrived then some 3 else none

/-- The drover with an arrival posted. -/
def Drover.postArrival (d : Drover) (u : Nat) (g : Nat) (waits rel : Bool) (scope rd : Nat) : Drover :=
  let d := if rel then d.tick u else d
  { d.post (d.postless (.arrive g waits) false rel scope rd) with
    members := upd d.members g fun _ => { Member.idle with arrived := true } }

/-- The drover with the wait for a phase entered: younger accesses follow it where it acquires (R149). -/
def Drover.postWait (d : Drover) (g : Nat) (w : PhaseWait) : Drover :=
  { d.post { d.postless (.phase g) w.acq false w.scope w.rd with phase := .replied } with
    members := upd d.members g fun m => { m with wait := some w } }

/-- GARRIVE (R149). -/
def execGarrive (d a : BitVec 5) (s : BitVec 3) (o : BitVec 2) (st : State) : Host.Outcome State Fault Refusal :=
  st.drove (.garrive d a s o) fun dr =>
    unlessStall (dr.srcStall [a]) <| unlessStall (dr.dstStall d) <|
      (dr.readX st.focus a).bind fun (x, dr') =>
        match arriveFail dr' x with
        | some r => .ok (dr'.writeX d (groupFail r))
        | none =>
          if 32 ≤ dr.writesHeld then .stall none
          else .ok ((dr'.postArrival st.focus x.toNat false (o.getLsbD 1) s.toNat 0).writeX d 0)

/-- GWAIT (R149): a phase already complete answers at once; otherwise the group's home keeps the waiter. -/
def execGwait (d a : BitVec 5) (s : BitVec 3) (o : BitVec 2) (st : State) : Host.Outcome State Fault Refusal :=
  st.drives (.gwait d a s o) fun dr =>
    unlessStall (dr.srcStall [a]) <| unlessStall (dr.dstStall d) <|
      (dr.readX st.focus a).bind fun (x, dr') =>
        match memberFail dr' x with
        | some r => .ok (st.chip, dr'.writeX d (groupFail r))
        | none =>
          match dr'.member x.toNat with
          | none => .ok (st.chip, dr'.writeX d (groupFail 2))
          | some m =>
            if !m.arrived then .ok (st.chip, dr'.writeX d (groupFail 4))
            else
              let w : PhaseWait := { u := st.focus, rd := d.toNat, acq := o.getLsbD 0, scope := s.toNat }
              if m.freed then .ok (st.chip, { dr' with members := upd dr'.members x.toNat fun _ => Member.idle }.writeX d (groupFail 1))
              else
                match m.result with
                | some v =>
                  let dr1 := { dr' with members := upd dr'.members x.toNat fun _ => Member.idle }
                  .ok (st.chip, (if w.acq then dr1.acquire st.focus (st.chip.learns st.focus dr1 w.scope m.rels) else dr1).writeX d v)
                | none =>
                  .ok (st.chip.onExp dr.exp fun e => { e with groups := upd e.groups x.toNat fun g => { g with waiters := g.waiters ++ [w] } },
                    (dr'.postWait x.toNat w).pendX d (.group x.toNat))

/-- GBAR (R149): GARRIVE followed by GWAIT. -/
def execGbar (d a : BitVec 5) (s : BitVec 3) (o : BitVec 2) (st : State) : Host.Outcome State Fault Refusal :=
  st.drove (.gbar d a s o) fun dr =>
    unlessStall (dr.srcStall [a]) <| unlessStall (dr.dstStall d) <|
      (dr.readX st.focus a).bind fun (x, dr') =>
        match arriveFail dr' x with
        | some r => .ok (dr'.writeX d (groupFail r))
        | none =>
          if 32 ≤ dr.writesHeld then .stall none
          else
            let w : PhaseWait := { u := st.focus, rd := d.toNat, acq := o.getLsbD 0, scope := s.toNat }
            .ok (((dr'.postArrival st.focus x.toNat true (o.getLsbD 1) s.toNat d.toNat).postWait x.toNat w).pendX d
              (.group x.toNat))

/-- An operation on the group table that the drover awaits (R146): performed at the table's home in one step. -/
def State.onGroup (st : State) (i : Instr) (d : BitVec 5) (srcs : List (BitVec 5))
    (f : Option Nat → Word → Word → Drover → Res (Chip × Drover)) (a b : BitVec 5) :
    Host.Outcome State Fault Refusal :=
  st.drives i fun dr =>
    unlessStall (dr.srcStall srcs) <| unlessStall (dr.dstStall d) <|
      if b = 0 then
        (dr.readX st.focus a).bind fun (x, dr') => f (st.chip.groupExp dr) x 0 dr'
      else (dr.read2 st.focus a b).bind fun (x, y, dr') => f (st.chip.groupExp dr) x y dr'

/-- GSET (R150): NOGROUP, then BADCOUNT, then BUSY (log 31). -/
def execGset (d a b : BitVec 5) (st : State) : Host.Outcome State Fault Refusal :=
  st.onGroup (.gset d a b) d [a, b] (a := a) (b := b) fun e x y dr =>
    match (e.bind fun e => if x.toNat < 256 then (st.chip.group? e x.toNat).map fun g => (e, g) else none) with
    | none => .ok (st.chip, dr.writeX d (groupFail 1))
    | some (e, g) =>
      if y.toNat = 0 ∨ 65535 < y.toNat then .ok (st.chip, dr.writeX d (groupFail 6))
      else if g.busy then .ok (st.chip, dr.writeX d (groupFail 5))
      else
        let g' := { g with count := y.toNat, departed := 0, depFlag := false }
        .ok (st.chip.setGroup e x.toNat g', dr.writeX d 0)

/-- GINFO (R150). -/
def execGinfo (d a : BitVec 5) (st : State) : Host.Outcome State Fault Refusal :=
  st.onGroup (.ginfo d a) d [a] (a := a) (b := 0) fun e x _ dr =>
    match (e.bind fun e => if x.toNat < 256 then st.chip.group? e x.toNat else none) with
    | none => .ok (st.chip, dr.writeX d (BitVec.allOnes 64))
    | some g =>
      .ok (st.chip, dr.writeX d (BitVec.ofNat 64 (g.count % 65536 * 2 ^ 48 + g.arrived % 65536 * 2 ^ 32 +
        g.departed * 2 ^ 16 + g.phase.toNat % 65536)))

/-- The lowest-numbered free group entry. -/
def freeGroup (x : Expedition) : Option Nat := (List.range 256).find? fun g => (look x.groups g).isNone

/-- GALLOC (R150): SYNCRES, precise, when no entry is free; aux0 names the resource, the register, the opcode (R327). -/
def execGalloc (d a : BitVec 5) (st : State) : Host.Outcome State Fault Refusal :=
  st.onGroup (.galloc d a) d [a] (a := a) (b := 0) fun e x _ dr =>
    if x.toNat = 0 ∨ 65535 < x.toNat then .ok (st.chip, dr.writeX d (groupFail 6))
    else
      match (e.bind fun e => (st.chip.exp? e).bind fun y => (freeGroup y).map fun g => (e, g)) with
      | some (e, g) => .ok (st.chip.setGroup e g (Group.fresh x.toNat), dr.writeX d (BitVec.ofNat 64 g))
      | none =>
        .trap { dr.trapAt 0x0F 0 with aux0 := BitVec.ofNat 64 (3 * 2 ^ 13 + d.toNat * 2 ^ 8 + 0x23) }
          ((st.cur?).getD dr)

/-- GFREE (R150); its result shows DEPARTED as the group had it (R147). -/
def execGfree (d a : BitVec 5) (st : State) : Host.Outcome State Fault Refusal :=
  st.onGroup (.gfree d a) d [a] (a := a) (b := 0) fun e x _ dr =>
    match (e.bind fun e => if x.toNat < 256 then (st.chip.group? e x.toNat).map fun g => (e, g) else none) with
    | none => .ok (st.chip, dr.writeX d (groupFail 1))
    | some (e, g) =>
      if g.busy then .ok (st.chip, dr.writeX d (groupFail 5))
      else .ok (st.chip.onExp e fun y => { y with groups := del y.groups x.toNat },
        dr.writeX d (BitVec.ofNat 64 (b2n g.depFlag * 2 ^ 63)))

/-! ## GCOLL -/

/-- Bytes of a collective's element (R151). -/
def collSize (fmt : Nat) : Nat := if fmt = 4 then 4 else if fmt = 5 then 8 else if fmt = 8 then 4 else 2

/-- Whether a parameter block breaks R151 or R152. -/
def collBad (b : List Byte) : Bool :=
  let kind := byteAt b 0
  let rop := byteAt b 1
  let fmt := byteAt b 2
  let count := field b 4 4
  let rank := field b 8 4
  let root := field b 12 4
  let bytes := count * collSize fmt
  2 < kind || !(fmt == 4 || fmt == 5 || fmt == 8 || fmt == 9) || byteAt b 3 != 0 || !zeroBytes b 32 32 ||
    (kind == 0 && 5 < rop) || (kind != 0 && rop != 0) || (kind == 0 && 2 < rop && 8 ≤ fmt) || count == 0 ||
    65534 < rank || (kind != 2 && root != 0) || decide (2 ^ 24 < bytes) ||
    (kind == 1 && decide (2 ^ 28 < (rank + 1) * bytes)) || field b 16 8 % collSize fmt != 0 ||
    field b 24 8 % collSize fmt != 0

/-- A translation fault of the source or of this participant's part of the destination; precise at GCOLL (log 32). -/
def Chip.collFault (c : Chip) (u : Nat) (d : Drover) (b : List Byte) : Option (Nat × Nat) :=
  let bytes := field b 4 4 * collSize (byteAt b 2)
  match c.rangeFault u d (field b 16 8) .read 70000 bytes with
  | some f => some f
  | none => c.rangeFault u d (field b 24 8) .write 70000 bytes

/-- Whether accesses of the drover to a collective's buffers still wait to be performed: writes other than REDs to its source, and any
access to its destination (R154, R131). -/
def Drover.collBusy (d : Drover) (b : List Byte) : Bool :=
  let bytes := field b 4 4 * collSize (byteAt b 2)
  let span := if byteAt b 0 = 1 then 2 ^ 28 else bytes
  let dst := field b 24 8
  d.writesInto (field b 16 8) bytes || d.mem.accs.any fun a => a.placed && !a.kind.isRed && a.phase != .replied &&
    decide (a.va < dst + span ∧ dst < a.va + a.size)

/-- GCOLL (R151): holds until COLLECTIVE_COMBINE answers. The contribution is made once the drover's earlier accesses to its buffers
are performed, so that writes to its source are included; no other memory is ordered (R154). -/
def execGcoll (d a b : BitVec 5) (s : BitVec 3) (st : State) : Host.Outcome State Fault Refusal :=
  st.drives (.gcoll d a b s) fun dr =>
    match dr.hold with
    | .waiting => .stall (some 32)
    | .result w => ((dr.read2 st.focus a b).bind fun (_, _, dr') => .ok (st.chip, dr'.writeX d w))
    | _ =>
      unlessStall (dr.srcStall [a, b]) <| unlessStall (dr.dstStall d) <|
        (dr.read2 st.focus a b).bind fun (x, y, dr') =>
          match arriveFail dr' x with
          | some r => .ok (st.chip, dr'.writeX d (groupFail r))
          | none =>
            st.block st.chip dr y 64 64 fun p c =>
              if collBad p then .ok (c, dr'.writeX d (groupFail 7))
              else
                match c.collFault st.focus dr p with
                | some (k, va) => .trap (dr.trapAt k (BitVec.ofNat 64 va)) dr
                | none =>
                  match c.group? dr.exp x.toNat with
                  | none => .ok (c, dr'.writeX d (groupFail 1))
                  | some g =>
                    if dr.collBusy p then .stall (some 32)
                    else
                      let g := { g with arrived := g.arrived + 1, arrivals := g.arrivals ++ [(st.focus, true)],
                                        colls := g.colls ++ [{ u := st.focus, rd := d.toNat, param := p }] }
                      .hold (c.setGroup dr.exp x.toNat g)
                        { dr with hold := .waiting, members := upd dr.members x.toNat fun m => { m with arrived := true } }
                        (some 32)

/-- An element-wise combination (R153): integers wrap; BF16 widens to FP32. Values are raw bits at the working format. -/
def collCombine (rop fmt : Nat) (a b : Nat) : Nat :=
  let n := 8 * collSize fmt
  if fmt < 8 then
    match rop with
    | 0 => (a + b) % 2 ^ n
    | 1 => if intOf n a ≤ intOf n b then a else b
    | 2 => if intOf n a ≤ intOf n b then b else a
    | 3 => a &&& b
    | 4 => a ||| b
    | _ => a ^^^ b
  else
    match rop with
    | 0 => (fp32.addBits .ieee .rne a b).1
    | 1 => fp32.minBits a b
    | _ => fp32.maxBits a b

/-- The elements of a contribution, widened to the working format. -/
def collElems (fmt count : Nat) (b : List Byte) : List Nat :=
  (List.range count).map fun i =>
    let v := field b (i * collSize fmt) (collSize fmt)
    if fmt = 9 then v * 65536 else v

/-- The bytes of combined elements: BF16 rounds once, RNE. -/
def collBytes (fmt : Nat) (l : List Nat) : List Byte :=
  l.flatMap fun v => if fmt = 9 then leBytes (bf16.encode .ieee .rne (fp32.decode v)).1 2 else leBytes v (collSize fmt)

/-- Whether contributions disagree (R153). -/
def collMismatch (l : List Contribution) : Bool :=
  match l with
  | [] => false
  | c :: r => (r.any fun x => slice x.param 0 8 != slice c.param 0 8 || slice x.param 12 4 != slice c.param 12 4) ||
      !(l.map fun x => field x.param 8 4).Nodup

/-- Contributions in rank order. -/
def collSorted (l : List Contribution) : List Contribution :=
  l.mergeSort fun a b => field a.param 8 4 ≤ field b.param 8 4

/-- The sources of the contributions, in the order given; an error stops. -/
def Chip.collRead (c : Chip) : List Contribution → Got (List (List Byte))
  | [] => .ok [] c
  | x :: l =>
    match c.drover? x.u with
    | none => .bad 3 0
    | some d =>
      (c.readBlock (blockAgent x.u) x.u d (field x.param 16 8) (field x.param 4 4 * collSize (byteAt x.param 2))).bind
        fun b c => (c.collRead l).bind fun r c => .ok (b :: r) c

/-- Combination over a junction tree: neighbours are combined at the places that the placement fixes (log 33). -/
def combineTree (place : List Nat) (f : List Nat → List Nat → List Nat) : Nat → List (List Nat) → List Nat
  | _, [] => []
  | _, [a] => a
  | 0, a :: r => r.foldl f a
  | fuel + 1, l =>
    let i := Config.junctionPair place fuel % (l.length - 1)
    combineTree place f fuel (l.take i ++ [f ((l[i]?).getD []) ((l[i + 1]?).getD [])] ++ l.drop (i + 2))

/-- The reduction of the sources: integers in rank order, since no order changes the word; floats over the junction tree
of the placement, whose order the spec leaves open (R49, R153, log 33). -/
def collReduce (place : List Nat) (rop fmt : Nat) (src : List (List Nat)) : List Nat :=
  let f := fun x y => (x.zip y).map fun p => collCombine rop fmt p.1 p.2
  if fmt < 8 then
    match src with
    | [] => []
    | a :: r => r.foldl f a
  else
    let keyed := (src.zipIdx.map fun p => (Config.junctionKey place p.2, p.1)).mergeSort fun a b => a.1 ≤ b.1
    combineTree place f src.length (keyed.map fun p => p.2)

/-- What is written to every destination, as pieces (offset, bytes), from the sources in rank order (R153); `place` is
the serais of the participants. -/
def collOutput (place : List Nat) (l : List Contribution) (src : List (List Byte)) : List (Nat × List Byte) :=
  match l with
  | [] => []
  | c :: _ =>
    let kind := byteAt c.param 0
    let fmt := byteAt c.param 2
    let count := field c.param 4 4
    if kind = 0 then
      [(0, collBytes fmt (collReduce place (byteAt c.param 1) fmt (src.map (collElems fmt count))))]
    else if kind = 1 then (l.zip src).map fun p => (field p.1.param 8 4 * count * collSize fmt, p.2)
    else ((l.zip src).filter fun p => field p.1.param 8 4 == field p.1.param 12 4).map fun p => (0, p.2)

/-- A collective's answer reaches its participants, which hold on it; the phase completes. -/
def Chip.collAnswer (c : Chip) (e g : Nat) (gr : Group) (w : Group → Word) : Chip :=
  let gr1 := (List.range gr.deferred).foldl (fun g _ => g.depart) gr
  let c := gr.colls.foldl (fun c x => c.onDrover x.u fun d =>
    { d with hold := if d.hold = .waiting then .result (w gr1) else d.hold,
             members := upd d.members g fun _ => Member.idle }) c
  c.completePhase e g { gr with arrivals := gr.arrivals.filter fun a => !gr.colls.any fun x => x.u == a.1, colls := [] }

/-- Whether writes of an agent to other modules are not yet answered (R367). -/
def Chip.postsOpen (c : Chip) (agent : Nat) : Bool :=
  c.requests.any fun r => match r.2 with
    | .posted a _ => a == agent
    | _ => false

/-- The frames of the pages that a participant's buffers touch and that are watched. -/
def Chip.collFrames (c : Chip) (x : Contribution) : List Nat :=
  match c.drover? x.u with
  | none => []
  | some d =>
    let bytes := field x.param 4 4 * collSize (byteAt x.param 2)
    let pages := fun (va n : Nat) => (List.range ((va % 4096 + n + 4095) / 4096)).map fun i => va / 4096 * 4096 + 4096 * i
    (pages (field x.param 16 8) bytes ++ pages (field x.param 24 8) bytes).filterMap fun va =>
      match c.engineLeaf x.u d va .read with
      | .ok l _ => if l.watched && !l.rmt then some (canon (l.pa va) / 4096) else none
      | _ => none

/-- A granule without the records of some agents. -/
def Granule.spent (g : Granule) (known : Nat → Bool) : Granule :=
  { g with write := g.write.filter fun r => !known r.1, reads := g.reads.filter fun r => !known r.1 }

/-- Completion of a collective orders what its participants did to its buffers before every participant: in the epoch directory their
records there are spent (R154, R271; log 80). -/
def Chip.collOrder (c : Chip) (l : List Contribution) : Chip :=
  let pages := l.flatMap c.collFrames
  let known := fun (a : Nat) => l.any fun x => x.u == a
  if pages = [] then c
  else c.onHomes fun h => { h with dir := h.dir.map fun p => (p.1, if pages.contains (p.1 / 64) then p.2.spent known else p.2) }

/-- The end of a collective whose output is performed: its participants' caches hold nothing older (R154), and it answers. -/
def Chip.collEnd (c : Chip) (e g : Nat) (gr : Group) (l : List Contribution) : Chip :=
  let c := l.foldl (fun c x => c.onDrover x.u fun d =>
    { d with mem := { d.mem with dcache := [], accs := d.mem.accs.map fun a => { a with line := none } } }) (c.collOrder l)
  c.collAnswer e g gr fun g1 => groupResult g1 g1.phase

/-- Whether a participant's buffers cannot be reached yet (R257). -/
def Chip.collHeld (c : Chip) (x : Contribution) : Bool :=
  match c.drover? x.u with
  | none => false
  | some d =>
    let bytes := field x.param 4 4 * collSize (byteAt x.param 2)
    c.writeWaits x.u d (field x.param 24 8) bytes || c.rangeWaits x.u d (field x.param 16 8) .read (bytes / 4096 + 2) bytes

/-- COLLECTIVE_COMBINE (R153; log 91): once the phase has its arrivals, the contributions are combined and written. A phase that
mixes GCOLL with other arrivals, or whose participants disagree, answers MISMATCH; a broadcast without its root NOROOT. -/
def execCollectiveCombine (e : Nat) (g : BitVec 8) (s : State) : Host.Outcome State Fault Refusal :=
  s.eventStep fun c _ =>
    match c.group? e g.toNat with
    | none => c
    | some gr =>
      if gr.colls = [] ∨ gr.count = 0 ∨ gr.arrived < gr.count then c
      else if gr.colls.length ≠ gr.arrivals.length ∨ collMismatch gr.colls then
        c.collAnswer e g.toNat gr fun _ => groupFail 8
      else
        let l := collSorted gr.colls
        let noRoot := l.any fun x => byteAt x.param 0 == 2 && !l.any fun y => field y.param 8 4 == field x.param 12 4
        if noRoot then c.collAnswer e g.toNat gr fun _ => groupFail 9
        else
          if gr.combined then
            if (l.any fun x => c.postsOpen (blockAgent x.u)) then c else c.collEnd e g.toNat gr l
          else if l.any (fun x => c.collHeld x) then c
          else
            match c.collRead l with
            | .wait c => c
            | .bad _ _ => c.collAnswer e g.toNat gr fun _ => groupFail 7
            | .ok src c =>
              let c := l.foldl (fun c x => c.dropFar (blockAgent x.u)) c
              let place := l.map fun x => ((c.drover? x.u).bind (·.core)).getD 0
              let out := collOutput place l src
              let c := l.foldl (fun c x =>
                match c.drover? x.u with
                | none => c
                | some d => out.foldl (fun c p => (c.writeBlock x.u d (field x.param 24 8 + p.1) p.2).1) c) c
              if l.any (fun x => c.postsOpen (blockAgent x.u)) then c.setGroup e g.toNat { gr with combined := true }
              else c.collEnd e g.toNat gr l

/-! ## Arrivals and departures at the group's home (R148) -/

/-- An arrival dropped at a freed entry (R149): the task that waits, or its next GWAIT, gets NOGROUP. -/
def Chip.arriveFreed (c : Chip) (u g : Nat) : Chip :=
  match ((c.drover? u).bind fun d => look d.members g).bind fun m => m.wait with
  | some w => c.groupDone g { w with acq := false } (groupFail 1) []
  | none => c.onDrover u fun d => { d with members := upd d.members g fun m => { m with freed := true } }

/-- GROUP_ARRIVAL (R148): an arrival that was sent reaches the group's home. -/
def execGroupArrival (u q : Nat) (s : State) : Host.Outcome State Fault Refusal :=
  s.eventStep fun c _ =>
    match c.drover? u with
    | none => c
    | some d =>
      match d.acc? q with
      | none => c
      | some a =>
        match a.kind with
        | .arrive g waits =>
          if a.phase ≠ .sent then c
          else
            let c := c.setDrover u { d with mem := { d.mem with accs := d.mem.accs.filter fun x => x.seq != q } }
            match c.group? d.exp g with
            | none => c.arriveFreed u g
            | some gr =>
              let wait := (look d.members g).bind fun m => m.wait
              let gr := { gr with arrived := gr.arrived + 1, arrivals := gr.arrivals ++ [(u, waits)],
                                  waiters := (gr.waiters.filter fun w => w.u != u) ++ wait.toList,
                                  rels := if a.rel then gr.rels ++ [c.releaseOf u d a.scope a.clk] else gr.rels }
              let c := c.onDrover u fun d => { d with members := upd d.members g fun m => { m with phase := some gr.phase.toNat } }
              (c.setGroup d.exp g gr).evalPhase d.exp g
        | _ => c

/-- GROUP_DEPARTURE (R148): membership m of a task that has left departs, once every arrival sent for it has landed; at
once, or deferred when an arrival is outstanding. -/
def execGroupDeparture (u : Nat) (m : BitVec 2) (s : State) : Host.Outcome State Fault Refusal :=
  s.eventStep fun c _ =>
    match c.task? u, c.drover? u with
    | some t, some d =>
      match (t.groups[m.toNat]?).getD none with
      | none => c
      | some g =>
        if t.state ≠ .retired ∧ t.state ≠ .killed then c
        else if d.mem.accs.any fun a => match a.kind with | .arrive k _ => k == g | _ => false then c
        else
          let c := c.onTask u fun t => { t with groups := setAt t.groups m.toNat none }
          match c.group? t.exp g with
          | none => c
          | some gr =>
            if gr.arrivals.any fun a => a.1 == u then c.setGroup t.exp g { gr with deferred := gr.deferred + 1 }
            else (c.setGroup t.exp g gr.depart).evalPhase t.exp g
    | _, _ => c

/-! ## Queue-port commands (R155) -/

/-- QSEL: as an MTC to QPEER. -/
def execQsel (a : BitVec 5) (s : State) : Host.Outcome State Fault Refusal :=
  s.drove (.qsel a) fun d =>
    unlessStall (d.srcStall [a]) <|
      (d.readX s.focus a).bind fun (x, d') => .ok { d' with ctl := { d'.ctl with qpeer := x.setWidth 4 } }

/-- The queue that a number names: mailbox, action port, inbound. -/
def Drover.queue (d : Drover) (q : Nat) : List QEntry :=
  if q = 0 then d.queues.mbx else if q = 1 then d.queues.act else d.queues.inq

/-- QLEN. -/
def execQlen (d : BitVec 5) (q : BitVec 2) (s : State) : Host.Outcome State Fault Refusal :=
  s.op0 (.qlen d q) d fun dr =>
    BitVec.ofNat 64 (if q.toNat = 3 then 16 - (lookD dr.queues.outq dr.ctl.qpeer.toNat []).length
      else (dr.queue q.toNat).length)

/-- QPEEK: stalls while the queue is empty. -/
def execQpeek (d : BitVec 5) (q : BitVec 2) (s : State) : Host.Outcome State Fault Refusal :=
  s.drove (.qpeek d q) fun dr =>
    unlessStall (dr.dstStall d) <|
      match dr.queue q.toNat with
      | [] => .stall (some (if q.toNat = 0 then 28 else if q.toNat = 1 then 29 else 31))
      | e :: _ => s.result dr d e.val

end Sys2Proof.Machine
end

