-- ==== Sys2Proof/Machine/Pager.lean ====
section
/-!
DEFINITION. The pager of a serai (R296, R298, R299): choosing a candidate and a victim, closing, saving, loading, opening, and
the two limits that expire.
-/

namespace Sys2Proof.Machine

/-- Tokens that wait at the entry portals of a page: those that no firing has admitted (log 45). -/
def Page.waiting (g : Page) : Nat :=
  ((List.range 8).map fun i =>
    let w := (g.portals[i]?).getD 0
    if portalUse w = some false ∧ bitOf w.toNat 6 then (lookD g.fifos i []).length - lookD g.admitted i 0 else 0).sum

/-- Tokens that count for a page as victim: none for one that has had no firing enabled for 4,096 cycles, and has none now. -/
def Page.counted (g : Page) : Nat := if g.idle && !g.enabled then 0 else g.waiting

/-- The first of a list that no other entry precedes. -/
def firstBy {α : Type} (before : α → α → Bool) : List α → Option α
  | [] => none
  | a :: r =>
    match firstBy before r with
    | none => some a
    | some b => if before b a then some b else some a

/-- The candidate (R298): most tokens waiting, then the lowest pageid. -/
def Serai.pageCandidate (v : Serai) : Option (Nat × Page) :=
  firstBy (fun a b => decide (b.2.waiting < a.2.waiting)) (v.pages.filter fun p => p.2.quarter.isNone && !p.2.pinned && decide (0 < p.2.waiting))

/-- The victim for a candidate with so many tokens: fewest tokens, then longest resident, then the lowest quarter. -/
def Serai.pageVictim (v : Serai) (tokens : Nat) : Option (Nat × Page) :=
  let qs := (List.range 4).filterMap fun q => v.resident q
  firstBy (fun a b => decide (a.2.counted < b.2.counted) || (a.2.counted == b.2.counted && decide (a.2.since < b.2.since)))
    (qs.filter fun p => !p.2.pinned && p.2.excludedAt.isNone && decide (p.2.counted < tokens))

/-- PAGER_CLOSE (R298, R299): one placement at a time; a free quarter needs no victim. -/
def execPagerClose (n : BitVec 12) (s : State) : Host.Outcome State Fault Refusal :=
  s.engineStep n fun c cycle _ _ v =>
    if v.pager ≠ .idle then c
    else
      match v.pageCandidate with
      | none => c
      | some (pg, g) =>
        match (List.range 4).find? fun q => (v.resident q).isNone with
        | some q => c.onSerai n.toNat fun v => { v with pager := .saved q pg cycle }
        | none =>
          match v.pageVictim g.waiting with
          | none => c
          | some (vic, x) => c.onSerai n.toNat fun v => { v with pager := .closing (x.quarter.getD 0) pg vic cycle }

/-- PAGER_CLOSE_TIMEOUT (R299). -/
def execPagerCloseTimeout (n : BitVec 12) (s : State) : Host.Outcome State Fault Refusal :=
  s.engineStep n fun c cycle _ _ v =>
    match v.pager with
    | .closing _ _ vic since =>
      match look v.pages vic with
      | none => c
      | some g =>
        if g.quiescent ∨ cycle < since + 4096 then c
        else c.onSerai n.toNat fun v => { v with pager := .idle, pages := upd v.pages vic fun g => { g with excludedAt := some cycle } }
    | _ => c

/-- PAGER_SAVE (R299): the victim's state stays with its page in the page-set store, 64 cycles. -/
def execPagerSave (n : BitVec 12) (s : State) : Host.Outcome State Fault Refusal :=
  s.engineStep n fun c cycle _ _ v =>
    match v.pager with
    | .closing q cand vic _ =>
      match look v.pages vic with
      | none => c
      | some g =>
        if g.quiescent then
          c.onSerai n.toNat fun v => { v with pager := .saved q cand (cycle + 64), pages := upd v.pages vic fun g => { g with quarter := none } }
        else c
    | _ => c

/-- PAGER_LOAD (R299): 256 cycles, and 64 more for the saved state: every page of the set has been resident, since PGLOAD and PGCAST
configure a quarter from it (R172). -/
def execPagerLoad (n : BitVec 12) (s : State) : Host.Outcome State Fault Refusal :=
  s.engineStep n fun c cycle _ _ v =>
    match v.pager with
    | .saved q cand since =>
      match look v.pages cand with
      | none => c
      | some _ =>
        if cycle < since then c
        else
          let till := cycle + 320
          c.onSerai n.toNat fun v =>
            { v with pager := .loaded q cand till,
                     pages := upd v.pages cand fun g => { g with quarter := some q, since := cycle, enabledAt := cycle, idle := false } }
    | _ => c

/-- Whether an INJECT for a quarter has its turn: it fails before the quarter opens with another page (R234). -/
def Serai.injectWaits (v : Serai) (q : Nat) : Bool :=
  v.ctxs.toList.any fun x => x.dueInject.any fun a => bitsOf a.word 46 2 == q

/-- PAGER_OPEN (R299). -/
def execPagerOpen (n : BitVec 12) (s : State) : Host.Outcome State Fault Refusal :=
  s.engineStep n fun c cycle _ _ v =>
    match v.pager with
    | .loaded q _ since => if cycle < since ∨ v.injectWaits q then c else c.onSerai n.toNat fun v => { v with pager := .idle }
    | _ => c

/-- PAGE_IDLE_EXPIRY (R298): page g has been resident with no firing enabled for 4,096 cycles. -/
def execPageIdleExpiry (n : BitVec 12) (g : BitVec 8) (s : State) : Host.Outcome State Fault Refusal :=
  s.engineStep n fun c cycle _ _ v =>
    match look v.pages g.toNat with
    | none => c
    | some x =>
      if x.quarter.isNone ∨ x.enabled ∨ cycle < x.enabledAt + 4096 then c
      else c.onSerai n.toNat fun v => { v with pages := upd v.pages g.toNat fun x => { x with idle := true } }

/-- PAGER_EXCLUSION_EXPIRY (R299): the exclusion of page g ends after 65,536 cycles. -/
def execPagerExclusionExpiry (n : BitVec 12) (g : BitVec 8) (s : State) : Host.Outcome State Fault Refusal :=
  s.engineStep n fun c cycle _ _ v =>
    match (look v.pages g.toNat).bind fun x => x.excludedAt with
    | none => c
    | some t =>
      if cycle < t + 65536 then c
      else c.onSerai n.toNat fun v => { v with pages := upd v.pages g.toNat fun x => { x with excludedAt := none } }

end Sys2Proof.Machine
end

