-- ==== Sys2Proof/Machine/Trap.lean ====
section
/-!
DEFINITION. Trap delivery (R321), a steward taking a record (R323), and ERET and HALT (R324, R121, R339, R341, R342).
-/

namespace Sys2Proof.Machine

/-- Whether the drover's post buffer has drained as a held task's must (R321): waiting full/empty stores may stay, and pushes that wait
as they do (R256). -/
def Drover.drained (d : Drover) : Bool :=
  d.mem.accs.all fun a => a.kind.isRead || a.kind.isMarker || a.phase == .replied || a.phase == .waiting || a.phase == .steward

/-- A record of a halted steward delivered again, to the lowest-numbered running one (R323). -/
def Chip.redeliver (c : Chip) (r : Record) : Chip := c.deliverRecord { r with die := 8 }

/-- The records of a steward that has stopped go to a running one (R121, R323). -/
def Chip.emptySteward (c : Chip) (k : Nat) : Chip :=
  let cur := match c.traps.current[k]? with
    | some (some r) => [r]
    | _ => []
  let l := cur ++ ((c.traps.queues[k]?).getD [])
  let c := c.onTraps fun t => { t with queues := t.queues.setIfInBounds k [], current := t.current.setIfInBounds k none }
  l.foldl (fun c r => c.redeliver r) c

/-- TRAP_DELIVERY (R321): a task is held and its record delivered once its post buffer has drained, as a release at device scope; a
steward's own fault goes to another steward as a NOTASK record (R323). -/
def execTrapDelivery (u : Nat) (s : State) : Host.Outcome State Fault Refusal :=
  s.eventStep fun c cycle =>
    match c.drover? u with
    | none => c
    | some d =>
      match d.trap with
      | none => c
      | some t =>
        if d.steward then
          let c := (c.setDrover u { d with trap := none }).emptySteward u
          c.raiseRecord (8 + u / 8) d.exp 0 true false false none none t none none
        else if !d.drained || d.held then c
        else
          let d := { d with trap := none, held := true, blockedAt := some (cycle, 34) }.tick u
          let (n, c) := (c.setDrover u d).nextSeq d.die
          let cv := (c.task? u).map (·.caravan)
          c.deliverRecord (c.capture
            { task := some u, caravan := cv, exp := d.exp, notask := false, fatal := false, defer := false, heldFlag := true, seq := n,
              die := d.die, serai := d.core.getD 0, req := t, deferAcc := none, deferWatch := none, addr := 0,
              pending := d.pendingMask, image := [], clk := d.clk })

/-- RECORD_TAKE (R323): a running steward with no current record takes the next one; a SLEEP ends; receipt is an
acquire of what the task has performed (R321). -/
def execRecordTake (k : BitVec 4) (s : State) : Host.Outcome State Fault Refusal :=
  s.eventStep fun c _ =>
    let k := k.toNat
    match c.drover? k, c.traps.current[k]?, (c.traps.queues[k]?).getD [] with
    | some d, some none, r :: rest =>
      if d.run ≠ .running then c
      else
        let d := { d with exp := r.exp, stew := { d.stew with
          trapcause := BitVec.ofNat 8 r.req.cause, trappc := r.req.pc, trapval := r.req.val, traprec := BitVec.ofNat 64 r.addr } }
        let c := c.setDrover k (d.acquire k r.clk).wake
        (c.onTraps fun t => { t with queues := t.queues.setIfInBounds k rest,
                                     current := t.current.setIfInBounds k (some r) }).flushRecords
    | _, _, _ => c

/-- A field of a record as it stands in steward memory, with any edits. -/
def Chip.recordField (c : Chip) (r : Record) (off n : Nat) : Nat := natOfBytes (c.homes.bytesLong (r.addr + off) n)

/-- The sink whose POISON record has been handled may raise another (R329); a context that waited on its TRAP action goes on
(R233). -/
def Serai.sinkDone (v : Serai) (sink : Nat) : Serai :=
  if sink = 0 then v
  else if sink ≤ 8 then v.onPorter (sink - 1) fun p => { p with poisonOut := false }
  else if sink = 16 then { v with mbxPoisonOut := false }
  else if sink < 48 then v.onCtx (sink - 32) fun x => { x with poisonOut := false }
  else if sink < 64 then v.onCtx (sink - 48) fun x => { x with trapWait := false }
  else
    { v with copy := { v.copy with ch := v.copy.ch.map fun jobs => jobs.map fun j => if j.id = sink - 64 then { j with poisonOut := false } else j } }

/-- The serai state of a task: in its serai, or kept with its image. -/
def Chip.onEngines (c : Chip) (u : Nat) (f : Serai → Serai) : Chip :=
  match (c.drover? u).bind (·.core) with
  | some n => c.onSerai n f
  | none => c.onSched fun s => { s with images := upd s.images u f }

/-- ERET of a HELD record: the task resumes, in its serai or in its image (R324). -/
def Chip.resumeTask (c : Chip) (cycle u : Nat) (r : Record) (pc : Word) : Chip :=
  match c.task? u, c.drover? u with
  | some t, some d =>
    if !t.alive || !d.held then c
    else
      let flags := c.recordField r 320 8
      let d1 := d.resume pc (fun n => BitVec.ofNat 64 (c.recordField r (64 + 8 * n) 8)) r.pending
        (BitVec.ofNat 8 (bitsOf flags 32 7)) (BitVec.ofNat 5 (bitsOf flags 40 5)) (BitVec.ofNat 4 (c.recordField r 328 1))
      let c := (c.setDrover u d1).onEngines u fun v => v.sinkDone r.req.sink
      if d.core.isNone then (c.syncImage u).wakeCaravan cycle t.caravan else c
  | _, _ => c

/-- ERET of a DEFER record: the steward has performed the operation (R341). -/
def Chip.completeDefer (c : Chip) (cycle : Nat) (r : Record) : Chip :=
  match r.deferWatch with
  | some (v, i) => c.watchDone cycle v i []
  | none =>
    match r.task, r.deferAcc with
    | some u, some q =>
      match c.drover? u with
      | none => c
      | some d =>
        match d.acc? q with
        | none => c
        | some a =>
          if a.phase ≠ .steward then c
          else
            let k := c.learns u d 3 (c.homes.releasesAt a.pa a.size)
            if a.kind.isRead then c.setDrover u (d.answer u q (BitVec.ofNat 64 (c.recordField r 56 8)) none none k)
            else c.setDrover u (d.writtenDrop u q k)
    | _, _ => c

/-- ERET of a SAVE record: a save that failed starts again with the next free slot (R339). -/
def Chip.retrySave (c : Chip) (r : Record) : Chip :=
  match r.task with
  | none => c
  | some u =>
    match look c.sched.saving u with
    | some (.faulted _ _) => c.onSched fun s => { s with saving := del s.saving u }
    | _ => c

/-- The end of a record's handling (R324). -/
def Chip.endRecord (c : Chip) (cycle : Nat) (r : Record) (pc : Word) : Chip :=
  if r.heldFlag then
    match r.task with
    | none => c
    | some u => c.resumeTask cycle u r pc
  else if r.defer then c.completeDefer cycle r
  else if r.req.cause = 0x10 then c.retrySave r
  else if r.req.cause = 0x0D then c.onExp r.exp fun x => { x with spillOpen := true }
  else c

/-- ERET (R121, R324): PRIV in task mode; without a current record nothing is ended. -/
def execEret (s : State) : Host.Outcome State Fault Refusal :=
  s.drives .eret fun d =>
    if !d.steward then .trap (d.trapAt 0x14 0) d
    else
      let k := d.core.getD 0
      match s.chip.traps.current[k]? with
      | some (some r) =>
        let c := s.chip.endRecord s.cycle r d.stew.trappc
        .ok (c.onTraps fun t => { t with current := t.current.setIfInBounds k none }, d)
      | _ => .ok (s.chip, d)

/-- HALT (R121): PRIV in task mode; the core stops, and other stewards take its records. -/
def execHalt (s : State) : Host.Outcome State Fault Refusal :=
  s.drives .halt fun d =>
    if !d.steward then .trap (d.trapAt 0x14 0) d
    else
      let d' := { d with run := .halted }
      .ok ((s.chip.setDrover s.focus d').emptySteward (d.core.getD 0), d')

end Sys2Proof.Machine
end

