-- ==== Sys2Proof/Machine/Task.lean ====
section
/-!
DEFINITION. The task instructions (R184 to R189), and what they share with the bazaar: making a caravan, watch records (R283), a
caravan that leaves its serais (R290), and killing one (R343).
-/

namespace Sys2Proof.Machine

/-! ## Making a caravan -/

/-- What a new caravan is made from. -/
structure Launching where
  exp : Nat
  tmpl : Nat
  tem : Template
  prio : Nat
  args : List Word
  groups : List (Option Nat)
  hint : Nat
  near : Option Nat
  clk : SMap Nat
  deriving DecidableEq, Repr

/-- The drover of a new task (R14, R11): arguments, entry, own index, its memberships; its first instruction is an acquire. -/
def Launching.drover (l : Launching) (u index : Nat) : Drover :=
  let d := Drover.fresh false none
  let x := fun (i : Nat) => (l.args[i]?).getD 0
  let regs := ((d.regs.setX 1 (x 0)).setX 2 (x 1)).setX 3 (x 2)
  { d with exp := l.exp, regs := { regs with pc := l.tem.entry }, ctl := { d.ctl with qpeer := BitVec.ofNat 4 index },
           members := l.groups.foldl (fun m g => match g with
             | some g => put m g Member.idle
             | none => m) [] }.acquire u l.clk

/-- A caravan of the template's size with consecutive TASKIDs: the chip, its key and the TASKID of member 0. One that is ready at
once is made with no place, and then enqueued. -/
def Chip.newCaravan (c : Chip) (cycle : Nat) (l : Launching) (watches : SMap Nat) (place : Place) : Chip × Nat × Nat :=
  let id := ((c.exp? l.exp).map (·.nextTask)).getD 1
  let u0 := c.sched.nextKey
  let cv := c.sched.nextCv
  let ms := List.range l.tem.size
  let st : TaskState := match place with
    | .watching _ => .watching
    | _ => .spawned
  let c := ms.foldl (fun (c : Chip) i =>
    let t : Task :=
      { exp := l.exp, taskid := id + i, caravan := cv, index := i, state := st, args := l.args, groups := l.groups, departed := false, slot := none, full := false, header := [], heldAt := none }
    { c with drovers := put c.drovers (u0 + i) (l.drover (u0 + i) i), sched := { c.sched with tasks := put c.sched.tasks (u0 + i) t } }) c
  let v : Caravan :=
    { exp := l.exp, tmpl := l.tmpl, members := ms.map fun i => u0 + i, pinned := l.tem.pinned, prio := l.prio, ready := cycle, order := 0,
      agedAt := cycle, passedAt := none, rose := none, origin := none, place := place, reason := none, watches := watches, hint := l.hint, near := l.near, wake := false,
      dispatchedAt := 0, lastAdvert := cycle }
  ((c.onSched fun s => { s with nextKey := u0 + l.tem.size, nextCv := cv + 1, caravans := put s.caravans cv v }).onExp l.exp fun x =>
    { x with nextTask := id + l.tem.size }, cv, id)

/-- The slice at which a physical address is homed, when it is in module memory (R289). -/
def sliceNear (pa : Nat) : Option Nat :=
  match regionOf pa with
  | .hbmI => some (sliceOf pa)
  | .hbmD => some (sliceOf pa)
  | .lpddr => some (sliceOf pa)
  | _ => none

/-! ## Watch records (R283) -/

/-- A watched word as one number: its physical address, and above it the device of another module's plus 1. -/
def watchWord (l : Leaf) (pa : Nat) : Nat := if l.rmt then (l.dev + 1) * 2 ^ 48 + pa else pa

/-- Whether entry i of a caravan's watches has its record: at the home, with a steward, or sent to another module. -/
def Chip.watchPlaced (c : Chip) (cv i : Nat) : Bool :=
  (c.homes.waiters.any fun w => match w with
    | .watch _ _ v j => v == cv && j == i
    | _ => false) ||
    (c.requests.any fun r => match r.2 with
      | .watch v j _ => v == cv && j == i
      | _ => false) ||
    (c.traps.waiting.any fun r => r.deferWatch == some (cv, i)) ||
    (c.traps.queues.toList.any fun q => q.any fun r => r.deferWatch == some (cv, i)) ||
    c.traps.current.toList.any fun r => r.any fun r => r.deferWatch == some (cv, i)

/-- The payload of a load-when-full for another module, which answers once the word is full (log 37). -/
def watchPayload (exp : Nat) : List Byte := leBytes 5 1 ++ leBytes 0 1 ++ leBytes 8 2 ++ leBytes exp 2 ++ leBytes 0 30

/-- The payload of a question whether a word of another module is full (R187, log 37). -/
def tagPayload : List Byte := leBytes 19 1 ++ leBytes 0 1 ++ leBytes 8 2 ++ leBytes 0 32

/-- A watch that finds no record free, handed to a steward as a SYNCRES record (R143): for a TWATCH that of the member and its serai,
for a spawned caravan that of member 0. -/
def Chip.watchToSteward (c : Chip) (cv i : Nat) (v : Caravan) (w : Nat) : Chip :=
  let die := match v.place with
    | .watching d => d
    | .resident d => d
    | _ => 0
  let u := if 16 ≤ i then v.members[i - 16]? else v.members.head?
  c.raiseRecord die v.exp ((u.bind c.seraiOf).getD 0) false false true u (some cv)
    (trapWords 0x0F (BitVec.ofNat 64 w) (BitVec.ofNat 64 (1 * 2 ^ 13 + 3 * 2 ^ 6 + 0x2C)) (BitVec.ofNat 64 w) 0) none (some (cv, i))

/-- A watch record registered at the word's home, as one step in the word's order: satisfied when the word is full; with no
record free it goes to a steward (R143). -/
def Chip.registerWatch (c : Chip) (cycle cv i : Nat) : Chip :=
  match c.caravan? cv with
  | none => c
  | some v =>
    match look v.watches i with
    | none => c
    | some w =>
      if c.watchPlaced cv i then c
      else if 2 ^ 48 ≤ w then
        match c.request (w / 2 ^ 48 - 1) 3 (w % 2 ^ 48) (watchPayload v.exp) (fun k => .watch cv i k) with
        | none => c
        | some (_, c) => c
      else if c.homes.tag w then c.watchDone cycle cv i (c.homes.clockOf w)
      else if c.waiterRoom w then c.onHomes fun h => { h with waiters := h.waiters ++ [.watch (wordKey w) w cv i] }
      else c.watchToSteward cv i v w

/-- WATCH_REGISTER (R283): entry i of a spawned caravan. -/
def execWatchRegister (cv : Nat) (i : BitVec 2) (s : State) : Host.Outcome State Fault Refusal :=
  s.eventStep fun c cycle => c.registerWatch cycle cv i.toNat

/-! ## SPAWN (R184) -/

/-- The die on which a drover's commands to the bazaar act: its own; for a steward the start die of the expedition (log 47). -/
def Chip.bazaarDie (c : Chip) (d : Drover) (e : Nat) : Nat :=
  if d.steward then ((c.exp? e).map fun x => x.home / 64).getD 0 % 8 else d.die

/-- Group ids of a block, by membership. -/
def blockGroups (b : List Byte) : List (Option Nat) :=
  (List.range 4).map fun i => if bitOf (byteAt b 28) i then some (byteAt b (24 + i)) else none

/-- A watch list translated: the watched words by entry, BADWATCH, a fault of an address, or a wait. -/
inductive Watches where
  /-- Translated. -/
  | ok (m : SMap Nat)
  /-- Misaligned, or on an untagged page. -/
  | bad
  /-- XLATE or PERM, precise. -/
  | fault (cause va : Nat)
  /-- A page cannot be reached yet. -/
  | wait (c : Chip)

/-- The watches of a block. -/
def Chip.watchList (c : Chip) (u : Nat) (d : Drover) (b : List Byte) : List Nat → SMap Nat → Watches
  | [], m => .ok m
  | i :: r, m =>
    if !bitOf (byteAt b 29) i then c.watchList u d b r m
    else
      let va := field b (32 + 8 * i) 8
      if va % 8 ≠ 0 then .bad
      else
        match c.engineLeaf u d va .read with
        | .bad k a => .fault k a
        | .wait c => .wait c
        | .ok l _ => if l.tagged then c.watchList u d b r (put m i (watchWord l (l.pa va))) else .bad

/-- Whether reserved bytes of an argument block are set. -/
def argsBad (b : List Byte) : Bool := decide (15 < byteAt b 28) || decide (15 < byteAt b 29) || byteAt b 31 != 0

/-- SPAWN from its block on: the refusals in the order of R184's table, then one caravan. -/
def State.spawn (s : State) (dr0 dr : Drover) (d : BitVec 5) (w : Nat) (b : List Byte) (c : Chip) : Res (Chip × Drover) :=
  match (c.groupExp dr0).bind fun e => (c.exp? e).bind fun x => (look x.templates (w % 1024)).map fun t => (e, x, t) with
  | none => Drover.status c dr d (failWord 28)
  | some (e, x, t) =>
    let gs := blockGroups b
    if t.entry = 0 then Drover.status c dr d (failWord 28)
    else if gs.any fun g => g.any fun k => (look x.groups k).isNone then Drover.status c dr d (failWord 29)
    else
      match c.watchList s.focus dr0 b (List.range 4) [] with
      | .bad => Drover.status c dr d (failWord 30)
      | .fault k a => .trap (dr0.trapAt k (BitVec.ofNat 64 a)) dr0
      | .wait c => .hold c dr0 (some 32)
      | .ok m =>
        let die := c.bazaarDie dr0 e
        if argsBad b then Drover.status c dr d (failWord 21)
        else if 2048 ≤ c.queueLen die ∧ !c.spillRoom e then Drover.status c dr d (failWord 24)
        else
          let dr1 := dr.tick s.focus
          let l : Launching :=
            { exp := e, tmpl := w % 1024, tem := t, prio := if bitOf w 15 then bitsOf w 10 3 else t.prio,
              args := [BitVec.ofNat 64 (field b 0 8), BitVec.ofNat 64 (field b 8 8), BitVec.ofNat 64 (field b 16 8)], groups := gs,
              hint := byteAt b 30, near := m.head?.bind fun p => if p.2 < 2 ^ 48 then sliceNear p.2 else none, clk := dr1.clk }
          let (c, cv, id) := c.newCaravan s.cycle l m (if m = [] then .gone else .watching die)
          let from' := if dr0.steward then 8192 + dr0.core.getD 0 else 1 + dr0.core.getD 0
          let c := if m = [] then c.enqueue cv die s.cycle (arbiterOrder 2 from') else c
          Drover.status c dr1 d (statusWord 0 0 id)

/-- SPAWN (R184): the block is read where rb is not x0; a release at device scope, so the earlier accesses come first. -/
def execSpawn (d a b : BitVec 5) (s : State) : Host.Outcome State Fault Refusal :=
  s.drives (.spawn d a b) fun dr =>
    unlessStall (dr.srcStall [a, b]) <| unlessStall (dr.dstStall d) <|
      (dr.read2 s.focus a b).bind fun (x, y, dr1) =>
        if x.toNat / 2 ^ 16 ≠ 0 ∨ bitsOf x.toNat 13 2 ≠ 0 then Drover.status s.chip dr1 d (failWord 20)
        else if !dr.released then .stall (some 32)
        else if b = 0 then s.spawn dr dr1 d x.toNat [] s.chip
        else s.block s.chip dr y 64 64 fun blk c => s.spawn dr dr1 d x.toNat blk c

/-! ## Leaving a serai (R185, R290, R343) -/

/-- The task that an end of a token path belongs to. -/
def Ep.task : Ep → Option Nat
  | .porter u _ => some u
  | .portal u _ _ => some u
  | .mailbox u => some u
  | .context u _ => some u
  | .copy u _ _ => some u
  | .port _ => none

/-- The bindings of a task removed. -/
def Chip.unbindTask (c : Chip) (u : Nat) : Chip :=
  { c with binds := c.binds.filter fun b => b.1.task != some u && b.2.task != some u }

/-- An entry that has left the queues of its bazaar: nothing is kept for it, and none is on its way (R288, R292). -/
def Bazaar.without (b : Bazaar) (die cv : Nat) (place : Place) : Bazaar :=
  { b with reserving := if b.reserving = some cv then none else b.reserving,
           migrating := b.migrating && match place with
             | .migrating d _ => d != die
             | _ => true }

/-- The payload that tells another module of a caravan, by its name where it came from: 21 that it has ended, 22 that it is to be
killed (R189, R279, log 37). -/
def fatePayload (code cv : Nat) : List Byte := leBytes code 1 ++ leBytes 0 1 ++ leBytes 8 2 ++ leBytes 0 16 ++ leBytes cv 8 ++ leBytes 0 8

/-- Another module told of a caravan's end, or to kill it. -/
def Chip.tellFate (c : Chip) (dev code cv : Nat) : Chip :=
  match c.request dev 3 0 (fatePayload code cv) (fun k => .posted 63 k) with
  | none => c
  | some (_, c) => c

/-- The module that a caravan came from told of its end. -/
def Chip.tellOrigin (c : Chip) (v : Caravan) : Chip :=
  match v.origin with
  | none => c
  | some (dev, cv) => c.tellFate dev 21 cv

/-- A caravan whose members are all retired or killed leaves its serais, or the queue or spill area in which it stands; held banks of it
are given up. -/
def Chip.caravanGone (c : Chip) (cv : Nat) : Chip :=
  match c.caravan? cv with
  | none => c
  | some v =>
    let c := v.members.foldl (fun c u => c.unbindTask u) (if v.place = .gone then c else c.tellOrigin v)
    let c := c.onSched fun s => { s with bazaars := s.bazaars.mapIdx fun die (b : Bazaar) => b.without die cv v.place }
    ((c.onCaravan cv fun v => { v with place := .gone, watches := [], reason := none }).spillFreed v.exp).onSched fun s =>
      { s with heldBanks := s.heldBanks.filter fun p => !v.members.contains p.2, images := s.images.filter fun p => !v.members.contains p.1,
               saving := s.saving.filter fun p => !v.members.contains p.1,
               restoring := s.restoring.filter fun p => !v.members.contains p.2 }

/-- Whether a serai's engines have nothing left to perform: copies finished, writes of streams performed. -/
def Serai.drained (v : Serai) : Bool :=
  (v.copy.ch.toList.all fun jobs => jobs == []) &&
    v.porters.toList.all fun q => q.chunks == [] && q.packets == [] && (!q.dir || q.buf == [] || q.cond == 0 || q.cond == 3)

/-- A save slot freed: its byte in the slot table (R335). -/
def Chip.freeSlot (c : Chip) (u : Nat) (slot : Nat) : Chip :=
  match c.drover? u, (c.task? u).bind fun t => c.exp? t.exp with
  | some d, some x => (c.writeBlock u d (x.chrysalis + slot) [0]).1
  | _, _ => c

/-! ## RETIRE (R185) -/

/-- Whether a write other than a RED still stands in the post buffer (R185). -/
def Drover.writesOpen (d : Drover) : Bool :=
  d.mem.accs.any fun a => !a.kind.isRead && !a.kind.isMarker && a.phase != .replied && !a.kind.isRed

/-- Whether an access still has its effect when its register is abandoned (R17, rule 3): it changes memory, or it is a FENCE that orders
those that do. -/
def AccKind.lasts : AccKind → Bool
  | .load => false
  | .loadU => false
  | .dload => false
  | .ldf => false
  | .phase _ => false
  | _ => true

/-- Whether an access waits at its home or with a steward. -/
def Access.waits (a : Access) : Bool := a.phase == .waiting || a.phase == .steward

/-- The drover of a task that has ended: its registers and waits are abandoned; what it has issued and memory has yet to see goes on. -/
def Drover.ended (d : Drover) : Drover :=
  { d with run := .off, hold := .idle, async := [], trap := none, held := false, blockedAt := none,
           board := { pend := [], late := [], dpend := [], dbad := [], clk := [] },
           mem := { d.mem with accs := d.mem.accs.filter fun a => a.kind.lasts && !a.waits } }

/-- The waiter records of a task cancelled (R144), and its pushes that wait; what other modules keep for it stays (log 90). -/
def Chip.cancelWaiters (c : Chip) (u : Nat) : Chip :=
  c.onHomes fun h => { h with waiters := h.waiters.filter fun w => match w with
    | .access _ _ v _ => v != u
    | .push _ v _ => v != u
    | _ => true }

/-- The late errors that a task has not read when it ends go to the fault log (R18). -/
def Chip.logUnread (c : Chip) (u : Nat) (d : Drover) : Chip := (lostErrors d d.ended).foldl (fun c l => c.logLate u d l) c

/-- The engines of a task that has retired: streams cut as SCLOSE cuts them, contexts stopped. -/
def Serai.cut (v : Serai) : Serai :=
  let v := { v with porters := v.porters.map fun q => q.close.2 }
  (List.range 4).foldl (fun v g => if (v.ctx g).cond = 1 ∨ (v.ctx g).cond = 3 then v.stopCtx g else v) v

/-- The tokens of the ports that feed a task are discarded when it ends (R360). -/
def Chip.dropFeeds (c : Chip) (u : Nat) : Chip :=
  { c with ports := c.ports.map fun (p : Port) => if p.mode && c.taskKey? p.expid p.taskid == some u then { p with fifo := [] } else p }

/-- RETIRE (R185): once the writes in the post buffer are performed; the serai stays with the caravan until every member has
retired. What it leaves unread is logged as it issues (`State.commit`). -/
def execRetire (s : State) : Host.Outcome State Fault Refusal :=
  s.commands .retire fun n dr =>
    if dr.writesOpen then .stall (some 32)
    else
      let u := s.focus
      let c := s.chip.onTask u fun t => { t with state := .retired }
      let c := ((c.cancelWaiters u).dropFeeds u).onSerai n Serai.cut
      let cv := ((c.task? u).map (·.caravan)).getD 0
      let c := match c.caravan? cv with
        | none => c
        | some v => if c.living v = [] then c.caravanGone cv else c
      .ok (c, dr.ended)

/-! ## Killing (R343, R189) -/

/-- The drover of a killed task: what had left the post buffer, and its REDs, are still performed. -/
def Drover.killed (d : Drover) : Drover :=
  { d.ended with
    mem := { d.mem with accs := d.mem.accs.filter fun a => a.kind.isRed || (a.kind.lasts && match a.phase with
      | .sent => true
      | .remote _ => true
      | .joined _ _ => true
      | _ => false) } }

/-- A member of a killed caravan stops at once; its serai's windows are dead, and the serai is as one of another expedition. -/
def Chip.killMember (c : Chip) (u : Nat) : Chip :=
  match c.drover? u, c.task? u with
  | some d, some t =>
    if !t.alive then c
    else
      let c := match t.slot with
        | some k => c.freeSlot u k
        | none => c
      let c := (c.setDrover u d.killed).onTask u fun t => { t with state := .killed, slot := none, full := false, heldAt := none }
      let c := ((c.logUnread u d).cancelWaiters u).dropFeeds u
      match d.core with
      | none => c
      | some n =>
        (c.setSerai n Serai.reset).onSched fun s => { s with dead := insertNat s.dead n, lastExp := del s.lastExp n }
  | _, _ => c

/-- A caravan killed: every living member, its waiter and watch records, and what another module runs of it; its continuations and
reductions stand. -/
def Chip.killCaravan (c : Chip) (cv : Nat) : Chip :=
  match c.caravan? cv with
  | none => c
  | some v =>
    let c := match v.place with
      | .module dev => c.tellFate dev 22 cv
      | _ => c
    let serais := (v.members.filterMap fun u => c.seraiOf u) ++ (c.sched.heldBanks.filter fun p => v.members.contains p.2).map fun p => p.1
    let c := v.members.foldl (fun c u => c.killMember u) c
    let c := c.onHomes fun h => { h with waiters := h.waiters.filter fun w => match w with
      | .watch _ _ k _ => k != cv
      | _ => true }
    let c := c.onSched fun s => { s with heldBanks := s.heldBanks.filter fun p => !v.members.contains p.2 }
    (serais.foldl (fun c n => (c.setSerai n Serai.reset).onSched fun s =>
      { s with dead := insertNat s.dead n, lastExp := del s.lastExp n }) c).caravanGone cv

/-- TKILL (R189): every member stops at once; naming its own caravan, the issuer is killed with the rest. -/
def execTkill (d a : BitVec 5) (s : State) : Host.Outcome State Fault Refusal :=
  s.drives (.tkill d a) fun dr =>
    unlessStall (dr.srcStall [a]) <| unlessStall (dr.dstStall d) <|
      (dr.readX s.focus a).bind fun (x, dr1) =>
        match (s.chip.groupExp dr).bind fun e => if x.toNat < 2 ^ 32 then s.chip.taskKey? e x.toNat else none with
        | none => Drover.status s.chip dr1 d (failWord 31)
        | some u =>
          match s.chip.task? u with
          | none => Drover.status s.chip dr1 d (failWord 31)
          | some t =>
            if !t.alive then Drover.status s.chip dr1 d (failWord 31)
            else
              let c := s.chip.killCaravan t.caravan
              if !dr.steward ∧ (s.chip.task? s.focus).any fun (me : Task) => me.caravan == t.caravan then
                .hold c ((c.drover? s.focus).getD dr) none
              else Drover.status c dr1 d statusOk

/-! ## YIELD, TWATCH, TSTAT -/

/-- The caravan of the drover in focus. -/
def State.myCaravan (s : State) : Option (Nat × Caravan) :=
  (s.chip.task? s.focus).bind fun t => (s.chip.caravan? t.caravan).map fun v => (t.caravan, v)

/-- YIELD (R186): the caravan is to be saved, and is ready again at the end of its save; no effect in a pinned caravan. -/
def execYield (s : State) : Host.Outcome State Fault Refusal :=
  s.commands .yield fun _ dr =>
    match dr.hold, s.myCaravan with
    | .result _, _ => .ok (s.chip, dr)
    | .yielding, _ => .stall (some 32)
    | _, none => .ok (s.chip, dr)
    | _, some (cv, v) =>
      if v.pinned then .ok (s.chip, dr)
      else
        .hold (s.chip.onCaravan cv fun v => { v with reason := some (v.reason.getD 0), wake := true }) { dr with hold := .yielding } (some 32)

/-- TWATCH (R187): OK at once on a full word, which another module is asked for first (as entry 32 + index, answered 0 when the word is
full, 1 when it is empty, 2 when the link fails); else the word is watched as entry 16 + index, and the caravan is to be saved, or waits in place when it is pinned. -/
def execTwatch (d a : BitVec 5) (s : State) : Host.Outcome State Fault Refusal :=
  s.commands (.twatch d a) fun _ dr =>
    match dr.hold with
    | .result 0 => (dr.readX s.focus a).bind fun (_, dr1) => Drover.status s.chip dr1 d statusOk
    | .waiting => .stall (some 32)
    | hold =>
      unlessStall (dr.srcStall [a]) <| unlessStall (dr.dstStall d) <|
        (dr.readX s.focus a).bind fun (x, dr1) =>
          if x.toNat % 8 ≠ 0 then .trap (dr.trapAt 2 x) dr
          else
            match s.chip.engineLeaf s.focus dr x.toNat .read with
            | .bad k va => .trap (dr.trapAt k (BitVec.ofNat 64 va)) dr
            | .wait c => .hold c dr (some 32)
            | .ok l c =>
              let w := watchWord l (l.pa x.toNat)
              if !l.tagged then Drover.status c dr1 d (failWord 30)
              else if !l.rmt && c.homes.tag w then Drover.status c dr1 d statusOk
              else
                match s.myCaravan, c.task? s.focus with
                | some (cv, _), some t =>
                  if l.rmt ∧ hold = .result 2 then .trap { dr.trapAt 6 x with aux2 := 4 } dr
                  else if l.rmt ∧ hold ≠ .result 1 then
                    match c.request l.dev 3 (l.pa x.toNat) tagPayload (fun k => .watch cv (32 + t.index) k) with
                    | none => .trap { dr.trapAt 6 x with aux2 := 4 } dr
                    | some (_, c) => .hold c { dr with hold := .waiting } (some 32)
                  else
                    let i := 16 + t.index
                    let c := c.onCaravan cv fun v =>
                      { v with watches := put v.watches i w, reason := if v.pinned then v.reason else some (v.reason.getD 1) }
                    let c := c.setDrover s.focus { dr with hold := .waiting }
                    let c := c.registerWatch s.cycle cv i
                    .hold c ((c.drover? s.focus).getD dr) (some 32)
                | _, _ => Drover.status c dr1 d statusOk

/-- The state that TSTAT reports (R188, R280, R281). -/
def Chip.stateCode (c : Chip) (u : Nat) (t : Task) : Nat :=
  match t.state with
  | .spawned => 0
  | .watching => 1
  | .ready => 2
  | .dispatched => 3
  | .running => if (c.drover? u).any fun d => d.blockedSince.isSome then 5 else 4
  | .blocked => 5
  | .yielded => 6
  | .retired => 7
  | .killed => 8

/-- TSTAT (R188). -/
def execTstat (d a : BitVec 5) (s : State) : Host.Outcome State Fault Refusal :=
  s.drives (.tstat d a) fun dr =>
    unlessStall (dr.srcStall [a]) <| unlessStall (dr.dstStall d) <|
      (dr.readX s.focus a).bind fun (x, dr1) =>
        let id := x.toNat % 2 ^ 32
        let echo := id * 2 ^ 32
        match (s.chip.groupExp dr).bind fun e => (s.chip.taskKey? e id).bind fun u => (s.chip.task? u).map fun t => (u, t) with
        | none => Drover.status s.chip dr1 d (BitVec.ofNat 64 (echo + 0xFFF * 2 ^ 8 + 15))
        | some (u, t) =>
          let code := s.chip.stateCode u t
          let v : Option Caravan := s.chip.caravan? t.caravan
          let placed := (s.chip.sched.restoring.find? fun p => p.2 == u).map fun p => p.1
          let serai := if 3 ≤ code ∧ code ≤ 5 then ((s.chip.seraiOf u).or placed).getD 0xFFF else 0xFFF
          Drover.status s.chip dr1 d (BitVec.ofNat 64 (echo + ((v.map fun v => v.watches.length).getD 0) % 16 * 2 ^ 20 + serai * 2 ^ 8 +
            b2n (v.any fun v => v.pinned) * 2 ^ 7 + ((v.map fun v => v.prio).getD 0) % 8 * 2 ^ 4 + code))

end Sys2Proof.Machine
end

