-- ==== Sys2Proof/Machine/Xde.lean ====
section
/-!
DEFINITION. The expert dispatch engines (R190 to R192, R303 to R318): rounds, gate lists and their merge, weights and records, the bias
table, XBIN, and the commands' acceptance.
-/

namespace Sys2Proof.Machine

/-! ## Done words (R190) -/

/-- A done word's value. -/
def doneWord (count dropped bver code : Nat) : Word :=
  BitVec.ofNat 64 (count % 2 ^ 32 * 2 ^ 32 + dropped % 65536 * 65536 + bver % 256 * 256 + code % 256)

/-- Status code of the cause of a fault. -/
def faultCode (cause : Nat) : Nat := if cause = 3 then 35 else if cause = 4 then 36 else 37

/-- The drover through which an XDE works for the owner of a round, a session or a work; once the owner's is gone, one of its expedition
on the XDE's die (log 86). -/
def Chip.workDrover (c : Chip) (u exp die : Nat) : Drover :=
  match c.drover? u with
  | some d => if d.exp = exp then d else { Drover.fresh false (some (512 * die)) with exp := exp }
  | none => { Drover.fresh false (some (512 * die)) with exp := exp }

/-- Whether a done word must wait: what it covers is written in another module and not yet performed (R304), or a write that comes before it
is on its way to its word. -/
def Chip.doneWaits (c : Chip) (u a : Nat) (clk : SMap Nat) : Bool :=
  c.postsOpen (blockAgent u) || (decide (a < 2 ^ 48) && c.behind u clk a)

/-- A done word written as STF writes: data and full tag at the home in one step, waiters served, a release at device scope; in another
module by a packet; dropped where a write is dropped. -/
def Chip.writeDone (c : Chip) (cycle exp u a : Nat) (w : Word) (clk : SMap Nat) : Chip :=
  if 2 ^ 48 ≤ a then
    let data := leBytes 8 1 ++ leBytes 0 1 ++ leBytes 8 2 ++ leBytes exp 2 ++ leBytes 0 14 ++ leBytes w.toNat 8 ++ leBytes 0 8
    match c.request (a / 2 ^ 48 - 1) 3 (a % 2 ^ 48) data (fun k => .posted (blockAgent u) k) with
    | none => c
    | some (_, c) => c
  else if c.writeDropped a then c
  else
    let r := c.releaseOf u (c.workDrover u exp 0) 3 clk
    ({ c with homes := (c.homes.perform .stf a 8 w 0).homes.releaseOn a 8 r }).serve cycle a

/-- A done word's address translated at acceptance: the word, or the status code of its fault. -/
inductive DoneAt where
  /-- The word, as `watchWord` names it. -/
  | word (w : Nat)
  /-- XLATE or PERM. -/
  | refused (code : Nat)
  /-- A member's window that is out of its serai. -/
  | wait
  deriving DecidableEq, Repr

/-- See `DoneAt`; an untagged page is no page for full/empty stores (R27). -/
def Chip.doneAt (c : Chip) (u : Nat) (d : Drover) (va : Nat) : DoneAt :=
  match c.engineLeaf u d va .write with
  | .bad k _ => .refused (faultCode k)
  | .wait _ => .wait
  | .ok l _ => if l.tagged then .word (watchWord l (l.pa va)) else .refused 36

/-- The agent number of an XDE's reads for a task. -/
def xdeAgent (u : Nat) : Nat := blockAgent u + 2

/-! ## Slots (R303) -/

/-- Rounds that a die's XDE takes part in. -/
def Xde.roundsOf (x : Xde) (die : Nat) : Nat := (x.rounds.filter fun p => !p.2.closed && p.2.dies.contains die).length

/-- Sessions of a die's XDE. -/
def Xde.sessionsOf (x : Xde) (die : Nat) : Nat := (x.sessions.filter fun s => s.die == die).length

/-- Free slots of a die's XDE. -/
def Xde.freeSlots (x : Xde) (die : Nat) : Nat := 8 - (x.roundsOf die + x.sessionsOf die)

/-- The open round of a micro-batch. -/
def Xde.openRound (x : Xde) (mb : Nat) : Option Round := (look x.rounds mb).bind fun r => if r.closed then none else some r

/-- Fields of a round's block. -/
def Round.k (r : Round) : Nat := byteAt r.block 0

/-- See `Round.k`: contributors. -/
def Round.contributors (r : Round) : Nat := field r.block 2 2

/-- See `Round.k`: experts. -/
def Round.experts (r : Round) : Nat := field r.block 4 2

/-- See `Round.k`: tokens. -/
def Round.tokens (r : Round) : Nat := field r.block 8 4

/-- See `Round.k`: record array. -/
def Round.records (r : Round) : Nat := field r.block 16 8

/-! ## XTOPK and the opening of rounds (R303, R310) -/

/-- What the XDE commands share: operands, the release of the issuer's earlier accesses (R304), the micro-batch number, the block. -/
def State.xdeCommand (s : State) (dr : Drover) (d a b : BitVec 5) (f : Nat → List Byte → Drover → Chip → Res (Chip × Drover)) : Res (Chip × Drover) :=
  unlessStall (dr.srcStall [a, b]) <| unlessStall (dr.dstStall d) <|
    (dr.read2 s.focus a b).bind fun (x, y, dr1) =>
      if !dr.released then .stall (some 32)
      else if 2 ^ 32 ≤ x.toNat then Drover.status s.chip dr1 d (failWord 21)
      else s.block s.chip dr y 64 64 fun blk c => f x.toNat blk (dr1.tick s.focus) c

/-- The done word checked, and then the rest. -/
def Chip.withDone (c : Chip) (u : Nat) (dr0 dr : Drover) (d : BitVec 5) (va : Nat) (f : Nat → Res (Chip × Drover)) : Res (Chip × Drover) :=
  match c.doneAt u dr0 va with
  | .wait => .stall (some 32)
  | .refused k => Drover.status c dr d (failWord k)
  | .word w => f w

/-- Whether bytes from o to the end of a block are zero. -/
def restZero (b : List Byte) (o : Nat) : Bool := zeroBytes b o 64

/-- XTOPK (R191, R303): the open request goes to die 0's XDE, and the command holds until it has answered. -/
def execXtopk (d a b : BitVec 5) (s : State) : Host.Outcome State Fault Refusal :=
  s.drives (.xtopk d a b) fun dr =>
    match dr.hold with
    | .result w => (dr.read2 s.focus a b).bind fun (_, _, dr1) => Drover.status s.chip dr1 d w
    | .waiting => .stall (some 32)
    | _ =>
      s.xdeCommand dr d a b fun mb blk dr1 c =>
        let rec' := field blk 16 8
        let done := field blk 24 8
        let t := field blk 8 4
        if 1 < byteAt blk 1 ∨ !zeroBytes blk 6 2 ∨ !zeroBytes blk 12 4 ∨ !restZero blk 32 ∨ rec' % 8 ≠ 0 ∨ done % 8 ≠ 0 then
          Drover.status c dr1 d (failWord 21)
        else if byteAt blk 0 < 1 ∨ 8 < byteAt blk 0 ∨ field blk 2 2 < 1 ∨ 4096 < field blk 2 2 ∨ field blk 4 2 < 1 ∨ 4096 < field blk 4 2 ∨ t < 1 ∨ 65536 < t then
          Drover.status c dr1 d (failWord 33)
        else
          c.withDone s.focus dr dr1 d done fun w =>
            let o : OpenReq := { u := s.focus, exp := dr.exp, die := dr.die, mb := mb, block := blk, done := w, clk := dr1.clk }
            .hold (c.onXde fun x => { x with opens := x.opens ++ [o] }) { dr with clk := dr1.clk, hold := .waiting } (some 32)

/-- A round as it opens: with the newest complete version of the bias (R310). -/
def Xde.newRound (x : Xde) (o : OpenReq) : Round :=
  { id := x.nextRound, exp := o.exp, ending := none, block := o.block, slot := if (x.biasVer[0]?).getD 0 = x.newest then 0 else 1, bver := x.newest, toks := [], dropNan := 0, done := o.done,
    closed := false, dies := if o.die = 0 then [0] else [0, o.die], owner := o.u, clk := o.clk }

/-- Die 0's answer to an open request: status code, and the engines with the round opened or joined. -/
def Xde.answerOpen (x : Xde) (o : OpenReq) : Nat × Xde :=
  match x.openRound o.mb with
  | some r =>
    if r.block ≠ o.block then (32, x)
    else if r.dies.contains o.die then (0, { x with rounds := put x.rounds o.mb { r with clk := joinClk r.clk o.clk } })
    else if x.freeSlots o.die = 0 then (24, x)
    else (0, { x with rounds := put x.rounds o.mb { r with dies := r.dies ++ [o.die], clk := joinClk r.clk o.clk } })
  | none =>
    if x.freeSlots 0 = 0 ∨ x.freeSlots o.die = 0 then (24, x)
    else (0, { x with rounds := put x.rounds o.mb (x.newRound o), nextRound := x.nextRound + 1 })

/-- ROUND_OPEN (R303): the oldest open request of a die is answered; the serai has joined the round. -/
def execRoundOpen (die : BitVec 3) (s : State) : Host.Outcome State Fault Refusal :=
  s.eventStep fun c _ =>
    match c.xde.opens.find? fun o => o.die == die.toNat with
    | none => c
    | some o =>
      let x := { c.xde with opens := c.xde.opens.erase o }
      if !(c.task? o.u).any Task.alive ∧ !(c.drover? o.u).any fun d => d.steward then { c with xde := x }
      else
        let (code, x) := x.answerOpen o
        let id := ((x.openRound o.mb).map (·.id)).getD 0
        let c : Chip := { c with xde := x }
        let c := c.onDrover o.u fun (d : Drover) => if d.hold = .waiting then { d with hold := .result (failWord code) } else d
        if code = 0 then c.onEngines o.u fun v => { v with joined := some (o.mb, id) } else c

/-! ## Gate lists (R305 to R307) -/

/-- Order of keys as numbers: whether a's is greater, equal or less; NaN does not occur. -/
def keyCmp (a b : BitVec 32) : Int := ((fp32.decode a.toNat).cmp (fp32.decode b.toNat)).getD 0

/-- The order of R306: descending key, then ascending expert. DESIGN CHOICE (log 93): of two entries of one expert with equal keys that with
the greater score, and then the lesser score bits, comes first, so that the merge does not depend on arrival. -/
def GateEntry.before (a b : GateEntry) : Bool :=
  let c := keyCmp a.key b.key
  let s := keyCmp a.score b.score
  decide (0 < c ∨ (c = 0 ∧ (a.expert < b.expert ∨ (a.expert = b.expert ∧ (0 < s ∨ (s = 0 ∧ a.score.toNat < b.score.toNat))))))

/-- An entry put into a list in order; of two for one expert the better stays. -/
def gateInsert : List GateEntry → GateEntry → List GateEntry
  | [], e => [e]
  | a :: l, e =>
    if a.expert = e.expert then (if e.before a then e :: l else a :: l)
    else if e.before a then e :: a :: (l.filter fun b => b.expert != e.expert)
    else a :: gateInsert l e

/-- Two lists merged: the best 8 distinct experts. -/
def gateMerge (a b : List GateEntry) : List GateEntry := (b.foldl gateInsert a).take 8

/-- The leaf's work on one entry (R306): its key, or nothing for an invalid score or an expert that the round has not; the flag says that
a score was excluded. -/
def leafEntry (bias : SMap (BitVec 32)) (apply : Bool) (experts : Nat) (e : Nat) : Option GateEntry × Bool :=
  let x := bitsOf e 32 12
  let sc := e % 2 ^ 32
  if experts ≤ x then (none, false)
  else
    let use := fun (bits : Nat) =>
      let s : BitVec 32 := BitVec.ofNat 32 bits
      let k := if apply then BitVec.ofNat 32 (fp32.addBits .ieee .rne bits (lookD bias x 0).toNat).1 else s
      (some { expert := x, score := s, key := k }, false)
    match fp32.decode sc with
    | .nan => (none, true)
    | .inf true => (none, true)
    | .inf false => use 0x7F7FFFFF
    | .fin _ _ _ => use sc

/-- The list that a leaf makes of entries, and whether one was excluded. -/
def leafList (bias : SMap (BitVec 32)) (apply : Bool) (experts : Nat) (es : List Nat) : List GateEntry × Bool :=
  es.foldl (fun (l, nan) e =>
    match leafEntry bias apply experts e with
    | (some g, _) => (gateMerge l [g], nan)
    | (none, n) => (l, nan || n)) ([], false)

/-- The contributions of a token that a round has received, merged or on their way. -/
def Xde.contributed (x : Xde) (mb tok : Nat) (r : Round) : Nat :=
  ((look r.toks tok).map (·.got)).getD 0 + (x.lists.filter fun l => l.mb == mb && l.tok == tok).length

/-- The round that a task's serai joined last, while it is open; a later round of the same micro-batch is another (R305). -/
def Chip.joinedRound (c : Chip) (u : Nat) : Option (Nat × Round) :=
  (c.seraiOf u).bind fun n => (c.serai n).joined.bind fun j =>
    (c.xde.openRound j.1).bind fun r => if r.id = j.2 then some (j.1, r) else none

/-- XGATE (R190, R305): a misaligned list traps; refusals come in the order of its table; a list counts although it is empty. -/
def execXgate (d a b : BitVec 5) (s : State) : Host.Outcome State Fault Refusal :=
  s.drives (.xgate d a b) fun dr =>
    unlessStall (dr.srcStall [a, b]) <| unlessStall (dr.dstStall d) <|
      (dr.read2 s.focus a b).bind fun (x, y, dr1) =>
        if y.toNat % 8 ≠ 0 then .trap (dr.trapAt 2 y) dr
        else if !dr.released then .stall (some 32)
        else
          let tok := bitsOf x.toNat 0 16
          let n := bitsOf x.toNat 16 4
          match s.chip.joinedRound s.focus with
          | none => Drover.status s.chip dr1 d (failWord 1)
          | some (mb, r) =>
            if r.tokens ≤ tok then Drover.status s.chip dr1 d (failWord 33)
            else if r.contributors ≤ s.chip.xde.contributed mb tok r then Drover.status s.chip dr1 d (failWord 1)
            else if 8 < n ∨ 2 ^ 20 ≤ x.toNat then Drover.status s.chip dr1 d (failWord 21)
            else
              s.block s.chip dr y (8 * n) 8 fun blk c =>
                let es := (List.range n).map fun i => field blk (8 * i) 8
                if es.any fun e => decide (2 ^ 44 ≤ e) then Drover.status c dr1 d (failWord 21)
                else
                  let dr2 := dr1.tick s.focus
                  let (l, nan) := leafList ((c.xde.bias[r.slot]?).getD []) (bitOf (byteAt r.block 1) 0) r.experts es
                  let c := c.onXde fun x =>
                    { x with lists := x.lists ++ [{ mb := mb, tok := tok, nan := nan, list := l }],
                             rounds := upd x.rounds mb fun r => { r with clk := joinClk r.clk dr2.clk } }
                  Drover.status c dr2 d statusOk

/-! ## Weights and records (R308, R309) -/

/-- FP32 operations, rounded to nearest even, with no flags. -/
def f32 (f : FVal → FVal → FVal) (a b : Nat) : Nat := (fp32.encode .ieee .rne (f (fp32.decode a) (fp32.decode b))).1

/-- The combine weights of the active scores in rank order (R308). -/
def gateWeights (ss : List Nat) : List Nat :=
  match ss with
  | [] => []
  | s0 :: r =>
    let m := r.foldl (fun m s => fp32.maxBits m s) s0
    let es := ss.map fun s =>
      let d := (fp32.addBits .ieee .rne s (fp32.negBits m)).1
      let t := (fp32.mulBits .ieee .rne d 0x3FB8AA3B).1
      (fp32.encode .ieee .rne (fp32.decode t).exp2).1
    match es with
    | [] => []
    | e0 :: er =>
      let sum := er.foldl (fun a e => (fp32.addBits .ieee .rne a e).1) e0
      es.map fun e => (fp32.divBits .ieee .rne e sum).1

/-- One entry of a record (R309). -/
def recordEntry (rank : Nat) (act : Bool) (e : GateEntry) (weight : Nat) : Nat :=
  2 ^ 63 + b2n act * 2 ^ 62 + rank % 8 * 2 ^ 44 + e.expert % 4096 * 2 ^ 32 + weight % 2 ^ 32

/-- The 128 bytes of a token's record (R191, R309). -/
def recordBytesOf (tok bver k : Nat) (t : GateTok) : List Byte :=
  let act := min k t.list.length
  let ws := gateWeights ((t.list.take act).map fun e => e.score.toNat)
  let es := (t.list.zipIdx.map fun p => recordEntry p.2 (decide (p.2 < act)) p.1 ((ws[p.2]?).getD 0)) ++ List.replicate (8 - t.list.length) 0
  leBytes tok 4 ++ leBytes act 1 ++ leBytes (b2n t.nan + 2 * b2n (t.list == [])) 1 ++ leBytes bver 1 ++ leBytes 0 1 ++
    es.flatMap (fun e => leBytes e 8) ++ leBytes 0 56

/-- A count of 16 bits; one that does not fit has no stated value (log 48). -/
def Chip.dropped16 (c : Chip) (n : Nat) : Nat × Chip :=
  if n < 65536 then (n, c)
  else
    let (w, c) := c.takeFree
    (w.toNat % 65536, c)

/-- A round closes with its done word (R303): its slots are free, and only its block stays; lists for it that are on their way are gone. A
round whose done word must still wait keeps it. -/
def Chip.finishRound (c : Chip) (cycle mb : Nat) (r : Round) (w : Word) : Chip :=
  if c.doneWaits r.owner r.done r.clk then c.onXde fun x => { x with rounds := put x.rounds mb { r with ending := some w } }
  else
    (c.onXde fun x => { x with rounds := put x.rounds mb { r with closed := true, ending := none, toks := [], dies := [] },
                               lists := x.lists.filter fun l => l.mb != mb }).writeDone cycle r.exp r.owner r.done w r.clk

/-- A round that has written its last record, or whose work a fault has cut short. -/
def Chip.closeRound (c : Chip) (cycle mb code : Nat) (r : Round) : Chip :=
  let (drop, c) := c.dropped16 r.dropNan
  let done := (r.toks.filter fun p => p.2.written).length - r.dropNan
  c.finishRound cycle mb r (doneWord done drop r.bver.toNat code)

/-- The oldest list on its way merged into its token; at the last contribution the record is written, and after the last record the done
word. A token whose record cannot be written does not count (R190). -/
def Chip.mergeList (c : Chip) (cycle : Nat) (l : GateList) (rest : List GateList) : Chip :=
  match c.xde.openRound l.mb with
  | none => c.onXde fun x => { x with lists := rest }
  | some r =>
    let t := (look r.toks l.tok).getD { got := 0, nan := false, list := [], written := false }
    let t := { t with got := t.got + 1, nan := t.nan || l.nan, list := gateMerge t.list l.list }
    if r.ending.isSome then c.onXde fun x => { x with lists := rest }
    else if t.got < r.contributors then
      c.onXde fun x => { x with lists := rest, rounds := put x.rounds l.mb { r with toks := put r.toks l.tok t } }
    else
      let d := c.workDrover r.owner r.exp 0
      if c.writeWaits r.owner d (r.records + 128 * l.tok) 128 then c
      else
        let c := c.onXde fun x => { x with lists := rest }
        match c.writeBlock r.owner d (r.records + 128 * l.tok) (recordBytesOf l.tok r.bver.toNat r.k t) with
        | (c, some e) => c.closeRound cycle l.mb (faultCode e) r
        | (c, none) =>
          let r := { r with toks := put r.toks l.tok { t with written := true, list := [] }, dropNan := r.dropNan + b2n (t.list == []) }
          if (r.toks.filter fun p => p.2.written).length < r.tokens then c.onXde fun x => { x with rounds := put x.rounds l.mb r }
          else c.closeRound cycle l.mb 0 r

/-- GATE_MERGE (R304, R306, R307): a done word that has waited is written, or else the oldest list on its way is merged. -/
def execGateMerge (s : State) : Host.Outcome State Fault Refusal :=
  s.eventStep fun c cycle =>
    match c.xde.rounds.find? fun p => p.2.ending.isSome && !c.doneWaits p.2.owner p.2.done p.2.clk with
    | some (mb, r) => c.finishRound cycle mb r (r.ending.getD 0)
    | none =>
      match c.xde.lists with
      | [] => c
      | l :: rest => c.mergeList cycle l rest

/-! ## Works -/

/-- A work with nothing done. -/
def XWork.start (op die mb : Nat) (block : List Byte) (done owner exp : Nat) (clk : SMap Nat) : XWork :=
  { op := op, die := die, mb := mb, block := block, desc := 0, done := done, recs := [], cut := none, ending := none, exp := exp, tok := 0, rank := 0, unanswered := [],
    retarget := [], alts := [], admitted := 0, dropped := 0, code := 0, unreachable := false, experts := 0, owner := owner, clk := clk }

/-- A work accepted. -/
def Chip.addWork (c : Chip) (w : XWork) : Chip := c.onXde fun x => { x with work := x.work ++ [w] }

/-- A work changed in its place. -/
def Chip.setWork (c : Chip) (old new : XWork) : Chip :=
  c.onXde fun x => { x with work := x.work.map fun w => if w = old then new else w }

/-- A work's done word, which it keeps while it must wait. -/
def Chip.finishWork (c : Chip) (cycle : Nat) (w : XWork) (word : Word) : Chip :=
  if c.doneWaits w.owner w.done w.clk then c.setWork w { w with ending := some word }
  else (c.onXde fun x => { x with work := x.work.erase w }).writeDone cycle w.exp w.owner w.done word w.clk

/-- A work's end: its done word. -/
def Chip.endWork (c : Chip) (cycle : Nat) (w : XWork) (count dropped code : Nat) : Chip :=
  c.finishWork cycle w (doneWord count dropped 0 code)

/-- The drover through which a work goes on. -/
def Chip.drovesFor (c : Chip) (w : XWork) : Drover := c.workDrover w.owner w.exp w.die

/-- The oldest work of an operation on a die whose done word has waited and may be written, with that word. -/
def Chip.endingWork (c : Chip) (op : Nat) (die : Option Nat) : Option (XWork × Word) :=
  (c.xde.work.find? fun w => w.op == op && (die.isNone || die == some w.die) && w.ending.isSome && !c.doneWaits w.owner w.done w.clk).bind
    fun w => w.ending.map fun x => (w, x)

/-! ## XBIN (R312) -/

/-- XBIN (R191, R312): the records are read at acceptance. -/
def execXbin (d a b : BitVec 5) (s : State) : Host.Outcome State Fault Refusal :=
  s.drives (.xbin d a b) fun dr =>
    s.xdeCommand dr d a b fun mb blk dr1 c =>
      let t := field blk 8 4
      let e := field blk 12 2
      if !zeroBytes blk 14 2 ∨ !restZero blk 48 ∨ field blk 0 8 % 8 ≠ 0 ∨ field blk 40 8 % 8 ≠ 0 ∨ field blk 16 8 % 4 ≠ 0 ∨ field blk 24 8 % 4 ≠ 0 ∨
          field blk 32 8 % 4 ≠ 0 then Drover.status c dr1 d (failWord 21)
      else if t < 1 ∨ 65536 < t ∨ e < 1 ∨ 4096 < e then Drover.status c dr1 d (failWord 33)
      else
        c.withDone s.focus dr dr1 d (field blk 40 8) fun w =>
          let work := XWork.start 2 dr.die mb blk w s.focus dr.exp dr1.clk
          match c.readBlock (xdeAgent s.focus) s.focus dr (field blk 0 8) (128 * t) with
          | .wait c => .hold c dr (some 32)
          | .bad k _ => Drover.status (c.addWork { work with cut := some (faultCode k) }) dr1 d statusOk
          | .ok recs c => Drover.status ((c.dropFar (xdeAgent s.focus)).addWork { work with recs := recs }) dr1 d statusOk

/-- Entry i of record j in the bytes of a record array. -/
def recEntry (recs : List Byte) (j i : Nat) : Nat := field recs (128 * j + 8 + 8 * i) 8

/-- What an XBIN bins for an expert: entries with P and ACT set and REF clear, of records with a candidate, in ascending token index. -/
def binOf (recs : List Byte) (t x : Nat) : List Nat :=
  (List.range t).flatMap fun j =>
    if bitOf (byteAt recs (128 * j + 5)) 1 then []
    else ((List.range 8).filter fun i => bitsOf (recEntry recs j i) 61 3 == 6 && bitsOf (recEntry recs j i) 32 12 == x).map fun i =>
      bitsOf (recEntry recs j i) 44 3 * 65536 + j

/-- Words of 4 bytes written one after the other; how many, and the first failure. -/
def Chip.writeWords (c : Chip) (u : Nat) (d : Drover) (va : Nat) : List Nat → Nat → Chip × Nat × Option Nat
  | [], n => (c, n, none)
  | w :: r, n =>
    match c.writeBlock u d va (leBytes w 4) with
    | (c, some e) => (c, n, some e)
    | (c, none) => c.writeWords u d (va + 4) r (n + 1)

/-- Sums before each entry, and the total last. -/
def runningSums : List Nat → Nat → List Nat
  | [], a => [a]
  | n :: r, a => a :: runningSums r (a + n)

/-- What an XBIN writes, by experts. -/
def XWork.bins (w : XWork) : List (List Nat) := (List.range (field w.block 12 2)).map fun x => binOf w.recs (field w.block 8 4) x

/-- Whether what an XBIN writes must wait (R257). -/
def Chip.binWaits (c : Chip) (w : XWork) : Bool :=
  let d := c.drovesFor w
  let e := field w.block 12 2
  c.writeWaits w.owner d (field w.block 16 8) (4 * e) || c.writeWaits w.owner d (field w.block 24 8) (4 * e + 4) ||
    c.writeWaits w.owner d (field w.block 32 8) (4 * (w.bins.flatMap id).length)

/-- XBIN_WORK (R304, R312): counts, offsets, token list, done word; a fault cuts the work short. -/
def execXbinWork (die : BitVec 3) (s : State) : Host.Outcome State Fault Refusal :=
  s.eventStep fun c cycle =>
    match c.endingWork 2 (some die.toNat) with
    | some (w, x) => c.finishWork cycle w x
    | none =>
      match c.xde.work.find? fun w => w.op == 2 && w.die == die.toNat && w.ending.isNone with
      | none => c
      | some w =>
        match w.cut with
        | some k => c.endWork cycle w 0 0 k
        | none =>
          let d := c.drovesFor w
          let counts := w.bins.map List.length
          if c.binWaits w then c
          else
            match c.writeWords w.owner d (field w.block 16 8) counts 0 with
            | (c, _, some e) => c.endWork cycle w 0 0 (faultCode e)
            | (c, _, none) =>
              match c.writeWords w.owner d (field w.block 24 8) (runningSums counts 0) 0 with
              | (c, _, some e) => c.endWork cycle w 0 0 (faultCode e)
              | (c, _, none) =>
                match c.writeWords w.owner d (field w.block 32 8) (w.bins.flatMap id) 0 with
                | (c, n, some e) => c.endWork cycle w n 0 (faultCode e)
                | (c, n, none) => c.endWork cycle w n 0 0

/-! ## XBIAS (R310, R311) -/

/-- XBIAS (R191, R311). -/
def execXbias (d a b : BitVec 5) (s : State) : Host.Outcome State Fault Refusal :=
  s.drives (.xbias d a b) fun dr =>
    s.xdeCommand dr d a b fun mb blk dr1 c =>
      let fin := fun (v : Nat) => match fp32.decode v with
        | .fin _ _ _ => true
        | _ => false
      let e := field blk 8 2
      if !zeroBytes blk 10 6 ∨ !restZero blk 32 ∨ field blk 16 8 % 4 ≠ 0 ∨ field blk 24 8 % 8 ≠ 0 ∨ e < 1 ∨ 4096 < e ∨ !fin (field blk 0 4) ∨
          !fin (field blk 4 4) then Drover.status c dr1 d (failWord 21)
      else
        c.withDone s.focus dr dr1 d (field blk 24 8) fun w =>
          if c.xde.work.any fun w => w.op == 5 then Drover.status c dr1 d (failWord 1)
          else Drover.status (c.addWork (XWork.start 5 dr.die mb blk w s.focus dr.exp dr1.clk)) dr1 d statusOk

/-- The new bias of an expert (R311). -/
def nextBias (b step target count : Nat) : BitVec 32 :=
  let c := (fp32.encode .ieee .rne (ofInt count)).1
  let g : Int := ((fp32.decode target).cmp (fp32.decode c)).getD 0
  let st := fp32.decode step
  let v := if g = 0 then .fin false 0 0 else if 0 < g then st else st.neg
  BitVec.ofNat 32 (fp32.encode .sat .rne ((fp32.decode b).add .rne v).1).1

/-- The slot that does not hold the newest complete version. -/
def Xde.oldSlot (x : Xde) : Nat := if (x.biasVer[0]?).getD 0 = x.newest then 1 else 0

/-- XBIAS_BUILD (R311): once no open round uses the version in the other slot, the new version is built in all copies, flipped, and the
done word written. -/
def execXbiasBuild (s : State) : Host.Outcome State Fault Refusal :=
  s.eventStep fun c cycle =>
    match c.endingWork 5 none with
    | some (w, x) => c.finishWork cycle w x
    | none =>
      match c.xde.work.find? fun w => w.op == 5 && w.ending.isNone with
      | none => c
      | some w =>
        let old := c.xde.oldSlot
        if c.xde.rounds.any fun p => !p.2.closed && p.2.slot == old then c
        else
          let e := field w.block 8 2
          match c.readBlock (xdeAgent w.owner) w.owner (c.drovesFor w) (field w.block 16 8) (4 * e) with
          | .wait c => c
          | .bad k _ => c.endWork cycle w 0 0 (faultCode k)
          | .ok counts c =>
            let cur := (c.xde.bias[1 - old]?).getD []
            let next := (List.range e).foldl (fun m x =>
              put m x (nextBias (lookD cur x 0).toNat (field w.block 0 4) (field w.block 4 4) (field counts (4 * x) 4))) cur
            let v := c.xde.newest + 1
            let c := (c.dropFar (xdeAgent w.owner)).onXde fun x =>
              { x with bias := x.bias.setIfInBounds old next, biasVer := x.biasVer.setIfInBounds old v, newest := v }
            c.endWork cycle w v.toNat 0 0

/-! ## XSTAT (R192) -/

/-- XSTAT (R192): never fails. -/
def execXstat (d a : BitVec 5) (s : State) : Host.Outcome State Fault Refusal :=
  s.drives (.xstat d a) fun dr =>
    unlessStall (dr.srcStall [a]) <| unlessStall (dr.dstStall d) <|
      (dr.readX s.focus a).bind fun (x, dr1) =>
        let q := s.chip.xde
        let v := if 4 ≤ x.toNat then 2 ^ 64 - 1
          else if x = 0 then q.roundsOf dr.die + q.sessionsOf dr.die * 2 ^ 16 + q.freeSlots dr.die * 2 ^ 32
          else if x = 1 then q.newest.toNat + b2n (q.work.any fun w => w.op == 5) * 256
          else if x = 2 then (((s.chip.seraiOf s.focus).bind fun n => (s.chip.serai n).joined).map fun m => m.1 % 2 ^ 32).getD (2 ^ 32 - 1)
          else lookD q.refusals dr.die 0 % 2 ^ 32
        Drover.status s.chip dr1 d (BitVec.ofNat 64 v)

end Sys2Proof.Machine
end

