-- ==== Sys2Proof/Machine/Rows.lean ====
section
/-!
DEFINITION. Rows (R313 to R317): XSEND and its row packets, XRECV and its sessions, admission, responses, the next choice, FINISH.
-/

namespace Sys2Proof.Machine

/-! ## Packets at the dispatch engine -/

/-- Where the packet at the head of a queue stands: a link, the module's own rows and FINISHes, or its own responses. -/
inductive Lane where
  /-- A link. -/
  | link (l : Nat)
  /-- Rows and FINISHes of the module to itself. -/
  | own
  /-- Responses of the module to itself. -/
  | ownResp
  deriving DecidableEq, Repr

/-- The heads of the queues, each with its arrival number. -/
def Chip.heads (c : Chip) : List (Nat × Packet × Lane) :=
  (c.xde.own.head?.toList.map fun p => (p.1, p.2, .own)) ++ (c.xde.ownResp.head?.toList.map fun p => (p.1, p.2, .ownResp)) ++
    c.links.toList.zipIdx.flatMap fun k =>
      (k.1.inPackets.head?.toList.filter fun p => p.2.dst == c.mgmt.devid.toNat).map fun p => (p.1, p.2, .link k.2)

/-- The packet of a type that came first, among the heads that meet a condition (R314). -/
def Chip.firstHead (c : Chip) (ptype : Nat) (f : Packet → Bool) : Option (Packet × Lane) :=
  ((c.heads.filter fun h => h.2.1.ptype == ptype && f h.2.1).foldl (fun (m : Option (Nat × Packet × Lane)) h =>
    match m with
    | none => some h
    | some g => if g.1 ≤ h.1 then some g else some h) none).map fun h => h.2

/-- The chip with the head of a queue taken. -/
def Chip.dropHead (c : Chip) : Lane → Chip
  | .link l => c.onLink l fun k => { k with inPackets := k.inPackets.drop 1 }
  | .own => c.onXde fun x => { x with own := x.own.drop 1 }
  | .ownResp => c.onXde fun x => { x with ownResp := x.ownResp.drop 1 }

/-- A packet on its way to a device: over a link, or to the module itself; the answer says whether the device can be reached. -/
def Chip.ship (c : Chip) (p : Packet) : Chip × Bool :=
  if p.dst = c.mgmt.devid.toNat then
    ({ c with arrivals := c.arrivals + 1 }.onXde fun x =>
      if p.ptype = 7 then { x with ownResp := x.ownResp ++ [(c.arrivals, p)] } else { x with own := x.own ++ [(c.arrivals, p)] }, true)
  else
    match c.linkTo p.dst with
    | none => (c, false)
    | some l => (c.queuePacket l p, true)

/-! ## Rows in memory -/

/-- What a walk needs beside the window indexes: the offsets array, and the gather entry at an index of the innermost level. -/
def Chip.descSide (c : Chip) (agent u : Nat) (dr : Drover) (d : Desc) (idx : Nat) : Got (List Nat × SMap Nat) :=
  (if d.rlev = 0 then Got.ok [] c else (c.readBlock agent u dr d.side (4 * d.offsCount)).bind fun b c =>
      .ok ((List.range d.offsCount).map fun i => field b (4 * i) 4) c).bind fun offs c =>
    if d.glev = 0 then .ok (offs, []) c
    else (c.readBlock agent u dr (d.gatherBase + 4 * idx) 4).bind fun b c => .ok (offs, [(idx, field b 0 4)]) c

/-- A walk standing at window indexes. -/
def walkAt (ks : List Nat) (offs : List Nat) (gather : SMap Nat) : Walk := { Walk.start with ks := ks, offs := offs, gather := gather }

/-- Bits packed, first element lowest. -/
def packBits (w : Nat) : List Nat → Nat
  | [] => 0
  | b :: r => b % 2 ^ w + 2 ^ w * packBits w r

/-- The bytes of a row of n elements: the scales of an MX format, then the elements packed (log 37). -/
def rowLen (fmt n : Nat) : Nat := (if isMX fmt then (n + 31) / 32 else 0) + (n * widthOf fmt + 7) / 8

/-- Elements k onwards of a row read, with the scale of each block. -/
def Chip.readElems (c : Chip) (agent u : Nat) (dr : Drover) (d : Desc) (w : Walk) : List Nat → Got (List Nat × List Nat)
  | [] => .ok ([], []) c
  | k :: r =>
    let here := (w.setK 1 k).here d
    let bits : Got Nat := match here with
      | none => .ok 0 c
      | some x =>
        if x.padded d then .ok 0 c
        else
          let (a, sh, n) := elemSpan d.fmt d.base x.p
          (c.readBlock agent u dr a n).bind fun b c => .ok (natOfBytes b / 2 ^ sh % 2 ^ widthOf d.fmt) c
    bits.bind fun v c =>
      let scale : Got (List Nat) := if isMX d.fmt && k % 32 == 0 then
          (match here with
            | none => .ok [0] c
            | some x => if x.padded d then .ok [0] c
              else (c.readBlock agent u dr (scaleAt d.fmt d.base x.p) 1).bind fun b c => .ok [field b 0 1] c)
        else .ok [] c
      scale.bind fun sc c => (c.readElems agent u dr d w r).bind fun (vs, scs) c => .ok (v :: vs, sc ++ scs) c

/-- Row j of a row descriptor: its bytes and n_1. -/
def Chip.readRow (c : Chip) (agent u : Nat) (dr : Drover) (d : Desc) (j : Nat) : Got (List Byte × Nat) :=
  (c.descSide agent u dr d j).bind fun (offs, gather) c =>
    let w := walkAt [0, j] offs gather
    let n := (w.count d 1).1
    (c.readElems agent u dr d w (List.range n)).bind fun (vs, scs) c =>
      .ok ((scs.map (BitVec.ofNat 8)) ++ leBytes (packBits (widthOf d.fmt) vs) ((n * widthOf d.fmt + 7) / 8), n) c

/-- An element written; one of part of a byte keeps the rest of it. -/
def Chip.writeElem (c : Chip) (agent u : Nat) (dr : Drover) (fmt base : Nat) (p : Int) (bits : Nat) : Got Unit :=
  let (a, sh, n) := elemSpan fmt base p
  let w := widthOf fmt
  (if sh = 0 ∧ w % 8 = 0 then Got.ok (leBytes bits n) c
    else (c.readBlock agent u dr a n).bind fun b c =>
      let old := natOfBytes b
      .ok (leBytes (old - old / 2 ^ sh % 2 ^ w * 2 ^ sh + bits % 2 ^ w * 2 ^ sh) n) c).bind fun b c =>
    if c.writeWaits u dr a b.length then .wait c
    else
      match c.writeBlock u dr a b with
      | (c, none) => .ok () c
      | (_, some e) => .bad e a

/-- Elements k onwards of a row written. -/
def Chip.writeElems (c : Chip) (agent u : Nat) (dr : Drover) (d : Desc) (w : Walk) (row : List Byte) (n : Nat) : List Nat → Got Unit
  | [] => .ok () c
  | k :: r =>
    let scs := if isMX d.fmt then (n + 31) / 32 else 0
    let v := natOfBytes (row.drop scs) / 2 ^ (k * widthOf d.fmt) % 2 ^ widthOf d.fmt
    let one : Got Unit := match (w.setK 1 k).here d with
      | none => .ok () c
      | some x =>
        if x.out || x.hole then .ok () c
        else
          (c.writeElem agent u dr d.fmt d.base x.p v).bind fun _ c =>
            if isMX d.fmt && k % 32 == 0 then
              (if c.writeWaits u dr (scaleAt d.fmt d.base x.p) 1 then .wait c
                else match c.writeBlock u dr (scaleAt d.fmt d.base x.p) [BitVec.ofNat 8 (byteAt row (k / 32))] with
                | (c, none) => .ok () c
                | (_, some e) => .bad e (scaleAt d.fmt d.base x.p))
            else .ok () c
    one.bind fun _ c => c.writeElems agent u dr d w row n r

/-! ## Row packets (R313, R315) -/

/-- The route header. -/
def routeHeader (mb tok dev expert rank weight : Nat) : Nat :=
  mb % 256 * 2 ^ 56 + tok % 65536 * 2 ^ 40 + dev % 512 * 2 ^ 31 + expert % 4096 * 2 ^ 19 + rank % 8 * 2 ^ 16 + weight % 65536

/-- A response to a row: token, expert and rank of its header, the responding device, the reason. -/
def responseWord (header dev reason : Nat) : Nat :=
  header / 2 ^ 40 * 2 ^ 40 + dev % 512 * 2 ^ 31 + bitsOf header 16 15 * 2 ^ 16 + reason % 256 * 2 ^ 8

/-- The packets of a row: header, format code, whether it is the last, n_1, and up to 2,032 bytes of the row (log 37). -/
def rowPackets (dst src tag header fmt n1 : Nat) : Nat → List Byte → List Packet
  | 0, _ => []
  | fuel + 1, b =>
    let last := decide (b.length ≤ 2032)
    { ptype := 6, err := 0, dst := dst, src := src, tag := tag, addr := 0,
      data := leBytes header 8 ++ leBytes fmt 1 ++ leBytes (b2n last) 1 ++ leBytes 0 2 ++ leBytes n1 4 ++ b.take 2032 } ::
      (if last then [] else rowPackets dst src tag header fmt n1 fuel (b.drop 2032))

/-- Rewriting of a record by its XSEND (R317): the entry, any alternate taken, flags, count selected. -/
def rewriteRecord (rec' : List Byte) (r : Nat) (alt : Option Nat) : List Byte :=
  let e := field rec' (8 + 8 * r) 8
  let e' := e % 2 ^ 61 + 2 ^ 61 + b2n (bitOf e 63) * 2 ^ 63
  let es := (List.range 8).map fun i =>
    let x := field rec' (8 + 8 * i) 8
    if i = r then e'
    else if alt = some i then x / 2 ^ 32 * 2 ^ 32 + 2 ^ 62 + e % 2 ^ 32 else x
  let flags := byteAt rec' 5 ||| (if alt.isNone then 4 else 0)
  rec'.take 4 ++ leBytes ((es.filter fun x => bitOf x 62).length) 1 ++ leBytes flags 1 ++ slice rec' 6 2 ++ es.flatMap (fun x => leBytes x 8) ++ rec'.drop 72

/-- A refusal of a copy handled by its sender (R317): `choice` says whether the next choice may be taken; `old` is the work as it stands, `w`
as it goes on. The chip, or a wait for a line of another module. -/
def Chip.refuseCopy (c : Chip) (old w : XWork) (dev tok rank : Nat) (choice reach : Bool) (code : Nat) : Got Unit :=
  let dr := c.drovesFor w
  let place := field w.block 8 8 + 128 * tok
  let un := w.unanswered.erase (dev, tok, rank)
  if c.writeWaits w.owner dr (place + 4) 68 then .wait c
  else
    match c.readBlock (xdeAgent w.owner) w.owner dr place 128 with
    | .wait c => .wait c
    | .bad k _ =>
      let w' : XWork :=
        { w with unanswered := un, dropped := w.dropped + 1, cut := some (w.cut.getD (faultCode k)), unreachable := w.unreachable || !reach, code := max w.code code }
      .ok () (c.setWork old w')
    | .ok rec' c =>
      let alt := if choice then (List.range 8).find? fun i => bitsOf (field rec' (8 + 8 * i) 8) 61 3 == 4 else none
      let (c, e) := c.writeBlock w.owner dr (place + 4) (slice (rewriteRecord rec' rank alt) 4 68)
      let w' := { w with unanswered := un, unreachable := w.unreachable || !reach, code := max w.code code,
                         cut := match e with
                           | none => w.cut
                           | some k => some (w.cut.getD (faultCode k)) }
      .ok () ((c.dropFar (xdeAgent w.owner)).setWork old (match alt with
        | some a => { w' with retarget := w'.retarget ++ [(tok, a)], alts := w'.alts ++ [(tok, a)] }
        | none => { w' with dropped := w'.dropped + 1 }))

/-- Reason byte with which a sender answers its own copy whose device cannot be reached (R317); no packet of another module carries it. -/
def selfReason : Nat := 0xFF

/-- A copy answered by its sender. -/
def Chip.selfAnswer (c : Chip) (die header dev : Nat) : Chip :=
  let me := c.mgmt.devid.toNat
  (c.ship { ptype := 7, err := 0, dst := me, src := me, tag := die, addr := 0, data := leBytes (responseWord header dev selfReason) 8 }).1

/-- The copy of an entry sent: its row read, its header made, its packets on their way; one whose device cannot be reached is answered by
the sender itself (R313, R317). `w` is the work already past this entry. -/
def Chip.sendCopy (c : Chip) (old w : XWork) (dr : Drover) (tok rank entry : Nat) : Chip :=
  let x := bitsOf entry 32 12
  let d := descOf w.desc
  let agent := xdeAgent w.owner
  let got := (c.readBlock agent w.owner dr (field w.block 32 8 + 2 * x) 2).bind fun m c =>
    (c.readRow agent w.owner dr d tok).bind fun (row, n) c => .ok (field m 0 2 % 512, row, n) c
  match got with
  | .wait c => c
  | .bad k _ => c.setWork old { w with cut := some (w.cut.getD (faultCode k)) }
  | .ok (dev, row, n) c =>
    let me := c.mgmt.devid.toNat
    let weight := (bf16.encode .ieee .rne (fp32.decode (entry % 2 ^ 32))).1
    let h := routeHeader w.mb tok me x rank weight
    let w' := { w with unanswered := w.unanswered ++ [(dev, tok, rank)] }
    let c := (c.dropFar agent).setWork old w'
    if dev ≠ me ∧ (c.linkTo dev).isNone then c.selfAnswer w.die h dev
    else (rowPackets dev me w.die h d.fmt n (row.length / 2032 + 1) row).foldl (fun c p => (c.ship p).1) c

/-- The next entry that an XSEND's walk comes to, from a token and rank on: active, of a record with a candidate, and not one that a
retarget has activated. -/
def Chip.nextCopy (c : Chip) (w : XWork) (dr : Drover) : Nat → Nat → Nat → Got (Option (Nat × Nat × Nat))
  | 0, _, _ => .ok none c
  | fuel + 1, tok, rank =>
    (c.readBlock (xdeAgent w.owner) w.owner dr (field w.block 8 8 + 128 * tok) 128).bind fun rec' c =>
      let hit := if bitOf (byteAt rec' 5) 1 then none
        else (List.range 8).find? fun i => decide (rank ≤ i) && bitsOf (field rec' (8 + 8 * i) 8) 62 2 == 3 && !w.alts.contains (tok, i)
      match hit with
      | some i => .ok (some (tok, i, field rec' (8 + 8 * i) 8)) c
      | none => c.nextCopy w dr fuel (tok + 1) 0

/-- Tokens of an XSEND. -/
def XWork.tokens (w : XWork) : Nat := field w.block 16 4

/-- Whether an XSEND has a row to send: a retarget first, or a token that its walk has not passed. -/
def XWork.sends (w : XWork) : Bool := w.op == 3 && (w.retarget != [] || (w.cut.isNone && decide (w.tok < w.tokens)))

/-- XSEND_ROW_SEND (R313): one row packet of the die's oldest XSEND that has one. -/
def execXsendRowSend (die : BitVec 3) (s : State) : Host.Outcome State Fault Refusal :=
  s.eventStep fun c _ =>
    match c.xde.work.find? fun w => w.die == die.toNat && w.sends with
    | none => c
    | some w =>
      let dr := c.drovesFor w
      match w.retarget with
      | (tok, a) :: rest =>
        match c.readBlock (xdeAgent w.owner) w.owner dr (field w.block 8 8 + 128 * tok + 8 + 8 * a) 8 with
        | .wait c => c
        | .bad k _ => c.setWork w { w with retarget := rest, cut := some (w.cut.getD (faultCode k)) }
        | .ok b c => c.sendCopy w { w with retarget := rest } dr tok a (field b 0 8)
      | [] =>
        match c.nextCopy w dr (w.tokens - w.tok) w.tok w.rank with
        | .wait c => c
        | .bad k _ => c.setWork w { w with cut := some (w.cut.getD (faultCode k)) }
        | .ok none c => c.setWork w { w with tok := w.tokens, rank := 0 }
        | .ok (some (tok, i, e)) c => c.sendCopy w { w with tok := tok, rank := i + 1 } dr tok i e

/-- XSEND (R191, R313). -/
def execXsend (d a b : BitVec 5) (s : State) : Host.Outcome State Fault Refusal :=
  s.drives (.xsend d a b) fun dr =>
    s.xdeCommand dr d a b fun mb blk dr1 c =>
      let t := field blk 16 4
      if 1 < byteAt blk 0 ∨ !zeroBytes blk 1 7 ∨ !zeroBytes blk 20 4 ∨ !restZero blk 48 ∨ field blk 8 8 % 8 ≠ 0 ∨ field blk 40 8 % 8 ≠ 0 ∨
          field blk 24 8 % 128 ≠ 0 ∨ field blk 32 8 % 2 ≠ 0 then Drover.status c dr1 d (failWord 21)
      else if t < 1 ∨ 65536 < t then Drover.status c dr1 d (failWord 33)
      else
        c.withDone s.focus dr dr1 d (field blk 40 8) fun w =>
          match look c.xde.rounds mb with
          | none => Drover.status c dr1 d (failWord 1)
          | some r =>
            let work := { XWork.start 3 dr.die mb blk w s.focus dr.exp dr1.clk with experts := r.experts }
            match c.readBlock (xdeAgent s.focus) s.focus dr (field blk 24 8) 128 with
            | .wait c => .hold c dr (some 32)
            | .bad k _ => Drover.status (c.addWork { work with cut := some (faultCode k) }) dr1 d statusOk
            | .ok db c =>
              let v := BitVec.ofNat 1024 (natOfBytes db)
              if (descOf v).rank ≠ 2 ∨ (descOf v).check.isSome then Drover.status c dr1 d (failWord 21)
              else Drover.status ((c.dropFar (xdeAgent s.focus)).addWork { work with desc := v }) dr1 d statusOk

/-! ## Receiving (R314) -/

/-- Fields of a session's block: first expert, experts, capacity, senders expected. -/
def Session.first (s : Session) : Nat := field s.block 0 2

/-- See `Session.first`. -/
def Session.experts (s : Session) : Nat := field s.block 2 2

/-- See `Session.first`. -/
def Session.cap (s : Session) : Nat := field s.block 4 4

/-- Whether a session's range holds an expert. -/
def Session.holds (s : Session) (e : Nat) : Bool := decide (s.first ≤ e ∧ e < s.first + s.experts)

/-- XRECV (R191, R314). -/
def execXrecv (d a b : BitVec 5) (s : State) : Host.Outcome State Fault Refusal :=
  s.drives (.xrecv d a b) fun dr =>
    s.xdeCommand dr d a b fun mb blk dr1 c =>
      let f := field blk 0 2
      let l := field blk 2 2
      if !zeroBytes blk 34 6 ∨ !restZero blk 48 ∨ field blk 8 8 % 128 ≠ 0 ∨ field blk 16 8 % 8 ≠ 0 ∨ field blk 24 8 % 4 ≠ 0 ∨ field blk 40 8 % 8 ≠ 0 then
        Drover.status c dr1 d (failWord 21)
      else if l < 1 ∨ 4096 < f + l ∨ field blk 32 2 < 1 ∨ 512 < field blk 32 2 then Drover.status c dr1 d (failWord 33)
      else
        c.withDone s.focus dr dr1 d (field blk 40 8) fun w =>
          if c.xde.sessions.any fun x => x.mb == mb && x.die == dr.die then Drover.status c dr1 d (failWord 1)
          else if c.xde.sessions.any fun x => x.mb == mb && x.die != dr.die && decide (x.first < f + l ∧ f < x.first + x.experts) then
            Drover.status c dr1 d (failWord 32)
          else if c.xde.freeSlots dr.die = 0 then Drover.status c dr1 d (failWord 24)
          else
            match c.readBlock (xdeAgent s.focus) s.focus dr (field blk 8 8) 128 with
            | .wait c => .hold c dr (some 32)
            | .bad k _ => Drover.status (c.writeDone s.cycle dr.exp s.focus w (doneWord 0 0 0 (faultCode k)) dr1.clk) dr1 d statusOk
            | .ok db c =>
              let v := BitVec.ofNat 1024 (natOfBytes db)
              let de := descOf v
              if de.rank ≠ 3 ∨ de.check.isSome ∨ (de.lev 2).count < field blk 4 4 ∨ (de.lev 3).count < l then Drover.status c dr1 d (failWord 21)
              else
                let ses : Session :=
                  { die := dr.die, mb := mb, block := blk, desc := v, admitted := List.replicate l 0, finishes := 0, done := w, cut := none,
                    ending := none, exp := dr.exp, owner := s.focus, clk := dr1.clk }
                Drover.status ((c.dropFar (xdeAgent s.focus)).onXde fun x => { x with sessions := x.sessions ++ [ses] }) dr1 d statusOk

/-- The session that a row goes to: the one whose range holds its expert, else the one on the lowest-numbered die. -/
def Xde.sessionFor (x : Xde) (mb expert : Nat) : Option Session :=
  let l := x.sessions.filter fun s => s.mb % 256 == mb
  match l.find? fun s => s.holds expert with
  | some s => some s
  | none => firstBy (fun a b => decide (a.die < b.die)) l

/-- A session changed in its place. -/
def Chip.setSession (c : Chip) (old new : Session) : Chip :=
  c.onXde fun x => { x with sessions := x.sessions.map fun s => if s = old then new else s }

/-- Reason of the answer to a row (R314, R315). -/
def Session.judge (s : Session) (fmt n1 expert : Nat) : Nat :=
  let d := descOf s.desc
  if fmt ≠ d.fmt ∨ n1 ≠ (d.lev 1).count then 3
  else if !s.holds expert then 2
  else if (s.admitted[expert - s.first]?).getD 0 = s.cap then 1
  else 0

/-- An admitted row written at its buffer position, and its header. -/
def Chip.admitRow (c : Chip) (s : Session) (dr : Drover) (row : List Byte) (n1 header expert : Nat) : Got Unit :=
  let d := descOf s.desc
  let agent := xdeAgent s.owner
  let e := expert - s.first
  let slot := (s.admitted[e]?).getD 0
  (c.descSide agent s.owner dr d e).bind fun (offs, gather) c =>
    (c.writeElems agent s.owner dr d (walkAt [0, slot, e] offs gather) row n1 (List.range n1)).bind fun _ c =>
      let at' := field s.block 16 8 + 8 * (e * s.cap + slot)
      if c.writeWaits s.owner dr at' 8 then .wait c
      else
        match c.writeBlock s.owner dr at' (leBytes header 8) with
        | (c, none) => .ok () c
        | (_, some k) => .bad k 0

/-- XDE_ROW (R314): the row packet that came first among those at the head of their way whose micro-batch has a session here is answered. -/
def execXdeRow (s : State) : Host.Outcome State Fault Refusal :=
  s.eventStep fun c _ =>
    match c.firstHead 6 fun p => (c.xde.sessionFor (bitsOf (field p.data 0 8) 56 8) 0).isSome with
    | none => c
    | some (p, lane) =>
      let h := field p.data 0 8
      let x := bitsOf h 19 12
      let row := lookD c.xde.parts p.src [] ++ p.data.drop 16
      if byteAt p.data 9 = 0 then (c.dropHead lane).onXde fun q => { q with parts := put q.parts p.src row }
      else
        match c.xde.sessionFor (bitsOf h 56 8) x with
        | none => c
        | some ses =>
          let n1 := field p.data 12 4
          let why := ses.judge (byteAt p.data 8) n1 x
          let answer := fun (c : Chip) =>
            (((c.dropHead lane).onXde fun q => { q with parts := del q.parts p.src }).ship
              { ptype := 7, err := 0, dst := p.src, src := c.mgmt.devid.toNat, tag := p.tag, addr := 0,
                data := leBytes (responseWord h c.mgmt.devid.toNat why) 8 }).1
          if why ≠ 0 then answer c
          else
            let e := x - ses.first
            let ses' := { ses with admitted := setAt ses.admitted e ((ses.admitted[e]?).getD 0 + 1) }
            match c.admitRow ses (c.workDrover ses.owner ses.exp ses.die) row n1 h x with
            | .wait c => c
            | .ok _ c => answer ((c.dropFar (xdeAgent ses.owner)).setSession ses ses')
            | .bad k _ => answer (c.setSession ses { ses' with cut := some (ses.cut.getD (faultCode k)) })

/-- XDE_RESPONSE (R317): the response that came first is handled by the XSEND that sent the copy. -/
def execXdeResponse (s : State) : Host.Outcome State Fault Refusal :=
  s.eventStep fun c _ =>
    match c.firstHead 7 fun _ => true with
    | none => c
    | some (p, lane) =>
      let h := field p.data 0 8
      let copy := (bitsOf h 31 9, bitsOf h 40 16, bitsOf h 16 3)
      let why := bitsOf h 8 8
      let taken := fun (c : Chip) =>
        let c := c.dropHead lane
        if why = 0 ∨ why = selfReason then c else c.onXde fun x => { x with refusals := put x.refusals p.tag (lookD x.refusals p.tag 0 + 1) }
      match c.xde.work.find? fun w => w.op == 3 && w.die == p.tag && w.mb % 256 == bitsOf h 56 8 && w.unanswered.contains copy with
      | none => taken c
      | some w =>
        if why = 0 then taken (c.setWork w { w with unanswered := w.unanswered.erase copy, admitted := w.admitted + 1 })
        else
          match c.refuseCopy w w copy.1 copy.2.1 copy.2.2 (why = 1 && byteAt w.block 0 = 1) (why != selfReason) (if why = 1 ∨ why = selfReason then 0 else 32) with
          | .ok _ c => taken c
          | .wait c => c
          | .bad _ _ => c

/-! ## The end of a sending, and of a session (R316) -/

/-- XSEND_FINISH (R316, R317): every copy answered and no retarget pending, one FINISH goes to each distinct reachable device of the map, and
the done word is written. -/
def execXsendFinish (die : BitVec 3) (s : State) : Host.Outcome State Fault Refusal :=
  s.eventStep fun c cycle =>
    match c.endingWork 3 (some die.toNat) with
    | some (w, x) => c.finishWork cycle w x
    | none =>
      match c.xde.work.find? fun w => w.op == 3 && w.die == die.toNat && !w.sends && w.unanswered == [] && w.ending.isNone with
      | none => c
      | some w =>
        let code := w.cut.getD (if w.unreachable then 37 else w.code)
        match c.readBlock (xdeAgent w.owner) w.owner (c.drovesFor w) (field w.block 32 8) (2 * w.experts) with
        | .wait c => c
        | .bad k _ => c.endWork cycle w w.admitted w.dropped (w.cut.getD (faultCode k))
        | .ok m c =>
          let devs := ((List.range w.experts).map fun e => field m (2 * e) 2 % 512).eraseDups
          let c := devs.foldl (fun c dev =>
            (c.ship { ptype := 8, err := 0, dst := dev, src := c.mgmt.devid.toNat, tag := 0, addr := 0, data := leBytes w.mb 4 }).1) c
          let (drop, c) := c.dropped16 w.dropped
          (c.dropFar (xdeAgent w.owner)).endWork cycle w w.admitted drop code

/-- A session's done word, which it keeps while it must wait. -/
def Chip.finishSession (c : Chip) (cycle : Nat) (s : Session) (w : Word) : Chip :=
  if c.doneWaits s.owner s.done s.clk then c.setSession s { s with ending := some w }
  else (c.onXde fun x => { x with sessions := x.sessions.erase s }).writeDone cycle s.exp s.owner s.done w s.clk

/-- A session's end: the admitted counts, then its done word, whose count is the rows admitted. -/
def Chip.endSession (c : Chip) (cycle : Nat) (s : Session) : Chip :=
  let (c, _, e) := c.writeWords s.owner (c.workDrover s.owner s.exp s.die) (field s.block 24 8) s.admitted 0
  let code := s.cut.getD ((e.map faultCode).getD 0)
  c.finishSession cycle s (doneWord s.admitted.sum 0 0 code)

/-- Whether every expected sender of a session has finished. -/
def Session.complete (s : Session) : Bool := decide (field s.block 32 2 ≤ s.finishes)

/-- One session carried to its end where that is due and need not wait (R257, R304). -/
def Chip.sessionStep (c : Chip) (cycle : Nat) (s : Session) : Chip :=
  match s.ending with
  | some w => c.finishSession cycle s w
  | none =>
    if !s.complete || c.writeWaits s.owner (c.workDrover s.owner s.exp s.die) (field s.block 24 8) (4 * s.admitted.length) then c
    else c.endSession cycle s

/-- The sessions' FINISHes of a micro-batch counted. -/
def Xde.counted (x : Xde) (mb : Nat) : Xde :=
  { x with sessions := x.sessions.map fun s => if s.mb = mb then { s with finishes := s.finishes + 1 } else s }

/-- XDE_FINISH (R304, R316): the FINISH that came first is counted by every session of its micro-batch, and those that have all end. -/
def execXdeFinish (s : State) : Host.Outcome State Fault Refusal :=
  s.eventStep fun c cycle =>
    let c := match c.firstHead 8 fun _ => true with
      | none => c
      | some (p, lane) => (c.dropHead lane).onXde fun x => x.counted (field p.data 0 4)
    c.xde.sessions.foldl (fun c s => c.sessionStep cycle s) c

end Sys2Proof.Machine
end

