-- ==== Sys2Proof/Machine/Links.lean ====
section
/-!
DEFINITION. Ulied links (R349 to R353, R368): flits, acknowledgement and replay, retraining, and a link that goes down.
-/

namespace Sys2Proof.Machine

/-! ## Flits (R349) -/

/-- A flit's header. -/
def flitHeader (typ seq ack : Nat) (av sop eop : Bool) (len : Nat) : Nat :=
  typ % 16 * 2 ^ 60 + seq % 4096 * 2 ^ 48 + ack % 4096 * 2 ^ 36 + b2n av * 2 ^ 35 + b2n sop * 2 ^ 34 + b2n eop * 2 ^ 33 + len % 256 * 2 ^ 25

/-- A flit of 256 bytes: header, payload filled with zeros, CRC-64. -/
def flitBytes (header : Nat) (payload : List Byte) : List Byte :=
  let b := leBytes header 8 ++ payload ++ List.replicate (240 - payload.length) 0
  b ++ leBytes (crc64 b) 8

/-- Whether a flit is bad: wrong length or CRC, a reserved type, or a reserved field that is not zero. -/
def flitBad (f : List Byte) : Bool :=
  let h := field f 0 8
  let typ := bitsOf h 60 4
  f.length != 256 || field f 248 8 != crc64 (f.take 248) || decide (3 < typ) || bitsOf h 0 25 != 0 || (typ != 0 && bitsOf h 48 12 != 0) ||
    (typ == 0 && (bitsOf h 25 8 == 0 || decide (240 < bitsOf h 25 8)))

/-- The ack that a receiver gives: the last good number in order. -/
def Link.ack (k : Link) : Nat := (k.expect + 4095) % 4096

/-- A flit on the wire; it carries the receiver's current ack (R350). -/
def Link.sendFlit (k : Link) (cycle typ seq : Nat) (sop eop : Bool) (payload : List Byte) : Link :=
  let fresh := k.av && k.ackedTo != k.ack
  { k with wire := k.wire ++ [flitBytes (flitHeader typ seq (if k.av then k.ack else 0) k.av sop eop (if typ = 0 then payload.length else 0)) payload],
           ackSentAt := if fresh || typ == 1 then cycle else k.ackSentAt, ackedTo := if k.av then k.ack else k.ackedTo }

/-- A NAK sent, unless one is outstanding (R351). -/
def Link.sendNak (k : Link) (cycle : Nat) : Link :=
  if k.nak.isSome then k else { k.sendFlit cycle 2 0 false false [] with nak := some cycle }

/-- FLIT_SEND (R350): a flit to be sent again, else the next flit of a packet while fewer than 4,095 are unacknowledged. -/
def execFlitSend (link : BitVec 5) (s : State) : Host.Outcome State Fault Refusal :=
  s.eventStep fun c cycle =>
    c.onLink link.toNat fun k =>
      if !k.up || k.retraining then k
      else
        match k.resend with
        | (seq, b) :: r => { k.sendFlit cycle 0 seq (byteAt b 0 % 2 == 1) (byteAt b 0 / 2 == 1) (b.drop 1) with resend := r }
        | [] =>
          match k.outFlits with
          | [] => k
          | (sop, eop, p) :: r =>
            if 4095 ≤ k.replay.length then k
            else
              let k1 := k.sendFlit cycle 0 k.nextSeq sop eop p
              { k1 with outFlits := r, nextSeq := (k.nextSeq + 1) % 4096,
                        replay := k.replay ++ [(k.nextSeq, leBytes (b2n sop + 2 * b2n eop) 1 ++ p)],
                        progressAt := if k.replay = [] then cycle else k.progressAt }

/-! ## Receiving (R351) -/

/-- An ack covers every flit up to it in the window. -/
def Link.acked (k : Link) (cycle a : Nat) : Link :=
  if k.replay.any fun p => p.1 == a then
    let rest := (k.replay.dropWhile fun p => p.1 != a).drop 1
    { k with replay := rest, resend := k.resend.filter fun p => rest.any fun q => q.1 == p.1, progressAt := cycle }
  else k

/-- The ack that a good flit's header carries. -/
def Link.takeAck (k : Link) (cycle header : Nat) : Link := if bitOf header 35 then k.acked cycle (bitsOf header 36 12) else k

/-- Replay from the oldest unacknowledged flit. -/
def Link.replayAll (k : Link) (cycle : Nat) : Link := { k with resend := k.replay, progressAt := cycle }

/-- A bad flit or a discarded packet of a link counted (R365), and numbered by the arbiter of its I/O die (R348). -/
def Chip.countLinkErr (c : Chip) (l : Nat) : Chip := (c.onMgmt fun m => { m with linkerr := m.linkerr + 1 }).numbered (linkDie l)

/-- A whole packet received; one of a reserved type is discarded and counted (R354). -/
def Chip.takePacket (c : Chip) (l : Nat) (b : List Byte) : Chip :=
  let p := packetOf b
  if 10 < p.ptype then c.countLinkErr l
  else { c with arrivals := c.arrivals + 1 }.onLink l fun k => { k with inPackets := k.inPackets ++ [(c.arrivals, p)] }

/-- A good DATA flit with the number expected: its payload joins its packet, and the last one makes the packet whole. -/
def Chip.acceptFlit (c : Chip) (l : Nat) (k : Link) (f : List Byte) : Chip :=
  let h := field f 0 8
  let part := slice f 8 (bitsOf h 25 8)
  let parts := (if bitOf h 34 then [] else k.inFlits) ++ [part]
  let k := { k with expect := (k.expect + 1) % 4096, av := true, nak := none, inFlits := if bitOf h 33 then [] else parts }
  let c := c.onLink l fun _ => k
  if bitOf h 33 then c.takePacket l parts.flatten else c

/-- Whether a row packet that waits for its session blocks a link's ingress (R314): its receiver then takes no DATA flit (log 37). -/
def Chip.ingressBlocked (c : Chip) (k : Link) : Bool :=
  match k.inPackets.head? with
  | some (_, p) =>
    p.ptype == 6 && p.dst == c.mgmt.devid.toNat && (c.xde.sessionFor (bitsOf (field p.data 0 8) 56 8) 0).isNone
  | none => false

/-- Training begins: DATA flits stop, a TRAIN flit goes out (R352). -/
def Link.train (k : Link) (cycle : Nat) : Link := { k.sendFlit cycle 3 0 false false [] with retraining := true, bad := [] }

/-- What a receiver does with a flit (R351, R368). -/
def Chip.receiveFlit (c : Chip) (cycle l : Nat) (f : List Byte) : Chip :=
  match c.links[l]? with
  | none => c
  | some k =>
    let h := field f 0 8
    let typ := bitsOf h 60 4
    if !k.up then c
    else if k.retraining && typ == 0 then c
    else
      let k := { k with received := k.received + 1 }
      if flitBad f then
        let bad := (k.bad.filter fun n => decide (k.received < n + 1024)) ++ [k.received]
        (c.countLinkErr l).onLink l fun _ => { k.sendNak cycle with bad := bad }
      else
        let k := k.takeAck cycle h
        if typ = 0 then
          let seq := bitsOf h 48 12
          let behind := (k.expect + 4096 - seq) % 4096
          if seq = k.expect then (if c.ingressBlocked k then c.onLink l fun _ => k else c.acceptFlit l k f)
          else if 1 ≤ behind ∧ behind ≤ 2048 then c.onLink l fun _ => k.sendFlit cycle 1 0 false false []
          else c.onLink l fun _ => k.sendNak cycle
        else if typ = 2 then c.onLink l fun _ => k.replayAll cycle
        else if typ = 3 ∧ !k.retraining then c.onLink l fun _ => k.train cycle
        else c.onLink l fun _ => k

/-- DATA_FLIT_RECEIVE (R351): any flit that reaches a receiver. -/
def execDataFlitReceive (link : BitVec 5) (flit : List (BitVec 8)) (s : State) : Host.Outcome State Fault Refusal :=
  s.eventStep fun c cycle => c.receiveFlit cycle link.toNat flit

/-- NAK (R351): a good NAK makes the sender replay from ack + 1. -/
def execNak (link : BitVec 5) (flit : List (BitVec 8)) (s : State) : Host.Outcome State Fault Refusal :=
  s.eventStep fun c cycle => if bitsOf (field flit 0 8) 60 4 = 2 then c.receiveFlit cycle link.toNat flit else c

/-- IDLE (R350): a receiver that has acknowledged nothing new for 256 cycles sends its ack. -/
def execIdle (link : BitVec 5) (s : State) : Host.Outcome State Fault Refusal :=
  s.eventStep fun c cycle =>
    c.onLink link.toNat fun k => if k.up && !k.retraining && decide (k.ackSentAt + 256 ≤ cycle) then k.sendFlit cycle 1 0 false false [] else k

/-- NAK_TIMEOUT (R351): an outstanding NAK is sent again after 4,096 cycles. -/
def execNakTimeout (link : BitVec 5) (s : State) : Host.Outcome State Fault Refusal :=
  s.eventStep fun c cycle =>
    c.onLink link.toNat fun k =>
      if k.up && !k.retraining && k.nak.any (fun t => decide (t + 4096 ≤ cycle)) then { k with nak := none }.sendNak cycle else k

/-- REPLAY_TIMEOUT (R351): no ack progress for 4,096 cycles. -/
def execReplayTimeout (link : BitVec 5) (s : State) : Host.Outcome State Fault Refusal :=
  s.eventStep fun c cycle =>
    c.onLink link.toNat fun k =>
      if k.up && !k.retraining && k.replay != [] && decide (k.progressAt + 4096 ≤ cycle) then k.replayAll cycle else k

/-! ## Lane loss (R352, R353) -/

/-- Number of bits set among the low n. -/
def countBits (v : Nat) : Nat → Nat
  | 0 => 0
  | n + 1 => countBits v n + b2n (bitOf v n)

/-- Width and lanes used for the lanes that still work. -/
def widthFor (lanes : BitVec 16) : Nat :=
  let n := lanes.toNat
  if n = 0xFFFF then 16
  else if n % 256 = 0xFF ∨ n / 256 = 0xFF then 8
  else if (List.range 4).any fun g => n / 16 ^ g % 16 == 15 then 4
  else 0

/-- The lanes that a link uses at its width: the lowest such half or group. -/
def lanesUsed (lanes : BitVec 16) : List Nat :=
  let n := lanes.toNat
  match widthFor lanes with
  | 16 => List.range 16
  | 8 => if n % 256 = 0xFF then List.range 8 else (List.range 8).map fun i => 8 + i
  | 4 => match (List.range 4).find? fun g => n / 16 ^ g % 16 == 15 with
    | some g => (List.range 4).map fun i => 4 * g + i
    | none => []
  | _ => []

/-- A stream's write packet that is answered: `failed` says with an error. -/
def Chip.porterAnswered (c : Chip) (u p tag : Nat) (failed : Bool) : Chip :=
  let c := c.onEngines u fun v => v.onPorter p fun q => { q with packets := q.packets.erase tag }
  if !failed then c
  else
    match c.seraiOf u, c.drover? u with
    | some n, some d =>
      let q := (c.serai n).porter p
      c.porterFault n u p q (q.memEnd u d p) q.walk 0x49 none
    | _, _ => c.onEngines u fun v => v.onPorter p fun q => q.faulted 0x49

/-- A copy's write packet that is answered. -/
def Chip.copyAnswered (c : Chip) (u ch id tag : Nat) (failed : Bool) : Chip :=
  match c.drover? u with
  | none => c
  | some d =>
    c.onEngines u fun v => v.onChannel ch fun jobs => jobs.map fun j =>
      if j.id = id then
        let j := { j with packets := j.packets.erase tag }
        if failed then j.failed (j.memEnd u d ch) 0x49 else j
      else j

/-- The answer to a TWATCH that has asked another module whether its word is full (R187). -/
def Chip.probeAnswered (c : Chip) (cv i : Nat) (w : Word) : Chip :=
  match (c.caravan? cv).bind fun v => v.members[i]? with
  | none => c
  | some u => c.onDrover u fun (d : Drover) => if d.hold = .waiting then { d with hold := .result w } else d

/-- A watch that cannot have its record at the home: a steward has it (R143). -/
def Chip.watchRefused (c : Chip) (cv i : Nat) : Chip :=
  match (c.caravan? cv).bind fun v => (look v.watches i).map fun w => (v, w) with
  | none => c
  | some (v, w) => c.watchToSteward cv i v w

/-- A request whose reply will not come: MEMERR (R353); a watch goes to a steward, and a TWATCH traps (log 38). -/
def Chip.failRequest (c : Chip) (tag : Nat) (r : RemoteReq) : Chip :=
  let c := { c with requests := del c.requests tag }
  match r with
  | .access u q _ => c.failAccess u q
  | .porter u p _ => c.porterAnswered u p tag true
  | .copy u ch id _ => c.copyAnswered u ch id tag true
  | .line key _ => { c with far := put c.far key (.failed 0x49) }
  | .posted _ _ => c
  | .watch cv i _ => if 32 ≤ i then c.probeAnswered cv (i - 32) 2 else c.watchRefused cv i

/-- The link that a request left by. -/
def RemoteReq.link : RemoteReq → Nat
  | .access _ _ l => l
  | .porter _ _ l => l
  | .copy _ _ _ l => l
  | .line _ l => l
  | .posted _ l => l
  | .watch _ _ l => l

/-- A link goes down (R353): its buffers are discarded, its requests fail, and rows sent by it are answered by their senders (R317). -/
def Chip.linkDown (c : Chip) (l : Nat) : Chip :=
  let c := c.onLink l fun k => { k with up := false, width := 0, replay := [], resend := [], outFlits := [], inFlits := [], nak := none }
  let c := (c.requests.filter fun r => r.2.link == l).foldl (fun c r => c.failRequest r.1 r.2) c
  c.xde.work.foldl (fun c w => w.unanswered.foldl (fun c q =>
    if q.1 ≠ c.mgmt.devid.toNat ∧ lookD c.routes q.1 31 = l then
      c.selfAnswer w.die (routeHeader w.mb q.2.1 0 0 q.2.2 0) q.1
    else c) c) c

/-- LOSS_OF_LOCK (R352): the PHY reports lanes that have lost lock, or four bad flits have come within 1,024: retraining starts. -/
def execLossOfLock (link : BitVec 5) (lanes : BitVec 16) (s : State) : Host.Outcome State Fault Refusal :=
  s.eventStep fun c cycle =>
    c.onLink link.toNat fun k =>
      if k.up && !k.retraining && ((lanesUsed k.lanes).any (fun i => lanes.getLsbD i) || decide (4 ≤ k.bad.length)) then k.train cycle else k

/-- Lanes that a test has found good, and the width they leave (R352). -/
def Chip.removeLanes (c : Chip) (l : Nat) (good : BitVec 16) : Chip :=
  match c.links[l]? with
  | none => c
  | some k =>
    let lanes := k.lanes &&& good
    let gone := countBits k.lanes.toNat 16 - countBits lanes.toNat 16
    let c := c.onLink l fun k => { k with lanes := lanes, width := widthFor lanes }
    if gone = 0 then c else { c with health := { c.health with lanesRemoved := c.health.lanesRemoved + gone } }.numbered (linkDie l)

/-- RETRAIN_COMPLETE (R352): the new width; IDLE with the ack; replay from the peer's ack + 1; or the link is down. -/
def execRetrainComplete (link : BitVec 5) (good : BitVec 16) (ack : Option (BitVec 12)) (s : State) : Host.Outcome State Fault Refusal :=
  s.eventStep fun c cycle =>
    match c.links[link.toNat]? with
    | none => c
    | some k =>
      if !k.retraining then c
      else
        let c := c.removeLanes link.toNat good
        let c := c.onLink link.toNat fun k => { k with retraining := false }
        if widthFor (k.lanes &&& good) = 0 then c.linkDown link.toNat
        else
          c.onLink link.toNat fun k =>
            let k := match ack with
              | some a => k.acked cycle a.toNat
              | none => k
            { k with nak := none }.sendFlit cycle 1 0 false false [] |>.replayAll cycle

end Sys2Proof.Machine
end

