-- ==== Sys2Proof/Machine/Sched.lean ====
section
/-!
DEFINITION. The bazaar's own steps (R280 to R295): delivery of launches, dispatch and placement, aging, the spill area, migration
within the module, yield and resident deadlock.
-/

namespace Sys2Proof.Machine

/-! ## The ready queue in order (R284, R285) -/

/-- Whether an entry comes before another: higher level, then older, then by the arbiter's order; equal ones stand as they were made. -/
def Caravan.before (a b : Caravan) : Bool :=
  decide (b.prio < a.prio ∨ (a.prio = b.prio ∧ (a.ready < b.ready ∨ (a.ready = b.ready ∧ a.order < b.order))))

/-- The entries of a die's ready queue that may be dispatched or sent. -/
def Chip.queued (c : Chip) (die : Nat) : List (Nat × Caravan) := c.sched.caravans.filter fun p => p.2.place == .queue die

/-- The level of an entry for a dispatch in a cycle: a rise in that cycle comes after it (R286). -/
def Caravan.levelAt (v : Caravan) (cycle : Nat) : Nat := if v.rose = some cycle then v.prio - 1 else v.prio

/-- The entries of a die's ready queue at the levels that a dispatch in a cycle sees. -/
def Chip.queuedAt (c : Chip) (cycle die : Nat) : List (Nat × Caravan) :=
  (c.queued die).map fun p => (p.1, { p.2 with prio := p.2.levelAt cycle })

/-- The first of some entries. -/
def firstEntry (l : List (Nat × Caravan)) : Option (Nat × Caravan) := firstBy (fun a b => a.2.before b.2) l

/-! ## Launch delivery (R136 to R138) -/

/-- What a launch is made from; none when the template entry is unused or the expedition is being torn down (R138). -/
def Chip.launching (c : Chip) (l : Launch) : Option Launching :=
  (c.exp? l.exp).bind fun x =>
    if x.ending then none
    else
      (look x.templates l.tmpl).bind fun t =>
        if t.entry = 0 then none
        else
          some { exp := l.exp, tmpl := l.tmpl, tem := t, prio := t.prio, args := [l.old, BitVec.ofNat 64 l.tag, l.va], groups := [],
                 hint := 0, near := sliceNear l.word, clk := l.clk }

/-- A launch taken by the bazaar: its caravan is ready, from a time that is earlier than this cycle for a launch refilled from the spill area
(R285); or its failure is logged. An issuer below 16 is no task of the module. -/
def Chip.deliverLaunch (c : Chip) (cycle sl ready : Nat) (l : Launch) : Chip :=
  match c.launching l with
  | some g =>
    let (c, cv, _) := c.newCaravan cycle g [] .gone
    (c.enqueue cv (sl / 64) ready (arbiterOrder 1 sl)).onCaravan cv fun v => { v with agedAt := cycle }
  | none =>
    let gone := (decide (16 ≤ l.issuer) && !(c.task? l.issuer).any Task.alive) || (c.exp? l.exp).any fun x => x.ending
    c.logFault (sl / 64) l.exp
      { cause := 0x0C, orphan := gone, fatal := false, taskid := ((c.task? l.issuer).map (·.taskid)).getD 0, addr := l.va, val := l.old,
        extra := BitVec.ofNat 64 (l.tmpl % 1024 * 2 ^ 22 + l.tag % 2 ^ 22) }

/-- Whether a die takes a new entry. -/
def Chip.takesEntry (c : Chip) (die e : Nat) : Bool := decide (c.queueLen die < 2048) || c.spillRoom e

/-- Order within a spill area, lowest first: higher priority, then older, then by the arbiter (R287). -/
def spillKey (prio ready order : Nat) : Nat := (7 - prio) * 2 ^ 192 + ready * 2 ^ 64 + order

/-- What an expedition's spill area holds for a die, with its key: a caravan, or, marked, a launch by its index there. -/
def Chip.spilledOn (c : Chip) (die e : Nat) : List (Nat × Bool × Nat) :=
  let cvs := (c.sched.caravans.filter fun p => p.2.exp == e && p.2.place == .spilled die).map fun p =>
    (spillKey p.2.prio p.2.ready p.2.order, false, p.1)
  match c.exp? e with
  | none => cvs
  | some x => cvs ++ (x.spill.zipIdx.filter fun p => sliceOf p.1.word / 64 == die).map fun p =>
      (spillKey ((look x.templates p.1.tmpl).map (·.prio) |>.getD 7) p.1.since (arbiterOrder 1 (sliceOf p.1.word)), true, p.2)

/-- What a die's ready queue takes next from an expedition's spill area: highest priority, then oldest (R287). -/
def Chip.nextSpilled (c : Chip) (die e : Nat) : Option (Nat × Bool × Nat) :=
  firstBy (fun a b => decide (a.1 < b.1)) (c.spilledOn die e)

/-- A launch taken from an expedition's spill area, with its readiness time. -/
def Chip.refillLaunch (c : Chip) (cycle e i : Nat) : Chip :=
  match (c.exp? e).bind fun x => x.spill[i]? with
  | none => c
  | some l => (((c.onExp e fun y => { y with spill := dropAt y.spill i }).spillFreed e).deliverLaunch cycle (sliceOf l.word) l.since l)

/-- LAUNCH_DELIVERY (R136): entry e of a slice's relay queue, or, from 64 on, an entry of an expedition's spill area, on the die of its
word's home and in its turn (R287). A launch that finds no room stays where it is. -/
def execLaunchDelivery (sl : BitVec 9) (e : Nat) (s : State) : Host.Outcome State Fault Refusal :=
  s.eventStep fun c cycle =>
    if e < 64 then
      match (c.homes.relay.filter fun p => p.1 == sl.toNat)[e]? with
      | none => c
      | some (_, l) =>
        if (c.launching l).isSome ∧ !c.takesEntry (sl.toNat / 64) l.exp then c
        else (c.onHomes fun h => { h with relay := h.relay.erase (sl.toNat, l) }).deliverLaunch cycle sl.toNat cycle l
    else
      let x := (e - 64) / 2 ^ 20
      let i := (e - 64) % 2 ^ 20
      match (c.exp? x).bind fun x => x.spill[i]? with
      | none => c
      | some l =>
        let next := ((c.nextSpilled (sl.toNat / 64) x).map (·.2)) == some (true, i)
        if sliceOf l.word ≠ sl.toNat then c
        else if (c.launching l).isSome ∧ (2048 ≤ c.queueLen (sl.toNat / 64) ∨ !next) then c
        else c.refillLaunch cycle x i

/-! ## Free serais and placement (R289, R290) -/

/-- Whether a serai is free: not withdrawn, not to be self-tested, and held by no task, or by a task of a caravan that is gone and
whose engines have nothing left to perform. -/
def Chip.seraiFree (c : Chip) (n : Nat) : Bool :=
  !c.health.withdrawn.contains n && !c.health.testing.contains (.serai (BitVec.ofNat 12 n)) && (look c.sched.restoring n).isNone &&
    !((look c.sched.heldBanks n).any fun u => (c.caravanOf? u).any fun v => match v.place with
      | .resident _ => true
      | _ => false) &&
    match c.holder? n with
    | none => true
    | some u => ((c.caravanOf? u).any fun v => v.place == .gone) && (c.serai n).drained

/-- The free serais of a die. -/
def Chip.freeSerais (c : Chip) (die : Nat) : List Nat := ((List.range 512).map fun i => die * 512 + i).filter fun n => c.seraiFree n

/-- Distance of two tiles of a die (R289). -/
def tileDistance (a b : Nat) : Nat := (max (a / 8) (b / 8) - min (a / 8) (b / 8)) + (max (a % 8) (b % 8) - min (a % 8) (b % 8))

/-- Whether a serai holds banks kept for a member of a caravan. -/
def Chip.ownHeld (c : Chip) (v : Caravan) (n : Nat) : Bool := (look c.sched.heldBanks n).any fun u => v.members.contains u

/-- The placement key of a free serai for a caravan, as one number whose digits are R289's fields. -/
def Chip.placeKey (c : Chip) (v : Caravan) (n : Nat) : Nat :=
  let hinted := v.hint != 0 && look c.sched.lastExp n == some v.exp && (look (c.serai n).pages (v.hint - 1)).any fun g => g.quarter.isSome
  let dist := match v.near with
    | some sl => if sl / 64 = n / 512 then tileDistance (n % 512 / 8) (sl % 64) else 0
    | none => 0
  let held := (look c.sched.heldBanks n).isSome && !c.ownHeld v n
  b2n (!c.ownHeld v n) * 2 ^ 15 + b2n (!hinted) * 2 ^ 14 + dist * 2 ^ 10 + b2n held * 2 ^ 9 + n % 512

/-- The serais chosen for a caravan on a die, in order of their keys; none when it does not fit. -/
def Chip.chosen (c : Chip) (die : Nat) (v : Caravan) : Option (List Nat) :=
  let free := c.freeSerais die
  let n := (c.living v).length
  if free.length < n then none
  else
    let keys := free.foldl (fun l m => insertNat l (c.placeKey v m)) []
    some ((keys.take n).map fun k => die * 512 + k % 512)

/-- Members and their serais: a member whose own held serai is chosen takes it, the others follow in order. -/
def Chip.assignment (c : Chip) (v : Caravan) (serais : List Nat) : List (Nat × Nat) :=
  let own := serais.filterMap fun n => (look c.sched.heldBanks n).bind fun u => if (c.living v).contains u then some (u, n) else none
  let others := (c.living v).filter fun u => !own.any fun p => p.1 == u
  own ++ others.zip (serais.filter fun n => !own.any fun p => p.2 == n)

/-- Serais whose held banks must first be written out: one chosen that holds the banks of another than the member placed on it,
and one left by a member that is placed elsewhere (R290). -/
def Chip.writeouts (c : Chip) (l : List (Nat × Nat)) : List Nat :=
  l.flatMap fun p =>
    (if (look c.sched.heldBanks p.2).any fun u => u != p.1 then [p.2] else []) ++
      ((c.sched.heldBanks.filter fun h => h.2 == p.1 && h.1 != p.2).map fun h => h.1)

/-- The entry that a die's bazaar dispatches next, with its members' serais: the reserving one and no other, or the first that
fits (R288). -/
def Chip.nextDispatch (c : Chip) (cycle die : Nat) : Option (Nat × Caravan × List (Nat × Nat)) :=
  let l := match (c.sched.bazaars[die]?).bind (·.reserving) with
    | some r => (c.queuedAt cycle die).filter fun p => p.1 == r
    | none => (c.queuedAt cycle die).filter fun p => (c.chosen die p.2).isSome
  (firstEntry l).bind fun p => (c.chosen die p.2).map fun ns => (p.1, p.2, c.assignment p.2 ns)

/-- The chip with a die's bazaar changed. -/
def Chip.onBazaar (c : Chip) (die : Nat) (f : Bazaar → Bazaar) : Chip :=
  c.onSched fun s => { s with bazaars := s.bazaars.setIfInBounds die (f ((s.bazaars[die]?).getD Bazaar.reset)) }

/-! ## Preparing a serai (R290, R14) -/

/-- A page that stays configured for the next task of the expedition: as PGLOAD leaves it, no token and no binding. -/
def Page.kept (g : Page) : Page :=
  { g with cst := [], xst := [], hops := [], fifos := [], admitted := [], waves := [], lastWave := (0, 0x3FE), firings := 0,
           idle := false, excludedAt := none }

/-- Keys of the words of a serai's banks. -/
def inSerai (n key : Nat) : Bool := key * 8 / 0x2000000 == 0x80000000000 / 0x2000000 + n

/-- The homes with a serai's banks zero, their tags empty and their marks gone. -/
def Homes.clearBanks (h : Homes) (n : Nat) : Homes :=
  { h with mem := { cells := h.mem.cells.filter fun p => !inSerai n (p.1 / 8) }, tags := h.tags.filter fun k => !inSerai n k,
           badTags := h.badTags.filter fun k => !inSerai n k, bad := h.bad.filter fun k => !inSerai n k, rel := h.rel.filter fun p => !inSerai n p.1 }

/-- The homes with one bank's bytes undefined (R14). -/
def Homes.freeBank (h : Homes) (n cell free : Nat) : Homes :=
  (h.writeLong (bankAddr n cell 0) 17 ((List.range 65536).map fun i => Config.freeByte free (cell * 65536 + i))).clearBad (bankAddr n cell 0) 65536

/-- A serai prepared for a new task of an expedition: pages, weight-resident banks and weight-format records (R213) of the same
expedition stay, the other banks are undefined; else all is zero. Tags are empty in either case. -/
def Chip.prepareSerai (c : Chip) (e n : Nat) : Chip :=
  if look c.sched.lastExp n = some e then
    let v := c.serai n
    let pages := (v.pages.filter fun p => p.2.quarter.isSome).map fun p => (p.1, p.2.kept)
    let banks := v.banks.filter fun p => p.2.resident || p.2.fmt.isSome
    let free := c.free
    let c := { c with free := free + 1 }.setSerai n { Serai.reset with pages := pages, banks := banks }
    c.onHomes fun h =>
      let h := ((List.range 256).filter fun k => !(look banks k).any fun b => b.resident).foldl (fun h k => h.freeBank n k free) h
      { h with tags := h.tags.filter fun k => !inSerai n k, badTags := h.badTags.filter fun k => !inSerai n k, rel := h.rel.filter fun p => !inSerai n p.1 }
  else (c.setSerai n Serai.reset).onHomes fun h => h.clearBanks n

/-- A member placed on its serai: whoever held it is off it; a new task's serai is prepared, a saved task's waits for RESTORE. -/
def Chip.placeMember (c : Chip) (cycle e : Nat) (p : Nat × Nat) : Chip :=
  let c := match c.holder? p.2 with
    | some u => c.onDrover u fun d => { d with core := none }
    | none => c
  let c := c.onSched fun s => { s with dead := eraseNat s.dead p.2 }
  if (c.task? p.1).any fun t => t.slot.isSome then
    (c.onSched fun s => { s with restoring := put s.restoring p.2 p.1 }).onDrover p.1 fun d =>
      { d with blockedAt := if d.held then some (cycle, 34) else none }
  else
    ((c.prepareSerai e p.2).onSched fun s => { s with lastExp := put s.lastExp p.2 e }).onDrover p.1 fun d =>
      { d with core := some p.2, run := .starting cycle }

/-! ## Dispatch (R288, R291) -/

/-- Working serais of a die. -/
def Chip.working (c : Chip) (die : Nat) : Nat := 512 - (c.health.withdrawn.filter fun n => n / 512 == die).length

/-- Working serais of the largest die of the module. -/
def Chip.largestDie (c : Chip) : Nat := (List.range 8).foldl (fun m k => max m (c.working k)) 0

/-- Whether a caravan fits no die of its module set; another module's working serais are known once it has advertised them (R291). -/
def Chip.neverFits (c : Chip) (v : Caravan) : Bool :=
  decide (c.largestDie < v.members.length) && (c.exp? v.exp).any fun x => x.modules.all fun m =>
    m == c.mgmt.devid.toNat || (look c.sched.modWorking m).any fun n => decide (n < v.members.length)

/-- TEAMDEAD (R291): a record, an entry of the fault log, and the caravan is killed. -/
def Chip.teamDead (c : Chip) (die cv : Nat) (v : Caravan) : Chip :=
  let c := c.raiseRecord die v.exp 0 false true false v.members.head? (some cv)
    (trapWords 0x11 0 (BitVec.ofNat 64 v.members.length) (BitVec.ofNat 64 c.largestDie) 0) none none
  let c := c.logFault die v.exp { cause := 0x11, orphan := false, fatal := true, taskid := c.firstTaskid v, addr := 0, val := 0, extra := 0 }
  (c.killCaravan cv).onBazaar die fun b => if b.reserving = some cv then { b with reserving := none } else b

/-- The entries that a scan passes over, up to the one dispatched: each keeps the cycle since which it has been passed over. -/
def Chip.passOver (c : Chip) (die cycle : Nat) (stop : Option Caravan) : Chip :=
  (c.queuedAt cycle die).foldl (fun c p =>
    if (c.chosen die p.2).isSome ∨ stop.any (fun v => v.before p.2) then c
    else c.onCaravan p.1 fun v => { v with passedAt := some (v.passedAt.getD cycle) }) c

/-- An entry that fits is passed over no longer (R288). -/
def Chip.tickPassed (c : Chip) : Chip :=
  c.onSched fun s => { s with caravans := s.caravans.map fun p =>
    match p.2.passedAt, p.2.place with
    | some _, .queue die => if (c.chosen die p.2).isSome then (p.1, { p.2 with passedAt := none }) else p
    | _, _ => p }

/-- Whether a die's bazaar has dispatched in a cycle. -/
def Chip.dispatched (c : Chip) (cycle die : Nat) : Bool := (c.sched.bazaars[die]?).any fun b => b.lastDispatch == some cycle

/-- DISPATCH (R288): one a cycle; the chrysalis engine first writes out what the chosen serais hold for others (R290). -/
def execDispatch (die : BitVec 3) (s : State) : Host.Outcome State Fault Refusal :=
  s.eventStep fun c cycle =>
    let die := die.toNat
    match firstEntry ((c.queuedAt cycle die).filter fun p => c.neverFits p.2) with
    | some (cv, v) => c.teamDead die cv v
    | none =>
      if c.dispatched cycle die then c
      else
      match c.nextDispatch cycle die with
      | none => if ((c.sched.bazaars[die]?).bind (·.reserving)).isSome then c else c.passOver die cycle none
      | some (cv, v, l) =>
        if c.writeouts l ≠ [] then c
        else
          let c := if ((c.sched.bazaars[die]?).bind (·.reserving)).isSome then c else c.passOver die cycle (some v)
          let c := l.foldl (fun c p => c.placeMember cycle v.exp p) (c.setMembers v .dispatched)
          (c.onCaravan cv fun x => { x with place := .resident die, dispatchedAt := cycle, passedAt := none, prio := v.prio, reason := none, wake := false }).onBazaar
            die fun b => { b with lastDispatch := some cycle, reserving := if b.reserving = some cv then none else b.reserving }

/-- RESERVING (R288): the head of the highest non-empty level, passed over for 65,536 cycles. -/
def execReserving (die : BitVec 3) (s : State) : Host.Outcome State Fault Refusal :=
  s.eventStep fun c cycle =>
    match firstEntry (c.queued die.toNat), (c.sched.bazaars[die.toNat]?).bind (·.reserving) with
    | some (cv, v), none =>
      if v.passedAt.any fun t => decide (t + 65536 ≤ cycle) then c.onBazaar die.toNat fun b => { b with reserving := some cv } else c
    | _, _ => c

/-- AGING (R286): a dispatch in the same cycle still sees the old level. -/
def execAging (cv : Nat) (s : State) : Host.Outcome State Fault Refusal :=
  s.eventStep fun c cycle =>
    c.onCaravan cv fun v =>
      match v.place with
      | .queue _ => if v.agedAt + 2 ^ 20 ≤ cycle then
          { v with prio := min 7 (v.prio + 1), agedAt := v.agedAt + 2 ^ 20, rose := if v.prio < 7 then some cycle else v.rose }
        else v
      | _ => v

/-- SPILL_REFILL (R287): the best entry that an expedition's spill area holds for a die, with its readiness time. -/
def execSpillRefill (die : BitVec 3) (e : Nat) (s : State) : Host.Outcome State Fault Refusal :=
  s.eventStep fun c cycle =>
    if 2048 ≤ c.queueLen die.toNat then c
    else
      match c.nextSpilled die.toNat e with
      | none => c
      | some (_, true, i) => c.refillLaunch cycle e i
      | some (_, false, cv) => (c.onCaravan cv fun v => { v with place := .queue die.toNat, agedAt := cycle }).spillFreed e

/-! ## Migration within the module (R292) -/

/-- ADVERTISE (R292): the free serais, held ones counted as free; the queued entries that they would fit are noted (R293). -/
def execAdvertise (die : BitVec 3) (s : State) : Host.Outcome State Fault Refusal :=
  s.eventStep fun c cycle =>
    if (c.sched.bazaars[die.toNat]?).any fun b => decide (cycle < b.advertisedAt + 4096) then c
    else
      let n := (c.freeSerais die.toNat).length
      let c := c.onBazaar die.toNat fun b => { b with advertised := n, advertisedAt := cycle }
      c.onSched fun s => { s with caravans := s.caravans.map fun p =>
        (p.1, match p.2.place with
          | .queue _ => if (c.living p.2).length ≤ n then { p.2 with lastAdvert := cycle } else p.2
          | _ => p.2) }

/-- The advertisement of a die. -/
def Chip.advert (c : Chip) (die : Nat) : Nat := ((c.sched.bazaars[die]?).map (·.advertised)).getD 0

/-- The die that an entry is sent to: the one advertising the most, when it fits (R292). -/
def Chip.migrationTarget (c : Chip) (die : Nat) (v : Caravan) : Option Nat :=
  (firstBy (fun a b => decide (c.advert b < c.advert a)) ((List.range 8).filter fun k => k != die)).bind fun k =>
    if (c.living v).length ≤ c.advert k then some k else none

/-- Whether an entry was never dispatched, or has images at all; one with light images is made full first. -/
def Chip.mayLeave (c : Chip) (v : Caravan) : Bool :=
  (c.living v).all fun u => (c.task? u).any fun t => t.slot.isSome || v.dispatchedAt == 0

/-- Whether every image of an entry is full. -/
def Chip.imagesFull (c : Chip) (v : Caravan) : Bool := (c.living v).all fun u => (c.task? u).any fun t => t.slot.isNone || t.full

/-- The entry of a full die that leaves, and where it goes: of the highest level, the oldest that meets the conditions. -/
def Chip.migrationPick (c : Chip) (die : Nat) : Option (Nat × Caravan × Nat) :=
  if c.freeSerais die ≠ [] ∨ (c.sched.bazaars[die]?).any fun b => b.migrating then none
  else
    match firstEntry (c.queued die) with
    | none => none
    | some (_, h) =>
      (firstEntry ((c.queued die).filter fun p => p.2.prio == h.prio && c.mayLeave p.2 && (c.migrationTarget die p.2).isSome)).bind fun p =>
        (c.migrationTarget die p.2).map fun k => (p.1, p.2, k)

/-- MIGRATION_SEND (R292). -/
def execMigrationSend (die : BitVec 3) (s : State) : Host.Outcome State Fault Refusal :=
  s.eventStep fun c _ =>
    match c.migrationPick die.toNat with
    | some (cv, v, k) =>
      if c.imagesFull v then
        (c.onCaravan cv fun v => { v with place := .migrating die.toNat k }).onBazaar die.toNat fun b => { b with migrating := true }
      else c
    | none => c

/-- The die that an entry on its way to a die comes from. -/
def Caravan.comesTo (v : Caravan) (die : Nat) : Option Nat :=
  match v.place with
  | .migrating a b => if b = die then some a else none
  | _ => none

/-- MIGRATION_RECEIVE (R292): the entry that has come, lowest sending die first, goes into the queue or the spill area; with room
in neither it returns as it was. -/
def execMigrationReceive (die : BitVec 3) (s : State) : Host.Outcome State Fault Refusal :=
  s.eventStep fun c _ =>
    let die := die.toNat
    match firstBy (fun a b => decide ((a.2.comesTo die).getD 0 < (b.2.comesTo die).getD 0)) (c.sched.caravans.filter fun p => (p.2.comesTo die).isSome) with
    | none => c
    | some (cv, v) =>
      let src := (v.comesTo die).getD 0
      let n := ((c.sched.bazaars[die]?).map (·.arrivals)).getD 0
      let c := c.onBazaar src fun b => { b with migrating := false }
      if !c.takesEntry die v.exp then c.onCaravan cv fun v => { v with place := .queue src }
      else
        let room := decide (c.queueLen die < 2048)
        let c := c.onBazaar src fun b => if b.reserving = some cv then { b with reserving := none } else b
        let c := c.onBazaar die fun b => { b with arrivals := n + 1 }
        let c := c.onCaravan cv fun v => { v with order := arbiterOrder 3 n, passedAt := none, place := if room then .queue die else .spilled die }
        if room then c else c.writeSpill v.exp die

/-! ## Yield and resident deadlock (R281, R294, R295) -/

/-- The resident caravans of an expedition on a die. -/
def Chip.residents (c : Chip) (die e : Nat) : List (Nat × Caravan) :=
  c.sched.caravans.filter fun p => p.2.exp == e && p.2.place == .resident die

/-- Whether every member that has not retired is blocked, each for as long as `lim` asks of its drover. -/
def Chip.allBlocked (c : Chip) (cycle : Nat) (lim : Drover → Nat) (v : Caravan) : Bool :=
  (c.living v).all fun u => (c.drover? u).any fun d => d.blockedSince.any fun t => decide (t + lim d ≤ cycle)

/-- YIELD_THRESHOLD (R281): a pinned caravan is never yielded (R294). -/
def execYieldThreshold (cv : Nat) (s : State) : Host.Outcome State Fault Refusal :=
  s.eventStep fun c cycle =>
    match c.caravan? cv with
    | none => c
    | some v =>
      match v.place with
      | .resident _ =>
        if !v.pinned ∧ v.reason = none ∧ c.living v ≠ [] ∧ c.allBlocked cycle (fun d => d.ctl.yieldth.toNat) v then
          c.onCaravan cv fun v => { v with reason := some 0 }
        else c
      | _ => c

/-- Whether a die's ready queue or the spill area holds a caravan of an expedition. -/
def Chip.anyReady (c : Chip) (die e : Nat) : Bool :=
  (c.sched.caravans.any fun p => p.2.exp == e && match p.2.place with
    | .queue d => d == die
    | .migrating d _ => d == die
    | .spilled _ => true
    | _ => false) || (c.exp? e).any fun x => x.spill != []

/-- Whether resident deadlock holds for an expedition on a die in this cycle (R295). -/
def Chip.deadlocked (c : Chip) (cycle die e : Nat) : Bool :=
  c.residents die e != [] && ((c.residents die e).all fun p => p.2.pinned && c.allBlocked cycle (fun _ => 0) p.2) && c.anyReady die e

/-- The counts of resident deadlock as cycles pass (R295). -/
def Chip.tickDeadlock (c : Chip) (cycle : Nat) : Chip :=
  (List.range 8).foldl (fun c die =>
    c.sched.exps.foldl (fun c p =>
      c.onBazaar die fun b =>
        { b with deadlock := if c.deadlocked cycle die p.1 then put b.deadlock p.1 ((look b.deadlock p.1).getD cycle) else del b.deadlock p.1 }) c) c

/-- DEADLOCK_PREEMPT (R295): lowest priority, then most recently dispatched; one whose save was refused comes after the others. -/
def execDeadlockPreempt (die : BitVec 3) (e : Nat) (s : State) : Host.Outcome State Fault Refusal :=
  s.eventStep fun c cycle =>
    if !((c.sched.bazaars[die.toNat]?).bind fun b => look b.deadlock e).any fun t => decide (t + 65536 ≤ cycle) then c
    else
      let refused := fun (v : Caravan) => (v.passedAt.map (· + 1)).getD 0
      let first := fun (a b : Nat × Caravan) => decide (refused a.2 < refused b.2 ∨ (refused a.2 = refused b.2 ∧
        (a.2.prio < b.2.prio ∨ (a.2.prio = b.2.prio ∧ b.2.dispatchedAt < a.2.dispatchedAt))))
      match firstBy first ((c.residents die.toNat e).filter fun p => p.2.reason.isNone) with
      | none => c
      | some (cv, _) =>
        (c.onCaravan cv fun v => { v with reason := some 2 }).onBazaar die.toNat fun b => { b with deadlock := put b.deadlock e cycle }

end Sys2Proof.Machine
end

