-- ==== Sys2Proof/Machine/Save.lean ====
section
/-!
DEFINITION. The chrysalis engine (R290, R335 to R340): walking a slot, gating a serai, committing its image, restoring it, and
writing out held banks.
-/

namespace Sys2Proof.Machine

/-! ## Slots (R335) -/

/-- Bytes of the light part of an image (R336). -/
def lightBytes : Nat := 0x18000

/-- Bytes of a slot that a save uses. -/
def imageBytes (full : Bool) : Nat := if full then lightBytes + 0x1000000 else lightBytes

/-- Whether a save for a reason writes the banks (R294, R346: pre-emption and fencing save full). -/
def savesFull (reason : Nat) : Bool := reason == 2 || reason == 3

/-- A page of a slot: its leaf, when the page serves: writable, and for a save tagged and unwatched; or the reason word of the failure
(R340). -/
def Chip.slotPage (c : Chip) (u : Nat) (d : Drover) (va : Nat) (tagged : Bool) : Got Leaf :=
  match c.engineLeaf u d va .write with
  | .bad k a => .bad (if k = 3 then 1 else 2) a
  | .wait c => if d.walks va then .wait c else .bad 1 va
  | .ok l c => if tagged && (!l.tagged || l.watched) then .bad 2 va else .ok l c

/-- The walk of the first pages of a slot: their leaves, which are pinned, or the reason of the first failure. -/
def Chip.slotWalk (c : Chip) (u : Nat) (d : Drover) (va : Nat) (tagged : Bool) : Nat → Got (List Leaf)
  | 0 => .ok [] c
  | n + 1 => (c.slotWalk u d va tagged n).bind fun ls c =>
      (c.slotPage u d (va + 4096 * n) tagged).bind fun l c => .ok (if ls.contains l then ls else ls ++ [l]) c

/-- Whether a write to another module is not yet answered: what the chrysalis engine reads back there waits for it. -/
def Chip.anyPosted (c : Chip) : Bool :=
  c.requests.any fun r => match r.2 with
    | .posted _ _ => true
    | _ => false

/-- The lowest-numbered free slot in the bytes of the table. -/
def freeSlotOf (table : List Byte) : Option Nat := (List.range table.length).find? fun i => byteAt table i == 0

/-! ## SAVE records (R339, R340) -/

/-- A SAVE record: slot address, reason, caravan index. -/
def Chip.saveRecord (c : Chip) (u n slot reason : Nat) : Chip :=
  match c.task? u with
  | none => c
  | some t =>
    c.raiseRecord (n / 512) t.exp n true false false (some u) (some t.caravan)
      (trapWords 0x10 0 (BitVec.ofNat 64 slot) (BitVec.ofNat 64 reason) (BitVec.ofNat 64 t.index)) none none

/-- A save refused: every walked slot is free again, the caravan stays as it is; YIELD has had its effect; a pre-emption that was
refused is remembered (R281, R295). -/
def Chip.refuseSave (c : Chip) (cycle cv : Nat) : Chip :=
  match c.caravan? cv with
  | none => c
  | some v =>
    let c := v.members.foldl (fun c u =>
      let c := match look c.sched.saving u with
        | some (.walked k _ _) => c.freeSlot u k
        | _ => c
      (c.onSched fun s => { s with saving := del s.saving u }).onDrover u fun d => if d.hold = .yielding then { d with hold := .result 0 } else d) c
    c.onCaravan cv fun v => { v with reason := none, wake := false, passedAt := if v.reason = some 2 then some cycle else v.passedAt }

/-! ## Saving (R338) -/

/-- SAVE_WALK (R338, step 1): the lowest free slot is taken and its pages walked; a failure refuses the caravan's save, or, when the
serai is gated already after a fault, sends another SAVE record. -/
def execSaveWalk (u : Nat) (s : State) : Host.Outcome State Fault Refusal :=
  s.eventStep fun c cycle =>
    match c.task? u, c.drover? u with
    | some t, some d =>
      match c.caravan? t.caravan, c.exp? t.exp, d.core with
      | some v, some x, some n =>
        match v.reason with
        | none => c
        | some r =>
          if !t.alive ∨ (look c.sched.saving u).isSome then c
          else
            let fail := fun (c : Chip) slot why =>
              let c := if d.run = .gated then c.onSched fun s => { s with saving := put s.saving u (.faulted 0 false) } else c.refuseSave cycle t.caravan
              c.saveRecord u n slot why
            match c.readBlock (blockAgent u) u d x.chrysalis (min x.slots 4096) with
            | .wait c => if d.walks x.chrysalis then c else fail c x.chrysalis 1
            | .bad k _ => fail c x.chrysalis (if k = 3 then 1 else 2)
            | .ok table c =>
              let c := c.dropFar (blockAgent u)
              match freeSlotOf table with
              | none => fail c 0 4
              | some k =>
                let va := slotAddr x.chrysalis k
                let full := savesFull r
                match c.slotWalk u d va true (imageBytes full / 4096) with
                | .wait c => c
                | .bad why _ => fail c va why
                | .ok pins c =>
                  (c.writeBlock u d (x.chrysalis + k) [1]).1.onSched fun s => { s with saving := put s.saving u (.walked k full pins) }
      | _, _, _ => c
    | _, _ => c

/-- Whether every living member of a caravan has its slot, is gated, or is out of its serai. -/
def Chip.allWalked (c : Chip) (v : Caravan) : Bool :=
  (c.living v).all fun u => (look c.sched.saving u).isSome || (c.drover? u).any fun d => d.core.isNone

/-- Slot address of a member's image, 0 when it has none. -/
def Chip.memberSlot (c : Chip) (x : Expedition) (u : Nat) : Nat :=
  match look c.sched.saving u with
  | some (.walked k _ _) => slotAddr x.chrysalis k
  | some (.gatedIn k _ _ _) => slotAddr x.chrysalis k
  | some (.faulted k _) => slotAddr x.chrysalis k
  | none => (((c.task? u).bind (·.slot)).map fun k => slotAddr x.chrysalis k).getD 0

/-- The header of the image that is being made (R337). -/
def Chip.imageHeader (c : Chip) (u n cycle : Nat) (t : Task) (v : Caravan) (x : Expedition) (held full complete : Bool) : List Byte :=
  headerBytes (lookD c.sched.saveno n 0 + 1) t.exp t.index (v.reason.getD 0) held full complete t.taskid n cycle
    (match v.members.head? with
      | some m => c.memberSlot x m
      | none => c.memberSlot x u)

/-- A save that faults while writing (R339): the serai stays gated, a SAVE record is sent. -/
def Chip.saveFault (c : Chip) (u n slot va : Nat) (full : Bool) : Chip :=
  (c.onSched fun s => { s with saving := put s.saving u (.faulted slot full) }).saveRecord u n va 3

/-- GATING (R338, steps 2 and 3): once every member's slot is walked the serai's clock stops; a YIELD that waited has issued; the
header is opened. -/
def execGating (u : Nat) (s : State) : Host.Outcome State Fault Refusal :=
  s.eventStep fun c cycle =>
    match look c.sched.saving u, c.task? u, c.drover? u with
    | some (.walked k full pins), some t, some d =>
      match c.caravan? t.caravan, c.exp? t.exp, d.core with
      | some v, some x, some n =>
        if !c.allWalked v then c
        else
          let d := if d.hold = .yielding then { d.retire 4 with run := .gated } else { d with run := .gated }
          let c := c.setDrover u d
          let va := slotAddr x.chrysalis k
          match c.storeBlock u d va ((c.imageHeader u n cycle t v x d.held full false).take 8) pins with
          | (c, none) => c.onSched fun s => { s with saving := put s.saving u (.gatedIn k full cycle pins) }
          | (c, some _) => c.saveFault u n k va full
      | _, _, _ => c
    | _, _, _ => c

/-- The tag of the bank word at an offset of the banks, copied between a serai and a slot page, for the words of a page. -/
def Homes.copyTags (h : Homes) (src dst words : Nat) : Homes :=
  (List.range words).foldl (fun h i => h.setTag (dst + 8 * i) (h.tag (src + 8 * i))) h

/-- The payload that gives the words of a line of another module their tags (log 37). -/
def tagsPayload (tags : Nat) : List Byte := leBytes 20 1 ++ leBytes 0 1 ++ leBytes 8 2 ++ leBytes 0 16 ++ leBytes tags 8 ++ leBytes 0 8

/-- The tags of words from an address sent to the lines of a page of another module. -/
def Chip.sendTags (c : Chip) (u : Nat) (l : Leaf) (src dst : Nat) : Nat → Chip
  | 0 => c
  | i + 1 =>
    let c := c.sendTags u l src dst i
    match c.request l.dev 3 (dst + 64 * i) (tagsPayload (c.homes.lineTags (src + 64 * i)).toNat) (fun k => .posted (blockAgent u) k) with
    | some (_, c) => c
    | none => c

/-- The banks of a serai written behind a light image, page by page, with the tags in the slot's own tags (R335). -/
def Chip.writeBanks (c : Chip) (u : Nat) (d : Drover) (pins : List Leaf) (n va : Nat) : Nat → Chip × Option Nat
  | 0 => (c, none)
  | i + 1 =>
    match c.writeBanks u d pins n va i with
    | (c, some e) => (c, some e)
    | (c, none) =>
      let a := va + lightBytes + 4096 * i
      let b := bankAddr n 0 0 + 4096 * i
      match c.storeBlock u d a (c.homes.bytesLong b 4096) pins with
      | (c, some e) => (c, some e)
      | (c, none) =>
        match c.engineLeaf u d a .write pins with
        | .ok l c => (if l.rmt then c.sendTags u l b (l.pa a) 64 else c.onHomes fun h => h.copyTags b (l.pa a) 512, none)
        | _ => (c, none)

/-- Pages of the banks of a serai. -/
def bankPages : Nat := 4096

/-- A caravan whose living members are all saved leaves its serais (R280, R282, R290): ready at once, watching, or yielded. Until then
a committed member's serai stays with the caravan; afterwards only light images keep theirs held. What a living member has bound stays with
its image, as every token does (R300); a member that has retired loses it (R243; log 96). -/
def Chip.savedCaravan (c : Chip) (cycle cv die : Nat) : Chip :=
  match c.caravan? cv with
  | none => c
  | some v =>
    let live := c.living v
    if live.any fun u => (c.drover? u).any fun d => d.core.isSome then c
    else
      let c := v.members.foldl (fun c u =>
        let c := c.onDrover u fun d => { d with core := none }
        if live.contains u then c else c.unbindTask u) c
      let c := c.onCaravan cv fun v => { v with reason := none, wake := false }
      let c := c.onSched fun s => { s with heldBanks := s.heldBanks.filter fun p => !(v.members.contains p.2 && (c.task? p.2).any fun t => t.full) }
      let ready := c.enqueue cv die cycle (arbiterOrder 4 (c.firstTaskid v))
      match v.reason with
      | some 0 =>
        let atOnce := live.any fun u => (c.drover? u).any fun d => match d.blockedAt with
          | none => true
          | some (_, on) => on % 64 == 30 || on % 64 == 32 || !d.blockedOn on
        if v.wake || atOnce then ready
        else (c.onCaravan cv fun v => { v with place := .yielded die }).setMembers v .yielded
      | some 1 => if v.watches = [] then ready else (c.onCaravan cv fun v => { v with place := .watching die }).setMembers v .watching
      | _ => ready

/-- After a save on a die its pinned caravans on a serai that waits for its self-test are pre-empted with reason 3 (R346). -/
def Chip.fenceNext (c : Chip) (die : Nat) : Chip :=
  let tested := fun (v : Caravan) => v.members.any fun u => (c.seraiOf u).any fun n => c.health.testing.contains (.serai (BitVec.ofNat 12 n))
  let due := fun (v : Caravan) => v.place == Place.resident die && v.pinned && v.reason.isNone && tested v
  c.onSched fun s => { s with caravans := s.caravans.map fun p => if due p.2 then (p.1, { p.2 with reason := some 3 }) else p }

/-- SAVE_COMMIT (R338, steps 4 and 5): after the readout, and once everything that may be sent has been sent, the image is written, its
header last; a light save leaves the banks held. -/
def execSaveCommit (u : Nat) (s : State) : Host.Outcome State Fault Refusal :=
  s.eventStep fun c cycle =>
    match look c.sched.saving u, c.task? u, c.drover? u with
    | some (.gatedIn k full since pins), some t, some d =>
      match c.caravan? t.caravan, c.exp? t.exp, d.core with
      | some v, some x, some n =>
        if cycle < since + 1536 + (if full then 262144 else 0) ∨ d.mem.accs.any fun a => d.canDrain a || d.canSendRead a then c
        else
          let va := slotAddr x.chrysalis k
          let c := { c with free := c.free + 1 }
          let head := (c.imageHeader u n since t v x d.held full true).take 60
          let img := sealImage head (d.imageBody (c.serai n).tokens c.free)
          match c.storeBlock u d (va + 64) (img.drop 64) pins with
          | (c, some _) => c.saveFault u n k va full
          | (c, none) =>
            match if full then c.writeBanks u d pins n va bankPages else (c, none) with
            | (c, some _) => c.saveFault u n k va full
            | (c, none) =>
              match c.storeBlock u d va (img.take 64) pins with
              | (c, some _) => c.saveFault u n k va full
              | (c, none) =>
                let d' := { d with core := none, run := .off, mem := { d.mem with dcache := [], icache := [], tlb := [] } }
                let c := match t.slot with
                  | some old => c.freeSlot u old
                  | none => c
                let c := (c.setDrover u d').onTask u fun t => { t with slot := some k, full := full, header := head, heldAt := if full then none else some n }
                let c := c.onSched fun sc =>
                  { sc with images := put sc.images u (c.serai n), saving := del sc.saving u, saveno := put sc.saveno n (lookD sc.saveno n 0 + 1),
                            heldBanks := put sc.heldBanks n u }
                (c.savedCaravan cycle t.caravan (n / 512)).fenceNext (n / 512)
      | _, _, _ => c
    | _, _, _ => c

/-! ## Restoring (R340) -/

/-- The light part of a task's image, when its slot can be walked and read, its COMPLETE bit is set and its crc agrees; a slot in another
module is read line by line. -/
def Chip.goodImage (c : Chip) (u : Nat) : Got (List Byte) :=
  match c.task? u, c.drover? u with
  | some t, some d =>
    match t.slot, c.exp? t.exp with
    | some k, some x =>
      let va := slotAddr x.chrysalis k
      (c.slotWalk u d va false (imageBytes t.full / 4096)).bind fun pins c =>
        if (pins.any fun l => l.rmt) && c.anyPosted then .wait c
        else (c.readBlock (blockAgent u) u d va lightBytes).bind fun b c =>
          if byteAt b 0 % 2 = 1 ∧ field b 60 4 = crc32c (b.take 60 ++ leBytes 0 4 ++ b.drop 64) then .ok b c else .bad 5 va
    | _, _ => .bad 5 0
  | _, _ => .bad 5 0

/-- The first of some tasks whose image cannot be restored, if any. -/
def Chip.badImage (c : Chip) : List Nat → Got (Option Nat)
  | [] => .ok none c
  | u :: r =>
    match c.goodImage u with
    | .bad _ _ => .ok (some u) c
    | .wait c => .wait c
    | .ok _ c => c.badImage r

/-- The drover as an image gives it; a pending register keeps what its completion brings (R19). -/
def Drover.fromImage (d : Drover) (b : List Byte) : Drover :=
  let flags := field b 0x148 8
  let inb := field b 0x150 8
  { d with
    regs := { x := Vector.ofFn fun (i : Fin 32) =>
                if i.val = 0 ∨ 28 ≤ i.val ∨ (look d.board.pend i.val).isSome then d.regs.x[i] else BitVec.ofNat 64 (field b (0x40 + 8 * i.val) 8),
              p := BitVec.ofNat 8 (bitsOf flags 32 7), pc := BitVec.ofNat 64 (field b 0x140 8),
              d := Vector.ofFn fun (i : Fin 16) =>
                if (look d.board.dpend i.val).isSome then d.regs.d[i] else BitVec.ofNat 1024 (field b (0x200 + 128 * i.val) 128) },
    ctl := { fflags := BitVec.ofNat 5 (bitsOf flags 40 5), qpeer := BitVec.ofNat 4 inb, yieldth := BitVec.ofNat 48 (field b 0x158 8),
             arm := BitVec.ofNat 4 (bitsOf inb 8 4), ovr := BitVec.ofNat 4 (bitsOf inb 16 4), instret := BitVec.ofNat 64 (field b 0x160 8),
             govhold := BitVec.ofNat 64 (field b 0x168 8) } }

/-- Whether the banks of a full image can be read now: lines of another module have come. -/
def Chip.banksHere (c : Chip) (u : Nat) (d : Drover) (va : Nat) : Nat → Got Unit
  | 0 => .ok () c
  | i + 1 => (c.banksHere u d va i).bind fun _ c =>
      (c.readBlock (blockAgent u) u d (va + lightBytes + 4096 * i) 4096).bind fun _ c => .ok () c

/-- The homes with the tags of words given, eight of a line. -/
def Homes.putTags (h : Homes) (pa : Nat) (tags : BitVec 8) : Homes :=
  (List.range 8).foldl (fun h i => h.setTag (pa + 8 * i) (tags.getLsbD i)) h

/-- The banks of a full image read back into a serai, page by page, with their tags. -/
def Chip.readBanks (c : Chip) (u : Nat) (d : Drover) (n va : Nat) : Nat → Chip
  | 0 => c
  | i + 1 =>
    let c := c.readBanks u d n va i
    let a := va + lightBytes + 4096 * i
    let b := bankAddr n 0 0 + 4096 * i
    match c.readBlock (blockAgent u) u d a 4096, c.engineLeaf u d a .read with
    | .ok bs _, .ok l _ =>
      c.onHomes fun h =>
        let h := h.writeLong b 2 bs
        if l.rmt then (List.range 64).foldl (fun h i => h.putTags (b + 64 * i) (c.farTags (blockAgent u) l (l.pa a + 64 * i))) h
        else h.copyTags (l.pa a) b 512
    | _, _ => c

/-- A page as it goes on after n cycles out of its serai (R300). -/
def Page.shift (g : Page) (n : Nat) : Page :=
  { g with since := g.since + n, enabledAt := g.enabledAt + n, excludedAt := g.excludedAt.map (· + n) }

/-- A pager as it goes on after n cycles out of its serai (R300). -/
def Pager.shift (p : Pager) (n : Nat) : Pager :=
  match p with
  | .idle => .idle
  | .closing q k v t => .closing q k v (t + n)
  | .saved q k t => .saved q k (t + n)
  | .loaded q k t => .loaded q k (t + n)

/-- Engines as they go on after n cycles out of their serai: what counts cycles stands where it stood (R300). -/
def Serai.shift (v : Serai) (n : Nat) : Serai :=
  { v with pager := v.pager.shift n, pages := v.pages.map fun p => (p.1, p.2.shift n) }

/-- A restore refused: nothing is changed in serai or slot, and the caravan is back in the ready queue as it was. -/
def Chip.refuseRestore (c : Chip) (cv die : Nat) (v : Caravan) : Chip :=
  (((c.onCaravan cv fun v => { v with place := .queue die }).setMembers v .ready)).onSched fun s =>
    { s with restoring := s.restoring.filter fun p => !v.members.contains p.2 }

/-- RESTORE (R340): before the first member of a caravan is restored, the images of all are checked. -/
def execRestore (u : Nat) (s : State) : Host.Outcome State Fault Refusal :=
  s.eventStep fun c cycle =>
    match c.sched.restoring.find? fun p => p.2 == u, c.task? u, c.drover? u with
    | some (n, _), some t, some d =>
      match c.caravan? t.caravan, c.exp? t.exp, t.slot with
      | some v, some x, some k =>
        let own := t.heldAt = some n
        let full := t.full && !decide own
        if cycle < v.dispatchedAt + 1536 + (if full then 262144 else 0) then c
        else
          let waiting := (c.living v).filter fun m => c.sched.restoring.any fun p => p.2 == m
          match c.badImage waiting with
          | .bad _ _ => c
          | .wait c => c
          | .ok (some m) c =>
            if waiting.length = (c.living v).length then
              (c.refuseRestore t.caravan (n / 512) v).saveRecord m n (c.memberSlot x m) 5
            else c
          | .ok none c =>
            let va := slotAddr x.chrysalis k
            match (c.goodImage u).bind fun b c => (c.banksHere u d va (if full then bankPages else 0)).bind fun _ c => .ok b c with
            | .bad _ _ => c
            | .wait c => c
            | .ok b c =>
            let d' := { d.fromImage b with core := some n, run := .starting cycle }
            let c := if full then (c.onHomes fun h => h.clearBanks n).readBanks u d n va bankPages else c
            let v' := (lookD c.sched.images u Serai.reset).shift (cycle - field t.header 16 8)
            let c := ((c.dropFar (blockAgent u)).setSerai n v').setDrover u d'
            (c.onTask u fun t => { t with heldAt := none }).onSched fun sc =>
              { sc with restoring := del sc.restoring n, images := del sc.images u, lastExp := put sc.lastExp n t.exp,
                        heldBanks := sc.heldBanks.filter fun p => p.2 != u }
      | _, _, _ => c
    | _, _, _ => c

/-! ## Held banks (R290) -/

/-- An entry of a full die that no die of the module has had room for in 65,536 cycles (R293). -/
def Chip.modulePick (c : Chip) (cycle die : Nat) : Option (Nat × Caravan) :=
  if c.freeSerais die ≠ [] ∨ (c.sched.bazaars[die]?).any fun b => b.migrating then none
  else
    match firstEntry (c.queued die) with
    | none => none
    | some (_, h) =>
      firstEntry ((c.queued die).filter fun p => p.2.prio == h.prio && c.mayLeave p.2 && decide (p.2.lastAdvert + 65536 ≤ cycle))

/-- Whether a serai's held banks must be written out: for its self-test (R346), for the next dispatch of its die, or for an entry that
is to migrate. -/
def Chip.wantsWriteout (c : Chip) (cycle n u : Nat) : Bool :=
  c.health.testing.contains (.serai (BitVec.ofNat 12 n)) ||
  ((List.range 8).any fun die => (c.nextDispatch cycle die).any fun p => (c.writeouts p.2.2).contains n) ||
    (List.range 8).any fun die => ((c.migrationPick die).any fun p => p.2.1.members.contains u) ||
      (c.modulePick cycle die).any fun p => p.2.members.contains u

/-- HELD_BANK_WRITEOUT (R290): the banks behind the owner's image, whose header then says full and held banks; the serai is freed of
them. -/
def execHeldBankWriteout (n : BitVec 12) (s : State) : Host.Outcome State Fault Refusal :=
  s.eventStep fun c cycle =>
    let n := n.toNat
    match look c.sched.heldBanks n with
    | none => c
    | some u =>
      match c.task? u, c.drover? u with
      | some t, some d =>
        match t.slot, c.exp? t.exp with
        | some k, some x =>
          if !c.wantsWriteout cycle n u then c
          else
            let va := slotAddr x.chrysalis k
            match c.slotWalk u d va true (imageBytes true / 4096) with
            | .wait c => c
            | .bad why _ => c.saveRecord u n va why
            | .ok pins c =>
              match c.goodImage u with
              | .wait c => c
              | .bad _ _ => c.saveRecord u n va 5
              | .ok b c =>
                match c.writeBanks u d pins n va bankPages with
                | (c, some _) => c.saveRecord u n va 3
                | (c, none) =>
                  let head := (leBytes (bitsOf (byteAt b 0) 0 4 ||| 0x42) 1 ++ (b.take 60).drop 1)
                  match c.storeBlock u d va (sealImage head (b.drop 64)) pins with
                  | (c, some _) => c.saveRecord u n va 3
                  | (c, none) =>
                    ((c.dropFar (blockAgent u)).onTask u fun t => { t with full := true, header := head, heldAt := none }).onSched fun s =>
                      { s with heldBanks := del s.heldBanks n }
        | _, _ => c
      | _, _ => c

end Sys2Proof.Machine
end

