-- ==== Sys2Proof/Machine/Packets.lean ====
section
/-!
DEFINITION. Packets that a module serves and answers (R126, R293, R354, R355, R367), and migration between modules (R293).
-/

namespace Sys2Proof.Machine

/-! ## The head of a link -/

/-- The packet that came first on a link, if it is of a type and for this module. -/
def Chip.headOf (c : Chip) (l ptype : Nat) : Option Packet :=
  ((c.links[l]?).bind fun k => k.inPackets.head?).bind fun p =>
    if p.2.ptype = ptype ∧ p.2.dst = c.mgmt.devid.toNat then some p.2 else none

/-- A packet of a type taken from the head of a link. -/
def State.packetStep (s : State) (l : BitVec 5) (ptype : Nat) (f : Chip → Nat → Packet → Chip) : Host.Outcome State Fault Refusal :=
  s.eventStep fun c cycle =>
    match c.headOf l.toNat ptype with
    | none => c
    | some p => f (c.dropHead (.link l.toNat)) cycle p

/-- Packet type of the answer to a request. -/
def replyType (ptype : Nat) : Option Nat :=
  match ptype with
  | 0 => some 2
  | 1 => some 5
  | 3 => some 4
  | _ => none

/-- PACKET_FORWARD (R355): a packet for another device goes on whole; with no link to take it, it is discarded and counted (R354), and a
request is answered with MEMERR (log 37). -/
def execPacketForward (link : BitVec 5) (s : State) : Host.Outcome State Fault Refusal :=
  s.eventStep fun c _ =>
    match (c.links[link.toNat]?).bind fun k => k.inPackets.head? with
    | none => c
    | some (_, p) =>
      if p.dst = c.mgmt.devid.toNat then c
      else
        let c := c.dropHead (.link link.toNat)
        match c.linkTo p.dst with
        | some l => c.queuePacket l p
        | none =>
          let c := c.countLinkErr link.toNat
          match replyType p.ptype with
          | some t => c.send { ptype := t, err := 9, dst := p.src, src := p.dst, tag := p.tag, addr := 0, data := [] }
          | none => c

/-! ## Requests served at the home -/

/-- Regions that a page of another module may name (R253). -/
def servesRemote (pa : Nat) : Bool :=
  match regionOf pa with
  | .hbmI => true
  | .hbmD => true
  | .lpddr => true
  | _ => false

/-- READ_PACKET (R354): the bytes asked for, XLATE outside module memory, MEMERR at an uncorrectable word. A line that is asked for with its
tags is followed by them (log 37). -/
def execReadPacket (link : BitVec 5) (s : State) : Host.Outcome State Fault Refusal :=
  s.packetStep link 0 fun c _ p =>
    let n := min (field p.data 0 2) 2048
    if !servesRemote p.addr || !servesRemote (p.addr + n - 1) then c.answerRemote p.src p.tag 2 3 []
    else if c.homes.anyBad p.addr n then c.answerRemote p.src p.tag 2 9 []
    else
      c.answerRemote p.src p.tag 2 0
        (c.homes.bytesLong p.addr n ++ if byteAt p.data 2 = 1 then leBytes (c.homes.lineTags p.addr).toNat 1 else [])

/-- The chunks of a write packet: address, bytes, and the bits of each that are written. -/
def packetChunks : Nat → Nat → List Byte → List Byte → List Chunk
  | 0, _, _, _ => []
  | fuel + 1, pa, bytes, bits =>
    if bytes = [] then []
    else
      let o := pa % 64
      let k := min (64 - o) bytes.length
      let place := fun (l : List Byte) => List.replicate o 0 ++ l.take k ++ List.replicate (64 - o - k) 0
      { leaf := noLeaf, sid := 0, setTag := false, va := pa - o, pa := pa - o, bytes := place bytes, bits := place bits } ::
        packetChunks fuel (pa + k) (bytes.drop k) (bits.drop k)

/-- Bytes and bits of a write packet (log 37). -/
def Packet.writes (p : Packet) : List Byte × List Byte :=
  if bitOf p.flags 0 then (p.data.take (p.data.length / 2), p.data.drop (p.data.length / 2))
  else (p.data, List.replicate p.data.length 0xFF)

/-- A chunk of another module performed, as one step, with the tags it fills (R27, R276). -/
def Chip.remoteChunk (c : Chip) (cycle : Nat) (tags : Bool) (k : Chunk) : Chip :=
  let c := c.onHomes fun h => h.storeChunk k
  if tags then
    (k.words false).foldl (fun (c : Chip) i => (c.onHomes fun h => h.setTag (k.pa + 8 * i) true).serve cycle (k.pa + 8 * i)) c
  else c

/-- WRITE_PACKET (R367): every chunk performed at its home, then write done with the same tag. -/
def execWritePacket (link : BitVec 5) (s : State) : Host.Outcome State Fault Refusal :=
  s.packetStep link 1 fun c cycle p =>
    let w := p.writes
    if !servesRemote p.addr || !servesRemote (p.addr + w.1.length - 1) then c.answerRemote p.src p.tag 5 3 []
    else
      ((packetChunks 33 p.addr w.1 w.2).foldl (fun c k => c.remoteChunk cycle (bitOf p.flags 1) k) c).answerRemote p.src p.tag 5 0 []

/-- A result of an atomic packet: the value; the byte behind it is 1 when no waiter record was free (R143), 2 when a launch has failed at a
module with no part of its expedition, with the old value behind it (R138, log 37). -/
def atomicReply (v : Word) (note : Nat) (old : Nat := 0) : List Byte := leBytes v.toNat 8 ++ leBytes note 1 ++ leBytes old 8

/-- A caravan that has ended in another module (R279): its members live no longer. -/
def Chip.endedAway (c : Chip) (src cv : Nat) : Chip :=
  match c.caravan? cv with
  | none => c
  | some v => if v.place = .module src then (c.setMembers v .retired).caravanGone cv else c

/-- A caravan that came from another module is killed there (R189): so it is here. -/
def Chip.killedAway (c : Chip) (src cv : Nat) : Chip :=
  match c.sched.caravans.find? fun p => p.2.origin == some (src, cv) && p.2.place != .gone with
  | none => c
  | some (k, _) => c.killCaravan k

/-- A continuation atomic of another module (R133, R136, R138). -/
def Chip.remoteCont (c : Chip) (cycle : Nat) (p : Packet) (k : AccKind) (d1 d2 : Word) : Chip :=
  let answer := fun (c : Chip) (err : Nat) (b : List Byte) => c.answerRemote p.src p.tag 4 err b
  let l : Launch :=
    { exp := field p.data 4 2, tmpl := field p.data 6 2, old := 0, tag := field p.data 8 4, word := p.addr, va := BitVec.ofNat 64 (field p.data 12 8),
      issuer := 0, since := cycle, clk := c.homes.seen }
  let old := c.homes.num p.addr 8
  match c.continuation k l.exp p.addr d1 d2 l with
  | (c, none) => answer c 9 []
  | (c, some st) =>
    answer c 0 (atomicReply (BitVec.ofNat 64 st) (if st = 1 ∧ (c.exp? l.exp).isNone then 2 else 0) old)

/-- ATOMIC_PACKET (R126): performed at the home as a local access is; beside the accesses, a question for a word's tag, the tags of a line,
and the end or the killing of a caravan that was sent away (log 37). -/
def execAtomicPacket (link : BitVec 5) (s : State) : Host.Outcome State Fault Refusal :=
  s.packetStep link 3 fun c cycle p =>
    let k := kindOf (byteAt p.data 0) (byteAt p.data 1)
    let size := field p.data 2 2
    let d1 := BitVec.ofNat 64 (field p.data 20 8)
    let d2 := BitVec.ofNat 64 (field p.data 28 8)
    let answer := fun (c : Chip) (err : Nat) (b : List Byte) => c.answerRemote p.src p.tag 4 err b
    if byteAt p.data 0 = 21 then answer (c.endedAway p.src d1.toNat) 0 (atomicReply 0 0)
    else if byteAt p.data 0 = 22 then answer (c.killedAway p.src d1.toNat) 0 (atomicReply 0 0)
    else if !servesRemote p.addr then answer c 3 []
    else if byteAt p.data 0 = 19 then answer c 0 (atomicReply (BitVec.ofNat 64 (b2n (c.homes.tag p.addr))) 0)
    else if byteAt p.data 0 = 20 then
      answer (c.onHomes fun h => h.putTags (p.addr / 64 * 64) (d1.setWidth 8)) 0 (atomicReply 0 0)
    else if k.isCont then c.remoteCont cycle p k d1 d2
    else if k.isFullEmpty ∧ !c.homes.feReady k p.addr then
      if c.waiterRoom p.addr then
        c.onHomes fun h => { h with waiters := h.waiters ++ [.remote (wordKey p.addr) p.src p.tag k p.addr size d1] }
      else answer c 0 (atomicReply 0 1)
    else
      let r := c.homes.perform k p.addr size d1 d2
      let c := { c with homes := r.homes }
      let c := if k.isFullEmpty then c.serve cycle p.addr else c
      answer c (if r.bad then 9 else 0) (atomicReply r.reply 0)

/-! ## Answers -/

/-- The trap cause that an error of a packet names (R354). -/
def errCause (err : Nat) : Nat := if err = 3 ∨ err = 4 then err else 0x49

/-- An answer matched with its request, which is then closed; one that no request awaits is dropped. -/
def Chip.answered (c : Chip) (p : Packet) (f : Chip → RemoteReq → Chip) : Chip :=
  match look c.requests p.tag with
  | none => c
  | some r => f { c with requests := del c.requests p.tag } r

/-- READ_DATA (R354): a drover's read is answered, or an engine's line has come. -/
def execReadData (link : BitVec 5) (s : State) : Host.Outcome State Fault Refusal :=
  s.packetStep link 2 fun c _ p => c.answered p fun c r =>
    match r with
    | .access u q _ =>
      if p.err ≠ 0 then c.failAccessAs u q (errCause p.err)
      else c.onDrover u fun d => match d.acc? q with
        | none => d
        | some a => d.answer u q (a.kind.extend a.size (natOfBytes p.data)) none none c.homes.seen
    | .line key _ =>
      if look c.far key ≠ some (.asked p.tag) then c
      else
        { c with far := put c.far key (if p.err ≠ 0 then .failed (errCause p.err)
            else .line (BitVec.ofNat 512 (natOfBytes (p.data.take 64))) (BitVec.ofNat 8 (byteAt p.data 64))) }
    | _ => c

/-- The LAUNCH entry of a continuation atomic whose word lies in a module with no part of the expedition (R138). -/
def Chip.launchLost (c : Chip) (u : Nat) (d : Drover) (a : Access) (old : Nat) : Chip :=
  c.logFault d.die d.exp
    { cause := 0x0C, orphan := !d.steward && c.orphaned u, fatal := false, taskid := ((c.task? u).map (·.taskid)).getD 0,
      addr := BitVec.ofNat 64 a.va, val := BitVec.ofNat 64 old, extra := BitVec.ofNat 64 (a.tmpl % 1024 * 2 ^ 22 + a.tag % 2 ^ 22) }

/-- ATOMIC_RESULT (R354): the issuer's register, its posted write, or a watch; with no record free at the home the wait goes to a
steward of the issuer (R143). -/
def execAtomicResult (link : BitVec 5) (s : State) : Host.Outcome State Fault Refusal :=
  s.packetStep link 4 fun c cycle p => c.answered p fun c r =>
    let v := BitVec.ofNat 64 (field p.data 0 8)
    let noRecord := byteAt p.data 8 == 1
    let k := c.homes.seen
    match r with
    | .access u q _ =>
      if p.err ≠ 0 then c.failAccessAs u q (errCause p.err)
      else
        match c.drover? u with
        | none => c
        | some d =>
          match d.acc? q with
          | none => c
          | some a =>
            if noRecord then c.exhausted u d a
            else if a.kind.isRead then
              let c := if byteAt p.data 8 = 2 then c.launchLost u d a (field p.data 9 8) else c
              c.setDrover u (d.answer u q v (if a.kind == .amocDecz && v == 3 then some (underflow a) else none) none k)
            else c.setDrover u (d.writtenDrop u q k)
    | .watch cv i _ =>
      if 32 ≤ i then c.probeAnswered cv (i - 32) (if p.err ≠ 0 then 2 else 1 - v)
      else if p.err ≠ 0 ∨ noRecord then c.watchRefused cv i
      else c.watchDone cycle cv i k
    | _ => c

/-- WRITE_DONE (R367): the writes of a packet are performed at `.sy`. -/
def execWriteDone (link : BitVec 5) (s : State) : Host.Outcome State Fault Refusal :=
  s.packetStep link 5 fun c _ p => c.answered p fun c r =>
    match r with
    | .access u q _ => if p.err ≠ 0 then c.failAccessAs u q (errCause p.err) else c.onDrover u fun d => d.written u q c.homes.seen
    | .porter u i _ => c.porterAnswered u i p.tag (p.err != 0)
    | .copy u ch id _ => c.copyAnswered u ch id p.tag (p.err != 0)
    | _ => c

/-! ## Migration between modules (R293) -/

/-- The modules of every expedition's set. -/
def Chip.modules (c : Chip) : List Nat := c.sched.exps.flatMap fun p => p.2.modules

/-- The die with the most free serais, and how many. -/
def Chip.roomiest (c : Chip) : Nat × Nat :=
  (List.range 8).foldl (fun (m : Nat × Nat) k => if m.2 < (c.freeSerais k).length then (k, (c.freeSerais k).length) else m)
    (0, (c.freeSerais 0).length)

/-- MODULE_ADVERTISE (R293): the room of the roomiest die sent to a module of some expedition's set, every 65,536 cycles. -/
def execModuleAdvertise (dev : BitVec 9) (s : State) : Host.Outcome State Fault Refusal :=
  s.eventStep fun c cycle =>
    let dev := dev.toNat
    if !c.modules.contains dev || dev == c.mgmt.devid.toNat || (look c.sched.advertSent dev).any (fun t => decide (cycle < t + 65536)) then c
    else
      (c.onSched fun s => { s with advertSent := put s.advertSent dev cycle }).send
        { ptype := 10, err := 0, dst := dev, src := c.mgmt.devid.toNat, tag := 0, addr := 0, data := leBytes c.roomiest.2 2 ++ leBytes c.largestDie 2 }

/-- ADVERTISEMENT_PACKET (R293): the room of the sender's roomiest die, and the working serais of its largest (R291, log 71). -/
def execAdvertisementPacket (link : BitVec 5) (s : State) : Host.Outcome State Fault Refusal :=
  s.packetStep link 10 fun c _ p => c.onSched fun s =>
    { s with modAdverts := put s.modAdverts p.src (field p.data 0 2), modWorking := put s.modWorking p.src (field p.data 2 2) }

/-- Payload of a migration packet (log 37): 0 an entry, 1 taken, 2 returned; the sender's name for the entry and, of an entry,
expedition, template, size, priority, pinned flag, readiness time, TASKID of member 0, hint, near slice, the three arguments, and for each
member its save slot and 1 more, or 0 for a member that was never dispatched. -/
def migrationBytes (cv : Nat) (v : Caravan) (taskid : Nat) (args : List Word) (slots : List Nat) : List Byte :=
  leBytes 0 4 ++ leBytes cv 4 ++ leBytes v.exp 2 ++ leBytes v.tmpl 2 ++ leBytes v.members.length 1 ++ leBytes v.prio 1 ++
    leBytes (b2n v.pinned) 2 ++ leBytes v.ready 8 ++ leBytes taskid 4 ++ leBytes v.hint 2 ++
    leBytes ((v.near.map (· + 1)).getD 0) 2 ++ ((List.range 3).flatMap fun i => leBytes ((args[i]?).getD 0).toNat 8) ++
    slots.flatMap fun k => leBytes k 4

/-- Whether a saved serai's engines hold nothing that the image's bytes do not say (R336, log 8). -/
def Serai.bare (v : Serai) : Bool :=
  let r := Serai.reset
  v.porters == r.porters && v.copy == r.copy && v.ctxs == r.ctxs && v.pages == r.pages && v.banks == r.banks

/-- Whether a drover out of its serai holds nothing that the image's bytes do not say. -/
def Drover.bare (d : Drover) : Bool :=
  let r := Drover.fresh false none
  d.board == r.board && d.queues == r.queues && d.mem.accs == [] && d.members == [] && d.async == [] && d.trap.isNone && !d.held

/-- Entries that a module sends, as R293 lets it: of living members in no group, never dispatched, or saved in full with nothing that the
image's bytes do not say (log 8). -/
def Chip.mayTravel (c : Chip) (v : Caravan) : Bool :=
  v.members.all fun u => (c.task? u).any fun t => t.alive && (t.groups.all fun g => g.isNone) &&
    ((t.slot.isNone && v.dispatchedAt == 0) ||
      (t.slot.isSome && t.full && (lookD c.sched.images u Serai.reset).bare && (c.drover? u).any Drover.bare))

/-- The save slots of a caravan's members, as a migration packet names them. -/
def Chip.slotsOf (c : Chip) (v : Caravan) : List Nat :=
  v.members.map fun u => (((c.task? u).bind (·.slot)).map (· + 1)).getD 0

/-- MODULE_MIGRATION (R293): the entry that no die of the module has had room for goes to a module of its expedition's set whose
advertisement it fits. -/
def execModuleMigration (die : BitVec 3) (dev : BitVec 9) (s : State) : Host.Outcome State Fault Refusal :=
  s.eventStep fun c cycle =>
    let dev := dev.toNat
    match c.modulePick cycle die.toNat with
    | none => c
    | some (cv, v) =>
      if c.mayTravel v && ((c.exp? v.exp).any fun x => x.modules.contains dev) && dev != c.mgmt.devid.toNat && (c.linkTo dev).isSome &&
          decide (v.members.length ≤ lookD c.sched.modAdverts dev 0) then
        let args := ((v.members.head?.bind fun u => c.task? u).map (·.args)).getD []
        ((c.onCaravan cv fun v => { v with place := .migrating die.toNat (8 + dev) }).onBazaar die.toNat fun b => { b with migrating := true }).send
          { ptype := 9, err := 0, dst := dev, src := c.mgmt.devid.toNat, tag := 0, addr := 0, data := migrationBytes cv v (c.firstTaskid v) args (c.slotsOf v) }
      else c

/-- The answer to a migrated entry. -/
def Chip.answerMigration (c : Chip) (p : Packet) (code : Nat) : Chip :=
  c.send { ptype := 9, err := 0, dst := p.src, src := c.mgmt.devid.toNat, tag := 0, addr := 0, data := leBytes code 4 ++ slice p.data 4 4 }

/-- The members of an entry that has come with images: each has its slot in the expedition's chrysalis area. -/
def Chip.giveSlots (c : Chip) (ms : List Nat) (data : List Byte) : Chip :=
  ms.zipIdx.foldl (fun c p =>
    let k := field data (56 + 4 * p.2) 4
    if k = 0 then c else c.onTask p.1 fun t => { t with slot := some (k - 1), full := true }) c

/-- An entry that has come from another module: queued on the roomiest die, or returned when its expedition is not here or nothing has
room (R292, R293). It remembers where it came from, and knows every access of this module's watched pages (log 94). -/
def Chip.takeMigrated (c : Chip) (cycle : Nat) (p : Packet) : Chip :=
  let e := field p.data 8 2
  let die := c.roomiest.1
  match (c.exp? e).bind fun x => (look x.templates (field p.data 10 2)).map fun t => (x, t) with
  | none => c.answerMigration p 2
  | some (x, t) =>
    if !c.takesEntry die e || x.ending then c.answerMigration p 2
    else
      let id := field p.data 24 4
      let near := field p.data 30 2
      let l : Launching :=
        { exp := e, tmpl := field p.data 10 2, tem := { t with size := byteAt p.data 12, pinned := byteAt p.data 14 == 1 }, prio := byteAt p.data 13,
          args := (List.range 3).map fun i => BitVec.ofNat 64 (field p.data (32 + 8 * i) 8), groups := [], hint := field p.data 28 2,
          near := if near = 0 then none else some (near - 1), clk := c.homes.seen }
      let next := x.nextTask
      let (c, cv, _) := (c.onExp e fun x => { x with nextTask := id }).newCaravan cycle l [] .gone
      let ms := ((c.caravan? cv).map (·.members)).getD []
      let c := (c.giveSlots ms p.data).onCaravan cv fun v => { v with origin := some (p.src, field p.data 4 4) }
      let n := ((c.sched.bazaars[die]?).map (·.arrivals)).getD 0
      let c := (c.onExp e fun x => { x with nextTask := max next x.nextTask }).onBazaar die fun b => { b with arrivals := n + 1 }
      (c.enqueue cv die (field p.data 16 8) (arbiterOrder 3 n)).answerMigration p 1

/-- MIGRATION_PACKET (R292, R293): an entry that comes, or the answer to one that was sent. -/
def execMigrationPacket (link : BitVec 5) (s : State) : Host.Outcome State Fault Refusal :=
  s.packetStep link 9 fun c cycle p =>
    let cv := field p.data 4 4
    match field p.data 0 4 with
    | 0 => c.takeMigrated cycle p
    | code =>
      match c.caravan? cv with
      | none => if code = 1 then c.tellFate p.src 22 cv else c
      | some v =>
        match v.place with
        | .migrating die dst =>
          if dst < 8 then c
          else
            (c.onCaravan cv fun v => { v with place := if code = 1 then .module (dst - 8) else .queue die }).onBazaar die fun b =>
              { b with migrating := false, reserving := if code = 1 ∧ b.reserving = some cv then none else b.reserving }
        | .gone => if code = 1 then c.tellFate p.src 22 cv else c
        | _ => c

end Sys2Proof.Machine
end

