-- ==== Sys2Proof/Machine/Host.lean ====
section
/-!
DEFINITION. The host port (R356 to R360): ingress ports, LAUNCH and the loader, FEED, Function Level Reset; the end of an expedition
(R279, R358); the management registers (R365) and attestation (R363, R364).
-/

namespace Sys2Proof.Machine

/-! ## Host memory, ports, vectors -/

/-- Where host bus address 0 stands in the physical map (R253). -/
def hostBase : Nat := 0xC0000000000

/-- Bytes of host memory that the map reaches. -/
def hostBytes : Nat := 2 ^ 42

/-- Bytes read from host memory; past its end zero (log 9). -/
def Chip.hostRead (c : Chip) (a n : Nat) : List Byte := c.homes.bytesLong (hostBase + a % hostBytes) n

/-- Bytes written to host memory; what the map does not reach is not written (log 9). -/
def Chip.hostWrite (c : Chip) (a : Nat) (bs : List Byte) : Chip :=
  if a + bs.length ≤ hostBytes then c.onHomes fun h => h.writeLong (hostBase + a) (bs.length / 4096 + 2) bs else c

/-- An MSI-X vector signalled (R356). -/
def Chip.signal (c : Chip) (i : Nat) : Chip := c.onMgmt fun m => { m with vectors := m.vectors ||| BitVec.ofNat 65 (2 ^ i) }

/-- An ingress port. -/
def Chip.port (c : Chip) (i : Nat) : Port := (c.ports[i]?).getD Port.reset

/-- The chip with a port changed. -/
def Chip.onPort (c : Chip) (i : Nat) (f : Port → Port) : Chip :=
  match c.ports[i]? with
  | none => c
  | some p => { c with ports := c.ports.setIfInBounds i (f p) }

/-- The token that 64 bytes of a FIFO write give (R357). -/
def tokenOfBytes (b : List Byte) : Token :=
  { kind := BitVec.ofNat 3 (byteAt b 36), level := BitVec.ofNat 4 (byteAt b 37), mask := BitVec.ofNat 32 (field b 32 4),
    payload := BitVec.ofNat 256 (field b 0 32) }

/-- FIFO_WRITE (R357): one whole aligned 64-byte write is one token; a full FIFO drops it and sets OVERRUN, a write of another form or a
reserved kind is dropped and sets BADTOKEN. -/
def execFifoWrite (port : BitVec 6) (off : Nat) (data : List (BitVec 8)) (s : State) : Host.Outcome State Fault Refusal :=
  s.eventStep fun c _ =>
    if 0x800 ≤ off then c
    else
      c.onPort port.toNat fun p =>
        let bad := data.length != 64 || off % 64 != 0 || decide (4 < byteAt data 36 % 8)
        let full := decide (256 ≤ p.fifo.length)
        if bad || full then { p with badtoken := p.badtoken || bad, overrun := p.overrun || full }
        else { p with fifo := p.fifo ++ [tokenOfBytes data] }

/-- PCTL_WRITE (R357): the mode and the FEED target; the error bits of PSTAT are cleared. -/
def execPctlWrite (port : BitVec 6) (v : BitVec 64) (s : State) : Host.Outcome State Fault Refusal :=
  s.eventStep fun c _ =>
    let n := v.toNat
    c.onPort port.toNat fun p =>
      { p with mode := bitOf n 63, portal := bitsOf n 56 3, pageid := bitsOf n 48 8, expid := bitsOf n 32 16, taskid := bitsOf n 0 32,
               overrun := false, badtoken := false, notarget := false }

/-- What stands at the head of a port in LAUNCH mode (R358). -/
inductive PortHead where
  /-- No whole stream yet. -/
  | none
  /-- Tokens of no stream: the port without them, with BADTOKEN. -/
  | bad (p : Port)
  /-- A stream: its DATA token, and the port without it. -/
  | stream (t : Token) (p : Port)
  deriving DecidableEq, Repr

/-- The stream at the head of a port: a DATA token and MARK 15; any other token drops the stream and sets BADTOKEN (R358). -/
def Port.launchStream (p : Port) : PortHead :=
  match p.fifo with
  | [] => .none
  | t :: rest =>
    if t.kind ≠ 0 then .bad { p with fifo := rest, badtoken := true }
    else
      match rest with
      | [] => .none
      | m :: rest => if m.isEot then .stream t { p with fifo := rest } else .bad { p with fifo := rest, badtoken := true }

/-- FEED (R360): the oldest token enters the named input portal when its FIFO has room; NOTARGET when the task does not hold the page;
with the task ended the port's tokens are discarded. -/
def execFeed (port : BitVec 6) (s : State) : Host.Outcome State Fault Refusal :=
  s.eventStep fun c cycle =>
    let p := c.port port.toNat
    match p.mode, p.fifo with
    | true, t :: rest =>
      match (c.taskKey? p.expid p.taskid).bind fun u => (c.task? u).map fun x => (u, x) with
      | none => c.onPort port.toNat fun p => { p with notarget := true }
      | some (u, x) =>
        if !x.alive then c.onPort port.toNat fun p => { p with fifo := [] }
        else
          let pages : SMap Page := match c.seraiOf u with
            | some n => (c.serai n).pages
            | none => ((look c.sched.images u).map (·.pages)).getD []
          if ((look pages p.pageid).any fun g => portalUse ((g.portals[p.portal]?).getD 0) == some false) = false then
            c.onPort port.toNat fun p => { p with notarget := true }
          else
            match c.accept cycle (.portal u p.pageid p.portal) t with
            | some c => c.onPort port.toNat fun p => { p with fifo := rest }
            | none => c
    | _, _ => c

/-! ## Expedition images (R359) -/

/-- A section of an image: virtual address, its bytes, and the attributes R, W, X and tagged that its pages need (R319). -/
structure Section where
  va : Nat
  bytes : List Byte
  canW : Bool
  canX : Bool
  tagged : Bool
  deriving DecidableEq, Repr

/-- The sections of an image. -/
def imageSections (b : List Byte) : List Section :=
  [{ va := field b 8 8, bytes := slice b (field b 32 8) (field b 40 8), canW := false, canX := true, tagged := false },
   { va := field b 80 8, bytes := slice b (field b 48 8) (field b 56 8), canW := true, canX := false, tagged := true },
   { va := field b 88 8, bytes := slice b (field b 64 8) (field b 72 8), canW := true, canX := false, tagged := false }]

/-- Entry i of an image's template table. -/
def templateEntry (b : List Byte) (i : Nat) : List Byte := slice b (field b 24 8 + 16 * i) 16

/-- The template of an entry. -/
def templateOf (e : List Byte) : Template :=
  { entry := BitVec.ofNat 64 (field e 0 8), prio := byteAt e 8 % 8, size := byteAt e 9 % 16 + 1, pinned := bitOf (byteAt e 10) 0 }

/-- Whether two ranges, offset and size, share a byte. -/
def rangesMeet (a b : Nat × Nat) : Bool := decide (0 < a.2 ∧ 0 < b.2 ∧ a.1 < b.1 + b.2 ∧ b.1 < a.1 + a.2)

/-- A number rounded up to a multiple. -/
def roundUp (v n : Nat) : Nat := (v + n - 1) / n * n

/-- A limit of the watchdog: 0, or within its range (R331). -/
def limitOk (v : Nat) : Bool := v == 0 || decide (2 ^ 12 ≤ v ∧ v ≤ 2 ^ 40)

/-- Whether the loader accepts an image (R359; log 10). -/
def imageGood (b : List Byte) : Bool :=
  let f := field b
  let nt := f 18 2
  let ranges := [(f 24 8, 16 * nt), (f 32 8, f 40 8), (f 48 8, f 56 8), (f 64 8, f 72 8)]
  f 0 4 == 0x50445845 && f 4 2 == 1 && zeroBytes b 6 2 && zeroBytes b 20 4 && zeroBytes b 108 4 && zeroBytes b 136 116 &&
    f 128 8 == b.length && decide (256 ≤ b.length) && (f 252 4 == 0 || f 252 4 == crc32c (b.take 252 ++ leBytes 0 4 ++ b.drop 256)) &&
    f 8 8 % 4096 == 0 && f 24 8 % 64 == 0 && decide (1 ≤ nt ∧ nt ≤ 1024 ∧ f 16 2 < nt) &&
    (ranges.all fun r => decide (r.1 + r.2 ≤ b.length)) &&
    (ranges.zipIdx.all fun x => ranges.zipIdx.all fun y => decide (y.2 ≤ x.2) || !rangesMeet x.1 y.1) &&
    f 80 8 == roundUp (f 8 8 + f 40 8) 8 && f 88 8 == roundUp (f 80 8 + f 56 8) 64 &&
    decide (256 ≤ f 96 4 ∧ f 96 4 ≤ 2 ^ 20 ∧ 1 ≤ f 100 4 ∧ f 100 4 ≤ 4096 ∧ 16 ≤ f 104 4) && limitOk (f 112 8) && limitOk (f 120 8) &&
    (List.range nt).all (fun i =>
      let e := templateEntry b i
      decide (byteAt e 8 < 8 ∧ byteAt e 9 < 16 ∧ byteAt e 10 < 2) && zeroBytes e 11 5) &&
    field (templateEntry b (f 16 2)) 0 8 != 0

/-! ## Loading (R245, R279, R319) -/

/-- The pages that n bytes from a virtual address touch. -/
def touchedPages (va n : Nat) : List Nat := if n = 0 then [] else (List.range ((va % 4096 + n + 4095) / 4096)).map fun i => va / 4096 + i

/-- The frame of a virtual page. -/
def planFrame (p : LoadPlan) (vpn : Nat) : Option Nat := (p.frames.find? fun f => f.1 == vpn).map fun f => f.2

/-- The table of a level that serves a virtual address. -/
def planTable (p : LoadPlan) (level va : Nat) : Option Nat :=
  let above := if level = 2 then va / 2 ^ 45 else if level = 3 then va / 2 ^ 30 else va / 2 ^ 21
  (p.tables.find? fun t => t.1 == level && t.2.1 == above).map fun t => t.2.2

/-- The two words of a leaf of 4 KiB and format RAW that tasks may read (R50, R249, R319). -/
def leafWords (pfn : Nat) (w x tagged : Bool) : Nat × Nat :=
  let tier := match regionOf (pfn * 4096) with
    | .lpddr => 2 ^ 36
    | .hbmD => 2 ^ 37
    | _ => 0
  (1 + 2 + 4 + 8 * b2n w + 16 * b2n x + 32 + pfn * 4096, 0x3F * 2 ^ 42 + b2n tagged * 2 ^ 39 + tier)

/-- Homes with a table entry written. -/
def Homes.putEntry (h : Homes) (a : Nat) (e : Nat × Nat) : Homes := (h.writeNum a 8 e.1).writeNum (a + 8) 8 e.2

/-- Homes with the pointers and the leaf of a page written; none when the plan has no frame or table for it. -/
def planMapPage (p : LoadPlan) (h : Homes) (vpn : Nat) (w x tagged : Bool) : Option Homes :=
  let va := vpn * 4096
  match planFrame p vpn, planTable p 2 va, planTable p 3 va, planTable p 4 va with
  | some pfn, some t2, some t3, some t4 =>
    let root := p.ptroot.toNat * 4096
    some ((((h.putEntry (root + 16 * vaIndex va 1) (t2 + 1, 0)).putEntry (t2 + 16 * vaIndex va 2) (t3 + 1, 0)).putEntry
      (t3 + 16 * vaIndex va 3) (t4 + 1, 0)).putEntry (t4 + 16 * vaIndex va 4) (leafWords pfn w x tagged))
  | _, _, _, _ => none

/-- Homes with bytes written at a virtual address through the plan's frames. -/
def planStore (p : LoadPlan) (h : Homes) (va : Nat) : Nat → List Byte → Homes
  | 0, _ => h
  | fuel + 1, bs =>
    if bs = [] then h
    else
      let n := 4096 - va % 4096
      let pa := (planFrame p (va / 4096)).getD 0 * 4096 + va % 4096
      planStore p ((h.write pa (bs.take n)).clearBad pa (min n bs.length)) (va + n) fuel (bs.drop n)

/-- Homes in which no word of a page is full. -/
def Homes.emptyPage (h : Homes) (pfn : Nat) : Homes :=
  { h with tags := h.tags.filter fun k => canon (pfn * 4096) / 4096 != k / 512,
           badTags := h.badTags.filter fun k => canon (pfn * 4096) / 4096 != k / 512 }

/-- Whether the steward's choices hold together: frames and tables in module memory, each used once, tables aligned (R248; log 10). -/
def planSound (p : LoadPlan) : Bool :=
  p.ptroot.toNat % 16 == 0 && servesRemote (p.ptroot.toNat * 4096) && decide ((p.frames.map fun f => f.1).Nodup) &&
    decide ((p.frames.map fun f => f.2).Nodup) && decide ((p.tables.map fun t => t.2.2).Nodup) &&
    (p.frames.all fun f => servesRemote (f.2 * 4096)) &&
    (p.tables.all fun t => servesRemote t.2.2 && t.2.2 % tableAlign t.1 == 0 && decide (2 ≤ t.1 ∧ t.1 ≤ 4)) &&
    servesRemote p.flog && p.spill % 64 == 0 && p.flog % 64 == 0 && p.chrysalis % 4096 == 0

/-- Bytes of a chrysalis area: the slot table, and slots each 64 KiB aligned (R335). -/
def chrysalisBytes (chrysalis slots : Nat) : Nat := slotAddr chrysalis slots - chrysalis

/-- The whole pages that n bytes from an address touch, as a range. -/
def pageRange (va n : Nat) : Nat × Nat := (va / 4096 * 4096, roundUp (va % 4096 + n) 4096)

/-- The chrysalis area and the spill area of an image, as ranges (R279, R335, R359). -/
def planAreas (p : LoadPlan) (b : List Byte) : List (Nat × Nat) :=
  [(p.chrysalis, chrysalisBytes p.chrysalis (field b 100 4)), pageRange p.spill (64 * field b 96 4)]

/-- Whether the sections and the two areas of an image share no page. -/
def planApart (p : LoadPlan) (b : List Byte) : Bool :=
  let areas := planAreas p b
  let secs := ((imageSections b).filter fun x => x.bytes.length != 0).map fun x => pageRange x.va x.bytes.length
  (secs.all fun r => areas.all fun a => !rangesMeet r a) && match areas with
    | [a, s] => !rangesMeet a s
    | _ => false

/-- Homes with an image's pages mapped and its bytes stored: every page with the union of what its sections need, and with empty tags where
it is tagged or holds several sections (R319); of the chrysalis area the slot table, and of both areas the pages for which the plan has
frames. None when a page has no frame or table, or the areas are not apart. -/
def planPlace (p : LoadPlan) (h : Homes) (b : List Byte) : Option Homes :=
  let secs := imageSections b
  let vpns := (secs.flatMap fun x => touchedPages x.va x.bytes.length).eraseDups
  let framesIn := fun (r : Nat × Nat) => p.frames.filter fun f => decide (r.1 ≤ f.1 * 4096 ∧ f.1 * 4096 < r.1 + r.2)
  let areas := (planAreas p b).zipIdx.flatMap fun r => (framesIn r.1).map fun f => (f.1, r.2 == 0)
  let own := vpns.foldl (fun (h : Option Homes) v => h.bind fun h =>
    let on := secs.filter fun x => (touchedPages x.va x.bytes.length).contains v
    let tagged := on.any (·.tagged)
    (planMapPage p h v (on.any (·.canW)) (on.any (·.canX)) tagged).map fun h => if tagged || decide (2 ≤ on.length) then h.emptyPage ((planFrame p v).getD 0) else h) (some h)
  let all := areas.foldl (fun (h : Option Homes) f => h.bind fun h => planMapPage p h f.1 true false f.2) own
  if (planFrame p (p.chrysalis / 4096)).isNone || !planApart p b then none
  else
    all.map fun h =>
      planStore p (secs.foldl (fun h x => planStore p h x.va (x.bytes.length / 4096 + 2) x.bytes) h) p.chrysalis 2
        (List.replicate 4096 0)

/-- The expedition of an image (R279, R359). -/
def planExpedition (p : LoadPlan) (b : List Byte) (port : Nat) (key : Word) : Expedition :=
  let orDefault := fun (v d : Nat) => if v = 0 then d else v
  { templates := ((List.range (field b 18 2)).map fun i => (i, templateOf (templateEntry b i))).filter fun t => t.2.entry != 0,
    groups := [], home := p.slice.toNat, modules := p.modules.map (·.toNat), ptroot := p.ptroot, spillAddr := p.spill,
    spillCap := field b 96 4, spill := [], spillOpen := true, spillNoted := [], chrysalis := p.chrysalis, slots := field b 100 4,
    flog := p.flog, flogCap := field b 104 4, ageLim := orDefault (field b 112 8) (2 ^ 24), waitLim := orDefault (field b 120 8) (2 ^ 30),
    nextTask := 1, port := some port, key := key, ending := false }

/-- The completion record of a launch, and its vector (R358). -/
def Chip.completion (c : Chip) (port : Nat) (key : Word) (expid status entries : Nat) : Chip :=
  (c.hostWrite (c.port port).comp.toNat
    (leBytes key.toNat 8 ++ leBytes expid 2 ++ leBytes status 1 ++ leBytes 0 1 ++ leBytes entries 4 ++ leBytes 0 48)).signal port

/-- A digest as 32 bytes. -/
def digest (b : List Byte) : List Byte := (Config.shake256 b ++ List.replicate 32 0).take 32

/-- An image's digest noted at its first load: each distinct image once, 1,024 at most (R364). -/
def Mgmt.noteImage (m : Mgmt) (b : List Byte) : Mgmt :=
  let d := digest b
  if m.imgdigs.contains d then m
  else if m.imgdigs.length < 1024 then { m with imgdigs := m.imgdigs ++ [d] }
  else { m with imgTrunc := true }

/-- The first entry of a fault log: its header (R330). -/
def Homes.openLog (h : Homes) (flog cap : Nat) : Homes := h.write flog (leBytes 0 8 ++ leBytes 0 8 ++ leBytes cap 8 ++ leBytes 0 40)

/-- An expedition started: its start template's caravan enters the start die's queue as a SPAWN, with x1 the argument, x2 the port
(R279, R358). -/
def Chip.startExpedition (c : Chip) (cycle port : Nat) (p : LoadPlan) (b : List Byte) (key arg : Word) (homes : Homes) : Chip :=
  let e := p.expid.toNat
  let x := planExpedition p b port key
  let start := field b 16 2
  let tem := templateOf (templateEntry b start)
  let c := { c with homes := homes.openLog x.flog x.flogCap }
  let c := c.onSched fun s => { s with exps := put s.exps e x }
  let c := c.onMgmt fun m => { m with launched := true }
  let (c, cv, _) := c.newCaravan cycle
    { exp := e, tmpl := start, tem := tem, prio := tem.prio, args := [arg, BitVec.ofNat 64 port, 0], groups := [], hint := 0, near := none, clk := [] }
    [] .gone
  c.enqueue cv (x.home / 64) cycle (arbiterOrder 2 0)

/-- LAUNCH_STREAM (R358, R359): a DATA token and MARK 15; the image is taken as it is loaded, or read from the host, checked and loaded as
the steward has planned (log 10). Any other token drops the stream; a refused image completes with status 2. -/
def execLaunchStream (port : BitVec 6) (plan : LoadPlan) (s : State) : Host.Outcome State Fault Refusal :=
  s.eventStep fun c cycle =>
    let i := port.toNat
    let p := c.port i
    if p.mode || c.mgmt.bootst != 1 then c
    else
      match p.launchStream with
      | .none => c
      | .bad p => c.onPort i fun _ => p
      | .stream t p =>
        let w := t.payload.toNat
        let key := BitVec.ofNat 64 w
        let arg := BitVec.ofNat 64 (w / 2 ^ 192)
        let known := look c.images key.toNat
        let b := known.getD (c.hostRead (bitsOf w 64 64) (bitsOf w 128 64))
        if known.isNone && !imageGood b then (c.onPort i fun _ => p).completion i key 0 2 0
        else if !planSound plan || (c.exp? plan.expid.toNat).isSome then c
        else
          match planPlace plan c.homes b with
          | none => c
          | some h =>
            let c : Chip := if known.isSome then c
              else { c with images := put c.images key.toNat b }.onMgmt fun g => g.noteImage b
            (c.onPort i fun _ => p).startExpedition cycle i plan b key arg h

/-! ## The end of an expedition (R279, R358) -/

/-- The tasks of an expedition, those among them that have gone to another module and have not ended there (R279). -/
def Chip.tasksOf (c : Chip) (e : Nat) : List (Nat × Task) := c.sched.tasks.filter fun p => p.2.exp == e

/-- Whether an expedition's last task has ended, no launch of it remains, and every write of it has been performed. -/
def Chip.mayEnd (c : Chip) (e : Nat) (x : Expedition) : Bool :=
  ((c.tasksOf e).all fun p => !p.2.alive) && x.spill == [] && (c.homes.relay.all fun l => l.2.exp != e) &&
    (c.drovers.all fun p => p.2.steward || p.2.exp != e || (p.2.mem.accs == [] && p.2.core.all fun n => (c.serai n).drained))

/-- Whether an expedition fails: an entry of its log carries ORPHAN or FATAL, or one was lost (R330). -/
def Homes.logFails (h : Homes) (flog : Nat) : Bool :=
  h.num (flog + 8) 8 != 0 || (List.range (h.num flog 8)).any fun i => h.byte (flog + 64 * (i + 1) + 1) % 4 != 0

/-- The engine of experts without what an expedition's tasks own. -/
def Xde.without (x : Xde) (own : Nat → Bool) : Xde :=
  let rounds := x.rounds.filter fun r => r.2.closed || !own r.2.owner
  { x with rounds := rounds, opens := x.opens.filter fun o => !own o.u,
           lists := x.lists.filter fun l => rounds.any fun r => r.1 == l.mb && !r.2.closed,
           sessions := x.sessions.filter fun s => !own s.owner, work := x.work.filter fun w => !own w.owner }

/-- The walkers without what they hold for an expedition, whose id another may take (log 10). -/
def Walkers.without (w : Walkers) (e : Nat) : Walkers :=
  { leaves := w.leaves.map fun (p : Nat × List Leaf) => (p.1, p.2.filter fun l => l.expid != e),
    walks := w.walks.filter fun x => x.tag != e, failed := w.failed.filter fun p => p.2.1 != e }

/-- EXPEDITION_END (R279, R358): what the module keeps of the expedition is given up, the completion record is written behind every
write of it, and the port's vector is signalled. -/
def execExpeditionEnd (e : Nat) (s : State) : Host.Outcome State Fault Refusal :=
  s.eventStep fun c _ =>
    match c.exp? e with
    | none => c
    | some x =>
      if !c.mayEnd e x then c
      else
        let own := fun (u : Nat) => (c.task? u).any fun t => t.exp == e
        let status := b2n (c.homes.logFails x.flog)
        let entries := c.homes.num x.flog 8
        let c := c.onXde fun x => x.without own
        let c := { c with drovers := c.drovers.filter (fun p => p.2.steward || p.2.exp != e), walkers := c.walkers.without e }
        let c := c.onSched fun s =>
          { s with exps := del s.exps e, tasks := s.tasks.filter fun p => p.2.exp != e, caravans := s.caravans.filter fun p => p.2.exp != e,
                   lastExp := s.lastExp.filter fun p => p.2 != e }
        match x.port with
        | none => c
        | some i => c.completion i x.key e status entries

/-- FUNCTION_LEVEL_RESET (R360): every expedition launched through the port is killed, every FIFO is empty, every PCTL is 0. -/
def execFunctionLevelReset (s : State) : Host.Outcome State Fault Refusal :=
  s.eventStep fun c _ =>
    let launched := fun (e : Nat) => (c.exp? e).any fun x => x.port.isSome
    let cvs := (c.sched.caravans.filter fun p => launched p.2.exp && p.2.place != .gone).map fun p => p.1
    let c := c.onSched fun s => { s with exps := s.exps.map fun p => if p.2.port.isSome then (p.1, { p.2 with ending := true }) else p }
    let c := cvs.foldl (fun c cv => c.killCaravan cv) c
    { c with ports := c.ports.map fun (p : Port) => { p with fifo := [], mode := false, portal := 0, pageid := 0, expid := 0, taskid := 0 } }

/-! ## Management registers (R357, R365) -/

/-- ROUTING_TABLE_WRITE (R357). -/
def execRoutingTableWrite (dev : BitVec 9) (v : BitVec 8) (s : State) : Host.Outcome State Fault Refusal :=
  s.eventStep fun c _ =>
    let l := v.toNat % 32
    { c with routes := if 18 ≤ l then del c.routes dev.toNat else put c.routes dev.toNat l }

/-- DEVID_WRITE (R365): ignored once any expedition has launched. -/
def execDevidWrite (v : BitVec 64) (s : State) : Host.Outcome State Fault Refusal :=
  s.eventStep fun c _ => c.onMgmt fun m => if m.launched then m else { m with devid := v.setWidth 9 }

/-- POWLIM_WRITE (R365). -/
def execPowlimWrite (v : BitVec 64) (s : State) : Host.Outcome State Fault Refusal :=
  s.eventStep fun c _ => c.onMgmt fun m => { m with powlim := BitVec.ofNat 11 (min 1900 (max 400 (v.toNat % 2048))) }

/-- THERM_CLEAR (R365): bits written as 1 are cleared; the clocks that a trip has stopped stay stopped (R366). -/
def execThermClear (v : BitVec 64) (s : State) : Host.Outcome State Fault Refusal :=
  s.eventStep fun c _ => c.onMgmt fun m =>
    { m with throttle := m.throttle && !v.getLsbD 0, trip := m.trip && !v.getLsbD 1 }

/-- HOST_REGISTER_WRITE (R357): the BAR0 registers with no behaviour of their own are the ports' PCOMP, whose low 6 bits are zero; a write
to any other offset changes nothing. -/
def execHostRegisterWrite (off : Nat) (v : BitVec 64) (s : State) : Host.Outcome State Fault Refusal :=
  s.eventStep fun c _ =>
    if off % 0x1000 = 0x810 ∧ off / 0x1000 < 64 then
      c.onPort (off / 0x1000) fun p => { p with comp := BitVec.ofNat 64 (v.toNat / 64 * 64) }
    else c

/-- Attestation indexes left (R365). -/
def Mgmt.indexesLeft (m : Mgmt) : Nat := 2 ^ 20 - m.otCounter

/-- The body of a report (R364). -/
def Mgmt.report (m : Mgmt) (nonce : List Byte) : List Byte :=
  let left := m.indexesLeft != 0
  nonce ++ (m.fwdig ++ List.replicate 32 0).take 32 ++ leBytes (if left then m.otCounter else 0xFFFFFFFF) 4 ++
    leBytes (m.imgdigs.length + b2n m.imgTrunc * 2 ^ 31) 4 ++ leBytes (80 + 32 * m.imgdigs.length) 4 ++ leBytes (if left then 2820 else 0) 4 ++
    m.imgdigs.flatten

/-- ATTREQ (R363): the counter is committed first, the body and its signature are written behind the request, vector 64 is signalled. -/
def execAttreq (addr : BitVec 64) (s : State) : Host.Outcome State Fault Refusal :=
  s.eventStep fun c _ =>
    let a := addr.toNat / 64 * 64
    let m := c.mgmt
    let body := m.report (c.hostRead a 32)
    let sig := if m.indexesLeft = 0 then [] else (List.finRange 2820).map fun i => Config.xmssSign m.otCounter body i
    ((c.onMgmt fun m => { m with otCounter := min (m.otCounter + 1) (2 ^ 20) }).hostWrite (a + 64) (body ++ sig)).signal 64

/-- HEALTH (R365). DESIGN CHOICE (log 85): the eight-bit count of fenced serais counts modulo 256. -/
def Health.word (h : Health) : Nat :=
  b2n h.replace * 2 ^ 63 + h.spares.toList.sum % 256 * 2 ^ 40 + h.fenced.length % 256 * 2 ^ 32 + h.waysOff.length % 65536 * 2 ^ 16 +
    h.lanesRemoved % 65536

/-- What a host read of a BAR0 register answers (R357, R365); none for an offset that names no readable register. -/
def Chip.barRead (c : Chip) (cycle off : Nat) : Option Word :=
  let m := c.mgmt
  if off < 0x40000 then
    let p := c.port (off / 0x1000)
    match off % 0x1000 with
    | 0x800 => some (BitVec.ofNat 64 (b2n p.mode * 2 ^ 63 + p.portal * 2 ^ 56 + p.pageid * 2 ^ 48 + p.expid * 2 ^ 32 + p.taskid))
    | 0x808 => some (BitVec.ofNat 64 (256 - p.fifo.length + b2n p.overrun * 2 ^ 16 + b2n p.badtoken * 2 ^ 17 + b2n p.notarget * 2 ^ 18))
    | 0x810 => some p.comp
    | _ => none
  else if 0x101000 ≤ off ∧ off < 0x101200 then some (BitVec.ofNat 64 (lookD c.routes (off - 0x101000) 31))
  else
    match off with
    | 0x100000 => some (m.devid.setWidth 64)
    | 0x100008 => some (BitVec.ofNat 64 c.health.word)
    | 0x100010 => some m.ecccnt
    | 0x100018 => some m.uecnt
    | 0x100020 => some m.linkerr
    | 0x100028 => some (BitVec.ofNat 64 (c.links.toList.zipIdx.foldl (fun v k =>
        v + (if !k.1.up then 0 else if k.1.width = 4 then 1 else if k.1.width = 8 then 2 else 3) * 4 ^ k.2) 0))
    | 0x100030 => some ((Config.sensorPower cycle).setWidth 32 |>.setWidth 64)
    | 0x100038 => some (m.powlim.setWidth 64)
    | 0x100040 => some m.govcnt
    | 0x100048 => some ((Config.sensorTemp cycle).setWidth 16 |>.setWidth 64)
    | 0x100050 => some (BitVec.ofNat 64 (b2n m.throttle + 2 * b2n m.trip))
    | 0x100060 => some (BitVec.ofNat 64 (m.bootst + m.fwver * 2 ^ 16 + m.indexesLeft * 2 ^ 32))
    | _ => none

end Sys2Proof.Machine
end

