-- ==== Sys2Proof/Machine/Health.lean ====
section
/-!
DEFINITION. Boot and RECOVERY (R361, R362), module reset, the firing governor and the thermal limits (R366), errors and self-tests
(R344 to R348).
-/

namespace Sys2Proof.Machine

/-! ## Firmware (R361, R362) -/

/-- Bytes of a firmware image before its body. -/
def firmwareHead : Nat := 3136

/-- The first check of an image's head: magic, format, reserved bytes, and the ranges of its fields. -/
def firmwareForm (h : List Byte) : Bool :=
  field h 0 4 == 0x574D5246 && field h 4 2 == 1 && zeroBytes h 32 16 && zeroBytes h 116 140 && zeroBytes h 3076 60 &&
    decide (1 ≤ field h 24 8 ∧ field h 24 8 ≤ 60 * 2 ^ 20) && field h 8 8 % 4096 == 0 &&
    decide (regionOf (field h 8 8) = .lpddr ∧ regionOf (field h 8 8 + field h 24 8 - 1) = .lpddr) &&
    decide (field h 8 8 ≤ field h 16 8 ∧ field h 16 8 < field h 8 8 + field h 24 8)

/-- The checks of the boot ROM in their order: form, digest of the public key, signature, version. -/
def Mgmt.accepts (m : Mgmt) (h body : List Byte) : Bool :=
  firmwareForm h && digest (slice h 48 68) == m.fuseDigest && Config.xmssVerify (slice h 48 68) (h.take 256 ++ body) (slice h 256 2820) &&
    decide (m.rollback ≤ field h 6 2)

/-- A steward core released at an address (R361; log 11). -/
def Drover.released? (d : Drover) (entry : Word) : Drover := { d with run := .running, regs := { d.regs with pc := entry } }

/-- Firmware started: the body at its load address, the anti-rollback counter raised, steward 0 at the entry, then the other stewards
(log 11). -/
def Chip.startFirmware (c : Chip) (h body : List Byte) : Chip :=
  let entry := BitVec.ofNat 64 (field h 16 8)
  let load := field h 8 8
  let c := c.onHomes fun m =>
    let m := m.writeLong load (body.length / 4096 + 2) body
    { m with bad := m.bad.filter fun k => !decide (load ≤ 8 * k ∧ 8 * k + 8 ≤ load + body.length) }
  let c := c.onMgmt fun m =>
    { m with bootst := 1, fwver := field h 6 2, rollback := field h 6 2, fwdig := digest (h.take 256 ++ body) }
  { c with drovers := c.drovers.map fun p => if p.2.steward then (p.1, p.2.released? entry) else p }

/-- BOOT (R361): the flash image is verified and started; a failed check enters RECOVERY. -/
def execBoot (s : State) : Host.Outcome State Fault Refusal :=
  s.eventStep fun c _ =>
    if c.mgmt.bootst ≠ 0 then c
    else
      let read := fun (o n : Nat) => (List.range n).map fun i => lookD c.mgmt.flash (o + i) 0
      let h := read 0 firmwareHead
      if !firmwareForm h then c.onMgmt fun m => { m with bootst := 2 }
      else
        let body := read firmwareHead (field h 24 8)
        if c.mgmt.accepts h body then c.startFirmware h body else c.onMgmt fun m => { m with bootst := 2 }

/-- RECOVERY_IMAGE (R361): in RECOVERY port 0 takes a LAUNCH stream whose image is a firmware image, which is verified in the same way; any
other token drops the stream (R358). -/
def execRecoveryImage (image : List (BitVec 8)) (s : State) : Host.Outcome State Fault Refusal :=
  s.eventStep fun c _ =>
    let p := c.port 0
    if c.mgmt.bootst ≠ 2 ∨ p.mode then c
    else
      match p.launchStream with
      | .none => c
      | .bad p => c.onPort 0 fun _ => p
      | .stream t p =>
        let w := t.payload.toNat
        if image ≠ c.hostRead (bitsOf w 64 64) (bitsOf w 128 64) then c
        else
          let c := c.onPort 0 fun _ => p
          let h := image.take firmwareHead
          let body := slice image firmwareHead (field h 24 8)
          if body.length = field h 24 8 && c.mgmt.accepts h body then c.startFirmware h body else c

/-- MODULE_RESET (R365): everything at its reset value; flash, fuses, the two counters, and the units found lasting bad stay (log 1). -/
def execModuleReset (s : State) : Host.Outcome State Fault Refusal :=
  .next { s with chip := { Chip.afterReset s.chip.mgmt { s.chip.health with lanesRemoved := 0, testing := [] } with free := s.chip.free },
                 cycle := 0, focus := 0 }

/-! ## Governor and temperature (R366) -/

/-- Cells whose steps the governor may withhold: CIM, DOT and arithmetic cells (R196). -/
def CellOp.governed : CellOp → Bool
  | .cim => true
  | .dot => true
  | .add => true
  | .sub => true
  | .mul => true
  | .fma => true
  | .neg => true
  | .abs => true
  | .min => true
  | .max => true
  | .cmpeq => true
  | .cmplt => true
  | .cmple => true
  | .recip => true
  | .rsqrt => true
  | .exp2 => true
  | .log2 => true
  | _ => false

/-- GOVERNOR_WINDOW (R366): the governor withholds the step that a cell has due in this cycle. GOVHOLD counts the cycle once for the
serai, GOVCNT each cell (R11; log 20). -/
def execGovernorWindow (n : BitVec 12) (q : BitVec 2) (i : BitVec 6) (s : State) : Host.Outcome State Fault Refusal :=
  s.pageStep n q fun c cycle u _ g =>
    let k := (n.toNat, q.toNat, i.toNat)
    let gov := c.govAt cycle
    if g.next i.toNat = .none ∨ !(g.word i.toNat).op.governed ∨ gov.held.contains k then c
    else
      let first := !(gov.held.any fun h => h.1 == n.toNat)
      let c := { c with gov := { gov with held := gov.held ++ [k] } }.onMgmt fun m => { m with govcnt := m.govcnt + 1 }
      if first then c.onDrover u fun d => { d with ctl := { d.ctl with govhold := d.ctl.govhold + 1 } } else c

/-- THROTTLE (R366): a junction at 105 °C. -/
def execThrottle (die : BitVec 3) (s : State) : Host.Outcome State Fault Refusal :=
  s.eventStep fun c _ => c.onMgmt fun m => { m with throttle := true, throttled := m.throttled ||| BitVec.ofNat 8 (2 ^ die.toNat) }

/-- THROTTLE_RELEASE (R366): the junction has fallen to 100 °C. -/
def execThrottleRelease (die : BitVec 3) (s : State) : Host.Outcome State Fault Refusal :=
  s.eventStep fun c _ => c.onMgmt fun m => { m with throttled := m.throttled &&& ~~~BitVec.ofNat 8 (2 ^ die.toNat) }

/-- TRIP (R366): at 115 °C every die stops its clocks and vector 64 is signalled. -/
def execTrip (s : State) : Host.Outcome State Fault Refusal :=
  s.eventStep fun c _ => (c.onMgmt fun m => { m with trip := true, stopped := true }).signal 64

/-! ## Errors (R344, R345) -/

/-- The die whose arbiter numbers an event of a unit (R348). -/
def unitDie : TestUnit → Nat
  | .serai n => n.toNat / 512
  | .sliceWay s _ => s.toNat / 64
  | .remoteWay d _ => d.toNat
  | .lane l _ => linkDie l.toNat
  | .dramRow pa => sliceOf pa / 64

/-- A unit that is to be self-tested (R346). -/
def Chip.toTest (c : Chip) (t : TestUnit) : Chip :=
  if c.health.testing.contains t then c else { c with health := { c.health with testing := c.health.testing ++ [t] } }

/-- An uncorrectable error in a serai's control state (R345): FATAL in the log, and the caravan is killed. -/
def Chip.controlError (c : Chip) (n : Nat) : Chip :=
  match c.holderOf n with
  | none => c
  | some (u, d) =>
    let taskid := ((c.task? u).map (·.taskid)).getD 0
    let c := c.logFault (n / 512) d.exp { cause := 0xF0, orphan := false, fatal := true, taskid := taskid, addr := 0, val := 0, extra := 0 }
    match c.task? u with
    | none => c
    | some t => c.killCaravan t.caravan

/-- Whether a physical address holds data that ECC covers at a home: module memory or a cell bank. -/
def holdsData (pa : Nat) : Bool :=
  servesRemote pa || match regionOf pa with
    | .serai _ off => match windowOf off with
      | .bank _ _ => true
      | _ => false
    | _ => false

/-- ECC_ERROR (R344 to R346): a corrected error is counted; an uncorrectable word or tag is marked at its home; one in control state
kills. The unit is then to be self-tested. -/
def execEccError (site : EccSite) (s : State) : Host.Outcome State Fault Refusal :=
  s.eventStep fun c _ =>
    match site with
    | .corrected t => ((c.onMgmt fun m => { m with ecccnt := m.ecccnt + 1 }).numbered (unitDie t)).toTest t
    | .word pa t =>
      if holdsData pa then
        (((c.onMgmt fun m => { m with uecnt := m.uecnt + 1 }).onHomes fun h => h.setBad pa true).numbered (unitDie t)).toTest t
      else c
    | .tag pa t =>
      if holdsData pa then
        (((c.onMgmt fun m => { m with uecnt := m.uecnt + 1 }).onHomes fun h => h.setBadTag pa).numbered (unitDie t)).toTest t
      else c
    | .control n =>
      (((c.onMgmt fun m => { m with uecnt := m.uecnt + 1 }).numbered (n.toNat / 512)).controlError n.toNat).toTest (.serai n)

/-! ## Self-test (R346, R347) -/

/-- A number put into a list once. -/
def addOnce {α : Type} [DecidableEq α] (l : List α) (a : α) : List α := if l.contains a then l else l ++ [a]

/-- A serai that failed (R347): its number passes to a spare of its die, or is withdrawn and REPLACE is set. -/
def Chip.fenced (c : Chip) (n : Nat) : Chip :=
  let h := c.health
  let left := (h.spares[n / 512]?).getD 0
  if left = 0 then
    { c with health := { h with fenced := h.fenced ++ [n], replace := true, withdrawn := insertNat h.withdrawn n } }.numbered (n / 512)
  else
    let c := { c with health := { h with fenced := h.fenced ++ [n], spares := h.spares.setIfInBounds (n / 512) (left - 1) } }
    (((c.setSerai n Serai.reset).onHomes fun h => h.clearBanks n).onSched fun s => { s with lastExp := del s.lastExp n }).numbered (n / 512)

/-- Whether a unit's self-test may run: a serai's once it is free and holds no banks for an image (log 12). -/
def Chip.testRuns (c : Chip) (t : TestUnit) : Bool :=
  c.health.testing.contains t && match t with
    | .serai n => (look c.sched.heldBanks n.toNat).isNone &&
        { c with health := { c.health with testing := c.health.testing.filter fun x => x != t } }.seraiFree n.toNat
    | _ => true

/-- What a failed self-test does to a unit. -/
def Chip.testFailed (c : Chip) (t : TestUnit) : Chip :=
  let h := c.health
  match t with
  | .serai n => c.fenced n.toNat
  | .sliceWay s w => { c with health := { h with waysOff := addOnce h.waysOff (s.toNat, w.toNat) } }
  | .remoteWay d w => { c with health := { h with remoteOff := addOnce h.remoteOff (d.toNat, w) } }
  | .lane l k =>
    let c := c.removeLanes l.toNat (~~~BitVec.ofNat 16 (2 ^ k.toNat))
    if (c.links[l.toNat]?).any fun x => x.up && x.width == 0 then c.linkDown l.toNat else c
  | .dramRow pa => { c with health := { h with rows := addOnce h.rows pa } }

/-- SELF_TEST (R346, R347): the unit returns, or is fenced, disabled, removed or replaced; a remote-cache way's lines are dropped first. -/
def execSelfTest (site : TestUnit) (pass : Bool) (s : State) : Host.Outcome State Fault Refusal :=
  s.eventStep fun c _ =>
    if !c.testRuns site then c
    else
      let c := { c with health := { c.health with testing := c.health.testing.filter fun x => x != site } }.numbered (unitDie site)
      let c := match site with
        | .remoteWay d _ => c.onHomes fun h => { h with rcache := h.rcache.filter fun p => p.1 % 8 != d.toNat }
        | _ => c
      if pass then c else c.testFailed site

end Sys2Proof.Machine
end

