-- ==== Sys2Proof/Machine/Watch.lean ====
section
/-!
DEFINITION. The watchdog (R331 to R334): the edges that carry counters, what freezes one, the counters as cycles pass and as tokens
move, and AGE and WAITLONG.
-/

namespace Sys2Proof.Machine

/-! ## Edges (R331, R334) -/

/-- The number of an edge within a serai: kind, local cell, portal, direction, page, and the entry of a skid buffer or of the wave-order
unit; 1 more for a router's output register. The page's quarter is not part of it, since a token that stands stays the same while the
pager moves its page. -/
def edgeKey (kind i portal dir pg entry : Nat) : Nat :=
  kind * 2 ^ 60 + i * 2 ^ 40 + portal * 2 ^ 35 + dir * 2 ^ 32 + pg * 2 ^ 24 + 2 * entry

/-- Kind of an edge (R334). -/
def edgeKind (k : Nat) : Nat := k / 2 ^ 60

/-- Entry of an edge: of a skid buffer, or among the operations of one cell that wait in the wave-order unit. -/
def edgeEntry (k : Nat) : Nat := bitsOf k 1 23

/-- Local cell of an edge. -/
def edgeCell (k : Nat) : Nat := bitsOf k 40 8

/-- Pageid of an edge. -/
def edgePage (k : Nat) : Nat := bitsOf k 24 8

/-- The edge word of R334. -/
def edgeWord (n q k : Nat) : Word :=
  BitVec.ofNat 64 (bitsOf k 60 4 * 2 ^ 60 + n % 4096 * 2 ^ 48 + wingCell q (edgeCell k) % 256 * 2 ^ 40 + q % 4 * 2 ^ 38 + bitsOf k 32 6 * 2 ^ 32 +
    edgePage k * 2 ^ 24)

/-- Heads that stand at a cell's inputs when an ACC firing waits on its tags (R214). -/
def Page.accWaits (g : Page) (i : Nat) : List Token :=
  if (g.word i).op = .acc then
    match g.next i with
    | .data heads => heads
    | _ => []
  else []

/-- The tokens that stand where an edge is, head first. -/
def Page.edge (g : Page) (k : Nat) : List Token :=
  let i := edgeCell k
  match edgeKind k with
  | 0 => (lookD g.fifos (bitsOf k 35 3) []).map fun t => t.tok
  | 1 => (lookD g.hops (4 * i + bitsOf k 32 3) []).map fun t => t.tok
  | 2 => if k % 2 = 1 then (g.routerAt i).out.toList else (g.cellAt i).out.toList
  | 3 => g.accWaits i
  | _ => (g.waves.filter fun w => w.cell == i).map fun w => w.q

/-- The edges of a page at which a token stands (R331): the head of each portal, every entry of a hop's skid buffer, each output register,
the firings that wait on tags, and every operation that waits in the wave-order unit. -/
def Page.edges (g : Page) (pg : Nat) : List Nat :=
  let heads := fun (k : Nat) => if g.edge k = [] then [] else [k]
  let entries := fun (k : Nat) => (List.range (g.edge k).length).map fun j => k + 2 * j
  (List.range 8).flatMap (fun p => heads (edgeKey 0 (portalCell ((g.portals[p]?).getD 0) % 64) p 0 pg 0)) ++
    (List.range 64).flatMap fun i =>
      ((List.range 4).flatMap fun d => entries (edgeKey 1 i 0 d pg 0)) ++ heads (edgeKey 2 i 0 0 pg 0) ++
        heads (edgeKey 2 i 0 0 pg 0 + 1) ++ heads (edgeKey 3 i 0 0 pg 0) ++ entries (edgeKey 4 i 0 0 pg 0)

/-- The tokens at an edge of a serai. -/
def Serai.edge (v : Serai) (k : Nat) : List Token :=
  match look v.pages (edgePage k) with
  | none => []
  | some g => g.edge k

/-- Whether the token at an edge still stands: what stood there is a beginning of what stands there now. -/
def stillStands (old new : List Token) : Bool := old != [] && old.isPrefixOf new

/-- Where a counter goes on: at its edge while its token stands; with its operation, when the one before it has left the wave-order unit;
nowhere when its token has moved. -/
def edgeAfter (old new : List Token) (k : Nat) : Option Nat :=
  if stillStands old new then some k
  else if edgeKind k = 4 ∧ 0 < edgeEntry k ∧ old.drop 1 = new then some (k - 2)
  else none

/-- Counters of tokens that have moved restart: they are dropped, and begin again at 0 (R331). -/
def Chip.settleAges (c old : Chip) : Chip :=
  { c with serais := c.serais.map fun p =>
      (p.1, { p.2 with ages := p.2.ages.filterMap fun a =>
        (edgeAfter ((old.serai p.1).edge a.1) (p.2.edge a.1) a.1).map fun k => (k, a.2) }) }

/-! ## Freezing (R332) -/

/-- A unit of a caravan: an endpoint, a page named by its portal 0. -/
def Ep.unit : Ep → Ep
  | .portal u pg _ => .portal u pg 0
  | e => e

/-- What feeds a unit through one binding, attachment or copy. -/
def Chip.feeders (c : Chip) (e : Ep) : List Ep :=
  let bound := (c.binds.filter fun b => b.2.unit == e).map fun b => b.1.unit
  match e with
  | .context u g =>
    let v := match c.seraiOf u with
      | some n => c.serai n
      | none => Serai.reset
    bound ++ (v.ctx g).porter.toList.map fun p => .porter u p
  | .copy u ch id =>
    let v := match c.seraiOf u with
      | some n => c.serai n
      | none => Serai.reset
    bound ++ (((v.copy.ch[ch]?).getD []).filter fun j => j.id == id).flatMap fun j => j.src.toList.map Ep.unit
  | _ => bound

/-- A unit and everything that feeds it, through as many steps as there are bindings. -/
def Chip.fedBy (c : Chip) : Nat → List Ep → List Ep
  | 0, l => l
  | n + 1, l =>
    let more := (l.flatMap fun e => c.feeders e).filter fun e => !l.contains e
    if more = [] then l else c.fedBy n (l ++ more.eraseDups)

/-- Whether an agent awaits a line of another module. -/
def Chip.awaitsFar (c : Chip) (agent : Nat) : Bool :=
  c.far.any fun p => p.1 / 2 ^ 50 == agent && match p.2 with
    | .asked _ => true
    | _ => false

/-- Whether a walk that reads lacks its side list, or the chunk that its next element needs: that access, with its translation, is then
outstanding until its step (log 87). -/
def Walk.reading (w : Walk) (d : Desc) : Bool :=
  !w.offsRead || (Walk.lacks d 4096 0 (w.begin d).1).isSome || (!w.done && !(w.begin d).1.closing && ((w.begin d).1.here d).isNone)

/-- Whether a porter's read is outstanding. -/
def Porter.waitsRead (q : Porter) (d : Drover) : Bool :=
  !q.dir && q.cond == 1 && !q.eotDone && q.more == [] && decide (q.buf.length < 16) && d.cleared q.after && q.walk.reading (descOf q.desc)

/-- Whether a copy's read is outstanding. -/
def CopyJob.waitsRead (j : CopyJob) (d : Drover) : Bool :=
  j.srcMem && !j.eotDone && decide (j.buf.length < 16) && d.cleared j.after && j.walk.reading (descOf j.desc)

/-- Whether an access to banks whose turn has come waits in the wave-order unit of a page. -/
def Page.waitsBank (g : Page) : Bool := g.waves.any fun w => g.waveNext (g.word w.cell)

/-- Whether a unit of a serai has a memory access, a translation walk or a link transaction outstanding (R332). -/
def Serai.outstanding (v : Serai) (d : Drover) (e : Ep) : Bool :=
  match e with
  | .porter _ p => (v.porter p).packets != [] || (v.porter p).waitsRead d
  | .context _ g => ((v.ctx g).due 2).isSome
  | .copy _ ch id => (v.copy.jobs ch).any fun j => j.id == id && (j.packets != [] || j.waitsRead d)
  | .portal _ pg _ => (look v.pages pg).any Page.waitsBank
  | _ => false

/-- The agent of a unit's memory accesses. -/
def Ep.agent : Ep → Option Nat
  | .porter u p => some (blockAgent u + 8 + p)
  | .context u g => some (blockAgent u + 32 + g)
  | .copy u ch _ => some (blockAgent u + 16 + ch)
  | _ => none

/-- The task whose unit an endpoint is. -/
def Ep.owner : Ep → Option Nat
  | .porter u _ => some u
  | .portal u _ _ => some u
  | .mailbox u => some u
  | .context u _ => some u
  | .copy u _ _ => some u
  | .port _ => none

/-- Whether a unit has a memory access, a translation walk or a link transaction outstanding (R332). -/
def Chip.outstanding (c : Chip) (e : Ep) : Bool :=
  e.agent.any c.awaitsFar || e.owner.any fun u =>
    match c.seraiOf u, c.drover? u with
    | some n, some d => (c.serai n).outstanding d e
    | _, _ => false

/-- The unit that consumes what stands at an edge: the sink bound to an output portal, else the page itself. -/
def Chip.consumer (c : Chip) (u k : Nat) (g : Page) : Ep :=
  let pg := edgePage k
  let p := bitsOf k 35 3
  if edgeKind k = 0 ∧ portalUse ((g.portals[p]?).getD 0) = some true then
    match c.sinkOf (.portal u pg p) with
    | some e => e.unit
    | none => .portal u pg 0
  else .portal u pg 0

/-- What a cycle does to a counter: it counts, it freezes, or it freezes with its wait counter counting (R332, R333). -/
inductive Ageing where
  /-- It counts. -/
  | counts
  /-- It neither counts nor restarts. -/
  | frozen
  /-- It is frozen, and its wait counter counts. -/
  | waits
  deriving DecidableEq, Repr

/-- How the counter of an edge stands. -/
def Chip.ageing (c : Chip) (u k : Nat) (v : Serai) (g : Page) : Ageing :=
  let e := c.consumer u k g
  if (c.fedBy (c.binds.length + 1) [e]).any fun x => c.outstanding x then .waits
  else if (v.pager.quarter.isSome && v.pager.quarter == g.quarter) || v.pager.candidate == some (edgePage k) then .frozen
  else
    match e with
    | .mailbox m => if (c.drover? m).any fun d => d.held then .frozen else .counts
    | _ => .counts

/-- A counter after n cycles. -/
def Age.after (a : Age) (n : Nat) : Ageing → Age
  | .counts => { a with age := a.age + n }
  | .frozen => a
  | .waits => { a with wait := a.wait + n }

/-- Whether the consumer at an edge is a cell whose step the governor withholds in a cycle (R332, R366). -/
def Chip.withheld (c : Chip) (cycle sn k : Nat) (g : Page) : Bool :=
  (c.govAt cycle).held.any fun h => h.1 == sn && some h.2.1 == g.quarter && (g.word h.2.2).live.any fun p =>
    match edgeKind k with
    | 0 => p.2 == 8 + bitsOf k 35 3
    | 1 => readHop h.2.2 p.2 == some (hopKey (edgeCell k) (bitsOf k 32 3))
    | 3 => h.2.2 == edgeCell k
    | _ => false

/-- A serai's counters after n cycles, of which the first began at `cycle`: one for each edge at which a token stands. -/
def Chip.agesOf (c : Chip) (cycle sn u n : Nat) (v : Serai) : SMap Age :=
  v.pages.foldl (fun m p => (p.2.edges p.1).foldl (fun m k =>
    let n := if c.withheld cycle sn k p.2 then n - 1 else n
    put m k ((lookD v.ages k { age := 0, wait := 0 }).after n (c.ageing u k v p.2))) m) []

/-- The counters as n cycles pass; those of a gated serai, and of one that no task holds, are frozen. -/
def Chip.ageTick (c : Chip) (cycle n : Nat) : Chip :=
  { c with serais := c.serais.map fun p =>
      match c.engineAt p.1 with
      | some (u, _, v) => (p.1, { v with ages := c.agesOf cycle p.1 u n v })
      | none => p }

/-! ## AGE and WAITLONG (R331, R333) -/

/-- A counter past its limit raises its cause for the serai's task and restarts. -/
def State.ageTrap (s : State) (n : BitVec 12) (k cause : Nat) (count : Age → Nat) (lim : Expedition → Nat) (clear : Age → Age) :
    Host.Outcome State Fault Refusal :=
  s.engineStep n fun c _ u d v =>
    match look v.ages k, c.exp? d.exp, look v.pages (edgePage k) with
    | some a, some x, some g =>
      if count a ≤ lim x then c
      else
        (c.setSerai n.toNat { v with ages := put v.ages k (clear a) }).raiseAsync u
          (trapWords cause 0 (edgeWord n.toNat (g.quarter.getD 0) k) (BitVec.ofNat 64 a.age) 0)
    | _, _, _ => c

/-- AGE (R331): an age counter past AGELIM. -/
def execAge (n : BitVec 12) (edge : Nat) (s : State) : Host.Outcome State Fault Refusal :=
  s.ageTrap n edge 0x09 (fun a => a.age) (fun x => x.ageLim) fun a => { a with age := 0 }

/-- WAITLONG (R333): a wait counter past WAITLIM. -/
def execWaitlong (n : BitVec 12) (edge : Nat) (s : State) : Host.Outcome State Fault Refusal :=
  s.ageTrap n edge 0x0A (fun a => a.wait) (fun x => x.waitLim) fun a => { a with wait := 0 }

/-! ## Cycles -/

/-- The map writes of a cycle hold back only what their drover issues in it (R10). -/
def Chip.tickMaps (c : Chip) : Chip :=
  if c.drovers.any fun p => p.2.mapNow != 0 then { c with drovers := c.drovers.map fun p => (p.1, { p.2 with mapNow := 0 }) } else c

/-- What passing n cycles does beside the cycle counter: inbox maps, entries passed over, resident-deadlock counts and age counters. -/
def Chip.ticked (c : Chip) (cycle n : Nat) : Chip := ((c.tickMaps.tickPassed).tickDeadlock cycle).ageTick cycle n

end Sys2Proof.Machine
end

