-- ==== Sys2Proof/Machine/Dispatch.lean ====
section
/-!
DEFINITION. The one dispatch of instructions and events to their meanings, an arm per row of the table.
-/

namespace Sys2Proof.Machine

def exec (i : Instr) (s : State) : Host.Outcome State Fault Refusal :=
  match i with
  | .ill x => Sys2Proof.Machine.execIll x s
  | .add d a b w => Sys2Proof.Machine.execAdd d a b w s
  | .sub d a b w => Sys2Proof.Machine.execSub d a b w s
  | .and d a b => Sys2Proof.Machine.execAnd d a b s
  | .or d a b => Sys2Proof.Machine.execOr d a b s
  | .xor d a b => Sys2Proof.Machine.execXor d a b s
  | .andn d a b => Sys2Proof.Machine.execAndn d a b s
  | .shl d a b w => Sys2Proof.Machine.execShl d a b w s
  | .shr d a b w => Sys2Proof.Machine.execShr d a b w s
  | .sar d a b w => Sys2Proof.Machine.execSar d a b w s
  | .rol d a b w => Sys2Proof.Machine.execRol d a b w s
  | .mul d a b w => Sys2Proof.Machine.execMul d a b w s
  | .mulh d a b => Sys2Proof.Machine.execMulh d a b s
  | .mulhu d a b => Sys2Proof.Machine.execMulhu d a b s
  | .div d a b w => Sys2Proof.Machine.execDiv d a b w s
  | .divu d a b w => Sys2Proof.Machine.execDivu d a b w s
  | .rem d a b w => Sys2Proof.Machine.execRem d a b w s
  | .remu d a b w => Sys2Proof.Machine.execRemu d a b w s
  | .min d a b w => Sys2Proof.Machine.execMin d a b w s
  | .max d a b w => Sys2Proof.Machine.execMax d a b w s
  | .minu d a b w => Sys2Proof.Machine.execMinu d a b w s
  | .maxu d a b w => Sys2Proof.Machine.execMaxu d a b w s
  | .clz d a w => Sys2Proof.Machine.execClz d a w s
  | .ctz d a w => Sys2Proof.Machine.execCtz d a w s
  | .popc d a w => Sys2Proof.Machine.execPopc d a w s
  | .sextb d a => Sys2Proof.Machine.execSextb d a s
  | .sexth d a => Sys2Proof.Machine.execSexth d a s
  | .sextw d a => Sys2Proof.Machine.execSextw d a s
  | .bswap d a => Sys2Proof.Machine.execBswap d a s
  | .addi d a im => Sys2Proof.Machine.execAddi d a im s
  | .andi d a im => Sys2Proof.Machine.execAndi d a im s
  | .ori d a im => Sys2Proof.Machine.execOri d a im s
  | .xori d a im => Sys2Proof.Machine.execXori d a im s
  | .shli d a w n => Sys2Proof.Machine.execShli d a w n s
  | .shri d a w n => Sys2Proof.Machine.execShri d a w n s
  | .sari d a w n => Sys2Proof.Machine.execSari d a w n s
  | .lui d im => Sys2Proof.Machine.execLui d im s
  | .ceq p a b w => Sys2Proof.Machine.execCeq p a b w s
  | .cne p a b w => Sys2Proof.Machine.execCne p a b w s
  | .clt p a b w => Sys2Proof.Machine.execClt p a b w s
  | .cltu p a b w => Sys2Proof.Machine.execCltu p a b w s
  | .cle p a b w => Sys2Proof.Machine.execCle p a b w s
  | .cleu p a b w => Sys2Proof.Machine.execCleu p a b w s
  | .cmpiEq p a im => Sys2Proof.Machine.execCmpiEq p a im s
  | .cmpiLt p a im => Sys2Proof.Machine.execCmpiLt p a im s
  | .cmpiLtu p a im => Sys2Proof.Machine.execCmpiLtu p a im s
  | .cmpiLe p a im => Sys2Proof.Machine.execCmpiLe p a im s
  | .pand d a b => Sys2Proof.Machine.execPand d a b s
  | .por d a b => Sys2Proof.Machine.execPor d a b s
  | .pxor d a b => Sys2Proof.Machine.execPxor d a b s
  | .pandn d a b => Sys2Proof.Machine.execPandn d a b s
  | .pnot d a => Sys2Proof.Machine.execPnot d a s
  | .pset d a => Sys2Proof.Machine.execPset d a s
  | .pget d a => Sys2Proof.Machine.execPget d a s
  | .sel d a b c => Sys2Proof.Machine.execSel d a b c s
  | .fadd d a b p r => Sys2Proof.Machine.execFadd d a b p r s
  | .fsub d a b p r => Sys2Proof.Machine.execFsub d a b p r s
  | .fmul d a b p r => Sys2Proof.Machine.execFmul d a b p r s
  | .fdiv d a b p r => Sys2Proof.Machine.execFdiv d a b p r s
  | .fsqrt d a p r => Sys2Proof.Machine.execFsqrt d a p r s
  | .fmin d a b p => Sys2Proof.Machine.execFmin d a b p s
  | .fmax d a b p => Sys2Proof.Machine.execFmax d a b p s
  | .fma d a b p r => Sys2Proof.Machine.execFma d a b p r s
  | .fcvtif d a w u p r => Sys2Proof.Machine.execFcvtif d a w u p r s
  | .fcvtfi d a w u p r => Sys2Proof.Machine.execFcvtfi d a w u p r s
  | .fcvtff d a p r => Sys2Proof.Machine.execFcvtff d a p r s
  | .fceq d a b p => Sys2Proof.Machine.execFceq d a b p s
  | .fclt d a b p => Sys2Proof.Machine.execFclt d a b p s
  | .fcle d a b p => Sys2Proof.Machine.execFcle d a b p s
  | .fclass d a p => Sys2Proof.Machine.execFclass d a p s
  | .ld d a z o f => Sys2Proof.Machine.execLd d a z o f s
  | .ldu d a z o f => Sys2Proof.Machine.execLdu d a z o f s
  | .st d a z o f => Sys2Proof.Machine.execSt d a z o f s
  | .ldf d a z f => Sys2Proof.Machine.execLdf d a z f s
  | .ldfe d a z f => Sys2Proof.Machine.execLdfe d a z f s
  | .stef d a z f => Sys2Proof.Machine.execStef d a z f s
  | .stf d a z f => Sys2Proof.Machine.execStf d a z f s
  | .sete a z f => Sys2Proof.Machine.execSete a z f s
  | .prefR a f => Sys2Proof.Machine.execPrefR a f s
  | .prefW a f => Sys2Proof.Machine.execPrefW a f s
  | .dld d a b sc o => Sys2Proof.Machine.execDld d a b sc o s
  | .dst d a b sc o => Sys2Proof.Machine.execDst d a b sc o s
  | .br n k f => Sys2Proof.Machine.execBr n k f s
  | .call n k f => Sys2Proof.Machine.execCall n k f s
  | .jr a => Sys2Proof.Machine.execJr a s
  | .jalr d a => Sys2Proof.Machine.execJalr d a s
  | .nop => Sys2Proof.Machine.execNop s
  | .trap a => Sys2Proof.Machine.execTrap a s
  | .eret => Sys2Proof.Machine.execEret s
  | .fence sc o => Sys2Proof.Machine.execFence sc o s
  | .sleep => Sys2Proof.Machine.execSleep s
  | .brk => Sys2Proof.Machine.execBrk s
  | .iflush => Sys2Proof.Machine.execIflush s
  | .halt => Sys2Proof.Machine.execHalt s
  | .mfc d n => Sys2Proof.Machine.execMfc d n s
  | .mtc a n => Sys2Proof.Machine.execMtc a n s
  | .amoSwap d a b sc o => Sys2Proof.Machine.execAmoSwap d a b sc o s
  | .amoAdd d a b sc o => Sys2Proof.Machine.execAmoAdd d a b sc o s
  | .amoAnd d a b sc o => Sys2Proof.Machine.execAmoAnd d a b sc o s
  | .amoOr d a b sc o => Sys2Proof.Machine.execAmoOr d a b sc o s
  | .amoXor d a b sc o => Sys2Proof.Machine.execAmoXor d a b sc o s
  | .amoMin d a b sc o => Sys2Proof.Machine.execAmoMin d a b sc o s
  | .amoMax d a b sc o => Sys2Proof.Machine.execAmoMax d a b sc o s
  | .amoMinu d a b sc o => Sys2Proof.Machine.execAmoMinu d a b sc o s
  | .amoMaxu d a b sc o => Sys2Proof.Machine.execAmoMaxu d a b sc o s
  | .amoFadd d a b sc o => Sys2Proof.Machine.execAmoFadd d a b sc o s
  | .amoCas d a b sc o => Sys2Proof.Machine.execAmoCas d a b sc o s
  | .redAdd w a b sc o => Sys2Proof.Machine.execRedAdd w a b sc o s
  | .redAnd w a b sc o => Sys2Proof.Machine.execRedAnd w a b sc o s
  | .redOr w a b sc o => Sys2Proof.Machine.execRedOr w a b sc o s
  | .redXor w a b sc o => Sys2Proof.Machine.execRedXor w a b sc o s
  | .redMin w a b sc o => Sys2Proof.Machine.execRedMin w a b sc o s
  | .redMax w a b sc o => Sys2Proof.Machine.execRedMax w a b sc o s
  | .redMinu w a b sc o => Sys2Proof.Machine.execRedMinu w a b sc o s
  | .redMaxu w a b sc o => Sys2Proof.Machine.execRedMaxu w a b sc o s
  | .redFadd w a b sc o => Sys2Proof.Machine.execRedFadd w a b sc o s
  | .redFmin w a b sc o => Sys2Proof.Machine.execRedFmin w a b sc o s
  | .redFmax w a b sc o => Sys2Proof.Machine.execRedFmax w a b sc o s
  | .garrive d a sc o => Sys2Proof.Machine.execGarrive d a sc o s
  | .gwait d a sc o => Sys2Proof.Machine.execGwait d a sc o s
  | .gbar d a sc o => Sys2Proof.Machine.execGbar d a sc o s
  | .gset d a b => Sys2Proof.Machine.execGset d a b s
  | .ginfo d a => Sys2Proof.Machine.execGinfo d a s
  | .gcoll d a b sc => Sys2Proof.Machine.execGcoll d a b sc s
  | .galloc d a => Sys2Proof.Machine.execGalloc d a s
  | .gfree d a => Sys2Proof.Machine.execGfree d a s
  | .qsel a => Sys2Proof.Machine.execQsel a s
  | .qlen d q => Sys2Proof.Machine.execQlen d q s
  | .qpeek d q => Sys2Proof.Machine.execQpeek d q s
  | .sopen d a b => Sys2Proof.Machine.execSopen d a b s
  | .sclose d a => Sys2Proof.Machine.execSclose d a s
  | .sbar m sc => Sys2Proof.Machine.execSbar m sc s
  | .sstat d a => Sys2Proof.Machine.execSstat d a s
  | .slink d a b => Sys2Proof.Machine.execSlink d a b s
  | .copy d a b sc => Sys2Proof.Machine.execCopy d a b sc s
  | .cpflush => Sys2Proof.Machine.execCpflush s
  | .cpstat d => Sys2Proof.Machine.execCpstat d s
  | .pgload d q b => Sys2Proof.Machine.execPgload d q b s
  | .pgcast d a b => Sys2Proof.Machine.execPgcast d a b s
  | .pgbind d a b => Sys2Proof.Machine.execPgbind d a b s
  | .pgdrop d q => Sys2Proof.Machine.execPgdrop d q s
  | .pgstat d q => Sys2Proof.Machine.execPgstat d q s
  | .wload d m b => Sys2Proof.Machine.execWload d m b s
  | .wdrop d b => Sys2Proof.Machine.execWdrop d b s
  | .wpoke d q b => Sys2Proof.Machine.execWpoke d q b s
  | .gload d c b => Sys2Proof.Machine.execGload d c b s
  | .gstart d c sc => Sys2Proof.Machine.execGstart d c sc s
  | .gstop d c => Sys2Proof.Machine.execGstop d c s
  | .gstat d c => Sys2Proof.Machine.execGstat d c s
  | .waita d c => Sys2Proof.Machine.execWaita d c s
  | .actdone c => Sys2Proof.Machine.execActdone c s
  | .spawn d a b => Sys2Proof.Machine.execSpawn d a b s
  | .retire => Sys2Proof.Machine.execRetire s
  | .yield => Sys2Proof.Machine.execYield s
  | .twatch d a => Sys2Proof.Machine.execTwatch d a s
  | .tstat d a => Sys2Proof.Machine.execTstat d a s
  | .tkill d a => Sys2Proof.Machine.execTkill d a s
  | .xgate d a b => Sys2Proof.Machine.execXgate d a b s
  | .xtopk d a b => Sys2Proof.Machine.execXtopk d a b s
  | .xbin d a b => Sys2Proof.Machine.execXbin d a b s
  | .xsend d a b => Sys2Proof.Machine.execXsend d a b s
  | .xrecv d a b => Sys2Proof.Machine.execXrecv d a b s
  | .xbias d a b => Sys2Proof.Machine.execXbias d a b s
  | .xstat d a => Sys2Proof.Machine.execXstat d a s
  | .liw d im => Sys2Proof.Machine.execLiw d im s
  | .lih d im => Sys2Proof.Machine.execLih d im s
  | .amocCas d a b sc o t g => Sys2Proof.Machine.execAmocCas d a b sc o t g s
  | .amocDecz d a sc o t g => Sys2Proof.Machine.execAmocDecz d a sc o t g s
  | .amocAddge d a b sc o t g => Sys2Proof.Machine.execAmocAddge d a b sc o t g s
  | .drainWrite u q => Sys2Proof.Machine.execDrainWrite u q s
  | .forward u q => Sys2Proof.Machine.execForward u q s
  | .hit u q => Sys2Proof.Machine.execHit u q s
  | .sendRead u q => Sys2Proof.Machine.execSendRead u q s
  | .orderPoint u q => Sys2Proof.Machine.execOrderPoint u q s
  | .homeAmo u q => Sys2Proof.Machine.execHomeAmo u q s
  | .homeRed u q => Sys2Proof.Machine.execHomeRed u q s
  | .homeContinuation u q => Sys2Proof.Machine.execHomeContinuation u q s
  | .homeFullEmpty u q => Sys2Proof.Machine.execHomeFullEmpty u q s
  | .complete u q => Sys2Proof.Machine.execComplete u q s
  | .junction u q u2 q2 => Sys2Proof.Machine.execJunction u q u2 q2 s
  | .remoteCacheFill die u q => Sys2Proof.Machine.execRemoteCacheFill die u q s
  | .remoteCacheEvict die line => Sys2Proof.Machine.execRemoteCacheEvict die line s
  | .remoteCacheInvalidate die line => Sys2Proof.Machine.execRemoteCacheInvalidate die line s
  | .translationWalk u va => Sys2Proof.Machine.execTranslationWalk u va s
  | .inboxMapWrite u q => Sys2Proof.Machine.execInboxMapWrite u q s
  | .mailboxPush u q => Sys2Proof.Machine.execMailboxPush u q s
  | .peerQueueTransfer u peer => Sys2Proof.Machine.execPeerQueueTransfer u peer s
  | .invalidatePage u q => Sys2Proof.Machine.execInvalidatePage u q s
  | .invalidateExpedition u q => Sys2Proof.Machine.execInvalidateExpedition u q s
  | .invalidateAll u q => Sys2Proof.Machine.execInvalidateAll u q s
  | .invalidationPerformed => Sys2Proof.Machine.execInvalidationPerformed s
  | .groupArrival u q => Sys2Proof.Machine.execGroupArrival u q s
  | .groupDeparture u m => Sys2Proof.Machine.execGroupDeparture u m s
  | .collectiveCombine e g => Sys2Proof.Machine.execCollectiveCombine e g s
  | .offsetsRead n p => Sys2Proof.Machine.execOffsetsRead n p s
  | .gatherEntryRead n p => Sys2Proof.Machine.execGatherEntryRead n p s
  | .porterRead n p => Sys2Proof.Machine.execPorterRead n p s
  | .porterWrite n p => Sys2Proof.Machine.execPorterWrite n p s
  | .streamDrained n p => Sys2Proof.Machine.execStreamDrained n p s
  | .copyMove n c => Sys2Proof.Machine.execCopyMove n c s
  | .copyComplete n c => Sys2Proof.Machine.execCopyComplete n c s
  | .writePacketSend n im => Sys2Proof.Machine.execWritePacketSend n im s
  | .cellDataFiring n q im => Sys2Proof.Machine.execCellDataFiring n q im s
  | .cellMarkStep n q im => Sys2Proof.Machine.execCellMarkStep n q im s
  | .cellScaleStep n q im => Sys2Proof.Machine.execCellScaleStep n q im s
  | .cellDirectiveStep n q im => Sys2Proof.Machine.execCellDirectiveStep n q im s
  | .cellEmitNext n q im => Sys2Proof.Machine.execCellEmitNext n q im s
  | .outputMove n q im xv => Sys2Proof.Machine.execOutputMove n q im xv s
  | .veinHop n q im d => Sys2Proof.Machine.execVeinHop n q im d s
  | .route n q im d => Sys2Proof.Machine.execRoute n q im d s
  | .fork n q im => Sys2Proof.Machine.execFork n q im s
  | .steer n q im => Sys2Proof.Machine.execSteer n q im s
  | .merge n q im => Sys2Proof.Machine.execMerge n q im s
  | .carry n q im => Sys2Proof.Machine.execCarry n q im s
  | .inv n q im => Sys2Proof.Machine.execInv n q im s
  | .accUpdate n q im => Sys2Proof.Machine.execAccUpdate n q im s
  | .waveOrderPerform n q k => Sys2Proof.Machine.execWaveOrderPerform n q k s
  | .bankPortAccess u q => Sys2Proof.Machine.execBankPortAccess u q s
  | .firingAdmit n q => Sys2Proof.Machine.execFiringAdmit n q s
  | .pagerClose n => Sys2Proof.Machine.execPagerClose n s
  | .pagerCloseTimeout n => Sys2Proof.Machine.execPagerCloseTimeout n s
  | .pagerSave n => Sys2Proof.Machine.execPagerSave n s
  | .pagerLoad n => Sys2Proof.Machine.execPagerLoad n s
  | .pagerOpen n => Sys2Proof.Machine.execPagerOpen n s
  | .pageIdleExpiry n g => Sys2Proof.Machine.execPageIdleExpiry n g s
  | .pagerExclusionExpiry n g => Sys2Proof.Machine.execPagerExclusionExpiry n g s
  | .parseStep n g => Sys2Proof.Machine.execParseStep n g s
  | .contextForward n g => Sys2Proof.Machine.execContextForward n g s
  | .skip n g => Sys2Proof.Machine.execSkip n g s
  | .recoveryPop n g => Sys2Proof.Machine.execRecoveryPop n g s
  | .inject n g => Sys2Proof.Machine.execInject n g s
  | .post n g => Sys2Proof.Machine.execPost n g s
  | .command n g => Sys2Proof.Machine.execCommand n g s
  | .trapAction n g => Sys2Proof.Machine.execTrapAction n g s
  | .launchDelivery slice e => Sys2Proof.Machine.execLaunchDelivery slice e s
  | .watchRegister cv im => Sys2Proof.Machine.execWatchRegister cv im s
  | .yieldThreshold cv => Sys2Proof.Machine.execYieldThreshold cv s
  | .dispatch die => Sys2Proof.Machine.execDispatch die s
  | .reserving die => Sys2Proof.Machine.execReserving die s
  | .aging cv => Sys2Proof.Machine.execAging cv s
  | .spillRefill die e => Sys2Proof.Machine.execSpillRefill die e s
  | .advertise die => Sys2Proof.Machine.execAdvertise die s
  | .migrationSend die => Sys2Proof.Machine.execMigrationSend die s
  | .migrationReceive die => Sys2Proof.Machine.execMigrationReceive die s
  | .moduleAdvertise dev => Sys2Proof.Machine.execModuleAdvertise dev s
  | .moduleMigration die dev => Sys2Proof.Machine.execModuleMigration die dev s
  | .deadlockPreempt die e => Sys2Proof.Machine.execDeadlockPreempt die e s
  | .saveWalk u => Sys2Proof.Machine.execSaveWalk u s
  | .gating u => Sys2Proof.Machine.execGating u s
  | .saveCommit u => Sys2Proof.Machine.execSaveCommit u s
  | .restore u => Sys2Proof.Machine.execRestore u s
  | .heldBankWriteout n => Sys2Proof.Machine.execHeldBankWriteout n s
  | .trapDelivery u => Sys2Proof.Machine.execTrapDelivery u s
  | .recordTake k => Sys2Proof.Machine.execRecordTake k s
  | .age n edge => Sys2Proof.Machine.execAge n edge s
  | .waitlong n edge => Sys2Proof.Machine.execWaitlong n edge s
  | .eccError site => Sys2Proof.Machine.execEccError site s
  | .selfTest site pass => Sys2Proof.Machine.execSelfTest site pass s
  | .expeditionEnd e => Sys2Proof.Machine.execExpeditionEnd e s
  | .flitSend link => Sys2Proof.Machine.execFlitSend link s
  | .dataFlitReceive link flit => Sys2Proof.Machine.execDataFlitReceive link flit s
  | .nak link flit => Sys2Proof.Machine.execNak link flit s
  | .idle link => Sys2Proof.Machine.execIdle link s
  | .nakTimeout link => Sys2Proof.Machine.execNakTimeout link s
  | .replayTimeout link => Sys2Proof.Machine.execReplayTimeout link s
  | .lossOfLock link lanes => Sys2Proof.Machine.execLossOfLock link lanes s
  | .retrainComplete link good ack => Sys2Proof.Machine.execRetrainComplete link good ack s
  | .packetForward link => Sys2Proof.Machine.execPacketForward link s
  | .readPacket link => Sys2Proof.Machine.execReadPacket link s
  | .writePacket link => Sys2Proof.Machine.execWritePacket link s
  | .readData link => Sys2Proof.Machine.execReadData link s
  | .atomicPacket link => Sys2Proof.Machine.execAtomicPacket link s
  | .atomicResult link => Sys2Proof.Machine.execAtomicResult link s
  | .writeDone link => Sys2Proof.Machine.execWriteDone link s
  | .roundOpen die => Sys2Proof.Machine.execRoundOpen die s
  | .gateMerge => Sys2Proof.Machine.execGateMerge s
  | .xsendRowSend die => Sys2Proof.Machine.execXsendRowSend die s
  | .xdeRow => Sys2Proof.Machine.execXdeRow s
  | .xdeResponse => Sys2Proof.Machine.execXdeResponse s
  | .xsendFinish die => Sys2Proof.Machine.execXsendFinish die s
  | .xdeFinish => Sys2Proof.Machine.execXdeFinish s
  | .xbinWork die => Sys2Proof.Machine.execXbinWork die s
  | .xbiasBuild => Sys2Proof.Machine.execXbiasBuild s
  | .migrationPacket link => Sys2Proof.Machine.execMigrationPacket link s
  | .advertisementPacket link => Sys2Proof.Machine.execAdvertisementPacket link s
  | .fifoWrite port off data => Sys2Proof.Machine.execFifoWrite port off data s
  | .pctlWrite port v => Sys2Proof.Machine.execPctlWrite port v s
  | .launchStream port plan => Sys2Proof.Machine.execLaunchStream port plan s
  | .feed port => Sys2Proof.Machine.execFeed port s
  | .functionLevelReset => Sys2Proof.Machine.execFunctionLevelReset s
  | .routingTableWrite dev v => Sys2Proof.Machine.execRoutingTableWrite dev v s
  | .devidWrite v => Sys2Proof.Machine.execDevidWrite v s
  | .powlimWrite v => Sys2Proof.Machine.execPowlimWrite v s
  | .thermClear v => Sys2Proof.Machine.execThermClear v s
  | .attreq addr => Sys2Proof.Machine.execAttreq addr s
  | .hostRegisterWrite off v => Sys2Proof.Machine.execHostRegisterWrite off v s
  | .boot => Sys2Proof.Machine.execBoot s
  | .recoveryImage image => Sys2Proof.Machine.execRecoveryImage image s
  | .moduleReset => Sys2Proof.Machine.execModuleReset s
  | .governorWindow n q im => Sys2Proof.Machine.execGovernorWindow n q im s
  | .throttle die => Sys2Proof.Machine.execThrottle die s
  | .trip => Sys2Proof.Machine.execTrip s
  | .illegalInstruction w => Sys2Proof.Machine.execIllegalInstruction w s
  | .bindingTransfer n src => Sys2Proof.Machine.execBindingTransfer n src s
  | .throttleRelease die => Sys2Proof.Machine.execThrottleRelease die s

end Sys2Proof.Machine
end

