-- ==== Sys2Proof/Machine/Issue.lean ====
section
/-!
DEFINITION. One issue of the drover in focus (S1 of R268, R290, R321, R322): what comes before the instruction's own
meaning, and the turns of the agenda (log 3).
-/

namespace Sys2Proof.Machine

/-- Whether a drover's clock lets it issue: running, or dispatched 64 cycles ago (R290), and not stopped by a trap
(R321). -/
def Drover.mayIssue (d : Drover) (cycle : Nat) : Bool :=
  d.trap.isNone && !d.held && match d.run with
    | .running => true
    | .starting since => decide (since + 64 ≤ cycle)
    | _ => false

/-- The chip with a drover's clock running, once its serai has been configured (R290). -/
def Chip.begun (c : Chip) (u : Nat) (d : Drover) : Chip :=
  match d.run with
  | .starting _ => c.setDrover u { d with run := .running }
  | _ => c

/-- The first instruction after dispatch issues: the task runs (R280), and the slot of a restored image is free (R340). -/
def Chip.started (c : Chip) (u : Nat) : Chip :=
  match c.task? u with
  | none => c
  | some t =>
    let c := match t.slot with
      | some k => c.freeSlot u k
      | none => c
    c.onTask u fun t => { t with state := .running, slot := none, full := false }

/-- Whether a task has yet to issue its first instruction after dispatch. -/
def Chip.unstarted (c : Chip) (u : Nat) : Bool := (c.task? u).any fun t => t.state == .dispatched

/-- Whether the instruction that made a state of one in which the drover was `d` has issued: it is counted, or it has trapped, or the task is
in another state (R75). -/
def State.hasIssued (t : State) (d : Drover) : Bool :=
  match t.cur? with
  | none => true
  | some d' => d'.trap.isSome || d'.ctl.instret != d.ctl.instret || !t.chip.unstarted t.focus

/-- The instruction run by the drover as its fetch has left it. The first after dispatch, where it issues and does not stall, starts its
task. -/
def State.runs (s : State) (d : Drover) (i : Instr) : Host.Outcome State Fault Refusal :=
  let s := s.onChip fun c => c.setDrover s.focus d
  let o := exec i s
  if s.chip.unstarted s.focus then
    match o with
    | .next t => if t.hasIssued d then exec i (s.onChip fun c => c.started s.focus) else o
    | .fault _ => o
    | .refused _ => o
  else o

/-- Whether the drover waits in the middle of a checked access, which no asynchronous trap cuts off. -/
def Drover.checking (d : Drover) : Bool :=
  match d.hold with
  | .check _ => true
  | .checked _ => true
  | _ => false

/-- A line of another module that a fetch needs: asked for, or filled into the instruction cache. -/
def State.fetchFar (s : State) (d : Drover) (l : Leaf) (va : Nat) : State :=
  let agent := blockAgent s.focus + 1
  let pa := l.pa va / 64 * 64
  match s.chip.farPiece agent l pa 64 va with
  | .ok b c =>
    let icache := put d.mem.icache (fetchKey l pa) (BitVec.ofNat 512 (natOfBytes b))
    { s with chip := (c.dropFar agent).setDrover s.focus { d with mem := { d.mem with icache := icache } } }
  | .wait c => { s with chip := c }
  | .bad _ _ => s.takeTrap { d.trapAt 6 (BitVec.ofNat 64 va) with aux2 := 4 } d

/-- One issue: an asynchronous trap first (R322), then the fetch and its faults (R75), then the instruction. -/
def State.issue (s : State) : Host.Outcome State Fault Refusal :=
  match s.cur? with
  | none => .next s
  | some d0 =>
    if !d0.mayIssue s.cycle then .next s
    else
      let s := s.onChip fun c => c.begun s.focus d0
      match s.cur? with
      | none => .next s
      | some d =>
        match d.async, d.checking with
        | t :: rest, false => .next (s.takeTrap { t with pc := d.regs.pc } { d with async := rest })
        | _, _ =>
          match s.fetchInstr d with
          | .walk va => .next (s.onChip fun c => c.setDrover s.focus { d with hold := .walk va })
          | .remote l va => .next (s.fetchFar d l va)
          | .fault k va => .next (s.takeTrap (d.trapAt k va) d)
          | .got i d' => s.runs d' i

/-- The state after n cycles: the cycle counter, and what counts cycles (R295, R331). -/
def State.passes (s : State) (n : Nat) : State := { s with cycle := s.cycle + n, chip := s.chip.ticked s.cycle n }

/-- An outcome with cycles passed. -/
def passed (n : Nat) (o : Host.Outcome State Fault Refusal) : Host.Outcome State Fault Refusal :=
  match o with
  | .next s => .next (s.passes n)
  | .fault f => .fault f
  | .refused r => .refused r

/-- An outcome after which the counters of tokens that have moved since `s` restart (R331). -/
def settled (s : State) (o : Host.Outcome State Fault Refusal) : Host.Outcome State Fault Refusal :=
  match o with
  | .next t => .next (t.onChip fun c => c.settleAges s.chip)
  | .fault f => .fault f
  | .refused r => .refused r

/-- Whether a turn is module reset, the one that a module whose clocks stand takes (R366). -/
def Turn.isReset : Turn → Bool
  | .event .moduleReset => true
  | _ => false

/-- A turn of the agenda. -/
def State.turn (s : State) : Turn → Host.Outcome State Fault Refusal
  | .event i => if i.isEvent then settled s (exec i s) else .next s
  | .issue u => settled s (State.issue { s with focus := u })
  | .tick n => passed n (.next s)
  | .ahead n => .next { s with ahead := n }

/-- With no turn on the agenda: the boot ROM after reset (R361), else one issue of the drover in focus; a cycle passes. -/
def State.idleTurn (s : State) : Host.Outcome State Fault Refusal :=
  passed 1 (settled s (if s.chip.mgmt.bootst = 0 then exec .boot s else s.issue))

end Sys2Proof.Machine
end

