-- ==== Sys2Proof/Machine/Step.lean ====
section
/-!
DEFINITION. One step of the machine, and placing an instruction where the next step fetches it (log 4).
-/

namespace Sys2Proof.Machine

/-- One step: the first turn of the agenda, or, with none, the drover in focus. A module whose clocks stand takes
no turn but a reset (R366). -/
def step (s : State) : Host.Outcome State Fault Refusal :=
  match s.agenda with
  | [] => if s.chip.mgmt.stopped then .fault .clocksStopped else s.idleTurn
  | t :: rest =>
    if s.chip.mgmt.stopped && !t.isReset then .fault .clocksStopped else State.turn { s with agenda := rest } t

/-- Where `State.withFetchWord` puts the instruction: virtual and physical address. -/
def State.placeAt : Nat := 0x10000

/-- The page that holds a placed instruction, as the task's TLB holds it. -/
def State.placeLeaf : Leaf :=
  { expid := 0, vbase := State.placeAt, size := 4096, pbase := State.placeAt, rmt := false, dev := 0, canR := true,
    canW := true, canX := true, user := true, fmt := 0x3F, watched := false, tagged := true, replicable := false }

/-- The drover of a task that runs on serai 0 with its pc at the placed instruction. -/
def State.placeDrover : Drover :=
  let d := Drover.fresh false (some 0)
  { d with run := .running, regs := { d.regs with pc := BitVec.ofNat 64 State.placeAt },
           mem := { d.mem with tlb := [State.placeLeaf] } }

/-- The state in which the very next step runs an instruction: the bytes stand at its address, a task of a caravan of one
runs on serai 0 with its pc there, the module has booted, and no other turn waits. It stands for the loading and
dispatch that bring a program to run (log 4). -/
def State.withFetchWord (s : State) (nbits w : Nat) : State :=
  let u := max s.chip.sched.nextKey 16
  let cv := s.chip.sched.nextCv
  let bytes := bytesOf (w % 2 ^ nbits) 8
  let t : Task :=
    { exp := 0, taskid := 1, caravan := cv, index := 0, state := .running, args := [], groups := [], departed := false, slot := none, full := false,
      header := [], heldAt := none }
  let v : Caravan :=
    { exp := 0, tmpl := 0, members := [u], pinned := false, prio := 0, ready := 0, order := 0, agedAt := 0, passedAt := none,
      rose := none, origin := none, place := .resident 0, reason := none, watches := [], hint := 0, near := none, wake := false, dispatchedAt := 0, lastAdvert := 0 }
  let homes := s.chip.homes.clearBad State.placeAt 8
  let sched := s.chip.sched
  { s with
    agenda := [], focus := u,
    chip := { s.chip with
      drovers := put s.chip.drovers u State.placeDrover,
      homes := { homes with mem := homes.mem.write (canon State.placeAt) bytes },
      mgmt := { s.chip.mgmt with bootst := 1, stopped := false },
      sched := { sched with nextKey := u + 1, nextCv := cv + 1, tasks := put sched.tasks u t, caravans := put sched.caravans cv v } } }

end Sys2Proof.Machine
end

