-- ==== Sys2Proof/Safety.lean ====
section
/-!
DEFINITION. What counts as a safe run: the module never trips, and no instruction is turned away for want of a meaning.
-/

namespace Sys2Proof.Machine

/-- A step goes on. -/
def State.goesOn (s : State) : Prop := ∃ s', step s = .next s'

/-- n steps go on. -/
def State.safeFor : Nat → State → Prop
  | 0, _ => True
  | n + 1, s => ∃ s', step s = .next s' ∧ State.safeFor n s'

end Sys2Proof.Machine
end

