-- ==== Sys2Proof/Certificates/Slice0/Obligations.lean ====
section
/-!
DEFINITION. The statements for the provers. `Sys2Proof.Claims` holds the terms they are made of: when a drover may issue
an instruction (the hypotheses, on the state and the operands alone), and what a completed instruction leaves (the
conclusions). Each statement's docstring names the rules of spec/ that it formalises.
-/

namespace Sys2Proof.Claims

open Sys2Proof.Machine

/-! ## When a scalar instruction may issue -/

/-- A register to which a result that the drover computes may go now: x0 to x27 that is not pending, or x30 with room
in its queue, a living member named by QPEER, and the accesses that the push releases out (R9, R17, R105). -/
def destOk (s : State) (dr : Drover) (d : BitVec 5) : Prop :=
  dr.dstStall d = none ∧
    (d.toNat < 28 ∨ (d.toNat = 30 ∧ s.chip.peerAlive s.focus dr.ctl.qpeer.toNat = true ∧ dr.pushReady = true))

/-- The drover in focus is dr, and result register d is free. -/
def Ready0 (s : State) (dr : Drover) (d : BitVec 5) : Prop := s.cur? = some dr ∧ destOk s dr d

/-- And source a reads as x now, in any form: x0 to x27, or a port that holds an entry (R9). -/
def Ready1 (s : State) (dr : Drover) (d a : BitVec 5) (x : Word) : Prop :=
  Ready0 s dr d ∧ dr.srcStall [a] = none ∧ ∃ d1, dr.readX s.focus a = .ok (x, d1)

/-- And sources a and b read as x and y. -/
def Ready2 (s : State) (dr : Drover) (d a b : BitVec 5) (x y : Word) : Prop :=
  Ready0 s dr d ∧ dr.srcStall [a, b] = none ∧ ∃ d1, dr.read2 s.focus a b = .ok (x, y, d1)

/-- Sources alone, for an instruction that writes a predicate or nothing. -/
def Reads1 (s : State) (dr : Drover) (a : BitVec 5) (x : Word) : Prop :=
  s.cur? = some dr ∧ dr.srcStall [a] = none ∧ ∃ d1, dr.readX s.focus a = .ok (x, d1)

/-- Two sources alone. -/
def Reads2 (s : State) (dr : Drover) (a b : BitVec 5) (x y : Word) : Prop :=
  s.cur? = some dr ∧ dr.srcStall [a, b] = none ∧ ∃ d1, dr.read2 s.focus a b = .ok (x, y, d1)

/-! ## What a completed scalar instruction leaves -/

/-- What register instructions leave alone: every drover but the one in focus, the cycle, the module's other parts, and of
the drover its descriptor registers, steward registers, control registers but FFLAGS and INSTRET, and its
translations. -/
def Rest (s t : State) (dr d' : Drover) : Prop :=
  (∀ u, u ≠ s.focus → t.chip.drover? u = s.chip.drover? u) ∧ t.cycle = s.cycle ∧ t.focus = s.focus ∧
    t.chip.serais = s.chip.serais ∧ t.chip.sched = s.chip.sched ∧ t.chip.binds = s.chip.binds ∧
    t.chip.xde = s.chip.xde ∧ t.chip.links = s.chip.links ∧ t.chip.mgmt = s.chip.mgmt ∧
    d'.regs.d = dr.regs.d ∧ d'.stew = dr.stew ∧ d'.steward = dr.steward ∧ d'.ctl.qpeer = dr.ctl.qpeer ∧
    d'.ctl.yieldth = dr.ctl.yieldth ∧ d'.ctl.arm = dr.ctl.arm ∧ d'.ctl.ovr = dr.ctl.ovr ∧
    d'.ctl.govhold = dr.ctl.govhold ∧ d'.ctl.instret = dr.ctl.instret + 1 ∧ d'.mem.tlb = dr.mem.tlb

/-- Instruction i completes: x[d] is v, or v is pushed for the member that QPEER names when d is x30; a write of x0 is
discarded; FFLAGS gains fl; the pc moves on by n; every other register and predicate keeps its value. -/
def Wrote (s : State) (dr : Drover) (i : Instr) (d : BitVec 5) (v : Word) (fl : BitVec 5) (n : Nat) : Prop :=
  ∃ t d', exec i s = .next t ∧ t.cur? = some d' ∧ Rest s t dr d' ∧ d'.regs.pc = dr.regs.pc + BitVec.ofNat 64 n ∧
    d'.regs.p = dr.regs.p ∧ d'.ctl.fflags = dr.ctl.fflags ||| fl ∧
    (∀ r : BitVec 5, r.toNat < 28 → d'.regs.getX r = if r = d ∧ r ≠ 0 then v else dr.regs.getX r) ∧
    (d.toNat = 30 → ∃ e : QEntry, e.val = v ∧
      look d'.queues.outq dr.ctl.qpeer.toNat = some (lookD dr.queues.outq dr.ctl.qpeer.toNat [] ++ [e]))

/-- Instruction i completes: p[k] is b, a write of p7 is discarded; nothing else changes but the pc. -/
def Decided (s : State) (dr : Drover) (i : Instr) (k : BitVec 3) (b : Bool) : Prop :=
  ∃ t d', exec i s = .next t ∧ t.cur? = some d' ∧ Rest s t dr d' ∧ d'.regs.pc = dr.regs.pc + 4 ∧
    d'.regs.x = dr.regs.x ∧ d'.ctl.fflags = dr.ctl.fflags ∧
    (∀ r : BitVec 3, d'.regs.getP r = if r = k ∧ r ≠ 7 then b else dr.regs.getP r)

/-- A result at the width that W selects: 32 bits, sign-extended, or 64. -/
def atW (w : BitVec 1) (v32 : BitVec 32) (v64 : Word) : Word := if w = 1 then v32.signExtend 64 else v64

/-- The low 32 bits. -/
def lo (x : Word) : BitVec 32 := x.setWidth 32

/-- R44: quotient and remainder of n-bit numbers, signed and unsigned. -/
def quotS {n : Nat} (x y : BitVec n) : BitVec n := if y = 0 then BitVec.allOnes n else x.sdiv y
/-- See `quotS`. -/
def remS {n : Nat} (x y : BitVec n) : BitVec n := if y = 0 then x else x.srem y
/-- See `quotS`. -/
def quotU {n : Nat} (x y : BitVec n) : BitVec n := if y = 0 then BitVec.allOnes n else x.udiv y
/-- See `quotS`. -/
def remU {n : Nat} (x y : BitVec n) : BitVec n := if y = 0 then x else x.umod y

/-- The number of zeros above the highest set bit. -/
def leading {n : Nat} (x : BitVec n) : BitVec n := BitVec.ofNat n (if x = 0 then n else n - 1 - x.toNat.log2)

/-- c is the number of zeros below the lowest set bit. -/
def isTrailing {n : Nat} (x : BitVec n) (c : Nat) : Prop :=
  c ≤ n ∧ (∀ j, j < c → x.getLsbD j = false) ∧ (c < n → x.getLsbD c = true)

/-- The number of set bits. -/
def ones {n : Nat} (x : BitVec n) : BitVec n := BitVec.ofNat n ((List.range n).filter fun j => x.getLsbD j).length

end Sys2Proof.Claims

open Sys2Proof Sys2Proof.Machine Sys2Proof.Claims

/-! ## Arithmetic and logic (R106 to R108) -/

/-- R106: the two-source ALU operations but division: results, at both widths, for every form of source and
destination; with their frame. -/
def Sys2Proof.Claims.AluResults : Prop :=
  ∀ (s : State) (dr : Drover) (d a b : BitVec 5) (x y : Word), Ready2 s dr d a b x y →
    (∀ w, Wrote s dr (.add d a b w) d (atW w (lo x + lo y) (x + y)) 0 4) ∧
    (∀ w, Wrote s dr (.sub d a b w) d (atW w (lo x - lo y) (x - y)) 0 4) ∧
    Wrote s dr (.and d a b) d (x &&& y) 0 4 ∧ Wrote s dr (.or d a b) d (x ||| y) 0 4 ∧
    Wrote s dr (.xor d a b) d (x ^^^ y) 0 4 ∧ Wrote s dr (.andn d a b) d (x &&& ~~~y) 0 4 ∧
    (∀ w, Wrote s dr (.shl d a b w) d (atW w (lo x <<< (y.toNat % 32)) (x <<< (y.toNat % 64))) 0 4) ∧
    (∀ w, Wrote s dr (.shr d a b w) d (atW w (lo x >>> (y.toNat % 32)) (x >>> (y.toNat % 64))) 0 4) ∧
    (∀ w, Wrote s dr (.sar d a b w) d (atW w ((lo x).sshiftRight (y.toNat % 32)) (x.sshiftRight (y.toNat % 64))) 0 4) ∧
    (∀ w, Wrote s dr (.rol d a b w) d (atW w (lo x <<< (y.toNat % 32) ||| lo x >>> (32 - y.toNat % 32))
      (x <<< (y.toNat % 64) ||| x >>> (64 - y.toNat % 64))) 0 4) ∧
    (∀ w, Wrote s dr (.mul d a b w) d (atW w (lo x * lo y) (x * y)) 0 4) ∧
    Wrote s dr (.mulh d a b) d (((x.signExtend 128 * y.signExtend 128) >>> 64).setWidth 64) 0 4 ∧
    Wrote s dr (.mulhu d a b) d (((x.setWidth 128 * y.setWidth 128) >>> 64).setWidth 64) 0 4 ∧
    (∀ w, Wrote s dr (.min d a b w) d (atW w (if (lo x).slt (lo y) then lo x else lo y) (if x.slt y then x else y)) 0 4) ∧
    (∀ w, Wrote s dr (.max d a b w) d (atW w (if (lo x).slt (lo y) then lo y else lo x) (if x.slt y then y else x)) 0 4) ∧
    (∀ w, Wrote s dr (.minu d a b w) d (atW w (if (lo x).ult (lo y) then lo x else lo y) (if x.ult y then x else y)) 0 4) ∧
    (∀ w, Wrote s dr (.maxu d a b w) d (atW w (if (lo x).ult (lo y) then lo y else lo x) (if x.ult y then y else x)) 0 4)

/-- R44, R106: division and remainder never trap; by zero they give all ones and the dividend, and the most negative
number by −1 gives itself and 0. -/
def Sys2Proof.Claims.DivisionResults : Prop :=
  ∀ (s : State) (dr : Drover) (d a b : BitVec 5) (x y : Word), Ready2 s dr d a b x y → ∀ w : BitVec 1,
    Wrote s dr (.div d a b w) d (atW w (quotS (lo x) (lo y)) (quotS x y)) 0 4 ∧
    Wrote s dr (.divu d a b w) d (atW w (quotU (lo x) (lo y)) (quotU x y)) 0 4 ∧
    Wrote s dr (.rem d a b w) d (atW w (remS (lo x) (lo y)) (remS x y)) 0 4 ∧
    Wrote s dr (.remu d a b w) d (atW w (remU (lo x) (lo y)) (remU x y)) 0 4

/-- R106: the one-source ALU operations. -/
def Sys2Proof.Claims.BitCountResults : Prop :=
  ∀ (s : State) (dr : Drover) (d a : BitVec 5) (x : Word), Ready1 s dr d a x →
    (∀ w, Wrote s dr (.clz d a w) d (atW w (leading (lo x)) (leading x)) 0 4) ∧
    (∀ w c32 c64, isTrailing (lo x) c32 → isTrailing x c64 →
      Wrote s dr (.ctz d a w) d (atW w (BitVec.ofNat 32 c32) (BitVec.ofNat 64 c64)) 0 4) ∧
    (∀ w, Wrote s dr (.popc d a w) d (atW w (ones (lo x)) (ones x)) 0 4) ∧
    Wrote s dr (.sextb d a) d ((x.setWidth 8).signExtend 64) 0 4 ∧
    Wrote s dr (.sexth d a) d ((x.setWidth 16).signExtend 64) 0 4 ∧
    Wrote s dr (.sextw d a) d ((x.setWidth 32).signExtend 64) 0 4 ∧
    (∀ v : Word, (∀ k, k < 8 → v.extractLsb' (8 * k) 8 = x.extractLsb' (8 * (7 - k)) 8) →
      Wrote s dr (.bswap d a) d v 0 4)

/-- R44, R106: the results of the ALU operations, with their frame: two sources, division, one source. -/
def Obligations.ArithmeticResults : Prop := AluResults ∧ DivisionResults ∧ BitCountResults

/-- R107, R108, R76: immediates, sign-extended or zero-extended as R70 says; LIH keeps the low half of its
destination, which it reads. -/
def Obligations.ImmediateResults : Prop :=
  ∀ (s : State) (dr : Drover) (d a : BitVec 5) (x : Word),
    (Ready1 s dr d a x → ∀ (m : BitVec 16) (w : BitVec 1) (n : BitVec 6),
      Wrote s dr (.addi d a m) d (x + m.signExtend 64) 0 4 ∧ Wrote s dr (.andi d a m) d (x &&& m.setWidth 64) 0 4 ∧
      Wrote s dr (.ori d a m) d (x ||| m.setWidth 64) 0 4 ∧ Wrote s dr (.xori d a m) d (x ^^^ m.setWidth 64) 0 4 ∧
      Wrote s dr (.shli d a w n) d (atW w (lo x <<< (n.toNat % 32)) (x <<< n.toNat)) 0 4 ∧
      Wrote s dr (.shri d a w n) d (atW w (lo x >>> (n.toNat % 32)) (x >>> n.toNat)) 0 4 ∧
      Wrote s dr (.sari d a w n) d (atW w ((lo x).sshiftRight (n.toNat % 32)) (x.sshiftRight n.toNat)) 0 4) ∧
    (Ready0 s dr d → ∀ (m : BitVec 16) (j : BitVec 32),
      Wrote s dr (.lui d m) d (m.signExtend 64 * 65536) 0 4 ∧ Wrote s dr (.liw d j) d (j.signExtend 64) 0 8) ∧
    (Ready1 s dr d d x → d.toNat < 28 → ∀ j : BitVec 32,
      Wrote s dr (.lih d j) d (j.setWidth 64 * 2 ^ 32 + (lo x).setWidth 64) 0 8)

/-! ## Comparisons and predicates (R109, R110) -/

/-- R109: CMP compares at the width that W selects, CMPI at 64 bits with the sign-extended immediate. -/
def Obligations.CompareResults : Prop :=
  ∀ (s : State) (dr : Drover) (k : BitVec 3) (a b : BitVec 5) (x y : Word),
    (Reads2 s dr a b x y → ∀ w : BitVec 1,
      Decided s dr (.ceq k a b w) k (if w = 1 then lo x == lo y else x == y) ∧
      Decided s dr (.cne k a b w) k (if w = 1 then lo x != lo y else x != y) ∧
      Decided s dr (.clt k a b w) k (if w = 1 then (lo x).slt (lo y) else x.slt y) ∧
      Decided s dr (.cltu k a b w) k (if w = 1 then (lo x).ult (lo y) else x.ult y) ∧
      Decided s dr (.cle k a b w) k (if w = 1 then (lo x).sle (lo y) else x.sle y) ∧
      Decided s dr (.cleu k a b w) k (if w = 1 then (lo x).ule (lo y) else x.ule y)) ∧
    (Reads1 s dr a x → ∀ m : BitVec 16,
      Decided s dr (.cmpiEq k a m) k (x == m.signExtend 64) ∧
      Decided s dr (.cmpiLt k a m) k (x.slt (m.signExtend 64)) ∧
      Decided s dr (.cmpiLtu k a m) k (x.ult (m.signExtend 64)) ∧
      Decided s dr (.cmpiLe k a m) k (x.sle (m.signExtend 64)))

/-- R110: the PRED family; p7 reads true and takes no write. -/
def Obligations.PredicateResults : Prop :=
  ∀ (s : State) (dr : Drover) (k a b : BitVec 3) (d ra rb : BitVec 5) (x y : Word),
    (s.cur? = some dr →
      Decided s dr (.pand k a b) k (dr.regs.getP a && dr.regs.getP b) ∧
      Decided s dr (.por k a b) k (dr.regs.getP a || dr.regs.getP b) ∧
      Decided s dr (.pxor k a b) k (dr.regs.getP a ^^ dr.regs.getP b) ∧
      Decided s dr (.pandn k a b) k (dr.regs.getP a && !dr.regs.getP b) ∧
      Decided s dr (.pnot k a) k (!dr.regs.getP a)) ∧
    (Reads1 s dr ra x → Decided s dr (.pset k ra) k (x.getLsbD 0)) ∧
    (Ready0 s dr d → Wrote s dr (.pget d a) d (if dr.regs.getP a then 1 else 0) 0 4) ∧
    (Ready2 s dr d ra rb x y → Wrote s dr (.sel d ra rb a) d (if dr.regs.getP a then x else y) 0 4) ∧
    (s.cur? = some dr → ∀ r : BitVec 5, r = ra ∨ r = rb → 0 < r.toNat → r.toNat < 28 → (look dr.board.pend r.toNat).isSome = true →
      ∃ t d', exec (.sel d ra rb a) s = .next t ∧ t.cur? = some d' ∧ d'.regs = dr.regs)

namespace Sys2Proof.Claims

/-! ## Floating point -/

/-- An FP result in a register (R71): an FP32 result leaves bits [63:32] zero. -/
def fpWrote (s : State) (dr : Drover) (i : Instr) (d : BitVec 5) (r : Nat × BitVec 7) : Prop :=
  Wrote s dr i d (BitVec.ofNat 64 r.1) (r.2.setWidth 5) 4

/-- The three sources of FMA read as z, x and y, and its destination, which it also reads and which is x0 to x27 in every
form (R71, R111), is free. -/
def ReadyFma (s : State) (dr : Drover) (d a b : BitVec 5) (z x y : Word) : Prop :=
  s.cur? = some dr ∧ d.toNat < 28 ∧ dr.srcStall [d, a, b] = none ∧ dr.dstStall d = none ∧
    ∃ d1 d2, dr.readX s.focus d = .ok (z, d1) ∧ d1.read2 s.focus a b = .ok (x, y, d2)

/-! ## Traps -/

/-- Instruction i traps: the trap stands in the drover with its cause, the address pc and TRAPVAL; no register, predicate,
control register or memory byte is changed (R105, R321). -/
def Trapped (s : State) (dr : Drover) (i : Instr) (cause : Nat) (pc val : Word) : Prop :=
  ∃ t d' q, exec i s = .next t ∧ t.cur? = some d' ∧ d'.trap = some q ∧ q.cause = cause ∧ q.pc = pc ∧ q.val = val ∧
    d'.regs.x = dr.regs.x ∧ d'.regs.p = dr.regs.p ∧ d'.regs.d = dr.regs.d ∧ d'.ctl = dr.ctl ∧ d'.mem.accs.length = dr.mem.accs.length ∧
    t.chip.homes = s.chip.homes ∧ (∀ u, u ≠ s.focus → t.chip.drover? u = s.chip.drover? u)

/-- An instruction waits: nothing that a program can see has changed. -/
def Waits (s : State) (dr : Drover) (i : Instr) : Prop :=
  ∃ t d', exec i s = .next t ∧ t.cur? = some d' ∧ d'.regs = dr.regs ∧ d'.ctl = dr.ctl ∧ d'.queues = dr.queues ∧
    d'.board = dr.board ∧ d'.mem = dr.mem ∧ d'.trap = dr.trap ∧ t.chip.homes = s.chip.homes ∧ t.cycle = s.cycle ∧
    ∀ u, u ≠ s.focus → t.chip.drover? u = s.chip.drover? u

/-! ## Issued memory instructions -/

/-- What stands between an address and its entry in the queues, with the leaf that translates it: no check of a watched
page under way, room in the queue, alignment, a leaf that grants the access, and no watched page (R75, R266, R273). -/
def MayAccess (s : State) (dr : Drover) (va : Word) (a : Ask) (l : Leaf) : Prop :=
  dr.hold = .idle ∧ dr.room a.kind = true ∧ va.toNat % a.align = 0 ∧ s.leafFor dr va.toNat a = .ok l ∧ l.watched = false

/-- A memory instruction of one word issues: its access stands at the end of the drover's queues, not yet sent, with
address, width, data and order; its destination, if it has one other than x0, is left pending on it; registers and
predicates keep their values and the pc moves on by n (R16, R266). `d1` is the drover once its operands are read. -/
def Issued (s : State) (dr d1 : Drover) (i : Instr) (n : Nat) (k : AccKind) (va : Word) (l : Leaf) (size : Nat)
    (data data2 : Word) (acq rel : Bool) (scope : Nat) (dst : Option (BitVec 5)) : Prop :=
  ∃ (t : State) (d' : Drover) (a : Access), exec i s = .next t ∧ t.cur? = some d' ∧ Rest s t dr d' ∧ d'.regs.pc = dr.regs.pc + BitVec.ofNat 64 n ∧
    d'.regs.x = dr.regs.x ∧ d'.regs.p = dr.regs.p ∧ d'.ctl.fflags = dr.ctl.fflags ∧ d'.mem.accs = d1.mem.accs ++ [a] ∧
    a.seq = d1.mem.nextSeq ∧ a.kind = k ∧ a.va = va.toNat ∧ a.pa = l.pa va.toNat ∧ a.size = size ∧ a.data = data ∧
    a.data2 = data2 ∧ a.acq = acq ∧ a.rel = rel ∧ a.scope = (if l.rmt then 4 else scope) ∧ a.phase = .queued ∧
    (∀ r, dst = some r → r ≠ 0 → look d'.board.pend r.toNat = some (.access a.seq))

/-- One source and a destination, with the drover after reading. -/
def Ready1d (s : State) (dr d1 : Drover) (d a : BitVec 5) (x : Word) : Prop :=
  s.cur? = some dr ∧ dr.srcStall [a] = none ∧ dr.dstStall d = none ∧ d.toNat < 28 ∧ dr.readX s.focus a = .ok (x, d1)

/-- Two sources and a destination, with the drover after reading. -/
def Ready2d (s : State) (dr d1 : Drover) (d a b : BitVec 5) (x y : Word) : Prop :=
  s.cur? = some dr ∧ dr.srcStall [a, b] = none ∧ dr.dstStall d = none ∧ d.toNat < 28 ∧ dr.read2 s.focus a b = .ok (x, y, d1)

/-- Two sources, with the drover after reading. -/
def Reads2d (s : State) (dr d1 : Drover) (a b : BitVec 5) (x y : Word) : Prop :=
  s.cur? = some dr ∧ dr.srcStall [a, b] = none ∧ dr.read2 s.focus a b = .ok (x, y, d1)

/-- Two sources and a destination that is read as the third (R128). -/
def ReadsCas (s : State) (dr d1 d2 : Drover) (d a b : BitVec 5) (x y z : Word) : Prop :=
  s.cur? = some dr ∧ dr.srcStall [a, b, d] = none ∧ dr.dstStall d = none ∧ d.toNat < 28 ∧ dr.read2 s.focus a b = .ok (x, y, d1) ∧
    d1.readX s.focus d = .ok (z, d2)

/-- The width of a size code (R70). -/
def width (z : BitVec 2) : Nat := 2 ^ z.toNat

/-- The M-format address (R70). -/
def mAt (x : Word) (f : BitVec 12) : Word := x + f.signExtend 64

/-- A drover goes on at pc with nothing else changed. -/
def Jumped (s : State) (dr : Drover) (i : Instr) (pc : Word) : Prop :=
  ∃ t d', exec i s = .next t ∧ t.cur? = some d' ∧ Rest s t dr d' ∧ d'.regs.pc = pc ∧ d'.regs.x = dr.regs.x ∧
    d'.regs.p = dr.regs.p ∧ d'.ctl.fflags = dr.ctl.fflags

/-- A drover goes on at pc with a link in register d, pushed when d is x30. -/
def Linked (s : State) (dr : Drover) (i : Instr) (d : BitVec 5) (link pc : Word) : Prop :=
  ∃ t d', exec i s = .next t ∧ t.cur? = some d' ∧ Rest s t dr d' ∧ d'.regs.pc = pc ∧ d'.regs.p = dr.regs.p ∧
    (∀ r : BitVec 5, r.toNat < 28 → d'.regs.getX r = if r = d ∧ r ≠ 0 then link else dr.regs.getX r) ∧
    (d.toNat = 30 → ∃ e : QEntry, e.val = link ∧
      look d'.queues.outq dr.ctl.qpeer.toNat = some (lookD dr.queues.outq dr.ctl.qpeer.toNat [] ++ [e]))

end Sys2Proof.Claims

/-! ## Floating point (R38 to R41, R111 to R113) -/

/-- R38: a magnitude m × 2^e rounded to a multiple of 2^q, q above e: to nearest, ties to even; toward zero; down; up. The
answer says whether that is exact; a magnitude that is a multiple already is kept. -/
def Sys2Proof.Claims.RoundingModes : Prop :=
  ∀ (sgn : Bool) (m k : Nat) (e : Int), 0 < k →
    (let r := roundTo .rne sgn m e (e + k)
     2 * r.1 * 2 ^ k ≤ 2 * m + 2 ^ k ∧ 2 * m ≤ 2 * r.1 * 2 ^ k + 2 ^ k ∧
      ((2 * r.1 * 2 ^ k = 2 * m + 2 ^ k ∨ 2 * m = 2 * r.1 * 2 ^ k + 2 ^ k) → r.1 % 2 = 0) ∧
      (r.2 = true ↔ m % 2 ^ k = 0)) ∧
    (roundTo .rtz sgn m e (e + k)).1 = m / 2 ^ k ∧
    (roundTo .rdn sgn m e (e + k)).1 = (if sgn then (m + 2 ^ k - 1) / 2 ^ k else m / 2 ^ k) ∧
    (roundTo .rup sgn m e (e + k)).1 = (if sgn then m / 2 ^ k else (m + 2 ^ k - 1) / 2 ^ k) ∧
    ∀ mode, roundTo mode sgn m (e + k) e = (m * 2 ^ k, true)

/-- R111: FADD, FSUB, FMUL, FDIV and FSQRT write the rounded result, and FMIN and FMAX the smaller and the larger, in the
precision that fn [8] names, and OR their exceptions into FFLAGS; FMA adds its destination, rounding once. The rounding
itself is the arithmetic of R38 to R41, stated apart. -/
def Sys2Proof.Claims.FloatResults : Prop :=
  ∀ (s : State) (dr : Drover) (d a b : BitVec 5) (x y z : Word) (p : BitVec 1) (r : BitVec 2),
    (Ready2 s dr d a b x y →
      fpWrote s dr (.fadd d a b p r) d ((fpFmt p).addBits .ieee (modeOf r.toNat) (fpSrc p x) (fpSrc p y)) ∧
      fpWrote s dr (.fsub d a b p r) d
        ((fpFmt p).addBits .ieee (modeOf r.toNat) (fpSrc p x) ((fpFmt p).negBits (fpSrc p y))) ∧
      fpWrote s dr (.fmul d a b p r) d ((fpFmt p).mulBits .ieee (modeOf r.toNat) (fpSrc p x) (fpSrc p y)) ∧
      fpWrote s dr (.fdiv d a b p r) d ((fpFmt p).divBits .ieee (modeOf r.toNat) (fpSrc p x) (fpSrc p y)) ∧
      fpWrote s dr (.fmin d a b p) d ((fpFmt p).minBits (fpSrc p x) (fpSrc p y), 0) ∧
      fpWrote s dr (.fmax d a b p) d ((fpFmt p).maxBits (fpSrc p x) (fpSrc p y), 0)) ∧
    (Ready1 s dr d a x →
      fpWrote s dr (.fsqrt d a p r) d ((fpFmt p).sqrtBits .ieee (modeOf r.toNat) (fpSrc p x))) ∧
    (ReadyFma s dr d a b z x y →
      fpWrote s dr (.fma d a b p r) d
        ((fpFmt p).fmaBits .ieee (modeOf r.toNat) (fpSrc p x) (fpSrc p y) (fpSrc p z)))

/-- R38, R111: the four rounding modes, and the floating-point operations that use them. -/
def Obligations.FloatArithmetic : Prop := RoundingModes ∧ FloatResults

/-- R112, R113, R40: conversions round in the mode of the instruction; a float to integer conversion gives 0 and NV
for a NaN and the nearer limit and NV out of range; comparisons are false with a NaN and set no flag; FCLASS writes
one bit. -/
def Obligations.FloatConversions : Prop :=
  ∀ (s : State) (dr : Drover) (d a b : BitVec 5) (k : BitVec 3) (x y : Word) (w u p : BitVec 1) (r : BitVec 2),
    (Ready1 s dr d a x →
      fpWrote s dr (.fcvtif d a w u p r) d ((fpFmt p).encode .ieee (modeOf r.toNat) (ofInt
        (if u = 1 then (if w = 1 then ((lo x).toNat : Int) else x.toNat) else (if w = 1 then (lo x).toInt else x.toInt)))) ∧
      ((fpFmt p).decode (fpSrc p x) = .nan → Wrote s dr (.fcvtfi d a w u p r) d 0 16 4) ∧
      (∀ v fl, ((fpFmt p).decode (fpSrc p x)).toInt (modeOf r.toNat) (cvtLimits w u).1 (cvtLimits w u).2 = (v, fl) →
        Wrote s dr (.fcvtfi d a w u p r) d (BitVec.ofInt 64 v) (fl.setWidth 5) 4 ∧
        (cvtLimits w u).1 ≤ v ∧ v ≤ (cvtLimits w u).2) ∧
      fpWrote s dr (.fcvtff d a p r) d
        ((fpFmt p).encode .ieee (modeOf r.toNat) ((fpFmt (1 - p)).decode (fpSrc (1 - p) x))) ∧
      ∃ n, n < 9 ∧ Wrote s dr (.fclass d a p) d (BitVec.ofNat 64 (2 ^ n)) 0 4) ∧
    (Reads2 s dr a b x y →
      Decided s dr (.fceq k a b p) k (fpCmp p x y == some 0) ∧ Decided s dr (.fclt k a b p) k (fpCmp p x y == some (-1)) ∧
      Decided s dr (.fcle k a b p) k (fpCmp p x y == some 0 || fpCmp p x y == some (-1)) ∧
      ((fpFmt p).decode (fpSrc p x) = .nan ∨ (fpFmt p).decode (fpSrc p y) = .nan → fpCmp p x y = none))

/-! ## Memory instructions at issue (R114 to R118, R126 to R140) -/

/-- R114, R115, R140: loads enter the issue queue with address, width and order, and leave their destination pending. -/
def Sys2Proof.Claims.LoadsIssue : Prop :=
  ∀ (s : State) (dr d1 : Drover) (d a : BitVec 5) (x : Word) (z o : BitVec 2) (f : BitVec 12) (l : Leaf),
    Ready1d s dr d1 d a x →
    (MayAccess s dr (mAt x f) (ask1 .load z (o.getLsbD 0) (o.getLsbD 1) d.toNat 0) l →
      Issued s dr d1 (.ld d a z o f) 4 .load (mAt x f) l (width z) 0 0 (o.getLsbD 0) (o.getLsbD 1) 3 (some d)) ∧
    (MayAccess s dr (mAt x f) (ask1 .loadU z (o.getLsbD 0) (o.getLsbD 1) d.toNat 0) l →
      Issued s dr d1 (.ldu d a z o f) 4 .loadU (mAt x f) l (width z) 0 0 (o.getLsbD 0) (o.getLsbD 1) 3 (some d)) ∧
    (MayAccess s dr (mAt x f) (ask1 .ldf z true false d.toNat 0) l →
      Issued s dr d1 (.ldf d a z f) 4 .ldf (mAt x f) l (width z) 0 0 true false 3 (some d)) ∧
    (MayAccess s dr (mAt x f) (ask1 .ldfe z true false d.toNat 0) l →
      Issued s dr d1 (.ldfe d a z f) 4 .ldfe (mAt x f) l (width z) 0 0 true false 3 (some d))

/-- R114, R115, R140: stores enter the post buffer with address, width, data and order, and leave nothing pending. -/
def Sys2Proof.Claims.StoresIssue : Prop :=
  ∀ (s : State) (dr d1 : Drover) (d a : BitVec 5) (x v : Word) (z o : BitVec 2) (f : BitVec 12) (l : Leaf),
    (Reads2d s dr d1 a d x v →
      (MayAccess s dr (mAt x f) (ask1 .store z (o.getLsbD 0) (o.getLsbD 1) 0 v) l →
        Issued s dr d1 (.st d a z o f) 4 .store (mAt x f) l (width z) v 0 (o.getLsbD 0) (o.getLsbD 1) 3 none) ∧
      (MayAccess s dr (mAt x f) (ask1 .stef z false true 0 v) l →
        Issued s dr d1 (.stef d a z f) 4 .stef (mAt x f) l (width z) v 0 false true 3 none) ∧
      (MayAccess s dr (mAt x f) (ask1 .stf z false true 0 v) l →
        Issued s dr d1 (.stf d a z f) 4 .stf (mAt x f) l (width z) v 0 false true 3 none)) ∧
    (s.cur? = some dr → dr.srcStall [a] = none → dr.readX s.focus a = .ok (x, d1) →
      MayAccess s dr (mAt x f) (ask1 .sete z false true 0 0) l →
        Issued s dr d1 (.sete a z f) 4 .sete (mAt x f) l (width z) 0 0 false true 3 none)

/-- R127, R128: returning atomics on 64-bit words, CAS with its expected value from rb and its new value from rd. -/
def Sys2Proof.Claims.ReturningAtomicsIssue : Prop :=
  ∀ (s : State) (dr d1 d2 : Drover) (d a b : BitVec 5) (x y z : Word) (sc : BitVec 3) (o : BitVec 2) (l : Leaf),
    (Ready2d s dr d1 d a b x y →
      ∀ (i : Instr) (op : Nat), (i, op) ∈ [(.amoSwap d a b sc o, 0), (.amoAdd d a b sc o, 1), (.amoAnd d a b sc o, 2),
          (.amoOr d a b sc o, 3), (.amoXor d a b sc o, 4), (.amoMin d a b sc o, 5), (.amoMax d a b sc o, 6),
          (.amoMinu d a b sc o, 7), (.amoMaxu d a b sc o, 8), (.amoFadd d a b sc o, 9)] →
        MayAccess s dr x (askAmo (.amo op) 8 sc o d.toNat y 0) l →
        Issued s dr d1 i 4 (.amo op) x l 8 y 0 (o.getLsbD 0) (o.getLsbD 1) sc.toNat (some d)) ∧
    (ReadsCas s dr d1 d2 d a b x y z → MayAccess s dr x (askAmo .amoCas 8 sc o d.toNat y z) l →
      Issued s dr d2 (.amoCas d a b sc o) 4 .amoCas x l 8 y z (o.getLsbD 0) (o.getLsbD 1) sc.toNat (some d))

/-- R129: reductions of 8 bytes, or of 4 with W, leave nothing pending. -/
def Sys2Proof.Claims.ReductionsIssue : Prop :=
  ∀ (s : State) (dr d1 : Drover) (a b : BitVec 5) (x y : Word) (w : BitVec 1) (sc : BitVec 3) (o : BitVec 2) (l : Leaf)
    (i : Instr) (op : Nat), Reads2d s dr d1 a b x y →
    (i, op) ∈ [(.redAdd w a b sc o, 0), (.redAnd w a b sc o, 1), (.redOr w a b sc o, 2), (.redXor w a b sc o, 3),
      (.redMin w a b sc o, 4), (.redMax w a b sc o, 5), (.redMinu w a b sc o, 6), (.redMaxu w a b sc o, 7),
      (.redFadd w a b sc o, 8), (.redFmin w a b sc o, 9), (.redFmax w a b sc o, 10)] →
    MayAccess s dr x (askAmo (.red op (w == 1)) (if w = 1 then 4 else 8) sc o 0 y 0) l →
    Issued s dr d1 i 4 (.red op (w == 1)) x l (if w = 1 then 4 else 8) y 0 (o.getLsbD 0) (o.getLsbD 1) sc.toNat none

/-- R134, R136: continuation atomics, with template and tag in their second word, on a word aligned to 8 or, for ADDGE,
16 bytes. -/
def Sys2Proof.Claims.ContinuationsIssue : Prop :=
  ∀ (s : State) (dr d1 d2 : Drover) (d a b : BitVec 5) (x y z : Word) (sc : BitVec 3) (o : BitVec 2) (t : BitVec 10)
    (g : BitVec 22) (l : Leaf),
    (ReadsCas s dr d1 d2 d a b x y z → MayAccess s dr x (askCont .amocCas 8 sc o d.toNat y z t g) l →
      Issued s dr d2 (.amocCas d a b sc o t g) 8 .amocCas x l 8 y z (o.getLsbD 0) (o.getLsbD 1) sc.toNat (some d)) ∧
    (Ready1d s dr d1 d a x → MayAccess s dr x (askCont .amocDecz 8 sc o d.toNat 0 0 t g) l →
      Issued s dr d1 (.amocDecz d a sc o t g) 8 .amocDecz x l 8 0 0 (o.getLsbD 0) (o.getLsbD 1) sc.toNat (some d)) ∧
    (Ready2d s dr d1 d a b x y → MayAccess s dr x (askCont .amocAddge 16 sc o d.toNat y 0 t g) l →
      Issued s dr d1 (.amocAddge d a b sc o t g) 8 .amocAddge x l 8 y 0 (o.getLsbD 0) (o.getLsbD 1) sc.toNat (some d))

/-- R127 to R129, R134, R136: atomics, reductions and continuation atomics go into the issue queue and the post
buffer. -/
def Obligations.AtomicsIssue : Prop := ReturningAtomicsIssue ∧ ReductionsIssue ∧ ContinuationsIssue

/-- R117, R118: DLD asks for sixteen words and leaves its descriptor register pending on them; DST posts the sixteen words
of its register; the addresses rise by 8. R116: PREF reads its address and changes nothing. -/
def Sys2Proof.Claims.DescriptorsIssue : Prop :=
  ∀ (s : State) (dr d1 : Drover) (n : BitVec 4) (a b : BitVec 5) (x y : Word) (sc : BitVec 3) (o : BitVec 2) (l : Leaf)
    (f : BitVec 12),
    (Reads2d s dr d1 a b x y → look dr.board.dpend n.toNat = none →
      MayAccess s dr (x + y) (ask16 .dload (o.getLsbD 0) (o.getLsbD 1) sc.toNat n.toNat (List.replicate 16 0)) l →
      ∃ t d' as, exec (.dld n a b sc o) s = .next t ∧ t.cur? = some d' ∧ Rest s t dr d' ∧ d'.regs.pc = dr.regs.pc + 4 ∧
        d'.regs.x = dr.regs.x ∧ d'.mem.accs = d1.mem.accs ++ as ∧ as.length = 16 ∧ look d'.board.dpend n.toNat = some 16 ∧
        ∀ w e, as[w]? = some e → e.kind = .dload ∧ e.va = (x + y).toNat + 8 * w ∧ e.pa = l.pa (x + y).toNat + 8 * w ∧
          e.rd = n.toNat ∧ e.word = w ∧ e.phase = .queued) ∧
    (Reads2d s dr d1 a b x y → look dr.board.dpend n.toNat = none → look dr.board.dbad n.toNat = none →
      MayAccess s dr (x + y) (ask16 .dstore (o.getLsbD 0) (o.getLsbD 1) sc.toNat 0 (descWords (dr.regs.getD n))) l →
      ∃ t d' as, exec (.dst n a b sc o) s = .next t ∧ t.cur? = some d' ∧ Rest s t dr d' ∧ d'.regs.pc = dr.regs.pc + 4 ∧
        d'.regs.x = dr.regs.x ∧ d'.mem.accs = d1.mem.accs ++ as ∧ as.length = 16 ∧
        ∀ w e, as[w]? = some e → e.kind = .dstore ∧ e.va = (x + y).toNat + 8 * w ∧
          e.data = (dr.regs.getD n).extractLsb' (64 * w) 64 ∧ e.phase = .queued) ∧
    (Reads1 s dr a x → Jumped s dr (.prefR a f) (dr.regs.pc + 4) ∧ Jumped s dr (.prefW a f) (dr.regs.pc + 4))

/-- R114 to R118, R140: loads, stores, prefetches and descriptor transfers go into the issue queue and the post
buffer. -/
def Obligations.LoadsAndStoresIssue : Prop := LoadsIssue ∧ StoresIssue ∧ DescriptorsIssue

/-- R114, R75, R105: where the address is not a multiple of the access's width the instruction traps MISALIGN with the
address in TRAPVAL, and where the translation refuses it, with what that refusal names; nothing is changed. -/
def Obligations.AccessTraps : Prop :=
  ∀ (s : State) (dr d1 : Drover) (d a b : BitVec 5) (x y : Word) (z o : BitVec 2) (f : BitVec 12) (sc : BitVec 3),
    dr.hold = .idle →
    (Ready1d s dr d1 d a x → dr.room .load = true → (mAt x f).toNat % width z ≠ 0 →
      Trapped s dr (.ld d a z o f) 2 dr.regs.pc (mAt x f) ∧ Trapped s dr (.ldu d a z o f) 2 dr.regs.pc (mAt x f) ∧
      Trapped s dr (.ldf d a z f) 2 dr.regs.pc (mAt x f) ∧ Trapped s dr (.ldfe d a z f) 2 dr.regs.pc (mAt x f)) ∧
    (Reads2d s dr d1 a d x y → dr.room .store = true → (mAt x f).toNat % width z ≠ 0 →
      Trapped s dr (.st d a z o f) 2 dr.regs.pc (mAt x f) ∧ Trapped s dr (.stef d a z f) 2 dr.regs.pc (mAt x f) ∧
      Trapped s dr (.stf d a z f) 2 dr.regs.pc (mAt x f)) ∧
    (Ready2d s dr d1 d a b x y → dr.room .load = true → x.toNat % 8 ≠ 0 →
      Trapped s dr (.amoAdd d a b sc o) 2 dr.regs.pc x ∧ Trapped s dr (.amoSwap d a b sc o) 2 dr.regs.pc x) ∧
    (Ready1d s dr d1 d a x → dr.room .load = true → (mAt x f).toNat % width z = 0 →
      s.chip.translate s.focus dr (mAt x f).toNat = .fault → Trapped s dr (.ld d a z o f) 3 dr.regs.pc (mAt x f)) ∧
    (∀ l c, Ready1d s dr d1 d a x → dr.room .load = true → (mAt x f).toNat % width z = 0 →
      s.chip.translate s.focus dr (mAt x f).toNat = .leaf l →
      accessFault dr.steward l (mAt x f).toNat (width z) .load = some c →
        Trapped s dr (.ld d a z o f) c dr.regs.pc (mAt x f))

/-! ## Branches, system instructions and control registers (R119 to R125) -/

/-- R119, R120: branches, calls and jumps; a call that is not taken leaves lr; a target that is not a multiple of 4
traps MISALIGN at the jump. -/
def Obligations.ControlFlow : Prop :=
  ∀ (s : State) (dr : Drover) (n : BitVec 1) (k : BitVec 3) (f : BitVec 22) (d a : BitVec 5) (x : Word),
    (s.cur? = some dr →
      Jumped s dr (.br n k f)
        (if (dr.regs.getP k ^^ n == 1) then dr.regs.pc + 4 * f.signExtend 64 else dr.regs.pc + 4) ∧
      ((dr.regs.getP k ^^ n == 1) = false → Jumped s dr (.call n k f) (dr.regs.pc + 4)) ∧
      ((dr.regs.getP k ^^ n == 1) = true → dr.dstStall 27 = none →
        Linked s dr (.call n k f) 27 (dr.regs.pc + 4) (dr.regs.pc + 4 * f.signExtend 64)) ∧
      ((dr.regs.getP k ^^ n == 1) = true → (look dr.board.pend 27).isSome = true →
        ∃ t d', exec (.call n k f) s = .next t ∧ t.cur? = some d' ∧ d'.regs = dr.regs)) ∧
    (Instr.br 1 7 f).wellFormed = false ∧ (Instr.call 1 7 f).wellFormed = false ∧
    (Reads1 s dr a x → x.toNat % 4 = 0 → Jumped s dr (.jr a) x) ∧
    (Reads1 s dr a x → x.toNat % 4 ≠ 0 → Trapped s dr (.jr a) 2 dr.regs.pc x) ∧
    (Ready1 s dr d a x → x.toNat % 4 = 0 → Linked s dr (.jalr d a) d (dr.regs.pc + 4) x) ∧
    (Ready1 s dr d a x → x.toNat % 4 ≠ 0 → Trapped s dr (.jalr d a) 2 dr.regs.pc x)

/-- R72, R74, R121: an illegal word traps ILLEGAL at its own address, once no register that its operation names is pending (the
model's reading of R75, log 92); TRAP and BRK trap SWTRAP and BRK with the address of
the next instruction; ERET and HALT in task mode trap PRIV. -/
def Sys2Proof.Claims.SystemTraps : Prop :=
  ∀ (s : State) (dr : Drover) (w : BitVec 32) (j : BitVec 26), s.cur? = some dr →
    Trapped s dr (.ill j) 1 dr.regs.pc 0 ∧
    ((∀ r, r ∈ wordRegisters w → dr.isPending r = false) → Trapped s dr (.illegalInstruction w) 1 dr.regs.pc 0) ∧
    (∀ r, r ∈ wordRegisters w → dr.isPending r = true → Waits s dr (.illegalInstruction w)) ∧
    Trapped s dr .brk 0x12 (dr.regs.pc + 4) 0 ∧
    (∀ a x, Reads1 s dr a x → Trapped s dr (.trap a) 0x13 (dr.regs.pc + 4) x) ∧
    (dr.steward = false → Trapped s dr .eret 0x14 dr.regs.pc 0 ∧ Trapped s dr .halt 0x14 dr.regs.pc 0)

/-- R121 to R124: NOP; FENCE, a marker for each of its orders with its scope; SLEEP, which ends at once when a queue holds an entry and
holds issue otherwise; IFLUSH, once the drover's stores are performed. -/
def Sys2Proof.Claims.SystemResults : Prop :=
  ∀ (s : State) (dr : Drover) (sc : BitVec 3) (o : BitVec 2), s.cur? = some dr →
    Jumped s dr .nop (dr.regs.pc + 4) ∧
    (dr.readsHeld < 16 → dr.writesHeld < 32 →
      ∃ (t : State) (d' : Drover) (l : List Access), exec (.fence sc o) s = .next t ∧ t.cur? = some d' ∧ Rest s t dr d' ∧
        d'.regs.pc = dr.regs.pc + 4 ∧ d'.regs.x = dr.regs.x ∧ d'.mem.accs = dr.mem.accs ++ l ∧ (∀ a, a ∈ l → a.kind = .fence ∧ a.scope = sc.toNat) ∧
        (l.map fun a => (a.acq, a.rel)) = (if o.getLsbD 0 then [(true, false)] else []) ++ (if o.getLsbD 1 then [(false, true)] else [])) ∧
    (dr.queues.mbx ≠ [] ∨ dr.queues.act ≠ [] ∨ dr.queues.inq ≠ [] → Jumped s dr .sleep (dr.regs.pc + 4)) ∧
    (dr.hold = .idle → dr.queues.mbx = [] → dr.queues.act = [] → dr.queues.inq = [] →
      ∃ t d', exec .sleep s = .next t ∧ t.cur? = some d' ∧ d'.hold = .sleep ∧ d'.regs = dr.regs) ∧
    (dr.mem.accs = [] →
      ∃ t d', exec .iflush s = .next t ∧ t.cur? = some d' ∧ Rest s t dr d' ∧ d'.regs.pc = dr.regs.pc + 4 ∧
        d'.regs.x = dr.regs.x ∧ d'.mem.icache = [])

/-- R72, R74, R121 to R124: the system instructions, those that trap and those that complete. -/
def Obligations.SystemInstructions : Prop := SystemTraps ∧ SystemResults

/-- R11 to R13, R125: what MFC reads of the registers of a task and of a steward core; a number that names no register
traps ILLEGAL, and a steward register in task mode PRIV, in that order. -/
def Sys2Proof.Claims.ControlReads : Prop :=
  ∀ (s : State) (dr : Drover) (d : BitVec 5), Ready0 s dr d →
    (∀ t, s.chip.task? s.focus = some t →
      Wrote s dr (.mfc d 0) d (BitVec.ofNat 64 t.taskid) 0 4 ∧ Wrote s dr (.mfc d 1) d (BitVec.ofNat 64 t.exp) 0 4) ∧
    (dr.steward = false → Wrote s dr (.mfc d 2) d (BitVec.ofNat 64 (dr.core.getD 0)) 0 4) ∧
    (∀ t v, s.chip.task? s.focus = some t → s.chip.caravan? t.caravan = some v →
      Wrote s dr (.mfc d 3) d (BitVec.ofNat 64 ((v.members.length - 1) * 16 + t.index)) 0 4 ∧
      Wrote s dr (.mfc d 4) d (BitVec.ofNat 64 v.prio) 0 4 ∧ Wrote s dr (.mfc d 5) d (groupsWord t.groups) 0 4) ∧
    Wrote s dr (.mfc d 21) d (BitVec.ofNat 64 dr.pendingBits) 0 4 ∧
    Wrote s dr (.mfc d 8) d (BitVec.ofNat 64 s.cycle) 0 4 ∧ Wrote s dr (.mfc d 9) d dr.ctl.instret 0 4 ∧
    Wrote s dr (.mfc d 10) d dr.ctl.govhold 0 4 ∧ Wrote s dr (.mfc d 16) d (dr.ctl.fflags.setWidth 64) 0 4 ∧
    Wrote s dr (.mfc d 17) d (dr.ctl.qpeer.setWidth 64) 0 4 ∧ Wrote s dr (.mfc d 18) d (dr.ctl.yieldth.setWidth 64) 0 4 ∧
    Wrote s dr (.mfc d 19) d (dr.ctl.arm.setWidth 64) 0 4 ∧ Wrote s dr (.mfc d 20) d (dr.ctl.ovr.setWidth 64) 0 4 ∧
    (dr.steward = true →
      Wrote s dr (.mfc d 0x100) d 1 0 4 ∧ Wrote s dr (.mfc d 0x101) d (dr.stew.trapcause.setWidth 64) 0 4 ∧
      Wrote s dr (.mfc d 0x102) d dr.stew.trappc 0 4 ∧ Wrote s dr (.mfc d 0x103) d dr.stew.trapval 0 4 ∧
      Wrote s dr (.mfc d 0x104) d dr.stew.traprec 0 4 ∧
      Wrote s dr (.mfc d 0x105) d (dr.stew.ptroot.setWidth 64 * 4096) 0 4 ∧
      Wrote s dr (.mfc d 0x106) d dr.stew.scratch 0 4) ∧
    (dr.steward = false → ∀ n : BitVec 9, 0x100 ≤ n.toNat → n.toNat ≤ 0x106 → Trapped s dr (.mfc d n) 0x14 dr.regs.pc 0) ∧
    (∀ n : BitVec 9, n.toNat = 6 ∨ n.toNat = 7 ∨ (11 ≤ n.toNat ∧ n.toNat ≤ 15) ∨ (22 ≤ n.toNat ∧ n.toNat ≤ 0xFF) ∨
      0x107 ≤ n.toNat → Trapped s dr (.mfc d n) 1 dr.regs.pc 0)

/-- R11 to R13, R125: what MTC writes: FFLAGS and QPEER keep their low bits, YIELDTH is at least 1,024, bits set in the
source clear INBOXOVR, and a steward core's registers; read-only and absent registers trap ILLEGAL, steward registers in
task mode PRIV. -/
def Sys2Proof.Claims.ControlWrites : Prop :=
  ∀ (s : State) (dr : Drover) (a : BitVec 5) (x : Word), Reads1 s dr a x →
    (∃ t d', exec (.mtc a 16) s = .next t ∧ t.cur? = some d' ∧ d'.ctl = { dr.ctl with fflags := x.setWidth 5, instret := dr.ctl.instret + 1 } ∧
      d'.regs = { dr.regs with pc := dr.regs.pc + 4 } ∧ d'.stew = dr.stew) ∧
    (∃ t d', exec (.mtc a 17) s = .next t ∧ t.cur? = some d' ∧ d'.ctl = { dr.ctl with qpeer := x.setWidth 4, instret := dr.ctl.instret + 1 } ∧
      d'.regs = { dr.regs with pc := dr.regs.pc + 4 } ∧ d'.stew = dr.stew) ∧
    (∃ t d', exec (.mtc a 18) s = .next t ∧ t.cur? = some d' ∧ d'.ctl = { dr.ctl with instret := dr.ctl.instret + 1, yieldth := if (x.setWidth 48).toNat < 1024 then 1024 else x.setWidth 48 } ∧
      d'.regs = { dr.regs with pc := dr.regs.pc + 4 } ∧ d'.stew = dr.stew) ∧
    (∃ t d', exec (.mtc a 20) s = .next t ∧ t.cur? = some d' ∧ d'.ctl = { dr.ctl with ovr := dr.ctl.ovr &&& ~~~(x.setWidth 4), instret := dr.ctl.instret + 1 } ∧
      d'.regs = { dr.regs with pc := dr.regs.pc + 4 } ∧ d'.stew = dr.stew) ∧
    (dr.armStall 19 x = none →
      ∃ t d', exec (.mtc a 19) s = .next t ∧ t.cur? = some d' ∧
        d'.ctl = { dr.ctl with arm := x.setWidth 4, instret := dr.ctl.instret + 1 } ∧
        d'.regs = { dr.regs with pc := dr.regs.pc + 4 } ∧ d'.stew = dr.stew ∧
        (∀ k, k < 4 → dr.ctl.arm.getLsbD k = false → x.getLsbD k = true → look d'.board.pend (24 + k) = some .inbox) ∧
        (∀ k, k < 4 → dr.ctl.arm.getLsbD k = true → x.getLsbD k = false → look d'.board.pend (24 + k) = none)) ∧
    (dr.steward = true → ∀ (n : BitVec 9) (st : Stew),
      (n = 0x102 ∧ st = { dr.stew with trappc := x }) ∨ (n = 0x103 ∧ st = { dr.stew with trapval := x }) ∨
        (n = 0x105 ∧ st = { dr.stew with ptroot := x.extractLsb' 12 45 }) ∨ (n = 0x106 ∧ st = { dr.stew with scratch := x }) →
      ∃ t d', exec (.mtc a n) s = .next t ∧ t.cur? = some d' ∧ d'.stew = st ∧
        d'.regs = { dr.regs with pc := dr.regs.pc + 4 }) ∧
    (dr.steward = false → ∀ n : BitVec 9, n = 0x102 ∨ n = 0x103 ∨ n = 0x105 ∨ n = 0x106 →
      Trapped s dr (.mtc a n) 0x14 dr.regs.pc 0) ∧
    (∀ n : BitVec 9, n.toNat < 16 ∨ (21 ≤ n.toNat ∧ n.toNat ≤ 0x101) ∨ n.toNat = 0x104 ∨ 0x107 ≤ n.toNat →
      Trapped s dr (.mtc a n) 1 dr.regs.pc 0)

/-- R11 to R13, R125: MFC and MTC over every control register of a task and of a steward core. -/
def Obligations.ControlRegisters : Prop := ControlReads ∧ ControlWrites

namespace Sys2Proof.Claims

/-- The drover in focus issues instruction i of four bytes, and P holds of what it leaves: the pc moves on by 4, the
instruction is counted, predicates, descriptor registers and control registers keep their values. -/
def Goes (s : State) (dr : Drover) (i : Instr) (P : State → Drover → Prop) : Prop :=
  ∃ t d', exec i s = .next t ∧ t.cur? = some d' ∧ t.cycle = s.cycle ∧ t.focus = s.focus ∧ d'.regs.pc = dr.regs.pc + 4 ∧
    d'.regs.p = dr.regs.p ∧ d'.regs.d = dr.regs.d ∧ d'.ctl = { dr.ctl with instret := dr.ctl.instret + 1 } ∧ P t d'

/-- And x[d] is v, other scalar registers as before; a write of x0 is discarded. -/
def Gives (s : State) (dr : Drover) (i : Instr) (d : BitVec 5) (v : Word) (P : State → Drover → Prop) : Prop :=
  Goes s dr i fun t d' =>
    (∀ r : BitVec 5, r.toNat < 28 → d'.regs.getX r = if r = d ∧ r ≠ 0 then v else dr.regs.getX r) ∧ P t d'

/-- Nothing more is said. -/
def any (_ : State) (_ : Drover) : Prop := True

/-- The FAIL word of a group operation with a reason (R147). -/
def refusal (reason : Nat) : Word := BitVec.ofNat 64 (2 ^ 62 + reason)

/-- A phase of a group is under way (R147). -/
def underWay (g : Group) : Prop := g.arrived ≠ 0 ∨ g.waiters ≠ [] ∨ g.deferred ≠ 0

end Sys2Proof.Claims

/-! ## Stalls, queue ports and stewards -/

/-- R16, R17: an instruction whose source is pending, or names a read port with too few entries, waits, and so does one
whose destination is pending or whose queue is full; nothing changes. -/
def Sys2Proof.Claims.OperandStalls : Prop :=
  ∀ (s : State) (dr : Drover) (d a b : BitVec 5) (w p : BitVec 1) (z o r : BitVec 2) (f : BitVec 12) (k : BitVec 3)
    (n : BitVec 9) (x : Word), s.cur? = some dr →
    (dr.srcStall [a, b] ≠ none →
      Waits s dr (.add d a b w) ∧ Waits s dr (.mul d a b w) ∧ Waits s dr (.div d a b w) ∧ Waits s dr (.ceq k a b w) ∧
      Waits s dr (.fadd d a b p r) ∧ Waits s dr (.amoAdd d a b k o)) ∧
    (dr.srcStall [a] ≠ none → Waits s dr (.ld d a z o f) ∧ Waits s dr (.jalr d a) ∧ Waits s dr (.mtc a n)) ∧
    (dr.dstStall d ≠ none → Waits s dr (.mfc d n)) ∧
    (Reads1 s dr a x → dr.dstStall d ≠ none → Waits s dr (.addi d a 0) ∧ Waits s dr (.ld d a z o f))

/-- R9, R18: a read of x28, x29 or x31 pops the oldest entry of its queue, each source by itself; a register that holds a
late error traps with that error, and holds it no more. -/
def Sys2Proof.Claims.PortReads : Prop :=
  ∀ (s : State) (dr : Drover) (d : BitVec 5) (e f : QEntry) (q : List QEntry), Ready0 s dr d → d.toNat < 28 →
    dr.board.pend = [] →
    (dr.queues.mbx = e :: q → Gives s dr (.addi d 28 0) d e.val fun _ d' => d'.queues.mbx = q ∧ d'.queues.act = dr.queues.act) ∧
    (dr.queues.act = e :: q → Gives s dr (.addi d 29 0) d e.val fun _ d' => d'.queues.act = q ∧ d'.queues.mbx = dr.queues.mbx) ∧
    (dr.queues.inq = e :: q → Gives s dr (.addi d 31 0) d e.val fun _ d' => d'.queues.inq = q ∧ d'.queues.mbx = dr.queues.mbx) ∧
    (dr.queues.mbx = e :: f :: q → Gives s dr (.sub d 28 28 0) d (e.val - f.val) fun _ d' => d'.queues.mbx = q) ∧
    (∀ (a : BitVec 5) (l : LateErr), a.toNat < 28 → look dr.board.late a.toNat = some l →
      Trapped s dr (.addi d a 0) l.cause dr.regs.pc l.val ∧
      ∀ t d', exec (.addi d a 0) s = .next t → t.cur? = some d' → look d'.board.late a.toNat = none)

/-- R155: QSEL writes QPEER, QLEN the entries of a queue or the room of the outbound one, QPEEK the oldest entry, which
stays; an empty queue holds it. -/
def Sys2Proof.Claims.QueuePorts : Prop :=
  ∀ (s : State) (dr : Drover) (d a : BitVec 5) (x : Word) (e : QEntry) (r : List QEntry),
    (Reads1 s dr a x → ∃ t d', exec (.qsel a) s = .next t ∧ t.cur? = some d' ∧ d'.ctl.qpeer = x.setWidth 4 ∧
      d'.regs = { dr.regs with pc := dr.regs.pc + 4 }) ∧
    (Ready0 s dr d →
      Wrote s dr (.qlen d 0) d (BitVec.ofNat 64 dr.queues.mbx.length) 0 4 ∧
      Wrote s dr (.qlen d 1) d (BitVec.ofNat 64 dr.queues.act.length) 0 4 ∧
      Wrote s dr (.qlen d 2) d (BitVec.ofNat 64 dr.queues.inq.length) 0 4 ∧
      Wrote s dr (.qlen d 3) d (BitVec.ofNat 64 (16 - (lookD dr.queues.outq dr.ctl.qpeer.toNat []).length)) 0 4 ∧
      (dr.queues.mbx = e :: r → Wrote s dr (.qpeek d 0) d e.val 0 4) ∧
      (dr.queues.act = e :: r → Wrote s dr (.qpeek d 1) d e.val 0 4) ∧
      (dr.queues.inq = e :: r → Wrote s dr (.qpeek d 2) d e.val 0 4) ∧
      (dr.queues.mbx = [] → Waits s dr (.qpeek d 0)))

/-- R9, R18, R155: reads of the queue ports, and the queue instructions. -/
def Obligations.QueueReads : Prop := PortReads ∧ QueuePorts

/-- R121, R324: a steward's ERET ends its current record, and without one goes on; a held task that the record names
goes on at TRAPPC, with registers and predicates from the record, and those that were pending when it was taken kept.
HALT stops the core. -/
def Obligations.StewardReturns : Prop :=
  ∀ (s : State) (dr : Drover), s.cur? = some dr → dr.steward = true →
    (s.chip.traps.current[dr.core.getD 0]? ≠ none → ∃ t, exec .eret s = .next t ∧ t.cur? = some (dr.retire 4) ∧
      t.chip.traps.current[dr.core.getD 0]? = some none) ∧
    (∀ (r : Record) (u v : Nat) (ta : Task) (du : Drover), s.chip.traps.current[dr.core.getD 0]? = some (some r) →
      r.heldFlag = true → r.task = some u → u ≠ s.focus → s.chip.task? u = some ta → ta.alive = true →
      s.chip.drover? u = some du → du.held = true → du.core = some v →
      ∃ t d', exec .eret s = .next t ∧ t.chip.drover? u = some d' ∧ d'.regs.pc = dr.stew.trappc ∧ d'.held = false ∧
        d'.trap = none ∧ t.chip.traps.current[dr.core.getD 0]? = some none ∧
        ∀ n : BitVec 5, 0 < n.toNat → n.toNat < 28 → d'.regs.getX n =
          if r.pending.getLsbD n.toNat then du.regs.getX n
          else BitVec.ofNat 64 (natOfBytes (s.chip.homes.bytesLong (r.addr + (64 + 8 * n.toNat)) 8))) ∧
    (∃ t d', exec .halt s = .next t ∧ t.cur? = some d' ∧ d'.run = .halted ∧ d'.regs.x = dr.regs.x ∧
      d'.regs.pc = dr.regs.pc + 4)

/-! ## Groups (R146 to R153) -/

/-- R147, R149: GARRIVE posts an arrival and gives 0, GBAR posts one that waits and leaves its register pending, GWAIT
gives the result of a phase that is complete and is otherwise kept as a waiter; each refusal with its reason. -/
def Sys2Proof.Claims.GroupArrivals : Prop :=
  ∀ (s : State) (dr d1 : Drover) (d a : BitVec 5) (x : Word) (sc : BitVec 3) (o : BitVec 2) (m : Member) (w : Word),
    Ready1d s dr d1 d a x →
    (256 ≤ x.toNat → Gives s dr (.garrive d a sc o) d (refusal 1) any ∧ Gives s dr (.gbar d a sc o) d (refusal 1) any ∧
      Gives s dr (.gwait d a sc o) d (refusal 1) any) ∧
    (x.toNat < 256 → look dr.members x.toNat = none →
      Gives s dr (.garrive d a sc o) d (refusal 2) any ∧ Gives s dr (.gbar d a sc o) d (refusal 2) any ∧
      Gives s dr (.gwait d a sc o) d (refusal 2) any) ∧
    (x.toNat < 256 → look dr.members x.toNat = some m →
      (m.arrived = true → Gives s dr (.garrive d a sc o) d (refusal 3) any ∧ Gives s dr (.gbar d a sc o) d (refusal 3) any) ∧
      (m.arrived = false → Gives s dr (.gwait d a sc o) d (refusal 4) any) ∧
      (m.arrived = false → dr.writesHeld < 32 →
        (Gives s dr (.garrive d a sc o) d 0 fun _ d' => ∃ (e : Access), d'.mem.accs = d1.mem.accs ++ [e] ∧
          e.kind = .arrive x.toNat false ∧ e.rel = o.getLsbD 1 ∧ e.scope = sc.toNat ∧ e.phase = .queued ∧
          (look d'.members x.toNat).map (·.arrived) = some true) ∧
        (Goes s dr (.gbar d a sc o) fun _ d' => ∃ (e w : Access), d'.mem.accs = d1.mem.accs ++ [e, w] ∧ d'.regs.x = dr.regs.x ∧
          e.kind = .arrive x.toNat true ∧ e.rel = o.getLsbD 1 ∧ e.scope = sc.toNat ∧ e.phase = .queued ∧ w.kind = .phase x.toNat ∧
          w.acq = o.getLsbD 0 ∧ (d ≠ 0 → look d'.board.pend d.toNat = some (.group x.toNat)))) ∧
      (m.arrived = true → m.freed = true → Gives s dr (.gwait d a sc o) d (refusal 1) any) ∧
      (m.arrived = true → m.freed = false → m.result = some w →
        Gives s dr (.gwait d a sc o) d w fun _ d' => (look d'.members x.toNat).map (·.arrived) = some false) ∧
      (m.arrived = true → m.freed = false → m.result = none → ∀ g, s.chip.group? dr.exp x.toNat = some g →
        Goes s dr (.gwait d a sc o) fun t d' => d'.regs.x = dr.regs.x ∧
          (d ≠ 0 → look d'.board.pend d.toNat = some (.group x.toNat)) ∧
          (t.chip.group? dr.exp x.toNat).map (·.waiters) = some (g.waiters ++
            [({ u := s.focus, rd := d.toNat, acq := o.getLsbD 0, scope := sc.toNat } : PhaseWait)])))

/-- R147, R150: GSET, GINFO, GALLOC and GFREE on the group table of the drover's expedition; GFREE's result shows DEPARTED. -/
def Sys2Proof.Claims.GroupTable : Prop :=
  ∀ (s : State) (dr d1 : Drover) (d a b : BitVec 5) (x y : Word) (e : Nat), s.chip.groupExp dr = some e →
    (Ready2d s dr d1 d a b x y →
      (256 ≤ x.toNat ∨ s.chip.group? e x.toNat = none → Gives s dr (.gset d a b) d (refusal 1) any) ∧
      (∀ g, x.toNat < 256 → s.chip.group? e x.toNat = some g →
        (y.toNat = 0 ∨ 65535 < y.toNat → Gives s dr (.gset d a b) d (refusal 6) any) ∧
        (0 < y.toNat → y.toNat ≤ 65535 → underWay g → Gives s dr (.gset d a b) d (refusal 5) any) ∧
        (0 < y.toNat → y.toNat ≤ 65535 → ¬ underWay g →
          Gives s dr (.gset d a b) d 0 fun t _ => ∃ h, t.chip.group? e x.toNat = some h ∧ h.count = y.toNat ∧
            h.departed = 0 ∧ h.depFlag = false ∧ h.phase = g.phase))) ∧
    (Ready1d s dr d1 d a x →
      (256 ≤ x.toNat ∨ s.chip.group? e x.toNat = none →
        Gives s dr (.ginfo d a) d (BitVec.allOnes 64) any ∧ Gives s dr (.gfree d a) d (refusal 1) any) ∧
      (∀ g, x.toNat < 256 → s.chip.group? e x.toNat = some g →
        Gives s dr (.ginfo d a) d (BitVec.ofNat 64 (g.count % 65536 * 2 ^ 48 + g.arrived % 65536 * 2 ^ 32 +
          g.departed * 2 ^ 16 + g.phase.toNat % 65536)) any ∧
        (underWay g → Gives s dr (.gfree d a) d (refusal 5) any) ∧
        (¬ underWay g → Gives s dr (.gfree d a) d (BitVec.ofNat 64 (b2n g.depFlag * 2 ^ 63)) fun t _ => t.chip.group? e x.toNat = none)) ∧
      (x.toNat = 0 ∨ 65535 < x.toNat → Gives s dr (.galloc d a) d (refusal 6) any) ∧
      (∀ ex n, 0 < x.toNat → x.toNat ≤ 65535 → s.chip.exp? e = some ex → n < 256 → look ex.groups n = none →
        (∀ j, j < n → look ex.groups j ≠ none) →
        Gives s dr (.galloc d a) d (BitVec.ofNat 64 n) fun t _ => ∃ g, t.chip.group? e n = some g ∧ g.count = x.toNat ∧
          g.arrived = 0 ∧ g.phase = 0 ∧ g.departed = 0 ∧ g.depFlag = false) ∧
      (∀ ex, 0 < x.toNat → x.toNat ≤ 65535 → s.chip.exp? e = some ex → (∀ j, j < 256 → look ex.groups j ≠ none) →
        Trapped s dr (.galloc d a) 0x0F dr.regs.pc 0))

/-- R147, R149, R150: arrivals and waits of a group, and the group table. -/
def Obligations.GroupCommands : Prop := GroupArrivals ∧ GroupTable

/-- R151, R152: GCOLL reads its block of 64 bytes; a block that breaks R151 gives BADPARAM; otherwise it contributes
and holds, and the answer, when it has come, is its result. -/
def Obligations.CollectiveResults : Prop :=
  ∀ (s : State) (dr d1 : Drover) (d a b : BitVec 5) (x y : Word) (sc : BitVec 3) (m : Member) (p : List Byte) (c : Chip)
    (g : Group),
    (Ready2d s dr d1 d a b x y → dr.hold = .idle →
      (256 ≤ x.toNat → Gives s dr (.gcoll d a b sc) d (refusal 1) any) ∧
      (x.toNat < 256 → look dr.members x.toNat = none → Gives s dr (.gcoll d a b sc) d (refusal 2) any) ∧
      (x.toNat < 256 → look dr.members x.toNat = some m → m.arrived = true → Gives s dr (.gcoll d a b sc) d (refusal 3) any) ∧
      (x.toNat < 256 → look dr.members x.toNat = some m → m.arrived = false →
        (y.toNat % 64 ≠ 0 → Trapped s dr (.gcoll d a b sc) 2 dr.regs.pc y) ∧
        (y.toNat % 64 = 0 → dr.writesInto y.toNat 64 = false →
          s.chip.readBlock (blockAgent s.focus) s.focus dr y.toNat 64 = .ok p c →
          (collBad p = true → Gives s dr (.gcoll d a b sc) d (refusal 7) any) ∧
          (collBad p = false → (c.dropFar (blockAgent s.focus)).collFault s.focus dr p = none → dr.collBusy p = false →
            (c.dropFar (blockAgent s.focus)).group? dr.exp x.toNat = some g →
            ∃ t d', exec (.gcoll d a b sc) s = .next t ∧ t.cur? = some d' ∧ d'.hold = .waiting ∧ d'.regs = dr.regs ∧
              (t.chip.group? dr.exp x.toNat).map (·.arrived) = some (g.arrived + 1))))) ∧
    (s.cur? = some dr → d.toNat < 28 → ∀ w, dr.hold = .result w → dr.read2 s.focus a b = .ok (x, y, d1) →
      Gives s dr (.gcoll d a b sc) d w any) ∧
    (s.cur? = some dr → dr.hold = .waiting → Waits s dr (.gcoll d a b sc))

namespace Sys2Proof.Claims

/-- A task's drover in focus, in serai n (R158: engine commands). -/
def InSerai (s : State) (dr : Drover) (n : Nat) : Prop := s.cur? = some dr ∧ dr.steward = false ∧ dr.core = some n

/-- And its result register is x0 to x27 and free. -/
def Cmd (s : State) (dr : Drover) (n : Nat) (d : BitVec 5) : Prop :=
  InSerai s dr n ∧ dr.dstStall d = none ∧ d.toNat < 28

/-- A status word (R160). -/
def status (code detail : Nat) : Word := BitVec.ofNat 64 (detail % 256 * 256 + code)

/-- A descriptor register that holds a value: neither pending nor poisoned (R18, R118). -/
def descHolds (dr : Drover) (b : BitVec 4) : Prop := look dr.board.dpend b.toNat = none ∧ look dr.board.dbad b.toNat = none

/-- A block of memory read whole at an address aligned as asked, by the drover in focus (R158). -/
def BlockIs (s : State) (c c' : Chip) (dr : Drover) (va : Word) (n align : Nat) (b : List Byte) : Prop :=
  va.toNat % align = 0 ∧ dr.writesInto va.toNat n = false ∧
    ∃ c1, c.readBlock (blockAgent s.focus) s.focus dr va.toNat n = .ok b c1 ∧ c' = c1.dropFar (blockAgent s.focus)

end Sys2Proof.Claims

/-! ## Streams and copies (R162 to R170) -/

/-- R163: SOPEN checks condition, mode, descriptor and the porter's sides, in that order, and opens the stream; the sticky
flags and the count start at 0. -/
def Sys2Proof.Claims.StreamOpens : Prop :=
  ∀ (s : State) (dr d1 : Drover) (n : Nat) (d : BitVec 5) (p : BitVec 3) (b : BitVec 4) (mode : Word) (q : Porter),
    Cmd s dr n d → dr.readX s.focus d = .ok (mode, d1) → descHolds dr b → q = (s.chip.serai n).porter p.toNat →
    (q.cond ≠ 0 → Gives s dr (.sopen d p b) d (status 1 0) any) ∧
    (q.cond = 0 → 4 ≤ mode.toNat ∨ mode.toNat = 2 → Gives s dr (.sopen d p b) d (status 20 0) any) ∧
    (q.cond = 0 → mode.toNat < 4 → mode.toNat ≠ 2 →
      (∀ k l, (descOf (dr.regs.getD b)).check = some (k, l) → Gives s dr (.sopen d p b) d (status k l) any) ∧
      ((descOf (dr.regs.getD b)).check = none → ∀ src snk, s.chip.porterSides s.focus p.toNat q = (src, snk) →
        ((src && decide (mode.toNat % 2 = 1)) = true ∨ (snk && decide (mode.toNat % 2 = 0)) = true →
          Gives s dr (.sopen d p b) d (status 22 0) any) ∧
        ((src && decide (mode.toNat % 2 = 1)) = false → (snk && decide (mode.toNat % 2 = 0)) = false →
          Gives s dr (.sopen d p b) d 0 fun t _ => ∃ q', (t.chip.serai n).porter p.toNat = q' ∧ q'.cond = 1 ∧
            q'.dir = decide (mode.toNat % 2 = 1) ∧ q'.setTag = decide (mode.toNat = 3) ∧ q'.desc = dr.regs.getD b ∧
            q'.count = 0 ∧ q'.fcause = 0 ∧ q'.aflags = 0 ∧ q'.oob = false ∧ q'.ragged = false ∧ q'.noscale = false ∧
            q'.fmtmix = false ∧ q'.buf = [])))

/-- R164 to R167: SCLOSE by the porter's condition; SBAR, which completes when the streams and copies that its mask selects
have, and holds otherwise; SSTAT's word; SLINK of a reading and a writing porter that are free. -/
def Sys2Proof.Claims.StreamCommands : Prop :=
  ∀ (s : State) (dr : Drover) (n : Nat) (d : BitVec 5) (p a b k sc : BitVec 3) (q x y : Porter), Cmd s dr n d →
    q = (s.chip.serai n).porter p.toNat → x = (s.chip.serai n).porter a.toNat → y = (s.chip.serai n).porter b.toNat →
    (q.cond = 3 → Gives s dr (.sclose d p) d 0 fun t _ => ((t.chip.serai n).porter p.toNat).cond = 0) ∧
    (q.cond = 0 ∨ q.cond = 2 → Gives s dr (.sclose d p) d (status 1 0) any) ∧
    (q.cond = 1 → Gives s dr (.sclose d p) d 0 fun t _ => ((t.chip.serai n).porter p.toNat).cond = 2 ∧
      (q.dir = false → ((t.chip.serai n).porter p.toNat).buf = [Token.eot])) ∧
    (dr.hold = .idle → ∀ ids cps, ids = (s.chip.serai n).selected k.toNat →
      cps = (if k.getLsbD 2 then (s.chip.serai n).copyIds else []) →
      ((∀ j, j ∈ ids → (s.chip.serai n).streamDone j = true) → (∀ j, j ∈ cps → (s.chip.serai n).copyDone j = true) →
        Goes s dr (.sbar k sc) fun t d' => d'.regs.x = dr.regs.x ∧ t.chip.serais = s.chip.serais) ∧
      ((∃ j, j ∈ ids ∧ (s.chip.serai n).streamDone j = false) → ∃ t d', exec (.sbar k sc) s = .next t ∧
        t.cur? = some d' ∧ d'.hold = .sbar ids cps sc.toNat ∧ d'.regs = dr.regs)) ∧
    Gives s dr (.sstat d p) d (BitVec.ofNat 64 (q.count.toNat * 2 ^ 32 + q.fcause.toNat * 2 ^ 24 + b2n q.fmtmix * 2 ^ 19 +
      b2n q.noscale * 2 ^ 18 + b2n q.ragged * 2 ^ 17 + b2n q.oob * 2 ^ 16 + q.aflags.toNat * 2 ^ 8 + b2n q.dir * 8 + q.cond))
      (fun t _ => t.chip.serais = s.chip.serais) ∧
    (a ≠ b → s.chip.porterFree s.focus a.toNat x = true → s.chip.porterFree s.focus b.toNat y = true →
      x.isReading = true → y.dir = true → y.cond = 1 → x.passed = false → y.passed = false →
      Gives s dr (.slink d a b) d 0 fun t _ => ((t.chip.serai n).porter a.toNat).link = some b.toNat ∧
        ((t.chip.serai n).porter b.toNat).link = some a.toNat) ∧
    (a = b ∨ s.chip.porterFree s.focus a.toNat x = false ∨ s.chip.porterFree s.focus b.toNat y = false ∨
      x.isReading = false ∨ y.dir = false ∨ y.cond ≠ 1 ∨ x.passed = true ∨ y.passed = true →
      Gives s dr (.slink d a b) d (status 22 0) fun t _ => t.chip.serais = s.chip.serais)

/-- R163 to R167: opening, closing and asking streams. -/
def Obligations.Streams : Prop := StreamOpens ∧ StreamCommands

/-- R168 to R170: COPY with a block that the template cache holds as memory does: a misaligned one traps; a faulty one
is refused with BADPARAM; an accepted copy leaves its register pending on it; a channel of eight copies holds the
command. CPFLUSH empties the cache; CPSTAT counts templates and copies. -/
def Obligations.CopyCommands : Prop :=
  ∀ (s : State) (dr d1 : Drover) (n : Nat) (d a b : BitVec 5) (x y : Word) (sc : BitVec 3) (blk : List Byte),
    Cmd s dr n d →
    (Ready2d s dr d1 d a b x y → x.toNat % 64 ≠ 0 → Trapped s dr (.copy d a b sc) 2 dr.regs.pc x) ∧
    (Ready2d s dr d1 d a b x y → x.toNat % 64 = 0 → look (s.chip.serai n).copy.templates x.toNat = some blk →
      s.chip.templateStands s.focus dr x.toNat blk = true → ((s.chip.serai n).copy.jobs (byteAt blk 0 / 32 % 2)).length < 8 →
      (copyBad blk = true → Gives s dr (.copy d a b sc) d (status 21 0) any) ∧
      (∀ id c', s.chip.acceptCopy n s.focus (d1.tick s.focus) blk y sc.toNat d.toNat none = .accepted id c' →
        Goes s dr (.copy d a b sc) fun t d' => d'.regs.x = dr.regs.x ∧ t.chip.serais = c'.serais ∧
          (d ≠ 0 → look d'.board.pend d.toNat = some (.copy (byteAt blk 0 / 32 % 2) id)))) ∧
    (Ready2d s dr d1 d a b x y → x.toNat % 64 = 0 → look (s.chip.serai n).copy.templates x.toNat = some blk →
      s.chip.templateStands s.focus dr x.toNat blk = true → 8 ≤ ((s.chip.serai n).copy.jobs (byteAt blk 0 / 32 % 2)).length →
      Waits s dr (.copy d a b sc)) ∧
    (Goes s dr .cpflush fun t d' => d'.regs.x = dr.regs.x ∧ (t.chip.serai n).copy.templates = [] ∧
      (t.chip.serai n).copy.ch = (s.chip.serai n).copy.ch) ∧
    Gives s dr (.cpstat d) d (BitVec.ofNat 64 ((s.chip.serai n).copy.templates.length * 2 ^ 16 +
      ((s.chip.serai n).copy.jobs 1).length * 2 ^ 8 + ((s.chip.serai n).copy.jobs 0).length)) fun t _ => t.chip.serais = s.chip.serais

/-! ## Wing instructions (R171 to R178) -/

/-- R171, R172: PGLOAD and PGCAST: a misaligned image traps, a quarter with a firing in it holds the command, and each
refusal has its status; PGLOAD leaves the page in its quarter. -/
def Sys2Proof.Claims.PageLoads : Prop :=
  ∀ (s : State) (dr d1 : Drover) (n : Nat) (d a b : BitVec 5) (q : BitVec 2) (x y : Word) (img blk del : List Byte)
    (c c2 c4 : Chip), Cmd s dr n d → dr.hold = .idle →
    (Ready1d s dr d1 d b x → x.toNat % 64 ≠ 0 → Trapped s dr (.pgload d q b) 2 dr.regs.pc x) ∧
    (Ready1d s dr d1 d b x → x.toNat % 64 = 0 → 2 ≤ (s.chip.serai n).condition q.toNat → Waits s dr (.pgload d q b)) ∧
    (Ready1d s dr d1 d b x → (s.chip.serai n).condition q.toNat < 2 → BlockIs s s.chip c dr x 4096 64 img →
      (∀ k l, checkPage img = some (k, l) → Gives s dr (.pgload d q b) d (status k l) any) ∧
      (checkPage img = none → look (c.serai n).pages (pageImage img).pageid ≠ none →
        Gives s dr (.pgload d q b) d (status 23 0) any) ∧
      (checkPage img = none → look (c.serai n).pages (pageImage img).pageid = none → 64 ≤ (c.serai n).pages.length →
        Gives s dr (.pgload d q b) d (status 24 0) any) ∧
      (checkPage img = none → look (c.serai n).pages (pageImage img).pageid = none → (c.serai n).pages.length < 64 →
        Gives s dr (.pgload d q b) d 0 fun t _ => ∃ g, look (t.chip.serai n).pages (pageImage img).pageid = some g ∧
          g.quarter = some q.toNat ∧ g.cells = (pageImage img).cells)) ∧
    (Ready2d s dr d1 d a b x y → x.toNat % 64 ≠ 0 → Trapped s dr (.pgcast d a b) 2 dr.regs.pc x) ∧
    (Ready2d s dr d1 d a b x y → x.toNat % 64 = 0 → BlockIs s s.chip c dr y 64 64 blk →
      (castBad blk = true → Gives s dr (.pgcast d a b) d (status 21 0) any) ∧
      (castBad blk = false →
        (c.castTo s.focus (byteAt blk 1)).all (fun p => match c.seraiOf p.2 with
          | none => false
          | some m => decide ((c.serai m).condition (byteAt blk 0) < 2)) = true →
        BlockIs s c c2 dr x 4096 64 img → ∀ c3, c2.readBlock (blockAgent s.focus) s.focus dr (field blk 8 8) (8 * byteAt blk 2) = .ok del c3 →
        c4 = c3.dropFar (blockAgent s.focus) → (imageWords del 0 8 (byteAt blk 2)).any deltaBad = false → ∀ c' m k,
        c4.castAll (byteAt blk 0) s.cycle img (imageWords del 0 8 (byteAt blk 2)) (c.castTo s.focus (byteAt blk 1)) 0 0 =
          (c', m, k) →
        Gives s dr (.pgcast d a b) d (if m = 0 then 0 else BitVec.ofNat 64 (m * 2 ^ 16 + k * 256 + 34)) fun t _ =>
          t.chip.serais = c'.serais))

/-- R173 to R175: PGBIND makes a binding, removes one, or answers BADPORTAL; PGDROP drops a page with its bindings, that of a
quarter or, with a mode word, that of a pageid; PGSTAT reads a quarter's condition, firings, page, flags and cause, or its banks. -/
def Sys2Proof.Claims.PageCommands : Prop :=
  ∀ (s : State) (dr d1 : Drover) (n : Nat) (d a b : BitVec 5) (q : BitVec 2) (x y mode : Word) (e f : Ep) (pg : Nat)
    (g : Page), Cmd s dr n d →
    (Ready2d s dr d1 d a b x y → s.chip.endpoint s.focus x.toNat = none → Gives s dr (.pgbind d a b) d (status 22 0) any) ∧
    (Ready2d s dr d1 d a b x y → s.chip.endpoint s.focus x.toNat = some e →
      (s.chip.bindSource e = false → Gives s dr (.pgbind d a b) d (status 22 0) any) ∧
      (s.chip.bindSource e = true → y.toNat = 0xF0000000 →
        Gives s dr (.pgbind d a b) d 0 fun t _ => t.chip.sinkOf e = none) ∧
      (s.chip.bindSource e = true → y.toNat ≠ 0xF0000000 → s.chip.endpoint s.focus y.toNat = none →
        Gives s dr (.pgbind d a b) d (status 22 0) any) ∧
      (s.chip.bindSource e = true → y.toNat ≠ 0xF0000000 → s.chip.endpoint s.focus y.toNat = some f →
        (s.chip.bindSink f = true → s.chip.boundSource e = false → s.chip.boundSink f = false →
          (e.isPorter && f.isPorter) = false →
          Gives s dr (.pgbind d a b) d 0 fun t _ => t.chip.binds = s.chip.binds ++ [(e, f)]) ∧
        (s.chip.bindSink f = false ∨ s.chip.boundSource e = true ∨ s.chip.boundSink f = true ∨
          (e.isPorter && f.isPorter) = true →
          Gives s dr (.pgbind d a b) d (status 22 0) fun t _ => t.chip.binds = s.chip.binds))) ∧
    (dr.readX s.focus d = .ok (mode, d1) →
      (257 ≤ mode.toNat ∨ (mode.toNat ≠ 0 ∧ q ≠ 0) → Gives s dr (.pgdrop d q) d (status 20 0) any) ∧
      (mode.toNat = 0 → 2 ≤ (s.chip.serai n).condition q.toNat → Waits s dr (.pgdrop d q)) ∧
      (mode.toNat = 0 → (s.chip.serai n).condition q.toNat < 2 → (s.chip.serai n).resident q.toNat = none →
        Gives s dr (.pgdrop d q) d (status 1 0) any) ∧
      (mode.toNat = 0 → (s.chip.serai n).condition q.toNat < 2 → (s.chip.serai n).resident q.toNat = some (pg, g) →
        (s.chip.serai n).pager = .idle → g.quarter = some q.toNat →
        Gives s dr (.pgdrop d q) d 0 fun t _ => look (t.chip.serai n).pages pg = none ∧
          ∀ i, t.chip.sinkOf (.portal s.focus pg i) = none) ∧
      (mode.toNat ≠ 0 → mode.toNat ≤ 256 → q = 0 →
        (look (s.chip.serai n).pages (mode.toNat - 1) = none → Gives s dr (.pgdrop d q) d (status 1 0) any) ∧
        (∀ g, look (s.chip.serai n).pages (mode.toNat - 1) = some g → g.quarter = none →
          (s.chip.serai n).pager.candidate ≠ some (mode.toNat - 1) →
          Gives s dr (.pgdrop d q) d 0 fun t _ => look (t.chip.serai n).pages (mode.toNat - 1) = none ∧
            ∀ i, t.chip.sinkOf (.portal s.focus (mode.toNat - 1) i) = none)) ∧
      (∀ k : BitVec 8, (s.chip.serai n).qcause[q.toNat]? = some k →
        (mode.toNat % 4 < 2 → (s.chip.serai n).resident q.toNat = none →
          Gives s dr (.pgstat d q) d (BitVec.ofNat 64 (k.toNat * 2 ^ 8 + (s.chip.serai n).condition q.toNat)) any) ∧
        (mode.toNat % 4 < 2 → (s.chip.serai n).resident q.toNat = some (pg, g) →
          Gives s dr (.pgstat d q) d (BitVec.ofNat 64 (g.firings.toNat * 2 ^ 48 + pg * 2 ^ 24 + g.flags * 2 ^ 16 +
            k.toNat * 2 ^ 8 + (s.chip.serai n).condition q.toNat)) fun t _ => t.chip.serais = s.chip.serais)) ∧
      (2 ≤ mode.toNat % 4 → ∃ v : Word, Gives s dr (.pgstat d q) d v (fun t _ => t.chip.serais = s.chip.serais) ∧
        v.toNat % 256 = (s.chip.serai n).condition q.toNat ∧
        ∀ i, i < 32 → (v.getLsbD (8 + i) = true ↔
          ∃ k, look (s.chip.serai n).banks (wingCell q.toNat (32 * (mode.toNat % 4 - 2) + i)) = some k ∧ k.resident = true)))

/-- R171 to R175: loading pages, and the commands about them. -/
def Obligations.Pages : Prop := PageLoads ∧ PageCommands

/-- R176 to R178: WLOAD fills a bank from a descriptor and makes it weight resident; WDROP ends that; WPOKE puts a
directive into an input portal. Their refusals in the spec's order. -/
def Obligations.WeightCommands : Prop :=
  ∀ (s : State) (dr d1 : Drover) (n : Nat) (d b : BitVec 5) (m : BitVec 4) (q : BitVec 2) (x : Word) (ds : Desc) (cell passed : Nat)
    (elems : List (Nat × Nat × Nat × Nat)) (got : List ReadChunk) (c0 : Chip) (t : TileRead), Cmd s dr n d → Ready1d s dr d1 d b x → ds = descOf (dr.regs.getD m) → cell = x.toNat % 256 →
    (descHolds dr m →
      (256 ≤ x.toNat → Gives s dr (.wload d m b) d (status 21 0) any) ∧
      (x.toNat < 256 → 2 ≤ (s.chip.serai n).condition (quarterOf cell) → Waits s dr (.wload d m b)) ∧
      (x.toNat < 256 → (s.chip.serai n).condition (quarterOf cell) < 2 →
        (∀ k l, ds.check = some (k, l) → Gives s dr (.wload d m b) d (status k l) any) ∧
        (ds.check = none → ds.badTile = true → Gives s dr (.wload d m b) d (status 25 0) any) ∧
        (ds.check = none → ds.badTile = false → (s.chip.serai n).bankUsed cell = true →
          Gives s dr (.wload d m b) d (status 1 0) any) ∧
        (ds.check = none → ds.badTile = false → (s.chip.serai n).bankUsed cell = false →
          (∀ k a, s.chip.tileFault s.focus dr ds ds.tile = some (k, a) →
            Trapped s dr (.wload d m b) k dr.regs.pc (BitVec.ofNat 64 a)) ∧
          (s.chip.tileFault s.focus dr ds ds.tile = none →
            (dr.hold = .tile passed elems got ∧ c0 = s.chip) ∨ (dr.hold = .idle ∧ passed = 0 ∧ elems = [] ∧ got = [] ∧
              c0 = s.chip.dropFar (dr.tileEnd s.focus ds.fmt).agent) →
            t = TileRead.run (dr.tileEnd s.focus ds.fmt) { ds with scaleOff := false } (ds.tile.drop passed)
              { c := c0, passed := passed, elems := elems, got := got, stands := .going } →
            (t.stands = .waits → ∃ u d', exec (.wload d m b) s = .next u ∧ u.cur? = some d' ∧ d'.hold = .tile t.passed t.elems t.got ∧
              d'.regs = dr.regs) ∧
            (∀ k a, t.stands = .bad k a → Trapped s dr (.wload d m b) k dr.regs.pc (BitVec.ofNat 64 a)) ∧
            (∀ k a, t.stands = .raced k a → Trapped s dr (.wload d m b) 0x0E dr.regs.pc (BitVec.ofNat 64 a)) ∧
            (t.stands = .lost → Gives s dr (.wload d m b) d (status 37 0) fun u _ => ∃ k, look (u.chip.serai n).banks cell = some k ∧
              k.resident = false ∧ k.fmt = none) ∧
            (t.stands = .going →
              Gives s dr (.wload d m b) d (status 0 (if t.elems.any fun e => zeroOnNan ds.fmt e.2.2.2 then 0x40 else 0))
                fun u _ => ∃ k, look (u.chip.serai n).banks cell = some k ∧ k.resident = true ∧
                  k.fmt = some (BitVec.ofNat 6 ds.fmt)))))) ∧
    (256 ≤ x.toNat → Gives s dr (.wdrop d b) d (status 21 0) any) ∧
    (x.toNat < 256 → 2 ≤ (s.chip.serai n).condition (quarterOf cell) → Waits s dr (.wdrop d b)) ∧
    (x.toNat < 256 → (s.chip.serai n).condition (quarterOf cell) = 0 → Gives s dr (.wdrop d b) d (status 1 0) any) ∧
    (x.toNat < 256 → (s.chip.serai n).condition (quarterOf cell) = 1 → s.chip.bankResident n cell = false →
      Gives s dr (.wdrop d b) d (status 26 0) any) ∧
    (x.toNat < 256 → (s.chip.serai n).condition (quarterOf cell) = 1 → s.chip.bankResident n cell = true →
      Gives s dr (.wdrop d b) d 0 fun u _ => u.chip.bankResident n cell = false) ∧
    ((s.chip.serai n).condition q.toNat = 3 → Waits s dr (.wpoke d q b)) ∧
    ((s.chip.serai n).condition q.toNat ≠ 3 → 2048 ≤ x.toNat → Gives s dr (.wpoke d q b) d (status 21 0) any) ∧
    ((s.chip.serai n).condition q.toNat ≠ 3 → x.toNat < 2048 → x.toNat % 256 = 0 ∨ 13 < x.toNat % 256 →
      Gives s dr (.wpoke d q b) d (status 12 0) any) ∧
    ((s.chip.serai n).condition q.toNat ≠ 3 → x.toNat < 2048 → 1 ≤ x.toNat % 256 → x.toNat % 256 ≤ 13 →
      ((s.chip.serai n).resident q.toNat = none → Gives s dr (.wpoke d q b) d (status 1 0) any) ∧
      (∀ pg g, (s.chip.serai n).resident q.toNat = some (pg, g) →
        (g.portalIs (x.toNat / 256) false = false → Gives s dr (.wpoke d q b) d (status 14 0) any) ∧
        (g.portalIs (x.toNat / 256) false = true → 16 ≤ (lookD g.fifos (x.toNat / 256) []).length → Waits s dr (.wpoke d q b)) ∧
        (g.portalIs (x.toNat / 256) false = true → (lookD g.fifos (x.toNat / 256) []).length < 16 →
          (∀ e, look g.entered (x.toNat / 256) = some e → e.1 = s.cycle → e.2 ≤ wpokePlace) →
          Gives s dr (.wpoke d q b) d 0 fun u _ => ∃ h o, look (u.chip.serai n).pages pg = some h ∧
            look h.fifos (x.toNat / 256) = some (lookD g.fifos (x.toNat / 256) [] ++ [o]) ∧
            o.tok = Token.directive (x.toNat % 256))))

namespace Sys2Proof.Claims

/-- R184: the argument block of SPAWN, empty where rb is x0, with the chip once it is read. -/
def SpawnBlock (s : State) (dr : Drover) (b : BitVec 5) (y : Word) (blk : List Byte) (c : Chip) : Prop :=
  (b = 0 ∧ blk = [] ∧ c = s.chip) ∨ (b ≠ 0 ∧ BlockIs s s.chip c dr y 64 64 blk)

/-- R184: watch entry i of a block, if present, is aligned and on a tagged page. -/
def WatchFits (c : Chip) (u : Nat) (dr : Drover) (blk : List Byte) (i : Nat) : Prop :=
  bitOf (byteAt blk 29) i = true → field blk (32 + 8 * i) 8 % 8 = 0 ∧
    ∃ l c2, c.engineLeaf u dr (field blk (32 + 8 * i) 8) .read = .ok l c2 ∧ l.tagged = true

/-- What the commands of the dispatch engines share (R190, R304): operands read, the issuer's earlier accesses performed. -/
def Dispatches (s : State) (dr d1 : Drover) (d a b : BitVec 5) (x y : Word) : Prop :=
  Ready2d s dr d1 d a b x y ∧ dr.released = true ∧ dr.hold = .idle

/-- R191: the shapes of the blocks of XTOPK, XBIN, XSEND, XRECV and XBIAS, and the ranges of their fields. -/
def topkShape (b : List Byte) : Prop :=
  byteAt b 1 ≤ 1 ∧ zeroBytes b 6 2 = true ∧ zeroBytes b 12 4 = true ∧ restZero b 32 = true ∧ field b 16 8 % 8 = 0 ∧ field b 24 8 % 8 = 0

/-- See `topkShape`. -/
def topkRange (b : List Byte) : Prop :=
  1 ≤ byteAt b 0 ∧ byteAt b 0 ≤ 8 ∧ 1 ≤ field b 2 2 ∧ field b 2 2 ≤ 4096 ∧ 1 ≤ field b 4 2 ∧ field b 4 2 ≤ 4096 ∧ 1 ≤ field b 8 4 ∧
    field b 8 4 ≤ 65536

/-- See `topkShape`. -/
def binShape (b : List Byte) : Prop :=
  zeroBytes b 14 2 = true ∧ restZero b 48 = true ∧ field b 0 8 % 8 = 0 ∧ field b 40 8 % 8 = 0 ∧ field b 16 8 % 4 = 0 ∧ field b 24 8 % 4 = 0 ∧
    field b 32 8 % 4 = 0

/-- See `topkShape`. -/
def binRange (b : List Byte) : Prop := 1 ≤ field b 8 4 ∧ field b 8 4 ≤ 65536 ∧ 1 ≤ field b 12 2 ∧ field b 12 2 ≤ 4096

/-- See `topkShape`. -/
def sendShape (b : List Byte) : Prop :=
  byteAt b 0 ≤ 1 ∧ zeroBytes b 1 7 = true ∧ zeroBytes b 20 4 = true ∧ restZero b 48 = true ∧ field b 8 8 % 8 = 0 ∧ field b 40 8 % 8 = 0 ∧
    field b 24 8 % 128 = 0 ∧ field b 32 8 % 2 = 0

/-- See `topkShape`. -/
def sendRange (b : List Byte) : Prop := 1 ≤ field b 16 4 ∧ field b 16 4 ≤ 65536

/-- See `topkShape`. -/
def recvShape (b : List Byte) : Prop :=
  zeroBytes b 34 6 = true ∧ restZero b 48 = true ∧ field b 8 8 % 128 = 0 ∧ field b 16 8 % 8 = 0 ∧ field b 24 8 % 4 = 0 ∧ field b 40 8 % 8 = 0

/-- See `topkShape`. -/
def recvRange (b : List Byte) : Prop := 1 ≤ field b 2 2 ∧ field b 0 2 + field b 2 2 ≤ 4096 ∧ 1 ≤ field b 32 2 ∧ field b 32 2 ≤ 512

/-- See `topkShape`: step and target of XBIAS are finite. -/
def biasShape (b : List Byte) : Prop :=
  zeroBytes b 10 6 = true ∧ restZero b 32 = true ∧ field b 16 8 % 4 = 0 ∧ field b 24 8 % 8 = 0 ∧ 1 ≤ field b 8 2 ∧ field b 8 2 ≤ 4096 ∧
    (∃ g m e, fp32.decode (field b 0 4) = .fin g m e) ∧ ∃ g m e, fp32.decode (field b 4 4) = .fin g m e

end Sys2Proof.Claims

/-! ## Grammar instructions (R179 to R183) -/

/-- R179, R90, R180: GLOAD checks and keeps a grammar image; GSTART refuses in the order of its table and starts the parse
with the start symbol on the stack and the porter claimed. -/
def Sys2Proof.Claims.GrammarStarts : Prop :=
  ∀ (s : State) (dr d1 : Drover) (n : Nat) (d b : BitVec 5) (g : BitVec 2) (p : BitVec 3) (x mode : Word) (cx : Context)
    (q : Porter) (img tab : List Byte) (c : Chip), Cmd s dr n d → cx = (s.chip.serai n).ctx g.toNat →
    q = (s.chip.serai n).porter p.toNat →
    (Ready1d s dr d1 d b x →
      (x.toNat % 64 ≠ 0 → Trapped s dr (.gload d g b) 2 dr.regs.pc x) ∧
      (x.toNat % 64 = 0 → cx.cond ≠ 0 → cx.cond ≠ 2 → Gives s dr (.gload d g b) d (status 1 0) any) ∧
      (cx.cond = 0 ∨ cx.cond = 2 → BlockIs s s.chip c dr x 8576 64 img →
        (∀ k l, checkGrammar img = some (k, l) → Gives s dr (.gload d g b) d (status k l) any) ∧
        (checkGrammar img = none →
          Gives s dr (.gload d g b) d 0 fun t _ => ((t.chip.serai n).ctx g.toNat).grammar = some img))) ∧
    (dr.readX s.focus d = .ok (mode, d1) →
      (mode.toNat % 64 / 2 ≠ 0 → Gives s dr (.gstart d g p) d (status 20 0) any) ∧
      (mode.toNat % 64 / 2 = 0 →
        (cx.grammar = none → Gives s dr (.gstart d g p) d (status 27 0) any) ∧
        (cx.grammar = some img →
          (cx.cond ≠ 0 → cx.cond ≠ 2 → Gives s dr (.gstart d g p) d (status 1 0) any) ∧
          (cx.cond = 0 ∨ cx.cond = 2 →
            (s.chip.porterFree s.focus p.toNat q = false ∨ q.passed = true ∨ (q.cond ≠ 0 ∧ q.dir = true) →
              Gives s dr (.gstart d g p) d (status 22 0) any) ∧
            (s.chip.porterFree s.focus p.toNat q = true → q.passed = false → q.cond = 0 ∨ q.dir = false →
              (mode.toNat < 64 → Gives s dr (.gstart d g p) d 0 fun t _ => ∃ y, (t.chip.serai n).ctx g.toNat = y ∧ y.cond = 1 ∧
                y.stack = [.nonterm (byteAt img 7) none (byteAt img 7)] ∧ y.porter = some p.toNat ∧ y.terminals = 0 ∧
                y.holdeot = mode.getLsbD 0 ∧ ((t.chip.serai n).porter p.toNat).claim = some (.context g.toNat)) ∧
              (64 ≤ mode.toNat → BlockIs s s.chip c dr (BitVec.ofNat 64 (mode.toNat / 64 * 64)) 256 64 tab → tab ≠ [] →
                ((∃ k, k < 16 ∧ commandBad (slice tab (16 * k) 16) = true) → Gives s dr (.gstart d g p) d (status 21 0) any) ∧
                ((∀ k, k < 16 → commandBad (slice tab (16 * k) 16) = false) →
                  Gives s dr (.gstart d g p) d 0 fun t _ => ((t.chip.serai n).ctx g.toNat).cond = 1 ∧
                    ((t.chip.serai n).ctx g.toNat).ctab = tab)))))))

/-- R181 to R183: GSTOP ends a parse, GSTAT and WAITA read a context's word, WAITA holds while it parses, and ACTDONE takes
the context's records from the action port and lets a held `eot` go. -/
def Sys2Proof.Claims.GrammarStatus : Prop :=
  ∀ (s : State) (dr : Drover) (n : Nat) (d : BitVec 5) (g : BitVec 2) (x : Context) (w : Word), Cmd s dr n d →
    x = (s.chip.serai n).ctx g.toNat →
    w = BitVec.ofNat 64 (x.terminals.toNat * 2 ^ 32 + min ((s.chip.serai n).liveCmds g.toNat) 31 * 2 ^ 27 + x.stack.length * 2 ^ 21 +
      x.afifo.length * 2 ^ 16 + x.tcause.toNat * 2 ^ 8 + b2n x.postlost * 64 + b2n x.cmdfail * 32 + b2n x.eotheld * 16 +
      b2n x.grammar.isSome * 8 + x.cond) →
    (x.cond = 1 → x.afifo ≠ [] → ∃ t d', exec (.gstop d g) s = .next t ∧ t.cur? = some d' ∧ d'.regs = dr.regs ∧
      ((t.chip.serai n).ctx g.toNat).stopping = true) ∧
    (x.cond = 3 ∨ (x.cond = 1 ∧ x.afifo = []) → Gives s dr (.gstop d g) d 0 fun t _ =>
      ((t.chip.serai n).ctx g.toNat).cond = 2 ∧ ((t.chip.serai n).ctx g.toNat).stack = [] ∧
      ((t.chip.serai n).ctx g.toNat).porter = none) ∧
    (x.cond ≠ 1 → x.cond ≠ 3 → Gives s dr (.gstop d g) d (status 1 0) any) ∧
    Gives s dr (.gstat d g) d w (fun t _ => t.chip.serais = s.chip.serais) ∧
    (dr.hold = .idle → x.cond ≠ 1 → Gives s dr (.waita d g) d (status 1 x.cond) any) ∧
    (x.cond = 1 → ∃ t d', exec (.waita d g) s = .next t ∧ t.cur? = some d' ∧ d'.hold = .waiting ∧ d'.regs = dr.regs) ∧
    (dr.hold = .waiting → x.cond ≠ 1 → x.afifo = [] → (s.chip.serai n).liveCmds g.toNat = 0 → Gives s dr (.waita d g) d w any) ∧
    (Goes s dr (.actdone g) fun t d' => d'.regs.x = dr.regs.x ∧ ((t.chip.serai n).ctx g.toNat).eotheld = false ∧
      d'.queues.act = dr.queues.act.filter fun e => e.val.toNat / 2 ^ 62 != g.toNat)

/-- R90, R179 to R183: grammars loaded, started, asked and stopped. -/
def Obligations.Grammars : Prop := GrammarStarts ∧ GrammarStatus

/-! ## Task instructions (R184 to R189) -/

/-- R184 to R186: SPAWN refuses in the order of its table, traps on a watch address that cannot be translated, and otherwise
makes one caravan of the template's size, ready at once or watching its words, and answers the TASKID of member 0; RETIRE ends the
task once its writes are performed; YIELD asks for the caravan's save, and has no effect in a pinned one. -/
def Sys2Proof.Claims.TaskLifetime : Prop :=
  ∀ (s : State) (dr d1 : Drover) (n e : Nat) (d a b : BitVec 5) (x y : Word) (blk : List Byte) (c : Chip) (ex : Expedition)
    (tem : Template) (ta : Task) (cv : Nat) (v : Caravan),
    (Ready2d s dr d1 d a b x y →
      (65536 ≤ x.toNat ∨ bitsOf x.toNat 13 2 ≠ 0 → Gives s dr (.spawn d a b) d (status 20 0) any) ∧
      (x.toNat < 65536 → bitsOf x.toNat 13 2 = 0 →
        (dr.released = false → Waits s dr (.spawn d a b)) ∧
        (dr.released = true → b ≠ 0 → y.toNat % 64 ≠ 0 → Trapped s dr (.spawn d a b) 2 dr.regs.pc y) ∧
        (dr.released = true → SpawnBlock s dr b y blk c → c.groupExp dr = some e → c.exp? e = some ex →
          (look ex.templates (x.toNat % 1024) = none → Gives s dr (.spawn d a b) d (status 28 0) any) ∧
          (look ex.templates (x.toNat % 1024) = some tem →
            (tem.entry = 0 → Gives s dr (.spawn d a b) d (status 28 0) any) ∧
            (tem.entry ≠ 0 → (∃ i, i < 4 ∧ bitOf (byteAt blk 28) i = true ∧ look ex.groups (byteAt blk (24 + i)) = none) →
              Gives s dr (.spawn d a b) d (status 29 0) any) ∧
            (tem.entry ≠ 0 → (∀ i, i < 4 → bitOf (byteAt blk 28) i = true → (look ex.groups (byteAt blk (24 + i))).isSome = true) →
              (∀ i, i < 4 → bitOf (byteAt blk 29) i = true → (∀ j, j < i → WatchFits c s.focus dr blk j) →
                (field blk (32 + 8 * i) 8 % 8 ≠ 0 → Gives s dr (.spawn d a b) d (status 30 0) any) ∧
                (field blk (32 + 8 * i) 8 % 8 = 0 →
                  (∀ l c2, c.engineLeaf s.focus dr (field blk (32 + 8 * i) 8) .read = .ok l c2 → l.tagged = false →
                    Gives s dr (.spawn d a b) d (status 30 0) any) ∧
                  (∀ k va, c.engineLeaf s.focus dr (field blk (32 + 8 * i) 8) .read = .bad k va →
                    Trapped s dr (.spawn d a b) k dr.regs.pc (BitVec.ofNat 64 va)))) ∧
              ((∀ i, i < 4 → WatchFits c s.focus dr blk i) →
                (16 ≤ byteAt blk 28 ∨ 16 ≤ byteAt blk 29 ∨ byteAt blk 31 ≠ 0 → Gives s dr (.spawn d a b) d (status 21 0) any) ∧
                (byteAt blk 28 < 16 → byteAt blk 29 < 16 → byteAt blk 31 = 0 →
                  (2048 ≤ c.queueLen (c.bazaarDie dr e) → c.spillRoom e = false → Gives s dr (.spawn d a b) d (status 24 0) any) ∧
                  (c.queueLen (c.bazaarDie dr e) < 2048 ∨ c.spillRoom e = true →
                    Gives s dr (.spawn d a b) d (BitVec.ofNat 64 (ex.nextTask % 2 ^ 32 * 2 ^ 32)) fun t _ =>
                      (byteAt blk 29 = 0 → c.queueLen (c.bazaarDie dr e) < 2048 → ∃ (w : Caravan),
                        t.chip.caravan? c.sched.nextCv = some w ∧ w.exp = e ∧ w.members.length = tem.size ∧ w.watches = [] ∧
                        w.prio = (if x.toNat.testBit 15 then bitsOf x.toNat 10 3 else tem.prio) ∧
                        w.place = .queue (c.bazaarDie dr e)) ∧
                      (byteAt blk 29 ≠ 0 → ∃ (w : Caravan),
                        t.chip.caravan? c.sched.nextCv = some w ∧ w.exp = e ∧ w.members.length = tem.size ∧
                        w.prio = (if x.toNat.testBit 15 then bitsOf x.toNat 10 3 else tem.prio) ∧
                        w.place = .watching (c.bazaarDie dr e) ∧ ∀ i l c2, i < 4 → bitOf (byteAt blk 29) i = true →
                          c.engineLeaf s.focus dr (field blk (32 + 8 * i) 8) .read = .ok l c2 →
                          look w.watches i = some (watchWord l (l.pa (field blk (32 + 8 * i) 8)))))))))))) ∧
    (InSerai s dr n →
      (dr.writesOpen = true → Waits s dr .retire) ∧
      (dr.writesOpen = false → s.chip.task? s.focus = some ta → Goes s dr .retire fun t d' => d'.run = .off ∧
        d'.regs.x = dr.regs.x ∧ (t.chip.task? s.focus).map (·.state) = some .retired) ∧
      (dr.hold = .idle → s.chip.task? s.focus = some ta → ta.caravan = cv → s.chip.caravan? cv = some v →
        (v.pinned = true → Goes s dr .yield fun t d' => d'.regs.x = dr.regs.x ∧ t.chip.sched = s.chip.sched) ∧
        (v.pinned = false → ∃ t d', exec .yield s = .next t ∧ t.cur? = some d' ∧ d'.hold = .yielding ∧ d'.regs = dr.regs ∧
          (t.chip.caravan? cv).map (fun v => (v.reason.isSome, v.wake)) = some (true, true))) ∧
      (∀ w, dr.hold = .result w → Goes s dr .yield fun t d' => d'.regs.x = dr.regs.x ∧ t.chip.sched = s.chip.sched))

/-- R187 to R189: TWATCH answers OK at once on a full word of this module and waits on an empty one, and asks for a word of another
module before it waits; TSTAT reports a task's words; TKILL kills every member of the task's caravan, the issuer's own with it; tasks
that do not exist have their own answers. -/
def Sys2Proof.Claims.TaskQueries : Prop :=
  ∀ (s : State) (dr d1 : Drover) (n e : Nat) (d a : BitVec 5) (x : Word) (l : Leaf) (c c2 : Chip) (ta me : Task) (u k cv : Nat)
    (v mine : Caravan), Ready1d s dr d1 d a x →
    (InSerai s dr n →
      (dr.hold = .idle → x.toNat % 8 ≠ 0 → Trapped s dr (.twatch d a) 2 dr.regs.pc x) ∧
      (dr.hold = .idle → x.toNat % 8 = 0 →
        (∀ q va, s.chip.engineLeaf s.focus dr x.toNat .read = .bad q va →
          Trapped s dr (.twatch d a) q dr.regs.pc (BitVec.ofNat 64 va)) ∧
        (s.chip.engineLeaf s.focus dr x.toNat .read = .ok l c →
          (l.tagged = false → Gives s dr (.twatch d a) d (status 30 0) any) ∧
          (l.tagged = true → l.rmt = false → c.homes.tag (watchWord l (l.pa x.toNat)) = true →
            Gives s dr (.twatch d a) d 0 any) ∧
          (l.tagged = true → l.rmt = false → c.homes.tag (watchWord l (l.pa x.toNat)) = false → s.myCaravan = some (cv, mine) →
            c.task? s.focus = some me → ∃ t d', exec (.twatch d a) s = .next t ∧ t.cur? = some d' ∧ d'.hold = .waiting ∧
              d'.regs = dr.regs) ∧
          (l.tagged = true → l.rmt = true → s.myCaravan = some (cv, mine) → c.task? s.focus = some me →
            c.request l.dev 3 (l.pa x.toNat) tagPayload (fun q => .watch cv (32 + me.index) q) = some (k, c2) →
            ∃ t d', exec (.twatch d a) s = .next t ∧ t.cur? = some d' ∧ d'.hold = .waiting ∧ d'.regs = dr.regs))) ∧
      (dr.hold = .result 0 → Gives s dr (.twatch d a) d 0 any)) ∧
    (s.chip.groupExp dr = some e →
      (s.chip.taskKey? e (x.toNat % 2 ^ 32) = none →
        Gives s dr (.tstat d a) d (BitVec.ofNat 64 (x.toNat % 2 ^ 32 * 2 ^ 32 + 0xFFF * 256 + 15)) any) ∧
      (s.chip.taskKey? e (x.toNat % 2 ^ 32) = some u → s.chip.task? u = some ta → s.chip.caravan? ta.caravan = some v →
        ∃ core, (s.chip.stateCode u ta < 3 ∨ 5 < s.chip.stateCode u ta → core = 0xFFF) ∧
          (3 ≤ s.chip.stateCode u ta → s.chip.stateCode u ta ≤ 5 → ∀ q, s.chip.seraiOf u = some q → core = q) ∧
          Gives s dr (.tstat d a) d (BitVec.ofNat 64 (x.toNat % 2 ^ 32 * 2 ^ 32 + v.watches.length % 16 * 2 ^ 20 + core * 2 ^ 8 +
            b2n v.pinned * 2 ^ 7 + v.prio % 8 * 2 ^ 4 + s.chip.stateCode u ta)) fun t _ => t.chip.sched = s.chip.sched) ∧
      (2 ^ 32 ≤ x.toNat ∨ s.chip.taskKey? e x.toNat = none → Gives s dr (.tkill d a) d (status 31 0) any) ∧
      (x.toNat < 2 ^ 32 → s.chip.taskKey? e x.toNat = some u → s.chip.task? u = some ta →
        (ta.alive = false → Gives s dr (.tkill d a) d (status 31 0) any) ∧
        (ta.alive = true → s.chip.caravan? ta.caravan = some v →
          (dr.steward = true ∨ (∀ tm, s.chip.task? s.focus = some tm → tm.caravan ≠ ta.caravan) → Gives s dr (.tkill d a) d 0 fun t _ => ∀ m tm, m ∈ v.members →
            s.chip.task? m = some tm → tm.alive = true → (s.chip.drover? m).isSome = true →
            (t.chip.task? m).map (·.state) = some .killed) ∧
          (s.chip.task? s.focus = some me → me.caravan = ta.caravan → dr.steward = false → me.alive = true → s.focus ∈ v.members →
            ∃ t d', exec (.tkill d a) s = .next t ∧ t.cur? = some d' ∧ d'.run = .off ∧
              (t.chip.task? s.focus).map (·.state) = some .killed))))

/-- R184 to R189: tasks spawned, retired, killed and yielded, and asked about. -/
def Obligations.Tasks : Prop := TaskLifetime ∧ TaskQueries

/-! ## Dispatch commands (R190 to R192, R304, R305) -/

/-- R190, R191: the commands of the dispatch engines refuse a micro-batch number above 32 bits and a faulty block with
BADPARAM, and values outside their ranges with RANGE; XGATE traps on a misaligned list and refuses in the order of its table. -/
def Sys2Proof.Claims.DispatchRefusals : Prop :=
  ∀ (s : State) (dr d1 : Drover) (d a b : BitVec 5) (x y : Word) (blk : List Byte) (c : Chip), Dispatches s dr d1 d a b x y →
    (2 ^ 32 ≤ x.toNat → Gives s dr (.xtopk d a b) d (status 21 0) any ∧ Gives s dr (.xbin d a b) d (status 21 0) any ∧
      Gives s dr (.xsend d a b) d (status 21 0) any ∧ Gives s dr (.xrecv d a b) d (status 21 0) any ∧
      Gives s dr (.xbias d a b) d (status 21 0) any) ∧
    (x.toNat < 2 ^ 32 → BlockIs s s.chip c dr y 64 64 blk →
      (¬ topkShape blk → Gives s dr (.xtopk d a b) d (status 21 0) any) ∧
      (topkShape blk → ¬ topkRange blk → Gives s dr (.xtopk d a b) d (status 33 0) any) ∧
      (¬ binShape blk → Gives s dr (.xbin d a b) d (status 21 0) any) ∧
      (binShape blk → ¬ binRange blk → Gives s dr (.xbin d a b) d (status 33 0) any) ∧
      (¬ sendShape blk → Gives s dr (.xsend d a b) d (status 21 0) any) ∧
      (sendShape blk → ¬ sendRange blk → Gives s dr (.xsend d a b) d (status 33 0) any) ∧
      (¬ recvShape blk → Gives s dr (.xrecv d a b) d (status 21 0) any) ∧
      (recvShape blk → ¬ recvRange blk → Gives s dr (.xrecv d a b) d (status 33 0) any) ∧
      (¬ biasShape blk → Gives s dr (.xbias d a b) d (status 21 0) any)) ∧
    (y.toNat % 8 ≠ 0 → Trapped s dr (.xgate d a b) 2 dr.regs.pc y) ∧
    (y.toNat % 8 = 0 → s.chip.joinedRound s.focus = none → Gives s dr (.xgate d a b) d (status 1 0) any) ∧
    (∀ mb r, y.toNat % 8 = 0 → s.chip.joinedRound s.focus = some (mb, r) →
      (r.tokens ≤ x.toNat % 65536 → Gives s dr (.xgate d a b) d (status 33 0) any) ∧
      (x.toNat % 65536 < r.tokens → r.contributors ≤ s.chip.xde.contributed mb (x.toNat % 65536) r →
        Gives s dr (.xgate d a b) d (status 1 0) any) ∧
      (x.toNat % 65536 < r.tokens → s.chip.xde.contributed mb (x.toNat % 65536) r < r.contributors →
        8 < x.toNat / 65536 % 16 ∨ 2 ^ 20 ≤ x.toNat → Gives s dr (.xgate d a b) d (status 21 0) any))

/-- R191, R303: an accepted XTOPK leaves an open request for which it holds, whose answer is its result. -/
def Sys2Proof.Claims.TopkAccepted : Prop :=
  ∀ (s : State) (dr d1 : Drover) (d a b : BitVec 5) (x y : Word) (blk : List Byte) (c : Chip) (w : Nat),
    Dispatches s dr d1 d a b x y → x.toNat < 2 ^ 32 → BlockIs s s.chip c dr y 64 64 blk →
    (topkShape blk → topkRange blk → c.doneAt s.focus dr (field blk 24 8) = .word w →
        ∃ (t : State) (d' : Drover) (o : OpenReq), exec (.xtopk d a b) s = .next t ∧ t.cur? = some d' ∧ d'.hold = .waiting ∧ d'.regs = dr.regs ∧
          t.chip.xde.opens = c.xde.opens ++ [o] ∧ o.mb = x.toNat ∧ o.block = blk ∧ o.u = s.focus)

/-- R191, R312: an accepted XBIN leaves a work with the records it is to sort. -/
def Sys2Proof.Claims.BinAccepted : Prop :=
  ∀ (s : State) (dr d1 : Drover) (d a b : BitVec 5) (x y : Word) (blk recs : List Byte) (c c1 : Chip) (w : Nat),
    Dispatches s dr d1 d a b x y → x.toNat < 2 ^ 32 → BlockIs s s.chip c dr y 64 64 blk →
    (binShape blk → binRange blk → c.doneAt s.focus dr (field blk 40 8) = .word w →
        c.readBlock (xdeAgent s.focus) s.focus dr (field blk 0 8) (128 * field blk 8 4) = .ok recs c1 →
        Gives s dr (.xbin d a b) d 0 fun t _ => ∃ (k : XWork), t.chip.xde.work = c1.xde.work ++ [k] ∧ k.op = 2 ∧ k.recs = recs ∧
          k.block = blk ∧ k.done = w)

/-- R190, R313: XSEND needs a round of its micro-batch, and leaves a work with that round's experts. -/
def Sys2Proof.Claims.SendAccepted : Prop :=
  ∀ (s : State) (dr d1 : Drover) (d a b : BitVec 5) (x y : Word) (blk recs : List Byte) (c c1 : Chip) (w : Nat),
    Dispatches s dr d1 d a b x y → x.toNat < 2 ^ 32 → BlockIs s s.chip c dr y 64 64 blk →
    (sendShape blk → sendRange blk → c.doneAt s.focus dr (field blk 40 8) = .word w →
        (look c.xde.rounds x.toNat = none → Gives s dr (.xsend d a b) d (status 1 0) any) ∧
        (∀ r, look c.xde.rounds x.toNat = some r →
          c.readBlock (xdeAgent s.focus) s.focus dr (field blk 24 8) 128 = .ok recs c1 →
          (descOf (BitVec.ofNat 1024 (natOfBytes recs))).rank = 2 → (descOf (BitVec.ofNat 1024 (natOfBytes recs))).check = none →
          Gives s dr (.xsend d a b) d 0 fun t _ => ∃ (k : XWork), t.chip.xde.work = c1.xde.work ++ [k] ∧ k.op = 3 ∧ k.mb = x.toNat ∧
            k.block = blk ∧ k.experts = r.experts))

/-- R191, R314: an accepted XRECV leaves a session with nothing admitted. -/
def Sys2Proof.Claims.RecvAccepted : Prop :=
  ∀ (s : State) (dr d1 : Drover) (d a b : BitVec 5) (x y : Word) (blk recs : List Byte) (c c1 : Chip) (w : Nat),
    Dispatches s dr d1 d a b x y → x.toNat < 2 ^ 32 → BlockIs s s.chip c dr y 64 64 blk →
    (recvShape blk → recvRange blk → c.doneAt s.focus dr (field blk 40 8) = .word w →
        (∀ z, z ∈ c.xde.sessions → (z.mb = x.toNat → z.die ≠ dr.die ∧
          (field blk 0 2 + field blk 2 2 ≤ z.first ∨ z.first + z.experts ≤ field blk 0 2))) →
        0 < c.xde.freeSlots dr.die → c.readBlock (xdeAgent s.focus) s.focus dr (field blk 8 8) 128 = .ok recs c1 →
        ∀ de, de = descOf (BitVec.ofNat 1024 (natOfBytes recs)) → de.rank = 3 → de.check = none →
        field blk 4 4 ≤ (de.lev 2).count → field blk 2 2 ≤ (de.lev 3).count →
        Gives s dr (.xrecv d a b) d 0 fun t _ => ∃ (z : Session), t.chip.xde.sessions = c1.xde.sessions ++ [z] ∧ z.mb = x.toNat ∧
          z.die = dr.die ∧ z.block = blk ∧ z.admitted = List.replicate (field blk 2 2) 0)

/-- R191, R311: XBIAS is BUSY while one is under way, and otherwise leaves a work. -/
def Sys2Proof.Claims.BiasAccepted : Prop :=
  ∀ (s : State) (dr d1 : Drover) (d a b : BitVec 5) (x y : Word) (blk : List Byte) (c : Chip) (w : Nat),
    Dispatches s dr d1 d a b x y → x.toNat < 2 ^ 32 → BlockIs s s.chip c dr y 64 64 blk →
    (biasShape blk → c.doneAt s.focus dr (field blk 24 8) = .word w →
        ((∃ k, k ∈ c.xde.work ∧ k.op = 5) → Gives s dr (.xbias d a b) d (status 1 0) any) ∧
        ((∀ k, k ∈ c.xde.work → k.op ≠ 5) → Gives s dr (.xbias d a b) d 0 fun t _ => ∃ (k : XWork),
          t.chip.xde.work = c.xde.work ++ [k] ∧ k.op = 5 ∧ k.block = blk ∧ k.done = w))

/-- R305: an accepted XGATE leaves a list on its way to its token. -/
def Sys2Proof.Claims.GateAccepted : Prop :=
  ∀ (s : State) (dr d1 : Drover) (d a b : BitVec 5) (x y : Word) (blk : List Byte) (c : Chip) (mb : Nat) (r : Round),
    Dispatches s dr d1 d a b x y → s.chip.joinedRound s.focus = some (mb, r) → x.toNat < 2 ^ 20 → x.toNat / 65536 ≤ 8 →
    x.toNat % 65536 < r.tokens → s.chip.xde.contributed mb (x.toNat % 65536) r < r.contributors →
    BlockIs s s.chip c dr y (8 * (x.toNat / 65536)) 8 blk → (∀ i, i < x.toNat / 65536 → field blk (8 * i) 8 < 2 ^ 44) →
    Gives s dr (.xgate d a b) d 0 fun t _ => ∃ (l : GateList), t.chip.xde.lists = c.xde.lists ++ [l] ∧ l.mb = mb ∧ l.tok = x.toNat % 65536

/-- R192, R303: the answer that an XTOPK has been given is its result; XSTAT reads slots, the newest bias version,
the micro-batch joined last and the refusals, and gives all ones beyond them. -/
def Sys2Proof.Claims.DispatchReads : Prop :=
  ∀ (s : State) (dr d1 : Drover) (d a b : BitVec 5) (x y : Word),
    (s.cur? = some dr → d.toNat < 28 → ∀ v, dr.hold = .result v → dr.read2 s.focus a b = .ok (x, y, d1) →
      Gives s dr (.xtopk d a b) d v any) ∧
    (Ready1d s dr d1 d a x →
      (x = 0 → Gives s dr (.xstat d a) d (BitVec.ofNat 64 (s.chip.xde.roundsOf dr.die + s.chip.xde.sessionsOf dr.die * 2 ^ 16 +
        s.chip.xde.freeSlots dr.die * 2 ^ 32)) any) ∧
      (x = 1 → Gives s dr (.xstat d a) d (BitVec.ofNat 64 (s.chip.xde.newest.toNat +
        b2n (s.chip.xde.work.any fun w => w.op == 5) * 256)) any) ∧
      (x = 2 → ((∀ n j, s.chip.seraiOf s.focus = some n → (s.chip.serai n).joined = some j →
          Gives s dr (.xstat d a) d (BitVec.ofNat 64 (j.1 % 2 ^ 32)) any) ∧
        (∀ n, s.chip.seraiOf s.focus = some n → (s.chip.serai n).joined = none → Gives s dr (.xstat d a) d 0xFFFFFFFF any))) ∧
      (x = 3 → Gives s dr (.xstat d a) d (BitVec.ofNat 64 (lookD s.chip.xde.refusals dr.die 0 % 2 ^ 32)) any) ∧
      (4 ≤ x.toNat → Gives s dr (.xstat d a) d (BitVec.allOnes 64) any))

/-- R190 to R192, R303, R305, R311 to R314: the expert-dispatch commands, refused and accepted. -/
def Obligations.ExpertDispatch : Prop := DispatchRefusals ∧ TopkAccepted ∧ BinAccepted ∧ SendAccepted ∧ RecvAccepted ∧ BiasAccepted ∧ GateAccepted ∧ DispatchReads

/-- R1, R7: a steward core has no engines: the commands of a task's engines stop there under a name of their own. -/
def Sys2Proof.Claims.StewardHasNoEngine : Prop :=
  ∀ (s : State) (dr : Drover) (d a b : BitVec 5) (p p2 sc : BitVec 3) (m : BitVec 4) (g : BitVec 2), s.cur? = some dr →
    dr.steward = true → ∀ i, i ∈ [Instr.sopen d p m, .sclose d p, .sbar p sc, .sstat d p, .slink d p p2, .copy d a b sc, .cpflush,
      .cpstat d, .pgload d g b, .pgcast d a b, .pgbind d a b, .pgdrop d g, .pgstat d g, .wload d m b, .wdrop d b, .wpoke d g b,
      .gload d g b, .gstart d g p, .gstop d g, .gstat d g, .waita d g, .actdone g, .retire, .yield, .twatch d a] →
    exec i s = .refused .noEngine

/-- R1, R7, R16, R17: what an instruction waits for, and the engines that a steward core has not. The name under which
a steward's engine command stops is the model's. -/
def Obligations.IssueHolds : Prop := OperandStalls ∧ StewardHasNoEngine

namespace Sys2Proof.Claims

/-- What an event leaves of the machine's parts; events change neither cycle, agenda nor focus. -/
def After (s : State) (i : Instr) (P : Chip → Prop) : Prop :=
  ∃ t, exec i s = .next t ∧ t.cycle = s.cycle ∧ t.agenda = s.agenda ∧ t.focus = s.focus ∧ P t.chip

/-- Drover u holds an access q. -/
def HasAcc (s : State) (u q : Nat) (d : Drover) (a : Access) : Prop := s.chip.drover? u = some d ∧ d.acc? q = some a

/-- And it has arrived at its home, where a write may be performed (S6, S12, R260). -/
def AtHome (s : State) (u q : Nat) (d : Drover) (a : Access) : Prop :=
  HasAcc s u q d a ∧ s.chip.arrived u d a = true ∧ a.atSlice = true ∧ s.chip.homes.writable a = true

/-- The drover with an access sent to its home, the latest of those it sent. -/
def sentOn (d : Drover) (q : Nat) : Drover :=
  { d with mem := { d.mem with nextSent := d.mem.nextSent + 1 } }.onAcc q fun a => { a with phase := .sent, sentAt := d.mem.nextSent }

/-- R127: what a returning atomic writes. -/
def amoWrites (op : Nat) (old b : Word) : Word :=
  if op = 0 then b else if op = 1 then old + b else if op = 2 then old &&& b else if op = 3 then old ||| b
  else if op = 4 then old ^^^ b else if op = 5 then (if b.slt old then b else old) else if op = 6 then (if old.slt b then b else old)
  else if op = 7 then (if b.ult old then b else old) else if op = 8 then (if old.ult b then b else old)
  else BitVec.ofNat 64 (fp64.addBits .ieee .rne old.toNat b.toNat).1

/-- R129: what an integer reduction writes, at 32 or 64 bits. -/
def redWrites {n : Nat} (op : Nat) (old b : BitVec n) : BitVec n :=
  if op = 0 then old + b else if op = 1 then old &&& b else if op = 2 then old ||| b else if op = 3 then old ^^^ b
  else if op = 4 then (if b.slt old then b else old) else if op = 5 then (if old.slt b then b else old)
  else if op = 6 then (if b.ult old then b else old) else (if old.ult b then b else old)

/-- R250: where the walk of an address for a drover stands: as its die's walkers have it, or at the root. -/
def WalkAt (s : State) (d : Drover) (va : Word) (w : TableWalk) : Prop :=
  let mine := fun (w : TableWalk) => w.die == d.site && w.tag == d.expTag && w.va == va.toNat
  s.chip.walkers.walks.find? mine = some w ∨
    (s.chip.walkers.walks.find? mine = none ∧ w =
      { die := d.site, tag := d.expTag, va := va.toNat, level := 1, table := (s.chip.rootOf d).toNat * 4096 })

/-- A walk's end: its leaf in the TLB of the drover, which waits no longer. -/
def WalkFinds (s : State) (u : Nat) (va : Word) (l : Leaf) : Prop :=
  After s (.translationWalk u va) fun c => ∃ d', c.drover? u = some d' ∧ d'.hold = .idle ∧ s.chip.localLeaf l ∈ d'.mem.tlb

/-- Or a trap XLATE at the address. -/
def WalkTraps (s : State) (u : Nat) (va : Word) : Prop :=
  After s (.translationWalk u va) fun c => ∃ d' r, c.drover? u = some d' ∧ d'.trap = some r ∧ r.cause = 3 ∧ r.val = va

/-- No waiter waits for a word (R141). -/
def noWaiter (c : Chip) (pa : Nat) : Prop := ∀ w, w ∈ c.homes.waiters → w.word ≠ wordKey pa

end Sys2Proof.Claims

/-! ## The drover's side of the ordering model (S2 to S7 of R268, R130) -/

/-- R268, R130: a write that may drain and a read that may go are sent to their home; a read takes its bytes from the
youngest older store that covers it, or from a line of the data cache; a reply makes its register ready; the second of
two REDs that combine rides on the first. -/
def Obligations.QueueSteps : Prop :=
  ∀ (s : State) (u q : Nat) (d : Drover) (a : Access), HasAcc s u q d a → s.chip.moves u d = true →
    (d.canDrain a = true → a.leaf.rmt = false →
      After s (.drainWrite u q) fun c => c.drover? u = some (sentOn d a.seq).settle) ∧
    (d.canSendRead a = true → a.leaf.rmt = false →
      After s (.sendRead u q) fun c => c.drover? u = some (sentOn d a.seq).settle) ∧
    (d.canSendRead a = true → a.leaf.rmt = true → ∀ tag c',
      s.chip.request a.leaf.dev a.kind.ptype a.pa (a.payload d.exp) (fun k => .access u a.seq k) = some (tag, c') →
      After s (.sendRead u q) fun c => c.drover? u = some (d.onAcc a.seq fun a => { a with phase := .remote tag }).settle) ∧
    (a.easy = true → ∀ x, (d.overlaps a).getLast? = some x → x.kind = .store ∨ x.kind = .dstore → x.mapWrite = false →
      x.pa ≤ a.pa → a.pa + a.size ≤ x.pa + x.size →
      After s (.forward u q) fun c => c.drover? u =
        some (d.answer u q (a.kind.extend a.size (x.data.toNat / 2 ^ (8 * (a.pa - x.pa)))) none none [])) ∧
    (a.easy = true → a.cacheable = true → d.lineFree a = true → d.acquiresDone a = true → d.overlaps a = [] → ∀ l,
      look d.mem.dcache (a.pa / 64) = some l →
      After s (.hit u q) fun c => c.drover? u =
        some (d.answer u q (a.kind.extend a.size (field (leBytes l.toNat 64) (a.pa % 64) a.size)) none none [])) ∧
    (d.canComplete a = true → a.kind = .load → 0 < a.rd → a.rd < 28 → look d.board.pend a.rd = some (.access a.seq) →
      a.late = none → a.line = none → d.core.isSome = true →
      After s (.complete u q) fun c => ∃ d', c.drover? u = some d' ∧ d'.regs.getX (BitVec.ofNat 5 a.rd) = a.reply ∧
        look d'.board.pend a.rd = none) ∧
    (∀ u2 q2 d2 b, HasAcc s u2 q2 d2 b → combinable a b = true → u ≠ u2 ∨ q ≠ q2 →
      After s (.junction u q u2 q2) fun c => ∃ d', c.drover? u2 = some d' ∧ ∀ x, x ∈ d'.mem.accs → x.seq = q2 →
        x.phase = .joined u q)

/-! ## The homes (S6 of R268, R127 to R141) -/

/-- R268, R28: a plain load is answered from its home's bytes, little-endian, and a plain store writes its bytes there and
leaves the post buffer; on a page that is not watched. -/
def Sys2Proof.Claims.PlainAccessesPerformed : Prop :=
  ∀ (s : State) (u q : Nat) (d : Drover) (a : Access), AtHome s u q d a → a.leaf.watched = false →
    (a.kind = .load ∨ a.kind = .loadU → s.chip.homes.anyBad a.pa a.size = false →
      After s (.orderPoint u q) fun c => c.drover? u = some (d.answer u a.seq
        (a.kind.extend a.size (natOfBytes (s.chip.homes.bytes a.pa a.size))) none (s.chip.homes.lineFor a) (s.chip.learned u d a)) ∧
        c.homes.mem = s.chip.homes.mem) ∧
    (a.kind = .store → After s (.orderPoint u q) fun c => c.drover? u = some (d.written u a.seq (s.chip.learned u d a)) ∧
      c.homes.mem = s.chip.homes.mem.write (canon a.pa) (leBytes a.data.toNat a.size) ∧ c.homes.tags = s.chip.homes.tags)

/-- R127 to R129: a returning atomic answers the old word and writes its result; CAS writes its new value where the old
word is the expected one; a reduction writes at its width and answers nothing. -/
def Sys2Proof.Claims.AtomicsPerformed : Prop :=
  ∀ (s : State) (u q : Nat) (d : Drover) (a : Access) (h : Homes), AtHome s u q d a → h = s.chip.homes →
    (∀ op, op < 10 → a.kind = .amo op → h.anyBad a.pa 8 = false → After s (.homeAmo u q) fun c =>
      c.homes.mem = h.mem.write (canon a.pa) (leBytes (amoWrites op (h.word a.pa) a.data).toNat 8) ∧
      c.drover? u = some ((d.dropLine a).answer u a.seq (h.word a.pa) none none (s.chip.learned u d a))) ∧
    (a.kind = .amoCas → h.anyBad a.pa 8 = false → After s (.homeAmo u q) fun c =>
      c.homes.mem = h.mem.write (canon a.pa) (leBytes (if h.word a.pa = a.data then a.data2 else h.word a.pa).toNat 8) ∧
      c.drover? u = some ((d.dropLine a).answer u a.seq (h.word a.pa) none none (s.chip.learned u d a))) ∧
    (∀ op, op < 8 → a.kind = .red op false → h.anyBad a.pa 8 = false → h.badTag a.pa = false → After s (.homeRed u q) fun c =>
      c.homes.mem = h.mem.write (canon a.pa) (leBytes (redWrites op (h.word a.pa) a.data).toNat 8)) ∧
    (∀ op, op < 8 → a.kind = .red op true → h.anyBad a.pa 4 = false → h.badTag a.pa = false → After s (.homeRed u q) fun c =>
      c.homes.mem = h.mem.write (canon a.pa) (leBytes (redWrites op (BitVec.ofNat 32 (h.num a.pa 4)) (lo a.data)).toNat 4))

/-- R140, R141: a load-when-full answers the word and leaves it full, or empties it; STEF stores to an empty word and
fills it, STF whatever its tag; SETE empties; a full/empty access whose tag does not fit waits at the home, behind
those that wait already. -/
def Obligations.FullEmptyPerformed : Prop :=
  ∀ (s : State) (u q : Nat) (d : Drover) (a : Access) (h : Homes), AtHome s u q d a → h = s.chip.homes →
    a.leaf.watched = false →
    (noWaiter s.chip a.pa → h.anyBad a.pa a.size = false →
      (a.kind = .ldf → h.tag a.pa = true → After s (.homeFullEmpty u q) fun c => c.homes.tag a.pa = true ∧
        c.homes.mem = h.mem ∧ c.drover? u = some ((d.dropLine a).answer u a.seq
          (a.kind.extend a.size (natOfBytes (h.bytes a.pa a.size))) none none (s.chip.learned u d a))) ∧
      (a.kind = .ldfe → h.tag a.pa = true → After s (.homeFullEmpty u q) fun c => c.homes.tag a.pa = false ∧
        c.homes.mem = h.mem ∧ c.drover? u = some ((d.dropLine a).answer u a.seq
          (a.kind.extend a.size (natOfBytes (h.bytes a.pa a.size))) none none (s.chip.learned u d a))) ∧
      (a.kind = .stf ∨ (a.kind = .stef ∧ h.tag a.pa = false) → After s (.homeFullEmpty u q) fun c =>
        c.homes.tag a.pa = true ∧ c.homes.mem = h.mem.write (canon a.pa) (leBytes a.data.toNat a.size)) ∧
      (a.kind = .sete → After s (.homeFullEmpty u q) fun c => c.homes.tag a.pa = false ∧ c.homes.mem = h.mem)) ∧
    ((a.kind = .ldf ∨ a.kind = .ldfe) ∧ h.tag a.pa = false ∨ a.kind = .stef ∧ h.tag a.pa = true →
      s.chip.waiterRoom a.pa = true → (∀ ta, s.chip.task? u = some ta → ta.alive = true) →
      After s (.homeFullEmpty u q) fun c =>
        c.homes.waiters = h.waiters ++ [.access (wordKey a.pa) a.pa u a.seq] ∧ c.homes.mem = h.mem ∧ c.homes.tags = h.tags)

/-- R133, R134, R136: a continuation atomic at its home, with room for its launch: DECZ of 1 writes 0, answers 1 and
puts one launch into the slice's relay queue; of more it counts down and answers 0; of 0 it answers UNDERFLOW and
writes nothing; CAS that finds its value launches, and otherwise answers 0. -/
def Obligations.ContinuationsPerformed : Prop :=
  ∀ (s : State) (u q : Nat) (d d1 : Drover) (a : Access) (h : Homes) (k : SMap Nat), AtHome s u q d a → h = s.chip.homes →
    a.leaf.watched = false → h.relayLen (sliceOf a.pa) < 64 → h.anyBad a.pa 8 = false →
    d1 = d.dropLine a → k = s.chip.learned u d a →
    (a.kind = .amocDecz →
      (1 < h.num a.pa 8 → After s (.homeContinuation u q) fun c => c.homes.relay = h.relay ∧
        c.homes.mem = h.mem.write (canon a.pa) (leBytes (h.num a.pa 8 - 1) 8) ∧
        c.drover? u = some (d1.answer u q 0 none none k)) ∧
      (h.num a.pa 8 = 1 → After s (.homeContinuation u q) fun c =>
        (∃ (l : Launch), c.homes.relay = h.relay ++ [(sliceOf a.pa, l)] ∧ l.tmpl = a.tmpl ∧ l.tag = a.tag ∧ l.old = 1 ∧ l.exp = d.exp) ∧
        c.homes.mem = h.mem.write (canon a.pa) (leBytes 0 8) ∧
        c.drover? u = some (d1.answer u q 1 none none k)) ∧
      (h.num a.pa 8 = 0 → After s (.homeContinuation u q) fun c => c.homes.mem = h.mem ∧ c.homes.relay = h.relay ∧
        ∃ l : LateErr, l.cause = 0x0B ∧ l.val = BitVec.ofNat 64 a.va ∧
          c.drover? u = some (d1.answer u q 3 (some l) none k))) ∧
    (a.kind = .amocCas →
      (h.word a.pa = a.data → After s (.homeContinuation u q) fun c =>
        (∃ (l : Launch), c.homes.relay = h.relay ++ [(sliceOf a.pa, l)] ∧ l.tmpl = a.tmpl ∧ l.old = a.data) ∧
        c.homes.mem = h.mem.write (canon a.pa) (leBytes a.data2.toNat 8) ∧
        c.drover? u = some (d1.answer u q 1 none none k)) ∧
      (h.word a.pa ≠ a.data → After s (.homeContinuation u q) fun c => c.homes.relay = h.relay ∧
        c.drover? u = some (d1.answer u q 0 none none k)))

/-! ## Serai windows (R10, R155, R256) -/

/-- R10, R256, R155: a store to an inbox register writes it and ends its arming; one to the mailbox is its newest entry,
or waits while the mailbox is full or others wait; the head of an outbound queue becomes the newest entry of the peer's inbound queue; a load at a bank port reads the bank. -/
def Sys2Proof.Claims.WindowAccesses : Prop :=
  ∀ (s : State) (u q m off n : Nat) (d dm : Drover) (a : Access), HasAcc s u q d a → s.chip.drover? m = some dm →
    dm.core.isSome = true → s.chip.arrived u d a = true → a.region = .serai n off →
    (∀ k, k < 4 → windowOf off = .inbox k → a.kind = .store → s.chip.mapTarget u a = some m →
      After s (.inboxMapWrite u q) fun c => ∃ d', c.drover? m = some d' ∧ d'.regs.getX (BitVec.ofNat 5 (24 + k)) = a.data ∧
        (dm.ctl.arm.getLsbD k = true → d'.ctl.arm.getLsbD k = false ∧ look d'.board.pend (24 + k) = none) ∧
        (dm.ctl.arm.getLsbD k = false → d'.ctl.ovr.getLsbD k = true)) ∧
    (windowOf off = .mailbox → a.kind = .store → s.chip.mapTarget u a = some m →
      (dm.queues.mbx.length < 64 → (∀ w, w ∈ s.chip.homes.waiters → w.pushTo m = false) →
        After s (.mailboxPush u q) fun c => ∃ (d' : Drover) (e : QEntry), c.drover? m = some d' ∧
          d'.queues.mbx = dm.queues.mbx ++ [e] ∧ e.val = a.data) ∧
      (64 ≤ dm.queues.mbx.length ∨ (∃ w, w ∈ s.chip.homes.waiters ∧ w.pushTo m = true) →
        After s (.mailboxPush u q) fun c => c.homes.waiters = s.chip.homes.waiters ++ [.push m u q] ∧
          c.drover? u = some (d.onAcc q fun a => { a with phase := .waiting }))) ∧
    (∀ cell b, windowOf off = .bank cell b → a.kind = .load → s.chip.isDead n = false → a.leaf.watched = false →
      s.chip.homes.anyBad a.pa a.size = false →
      After s (.bankPortAccess u q) fun c => c.drover? u = some (d.answer u a.seq
        (a.kind.extend a.size (natOfBytes (s.chip.homes.bytes a.pa a.size))) none none (s.chip.learned u d a))) ∧
    (∀ p, windowOf off = .porter p → After s (.bankPortAccess u q) fun c => ∃ w, c.drover? u = some (d.answer u a.seq w none none []))

/-- R155: the head of an outbound queue moves to the peer's inbound queue when that has room. -/
def Sys2Proof.Claims.PeerQueues : Prop :=
  ∀ (s : State) (u m : Nat) (p : BitVec 4) (d dm : Drover) (v : Caravan) (e : QEntry) (r : List QEntry),
    s.chip.drover? u = some d → s.chip.caravanOf? u = some v → v.members[p.toNat]? = some m → s.chip.drover? m = some dm →
    dm.core.isSome = true → lookD d.queues.outq p.toNat [] = e :: r →
    (dm.queues.inq.length < 32 → After s (.peerQueueTransfer u p) fun c =>
      (∃ d', c.drover? m = some d' ∧ d'.queues.inq = dm.queues.inq ++ [e]) ∧
      ∃ d', c.drover? u = some d' ∧ look d'.queues.outq p.toNat = some r) ∧
    (32 ≤ dm.queues.inq.length → After s (.peerQueueTransfer u p) fun c => c = s.chip)

/-- R10, R155, R256: accesses of serai windows, and entries between peers. -/
def Obligations.WindowsAndPeers : Prop := WindowAccesses ∧ PeerQueues

/-! ## Caches and translations (R250, R260, R261, R263) -/

/-- R260, R268: a plain load of a replicable page homed on another die is answered from the die's copy of the line, or at the
home, which then keeps a copy with the die; eviction and invalidation drop a copy. -/
def Sys2Proof.Claims.RemoteCaches : Prop :=
  ∀ (s : State) (u q : Nat) (d : Drover) (a : Access) (e : BitVec 3) (line : Nat),
    (HasAcc s u q d a → s.chip.arrived u d a = true → a.leaf.replicable = true → a.atSlice = true → d.site = e.toNat →
      sliceOf a.pa / 64 ≠ e.toNat → a.leaf.watched = false → a.kind = .load →
      (∀ l, look s.chip.homes.rcache (canon a.pa / 64 * 8 + e.toNat) = some l →
        After s (.remoteCacheFill e u q) fun c => c.drover? u = some (d.answer u q
          (a.kind.extend a.size (field (leBytes l.toNat 64) (a.pa % 64) a.size)) none (if a.cacheable = true then some l else none)
          (s.chip.learned u d a))) ∧
      (look s.chip.homes.rcache (canon a.pa / 64 * 8 + e.toNat) = none → s.chip.homes.anyBad (a.pa / 64 * 64) 64 = false →
        After s (.remoteCacheFill e u q) fun c =>
          look c.homes.rcache (canon a.pa / 64 * 8 + e.toNat) = some (s.chip.homes.line a.pa) ∧ c.homes.mem = s.chip.homes.mem)) ∧
    (After s (.remoteCacheEvict e line) fun c => look c.homes.rcache (8 * line + e.toNat) = none ∧ c.homes.mem = s.chip.homes.mem) ∧
    (After s (.remoteCacheInvalidate e line) fun c => look c.homes.rcache (8 * line + e.toNat) = none ∧
      c.homes.mem = s.chip.homes.mem)

/-- R250, R261, R263: a drover that waits for a walk is served by the die's cached leaf or else by one entry a step: the step that
finds a leaf puts it into the drover's TLB and ends the wait, one that names a table is followed by the next level, and one that fails
traps XLATE; an invalidation accepted at the control port takes every translation that matches out of every TLB, and is performed
when no access that used one is left, and none is held. -/
def Sys2Proof.Claims.TranslationSteps : Prop :=
  ∀ (s : State) (u q : Nat) (d : Drover) (a : Access) (va : Word),
    (s.chip.drover? u = some d → d.hold = .walk va.toNat → d.run = .running →
      d.walks va.toNat = true →
      (walkable (s.chip.rootOf d) va.toNat = false → WalkTraps s u va) ∧
      (walkable (s.chip.rootOf d) va.toNat = true →
        (∀ l, s.chip.cachedLeaf d.site d.expTag va.toNat = some l → WalkFinds s u va l) ∧
        (s.chip.cachedLeaf d.site d.expTag va.toNat = none → ∀ w, WalkAt s d va w →
          (∀ l, s.chip.homes.walkStep d.expTag va.toNat w.level w.table = .done l → WalkFinds s u va l) ∧
          (∀ t, s.chip.homes.walkStep d.expTag va.toNat w.level w.table = .on t →
            After s (.translationWalk u va) fun c => c.drover? u = some d ∧
              { w with level := w.level + 1, table := t } ∈ c.walkers.walks) ∧
          (s.chip.homes.walkStep d.expTag va.toNat w.level w.table = .fault → WalkTraps s u va) ∧
          (∀ b, s.chip.homes.walkStep d.expTag va.toNat w.level w.table = .bad b → WalkTraps s u va)))) ∧
    (HasAcc s u q d a → a.kind = .store → a.region = .tcp → a.pa % 4096 = 0 → s.chip.arrived u d a = true →
      ∀ (i : Instr) (k : Nat), (i, k) ∈ [(Instr.invalidatePage u q, 0), (.invalidateExpedition u q, 1), (.invalidateAll u q, 2)] →
      a.data.toNat / 2 ^ 61 = k → After s i fun c => ∃ v : Inval, c.homes.invals = s.chip.homes.invals ++ [v] ∧ v.kind = k ∧
        v.exp = a.data.toNat / 2 ^ 45 % 65536 ∧ v.vpn = a.data.toNat % 2 ^ 45 ∧
        ∀ w dw, c.drover? w = some dw → ∀ l, l ∈ dw.mem.tlb → v.hits l = false) ∧
    (∀ (v : Inval) (r : List Inval), s.chip.homes.invals = v :: r → s.chip.inFlight v = false → s.chip.pinned v = false →
      After s .invalidationPerformed fun c => c.homes.invals = r ∧
        ∀ w dw, c.drover? w = some dw → ∀ l, l ∈ dw.mem.tlb → v.hits l = false)

/-- R250, R260, R261, R263, R268: remote caches, walks and invalidations. -/
def Obligations.CachesAndTranslation : Prop := RemoteCaches ∧ TranslationSteps

/-! ## Group steps (R148, R153) -/

/-- R148, R153: an arrival that reaches its group is counted, and completes the phase when it is the last; a departure
lowers the member count, or is kept for the end of a phase in which its task has arrived; a collective whose
participants disagree answers MISMATCH to all of them. -/
def Obligations.GroupSteps : Prop :=
  ∀ (s : State) (u q g : Nat) (d : Drover) (a : Access) (w : Bool) (gr : Group),
    (HasAcc s u q d a → a.kind = .arrive g w → a.phase = .sent → s.chip.group? d.exp g = some gr →
      (gr.arrived + 1 < gr.count → After s (.groupArrival u q) fun c => ∃ h, c.group? d.exp g = some h ∧
        h.arrived = gr.arrived + 1 ∧ h.phase = gr.phase ∧ h.count = gr.count) ∧
      (gr.arrived + 1 = gr.count → gr.colls = [] → After s (.groupArrival u q) fun c => ∃ h, c.group? d.exp g = some h ∧
        h.arrived = 0 ∧ h.phase = gr.phase + 1 ∧ h.arrivals = [])) ∧
    (∀ (m : BitVec 2) (t : Task), s.chip.task? u = some t → s.chip.drover? u = some d → t.groups[m.toNat]? = some (some g) →
      t.state = .retired ∨ t.state = .killed → d.mem.accs = [] → s.chip.group? t.exp g = some gr →
      ((gr.arrivals.any fun a => a.1 == u) = true → After s (.groupDeparture u m) fun c => ∃ h, c.group? t.exp g = some h ∧
        h.deferred = gr.deferred + 1 ∧ h.count = gr.count) ∧
      ((gr.arrivals.any fun a => a.1 == u) = false → gr.arrived + 1 < gr.count →
        After s (.groupDeparture u m) fun c => ∃ h, c.group? t.exp g = some h ∧ h.count = gr.count - 1 ∧ h.depFlag = true)) ∧
    (∀ (e : Nat) (k : BitVec 8), s.chip.group? e k.toNat = some gr → gr.colls ≠ [] → 0 < gr.count → gr.count ≤ gr.arrived →
      collMismatch gr.colls = true →
      After s (.collectiveCombine e k) fun c => ∃ h, c.group? e k.toNat = some h ∧ h.phase = gr.phase + 1 ∧ h.colls = [])

namespace Sys2Proof.Claims

/-- Serai n is held by task u, whose drover is d and whose engines are v, and they move. -/
def Engine (s : State) (n : BitVec 12) (u : Nat) (d : Drover) (v : Serai) : Prop := s.chip.engineAt n.toNat = some (u, d, v)

end Sys2Proof.Claims

/-! ## Streams and copies at work (R57 to R65, R161 to R169, R367) -/

/-- R61, R63, R57, R173, R164: a side list's entries are read one by one; a read step leaves in the porter what it read; a
token of a bound source enters its sink and is counted; a reading porter whose `eot` has left is idle. -/
def Sys2Proof.Claims.PorterReads : Prop :=
  ∀ (s : State) (n : BitVec 12) (p : BitVec 3) (u : Nat) (d : Drover) (v : Serai) (q : Porter) (ds : Desc),
    Engine s n u d v → q = v.porter p.toNat → ds = descOf q.desc →
    (q.cond = 1 → d.cleared q.after = true →
      (q.walk.offsRead = false → ∀ e c1,
        s.chip.sideEntry (q.memEnd u d p.toNat) (ds.side + 4 * q.walk.offs.length) = .ok e c1 →
        After s (.offsetsRead n p) fun c => ((c.serai n.toNat).porter p.toNat).walk.offs = q.walk.offs ++ [e]) ∧
      (q.walk.offsRead = true → ∀ w r q1 c0 e c1, q.walk.begin ds = (w, r) → w.gatherDue ds = true →
        q1 = { q with walk := w, ragged := q.ragged || r } → c0 = s.chip.onSerai n.toNat (fun v => v.onPorter p.toNat fun _ => q1) →
        c0.sideEntry (q1.memEnd u d p.toNat) (w.gatherAt ds) = .ok e c1 →
        After s (.gatherEntryRead n p) fun c => ((c.serai n.toNat).porter p.toNat).walk.gatherNext =
          ((c1.serai n.toNat).porter p.toNat).walk.gatherNext + 1) ∧
      (q.walk.offsRead = true → q.dir = false → q.more = [] → q.buf.length < 16 → q.eotDone = false → ∀ w r k,
        q.walk.begin ds = (w, r) →
        k = Pull.run { q.memEnd u d p.toNat with held := [] } ds 512 false { c := s.chip, w := w, held := q.leaf, toks := [], oob := false, ragged := r, nan := false, moved := 0, eot := false, stop := none } →
        k.stop = none →
        (s.ahead = 0 → After s (.porterRead n p) fun c => (c.serai n.toNat).porter p.toNat = q.refill.pulled k) ∧
        (s.ahead ≠ 0 → ∀ c1 w1, w.readAhead s.chip (q.memEnd u d p.toNat) ds s.ahead = (c1, w1) →
          After s (.porterRead n p) fun c => (c.serai n.toNat).porter p.toNat =
            { q.refill with walk := w1, ragged := q.ragged || r }))) ∧
    (∀ t r e c1, q.dir = false → q.buf = t :: r → s.chip.porterSink u p.toNat q = some e → s.chip.accept s.cycle e t = some c1 →
      After s (.bindingTransfer n (.porter p)) fun c =>
        (c.serai n.toNat).porter p.toNat = ((c1.serai n.toNat).porter p.toNat).emitted) ∧
    (q.cond = 2 → q.dir = false → q.buf = [] → q.more = [] → q.eotDone = true → v = s.chip.serai n.toNat →
      After s (.streamDrained n p) fun c => ((c.serai n.toNat).porter p.toNat).cond = 0)

/-- R65, R276, R367: a writing porter performs its oldest whole chunk, and with none consumes the token at its head: `eot` ends
the stream; the chunks of a block of another module are sent as write packets. -/
def Sys2Proof.Claims.PorterWrites : Prop :=
  ∀ (s : State) (n : BitVec 12) (p : BitVec 3) (u : Nat) (d : Drover) (v : Serai) (q : Porter),
    Engine s n u d v → q = v.porter p.toNat →
    (d.cleared q.after = true →
      (∀ k c1 drop, chunkReady (q.chunks.filter fun k => !k.leaf.rmt) (q.ended || (q.chunks.getLast?.any fun k => k.leaf.rmt)) = some k →
        s.chip.behind (streamAgent u k.sid) q.clk k.pa = false → s.chip.performChunk s.cycle (q.memEnd u d p.toNat) k = (c1, drop, none) →
        After s (.porterWrite n p) fun c => (c.serai n.toNat).porter p.toNat =
          { q with chunks := q.chunks.erase k, oob := q.oob || drop }) ∧
      (∀ t r, q.chunks = [] → q.buf = t :: r → t.isEot = true → q.dir = true → q.cond = 1 → q.walk.offsRead = true →
        After s (.porterWrite n p) fun c => ∃ q', (c.serai n.toNat).porter p.toNat = q' ∧ q'.cond = 2 ∧ q'.eotDone = true ∧
          q'.buf = r ∧ q'.count = q.count + 1 ∧ q'.walk.done = true)) ∧
    (∀ k l m tags c1, firstBlock q.chunks = (k :: l, m) → m = true ∨ q.ended = true →
      s.chip.sendBlocks k.leaf.dev (fun l => .porter u p.toNat l)
        (blockPackets (k.pa / 2048 * 2048) (k.setTag && k.leaf.tagged) (blockImage (k :: l))) [] = some (tags, c1) →
      After s (.writePacketSend n p.toNat) fun c => ((c.serai n.toNat).porter p.toNat).packets = q.packets ++ tags ∧
        ∀ x, x ∈ ((c.serai n.toNat).porter p.toNat).chunks → x ∉ k :: l)

/-- R57, R61, R63, R65, R164, R173, R276, R367: what porters read and write. -/
def Obligations.PorterSteps : Prop := PorterReads ∧ PorterWrites

/-- R169: a channel's oldest copy delivers the token at its head to its sink, and when its writes are performed the
copy completes with the elements moved. -/
def Obligations.CopySteps : Prop :=
  ∀ (s : State) (n : BitVec 12) (ch : BitVec 1) (u : Nat) (d : Drover) (v : Serai) (j : CopyJob) (jobs : List CopyJob),
    Engine s n u d v → v.copy.jobs ch.toNat = j :: jobs →
    (d.cleared j.after = true → j.chunks = [] → j.eotDone = false → j.dstMem = false → j.srcMem = false ∨ j.walk.offsRead = true →
      s.ahead = 0 →
      ∀ t r e c1, j.buf = t :: r → j.dst = some e → s.chip.accept s.cycle e t = some c1 →
      After s (.copyMove n ch) fun c => ((c.serai n.toNat).copy.jobs ch.toNat).head? =
        some { j with buf := r, eotDone := t.isEot }) ∧
    (j.eotDone = true → j.chunks = [] → j.packets = [] → j.code = none → j.late = none → 0 < j.rd → j.rd < 28 →
      look d.board.pend j.rd = some (.copy ch.toNat j.id) → v = s.chip.serai n.toNat →
      After s (.copyComplete n ch) fun c => (c.serai n.toNat).copy.jobs ch.toNat = jobs ∧
        ∃ d', c.drover? u = some d' ∧ d'.regs.getX (BitVec.ofNat 5 j.rd) = BitVec.ofNat 64 (j.moved % 2 ^ 32 * 2 ^ 32) ∧
          look d'.board.pend j.rd = none)

/-! ## Contexts at work (R225 to R241) -/

/-- R228, R238, R239, R241: a context that the parse unit grants takes its next step: a parse step, a token of a skip, or the
pops that end one. -/
def Sys2Proof.Claims.ParseSteps : Prop :=
  ∀ (s : State) (n : BitVec 12) (g : BitVec 2) (u : Nat) (d : Drover) (v : Serai) (o : CtxStep),
    Engine s n u d v → v = s.chip.serai n.toNat → v.granted g.toNat = true →
    ∀ (i : Instr) (k : StepKind), (i, k) ∈ [(.parseStep n g, .parse), (.skip n g, .skip), (.recoveryPop n g, .pop)] →
    v.nextStep g.toNat = some (k, o) →
    After s i fun c => ∃ x, (c.serai n.toNat).ctx g.toNat = x ∧ x.stack = o.ctx.stack ∧ x.cond = o.ctx.cond ∧
      x.afifo = o.ctx.afifo ∧ x.out = o.ctx.out ∧ (c.serai n.toNat).lastCtx = g.toNat

/-- R225, R226, R233 to R236: the next token of the output order goes to the context's sink; INJECT puts its directive into
its portal, POST its record into the action port, an empty COMMAND fails, TRAP raises SWTRAP for the task; each action leaves
the FIFO. -/
def Sys2Proof.Claims.ContextActions : Prop :=
  ∀ (s : State) (n : BitVec 12) (g : BitVec 2) (u : Nat) (d : Drover) (v : Serai) (x : Context) (a : Fired),
    Engine s n u d v → v = s.chip.serai n.toNat → x = v.ctx g.toNat →
    (∀ t r c1, x.out = .tok t :: r → (x.eotheld && t.isEot) = false →
      s.chip.ctxDeliver s.cycle n.toNat u g.toNat t = some c1 →
      After s (.contextForward n g) fun c => ((c.serai n.toNat).ctx g.toNat).out = r) ∧
    (∀ pg p p', x.dueInject = some a → v.pager.quarter ≠ some (bitsOf a.word 46 2) →
      v.resident (bitsOf a.word 46 2) = some (pg, p) → p.portalIs (bitsOf a.word 43 3) false = true →
      p.offer s.cycle (1 + g.toNat) (bitsOf a.word 43 3) (Token.directive (bitsOf a.word 48 8)) = some p' →
      After s (.inject n g) fun c => look (c.serai n.toNat).pages pg = some p' ∧
        ((c.serai n.toNat).ctx g.toNat).afifo = x.afifo.drop 1 ∧ ((c.serai n.toNat).ctx g.toNat).out = x.out.drop 1) ∧
    (x.due 1 = some a → ¬ (v.lastPost.1 = s.cycle ∧ g.toNat < v.lastPost.2) → d.queues.act.length < 32 → d.core.isSome = true →
      After s (.post n g) fun c => ((c.serai n.toNat).ctx g.toNat).afifo = x.afifo.drop 1 ∧ ∃ (d' : Drover) (e : QEntry), c.drover? u = some d' ∧
        d'.queues.act = d.queues.act ++ [e] ∧ e.val = BitVec.ofNat 64 (g.toNat * 2 ^ 62 + bitsOf a.word 0 56)) ∧
    (x.due 2 = some a → byteAt (slice x.ctab (16 * bitsOf a.word 48 4) 16) 0 = 0 →
      After s (.command n g) fun c => ((c.serai n.toNat).ctx g.toNat).cmdfail = true ∧
        ((c.serai n.toNat).ctx g.toNat).afifo = x.afifo.drop 1) ∧
    (x.due 2 = some a → byteAt (slice x.ctab (16 * bitsOf a.word 48 4) 16) 0 = 1 → ∀ b c1 c2 id w,
      s.chip.readBlock (blockAgent u + 32 + g.toNat) u d (field (slice x.ctab (16 * bitsOf a.word 48 4) 16) 8 8) 128 = .ok b c1 →
      (c1.dropFar (blockAgent u + 32 + g.toNat)).openStream n.toNat u d (byteAt (slice x.ctab (16 * bitsOf a.word 48 4) 16) 1)
        (BitVec.ofNat 64 (byteAt (slice x.ctab (16 * bitsOf a.word 48 4) 16) 2)) (BitVec.ofNat 1024 (natOfBytes b)) = (w, c2) →
      id = (c1.serai n.toNat).nextSid → w = 0 →
      After s (.command n g) fun c => ((c.serai n.toNat).ctx g.toNat).cmds = ((c2.serai n.toNat).ctx g.toNat).cmds ++ [id]) ∧
    (x.due 3 = some a → s.chip.drover? u = some d →
      After s (.trapAction n g) fun c => ((c.serai n.toNat).ctx g.toNat).trapWait = true ∧
        ((c.serai n.toNat).ctx g.toNat).afifo = x.afifo.drop 1 ∧ ∃ (d' : Drover) (r : TrapReq), c.drover? u = some d' ∧ d'.async = d.async ++ [r] ∧
          r.cause = 0x13 ∧ r.val = BitVec.ofNat 64 (bitsOf a.word 0 48))

/-- R225, R226, R228, R233 to R236, R238, R239, R241: parsing, recovery and actions of the sequencer. -/
def Obligations.SequencerSteps : Prop := ParseSteps ∧ ContextActions

namespace Sys2Proof.Claims

/-- Page pg stands in quarter q of serai n with registers g, and the quarter moves (R299). -/
def PageAt (s : State) (n : BitVec 12) (q : BitVec 2) (pg : Nat) (g : Page) : Prop :=
  ∃ u d v, Engine s n u d v ∧ v.resident q.toNat = some (pg, g) ∧ v.quarterRuns q.toNat = true

/-- And the governor of its die withholds no step of cell i in this cycle (R196, R366). -/
def CellAt (s : State) (n : BitVec 12) (q : BitVec 2) (i : BitVec 6) (pg : Nat) (g : Page) : Prop :=
  PageAt s n q pg g ∧ (s.chip.govAt s.cycle).held.contains (n.toNat, q.toNat, i.toNat) = false

/-- Operation x, the k-th of a quarter's wave-order unit, is performed: it leaves the unit, the wave is its own, and what it answers
stands in its cell's output register. -/
def Performs (s : State) (n : BitVec 12) (q : BitVec 2) (k pg : Nat) (g : Page) (x : WaveOp) (tok : Option Token) : Prop :=
  After s (.waveOrderPerform n q k) fun c => ∃ g', look (c.serai n.toNat).pages pg = some g' ∧ g'.waves = dropAt g.waves k ∧
    g'.lastWave = ((g.word x.cell).wthis, (g.word x.cell).wsucc) ∧
    ∀ t, tok = some t → (look g'.cst x.cell).map (·.out) = some (some (t.placed x.q.pos))

/-- Page pg of serai n is g afterwards, and the cause of poison that its step has made is noted for its quarter. -/
def pageIs (c : Chip) (n : BitVec 12) (pg : Nat) (g : Page) : Prop := look (c.serai n.toNat).pages pg = some { g with made := 0 }

/-- A step j of a cell gives a chip. A CIM cell's step counts it among the active cells of its die, for a block's 8 cycles or for 1,
and waits while they are 8,192 (R3, R213). -/
def Fires (s : State) (j : Instr) (st : Seat) (c1 : Chip) : Prop :=
  (st.w.op ≠ .cim → After s j fun c => c = c1) ∧
  (st.w.op = .cim →
    (s.chip.cimFull s.cycle st.n st.q st.i = false → After s j fun c => ∃ k, (k = 1 ∨ k = 8) ∧ c = c1.countCim s.cycle st.n st.q st.i k) ∧
    (s.chip.cimFull s.cycle st.n st.q st.i = true → After s j fun c => c = s.chip))

end Sys2Proof.Claims

/-! ## Cells, hops and routers (R194 to R223) -/

/-- R196, R200: a DATA firing takes every head; what the operation gives stands in the output register and behind it; a
firing that meets POISON passes it on by its own rules; an operation of a memory cell enters the wave-order unit. -/
def Sys2Proof.Claims.CellFirings : Prop :=
  ∀ (s : State) (n : BitVec 12) (q : BitVec 2) (i : BitVec 6) (pg : Nat) (g : Page) (st : Seat) (hs : List Token) (f : Fire),
    CellAt s n q i pg g → st = g.seat n.toNat q.toNat pg i.toNat → g.next i.toNat = .data hs →
    (st.poisonOf hs = none → st.w.op.isMem = false → st.w.op ≠ .acc →
      f = (g.cellAt i.toNat).data st (st.view s.chip) (st.w.operands st.w.inputs hs) →
      Fires s (.cellDataFiring n q i) st (s.chip.fire s.cycle st (g.takeAll i.toNat) f (headPos hs))) ∧
    (∀ t k, st.poisonOf hs = some (t, k) → st.w.op.isMem = false →
      Fires s (.cellDataFiring n q i) st
        (s.chip.fire s.cycle st (g.takeAll i.toNat) { (g.cellAt i.toNat).poisoned st.w t with cause := k } t.pos)) ∧
    (st.w.op.isMem = true → g.waves.length < 16 →
      After s (.cellDataFiring n q i) fun c => ∃ (g' : Page) (o : WaveOp), pageIs c n pg g' ∧ g'.waves = (g.takeAll i.toNat).waves ++ [o] ∧
        o.cell = i.toNat) ∧
    (st.w.op = .acc → st.poisonOf hs = none → ∀ p r, st.w.operands st.w.inputs hs = p :: r →
      (g.cellAt i.toNat).accFire st (st.view s.chip) p r.head? = some f →
      After s (.accUpdate n q i) fun c => c = s.chip.fire s.cycle st (g.takeAll i.toNat) f (headPos hs))

/-- R196 to R199: heads that are marks of one level make a mark step, SCALE and DIRECTIVE heads are handled one by one, and the
next token of a result of several follows when the output register is free. -/
def Sys2Proof.Claims.CellSideSteps : Prop :=
  ∀ (s : State) (n : BitVec 12) (q : BitVec 2) (i : BitVec 6) (pg : Nat) (g : Page) (st : Seat) (x : Cell),
    CellAt s n q i pg g → st = g.seat n.toNat q.toNat pg i.toNat → x = g.cellAt i.toNat →
    (∀ t hs, g.next i.toNat = .marks (t :: hs) → (∀ h, h ∈ t :: hs → h.isMark = true ∧ h.level = t.level) →
      Fires s (.cellMarkStep n q i) st (s.chip.fire s.cycle st (g.takeAll i.toNat)
        (x.mark st (st.view s.chip) t.pos t.level.toNat) t.pos)) ∧
    (∀ t hs, g.next i.toNat = .marks (t :: hs) → (∃ h, h ∈ t :: hs ∧ (h.isMark = false ∨ h.level ≠ t.level)) →
      ∃ m, Fires s (.cellMarkStep n q i) st (s.chip.fire s.cycle st (g.takeAll i.toNat) (st.spoil x 0x41 m t.pos) t.pos)) ∧
    (∀ k sel t, g.next i.toNat = .side k sel t →
      (t.kind = 2 → x.out = none ∨ (x.scaleStep st.w k t).toks = [] → Fires s (.cellScaleStep n q i) st
        (s.chip.fire s.cycle st (g.take i.toNat sel false) (x.scaleStep st.w k t) t.pos)) ∧
      (t.kind = 3 → x.out = none ∨ (x.directive st (st.view s.chip) t).toks = [] → Fires s (.cellDirectiveStep n q i) st
        (s.chip.fire s.cycle st (g.take i.toNat sel false) (x.directive st (st.view s.chip) t) t.pos))) ∧
    (∀ t r, g.hasCell i.toNat = true → x.out = none → x.emit = t :: r →
      After s (.cellEmitNext n q i) fun c => pageIs c n pg (g.setCell i.toNat { x with out := some t, emit := r }))

/-- R196 to R200: a cell's firing, marks, SCALE and DIRECTIVE. -/
def Obligations.CellSteps : Prop := CellFirings ∧ CellSideSteps

/-- R194, R195: the token in an output register moves to all its destinations at once, when each has room; one in a hop
arrives at its far end, and is discarded where nothing reads it. -/
def Sys2Proof.Claims.TokenMoves : Prop :=
  ∀ (s : State) (n : BitVec 12) (q : BitVec 2) (i : BitVec 6) (d : BitVec 2) (pg : Nat) (g : Page) (t : Token), PageAt s n q pg g →
    ((g.cellAt i.toNat).out = some t →
      (g.roomFor i.toNat (g.word i.toNat).omask (oportOf (g.word i.toNat).oport) = true →
        After s (.outputMove n q i 0) fun c => pageIs c n pg ((g.setCell i.toNat { g.cellAt i.toNat with out := none }).deliver i.toNat
          (g.word i.toNat).omask (oportOf (g.word i.toNat).oport) t)) ∧
      (g.roomFor i.toNat (g.word i.toNat).omask (oportOf (g.word i.toNat).oport) = false →
        After s (.outputMove n q i 0) fun c => c = s.chip)) ∧
    (∀ r, r = g.routerAt i.toNat → r.out = some t → g.roomFor i.toNat r.dirs.toNat r.portal = true →
      After s (.outputMove n q i 1) fun c => pageIs c n pg ((g.setRouter i.toNat { r with out := r.emit.head?, emit := r.emit.drop 1 }).deliver
        i.toNat r.dirs.toNat r.portal t)) ∧
    (∀ l x, l = lookD g.hops (hopKey i.toNat d.toNat) [] →
      (g.hopRead (hopKey i.toNat d.toNat) = true → l = [x] →
        After s (.veinHop n q i d) fun c => ∃ g', pageIs c n pg g' ∧
          look g'.hops (hopKey i.toNat d.toNat) = some [{ x with here := true }]) ∧
      (g.hopRead (hopKey i.toNat d.toNat) = false →
        After s (.veinHop n q i d) fun c => ∃ g', pageIs c n pg g' ∧ look g'.hops (hopKey i.toNat d.toNat) = some (l.drop 1)))

/-- R220 to R223: a router whose output register is free takes the step of its operator on its heads, and consumes a structure
token at its control input; ROUTE passes a source's token to every output that names it. -/
def Sys2Proof.Claims.RouterSteps : Prop :=
  ∀ (s : State) (n : BitVec 12) (q : BitVec 2) (i : BitVec 6) (pg : Nat) (g : Page) (x : XvWord) (r : Router) (h : XvHeads),
    PageAt s n q pg g → x = g.xv i.toNat → r = g.routerAt i.toNat → h = g.xvHeads i.toNat x → r.out = none →
    (∀ (j : Instr) (k : Nat), (j, k) ∈ [(.steer n q i, 1), (.merge n q i, 2), (.carry n q i, 3), (.inv n q i, 4), (.fork n q i, 5)] →
      x.xop = k → h.ctl.any Token.isStructure = true →
      After s j fun c => pageIs c n pg (g.take i.toNat x.ctl true)) ∧
    (h.ctl.any Token.isStructure = false → ∀ t : Token,
      (x.xop = 5 → h.a = some t → After s (.fork n q i) fun c => ∃ g', pageIs c n pg g' ∧
        (look g'.xst i.toNat).map (·.out) = some (some t)) ∧
      (x.xop = 1 → h.a = some t → t.isStructure = false → ∀ k, h.ctl = some k → k.kind ≠ 4 →
        After s (.steer n q i) fun c => ∃ g', pageIs c n pg g' ∧ ∃ r', look g'.xst i.toNat = some r' ∧
          (k.truth.1 = true → r'.out = some t ∧ r'.dirs = BitVec.ofNat 4 x.omt) ∧
          (k.truth.1 = false → x.omf ≠ 0 → r'.out = some t ∧ r'.dirs = BitVec.ofNat 4 x.omf) ∧
          (k.truth.1 = false → x.omf = 0 → r'.out = none)) ∧
      (x.xop = 2 → h.a = some t → h.b = none → t.isStructure = false → ∀ k, h.ctl = some k → k.truth = (true, false) →
        After s (.merge n q i) fun c => ∃ g', pageIs c n pg g' ∧ (look g'.xst i.toNat).map (·.out) = some (some t)) ∧
      (x.xop = 3 → r.loop = false → h.a = some t → t.isStructure = false → h.b = none →
        After s (.carry n q i) fun c => ∃ g', pageIs c n pg g' ∧
          (look g'.xst i.toNat).map (fun r => (r.out, r.loop)) = some (some t, true)) ∧
      (x.xop = 4 → r.held = some t → h.a = none → ∀ k, h.ctl = some k → k.truth = (true, false) →
        After s (.inv n q i) fun c => ∃ g', pageIs c n pg g' ∧
          (look g'.xst i.toNat).map (fun r => (r.out, r.held)) = some (some t, some t))) ∧
    (∀ (d : BitVec 2) (t : Token) (sel : Nat), x.xop = 0 → x.rmap[d.toNat]? = some sel → sel ≠ 0 → g.head i.toNat sel true = some t →
      After s (.route n q i d) fun c => ∃ g', pageIs c n pg g' ∧ (look g'.xst i.toNat).map (·.out) = some (some t))

/-- R194, R195, R220 to R223: tokens on veins, at portals and through routers. -/
def Obligations.TokenTransport : Prop := TokenMoves ∧ RouterSteps

/-- R217: an operation of the wave-order unit that is next in wave order and the oldest of its cell is performed, on a
row or by addresses, and a poisoned one gives its poison; it leaves the unit, and the wave goes on. R297: an open
quarter admits an enabled firing. -/
def Obligations.WavesAndFirings : Prop :=
  ∀ (s : State) (n : BitVec 12) (q : BitVec 2) (k : Nat) (pg : Nat) (g : Page), PageAt s n q pg g →
    (∀ x st, g.waves[k]? = some x → st = g.seat n.toNat q.toNat pg x.cell → g.waveNext st.w = true →
      ((g.waves.take k).any fun y => y.cell == x.cell) = false →
      (g.cellAt x.cell).out = none → (g.cellAt x.cell).emit = [] →
      (x.q.kind = 4 → Performs s n q k pg g x (some x.q)) ∧
      (x.q.kind ≠ 4 → x.d.kind = 4 → Performs s n q k pg g x (some x.d)) ∧
      (x.q.kind ≠ 4 → x.d.kind ≠ 4 →
        (st.w.op = .bld ∨ st.w.op = .bst → ∀ tok e c1, s.chip.rowOp s.cycle st x.q x.d = .done tok e c1 →
          Performs s n q k pg g x tok) ∧
        (st.w.op = .gld ∨ st.w.op = .gst → ∀ u d v, Engine s n u d v →
          (∀ tok e c1, s.chip.gatherOp s.cycle u st x.q x.d = .done tok e c1 → Performs s n q k pg g x tok) ∧
          (s.chip.gatherOp s.cycle u st x.q x.d = .waits → After s (.waveOrderPerform n q k) fun c => c = s.chip)))) ∧
    (∀ u d v, Engine s n u d v → v.pager.quarter ≠ some q.toNat → g.enabled = true →
      After s (.firingAdmit n q) fun c => ∃ g', pageIs c n pg g' ∧ g'.firings = g.firings + 1 ∧ g'.enabledAt = s.cycle ∧
        g'.idle = false)

/-! ## The pager (R298, R299) -/

/-- R298, R299: the pager closes a victim's quarter for the candidate, or takes a free one; gives up after 4,096
cycles; saves the victim, loads the candidate, opens the quarter; a page idle for 4,096 cycles counts no tokens, and
an exclusion ends after 65,536. -/
def Obligations.PagerSteps : Prop :=
  ∀ (s : State) (n : BitVec 12) (u : Nat) (d : Drover) (v : Serai) (pg vic q since : Nat) (g x : Page),
    Engine s n u d v → v = s.chip.serai n.toNat →
    (v.pager = .idle → v.pageCandidate = some (pg, g) →
      (∀ k, (List.range 4).find? (fun q => (v.resident q).isNone) = some k →
        After s (.pagerClose n) fun c => (c.serai n.toNat).pager = .saved k pg s.cycle) ∧
      ((∀ k, k < 4 → (v.resident k).isSome = true) → v.pageVictim g.waiting = some (vic, x) → x.quarter = some q →
        After s (.pagerClose n) fun c => (c.serai n.toNat).pager = .closing q pg vic s.cycle)) ∧
    (v.pager = .closing q pg vic since → look v.pages vic = some x →
      (x.quiescent = false → since + 4096 ≤ s.cycle → After s (.pagerCloseTimeout n) fun c => (c.serai n.toNat).pager = .idle ∧
        (look (c.serai n.toNat).pages vic).map (·.excludedAt) = some (some s.cycle)) ∧
      (x.quiescent = true → After s (.pagerSave n) fun c => (c.serai n.toNat).pager = .saved q pg (s.cycle + 64) ∧
        look (c.serai n.toNat).pages vic = some { x with quarter := none })) ∧
    (v.pager = .saved q pg since → look v.pages pg = some g → since ≤ s.cycle →
      After s (.pagerLoad n) fun c => (look (c.serai n.toNat).pages pg).map (·.quarter) = some (some q) ∧
        (c.serai n.toNat).pager = .loaded q pg (s.cycle + 256 + 64)) ∧
    (v.pager = .loaded q pg since → since ≤ s.cycle → v.injectWaits q = false →
      After s (.pagerOpen n) fun c => (c.serai n.toNat).pager = .idle) ∧
    (∀ k : BitVec 8, look v.pages k.toNat = some g →
      (g.quarter.isSome = true → g.enabled = false → g.enabledAt + 4096 ≤ s.cycle →
        After s (.pageIdleExpiry n k) fun c => look (c.serai n.toNat).pages k.toNat = some { g with idle := true }) ∧
      (∀ t, g.excludedAt = some t → t + 65536 ≤ s.cycle →
        After s (.pagerExclusionExpiry n k) fun c => look (c.serai n.toNat).pages k.toNat = some { g with excludedAt := none }))

/-! # The bazaar, saving, traps (R280 to R295, R321 to R343) -/

namespace Sys2Proof.Claims

/-- A caravan after an event. -/
def CaravanIs (c : Chip) (cv : Nat) (v : Caravan) : Prop := c.caravan? cv = some v

/-- Which of two resident caravans resident deadlock pre-empts: one whose save was not refused before one whose was, the
longer refused first; then lower priority, then later dispatch (R295). -/
def sooner (a b : Caravan) : Prop :=
  (a.passedAt.map (· + 1)).getD 0 < (b.passedAt.map (· + 1)).getD 0 ∨
    ((a.passedAt.map (· + 1)).getD 0 = (b.passedAt.map (· + 1)).getD 0 ∧
      (a.prio < b.prio ∨ (a.prio = b.prio ∧ b.dispatchedAt < a.dispatchedAt)))

/-- A packet queued on the link that leads to its device. -/
def Shipped (s : State) (c : Chip) (p : Packet) : Prop :=
  ∀ l k, s.chip.linkTo p.dst = some l → s.chip.links[l]? = some k →
    c.links[l]? = some { k with outFlits := k.outFlits ++ flitsOf 10 true p.bytes }

/-- The task, caravan, expedition and drover that a step of the chrysalis engine is about. -/
def Saves (s : State) (u : Nat) (t : Task) (d : Drover) (v : Caravan) (x : Expedition) : Prop :=
  s.chip.task? u = some t ∧ s.chip.drover? u = some d ∧ s.chip.caravan? t.caravan = some v ∧ s.chip.exp? t.exp = some x

end Sys2Proof.Claims

/-- R136 to R138, R283, R284, R287: a launch that a slice has taken becomes a caravan, ready at once, or is logged;
one in the spill area becomes a caravan in its turn, with its readiness time; a watch finds its word full or leaves a
record at its home. -/
def Obligations.LaunchesAndWatches : Prop :=
  ∀ s : State,
    (∀ (sl : BitVec 9) (e k : Nat) (l : Launch), e < 64 → (s.chip.homes.relay.filter fun p => p.1 == sl.toNat)[e]? = some (k, l) →
      (s.chip.launching l = none → After s (.launchDelivery sl e) fun c => c.homes.relay = s.chip.homes.relay.erase (sl.toNat, l)) ∧
      (∀ g, s.chip.launching l = some g → s.chip.takesEntry (sl.toNat / 64) l.exp = true →
        After s (.launchDelivery sl e) fun c => c.homes.relay = s.chip.homes.relay.erase (sl.toNat, l) ∧
          ∃ v, CaravanIs c s.chip.sched.nextCv v ∧ v.exp = l.exp ∧ v.members.length = g.tem.size ∧ v.ready = s.cycle ∧
            (v.place = .queue (sl.toNat / 64) ∨ v.place = .spilled (sl.toNat / 64)))) ∧
    (∀ (die : BitVec 3) (e k i : Nat) (x : Expedition) (l : Launch) (g : Launching), s.chip.queueLen die.toNat < 2048 →
      s.chip.nextSpilled die.toNat e = some (k, true, i) → s.chip.exp? e = some x → x.spill[i]? = some l →
      s.chip.launching l = some g → After s (.spillRefill die e) fun c => ∃ v, CaravanIs c s.chip.sched.nextCv v ∧ v.exp = l.exp ∧
        v.members.length = g.tem.size ∧ v.ready = l.since ∧ v.place = .queue (sliceOf l.word / 64)) ∧
    (∀ (cv : Nat) (i : BitVec 2) (v : Caravan) (w : Nat), s.chip.caravan? cv = some v → look v.watches i.toNat = some w →
      s.chip.watchPlaced cv i.toNat = false → w < 2 ^ 48 →
      (s.chip.homes.tag w = false → s.chip.waiterRoom w = true →
        After s (.watchRegister cv i) fun c => c.homes.waiters = s.chip.homes.waiters ++ [.watch (wordKey w) w cv i.toNat]) ∧
      (s.chip.homes.tag w = true → del v.watches i.toNat = [] → ∀ die, v.place = .watching die →
        After s (.watchRegister cv i) fun c => ∃ v', CaravanIs c cv v' ∧ v'.watches = [] ∧ v'.ready = s.cycle ∧
          (v'.place = .queue die ∨ v'.place = .spilled die)))

/-- R286 to R295: dispatch puts a caravan on its serais; an entry passed over for 65,536 cycles reserves; an entry ages by one
level every 2^20 cycles; refill, advertisement and migration move entries; a caravan whose members are all blocked for
YIELDTH is to be saved for a yield, and resident deadlock saves one that is pinned. -/
def Sys2Proof.Claims.BazaarSteps : Prop :=
  ∀ (s : State) (cv : Nat) (v : Caravan), s.chip.caravan? cv = some v →
    (∀ (die : BitVec 3) (l : List (Nat × Nat)),
      firstEntry ((s.chip.queuedAt s.cycle die.toNat).filter fun p => s.chip.neverFits p.2) = none →
      s.chip.dispatched s.cycle die.toNat = false →
      s.chip.nextDispatch s.cycle die.toNat = some (cv, { v with prio := v.levelAt s.cycle }, l) → s.chip.writeouts l = [] →
      After s (.dispatch die) fun c =>
        CaravanIs c cv { v with place := .resident die.toNat, dispatchedAt := s.cycle, passedAt := none, prio := v.levelAt s.cycle,
                                reason := none, wake := false } ∧
          (∀ u t, u ∈ v.members → s.chip.task? u = some t → t.alive = true → ∃ t', c.task? u = some t' ∧ t'.state = .dispatched) ∧
          (∀ u n d t, l = [(u, n)] → s.chip.drover? u = some d → s.chip.task? u = some t → t.slot = none →
            c.drover? u = some { d with core := some n, run := .starting s.cycle })) ∧
    (∀ (die : BitVec 3) (b : Bazaar) (t : Nat), firstEntry (s.chip.queued die.toNat) = some (cv, v) →
      s.chip.sched.bazaars[die.toNat]? = some b → b.reserving = none → v.passedAt = some t → t + 65536 ≤ s.cycle →
      After s (.reserving die) fun c => c.sched.bazaars[die.toNat]? = some { b with reserving := some cv }) ∧
    (∀ die, v.place = .queue die → v.agedAt + 2 ^ 20 ≤ s.cycle →
      After s (.aging cv) fun c => CaravanIs c cv { v with prio := min 7 (v.prio + 1), agedAt := v.agedAt + 2 ^ 20,
                                                           rose := if v.prio < 7 then some s.cycle else v.rose }) ∧
    (∀ (die : BitVec 3) (k : Nat), s.chip.queueLen die.toNat < 2048 → s.chip.nextSpilled die.toNat v.exp = some (k, false, cv) →
      After s (.spillRefill die v.exp) fun c => CaravanIs c cv { v with place := .queue die.toNat, agedAt := s.cycle }) ∧
    (∀ (die : BitVec 3) (k : Nat), s.chip.migrationPick die.toNat = some (cv, v, k) → s.chip.imagesFull v = true →
      After s (.migrationSend die) fun c => CaravanIs c cv { v with place := .migrating die.toNat k }) ∧
    (∀ (die : BitVec 3) (src : Nat), v.place = .migrating src die.toNat →
      (∀ p, p ∈ s.chip.sched.caravans → (p.2.comesTo die.toNat).isSome = true → p = (cv, v)) →
      After s (.migrationReceive die) fun c => ∃ v', CaravanIs c cv v' ∧ v'.prio = v.prio ∧ v'.ready = v.ready ∧ v'.members = v.members ∧
        v'.place = if s.chip.takesEntry die.toNat v.exp = false then .queue src
          else if s.chip.queueLen die.toNat < 2048 then .queue die.toNat else .spilled die.toNat) ∧
    (∀ (die : BitVec 3) (dev : BitVec 9), s.chip.modulePick s.cycle die.toNat = some (cv, v) → s.chip.mayTravel v = true →
      (∃ x, s.chip.exp? v.exp = some x ∧ x.modules.contains dev.toNat = true) → dev ≠ s.chip.mgmt.devid →
      (s.chip.linkTo dev.toNat).isSome = true → v.members.length ≤ lookD s.chip.sched.modAdverts dev.toNat 0 →
      After s (.moduleMigration die dev) fun c => CaravanIs c cv { v with place := .migrating die.toNat (8 + dev.toNat) }) ∧
    (∀ die, v.place = .resident die → v.pinned = false → v.reason = none → s.chip.living v ≠ [] →
      s.chip.allBlocked s.cycle (fun d => d.ctl.yieldth.toNat) v = true →
      After s (.yieldThreshold cv) fun c => CaravanIs c cv { v with reason := some 0 }) ∧
    (∀ (die : BitVec 3) (b : Bazaar) (t : Nat), s.chip.sched.bazaars[die.toNat]? = some b → look b.deadlock v.exp = some t →
      t + 65536 ≤ s.cycle → (cv, v) ∈ s.chip.residents die.toNat v.exp → v.reason = none →
      (∀ p, p ∈ s.chip.residents die.toNat v.exp → p.2.reason = none → p = (cv, v) ∨ sooner v p.2) →
      After s (.deadlockPreempt die v.exp) fun c => CaravanIs c cv { v with reason := some 2 })

/-- R292, R293: a die advertises its free serais every 4,096 cycles, a module the room of its roomiest die, with the
working serais of its largest, every 65,536. -/
def Sys2Proof.Claims.Advertisements : Prop :=
  ∀ s : State,
    (∀ (die : BitVec 3) (b : Bazaar), s.chip.sched.bazaars[die.toNat]? = some b → b.advertisedAt + 4096 ≤ s.cycle →
      After s (.advertise die) fun c =>
        c.sched.bazaars[die.toNat]? = some { b with advertised := (s.chip.freeSerais die.toNat).length, advertisedAt := s.cycle }) ∧
    (∀ dev : BitVec 9, s.chip.modules.contains dev.toNat = true → dev ≠ s.chip.mgmt.devid →
      (∀ t, look s.chip.sched.advertSent dev.toNat = some t → t + 65536 ≤ s.cycle) →
      After s (.moduleAdvertise dev) fun c => look c.sched.advertSent dev.toNat = some s.cycle ∧
        Shipped s c { ptype := 10, err := 0, dst := dev.toNat, src := s.chip.mgmt.devid.toNat, tag := 0, addr := 0,
                      data := leBytes s.chip.roomiest.2 2 ++ leBytes s.chip.largestDie 2 })

/-- R286 to R295: the bazaar's own steps. -/
def Obligations.Bazaar : Prop := BazaarSteps ∧ Advertisements

/-- R338 to R340, R290: a save takes the lowest free slot of the chrysalis area, gates the serai, writes the image
behind its header; a failed walk refuses it; a restore takes the registers from a good image, and a bad one puts the
caravan back into the ready queue; held banks are written behind it. -/
def Obligations.SavingSteps : Prop :=
  ∀ (s : State) (u : Nat) (t : Task) (d : Drover) (v : Caravan) (x : Expedition), Saves s u t d v x →
    (∀ n r table c1, d.core = some n → v.reason = some r → t.alive = true → look s.chip.sched.saving u = none →
      s.chip.readBlock (blockAgent u) u d x.chrysalis (min x.slots 4096) = .ok table c1 →
      (∀ k, freeSlotOf table = some k →
        (∀ pins c2, (c1.dropFar (blockAgent u)).slotWalk u d (slotAddr x.chrysalis k) true (imageBytes (savesFull r) / 4096) = .ok pins c2 →
          After s (.saveWalk u) fun c => look c.sched.saving u = some (.walked k (savesFull r) pins)) ∧
        (∀ why a, (c1.dropFar (blockAgent u)).slotWalk u d (slotAddr x.chrysalis k) true (imageBytes (savesFull r) / 4096) = .bad why a →
          d.run ≠ .gated → After s (.saveWalk u) fun c => ∃ v', CaravanIs c t.caravan v' ∧ v'.reason = none)) ∧
      (freeSlotOf table = none → d.run ≠ .gated →
        After s (.saveWalk u) fun c => ∃ v', CaravanIs c t.caravan v' ∧ v'.reason = none)) ∧
    (∀ n k full pins, d.core = some n → look s.chip.sched.saving u = some (.walked k full pins) → s.chip.allWalked v = true →
      d.hold ≠ .yielding →
      ((s.chip.setDrover u { d with run := .gated }).storeBlock u { d with run := .gated } (slotAddr x.chrysalis k)
        (((s.chip.setDrover u { d with run := .gated }).imageHeader u n s.cycle t v x d.held full false).take 8) pins).2 = none →
      After s (.gating u) fun c =>
        look c.sched.saving u = some (.gatedIn k full s.cycle pins) ∧ c.drover? u = some { d with run := .gated }) ∧
    (∀ n k full since pins (c0 c1 c2 c3 : Chip) img, d.core = some n →
      look s.chip.sched.saving u = some (.gatedIn k full since pins) →
      since + 1536 + (if full then 262144 else 0) ≤ s.cycle → (∀ a, a ∈ d.mem.accs → d.canDrain a = false ∧ d.canSendRead a = false) →
      c0 = { s.chip with free := s.chip.free + 1 } →
      img = sealImage ((c0.imageHeader u n since t v x d.held full true).take 60) (d.imageBody (c0.serai n).tokens c0.free) →
      c0.storeBlock u d (slotAddr x.chrysalis k + 64) (img.drop 64) pins = (c1, none) →
      (if full then c1.writeBanks u d pins n (slotAddr x.chrysalis k) bankPages else (c1, none)) = (c2, none) →
      c2.storeBlock u d (slotAddr x.chrysalis k) (img.take 64) pins = (c3, none) →
      After s (.saveCommit u) fun c => (∃ t', c.task? u = some t' ∧ t'.slot = some k ∧ t'.full = full) ∧
        (∃ d', c.drover? u = some d' ∧ d'.core = none ∧ d'.regs = d.regs) ∧ look c.sched.saving u = none) ∧
    (∀ n w k full ms, (s.chip.sched.restoring.find? fun p => p.2 == u) = some (n, w) → t.slot = some k →
      full = (t.full && !decide (t.heldAt = some n)) → v.dispatchedAt + 1536 + (if full then 262144 else 0) ≤ s.cycle →
      ms = (s.chip.living v).filter (fun m => s.chip.sched.restoring.any fun p => p.2 == m) →
      (∀ c1 c2 c3 b, s.chip.badImage ms = .ok none c1 → c1.goodImage u = .ok b c2 →
        c2.banksHere u d (slotAddr x.chrysalis k) (if full then bankPages else 0) = .ok () c3 →
        After s (.restore u) fun c =>
          c.drover? u = some { d.fromImage b with core := some n, run := .starting s.cycle } ∧ look c.sched.restoring n = none) ∧
      (∀ c1 m, s.chip.badImage ms = .ok (some m) c1 → ms.length = (s.chip.living v).length →
        After s (.restore u) fun c => ∃ v', CaravanIs c t.caravan v' ∧ v'.place = .queue (n / 512))) ∧
    (∀ (n : BitVec 12) k b pins (c1 c2 c3 c4 : Chip) head, look s.chip.sched.heldBanks n.toNat = some u → t.slot = some k →
      s.chip.wantsWriteout s.cycle n.toNat u = true →
      s.chip.slotWalk u d (slotAddr x.chrysalis k) true (imageBytes true / 4096) = .ok pins c1 → c1.goodImage u = .ok b c2 →
      c2.writeBanks u d pins n.toNat (slotAddr x.chrysalis k) bankPages = (c3, none) →
      head = leBytes (bitsOf (byteAt b 0) 0 4 ||| 0x42) 1 ++ (b.take 60).drop 1 →
      c3.storeBlock u d (slotAddr x.chrysalis k) (sealImage head (b.drop 64)) pins = (c4, none) →
      After s (.heldBankWriteout n) fun c =>
        look c.sched.heldBanks n.toNat = none ∧ c.task? u = some { t with full := true, header := head, heldAt := none })

/-- R321, R323, R331, R333: a trapped task is held once its post buffer has drained; a running steward takes its next
record into its registers; an age or wait counter past its limit traps the task before its next instruction. -/
def Obligations.TrapSteps : Prop :=
  ∀ s : State,
    (∀ u d q, s.chip.drover? u = some d → d.trap = some q → d.steward = false → d.drained = true → d.held = false →
      After s (.trapDelivery u) fun c =>
        c.drover? u = some ({ d with trap := none, held := true, blockedAt := some (s.cycle, 34) }.tick u)) ∧
    (∀ (k : BitVec 4) d r rest, s.chip.drover? k.toNat = some d → s.chip.traps.current[k.toNat]? = some none →
      s.chip.traps.queues[k.toNat]? = some (r :: rest) → d.run = .running →
      After s (.recordTake k) fun c => c.traps.current[k.toNat]? = some (some r) ∧ ∃ d', c.drover? k.toNat = some d' ∧ d'.exp = r.exp ∧
        d'.stew.trapcause = BitVec.ofNat 8 r.req.cause ∧ d'.stew.trappc = r.req.pc ∧ d'.stew.trapval = r.req.val ∧
        d'.stew.traprec = BitVec.ofNat 64 r.addr ∧ d'.regs = d.regs) ∧
    (∀ (n : BitVec 12) (edge u : Nat) d e a x g, s.chip.engineAt n.toNat = some (u, d, e) → s.chip.drover? u = some d → look e.ages edge = some a →
      s.chip.exp? d.exp = some x → look e.pages (edgePage edge) = some g →
      (x.ageLim < a.age → After s (.age n edge) fun c => c.drover? u = some { d with async := d.async ++
        [trapWords 0x09 0 (edgeWord n.toNat (g.quarter.getD 0) edge) (BitVec.ofNat 64 a.age) 0] }) ∧
      (x.waitLim < a.wait → After s (.waitlong n edge) fun c => c.drover? u = some { d with async := d.async ++
        [trapWords 0x0A 0 (edgeWord n.toNat (g.quarter.getD 0) edge) (BitVec.ofNat 64 a.age) 0] }))

/-! # Links, packets, rows (R303 to R318, R349 to R355, R367, R368) -/

namespace Sys2Proof.Claims

/-- Link l is k after an event, with its wire's newest flit f. -/
def Sent (c : Chip) (l : BitVec 5) (k : Link) (f : List Byte) (P : Link → Prop) : Prop :=
  ∃ k', c.links[l.toNat]? = some k' ∧ k'.wire = k.wire ++ [f] ∧ P k'

/-- The header of a flit that a link sends: it carries the receiver's ack once there is one (R350). -/
def headerOf (k : Link) (typ seq : Nat) (sop eop : Bool) (len : Nat) : Nat :=
  flitHeader typ seq (if k.av then k.ack else 0) k.av sop eop len

/-- A packet goes out on the link that leads to its device, behind what was queued there in the chip b. -/
def Queued (b c : Chip) (p : Packet) : Prop :=
  ∀ l k, b.linkTo p.dst = some l → b.links[l]? = some k → ∃ k', c.links[l]? = some k' ∧ k'.outFlits = k.outFlits ++ flitsOf 10 true p.bytes

/-- A packet of the module reaches its device: over a link, or, to the module itself, among its own packets. -/
def Reaches (b c : Chip) (p : Packet) : Prop :=
  (p.dst ≠ b.mgmt.devid.toNat → Queued b c p) ∧
    (p.dst = b.mgmt.devid.toNat → ∃ n, if p.ptype = 7 then c.xde.ownResp = b.xde.ownResp ++ [(n, p)] else c.xde.own = b.xde.own ++ [(n, p)])

/-- The head of a link is taken and answered. -/
def Replied (s : State) (link : BitVec 5) (p : Packet) (ptype err : Nat) (data : List Byte) (c : Chip) : Prop :=
  (∀ k, s.chip.links[link.toNat]? = some k → ∃ k', c.links[link.toNat]? = some k' ∧ k'.inPackets = k.inPackets.drop 1) ∧
    Queued s.chip c { ptype := ptype, err := err, dst := p.src, src := s.chip.mgmt.devid.toNat, tag := p.tag, addr := 0, data := data }

/-- A done word written, in a chip that went into it as b: data and full tag, where no waiter waits (R190). -/
def DoneIs (b c : Chip) (a : Nat) (w : Word) : Prop :=
  a < 2 ^ 48 → b.writeDropped a = false → noWaiter b a → c.homes.tag a = true ∧ c.homes.mem = b.homes.mem.write (canon a) (leBytes w.toNat 8)

end Sys2Proof.Claims

/-- R349 to R353, R368: a link sends DATA flits in order and keeps them until they are acknowledged; a receiver takes
the one it expects, acknowledges, and asks for the rest with a NAK; it takes none while the row packet at its head
waits for a session; timeouts; retraining to a narrower width, or the end of the link. -/
def Obligations.LinkSteps : Prop :=
  ∀ (s : State) (l : BitVec 5) (k : Link), s.chip.links[l.toNat]? = some k → k.up = true →
    (k.retraining = false →
      (∀ sop eop p r, k.resend = [] → k.outFlits = (sop, eop, p) :: r → k.replay.length < 4095 →
        After s (.flitSend l) fun c => Sent c l k (flitBytes (headerOf k 0 k.nextSeq sop eop p.length) p) fun k' =>
          k'.outFlits = r ∧ k'.nextSeq = (k.nextSeq + 1) % 4096 ∧
            k'.replay = k.replay ++ [(k.nextSeq, leBytes (b2n sop + 2 * b2n eop) 1 ++ p)]) ∧
      (∀ seq b r, k.resend = (seq, b) :: r →
        After s (.flitSend l) fun c =>
          Sent c l k (flitBytes (headerOf k 0 seq (byteAt b 0 % 2 == 1) (byteAt b 0 / 2 == 1) (b.drop 1).length) (b.drop 1)) fun k' =>
            k'.resend = r ∧ k'.replay = k.replay ∧ k'.nextSeq = k.nextSeq) ∧
      (k.ackSentAt + 256 ≤ s.cycle → After s (.idle l) fun c => Sent c l k (flitBytes (headerOf k 1 0 false false 0) []) fun k' =>
        k'.ackSentAt = s.cycle ∧ k'.replay = k.replay) ∧
      (∀ t, k.nak = some t → t + 4096 ≤ s.cycle →
        After s (.nakTimeout l) fun c => Sent c l k (flitBytes (headerOf k 2 0 false false 0) []) fun k' => k'.nak = some s.cycle) ∧
      (k.replay ≠ [] → k.progressAt + 4096 ≤ s.cycle →
        After s (.replayTimeout l) fun c => c.links[l.toNat]? = some { k with resend := k.replay, progressAt := s.cycle }) ∧
      (∀ lanes : BitVec 16, (∃ i, i ∈ lanesUsed k.lanes ∧ lanes.getLsbD i = true) ∨ 4 ≤ k.bad.length →
        After s (.lossOfLock l lanes) fun c => Sent c l k (flitBytes (headerOf k 3 0 false false 0) []) fun k' => k'.retraining = true) ∧
      (∀ f, flitBad f = true → k.nak = none →
        After s (.dataFlitReceive l f) fun c => c.mgmt.linkerr = s.chip.mgmt.linkerr + 1 ∧
          Sent c l k (flitBytes (headerOf k 2 0 false false 0) []) fun k' => k'.nak = some s.cycle ∧ k'.expect = k.expect ∧ k'.inFlits = k.inFlits) ∧
      (∀ f, flitBad f = false → bitsOf (field f 0 8) 60 4 = 0 → bitsOf (field f 0 8) 48 12 = k.expect → s.chip.ingressBlocked k = true →
        After s (.dataFlitReceive l f) fun c => ∃ k', c.links[l.toNat]? = some k' ∧ k'.expect = k.expect ∧ k'.inFlits = k.inFlits ∧
          k'.inPackets = k.inPackets) ∧
      (∀ f parts, flitBad f = false → bitsOf (field f 0 8) 60 4 = 0 → bitsOf (field f 0 8) 48 12 = k.expect →
        s.chip.ingressBlocked k = false → parts = (if bitOf (field f 0 8) 34 then [] else k.inFlits) ++ [slice f 8 (bitsOf (field f 0 8) 25 8)] →
        After s (.dataFlitReceive l f) fun c => ∃ k', c.links[l.toNat]? = some k' ∧ k'.expect = (k.expect + 1) % 4096 ∧ k'.av = true ∧
          k'.inFlits = (if bitOf (field f 0 8) 33 then [] else parts) ∧
          k'.inPackets = k.inPackets ++ (if bitOf (field f 0 8) 33 ∧ (packetOf parts.flatten).ptype ≤ 10 then
            [(s.chip.arrivals, packetOf parts.flatten)] else [])) ∧
      (∀ f, flitBad f = false → bitsOf (field f 0 8) 60 4 = 2 →
        After s (.nak l f) fun c => ∃ k', c.links[l.toNat]? = some k' ∧ k'.resend = k'.replay ∧
          k'.replay = if bitOf (field f 0 8) 35 = true ∧ (∃ p, p ∈ k.replay ∧ p.1 = bitsOf (field f 0 8) 36 12) then
            (k.replay.dropWhile fun p => p.1 != bitsOf (field f 0 8) 36 12).drop 1 else k.replay)) ∧
    (k.retraining = true → ∀ (good : BitVec 16) (ack : Option (BitVec 12)),
      (widthFor (k.lanes &&& good) ≠ 0 →
        After s (.retrainComplete l good ack) fun c => ∃ k', c.links[l.toNat]? = some k' ∧ k'.up = true ∧ k'.retraining = false ∧
          k'.lanes = k.lanes &&& good ∧ k'.width = widthFor (k.lanes &&& good) ∧ k'.resend = k'.replay) ∧
      (widthFor (k.lanes &&& good) = 0 →
        After s (.retrainComplete l good ack) fun c => ∃ k', c.links[l.toNat]? = some k' ∧ k'.up = false))

/-- R126, R143, R253, R354, R355, R367: what a module does with the packet at the head of a link: it serves reads, writes and
atomics at its homes and answers them under the same tag; answers reach who asked; a packet for another device goes on. -/
def Sys2Proof.Claims.PacketSteps : Prop :=
  ∀ (s : State) (l : BitVec 5) (p : Packet) (h : Homes), h = s.chip.homes →
    (∀ n, s.chip.headOf l.toNat 0 = some p → n = min (field p.data 0 2) 2048 → servesRemote p.addr = true → servesRemote (p.addr + n - 1) = true →
      (h.anyBad p.addr n = false → After s (.readPacket l) fun c => Replied s l p 2 0
        (h.bytesLong p.addr n ++ if byteAt p.data 2 = 1 then leBytes (h.lineTags p.addr).toNat 1 else []) c ∧ c.homes = h) ∧
      (h.anyBad p.addr n = true → After s (.readPacket l) fun c => Replied s l p 2 9 [] c ∧ c.homes = h)) ∧
    (s.chip.headOf l.toNat 1 = some p → servesRemote p.addr = true → servesRemote (p.addr + p.writes.1.length - 1) = true → bitOf p.flags 1 = false →
      After s (.writePacket l) fun c => Replied s l p 5 0 [] c ∧
        c.homes = (packetChunks 33 p.addr p.writes.1 p.writes.2).foldl (fun h k => h.storeChunk k) h) ∧
    (∀ k r, s.chip.headOf l.toNat 3 = some p → servesRemote p.addr = true → byteAt p.data 0 < 19 → k = kindOf (byteAt p.data 0) (byteAt p.data 1) → k.isCont = false →
      k.isFullEmpty = false → r = h.perform k p.addr (field p.data 2 2) (BitVec.ofNat 64 (field p.data 20 8)) (BitVec.ofNat 64 (field p.data 28 8)) →
      After s (.atomicPacket l) fun c => Replied s l p 4 (if r.bad then 9 else 0) (atomicReply r.reply 0) c ∧ c.homes = r.homes) ∧
    (∀ u q via d a, look s.chip.requests p.tag = some (.access u q via) → s.chip.drover? u = some d → d.acc? q = some a → p.err = 0 →
      (s.chip.headOf l.toNat 2 = some p → After s (.readData l) fun c => look c.requests p.tag = none ∧
        c.drover? u = some (d.answer u q (a.kind.extend a.size (natOfBytes p.data)) none none h.seen)) ∧
      (s.chip.headOf l.toNat 4 = some p → byteAt p.data 8 ≠ 1 → a.kind.isRead = true → a.kind ≠ .amocDecz →
        After s (.atomicResult l) fun c => look c.requests p.tag = none ∧
          c.drover? u = some (d.answer u q (BitVec.ofNat 64 (field p.data 0 8)) none none h.seen)) ∧
      (s.chip.headOf l.toNat 4 = some p → byteAt p.data 8 ≠ 1 → a.kind.isRead = false →
        After s (.atomicResult l) fun c => look c.requests p.tag = none ∧ c.drover? u = some (d.writtenDrop u q h.seen)) ∧
      (s.chip.headOf l.toNat 5 = some p → After s (.writeDone l) fun c => look c.requests p.tag = none ∧
        c.drover? u = some (d.written u q h.seen))) ∧
    (∀ key via, look s.chip.requests p.tag = some (.line key via) → s.chip.headOf l.toNat 2 = some p → p.err = 0 →
      look s.chip.far key = some (.asked p.tag) →
      After s (.readData l) fun c => look c.far key =
        some (.line (BitVec.ofNat 512 (natOfBytes (p.data.take 64))) (BitVec.ofNat 8 (byteAt p.data 64)))) ∧
    (∀ k n o, s.chip.links[l.toNat]? = some k → k.inPackets.head? = some (n, p) → p.dst ≠ s.chip.mgmt.devid.toNat → s.chip.linkTo p.dst = some o →
      After s (.packetForward l) fun c => Queued s.chip c p ∧ ∃ k', c.links[l.toNat]? = some k' ∧ k'.inPackets = k.inPackets.drop 1)

/-- R292, R293: an entry that comes from another module is queued on the roomiest die with its level and readiness time, or
returned; the sender keeps one that returns, and gives up one that was taken; an advertisement is noted. -/
def Sys2Proof.Claims.MigrationPackets : Prop :=
  ∀ (s : State) (l : BitVec 5) (p : Packet),
    (s.chip.headOf l.toNat 10 = some p → After s (.advertisementPacket l) fun c => look c.sched.modAdverts p.src = some (field p.data 0 2)) ∧
    (s.chip.headOf l.toNat 9 = some p →
      (∀ x t, field p.data 0 4 = 0 → s.chip.exp? (field p.data 8 2) = some x → look x.templates (field p.data 10 2) = some t → x.ending = false →
        s.chip.takesEntry s.chip.roomiest.1 (field p.data 8 2) = true →
        After s (.migrationPacket l) fun c => ∃ v, CaravanIs c s.chip.sched.nextCv v ∧ v.exp = field p.data 8 2 ∧
          v.members.length = byteAt p.data 12 ∧ v.prio = byteAt p.data 13 ∧ v.ready = field p.data 16 8 ∧
          (v.place = .queue s.chip.roomiest.1 ∨ v.place = .spilled s.chip.roomiest.1)) ∧
      (field p.data 0 4 = 0 → s.chip.exp? (field p.data 8 2) = none →
        After s (.migrationPacket l) fun c => Replied s l { p with tag := 0 } 9 0 (leBytes 2 4 ++ slice p.data 4 4) c) ∧
      (∀ v die dev, field p.data 0 4 ≠ 0 → s.chip.caravan? (field p.data 4 4) = some v → v.place = .migrating die (8 + dev) →
        After s (.migrationPacket l) fun c => CaravanIs c (field p.data 4 4)
          { v with place := if field p.data 0 4 = 1 then .module dev else .queue die }))

/-- R126, R143, R253, R292, R293, R354, R355, R367: packets between modules. The payload layouts and the tags of the
packets are the model's own choice (log 37). -/
def Obligations.ModulePackets : Prop := PacketSteps ∧ MigrationPackets

/-- R303, R306, R307, R311, R312: die 0 answers an open request; lists merge into a token's best eight, and the last
one writes its record; XBIN writes counts, offsets and list; XBIAS builds the next version of every expert's bias. The
payload layouts of the packets are the model's own choice (log 37). -/
def Obligations.GateSteps : Prop :=
  ∀ (s : State) (x : Xde), x = s.chip.xde →
    (∀ (die : BitVec 3) o t d code x', (x.opens.find? fun o => o.die == die.toNat) = some o → s.chip.task? o.u = some t → t.alive = true →
      s.chip.drover? o.u = some d → d.hold = .waiting → { x with opens := x.opens.erase o }.answerOpen o = (code, x') →
      After s (.roundOpen die) fun c => c.xde = x' ∧ (∃ d', c.drover? o.u = some d' ∧ d'.hold = .result (failWord code)) ∧
        (x.openRound o.mb = none → x.freeSlots 0 ≠ 0 → x.freeSlots o.die ≠ 0 → look c.xde.rounds o.mb = some (x.newRound o))) ∧
    (∀ g rest r t, x.lists = g :: rest → x.openRound g.mb = some r → (∀ p, p ∈ x.rounds → p.2.ending = none) →
      t = (look r.toks g.tok).getD { got := 0, nan := false, list := [], written := false } →
      (t.got + 1 < r.contributors → After s .gateMerge fun c => c.xde.lists = rest ∧ ∃ r', look c.xde.rounds g.mb = some r' ∧
        look r'.toks g.tok = some { t with got := t.got + 1, nan := t.nan || g.nan, list := gateMerge t.list g.list }) ∧
      (∀ d t' r2 (c1 : Chip), r.contributors ≤ t.got + 1 → d = s.chip.workDrover r.owner r.exp 0 →
        s.chip.writeWaits r.owner d (r.records + 128 * g.tok) 128 = false →
        t' = { t with got := t.got + 1, nan := t.nan || g.nan, list := gateMerge t.list g.list } →
        r2 = { r with toks := put r.toks g.tok { t' with written := true, list := [] }, dropNan := r.dropNan + b2n (t'.list == []) } →
        (s.chip.onXde fun x => { x with lists := rest }).writeBlock r.owner d (r.records + 128 * g.tok)
          (recordBytesOf g.tok r.bver.toNat r.k t') = (c1, none) →
        ((r2.toks.filter fun p => p.2.written).length < r2.tokens →
          After s .gateMerge fun c => c = c1.onXde fun x => { x with rounds := put x.rounds g.mb r2 }) ∧
        (r2.tokens ≤ (r2.toks.filter fun p => p.2.written).length → r2.dropNan < 65536 → c1.doneWaits r2.owner r2.done r2.clk = false →
          After s .gateMerge fun c => look c.xde.rounds g.mb = some { r2 with closed := true, ending := none, toks := [], dies := [] } ∧
            c.xde.lists = rest.filter (fun l => l.mb != g.mb) ∧
            DoneIs c1 c r2.done
              (doneWord ((r2.toks.filter fun p => p.2.written).length - r2.dropNan) r2.dropNan r2.bver.toNat 0)))) ∧
    (∀ (die : BitVec 3) w d (c1 c2 c3 : Chip) bins n n1 n2,
      (x.work.find? fun w => w.op == 2 && w.die == die.toNat && w.ending.isNone) = some w → (∀ k, k ∈ x.work → k.ending = none) →
      w.cut = none → d = s.chip.drovesFor w → s.chip.binWaits w = false → bins = ((List.range (field w.block 12 2)).map fun e => binOf w.recs (field w.block 8 4) e) →
      s.chip.writeWords w.owner d (field w.block 16 8) (bins.map List.length) 0 = (c1, n1, none) →
      c1.writeWords w.owner d (field w.block 24 8) (runningSums (bins.map List.length) 0) 0 = (c2, n2, none) →
      c2.writeWords w.owner d (field w.block 32 8) (bins.flatMap id) 0 = (c3, n, none) → c3.doneWaits w.owner w.done w.clk = false →
      After s (.xbinWork die) fun c => c.xde.work = x.work.erase w ∧ DoneIs c3 c w.done (doneWord n 0 0 0)) ∧
    (∀ w d counts (c1 : Chip) old, (x.work.find? fun w => w.op == 5 && w.ending.isNone) = some w →
      (∀ k, k ∈ x.work → k.ending = none) → old = x.oldSlot →
      (∀ p, p ∈ x.rounds → p.2.closed = true ∨ p.2.slot ≠ old) → d = s.chip.drovesFor w →
      s.chip.readBlock (xdeAgent w.owner) w.owner d (field w.block 16 8) (4 * field w.block 8 2) = .ok counts c1 →
      c1.doneWaits w.owner w.done w.clk = false →
      After s .xbiasBuild fun c => c.xde.newest = x.newest + 1 ∧ c.xde.work = x.work.erase w ∧ ∃ m, c.xde.bias[old]? = some m ∧
        ∀ e, e < field w.block 8 2 → look m e = some (nextBias (lookD ((x.bias[1 - old]?).getD []) e 0).toNat (field w.block 0 4)
          (field w.block 4 4) (field counts (4 * e) 4)))

/-- R313 to R317: an XSEND's next row goes out, or is answered by its sender when its device cannot be reached; a row
is admitted or refused and answered; an admission is counted; FINISH packets end sendings and sessions. The payload
layouts of the packets are the model's own choice (log 37). -/
def Obligations.RowSteps : Prop :=
  ∀ (s : State) (x : Xde), x = s.chip.xde →
    (∀ (die : BitVec 3) w dr tok i e m row n (c1 c2 c3 : Chip) dev h, (x.work.find? fun w => w.die == die.toNat && w.sends) = some w →
      dr = s.chip.drovesFor w → w.retarget = [] → s.chip.nextCopy w dr (w.tokens - w.tok) w.tok w.rank = .ok (some (tok, i, e)) c1 →
      c1.readBlock (xdeAgent w.owner) w.owner dr (field w.block 32 8 + 2 * bitsOf e 32 12) 2 = .ok m c2 →
      c2.readRow (xdeAgent w.owner) w.owner dr (descOf w.desc) tok = .ok (row, n) c3 → dev = field m 0 2 % 512 → row.length ≤ 2032 →
      h = routeHeader w.mb tok s.chip.mgmt.devid.toNat (bitsOf e 32 12) i (bf16.encode .ieee .rne (fp32.decode (e % 2 ^ 32))).1 →
      After s (.xsendRowSend die) fun c =>
        (∃ w', w' ∈ c.xde.work ∧ w'.tok = tok ∧ w'.rank = i + 1 ∧ w'.unanswered = w.unanswered ++ [(dev, tok, i)]) ∧
        (dev = s.chip.mgmt.devid.toNat ∨ (c3.linkTo dev).isSome = true → Reaches c3 c
          { ptype := 6, err := 0, dst := dev, src := s.chip.mgmt.devid.toNat, tag := w.die, addr := 0,
            data := leBytes h 8 ++ leBytes (descOf w.desc).fmt 1 ++ leBytes 1 1 ++ leBytes 0 2 ++ leBytes n 4 ++ row }) ∧
        (dev ≠ s.chip.mgmt.devid.toNat → c3.linkTo dev = none → ∃ k, c.xde.ownResp = c3.xde.ownResp ++ [(k,
          { ptype := 7, err := 0, dst := s.chip.mgmt.devid.toNat, src := s.chip.mgmt.devid.toNat, tag := w.die, addr := 0,
            data := leBytes (responseWord h dev selfReason) 8 })])) ∧
    (∀ p lane h e ses row, (s.chip.firstHead 6 fun p => (x.sessionFor (bitsOf (field p.data 0 8) 56 8) 0).isSome) = some (p, lane) →
      byteAt p.data 9 ≠ 0 → row = lookD x.parts p.src [] ++ p.data.drop 16 → h = field p.data 0 8 → e = bitsOf h 19 12 →
      x.sessionFor (bitsOf h 56 8) e = some ses →
      (ses.judge (byteAt p.data 8) (field p.data 12 4) e ≠ 0 →
        After s .xdeRow fun c => (lane ≠ .ownResp → Reaches s.chip c
          { ptype := 7, err := 0, dst := p.src, src := s.chip.mgmt.devid.toNat, tag := p.tag, addr := 0,
            data := leBytes (responseWord h s.chip.mgmt.devid.toNat (ses.judge (byteAt p.data 8) (field p.data 12 4) e)) 8 }) ∧
          c.xde.sessions = x.sessions) ∧
      (∀ dr c1, ses.judge (byteAt p.data 8) (field p.data 12 4) e = 0 → dr = s.chip.workDrover ses.owner ses.exp ses.die →
        s.chip.admitRow ses dr row (field p.data 12 4) h e = .ok () c1 →
        After s .xdeRow fun c => ∃ ses', ses' ∈ c.xde.sessions ∧ ses'.mb = ses.mb ∧ ses'.block = ses.block ∧
          ses'.admitted = setAt ses.admitted (e - ses.first) ((ses.admitted[e - ses.first]?).getD 0 + 1))) ∧
    (∀ p lane h w, (s.chip.firstHead 7 fun _ => true) = some (p, lane) → h = field p.data 0 8 → bitsOf h 8 8 = 0 →
      (x.work.find? fun w => w.op == 3 && w.die == p.tag && w.mb % 256 == bitsOf h 56 8 &&
        w.unanswered.contains (bitsOf h 31 9, bitsOf h 40 16, bitsOf h 16 3)) = some w →
      After s .xdeResponse fun c => ∃ w', w' ∈ c.xde.work ∧ w'.admitted = w.admitted + 1 ∧
        w'.unanswered = w.unanswered.erase (bitsOf h 31 9, bitsOf h 40 16, bitsOf h 16 3)) ∧
    (∀ (die : BitVec 3) w dr m c1, (x.work.find? fun w => w.op == 3 && w.die == die.toNat && !w.sends && w.unanswered == [] && w.ending.isNone) = some w →
      (∀ k, k ∈ x.work → k.ending = none) → dr = s.chip.drovesFor w →
      s.chip.readBlock (xdeAgent w.owner) w.owner dr (field w.block 32 8) (2 * w.experts) = .ok m c1 →
      c1.doneWaits w.owner w.done w.clk = false →
      After s (.xsendFinish die) fun c => c.xde.work = x.work.erase w ∧
        (w.dropped < 65536 → DoneIs s.chip c w.done (doneWord w.admitted w.dropped 0 (w.cut.getD (if w.unreachable then 37 else w.code))))) ∧
    (∀ p lane, (s.chip.firstHead 8 fun _ => true) = some (p, lane) →
      After s .xdeFinish fun c =>
        (∀ ses, ses ∈ x.sessions → ses.mb = field p.data 0 4 → ses.ending = none → ses.finishes + 1 < field ses.block 32 2 →
          { ses with finishes := ses.finishes + 1 } ∈ c.xde.sessions) ∧
        (∀ ses (ses' : Session) (c0 c1 : Chip) n, x.sessions = [ses] → ses.mb = field p.data 0 4 → ses.ending = none →
          field ses.block 32 2 ≤ ses.finishes + 1 → ses' = { ses with finishes := ses.finishes + 1 } →
          c0 = (s.chip.dropHead lane).onXde (fun x => x.counted ses.mb) →
          c0.writeWaits ses.owner (c0.workDrover ses.owner ses.exp ses.die) (field ses.block 24 8) (4 * ses.admitted.length) = false →
          c0.writeWords ses.owner (c0.workDrover ses.owner ses.exp ses.die) (field ses.block 24 8) ses.admitted 0 = (c1, n, none) →
          c1.doneWaits ses.owner ses.done ses.clk = false →
          c.xde.sessions = [] ∧ DoneIs c1 c ses.done (doneWord ses.admitted.sum 0 0 (ses.cut.getD 0))))

/-! # The host port, boot, management, errors (R344 to R348, R356 to R366) -/

namespace Sys2Proof.Claims

/-- The bytes of a completion record (R358). -/
def recordOf (key : Word) (e status entries : Nat) : List Byte :=
  leBytes key.toNat 8 ++ leBytes e 2 ++ leBytes status 1 ++ leBytes 0 1 ++ leBytes entries 4 ++ leBytes 0 48

/-- Host memory after an event: bytes at a bus address, where the map reaches them; nothing else changes. -/
def HostHas (b c : Chip) (a : Nat) (bs : List Byte) : Prop :=
  a + bs.length ≤ hostBytes → (∀ i, i < bs.length → c.homes.byte (hostBase + a + i) = (bs[i]?).getD 0) ∧
    ∀ pa, (∀ i, i < bs.length → canon pa ≠ hostBase + a + i) → c.homes.byte pa = b.homes.byte pa

end Sys2Proof.Claims

/-- R357, R360: what a write to an ingress port does: a token, a drop with its error bit, the mode and target, the
completion address; and a fed token enters the input portal named, or is kept back with NOTARGET. -/
def Obligations.PortSteps : Prop :=
  ∀ (s : State) (i : BitVec 6) (p : Port), s.chip.ports[i.toNat]? = some p →
    (∀ off data, off < 0x800 →
      (data.length = 64 → off % 64 = 0 → byteAt data 36 % 8 ≤ 4 →
        (p.fifo.length < 256 → After s (.fifoWrite i off data) fun c => c.ports[i.toNat]? = some { p with fifo := p.fifo ++ [tokenOfBytes data] }) ∧
        (256 ≤ p.fifo.length → After s (.fifoWrite i off data) fun c => c.ports[i.toNat]? = some { p with overrun := true })) ∧
      (p.fifo.length < 256 → (data.length ≠ 64 ∨ off % 64 ≠ 0 ∨ 4 < byteAt data 36 % 8) →
        After s (.fifoWrite i off data) fun c => c.ports[i.toNat]? = some { p with badtoken := true })) ∧
    (∀ v : BitVec 64, After s (.pctlWrite i v) fun c => c.ports[i.toNat]? = some
      { p with mode := v.getLsbD 63, portal := bitsOf v.toNat 56 3, pageid := bitsOf v.toNat 48 8, expid := bitsOf v.toNat 32 16,
               taskid := bitsOf v.toNat 0 32, overrun := false, badtoken := false, notarget := false }) ∧
    (∀ v : BitVec 64, After s (.hostRegisterWrite (i.toNat * 0x1000 + 0x810) v) fun c =>
      c.ports[i.toNat]? = some { p with comp := BitVec.ofNat 64 (v.toNat / 64 * 64) }) ∧
    (p.mode = true → ∀ t rest, p.fifo = t :: rest →
      (s.chip.taskKey? p.expid p.taskid = none → After s (.feed i) fun c => c.ports[i.toNat]? = some { p with notarget := true }) ∧
      (∀ u x, s.chip.taskKey? p.expid p.taskid = some u → s.chip.task? u = some x →
        (x.alive = false → After s (.feed i) fun c => c.ports[i.toNat]? = some { p with fifo := [] }) ∧
        (∀ n g c1, x.alive = true → s.chip.seraiOf u = some n → look (s.chip.serai n).pages p.pageid = some g →
          portalUse ((g.portals[p.portal]?).getD 0) = some false → s.chip.accept s.cycle (.portal u p.pageid p.portal) t = some c1 →
          After s (.feed i) fun c => c.ports[i.toNat]? = some { p with fifo := rest } ∧ c.serais = c1.serais)))

/-- R279, R358, R359, R364: a LAUNCH stream with a good image starts its expedition, whose first task has its
argument, its port and its entry; a bad image completes with status 2; an expedition's end gives up what the module
keeps of it, writes the completion record and signals the port's vector; Function Level Reset ends what the host
launched. How the loader reaches the image's bytes is the model's own plan (log 10). -/
def Obligations.ExpeditionSteps : Prop :=
  ∀ (s : State),
    (∀ (i : BitVec 6) (p : Port) t m rest key b plan, s.chip.ports[i.toNat]? = some p → p.mode = false → s.chip.mgmt.bootst = 1 →
      p.fifo = t :: m :: rest → t.kind = 0 → m.isEot = true → key = BitVec.ofNat 64 t.payload.toNat → look s.chip.images key.toNat = none →
      b = s.chip.hostRead (bitsOf t.payload.toNat 64 64) (bitsOf t.payload.toNat 128 64) →
      (imageGood b = false → After s (.launchStream i plan) fun c => c.mgmt.vectors.getLsbD i.toNat = true ∧
        (∃ p', c.ports[i.toNat]? = some p' ∧ p'.fifo = rest) ∧ HostHas s.chip c p.comp.toNat (recordOf key 0 2 0)) ∧
      (∀ h, imageGood b = true → planSound plan = true → s.chip.exp? plan.expid.toNat = none → planPlace plan s.chip.homes b = some h →
        After s (.launchStream i plan) fun c => (∃ p', c.ports[i.toNat]? = some p' ∧ p'.fifo = rest) ∧ c.mgmt.launched = true ∧
          look c.images key.toNat = some b ∧
          (∃ x, c.exp? plan.expid.toNat = some x ∧ x.port = some i.toNat ∧ x.key = key ∧ x.ptroot = plan.ptroot ∧
            x.templates = (planExpedition plan b i.toNat key).templates ∧ x.flogCap = field b 104 4) ∧
          (∃ v, CaravanIs c s.chip.sched.nextCv v ∧ v.exp = plan.expid.toNat ∧ v.ready = s.cycle ∧
            (v.place = .queue (plan.slice.toNat / 64) ∨ v.place = .spilled (plan.slice.toNat / 64))) ∧
          (∃ d, c.drover? s.chip.sched.nextKey = some d ∧ d.regs.getX 1 = BitVec.ofNat 64 (t.payload.toNat / 2 ^ 192) ∧
            d.regs.getX 2 = BitVec.ofNat 64 i.toNat ∧ d.regs.pc = (templateOf (templateEntry b (field b 16 2))).entry))) ∧
    (∀ e x, s.chip.exp? e = some x → s.chip.mayEnd e x = true →
      After s (.expeditionEnd e) fun c => c.exp? e = none ∧ (∀ u t, c.task? u = some t → t.exp ≠ e) ∧
        (∀ u d, c.drover? u = some d → d.steward = true ∨ d.exp ≠ e) ∧
        ∀ i, x.port = some i → i < 64 → c.mgmt.vectors.getLsbD i = true ∧ HostHas s.chip c (s.chip.port i).comp.toNat
          (recordOf x.key e (b2n (s.chip.homes.logFails x.flog)) (s.chip.homes.num x.flog 8))) ∧
    (After s .functionLevelReset fun c =>
      (∀ (i : Nat) (p : Port), c.ports[i]? = some p →
        p.fifo = [] ∧ p.mode = false ∧ p.portal = 0 ∧ p.pageid = 0 ∧ p.expid = 0 ∧ p.taskid = 0) ∧
      ∀ e x, s.chip.exp? e = some x → x.port.isSome = true → ∃ x', c.exp? e = some x' ∧ x'.ending = true)

/-- R357, R365, R366, R363: writes of management registers: the routing table, DEVID until an expedition launches, POWLIM within 400
to 1,900, THERM's bits; an attestation request advances the counter and signals vector 64. -/
def Sys2Proof.Claims.ManagementWrites : Prop :=
  ∀ s : State,
    (∀ (dev : BitVec 9) (v : BitVec 8), After s (.routingTableWrite dev v) fun c =>
      (v.toNat % 32 < 18 → look c.routes dev.toNat = some (v.toNat % 32)) ∧ (18 ≤ v.toNat % 32 → look c.routes dev.toNat = none) ∧
        ∀ d, d ≠ dev.toNat → look c.routes d = look s.chip.routes d) ∧
    (∀ v : BitVec 64, After s (.devidWrite v) fun c =>
      c.mgmt = if s.chip.mgmt.launched then s.chip.mgmt else { s.chip.mgmt with devid := v.setWidth 9 }) ∧
    (∀ v : BitVec 64, After s (.powlimWrite v) fun c => ∃ w, c.mgmt = { s.chip.mgmt with powlim := w } ∧
      400 ≤ w.toNat ∧ w.toNat ≤ 1900 ∧ (400 ≤ v.toNat → v.toNat ≤ 1900 → w.toNat = v.toNat)) ∧
    (∀ v : BitVec 64, After s (.thermClear v) fun c => c.mgmt =
      { s.chip.mgmt with throttle := s.chip.mgmt.throttle && !v.getLsbD 0, trip := s.chip.mgmt.trip && !v.getLsbD 1 }) ∧
    (∀ a : BitVec 64, After s (.attreq a) fun c => c.mgmt.vectors.getLsbD 64 = true ∧
      (s.chip.mgmt.otCounter < 2 ^ 20 → c.mgmt.otCounter = s.chip.mgmt.otCounter + 1) ∧
      (s.chip.mgmt.otCounter = 2 ^ 20 → c.mgmt.otCounter = 2 ^ 20 ∧
        HostHas s.chip c (a.toNat / 64 * 64 + 64) (s.chip.mgmt.report (s.chip.hostRead (a.toNat / 64 * 64) 32))))

/-- R361, R362, R365: boot verifies the firmware image of the flash and starts it, or enters RECOVERY; in RECOVERY a LAUNCH stream of port
0 brings one; module reset brings every part back to its reset value but flash, fuses, counters and fenced units. -/
def Sys2Proof.Claims.BootSteps : Prop :=
  ∀ s : State,
    (∀ h body, s.chip.mgmt.bootst = 0 → h = ((List.range firmwareHead).map fun i => lookD s.chip.mgmt.flash i 0) →
      (firmwareForm h = false → After s .boot fun c => c.mgmt = { s.chip.mgmt with bootst := 2 }) ∧
      (firmwareForm h = true → body = ((List.range (field h 24 8)).map fun i => lookD s.chip.mgmt.flash (firmwareHead + i) 0) →
        (s.chip.mgmt.accepts h body = false → After s .boot fun c => c.mgmt = { s.chip.mgmt with bootst := 2 }) ∧
        (s.chip.mgmt.accepts h body = true → After s .boot fun c => c.mgmt.bootst = 1 ∧ c.mgmt.fwver = field h 6 2 ∧
          c.mgmt.rollback = field h 6 2 ∧ ∀ u d, s.chip.drover? u = some d → d.steward = true →
            ∃ d', c.drover? u = some d' ∧ d'.run = .running ∧ d'.regs.pc = BitVec.ofNat 64 (field h 16 8)))) ∧
    (∀ t m rest image h, (s.chip.port 0).fifo = t :: m :: rest → s.chip.mgmt.bootst = 2 → (s.chip.port 0).mode = false → t.kind = 0 →
      m.isEot = true → image = s.chip.hostRead (bitsOf t.payload.toNat 64 64) (bitsOf t.payload.toNat 128 64) → h = image.take firmwareHead →
      (slice image firmwareHead (field h 24 8)).length = field h 24 8 → s.chip.mgmt.accepts h (slice image firmwareHead (field h 24 8)) = true →
      After s (.recoveryImage image) fun c => c.mgmt.bootst = 1 ∧ c.mgmt.fwver = field h 6 2 ∧ (c.port 0).fifo = rest) ∧
    (∃ t, exec .moduleReset s = .next t ∧ t.cycle = 0 ∧ t.agenda = s.agenda ∧ t.chip.drovers = State.reset.chip.drovers ∧ t.chip.homes = State.reset.chip.homes ∧
      t.chip.serais = [] ∧ t.chip.walkers = State.reset.chip.walkers ∧ t.chip.sched = State.reset.chip.sched ∧ t.chip.traps = State.reset.chip.traps ∧ t.chip.xde = State.reset.chip.xde ∧
      t.chip.links = State.reset.chip.links ∧ t.chip.ports = State.reset.chip.ports ∧ t.chip.mgmt.bootst = 0 ∧ t.chip.mgmt.stopped = false ∧
      t.chip.mgmt.flash = s.chip.mgmt.flash ∧ t.chip.mgmt.otCounter = s.chip.mgmt.otCounter ∧ t.chip.mgmt.rollback = s.chip.mgmt.rollback ∧
      t.chip.health.fenced = s.chip.health.fenced ∧ t.chip.health.withdrawn = s.chip.health.withdrawn)

/-- R357, R361 to R363, R365, R366: management registers, boot and module reset. -/
def Obligations.ModuleManagement : Prop := ManagementWrites ∧ BootSteps

/-- R344 to R347, R366: errors are counted and their unit is to be tested, an uncorrectable word or tag is marked at
its home; a unit that fails its test is disabled, and a serai passes to a spare of its die or is withdrawn; the
governor withholds a cell's step; the thermal limits. What the governor withholds and when a serai's test ends are the
model's own choice (log 20, log 12). -/
def Obligations.HealthSteps : Prop :=
  ∀ s : State,
    (∀ t, After s (.eccError (.corrected t)) fun c => c.mgmt.ecccnt = s.chip.mgmt.ecccnt + 1 ∧ t ∈ c.health.testing ∧ c.homes = s.chip.homes) ∧
    (∀ pa t, holdsData pa = true → After s (.eccError (.word pa t)) fun c => c.mgmt.uecnt = s.chip.mgmt.uecnt + 1 ∧
      c.homes.isBad pa = true ∧ c.homes.mem = s.chip.homes.mem ∧ t ∈ c.health.testing) ∧
    (∀ pa t, holdsData pa = true → After s (.eccError (.tag pa t)) fun c => c.mgmt.uecnt = s.chip.mgmt.uecnt + 1 ∧
      c.homes.badTag pa = true ∧ c.homes.tags = s.chip.homes.tags ∧ c.homes.mem = s.chip.homes.mem ∧ t ∈ c.health.testing) ∧
    (∀ n, After s (.eccError (.control n)) fun c => c.mgmt.uecnt = s.chip.mgmt.uecnt + 1 ∧ .serai n ∈ c.health.testing) ∧
    (∀ t, s.chip.testRuns t = true → After s (.selfTest t true) fun c => ¬ t ∈ c.health.testing ∧ c.health.fenced = s.chip.health.fenced ∧
      c.health.waysOff = s.chip.health.waysOff ∧ c.health.rows = s.chip.health.rows ∧ c.links = s.chip.links) ∧
    (∀ n k, s.chip.testRuns (.serai n) = true → s.chip.health.spares[n.toNat / 512]? = some k →
      After s (.selfTest (.serai n) false) fun c => c.health.fenced = s.chip.health.fenced ++ [n.toNat] ∧
        (0 < k → c.health.spares[n.toNat / 512]? = some (k - 1) ∧ c.health.withdrawn = s.chip.health.withdrawn ∧
          c.health.replace = s.chip.health.replace) ∧
        (k = 0 → n.toNat ∈ c.health.withdrawn ∧ c.health.replace = true)) ∧
    (∀ sl w, s.chip.testRuns (.sliceWay sl w) = true →
      After s (.selfTest (.sliceWay sl w) false) fun c => (sl.toNat, w.toNat) ∈ c.health.waysOff) ∧
    (∀ pa, s.chip.testRuns (.dramRow pa) = true → After s (.selfTest (.dramRow pa) false) fun c => pa ∈ c.health.rows) ∧
    (∀ (n : BitVec 12) (q : BitVec 2) (i : BitVec 6) pg g, PageAt s n q pg g → g.next i.toNat ≠ .none → (g.word i.toNat).op.governed = true →
      ¬ (n.toNat, q.toNat, i.toNat) ∈ (s.chip.govAt s.cycle).held →
      After s (.governorWindow n q i) fun c => (n.toNat, q.toNat, i.toNat) ∈ (c.govAt s.cycle).held ∧ c.mgmt.govcnt = s.chip.mgmt.govcnt + 1) ∧
    (∀ die, After s (.throttle die) fun c => c.mgmt.throttle = true ∧ c.mgmt.throttled.getLsbD die.toNat = true) ∧
    (∀ die, After s (.throttleRelease die) fun c => c.mgmt.throttled.getLsbD die.toNat = false ∧ c.mgmt.throttle = s.chip.mgmt.throttle) ∧
    (After s .trip fun c => c.mgmt.trip = true ∧ c.mgmt.stopped = true ∧ c.mgmt.vectors.getLsbD 64 = true)

/-! # Frames, fetch and decoding, reset, the whole machine -/

namespace Sys2Proof.Claims

/-- Register instructions: those that read and write scalar registers and predicates alone. -/
def registerForm : Instr → Bool
  | .add _ _ _ _ | .sub _ _ _ _ | .and _ _ _ | .or _ _ _ | .xor _ _ _ | .andn _ _ _ | .shl _ _ _ _ | .shr _ _ _ _ | .sar _ _ _ _
  | .rol _ _ _ _ | .mul _ _ _ _ | .mulh _ _ _ | .mulhu _ _ _ | .div _ _ _ _ | .divu _ _ _ _ | .rem _ _ _ _ | .remu _ _ _ _
  | .min _ _ _ _ | .max _ _ _ _ | .minu _ _ _ _ | .maxu _ _ _ _ | .clz _ _ _ | .ctz _ _ _ | .popc _ _ _ | .sextb _ _ | .sexth _ _
  | .sextw _ _ | .bswap _ _ | .addi _ _ _ | .andi _ _ _ | .ori _ _ _ | .xori _ _ _ | .shli _ _ _ _ | .shri _ _ _ _ | .sari _ _ _ _
  | .lui _ _ | .liw _ _ | .lih _ _ | .ceq _ _ _ _ | .cne _ _ _ _ | .clt _ _ _ _ | .cltu _ _ _ _ | .cle _ _ _ _ | .cleu _ _ _ _
  | .cmpiEq _ _ _ | .cmpiLt _ _ _ | .cmpiLtu _ _ _ | .cmpiLe _ _ _ | .pand _ _ _ | .por _ _ _ | .pxor _ _ _ | .pandn _ _ _
  | .pnot _ _ | .pset _ _ | .pget _ _ | .sel _ _ _ _ | .fadd _ _ _ _ _ | .fsub _ _ _ _ _ | .fmul _ _ _ _ _ | .fdiv _ _ _ _ _
  | .fsqrt _ _ _ _ | .fma _ _ _ _ _ | .fmin _ _ _ _ | .fmax _ _ _ _
  | .fcvtif _ _ _ _ _ _ | .fcvtfi _ _ _ _ _ _ | .fcvtff _ _ _ _ | .fceq _ _ _ _ | .fclt _ _ _ _ | .fcle _ _ _ _ | .fclass _ _ _ | .br _ _ _ | .call _ _ _ | .jr _ | .jalr _ _ | .nop => true
  | _ => false

/-- Instructions that start memory accesses. -/
def memoryForm : Instr → Bool
  | .ld _ _ _ _ _ | .ldu _ _ _ _ _ | .st _ _ _ _ _ | .ldf _ _ _ _ | .ldfe _ _ _ _ | .stef _ _ _ _ | .stf _ _ _ _ | .prefR _ _ | .prefW _ _
  | .sete _ _ _ | .dld _ _ _ _ _ | .dst _ _ _ _ _ | .amoSwap _ _ _ _ _ | .amoAdd _ _ _ _ _ | .amoAnd _ _ _ _ _ | .amoOr _ _ _ _ _ | .amoXor _ _ _ _ _
  | .amoMin _ _ _ _ _ | .amoMax _ _ _ _ _ | .amoMinu _ _ _ _ _ | .amoMaxu _ _ _ _ _ | .amoFadd _ _ _ _ _ | .redAdd _ _ _ _ _
  | .redAnd _ _ _ _ _ | .redOr _ _ _ _ _ | .redXor _ _ _ _ _ | .redMin _ _ _ _ _ | .redMax _ _ _ _ _ | .redMinu _ _ _ _ _
  | .redMaxu _ _ _ _ _ | .redFadd _ _ _ _ _ | .redFmin _ _ _ _ _ | .redFmax _ _ _ _ _
  | .amocCas _ _ _ _ _ _ _ | .amocDecz _ _ _ _ _ _ | .amocAddge _ _ _ _ _ _ _ | .fence _ _ => true
  | _ => false

/-- A byte of the fault log of the drover's expedition: its header, or one of its entries (R330). -/
def inLog (s : State) (dr : Drover) (a : Nat) : Prop :=
  ∃ x, s.chip.exp? dr.exp = some x ∧ ((∃ j, j ≤ x.flogCap ∧ canon (x.flog + 64 * j) ≤ a ∧ a < canon (x.flog + 64 * j) + 64) ∨
    (canon (x.flog + 8) ≤ a ∧ a < canon (x.flog + 8) + 8))

/-- What no issue changes beside its drover: memory but the fault log, into which a late error goes that nobody has read
(R18), tags, waiters, serais, tasks, groups' homes, engines, links, ports, and every other drover. -/
def Apart (s t : State) (dr : Drover) : Prop :=
  (∀ pa, ¬ inLog s dr (canon pa) → t.chip.homes.byte pa = s.chip.homes.byte pa) ∧ t.chip.homes.tags = s.chip.homes.tags ∧
    t.chip.homes.waiters = s.chip.homes.waiters ∧ (∀ u, u ≠ s.focus → t.chip.drover? u = s.chip.drover? u) ∧ t.chip.serais = s.chip.serais ∧
    t.chip.sched = s.chip.sched ∧ t.chip.binds = s.chip.binds ∧ t.chip.xde = s.chip.xde ∧ t.chip.links = s.chip.links ∧
    t.chip.ports = s.chip.ports ∧ t.chip.mgmt = s.chip.mgmt ∧ t.chip.health = s.chip.health ∧ t.cycle = s.cycle ∧ t.agenda = s.agenda ∧
    t.focus = s.focus

/-- Whether an instruction of the register form names x[r] as its destination; CALL writes lr. -/
def writesX (r : BitVec 5) : Instr → Prop
  | .add d _ _ _ | .sub d _ _ _ | .and d _ _ | .or d _ _ | .xor d _ _ | .andn d _ _ | .shl d _ _ _ | .shr d _ _ _ | .sar d _ _ _
  | .rol d _ _ _ | .mul d _ _ _ | .mulh d _ _ | .mulhu d _ _ | .div d _ _ _ | .divu d _ _ _ | .rem d _ _ _ | .remu d _ _ _
  | .min d _ _ _ | .max d _ _ _ | .minu d _ _ _ | .maxu d _ _ _ | .clz d _ _ | .ctz d _ _ | .popc d _ _ | .sextb d _ | .sexth d _
  | .sextw d _ | .bswap d _ | .addi d _ _ | .andi d _ _ | .ori d _ _ | .xori d _ _ | .shli d _ _ _ | .shri d _ _ _ | .sari d _ _ _
  | .lui d _ | .liw d _ | .lih d _ | .pget d _ | .sel d _ _ _ | .fadd d _ _ _ _ | .fsub d _ _ _ _ | .fmul d _ _ _ _ | .fdiv d _ _ _ _
  | .fsqrt d _ _ _ | .fma d _ _ _ _ | .fmin d _ _ _ | .fmax d _ _ _
  | .fcvtif d _ _ _ _ _ | .fcvtfi d _ _ _ _ _ | .fcvtff d _ _ _ | .fclass d _ _ | .jalr d _ => r = d
  | .call _ _ _ => r = 27
  | _ => False

/-- Whether an instruction of the register form names p[k] as its destination. -/
def writesP (k : BitVec 3) : Instr → Prop
  | .ceq p _ _ _ | .cne p _ _ _ | .clt p _ _ _ | .cltu p _ _ _ | .cle p _ _ _ | .cleu p _ _ _ | .cmpiEq p _ _ | .cmpiLt p _ _
  | .cmpiLtu p _ _ | .cmpiLe p _ _ | .pand p _ _ | .por p _ _ | .pxor p _ _ | .pandn p _ _ | .pnot p _ | .pset p _
  | .fceq p _ _ _ | .fclt p _ _ _ | .fcle p _ _ _ => k = p
  | _ => False

/-- Whether an instruction of the register form may set FFLAGS (R111). -/
def writesFlags : Instr → Prop
  | .fadd _ _ _ _ _ | .fsub _ _ _ _ _ | .fmul _ _ _ _ _ | .fdiv _ _ _ _ _ | .fsqrt _ _ _ _ | .fma _ _ _ _ _
  | .fcvtif _ _ _ _ _ _ | .fcvtfi _ _ _ _ _ _ | .fcvtff _ _ _ _ => True
  | _ => False

/-- The state with the drover in focus replaced. -/
def withDrover (s : State) (d : Drover) : State := s.onChip fun c => c.setDrover s.focus d

/-- The words of an instruction as the bytes that stand in memory (R67). -/
def bytesOfWords (l : List (BitVec 32)) : List Byte := l.flatMap fun w => leBytes w.toNat 4

/-- What holds of every state that a run reaches: memory in its canonical form. -/
def Canonical (s : State) : Prop := s.chip.homes.mem.wf = true

end Sys2Proof.Claims

/-- R8, R9, R11, R106 to R113, R119, R120: the frame of the register instructions. Whatever the outcome, completion, stall or trap,
they change no scalar register but the destination, no predicate but the destination, no flag but FFLAGS of a floating
point operation, no descriptor register, no steward register, and nothing beside the drover but the fault log. -/
def Sys2Proof.Claims.RegisterFrame : Prop :=
  ∀ (s t : State) (dr : Drover) (i : Instr), s.cur? = some dr → registerForm i = true → exec i s = .next t →
    Apart s t dr ∧ ∃ d', t.cur? = some d' ∧
      (∀ r : BitVec 5, r.toNat < 28 → d'.regs.getX r = dr.regs.getX r ∨ writesX r i) ∧
      (∀ k : BitVec 3, d'.regs.getP k = dr.regs.getP k ∨ writesP k i) ∧
      (d'.ctl.fflags = dr.ctl.fflags ∨ writesFlags i) ∧ d'.ctl = { dr.ctl with fflags := d'.ctl.fflags, instret := d'.ctl.instret } ∧
      d'.regs.d = dr.regs.d ∧ d'.stew = dr.stew ∧ d'.steward = dr.steward

/-- S1 to S6 of R268, R18: issuing a load, a store, an atomic, a reduction or a fence changes no byte of memory and no tag: they go
into the issue queue and the post buffer, and are performed at their home by later events. Every scalar register, predicate and
control register but INSTRET keeps its value. -/
def Sys2Proof.Claims.MemoryIssueFrame : Prop :=
  ∀ (s t : State) (dr : Drover) (i : Instr), s.cur? = some dr → memoryForm i = true → exec i s = .next t →
    Apart s t dr ∧ ∃ d', t.cur? = some d' ∧ d'.regs = { dr.regs with pc := d'.regs.pc } ∧
      d'.ctl = { dr.ctl with instret := d'.ctl.instret } ∧ d'.stew = dr.stew ∧ d'.steward = dr.steward

/-- R8, R9, R11, R18, R106 to R113, R119, R120, R268: the frame of the drover's instructions. That the fault log keeps
its capacity is the model's own choice (log 22). -/
def Obligations.IssueFrame : Prop := RegisterFrame ∧ MemoryIssueFrame

/-- R260, R268, S6: a store that is performed at its home changes only the bytes from its physical address on, as many as its width; every
other byte of memory reads as before. -/
def Sys2Proof.Claims.StoreFrame : Prop :=
  ∀ (s t : State) (u q : Nat) (d : Drover) (a : Access), AtHome s u q d a → a.leaf.watched = false → a.kind = .store →
    exec (.orderPoint u q) s = .next t →
    (∀ j, j < a.size → t.chip.homes.mem.read (canon a.pa + j) = BitVec.ofNat 8 (a.data.toNat / 2 ^ (8 * j))) ∧
      ∀ pa, ¬ (canon a.pa ≤ canon pa ∧ canon pa < canon a.pa + a.size) → t.chip.homes.byte pa = s.chip.homes.byte pa

/-- R28, R127 to R129, R260, R268: loads, stores and atomics at their home, with the frame of a store. -/
def Obligations.PerformedAccesses : Prop := PlainAccessesPerformed ∧ StoreFrame ∧ AtomicsPerformed

/-- R67, R74, R124, R252: a fetch reads the little-endian word at the physical address of an executable page; and a step with no turn on
the agenda runs the instruction that the words at the pc decode to, or ILLEGAL when they decode to nothing; then one cycle
passes. To run it is to execute it; where it is the first after dispatch and issues, its task is started with it (R280). A turn of the agenda runs its event, or issues for its drover, in no cycle of its own. -/
def Sys2Proof.Claims.DecodedStep : Prop :=
  ∀ (s : State),
    (∀ (d : Drover) (va : Word) (l : Leaf) (pa : Nat), va.toNat % 4 = 0 → s.chip.translate s.focus d va.toNat = .leaf l → l.rmt = false →
      pa = l.pa va.toNat → pa % 4 = 0 → servesRemote pa = true → l.grants d.steward .fetch = true → s.chip.homes.anyBad pa 4 = false →
      look d.mem.icache (fetchKey l pa) = none →
      ∃ d', s.fetchWord d va = .got (BitVec.ofNat 32 (s.chip.homes.num pa 4)) d' ∧ d'.regs = d.regs) ∧
    (∀ (s1 : State) (d0 d d1 : Drover) (w : BitVec 32), s.agenda = [] → s.chip.mgmt.stopped = false → s.chip.mgmt.bootst ≠ 0 →
      s.cur? = some d0 → d0.mayIssue s.cycle = true → s1 = s.onChip (fun c => c.begun s.focus d0) → s1.cur? = some d → d.async = [] →
      s1.fetchWord d d.regs.pc = .got w d1 →
      (∀ i, decodeWords [w] = .ok (i, []) → step s = passed 1 (settled s (s1.runs d1 i))) ∧
      (∀ w1 d2, twoWords w = true → s1.fetchWord d1 (d1.regs.pc + 4) = .got w1 d2 →
        (∀ i, decodeWords [w, w1] = .ok (i, []) → step s = passed 1 (settled s (s1.runs d2 i))) ∧
        (∀ e, decodeWords [w, w1] = .error e → step s = passed 1 (settled s (s1.runs d2 (.illegalInstruction w))))) ∧
      (∀ e, twoWords w = false → decodeWords [w] = .error e →
        step s = passed 1 (settled s (s1.runs d1 (.illegalInstruction w))))) ∧
    (∀ (d : Drover) (i : Instr),
      (s.chip.unstarted s.focus = false → s.runs d i = exec i (withDrover s d)) ∧
      (∀ t, s.chip.unstarted s.focus = true → exec i (withDrover s d) = .next t →
        (t.hasIssued d = true → s.runs d i = exec i ((withDrover s d).onChip fun c => c.started s.focus)) ∧
        (t.hasIssued d = false → s.runs d i = .next t))) ∧
    (∀ i rest, s.agenda = .event i :: rest → s.chip.mgmt.stopped = false → i.isEvent = true →
      step s = settled { s with agenda := rest } (exec i { s with agenda := rest })) ∧
    (s.agenda = [] → s.chip.mgmt.stopped = false → s.chip.mgmt.bootst = 0 → step s = passed 1 (settled s (exec .boot s)))

/-- R68 to R76: words written out from the encodings decode to the instruction they stand for. -/
def Obligations.DecodeWords : Prop :=
  decodeWords [0x04642800] = .ok (.add 3 4 5 0, []) ∧ decodeWords [0x0464284D] = .ok (.div 3 4 5 1, []) ∧
    decodeWords [0x0864FFFF] = .ok (.addi 3 4 0xFFFF, []) ∧ decodeWords [0x4064D010] = .ok (.ld 3 4 3 1 0x10, []) ∧
    decodeWords [0x61C00001] = .ok (.br 0 7 1, []) ∧ decodeWords [0x74600008] = .ok (.mfc 3 8, []) ∧
    decodeWords [0x80642841] = .ok (.amoAdd 3 4 5 0 1, []) ∧ decodeWords [0xFC600000, 0x12345678] = .ok (.liw 3 0x12345678, [])

/-- R67 to R76: decode and encode agree. The words of every well-formed instruction, with every operand at every value
that the encoding admits, stored as bytes in memory's order, decode to it and to its length, whatever follows. -/
def Obligations.DecodeEncode : Prop :=
  ∀ (i : Instr) (rest : List Byte), i.wellFormed = true → i.isEvent = false → (∀ w, i ≠ .illegalInstruction w) →
    decode (bytesOfWords (encode i) ++ rest) = .ok (i, 4 * (encode i).length)

/-- R67 to R76: and each word has one meaning. What the decoder accepts is well formed, no event, and encodes to the
words it was read from; no word is accepted by two instructions. -/
def Obligations.EncodeDecode : Prop :=
  ∀ (l rest : List (BitVec 32)) (i : Instr), decodeWords l = .ok (i, rest) →
    i.wellFormed = true ∧ i.isEvent = false ∧ l = encode i ++ rest

/-- R14, R361, R365: what reset leaves: the module is booting, CYCLE is 0, the management registers hold their values
at reset, no port is bound or holds a token, and there is no expedition, no task and no binding. The clauses about
memory and the steward cores are the model's own choice (log 1, log 2). -/
def Obligations.ResetState : Prop :=
  State.reset.cycle = 0 ∧ State.reset.chip.mgmt.bootst = 0 ∧ State.reset.chip.mgmt.devid = 0 ∧ State.reset.chip.mgmt.powlim = 1900 ∧
    State.reset.chip.mgmt.ecccnt = 0 ∧ State.reset.chip.mgmt.uecnt = 0 ∧ State.reset.chip.mgmt.linkerr = 0 ∧
    State.reset.chip.mgmt.govcnt = 0 ∧ State.reset.chip.mgmt.throttle = false ∧ State.reset.chip.mgmt.trip = false ∧
    State.reset.chip.routes = [] ∧ (∀ (i : Nat) (p : Port), State.reset.chip.ports[i]? = some p → p.mode = false ∧ p.fifo = []) ∧
    State.reset.chip.sched.exps = [] ∧ State.reset.chip.sched.tasks = [] ∧ State.reset.chip.binds = [] ∧
    Canonical State.reset ∧ (∀ pa, State.reset.chip.homes.byte pa = 0) ∧
    (∀ u d, State.reset.chip.drover? u = some d → d.steward = true ∧ d.regs.getX 0 = 0 ∧ d.regs.getP 7 = true)

/-- R11: CYCLE counts every cycle and nothing turns it back but module reset: a step with no turn on the agenda takes
it on by one, a turn leaves it or, a tick of n cycles, takes it on by n. -/
def Obligations.CycleCounts : Prop :=
  ∀ s t : State, step s = .next t →
    (s.agenda = [] → t.cycle = s.cycle + 1 ∧ t.agenda = []) ∧
    (∀ n rest, s.agenda = .tick n :: rest → t.cycle = s.cycle + n ∧ t.agenda = rest) ∧
    (∀ u rest, s.agenda = .issue u :: rest → t.cycle = s.cycle ∧ t.agenda = rest) ∧
    (∀ n rest, s.agenda = .ahead n :: rest → t = { s with agenda := rest, ahead := n }) ∧
    (∀ i rest, s.agenda = .event i :: rest → i ≠ .moduleReset → t.cycle = s.cycle ∧ t.agenda = rest)

/-- The canonical form of memory is kept by every step, of every instruction and every event: equal memories are equal
data. The form is the model's (log 2); what it says of the machine is that no step writes outside the one operation on
memory. -/
def Obligations.MemoryStaysCanonical : Prop :=
  ∀ s t : State, Canonical s → step s = .next t → Canonical t

/-- R366: a module whose clocks a trip has stopped takes no step but module reset, which starts them again. -/
def Sys2Proof.Claims.StoppedModule : Prop :=
  ∀ s : State, s.chip.mgmt.stopped = true →
    (s.agenda = [] → step s = .fault .clocksStopped) ∧
    (∀ a rest, s.agenda = a :: rest → a.isReset = false → step s = .fault .clocksStopped) ∧
    (∀ rest, s.agenda = .event .moduleReset :: rest → ∃ t, step s = .next t ∧ t.chip.mgmt.stopped = false ∧ t.agenda = rest)

/-- R67, R74, R124, R252, R366: a step runs the instruction that stands at the pc; a module whose clocks stand takes
none. How a step chooses its turn, from the agenda, is the model's own choice (log 3). -/
def Obligations.StepRunsDecoded : Prop := DecodedStep ∧ StoppedModule
end

