-- ==== Sys2Proof/Laws/Decode.lean ====
section
/-!
SUPPORT. The fields of an encoded word, by format (R68): what the decoder reads of a word that the encoder has packed.
-/

namespace Sys2Proof

theorem fld_toNat (w : BitVec 32) (lo len : Nat) : (fld w lo len).toNat = w.toNat / 2 ^ lo % 2 ^ len := by simp [fld]

/-! ## The A format, and word 0 of the X format -/

theorem packA_toNat (op : Nat) (rd ra rb : BitVec 5) (s : BitVec 3) (o : BitVec 2) (ix : Nat) (h : op < 64) (k : ix < 64) :
    (packA op rd ra rb s o ix).toNat = op * 2 ^ 26 + rd.toNat * 2 ^ 21 + ra.toNat * 2 ^ 16 + rb.toNat * 2 ^ 11 +
      s.toNat * 2 ^ 8 + o.toNat * 2 ^ 6 + ix := by
  have := rd.isLt; have := ra.isLt; have := rb.isLt; have := s.isLt; have := o.isLt
  simp only [packA, BitVec.toNat_ofNat]; omega

theorem packA_op (op : Nat) (rd ra rb : BitVec 5) (s : BitVec 3) (o : BitVec 2) (ix : Nat) (h : op < 64) (k : ix < 64) :
    (fld (packA op rd ra rb s o ix) 26 6).toNat = op := by
  have := rd.isLt; have := ra.isLt; have := rb.isLt; have := s.isLt; have := o.isLt
  rw [fld_toNat, packA_toNat _ _ _ _ _ _ _ h k]; omega

theorem packA_rd (op : Nat) (rd ra rb : BitVec 5) (s : BitVec 3) (o : BitVec 2) (ix : Nat) (h : op < 64) (k : ix < 64) :
    fld (packA op rd ra rb s o ix) 21 5 = rd := by
  have := rd.isLt; have := ra.isLt; have := rb.isLt; have := s.isLt; have := o.isLt
  apply BitVec.eq_of_toNat_eq; rw [fld_toNat, packA_toNat _ _ _ _ _ _ _ h k]; omega

theorem packA_ra (op : Nat) (rd ra rb : BitVec 5) (s : BitVec 3) (o : BitVec 2) (ix : Nat) (h : op < 64) (k : ix < 64) :
    fld (packA op rd ra rb s o ix) 16 5 = ra := by
  have := rd.isLt; have := ra.isLt; have := rb.isLt; have := s.isLt; have := o.isLt
  apply BitVec.eq_of_toNat_eq; rw [fld_toNat, packA_toNat _ _ _ _ _ _ _ h k]; omega

theorem packA_rb (op : Nat) (rd ra rb : BitVec 5) (s : BitVec 3) (o : BitVec 2) (ix : Nat) (h : op < 64) (k : ix < 64) :
    fld (packA op rd ra rb s o ix) 11 5 = rb := by
  have := rd.isLt; have := ra.isLt; have := rb.isLt; have := s.isLt; have := o.isLt
  apply BitVec.eq_of_toNat_eq; rw [fld_toNat, packA_toNat _ _ _ _ _ _ _ h k]; omega

theorem packA_s (op : Nat) (rd ra rb : BitVec 5) (s : BitVec 3) (o : BitVec 2) (ix : Nat) (h : op < 64) (k : ix < 64) :
    fld (packA op rd ra rb s o ix) 8 3 = s := by
  have := rd.isLt; have := ra.isLt; have := rb.isLt; have := s.isLt; have := o.isLt
  apply BitVec.eq_of_toNat_eq; rw [fld_toNat, packA_toNat _ _ _ _ _ _ _ h k]; omega

theorem packA_o (op : Nat) (rd ra rb : BitVec 5) (s : BitVec 3) (o : BitVec 2) (ix : Nat) (h : op < 64) (k : ix < 64) :
    fld (packA op rd ra rb s o ix) 6 2 = o := by
  have := rd.isLt; have := ra.isLt; have := rb.isLt; have := s.isLt; have := o.isLt
  apply BitVec.eq_of_toNat_eq; rw [fld_toNat, packA_toNat _ _ _ _ _ _ _ h k]; omega

theorem packA_ix (op : Nat) (rd ra rb : BitVec 5) (s : BitVec 3) (o : BitVec 2) (ix : Nat) (h : op < 64) (k : ix < 64) :
    (fld (packA op rd ra rb s o ix) 0 6).toNat = ix := by
  have := rd.isLt; have := ra.isLt; have := rb.isLt; have := s.isLt; have := o.isLt
  rw [fld_toNat, packA_toNat _ _ _ _ _ _ _ h k]; omega

/-! ## The I format -/

theorem packI_toNat (op : Nat) (rd ra : BitVec 5) (i : BitVec 16) (h : op < 64) :
    (packI op rd ra i).toNat = op * 2 ^ 26 + rd.toNat * 2 ^ 21 + ra.toNat * 2 ^ 16 + i.toNat := by
  have := rd.isLt; have := ra.isLt; have := i.isLt
  simp only [packI, BitVec.toNat_ofNat]; omega

theorem packI_op (op : Nat) (rd ra : BitVec 5) (i : BitVec 16) (h : op < 64) : (fld (packI op rd ra i) 26 6).toNat = op := by
  have := rd.isLt; have := ra.isLt; have := i.isLt
  rw [fld_toNat, packI_toNat _ _ _ _ h]; omega

theorem packI_rd (op : Nat) (rd ra : BitVec 5) (i : BitVec 16) (h : op < 64) : fld (packI op rd ra i) 21 5 = rd := by
  have := rd.isLt; have := ra.isLt; have := i.isLt
  apply BitVec.eq_of_toNat_eq; rw [fld_toNat, packI_toNat _ _ _ _ h]; omega

theorem packI_ra (op : Nat) (rd ra : BitVec 5) (i : BitVec 16) (h : op < 64) : fld (packI op rd ra i) 16 5 = ra := by
  have := rd.isLt; have := ra.isLt; have := i.isLt
  apply BitVec.eq_of_toNat_eq; rw [fld_toNat, packI_toNat _ _ _ _ h]; omega

theorem packI_imm (op : Nat) (rd ra : BitVec 5) (i : BitVec 16) (h : op < 64) : fld (packI op rd ra i) 0 16 = i := by
  have := rd.isLt; have := ra.isLt; have := i.isLt
  apply BitVec.eq_of_toNat_eq; rw [fld_toNat, packI_toNat _ _ _ _ h]; omega

/-- A field within the immediate. -/
theorem packI_low (op : Nat) (rd ra : BitVec 5) (i : BitVec 16) (lo len : Nat) (h : op < 64) (k : lo + len ≤ 16) :
    (fld (packI op rd ra i) lo len).toNat = i.toNat / 2 ^ lo % 2 ^ len := by
  rw [fld_toNat, packI_toNat _ _ _ _ h]
  have e : op * 2 ^ 26 + rd.toNat * 2 ^ 21 + ra.toNat * 2 ^ 16 + i.toNat =
      2 ^ lo * (2 ^ len * (2 ^ (16 - lo - len) * (op * 2 ^ 10 + rd.toNat * 2 ^ 5 + ra.toNat))) + i.toNat := by
    have : 2 ^ lo * (2 ^ len * 2 ^ (16 - lo - len)) = 2 ^ 16 := by
      rw [← pow_add, ← pow_add]; congr 1; omega
    rw [← mul_assoc, ← mul_assoc, mul_assoc (2 ^ lo), this]; omega
  rw [e, Nat.mul_add_div (by positivity), Nat.mul_add_mod]

/-! ## The M and B formats -/

theorem packM_toNat (op : Nat) (rd ra : BitVec 5) (z o : BitVec 2) (f : BitVec 12) (h : op < 64) :
    (packM op rd ra z o f).toNat =
      op * 2 ^ 26 + rd.toNat * 2 ^ 21 + ra.toNat * 2 ^ 16 + z.toNat * 2 ^ 14 + o.toNat * 2 ^ 12 + f.toNat := by
  have := rd.isLt; have := ra.isLt; have := z.isLt; have := o.isLt; have := f.isLt
  simp only [packM, BitVec.toNat_ofNat]; omega

theorem packM_op (op : Nat) (rd ra : BitVec 5) (z o : BitVec 2) (f : BitVec 12) (h : op < 64) :
    (fld (packM op rd ra z o f) 26 6).toNat = op := by
  have := rd.isLt; have := ra.isLt; have := z.isLt; have := o.isLt; have := f.isLt
  rw [fld_toNat, packM_toNat _ _ _ _ _ _ h]; omega

theorem packM_rd (op : Nat) (rd ra : BitVec 5) (z o : BitVec 2) (f : BitVec 12) (h : op < 64) :
    fld (packM op rd ra z o f) 21 5 = rd := by
  have := rd.isLt; have := ra.isLt; have := z.isLt; have := o.isLt; have := f.isLt
  apply BitVec.eq_of_toNat_eq; rw [fld_toNat, packM_toNat _ _ _ _ _ _ h]; omega

theorem packM_ra (op : Nat) (rd ra : BitVec 5) (z o : BitVec 2) (f : BitVec 12) (h : op < 64) :
    fld (packM op rd ra z o f) 16 5 = ra := by
  have := rd.isLt; have := ra.isLt; have := z.isLt; have := o.isLt; have := f.isLt
  apply BitVec.eq_of_toNat_eq; rw [fld_toNat, packM_toNat _ _ _ _ _ _ h]; omega

theorem packM_z (op : Nat) (rd ra : BitVec 5) (z o : BitVec 2) (f : BitVec 12) (h : op < 64) :
    fld (packM op rd ra z o f) 14 2 = z := by
  have := rd.isLt; have := ra.isLt; have := z.isLt; have := o.isLt; have := f.isLt
  apply BitVec.eq_of_toNat_eq; rw [fld_toNat, packM_toNat _ _ _ _ _ _ h]; omega

theorem packM_o (op : Nat) (rd ra : BitVec 5) (z o : BitVec 2) (f : BitVec 12) (h : op < 64) :
    fld (packM op rd ra z o f) 12 2 = o := by
  have := rd.isLt; have := ra.isLt; have := z.isLt; have := o.isLt; have := f.isLt
  apply BitVec.eq_of_toNat_eq; rw [fld_toNat, packM_toNat _ _ _ _ _ _ h]; omega

theorem packM_f (op : Nat) (rd ra : BitVec 5) (z o : BitVec 2) (f : BitVec 12) (h : op < 64) :
    fld (packM op rd ra z o f) 0 12 = f := by
  have := rd.isLt; have := ra.isLt; have := z.isLt; have := o.isLt; have := f.isLt
  apply BitVec.eq_of_toNat_eq; rw [fld_toNat, packM_toNat _ _ _ _ _ _ h]; omega

theorem packB_toNat (op : Nat) (n : BitVec 1) (k : BitVec 3) (f : BitVec 22) (h : op < 64) :
    (packB op n k f).toNat = op * 2 ^ 26 + n.toNat * 2 ^ 25 + k.toNat * 2 ^ 22 + f.toNat := by
  have := n.isLt; have := k.isLt; have := f.isLt
  simp only [packB, BitVec.toNat_ofNat]; omega

theorem packB_op (op : Nat) (n : BitVec 1) (k : BitVec 3) (f : BitVec 22) (h : op < 64) :
    (fld (packB op n k f) 26 6).toNat = op := by
  have := n.isLt; have := k.isLt; have := f.isLt
  rw [fld_toNat, packB_toNat _ _ _ _ h]; omega

theorem packB_n (op : Nat) (n : BitVec 1) (k : BitVec 3) (f : BitVec 22) (h : op < 64) : fld (packB op n k f) 25 1 = n := by
  have := n.isLt; have := k.isLt; have := f.isLt
  apply BitVec.eq_of_toNat_eq; rw [fld_toNat, packB_toNat _ _ _ _ h]; omega

theorem packB_k (op : Nat) (n : BitVec 1) (k : BitVec 3) (f : BitVec 22) (h : op < 64) : fld (packB op n k f) 22 3 = k := by
  have := n.isLt; have := k.isLt; have := f.isLt
  apply BitVec.eq_of_toNat_eq; rw [fld_toNat, packB_toNat _ _ _ _ h]; omega

theorem packB_f (op : Nat) (n : BitVec 1) (k : BitVec 3) (f : BitVec 22) (h : op < 64) : fld (packB op n k f) 0 22 = f := by
  have := n.isLt; have := k.isLt; have := f.isLt
  apply BitVec.eq_of_toNat_eq; rw [fld_toNat, packB_toNat _ _ _ _ h]; omega

/-! ## Word 1, and packed subfields -/

theorem packLaunch_t (t : BitVec 10) (g : BitVec 22) : fld (packLaunch t g) 22 10 = t := by
  have := t.isLt; have := g.isLt
  apply BitVec.eq_of_toNat_eq; rw [fld_toNat]; simp only [packLaunch, BitVec.toNat_ofNat]; omega

theorem packLaunch_g (t : BitVec 10) (g : BitVec 22) : fld (packLaunch t g) 0 22 = g := by
  have := t.isLt; have := g.isLt
  apply BitVec.eq_of_toNat_eq; rw [fld_toNat]; simp only [packLaunch, BitVec.toNat_ofNat]; omega

theorem packShift_toNat (w : BitVec 1) (k : Nat) (n : BitVec 6) (h : k < 4) :
    (packShift w k n).toNat = w.toNat * 2 ^ 8 + k * 2 ^ 6 + n.toNat := by
  have := w.isLt; have := n.isLt
  simp only [packShift, BitVec.toNat_ofNat]; omega

theorem packKind_toNat (k : Nat) (p : BitVec 3) (h : k < 4) : (packKind k p).toNat = k * 8 + p.toNat := by
  have := p.isLt
  simp only [packKind, BitVec.toNat_ofNat]; omega

/-- A shift immediate read back. -/
theorem decodeShift_pack (d a : BitVec 5) (w : BitVec 1) (n : BitVec 6) (k : Nat) (h : k < 3) :
    decodeShift d a (packI 6 d a (packShift w k n)) =
      .ok (if k = 0 then .shli d a w n else if k = 1 then .shri d a w n else .sari d a w n) := by
  have hw := w.isLt; have hn := n.isLt
  have e := packShift_toNat w k n (by omega)
  have f9 : fld (packI 6 d a (packShift w k n)) 9 7 = 0 := by
    apply BitVec.eq_of_toNat_eq; rw [packI_low _ _ _ _ _ _ (by decide) (by decide), e]; simp; omega
  have f6 : (fld (packI 6 d a (packShift w k n)) 6 2).toNat = k := by
    rw [packI_low _ _ _ _ _ _ (by decide) (by decide), e]; omega
  have f8 : fld (packI 6 d a (packShift w k n)) 8 1 = w := by
    apply BitVec.eq_of_toNat_eq; rw [packI_low _ _ _ _ _ _ (by decide) (by decide), e]; omega
  have f0 : fld (packI 6 d a (packShift w k n)) 0 6 = n := by
    apply BitVec.eq_of_toNat_eq; rw [packI_low _ _ _ _ _ _ (by decide) (by decide), e]; omega
  unfold decodeShift
  rw [if_pos f9, f6, f8, f0]
  obtain rfl | rfl | rfl : k = 0 ∨ k = 1 ∨ k = 2 := by omega
  all_goals simp

/-- A compare with an immediate read back. -/
theorem decodeCmpi_pack (p : BitVec 3) (a : BitVec 5) (i : BitVec 16) (k : Nat) (h : k < 4) :
    decodeCmpi a (packI 9 (packKind k p) a i) =
      .ok (if k = 0 then .cmpiEq p a i else if k = 1 then .cmpiLt p a i else if k = 2 then .cmpiLtu p a i else .cmpiLe p a i) := by
  have hp := p.isLt; have hi := i.isLt; have ha := a.isLt
  have e := packKind_toNat k p h
  have t := packI_toNat 9 (packKind k p) a i (by decide)
  have f24 : (fld (packI 9 (packKind k p) a i) 24 2).toNat = k := by rw [fld_toNat, t, e]; omega
  have f21 : fld (packI 9 (packKind k p) a i) 21 3 = p := by
    apply BitVec.eq_of_toNat_eq; rw [fld_toNat, t, e]; omega
  unfold decodeCmpi
  rw [f24, f21, packI_imm _ _ _ _ (by decide)]
  obtain rfl | rfl | rfl | rfl : k = 0 ∨ k = 1 ∨ k = 2 ∨ k = 3 := by omega
  all_goals simp

/-- The conversion flags read back. -/
theorem bitAt_join3 (w u p : BitVec 1) :
    bitAt (join3 w u p) 2 = w ∧ bitAt (join3 w u p) 1 = u ∧ bitAt (join3 w u p) 0 = p := by
  revert w u p; decide

/-- The split predicate number of SEL read back. -/
theorem sel_split (c : BitVec 3) : (BitVec.ofNat 3 (c.toNat / 4)).toNat < 2 ∧
    BitVec.ofNat 3 ((BitVec.ofNat 3 (c.toNat / 4)).toNat * 4 + (BitVec.ofNat 2 (c.toNat % 4)).toNat) = c := by
  revert c; decide

end Sys2Proof
end

