-- ==== Sys2Proof/Laws/Maps.lean ====
section
/-!
SUPPORT. Sparse maps: reading what was put, deleted or changed.
-/

namespace Sys2Proof.Machine

theorem look_put {α : Type} (m : SMap α) (i : Nat) (v : α) (j : Nat) :
    look (put m i v) j = if j = i then some v else look m j := by
  induction m with
  | nil => simp [put, look, eq_comm]
  | cons p m ih =>
    obtain ⟨k, w⟩ := p
    simp only [put]
    split
    · simp [look, eq_comm]
    · split
      · subst_vars; by_cases h : j = k <;> simp [look, h, eq_comm]
      · rename_i h1 h2
        simp only [look, ih]
        by_cases h : j = i
        · subst h; simp [h2]
        · simp [h]

@[simp] theorem look_put_same {α : Type} (m : SMap α) (i : Nat) (v : α) : look (put m i v) i = some v := by
  simp [look_put]

theorem look_put_other {α : Type} (m : SMap α) {i j : Nat} (v : α) (h : j ≠ i) : look (put m i v) j = look m j := by
  simp [look_put, h]

theorem look_filter_key {α : Type} (p : Nat → Bool) (m : SMap α) (j : Nat) :
    look (m.filter fun q => p q.1) j = if p j then look m j else none := by
  induction m with
  | nil => simp [look]
  | cons q m ih =>
    obtain ⟨k, w⟩ := q
    by_cases hk : k = j
    · subst hk; cases hp : p k <;> simp [List.filter, hp, look, ih]
    · cases hp : p k <;> simp [List.filter, hp, look, ih, hk]

theorem look_del {α : Type} (m : SMap α) (i j : Nat) : look (del m i) j = if j = i then none else look m j := by
  have h := look_filter_key (fun k => k != i) m j
  rw [del, h]
  by_cases hj : j = i <;> simp [hj]

theorem look_upd {α : Type} (m : SMap α) (i : Nat) (f : α → α) (j : Nat) :
    look (upd m i f) j = if j = i then (look m i).map f else look m j := by
  unfold upd
  cases h : look m i with
  | none => by_cases hj : j = i <;> simp [hj, h]
  | some v => simp [look_put]

end Sys2Proof.Machine
end

