-- ==== Sys2Proof/Laws/Memory.lean ====
section
/-!
SUPPORT. Memory: the canonical form is kept by every operation that writes it, and a read after a write gives what was
written within the written bytes and what stood there before outside them.
-/

namespace Sys2Proof.Machine

/-! ## The canonical form -/

theorem risingCells_iff (l : List Host.Cell) : risingCells l = true ↔ l.Pairwise fun x y => x.1 < y.1 := by
  induction l with
  | nil => simp [risingCells]
  | cons x m ih =>
    cases m with
    | nil => simp [risingCells]
    | cons y m =>
      obtain ⟨a, v⟩ := x
      obtain ⟨b, w⟩ := y
      rw [risingCells, Bool.and_eq_true, ih, decide_eq_true_eq]
      constructor
      · rintro ⟨h, k⟩
        refine List.pairwise_cons.2 ⟨fun c hc => ?_, k⟩
        rcases List.mem_cons.1 hc with rfl | hc
        · exact h
        · exact Nat.lt_trans h ((List.pairwise_cons.1 k).1 c hc)
      · intro h
        exact ⟨(List.pairwise_cons.1 h).1 _ (.head _), (List.pairwise_cons.1 h).2⟩

/-- The canonical form, said of the list. -/
theorem Memory.wf_iff (m : Memory) :
    m.wf = true ↔ (m.cells.Pairwise fun x y => x.1 < y.1) ∧ ∀ c ∈ m.cells, c.2 ≠ Memory.background := by
  simp [Memory.wf, risingCells_iff]

theorem mem_freshCells {a : Nat} {bs : List Byte} {c : Host.Cell} (h : c ∈ freshCells a bs) :
    a ≤ c.1 ∧ c.1 < a + bs.length ∧ c.2 ≠ Memory.background := by
  induction bs generalizing a with
  | nil => simp [freshCells] at h
  | cons b l ih =>
    rw [freshCells] at h
    split at h
    · have := ih h
      simp only [List.length_cons]
      exact ⟨by omega, by omega, this.2.2⟩
    · rename_i hb
      rcases List.mem_cons.1 h with rfl | h
      · simp [hb]
      · have := ih h
        simp only [List.length_cons]
        exact ⟨by omega, by omega, this.2.2⟩

theorem freshCells_rising (a : Nat) (bs : List Byte) : (freshCells a bs).Pairwise fun x y => x.1 < y.1 := by
  induction bs generalizing a with
  | nil => simp [freshCells]
  | cons b l ih =>
    rw [freshCells]
    split
    · exact ih _
    · exact List.pairwise_cons.2 ⟨fun c hc => (mem_freshCells hc).1, ih _⟩

theorem Memory.filter_wf {m : Memory} (p : Host.Cell → Bool) (h : m.wf = true) :
    (Memory.mk (m.cells.filter p)).wf = true := by
  rw [Memory.wf_iff] at *
  exact ⟨h.1.sublist List.filter_sublist, fun c hc => h.2 c (List.mem_of_mem_filter hc)⟩

/-- A write keeps the canonical form. -/
theorem Memory.write_wf {m : Memory} (a : Nat) (bs : List Byte) (h : m.wf = true) : (m.write a bs).wf = true := by
  rw [Memory.wf_iff] at *
  obtain ⟨hr, hb⟩ := h
  constructor
  · simp only [Memory.write]
    refine List.pairwise_append.2 ⟨List.pairwise_append.2 ⟨hr.sublist List.filter_sublist, freshCells_rising _ _, ?_⟩,
      hr.sublist List.filter_sublist, ?_⟩
    · intro x hx y hy
      have := (mem_freshCells hy).1
      have : x.1 < a := by simpa using (List.mem_filter.1 hx).2
      omega
    · intro x hx y hy
      have : a + bs.length ≤ y.1 := by simpa using (List.mem_filter.1 hy).2
      rcases List.mem_append.1 hx with hx | hx
      · have : x.1 < a := by simpa using (List.mem_filter.1 hx).2
        omega
      · have := (mem_freshCells hx).2.1
        omega
  · intro c hc
    simp only [Memory.write, List.mem_append] at hc
    rcases hc with (hc | hc) | hc
    · exact hb c (List.mem_of_mem_filter hc)
    · exact (mem_freshCells hc).2.2
    · exact hb c (List.mem_of_mem_filter hc)

theorem Homes.write_wf {h : Homes} (pa : Nat) (bs : List Byte) (k : h.mem.wf = true) : (h.write pa bs).mem.wf = true :=
  Memory.write_wf _ _ k

theorem Homes.writeNum_wf {h : Homes} (pa n v : Nat) (k : h.mem.wf = true) : (h.writeNum pa n v).mem.wf = true :=
  Memory.write_wf _ _ k

theorem Homes.writeLong_wf {h : Homes} (pa fuel : Nat) (bs : List Byte) (k : h.mem.wf = true) :
    (h.writeLong pa fuel bs).mem.wf = true := by
  induction fuel generalizing h pa bs with
  | zero => exact k
  | succ n ih =>
    rw [Homes.writeLong]
    split
    · exact k
    · exact ih _ _ (Homes.write_wf _ _ k)

theorem Homes.clearBanks_wf {h : Homes} (n : Nat) (k : h.mem.wf = true) : (h.clearBanks n).mem.wf = true :=
  Memory.filter_wf _ k

@[simp] theorem Homes.clearBad_mem (h : Homes) (pa n : Nat) : (h.clearBad pa n).mem = h.mem := rfl

theorem Homes.freeBank_wf {h : Homes} (n cell free : Nat) (k : h.mem.wf = true) :
    (h.freeBank n cell free).mem.wf = true := by
  unfold Homes.freeBank
  rw [Homes.clearBad_mem]
  exact Homes.writeLong_wf _ _ _ k

theorem State.reset_wf : State.reset.chip.homes.mem.wf = true := rfl

/-! ## The other operations on the homes leave memory alone -/

@[simp] theorem Homes.setTag_mem (h : Homes) (pa : Nat) (b : Bool) : (h.setTag pa b).mem = h.mem := rfl
@[simp] theorem Homes.setBad_mem (h : Homes) (pa : Nat) (b : Bool) : (h.setBad pa b).mem = h.mem := rfl
@[simp] theorem Homes.write_tags (h : Homes) (pa : Nat) (bs : List Byte) : (h.write pa bs).tags = h.tags := rfl
@[simp] theorem Homes.write_bad (h : Homes) (pa : Nat) (bs : List Byte) : (h.write pa bs).bad = h.bad := rfl
@[simp] theorem Homes.write_waiters (h : Homes) (pa : Nat) (bs : List Byte) : (h.write pa bs).waiters = h.waiters := rfl
@[simp] theorem Homes.write_relay (h : Homes) (pa : Nat) (bs : List Byte) : (h.write pa bs).relay = h.relay := rfl
@[simp] theorem Homes.write_dir (h : Homes) (pa : Nat) (bs : List Byte) : (h.write pa bs).dir = h.dir := rfl
@[simp] theorem Homes.write_rel (h : Homes) (pa : Nat) (bs : List Byte) : (h.write pa bs).rel = h.rel := rfl
@[simp] theorem Homes.write_rcache (h : Homes) (pa : Nat) (bs : List Byte) : (h.write pa bs).rcache = h.rcache := rfl
@[simp] theorem Homes.write_invals (h : Homes) (pa : Nat) (bs : List Byte) : (h.write pa bs).invals = h.invals := rfl

/-! ## Reading after writing -/

theorem readCells_absent {l : List Host.Cell} {x : Nat} (h : ∀ c ∈ l, c.1 ≠ x) : readCells l x = Memory.background := by
  induction l with
  | nil => rfl
  | cons c m ih =>
    obtain ⟨k, b⟩ := c
    rw [readCells, if_neg (h (k, b) (.head _)), ih fun d hd => h d (.tail _ hd)]

theorem readCells_append_absent {l : List Host.Cell} (m : List Host.Cell) {x : Nat} (h : ∀ c ∈ l, c.1 ≠ x) :
    readCells (l ++ m) x = readCells m x := by
  induction l with
  | nil => rfl
  | cons c r ih =>
    obtain ⟨k, b⟩ := c
    rw [List.cons_append, readCells, if_neg (h (k, b) (.head _)), ih fun d hd => h d (.tail _ hd)]

theorem readCells_append_absent_right (l : List Host.Cell) {m : List Host.Cell} {x : Nat} (h : ∀ c ∈ m, c.1 ≠ x) :
    readCells (l ++ m) x = readCells l x := by
  induction l with
  | nil => rw [List.nil_append, readCells_absent h]; rfl
  | cons c r ih =>
    obtain ⟨k, b⟩ := c
    rw [List.cons_append, readCells, readCells, ih]

theorem readCells_filter (l : List Host.Cell) (p : Nat → Bool) {x : Nat} (h : p x = true) :
    readCells (l.filter fun c => p c.1) x = readCells l x := by
  induction l with
  | nil => rfl
  | cons c r ih =>
    obtain ⟨k, b⟩ := c
    by_cases hk : k = x
    · subst hk; simp [h, readCells]
    · rw [List.filter_cons]
      split
      · rw [readCells, readCells, if_neg hk, if_neg hk, ih]
      · rw [readCells, if_neg hk, ih]

theorem readCells_freshCells (a : Nat) (bs : List Byte) (x : Nat) (h : a ≤ x) (k : x < a + bs.length) :
    readCells (freshCells a bs) x = bs.getD (x - a) Memory.background := by
  induction bs generalizing a with
  | nil => simp at k; omega
  | cons b l ih =>
    rw [freshCells]
    simp only [List.length_cons] at k
    by_cases ha : a = x
    · subst ha
      have e : readCells (freshCells (a + 1) l) a = Memory.background :=
        readCells_absent fun c hc => by have := (mem_freshCells hc).1; omega
      split
      · rename_i hb; rw [e]; simp [hb]
      · simp [readCells]
    · have e : x - a = (x - (a + 1)) + 1 := by omega
      rw [e, List.getD_cons_succ, ← ih (a + 1) (by omega) (by omega)]
      split
      · rfl
      · rw [readCells, if_neg ha]

/-- A byte after a write: the byte written there, or, outside the written bytes, the byte that stood there. -/
theorem Memory.read_write (m : Memory) (a : Nat) (bs : List Byte) (x : Nat) :
    (m.write a bs).read x = if a ≤ x ∧ x < a + bs.length then bs.getD (x - a) Memory.background else m.read x := by
  simp only [Memory.read, Memory.write]
  split
  · rename_i h
    rw [readCells_append_absent_right _ fun c hc => ?_, readCells_append_absent _ fun c hc => ?_,
      readCells_freshCells _ _ _ h.1 h.2]
    · have : c.1 < a := by simpa using (List.mem_filter.1 hc).2
      omega
    · have : a + bs.length ≤ c.1 := by simpa using (List.mem_filter.1 hc).2
      omega
  · rename_i h
    by_cases hx : x < a
    · rw [readCells_append_absent_right _ fun c hc => ?_, readCells_append_absent_right _ fun c hc => ?_]
      · exact readCells_filter _ (fun k => decide (k < a)) (by simpa using hx)
      · have := (mem_freshCells hc).1; omega
      · have : a + bs.length ≤ c.1 := by simpa using (List.mem_filter.1 hc).2
        omega
    · rw [readCells_append_absent _ fun c hc => ?_]
      · exact readCells_filter _ (fun k => decide (a + bs.length ≤ k)) (by simp; omega)
      · rcases List.mem_append.1 hc with hc | hc
        · have : c.1 < a := by simpa using (List.mem_filter.1 hc).2
          omega
        · have := (mem_freshCells hc).2.1; omega

/-- A write leaves every byte outside it. -/
theorem Memory.read_write_outside (m : Memory) (a : Nat) (bs : List Byte) {x : Nat} (h : ¬(a ≤ x ∧ x < a + bs.length)) :
    (m.write a bs).read x = m.read x := by
  rw [Memory.read_write, if_neg h]

/-- In canonical form, memories that read alike are equal data. -/
theorem Memory.ext_read {m n : Memory} (hm : m.wf = true) (hn : n.wf = true) (h : ∀ x, m.read x = n.read x) : m = n := by
  rw [Memory.wf_iff] at hm hn
  obtain ⟨l⟩ := m
  obtain ⟨r⟩ := n
  simp only [Memory.read] at h
  congr 1
  simp only at hm hn
  have single : ∀ {l : List Host.Cell} {k : Nat} {b : Byte}, (l.Pairwise fun x y => x.1 < y.1) → (k, b) ∈ l → readCells l k = b := by
    intro l k b hl hk
    induction l with
    | nil => cases hk
    | cons c s ih =>
      obtain ⟨j, d⟩ := c
      rw [readCells]
      rcases List.mem_cons.1 hk with e | hk
      · cases e; simp
      · have : j < k := (List.pairwise_cons.1 hl).1 _ hk
        rw [if_neg (by omega), ih (List.pairwise_cons.1 hl).2 hk]
  have sub : ∀ {l r : List Host.Cell}, (l.Pairwise fun x y => x.1 < y.1) → (∀ c ∈ l, c.2 ≠ Memory.background) →
      (r.Pairwise fun x y => x.1 < y.1) → (∀ x, readCells l x = readCells r x) → ∀ c ∈ l, c ∈ r := by
    intro l r hl hb hr e c hc
    obtain ⟨k, b⟩ := c
    have h1 := single hl hc
    have h2 := e k
    rw [h1] at h2
    by_contra hn
    by_cases hx : ∃ d, (k, d) ∈ r
    · obtain ⟨d, hd⟩ := hx
      have := single hr hd
      rw [← h2] at this
      exact hn (this ▸ hd)
    · refine hb _ hc (h2.trans (readCells_absent ?_))
      rintro ⟨j, d⟩ hd rfl
      exact hx ⟨d, hd⟩
  refine List.Perm.eq_of_pairwise (le := fun x y : Host.Cell => x.1 < y.1) (fun a b _ _ h1 h2 => absurd h1 (by omega)) hm.1 hn.1 ?_
  refine (List.perm_ext_iff_of_nodup ?_ ?_).2 fun c => ⟨sub hm.1 hm.2 hn.1 h c, sub hn.1 hn.2 hm.1 (fun x => (h x).symm) c⟩
  · exact hm.1.imp fun {x y} hxy e => by rw [e] at hxy; omega
  · exact hn.1.imp fun {x y} hxy e => by rw [e] at hxy; omega

end Sys2Proof.Machine
end

