-- ==== Sys2Proof/Laws/State.lean ====
section
/-!
SUPPORT. One lemma per field per update of the state's records, so that no proof unfolds a record update.
-/

namespace Sys2Proof.Machine

/-! ## The state -/

@[simp] theorem State.onChip_cycle (s : State) (f : Chip → Chip) : (s.onChip f).cycle = s.cycle := rfl
@[simp] theorem State.onChip_agenda (s : State) (f : Chip → Chip) : (s.onChip f).agenda = s.agenda := rfl
@[simp] theorem State.onChip_focus (s : State) (f : Chip → Chip) : (s.onChip f).focus = s.focus := rfl
@[simp] theorem State.onChip_ahead (s : State) (f : Chip → Chip) : (s.onChip f).ahead = s.ahead := rfl
@[simp] theorem State.onChip_chip (s : State) (f : Chip → Chip) : (s.onChip f).chip = f s.chip := rfl
@[simp] theorem State.passes_cycle (s : State) (n : Nat) : (s.passes n).cycle = s.cycle + n := rfl
@[simp] theorem State.passes_agenda (s : State) (n : Nat) : (s.passes n).agenda = s.agenda := by dsimp only [State.passes]
@[simp] theorem State.passes_focus (s : State) (n : Nat) : (s.passes n).focus = s.focus := by dsimp only [State.passes]
@[simp] theorem State.passes_ahead (s : State) (n : Nat) : (s.passes n).ahead = s.ahead := by dsimp only [State.passes]

/-! ## The chip -/

@[simp] theorem Chip.setDrover_serais (c : Chip) (u : Nat) (d : Drover) : (c.setDrover u d).serais = c.serais := rfl
@[simp] theorem Chip.setDrover_binds (c : Chip) (u : Nat) (d : Drover) : (c.setDrover u d).binds = c.binds := rfl
@[simp] theorem Chip.setDrover_homes (c : Chip) (u : Nat) (d : Drover) : (c.setDrover u d).homes = c.homes := rfl
@[simp] theorem Chip.setDrover_sched (c : Chip) (u : Nat) (d : Drover) : (c.setDrover u d).sched = c.sched := rfl
@[simp] theorem Chip.setDrover_traps (c : Chip) (u : Nat) (d : Drover) : (c.setDrover u d).traps = c.traps := rfl
@[simp] theorem Chip.setDrover_xde (c : Chip) (u : Nat) (d : Drover) : (c.setDrover u d).xde = c.xde := rfl
@[simp] theorem Chip.setDrover_links (c : Chip) (u : Nat) (d : Drover) : (c.setDrover u d).links = c.links := rfl
@[simp] theorem Chip.setDrover_requests (c : Chip) (u : Nat) (d : Drover) : (c.setDrover u d).requests = c.requests := rfl
@[simp] theorem Chip.setDrover_nextTag (c : Chip) (u : Nat) (d : Drover) : (c.setDrover u d).nextTag = c.nextTag := rfl
@[simp] theorem Chip.setDrover_arrivals (c : Chip) (u : Nat) (d : Drover) : (c.setDrover u d).arrivals = c.arrivals := rfl
@[simp] theorem Chip.setDrover_far (c : Chip) (u : Nat) (d : Drover) : (c.setDrover u d).far = c.far := rfl
@[simp] theorem Chip.setDrover_routes (c : Chip) (u : Nat) (d : Drover) : (c.setDrover u d).routes = c.routes := rfl
@[simp] theorem Chip.setDrover_ports (c : Chip) (u : Nat) (d : Drover) : (c.setDrover u d).ports = c.ports := rfl
@[simp] theorem Chip.setDrover_images (c : Chip) (u : Nat) (d : Drover) : (c.setDrover u d).images = c.images := rfl
@[simp] theorem Chip.setDrover_mgmt (c : Chip) (u : Nat) (d : Drover) : (c.setDrover u d).mgmt = c.mgmt := rfl
@[simp] theorem Chip.setDrover_health (c : Chip) (u : Nat) (d : Drover) : (c.setDrover u d).health = c.health := rfl
@[simp] theorem Chip.setDrover_gov (c : Chip) (u : Nat) (d : Drover) : (c.setDrover u d).gov = c.gov := rfl
@[simp] theorem Chip.setDrover_free (c : Chip) (u : Nat) (d : Drover) : (c.setDrover u d).free = c.free := rfl
@[simp] theorem Chip.setDrover_walkers (c : Chip) (u : Nat) (d : Drover) : (c.setDrover u d).walkers = c.walkers := rfl
@[simp] theorem Chip.setSerai_drovers (c : Chip) (n : Nat) (v : Serai) : (c.setSerai n v).drovers = c.drovers := rfl
@[simp] theorem Chip.setSerai_binds (c : Chip) (n : Nat) (v : Serai) : (c.setSerai n v).binds = c.binds := rfl
@[simp] theorem Chip.setSerai_homes (c : Chip) (n : Nat) (v : Serai) : (c.setSerai n v).homes = c.homes := rfl
@[simp] theorem Chip.setSerai_sched (c : Chip) (n : Nat) (v : Serai) : (c.setSerai n v).sched = c.sched := rfl
@[simp] theorem Chip.setSerai_traps (c : Chip) (n : Nat) (v : Serai) : (c.setSerai n v).traps = c.traps := rfl
@[simp] theorem Chip.setSerai_xde (c : Chip) (n : Nat) (v : Serai) : (c.setSerai n v).xde = c.xde := rfl
@[simp] theorem Chip.setSerai_links (c : Chip) (n : Nat) (v : Serai) : (c.setSerai n v).links = c.links := rfl
@[simp] theorem Chip.setSerai_requests (c : Chip) (n : Nat) (v : Serai) : (c.setSerai n v).requests = c.requests := rfl
@[simp] theorem Chip.setSerai_nextTag (c : Chip) (n : Nat) (v : Serai) : (c.setSerai n v).nextTag = c.nextTag := rfl
@[simp] theorem Chip.setSerai_arrivals (c : Chip) (n : Nat) (v : Serai) : (c.setSerai n v).arrivals = c.arrivals := rfl
@[simp] theorem Chip.setSerai_far (c : Chip) (n : Nat) (v : Serai) : (c.setSerai n v).far = c.far := rfl
@[simp] theorem Chip.setSerai_routes (c : Chip) (n : Nat) (v : Serai) : (c.setSerai n v).routes = c.routes := rfl
@[simp] theorem Chip.setSerai_ports (c : Chip) (n : Nat) (v : Serai) : (c.setSerai n v).ports = c.ports := rfl
@[simp] theorem Chip.setSerai_images (c : Chip) (n : Nat) (v : Serai) : (c.setSerai n v).images = c.images := rfl
@[simp] theorem Chip.setSerai_mgmt (c : Chip) (n : Nat) (v : Serai) : (c.setSerai n v).mgmt = c.mgmt := rfl
@[simp] theorem Chip.setSerai_health (c : Chip) (n : Nat) (v : Serai) : (c.setSerai n v).health = c.health := rfl
@[simp] theorem Chip.setSerai_gov (c : Chip) (n : Nat) (v : Serai) : (c.setSerai n v).gov = c.gov := rfl
@[simp] theorem Chip.setSerai_free (c : Chip) (n : Nat) (v : Serai) : (c.setSerai n v).free = c.free := rfl
@[simp] theorem Chip.setSerai_walkers (c : Chip) (n : Nat) (v : Serai) : (c.setSerai n v).walkers = c.walkers := rfl
@[simp] theorem Chip.onSerai_drovers (c : Chip) (n : Nat) (f : Serai → Serai) : (c.onSerai n f).drovers = c.drovers := rfl
@[simp] theorem Chip.onSerai_binds (c : Chip) (n : Nat) (f : Serai → Serai) : (c.onSerai n f).binds = c.binds := rfl
@[simp] theorem Chip.onSerai_homes (c : Chip) (n : Nat) (f : Serai → Serai) : (c.onSerai n f).homes = c.homes := rfl
@[simp] theorem Chip.onSerai_sched (c : Chip) (n : Nat) (f : Serai → Serai) : (c.onSerai n f).sched = c.sched := rfl
@[simp] theorem Chip.onSerai_traps (c : Chip) (n : Nat) (f : Serai → Serai) : (c.onSerai n f).traps = c.traps := rfl
@[simp] theorem Chip.onSerai_xde (c : Chip) (n : Nat) (f : Serai → Serai) : (c.onSerai n f).xde = c.xde := rfl
@[simp] theorem Chip.onSerai_links (c : Chip) (n : Nat) (f : Serai → Serai) : (c.onSerai n f).links = c.links := rfl
@[simp] theorem Chip.onSerai_requests (c : Chip) (n : Nat) (f : Serai → Serai) : (c.onSerai n f).requests = c.requests := rfl
@[simp] theorem Chip.onSerai_nextTag (c : Chip) (n : Nat) (f : Serai → Serai) : (c.onSerai n f).nextTag = c.nextTag := rfl
@[simp] theorem Chip.onSerai_arrivals (c : Chip) (n : Nat) (f : Serai → Serai) : (c.onSerai n f).arrivals = c.arrivals := rfl
@[simp] theorem Chip.onSerai_far (c : Chip) (n : Nat) (f : Serai → Serai) : (c.onSerai n f).far = c.far := rfl
@[simp] theorem Chip.onSerai_routes (c : Chip) (n : Nat) (f : Serai → Serai) : (c.onSerai n f).routes = c.routes := rfl
@[simp] theorem Chip.onSerai_ports (c : Chip) (n : Nat) (f : Serai → Serai) : (c.onSerai n f).ports = c.ports := rfl
@[simp] theorem Chip.onSerai_images (c : Chip) (n : Nat) (f : Serai → Serai) : (c.onSerai n f).images = c.images := rfl
@[simp] theorem Chip.onSerai_mgmt (c : Chip) (n : Nat) (f : Serai → Serai) : (c.onSerai n f).mgmt = c.mgmt := rfl
@[simp] theorem Chip.onSerai_health (c : Chip) (n : Nat) (f : Serai → Serai) : (c.onSerai n f).health = c.health := rfl
@[simp] theorem Chip.onSerai_gov (c : Chip) (n : Nat) (f : Serai → Serai) : (c.onSerai n f).gov = c.gov := rfl
@[simp] theorem Chip.onSerai_free (c : Chip) (n : Nat) (f : Serai → Serai) : (c.onSerai n f).free = c.free := rfl
@[simp] theorem Chip.onSerai_walkers (c : Chip) (n : Nat) (f : Serai → Serai) : (c.onSerai n f).walkers = c.walkers := rfl
@[simp] theorem Chip.onHomes_drovers (c : Chip) (f : Homes → Homes) : (c.onHomes f).drovers = c.drovers := rfl
@[simp] theorem Chip.onHomes_serais (c : Chip) (f : Homes → Homes) : (c.onHomes f).serais = c.serais := rfl
@[simp] theorem Chip.onHomes_binds (c : Chip) (f : Homes → Homes) : (c.onHomes f).binds = c.binds := rfl
@[simp] theorem Chip.onHomes_sched (c : Chip) (f : Homes → Homes) : (c.onHomes f).sched = c.sched := rfl
@[simp] theorem Chip.onHomes_traps (c : Chip) (f : Homes → Homes) : (c.onHomes f).traps = c.traps := rfl
@[simp] theorem Chip.onHomes_xde (c : Chip) (f : Homes → Homes) : (c.onHomes f).xde = c.xde := rfl
@[simp] theorem Chip.onHomes_links (c : Chip) (f : Homes → Homes) : (c.onHomes f).links = c.links := rfl
@[simp] theorem Chip.onHomes_requests (c : Chip) (f : Homes → Homes) : (c.onHomes f).requests = c.requests := rfl
@[simp] theorem Chip.onHomes_nextTag (c : Chip) (f : Homes → Homes) : (c.onHomes f).nextTag = c.nextTag := rfl
@[simp] theorem Chip.onHomes_arrivals (c : Chip) (f : Homes → Homes) : (c.onHomes f).arrivals = c.arrivals := rfl
@[simp] theorem Chip.onHomes_far (c : Chip) (f : Homes → Homes) : (c.onHomes f).far = c.far := rfl
@[simp] theorem Chip.onHomes_routes (c : Chip) (f : Homes → Homes) : (c.onHomes f).routes = c.routes := rfl
@[simp] theorem Chip.onHomes_ports (c : Chip) (f : Homes → Homes) : (c.onHomes f).ports = c.ports := rfl
@[simp] theorem Chip.onHomes_images (c : Chip) (f : Homes → Homes) : (c.onHomes f).images = c.images := rfl
@[simp] theorem Chip.onHomes_mgmt (c : Chip) (f : Homes → Homes) : (c.onHomes f).mgmt = c.mgmt := rfl
@[simp] theorem Chip.onHomes_health (c : Chip) (f : Homes → Homes) : (c.onHomes f).health = c.health := rfl
@[simp] theorem Chip.onHomes_gov (c : Chip) (f : Homes → Homes) : (c.onHomes f).gov = c.gov := rfl
@[simp] theorem Chip.onHomes_free (c : Chip) (f : Homes → Homes) : (c.onHomes f).free = c.free := rfl
@[simp] theorem Chip.onHomes_walkers (c : Chip) (f : Homes → Homes) : (c.onHomes f).walkers = c.walkers := rfl
@[simp] theorem Chip.onSched_drovers (c : Chip) (f : Sched → Sched) : (c.onSched f).drovers = c.drovers := rfl
@[simp] theorem Chip.onSched_serais (c : Chip) (f : Sched → Sched) : (c.onSched f).serais = c.serais := rfl
@[simp] theorem Chip.onSched_binds (c : Chip) (f : Sched → Sched) : (c.onSched f).binds = c.binds := rfl
@[simp] theorem Chip.onSched_homes (c : Chip) (f : Sched → Sched) : (c.onSched f).homes = c.homes := rfl
@[simp] theorem Chip.onSched_traps (c : Chip) (f : Sched → Sched) : (c.onSched f).traps = c.traps := rfl
@[simp] theorem Chip.onSched_xde (c : Chip) (f : Sched → Sched) : (c.onSched f).xde = c.xde := rfl
@[simp] theorem Chip.onSched_links (c : Chip) (f : Sched → Sched) : (c.onSched f).links = c.links := rfl
@[simp] theorem Chip.onSched_requests (c : Chip) (f : Sched → Sched) : (c.onSched f).requests = c.requests := rfl
@[simp] theorem Chip.onSched_nextTag (c : Chip) (f : Sched → Sched) : (c.onSched f).nextTag = c.nextTag := rfl
@[simp] theorem Chip.onSched_arrivals (c : Chip) (f : Sched → Sched) : (c.onSched f).arrivals = c.arrivals := rfl
@[simp] theorem Chip.onSched_far (c : Chip) (f : Sched → Sched) : (c.onSched f).far = c.far := rfl
@[simp] theorem Chip.onSched_routes (c : Chip) (f : Sched → Sched) : (c.onSched f).routes = c.routes := rfl
@[simp] theorem Chip.onSched_ports (c : Chip) (f : Sched → Sched) : (c.onSched f).ports = c.ports := rfl
@[simp] theorem Chip.onSched_images (c : Chip) (f : Sched → Sched) : (c.onSched f).images = c.images := rfl
@[simp] theorem Chip.onSched_mgmt (c : Chip) (f : Sched → Sched) : (c.onSched f).mgmt = c.mgmt := rfl
@[simp] theorem Chip.onSched_health (c : Chip) (f : Sched → Sched) : (c.onSched f).health = c.health := rfl
@[simp] theorem Chip.onSched_gov (c : Chip) (f : Sched → Sched) : (c.onSched f).gov = c.gov := rfl
@[simp] theorem Chip.onSched_free (c : Chip) (f : Sched → Sched) : (c.onSched f).free = c.free := rfl
@[simp] theorem Chip.onSched_walkers (c : Chip) (f : Sched → Sched) : (c.onSched f).walkers = c.walkers := rfl
@[simp] theorem Chip.onTraps_drovers (c : Chip) (f : Traps → Traps) : (c.onTraps f).drovers = c.drovers := rfl
@[simp] theorem Chip.onTraps_serais (c : Chip) (f : Traps → Traps) : (c.onTraps f).serais = c.serais := rfl
@[simp] theorem Chip.onTraps_binds (c : Chip) (f : Traps → Traps) : (c.onTraps f).binds = c.binds := rfl
@[simp] theorem Chip.onTraps_homes (c : Chip) (f : Traps → Traps) : (c.onTraps f).homes = c.homes := rfl
@[simp] theorem Chip.onTraps_sched (c : Chip) (f : Traps → Traps) : (c.onTraps f).sched = c.sched := rfl
@[simp] theorem Chip.onTraps_xde (c : Chip) (f : Traps → Traps) : (c.onTraps f).xde = c.xde := rfl
@[simp] theorem Chip.onTraps_links (c : Chip) (f : Traps → Traps) : (c.onTraps f).links = c.links := rfl
@[simp] theorem Chip.onTraps_requests (c : Chip) (f : Traps → Traps) : (c.onTraps f).requests = c.requests := rfl
@[simp] theorem Chip.onTraps_nextTag (c : Chip) (f : Traps → Traps) : (c.onTraps f).nextTag = c.nextTag := rfl
@[simp] theorem Chip.onTraps_arrivals (c : Chip) (f : Traps → Traps) : (c.onTraps f).arrivals = c.arrivals := rfl
@[simp] theorem Chip.onTraps_far (c : Chip) (f : Traps → Traps) : (c.onTraps f).far = c.far := rfl
@[simp] theorem Chip.onTraps_routes (c : Chip) (f : Traps → Traps) : (c.onTraps f).routes = c.routes := rfl
@[simp] theorem Chip.onTraps_ports (c : Chip) (f : Traps → Traps) : (c.onTraps f).ports = c.ports := rfl
@[simp] theorem Chip.onTraps_images (c : Chip) (f : Traps → Traps) : (c.onTraps f).images = c.images := rfl
@[simp] theorem Chip.onTraps_mgmt (c : Chip) (f : Traps → Traps) : (c.onTraps f).mgmt = c.mgmt := rfl
@[simp] theorem Chip.onTraps_health (c : Chip) (f : Traps → Traps) : (c.onTraps f).health = c.health := rfl
@[simp] theorem Chip.onTraps_gov (c : Chip) (f : Traps → Traps) : (c.onTraps f).gov = c.gov := rfl
@[simp] theorem Chip.onTraps_free (c : Chip) (f : Traps → Traps) : (c.onTraps f).free = c.free := rfl
@[simp] theorem Chip.onTraps_walkers (c : Chip) (f : Traps → Traps) : (c.onTraps f).walkers = c.walkers := rfl
@[simp] theorem Chip.onXde_drovers (c : Chip) (f : Xde → Xde) : (c.onXde f).drovers = c.drovers := rfl
@[simp] theorem Chip.onXde_serais (c : Chip) (f : Xde → Xde) : (c.onXde f).serais = c.serais := rfl
@[simp] theorem Chip.onXde_binds (c : Chip) (f : Xde → Xde) : (c.onXde f).binds = c.binds := rfl
@[simp] theorem Chip.onXde_homes (c : Chip) (f : Xde → Xde) : (c.onXde f).homes = c.homes := rfl
@[simp] theorem Chip.onXde_sched (c : Chip) (f : Xde → Xde) : (c.onXde f).sched = c.sched := rfl
@[simp] theorem Chip.onXde_traps (c : Chip) (f : Xde → Xde) : (c.onXde f).traps = c.traps := rfl
@[simp] theorem Chip.onXde_links (c : Chip) (f : Xde → Xde) : (c.onXde f).links = c.links := rfl
@[simp] theorem Chip.onXde_requests (c : Chip) (f : Xde → Xde) : (c.onXde f).requests = c.requests := rfl
@[simp] theorem Chip.onXde_nextTag (c : Chip) (f : Xde → Xde) : (c.onXde f).nextTag = c.nextTag := rfl
@[simp] theorem Chip.onXde_arrivals (c : Chip) (f : Xde → Xde) : (c.onXde f).arrivals = c.arrivals := rfl
@[simp] theorem Chip.onXde_far (c : Chip) (f : Xde → Xde) : (c.onXde f).far = c.far := rfl
@[simp] theorem Chip.onXde_routes (c : Chip) (f : Xde → Xde) : (c.onXde f).routes = c.routes := rfl
@[simp] theorem Chip.onXde_ports (c : Chip) (f : Xde → Xde) : (c.onXde f).ports = c.ports := rfl
@[simp] theorem Chip.onXde_images (c : Chip) (f : Xde → Xde) : (c.onXde f).images = c.images := rfl
@[simp] theorem Chip.onXde_mgmt (c : Chip) (f : Xde → Xde) : (c.onXde f).mgmt = c.mgmt := rfl
@[simp] theorem Chip.onXde_health (c : Chip) (f : Xde → Xde) : (c.onXde f).health = c.health := rfl
@[simp] theorem Chip.onXde_gov (c : Chip) (f : Xde → Xde) : (c.onXde f).gov = c.gov := rfl
@[simp] theorem Chip.onXde_free (c : Chip) (f : Xde → Xde) : (c.onXde f).free = c.free := rfl
@[simp] theorem Chip.onXde_walkers (c : Chip) (f : Xde → Xde) : (c.onXde f).walkers = c.walkers := rfl
@[simp] theorem Chip.onMgmt_drovers (c : Chip) (f : Mgmt → Mgmt) : (c.onMgmt f).drovers = c.drovers := rfl
@[simp] theorem Chip.onMgmt_serais (c : Chip) (f : Mgmt → Mgmt) : (c.onMgmt f).serais = c.serais := rfl
@[simp] theorem Chip.onMgmt_binds (c : Chip) (f : Mgmt → Mgmt) : (c.onMgmt f).binds = c.binds := rfl
@[simp] theorem Chip.onMgmt_homes (c : Chip) (f : Mgmt → Mgmt) : (c.onMgmt f).homes = c.homes := rfl
@[simp] theorem Chip.onMgmt_sched (c : Chip) (f : Mgmt → Mgmt) : (c.onMgmt f).sched = c.sched := rfl
@[simp] theorem Chip.onMgmt_traps (c : Chip) (f : Mgmt → Mgmt) : (c.onMgmt f).traps = c.traps := rfl
@[simp] theorem Chip.onMgmt_xde (c : Chip) (f : Mgmt → Mgmt) : (c.onMgmt f).xde = c.xde := rfl
@[simp] theorem Chip.onMgmt_links (c : Chip) (f : Mgmt → Mgmt) : (c.onMgmt f).links = c.links := rfl
@[simp] theorem Chip.onMgmt_requests (c : Chip) (f : Mgmt → Mgmt) : (c.onMgmt f).requests = c.requests := rfl
@[simp] theorem Chip.onMgmt_nextTag (c : Chip) (f : Mgmt → Mgmt) : (c.onMgmt f).nextTag = c.nextTag := rfl
@[simp] theorem Chip.onMgmt_arrivals (c : Chip) (f : Mgmt → Mgmt) : (c.onMgmt f).arrivals = c.arrivals := rfl
@[simp] theorem Chip.onMgmt_far (c : Chip) (f : Mgmt → Mgmt) : (c.onMgmt f).far = c.far := rfl
@[simp] theorem Chip.onMgmt_routes (c : Chip) (f : Mgmt → Mgmt) : (c.onMgmt f).routes = c.routes := rfl
@[simp] theorem Chip.onMgmt_ports (c : Chip) (f : Mgmt → Mgmt) : (c.onMgmt f).ports = c.ports := rfl
@[simp] theorem Chip.onMgmt_images (c : Chip) (f : Mgmt → Mgmt) : (c.onMgmt f).images = c.images := rfl
@[simp] theorem Chip.onMgmt_health (c : Chip) (f : Mgmt → Mgmt) : (c.onMgmt f).health = c.health := rfl
@[simp] theorem Chip.onMgmt_gov (c : Chip) (f : Mgmt → Mgmt) : (c.onMgmt f).gov = c.gov := rfl
@[simp] theorem Chip.onMgmt_free (c : Chip) (f : Mgmt → Mgmt) : (c.onMgmt f).free = c.free := rfl
@[simp] theorem Chip.onMgmt_walkers (c : Chip) (f : Mgmt → Mgmt) : (c.onMgmt f).walkers = c.walkers := rfl
@[simp] theorem Chip.onExp_drovers (c : Chip) (e : Nat) (f : Expedition → Expedition) : (c.onExp e f).drovers = c.drovers := rfl
@[simp] theorem Chip.onExp_serais (c : Chip) (e : Nat) (f : Expedition → Expedition) : (c.onExp e f).serais = c.serais := rfl
@[simp] theorem Chip.onExp_binds (c : Chip) (e : Nat) (f : Expedition → Expedition) : (c.onExp e f).binds = c.binds := rfl
@[simp] theorem Chip.onExp_homes (c : Chip) (e : Nat) (f : Expedition → Expedition) : (c.onExp e f).homes = c.homes := rfl
@[simp] theorem Chip.onExp_traps (c : Chip) (e : Nat) (f : Expedition → Expedition) : (c.onExp e f).traps = c.traps := rfl
@[simp] theorem Chip.onExp_xde (c : Chip) (e : Nat) (f : Expedition → Expedition) : (c.onExp e f).xde = c.xde := rfl
@[simp] theorem Chip.onExp_links (c : Chip) (e : Nat) (f : Expedition → Expedition) : (c.onExp e f).links = c.links := rfl
@[simp] theorem Chip.onExp_requests (c : Chip) (e : Nat) (f : Expedition → Expedition) : (c.onExp e f).requests = c.requests := rfl
@[simp] theorem Chip.onExp_nextTag (c : Chip) (e : Nat) (f : Expedition → Expedition) : (c.onExp e f).nextTag = c.nextTag := rfl
@[simp] theorem Chip.onExp_arrivals (c : Chip) (e : Nat) (f : Expedition → Expedition) : (c.onExp e f).arrivals = c.arrivals := rfl
@[simp] theorem Chip.onExp_far (c : Chip) (e : Nat) (f : Expedition → Expedition) : (c.onExp e f).far = c.far := rfl
@[simp] theorem Chip.onExp_routes (c : Chip) (e : Nat) (f : Expedition → Expedition) : (c.onExp e f).routes = c.routes := rfl
@[simp] theorem Chip.onExp_ports (c : Chip) (e : Nat) (f : Expedition → Expedition) : (c.onExp e f).ports = c.ports := rfl
@[simp] theorem Chip.onExp_images (c : Chip) (e : Nat) (f : Expedition → Expedition) : (c.onExp e f).images = c.images := rfl
@[simp] theorem Chip.onExp_mgmt (c : Chip) (e : Nat) (f : Expedition → Expedition) : (c.onExp e f).mgmt = c.mgmt := rfl
@[simp] theorem Chip.onExp_health (c : Chip) (e : Nat) (f : Expedition → Expedition) : (c.onExp e f).health = c.health := rfl
@[simp] theorem Chip.onExp_gov (c : Chip) (e : Nat) (f : Expedition → Expedition) : (c.onExp e f).gov = c.gov := rfl
@[simp] theorem Chip.onExp_free (c : Chip) (e : Nat) (f : Expedition → Expedition) : (c.onExp e f).free = c.free := rfl
@[simp] theorem Chip.onExp_walkers (c : Chip) (e : Nat) (f : Expedition → Expedition) : (c.onExp e f).walkers = c.walkers := rfl
@[simp] theorem Chip.onTask_drovers (c : Chip) (u : Nat) (f : Task → Task) : (c.onTask u f).drovers = c.drovers := rfl
@[simp] theorem Chip.onTask_serais (c : Chip) (u : Nat) (f : Task → Task) : (c.onTask u f).serais = c.serais := rfl
@[simp] theorem Chip.onTask_binds (c : Chip) (u : Nat) (f : Task → Task) : (c.onTask u f).binds = c.binds := rfl
@[simp] theorem Chip.onTask_homes (c : Chip) (u : Nat) (f : Task → Task) : (c.onTask u f).homes = c.homes := rfl
@[simp] theorem Chip.onTask_traps (c : Chip) (u : Nat) (f : Task → Task) : (c.onTask u f).traps = c.traps := rfl
@[simp] theorem Chip.onTask_xde (c : Chip) (u : Nat) (f : Task → Task) : (c.onTask u f).xde = c.xde := rfl
@[simp] theorem Chip.onTask_links (c : Chip) (u : Nat) (f : Task → Task) : (c.onTask u f).links = c.links := rfl
@[simp] theorem Chip.onTask_requests (c : Chip) (u : Nat) (f : Task → Task) : (c.onTask u f).requests = c.requests := rfl
@[simp] theorem Chip.onTask_nextTag (c : Chip) (u : Nat) (f : Task → Task) : (c.onTask u f).nextTag = c.nextTag := rfl
@[simp] theorem Chip.onTask_arrivals (c : Chip) (u : Nat) (f : Task → Task) : (c.onTask u f).arrivals = c.arrivals := rfl
@[simp] theorem Chip.onTask_far (c : Chip) (u : Nat) (f : Task → Task) : (c.onTask u f).far = c.far := rfl
@[simp] theorem Chip.onTask_routes (c : Chip) (u : Nat) (f : Task → Task) : (c.onTask u f).routes = c.routes := rfl
@[simp] theorem Chip.onTask_ports (c : Chip) (u : Nat) (f : Task → Task) : (c.onTask u f).ports = c.ports := rfl
@[simp] theorem Chip.onTask_images (c : Chip) (u : Nat) (f : Task → Task) : (c.onTask u f).images = c.images := rfl
@[simp] theorem Chip.onTask_mgmt (c : Chip) (u : Nat) (f : Task → Task) : (c.onTask u f).mgmt = c.mgmt := rfl
@[simp] theorem Chip.onTask_health (c : Chip) (u : Nat) (f : Task → Task) : (c.onTask u f).health = c.health := rfl
@[simp] theorem Chip.onTask_gov (c : Chip) (u : Nat) (f : Task → Task) : (c.onTask u f).gov = c.gov := rfl
@[simp] theorem Chip.onTask_free (c : Chip) (u : Nat) (f : Task → Task) : (c.onTask u f).free = c.free := rfl
@[simp] theorem Chip.onTask_walkers (c : Chip) (u : Nat) (f : Task → Task) : (c.onTask u f).walkers = c.walkers := rfl
@[simp] theorem Chip.onCaravan_drovers (c : Chip) (v : Nat) (f : Caravan → Caravan) : (c.onCaravan v f).drovers = c.drovers := rfl
@[simp] theorem Chip.onCaravan_serais (c : Chip) (v : Nat) (f : Caravan → Caravan) : (c.onCaravan v f).serais = c.serais := rfl
@[simp] theorem Chip.onCaravan_binds (c : Chip) (v : Nat) (f : Caravan → Caravan) : (c.onCaravan v f).binds = c.binds := rfl
@[simp] theorem Chip.onCaravan_homes (c : Chip) (v : Nat) (f : Caravan → Caravan) : (c.onCaravan v f).homes = c.homes := rfl
@[simp] theorem Chip.onCaravan_traps (c : Chip) (v : Nat) (f : Caravan → Caravan) : (c.onCaravan v f).traps = c.traps := rfl
@[simp] theorem Chip.onCaravan_xde (c : Chip) (v : Nat) (f : Caravan → Caravan) : (c.onCaravan v f).xde = c.xde := rfl
@[simp] theorem Chip.onCaravan_links (c : Chip) (v : Nat) (f : Caravan → Caravan) : (c.onCaravan v f).links = c.links := rfl
@[simp] theorem Chip.onCaravan_requests (c : Chip) (v : Nat) (f : Caravan → Caravan) : (c.onCaravan v f).requests = c.requests := rfl
@[simp] theorem Chip.onCaravan_nextTag (c : Chip) (v : Nat) (f : Caravan → Caravan) : (c.onCaravan v f).nextTag = c.nextTag := rfl
@[simp] theorem Chip.onCaravan_arrivals (c : Chip) (v : Nat) (f : Caravan → Caravan) : (c.onCaravan v f).arrivals = c.arrivals := rfl
@[simp] theorem Chip.onCaravan_far (c : Chip) (v : Nat) (f : Caravan → Caravan) : (c.onCaravan v f).far = c.far := rfl
@[simp] theorem Chip.onCaravan_routes (c : Chip) (v : Nat) (f : Caravan → Caravan) : (c.onCaravan v f).routes = c.routes := rfl
@[simp] theorem Chip.onCaravan_ports (c : Chip) (v : Nat) (f : Caravan → Caravan) : (c.onCaravan v f).ports = c.ports := rfl
@[simp] theorem Chip.onCaravan_images (c : Chip) (v : Nat) (f : Caravan → Caravan) : (c.onCaravan v f).images = c.images := rfl
@[simp] theorem Chip.onCaravan_mgmt (c : Chip) (v : Nat) (f : Caravan → Caravan) : (c.onCaravan v f).mgmt = c.mgmt := rfl
@[simp] theorem Chip.onCaravan_health (c : Chip) (v : Nat) (f : Caravan → Caravan) : (c.onCaravan v f).health = c.health := rfl
@[simp] theorem Chip.onCaravan_gov (c : Chip) (v : Nat) (f : Caravan → Caravan) : (c.onCaravan v f).gov = c.gov := rfl
@[simp] theorem Chip.onCaravan_free (c : Chip) (v : Nat) (f : Caravan → Caravan) : (c.onCaravan v f).free = c.free := rfl
@[simp] theorem Chip.onCaravan_walkers (c : Chip) (v : Nat) (f : Caravan → Caravan) : (c.onCaravan v f).walkers = c.walkers := rfl
@[simp] theorem Chip.onHomes_homes (c : Chip) (f : Homes → Homes) : (c.onHomes f).homes = f c.homes := rfl
@[simp] theorem Chip.onSched_sched (c : Chip) (f : Sched → Sched) : (c.onSched f).sched = f c.sched := rfl
@[simp] theorem Chip.onTraps_traps (c : Chip) (f : Traps → Traps) : (c.onTraps f).traps = f c.traps := rfl
@[simp] theorem Chip.onXde_xde (c : Chip) (f : Xde → Xde) : (c.onXde f).xde = f c.xde := rfl
@[simp] theorem Chip.onMgmt_mgmt (c : Chip) (f : Mgmt → Mgmt) : (c.onMgmt f).mgmt = f c.mgmt := rfl

/-! ## The drover -/

@[simp] theorem Drover.retire_steward (d : Drover) (n : Nat) : (d.retire n).steward = d.steward := rfl
@[simp] theorem Drover.retire_exp (d : Drover) (n : Nat) : (d.retire n).exp = d.exp := rfl
@[simp] theorem Drover.retire_core (d : Drover) (n : Nat) : (d.retire n).core = d.core := rfl
@[simp] theorem Drover.retire_run (d : Drover) (n : Nat) : (d.retire n).run = d.run := rfl
@[simp] theorem Drover.retire_stew (d : Drover) (n : Nat) : (d.retire n).stew = d.stew := rfl
@[simp] theorem Drover.retire_board (d : Drover) (n : Nat) : (d.retire n).board = d.board := rfl
@[simp] theorem Drover.retire_queues (d : Drover) (n : Nat) : (d.retire n).queues = d.queues := rfl
@[simp] theorem Drover.retire_mem (d : Drover) (n : Nat) : (d.retire n).mem = d.mem := rfl
@[simp] theorem Drover.retire_members (d : Drover) (n : Nat) : (d.retire n).members = d.members := rfl
@[simp] theorem Drover.retire_async (d : Drover) (n : Nat) : (d.retire n).async = d.async := rfl
@[simp] theorem Drover.retire_trap (d : Drover) (n : Nat) : (d.retire n).trap = d.trap := rfl
@[simp] theorem Drover.retire_held (d : Drover) (n : Nat) : (d.retire n).held = d.held := rfl
@[simp] theorem Drover.retire_mapNow (d : Drover) (n : Nat) : (d.retire n).mapNow = d.mapNow := rfl
@[simp] theorem Drover.retire_clk (d : Drover) (n : Nat) : (d.retire n).clk = d.clk := rfl
@[simp] theorem Drover.takeTrap_steward (d : Drover) (t : TrapReq) : (d.takeTrap t).steward = d.steward := rfl
@[simp] theorem Drover.takeTrap_exp (d : Drover) (t : TrapReq) : (d.takeTrap t).exp = d.exp := rfl
@[simp] theorem Drover.takeTrap_core (d : Drover) (t : TrapReq) : (d.takeTrap t).core = d.core := rfl
@[simp] theorem Drover.takeTrap_regs (d : Drover) (t : TrapReq) : (d.takeTrap t).regs = d.regs := rfl
@[simp] theorem Drover.takeTrap_ctl (d : Drover) (t : TrapReq) : (d.takeTrap t).ctl = d.ctl := rfl
@[simp] theorem Drover.takeTrap_stew (d : Drover) (t : TrapReq) : (d.takeTrap t).stew = d.stew := rfl
@[simp] theorem Drover.takeTrap_board (d : Drover) (t : TrapReq) : (d.takeTrap t).board = d.board := rfl
@[simp] theorem Drover.takeTrap_queues (d : Drover) (t : TrapReq) : (d.takeTrap t).queues = d.queues := rfl
@[simp] theorem Drover.takeTrap_mem (d : Drover) (t : TrapReq) : (d.takeTrap t).mem = d.mem := rfl
@[simp] theorem Drover.takeTrap_members (d : Drover) (t : TrapReq) : (d.takeTrap t).members = d.members := rfl
@[simp] theorem Drover.takeTrap_async (d : Drover) (t : TrapReq) : (d.takeTrap t).async = d.async := rfl
@[simp] theorem Drover.takeTrap_held (d : Drover) (t : TrapReq) : (d.takeTrap t).held = d.held := rfl
@[simp] theorem Drover.takeTrap_blockedAt (d : Drover) (t : TrapReq) : (d.takeTrap t).blockedAt = d.blockedAt := rfl
@[simp] theorem Drover.takeTrap_mapNow (d : Drover) (t : TrapReq) : (d.takeTrap t).mapNow = d.mapNow := rfl
@[simp] theorem Drover.takeTrap_clk (d : Drover) (t : TrapReq) : (d.takeTrap t).clk = d.clk := rfl
@[simp] theorem Drover.stalled_steward (d : Drover) (o : Option Nat) (k : Nat) : (d.stalled o k).steward = d.steward := rfl
@[simp] theorem Drover.stalled_exp (d : Drover) (o : Option Nat) (k : Nat) : (d.stalled o k).exp = d.exp := rfl
@[simp] theorem Drover.stalled_core (d : Drover) (o : Option Nat) (k : Nat) : (d.stalled o k).core = d.core := rfl
@[simp] theorem Drover.stalled_run (d : Drover) (o : Option Nat) (k : Nat) : (d.stalled o k).run = d.run := rfl
@[simp] theorem Drover.stalled_regs (d : Drover) (o : Option Nat) (k : Nat) : (d.stalled o k).regs = d.regs := rfl
@[simp] theorem Drover.stalled_ctl (d : Drover) (o : Option Nat) (k : Nat) : (d.stalled o k).ctl = d.ctl := rfl
@[simp] theorem Drover.stalled_stew (d : Drover) (o : Option Nat) (k : Nat) : (d.stalled o k).stew = d.stew := rfl
@[simp] theorem Drover.stalled_board (d : Drover) (o : Option Nat) (k : Nat) : (d.stalled o k).board = d.board := rfl
@[simp] theorem Drover.stalled_queues (d : Drover) (o : Option Nat) (k : Nat) : (d.stalled o k).queues = d.queues := rfl
@[simp] theorem Drover.stalled_mem (d : Drover) (o : Option Nat) (k : Nat) : (d.stalled o k).mem = d.mem := rfl
@[simp] theorem Drover.stalled_members (d : Drover) (o : Option Nat) (k : Nat) : (d.stalled o k).members = d.members := rfl
@[simp] theorem Drover.stalled_hold (d : Drover) (o : Option Nat) (k : Nat) : (d.stalled o k).hold = d.hold := rfl
@[simp] theorem Drover.stalled_async (d : Drover) (o : Option Nat) (k : Nat) : (d.stalled o k).async = d.async := rfl
@[simp] theorem Drover.stalled_trap (d : Drover) (o : Option Nat) (k : Nat) : (d.stalled o k).trap = d.trap := rfl
@[simp] theorem Drover.stalled_held (d : Drover) (o : Option Nat) (k : Nat) : (d.stalled o k).held = d.held := rfl
@[simp] theorem Drover.stalled_mapNow (d : Drover) (o : Option Nat) (k : Nat) : (d.stalled o k).mapNow = d.mapNow := rfl
@[simp] theorem Drover.stalled_clk (d : Drover) (o : Option Nat) (k : Nat) : (d.stalled o k).clk = d.clk := rfl
@[simp] theorem Drover.jump_steward (d : Drover) (t : Word) : (d.jump t).steward = d.steward := rfl
@[simp] theorem Drover.jump_exp (d : Drover) (t : Word) : (d.jump t).exp = d.exp := rfl
@[simp] theorem Drover.jump_core (d : Drover) (t : Word) : (d.jump t).core = d.core := rfl
@[simp] theorem Drover.jump_run (d : Drover) (t : Word) : (d.jump t).run = d.run := rfl
@[simp] theorem Drover.jump_ctl (d : Drover) (t : Word) : (d.jump t).ctl = d.ctl := rfl
@[simp] theorem Drover.jump_stew (d : Drover) (t : Word) : (d.jump t).stew = d.stew := rfl
@[simp] theorem Drover.jump_board (d : Drover) (t : Word) : (d.jump t).board = d.board := rfl
@[simp] theorem Drover.jump_queues (d : Drover) (t : Word) : (d.jump t).queues = d.queues := rfl
@[simp] theorem Drover.jump_mem (d : Drover) (t : Word) : (d.jump t).mem = d.mem := rfl
@[simp] theorem Drover.jump_members (d : Drover) (t : Word) : (d.jump t).members = d.members := rfl
@[simp] theorem Drover.jump_hold (d : Drover) (t : Word) : (d.jump t).hold = d.hold := rfl
@[simp] theorem Drover.jump_async (d : Drover) (t : Word) : (d.jump t).async = d.async := rfl
@[simp] theorem Drover.jump_trap (d : Drover) (t : Word) : (d.jump t).trap = d.trap := rfl
@[simp] theorem Drover.jump_held (d : Drover) (t : Word) : (d.jump t).held = d.held := rfl
@[simp] theorem Drover.jump_blockedAt (d : Drover) (t : Word) : (d.jump t).blockedAt = d.blockedAt := rfl
@[simp] theorem Drover.jump_mapNow (d : Drover) (t : Word) : (d.jump t).mapNow = d.mapNow := rfl
@[simp] theorem Drover.jump_clk (d : Drover) (t : Word) : (d.jump t).clk = d.clk := rfl
@[simp] theorem Drover.writeX_steward (d : Drover) (r : BitVec 5) (v : Word) : (d.writeX r v).steward = d.steward := rfl
@[simp] theorem Drover.writeX_exp (d : Drover) (r : BitVec 5) (v : Word) : (d.writeX r v).exp = d.exp := rfl
@[simp] theorem Drover.writeX_core (d : Drover) (r : BitVec 5) (v : Word) : (d.writeX r v).core = d.core := rfl
@[simp] theorem Drover.writeX_run (d : Drover) (r : BitVec 5) (v : Word) : (d.writeX r v).run = d.run := rfl
@[simp] theorem Drover.writeX_ctl (d : Drover) (r : BitVec 5) (v : Word) : (d.writeX r v).ctl = d.ctl := rfl
@[simp] theorem Drover.writeX_stew (d : Drover) (r : BitVec 5) (v : Word) : (d.writeX r v).stew = d.stew := rfl
@[simp] theorem Drover.writeX_queues (d : Drover) (r : BitVec 5) (v : Word) : (d.writeX r v).queues = d.queues := rfl
@[simp] theorem Drover.writeX_mem (d : Drover) (r : BitVec 5) (v : Word) : (d.writeX r v).mem = d.mem := rfl
@[simp] theorem Drover.writeX_members (d : Drover) (r : BitVec 5) (v : Word) : (d.writeX r v).members = d.members := rfl
@[simp] theorem Drover.writeX_hold (d : Drover) (r : BitVec 5) (v : Word) : (d.writeX r v).hold = d.hold := rfl
@[simp] theorem Drover.writeX_async (d : Drover) (r : BitVec 5) (v : Word) : (d.writeX r v).async = d.async := rfl
@[simp] theorem Drover.writeX_trap (d : Drover) (r : BitVec 5) (v : Word) : (d.writeX r v).trap = d.trap := rfl
@[simp] theorem Drover.writeX_held (d : Drover) (r : BitVec 5) (v : Word) : (d.writeX r v).held = d.held := rfl
@[simp] theorem Drover.writeX_blockedAt (d : Drover) (r : BitVec 5) (v : Word) : (d.writeX r v).blockedAt = d.blockedAt := rfl
@[simp] theorem Drover.writeX_mapNow (d : Drover) (r : BitVec 5) (v : Word) : (d.writeX r v).mapNow = d.mapNow := rfl
@[simp] theorem Drover.writeX_clk (d : Drover) (r : BitVec 5) (v : Word) : (d.writeX r v).clk = d.clk := rfl
@[simp] theorem Drover.completeX_steward (d : Drover) (r : Nat) (v : Word) : (d.completeX r v).steward = d.steward := rfl
@[simp] theorem Drover.completeX_exp (d : Drover) (r : Nat) (v : Word) : (d.completeX r v).exp = d.exp := rfl
@[simp] theorem Drover.completeX_core (d : Drover) (r : Nat) (v : Word) : (d.completeX r v).core = d.core := rfl
@[simp] theorem Drover.completeX_run (d : Drover) (r : Nat) (v : Word) : (d.completeX r v).run = d.run := rfl
@[simp] theorem Drover.completeX_ctl (d : Drover) (r : Nat) (v : Word) : (d.completeX r v).ctl = d.ctl := rfl
@[simp] theorem Drover.completeX_stew (d : Drover) (r : Nat) (v : Word) : (d.completeX r v).stew = d.stew := rfl
@[simp] theorem Drover.completeX_queues (d : Drover) (r : Nat) (v : Word) : (d.completeX r v).queues = d.queues := rfl
@[simp] theorem Drover.completeX_mem (d : Drover) (r : Nat) (v : Word) : (d.completeX r v).mem = d.mem := rfl
@[simp] theorem Drover.completeX_members (d : Drover) (r : Nat) (v : Word) : (d.completeX r v).members = d.members := rfl
@[simp] theorem Drover.completeX_hold (d : Drover) (r : Nat) (v : Word) : (d.completeX r v).hold = d.hold := rfl
@[simp] theorem Drover.completeX_async (d : Drover) (r : Nat) (v : Word) : (d.completeX r v).async = d.async := rfl
@[simp] theorem Drover.completeX_trap (d : Drover) (r : Nat) (v : Word) : (d.completeX r v).trap = d.trap := rfl
@[simp] theorem Drover.completeX_held (d : Drover) (r : Nat) (v : Word) : (d.completeX r v).held = d.held := rfl
@[simp] theorem Drover.completeX_blockedAt (d : Drover) (r : Nat) (v : Word) : (d.completeX r v).blockedAt = d.blockedAt := rfl
@[simp] theorem Drover.completeX_mapNow (d : Drover) (r : Nat) (v : Word) : (d.completeX r v).mapNow = d.mapNow := rfl
@[simp] theorem Drover.completeX_clk (d : Drover) (r : Nat) (v : Word) : (d.completeX r v).clk = d.clk := rfl
@[simp] theorem Drover.completeLate_steward (d : Drover) (r : Nat) (l : LateErr) : (d.completeLate r l).steward = d.steward := rfl
@[simp] theorem Drover.completeLate_exp (d : Drover) (r : Nat) (l : LateErr) : (d.completeLate r l).exp = d.exp := rfl
@[simp] theorem Drover.completeLate_core (d : Drover) (r : Nat) (l : LateErr) : (d.completeLate r l).core = d.core := rfl
@[simp] theorem Drover.completeLate_run (d : Drover) (r : Nat) (l : LateErr) : (d.completeLate r l).run = d.run := rfl
@[simp] theorem Drover.completeLate_regs (d : Drover) (r : Nat) (l : LateErr) : (d.completeLate r l).regs = d.regs := rfl
@[simp] theorem Drover.completeLate_ctl (d : Drover) (r : Nat) (l : LateErr) : (d.completeLate r l).ctl = d.ctl := rfl
@[simp] theorem Drover.completeLate_stew (d : Drover) (r : Nat) (l : LateErr) : (d.completeLate r l).stew = d.stew := rfl
@[simp] theorem Drover.completeLate_queues (d : Drover) (r : Nat) (l : LateErr) : (d.completeLate r l).queues = d.queues := rfl
@[simp] theorem Drover.completeLate_mem (d : Drover) (r : Nat) (l : LateErr) : (d.completeLate r l).mem = d.mem := rfl
@[simp] theorem Drover.completeLate_members (d : Drover) (r : Nat) (l : LateErr) : (d.completeLate r l).members = d.members := rfl
@[simp] theorem Drover.completeLate_hold (d : Drover) (r : Nat) (l : LateErr) : (d.completeLate r l).hold = d.hold := rfl
@[simp] theorem Drover.completeLate_async (d : Drover) (r : Nat) (l : LateErr) : (d.completeLate r l).async = d.async := rfl
@[simp] theorem Drover.completeLate_trap (d : Drover) (r : Nat) (l : LateErr) : (d.completeLate r l).trap = d.trap := rfl
@[simp] theorem Drover.completeLate_held (d : Drover) (r : Nat) (l : LateErr) : (d.completeLate r l).held = d.held := rfl
@[simp] theorem Drover.completeLate_blockedAt (d : Drover) (r : Nat) (l : LateErr) : (d.completeLate r l).blockedAt = d.blockedAt := rfl
@[simp] theorem Drover.completeLate_mapNow (d : Drover) (r : Nat) (l : LateErr) : (d.completeLate r l).mapNow = d.mapNow := rfl
@[simp] theorem Drover.completeLate_clk (d : Drover) (r : Nat) (l : LateErr) : (d.completeLate r l).clk = d.clk := rfl
@[simp] theorem Drover.tick_steward (d : Drover) (u : Nat) : (d.tick u).steward = d.steward := rfl
@[simp] theorem Drover.tick_exp (d : Drover) (u : Nat) : (d.tick u).exp = d.exp := rfl
@[simp] theorem Drover.tick_core (d : Drover) (u : Nat) : (d.tick u).core = d.core := rfl
@[simp] theorem Drover.tick_run (d : Drover) (u : Nat) : (d.tick u).run = d.run := rfl
@[simp] theorem Drover.tick_regs (d : Drover) (u : Nat) : (d.tick u).regs = d.regs := rfl
@[simp] theorem Drover.tick_ctl (d : Drover) (u : Nat) : (d.tick u).ctl = d.ctl := rfl
@[simp] theorem Drover.tick_stew (d : Drover) (u : Nat) : (d.tick u).stew = d.stew := rfl
@[simp] theorem Drover.tick_board (d : Drover) (u : Nat) : (d.tick u).board = d.board := rfl
@[simp] theorem Drover.tick_queues (d : Drover) (u : Nat) : (d.tick u).queues = d.queues := rfl
@[simp] theorem Drover.tick_mem (d : Drover) (u : Nat) : (d.tick u).mem = d.mem := rfl
@[simp] theorem Drover.tick_members (d : Drover) (u : Nat) : (d.tick u).members = d.members := rfl
@[simp] theorem Drover.tick_hold (d : Drover) (u : Nat) : (d.tick u).hold = d.hold := rfl
@[simp] theorem Drover.tick_async (d : Drover) (u : Nat) : (d.tick u).async = d.async := rfl
@[simp] theorem Drover.tick_trap (d : Drover) (u : Nat) : (d.tick u).trap = d.trap := rfl
@[simp] theorem Drover.tick_held (d : Drover) (u : Nat) : (d.tick u).held = d.held := rfl
@[simp] theorem Drover.tick_blockedAt (d : Drover) (u : Nat) : (d.tick u).blockedAt = d.blockedAt := rfl
@[simp] theorem Drover.tick_mapNow (d : Drover) (u : Nat) : (d.tick u).mapNow = d.mapNow := rfl
@[simp] theorem Drover.acquire_steward (d : Drover) (u : Nat) (k : SMap Nat) : (d.acquire u k).steward = d.steward := rfl
@[simp] theorem Drover.acquire_exp (d : Drover) (u : Nat) (k : SMap Nat) : (d.acquire u k).exp = d.exp := rfl
@[simp] theorem Drover.acquire_core (d : Drover) (u : Nat) (k : SMap Nat) : (d.acquire u k).core = d.core := rfl
@[simp] theorem Drover.acquire_run (d : Drover) (u : Nat) (k : SMap Nat) : (d.acquire u k).run = d.run := rfl
@[simp] theorem Drover.acquire_regs (d : Drover) (u : Nat) (k : SMap Nat) : (d.acquire u k).regs = d.regs := rfl
@[simp] theorem Drover.acquire_ctl (d : Drover) (u : Nat) (k : SMap Nat) : (d.acquire u k).ctl = d.ctl := rfl
@[simp] theorem Drover.acquire_stew (d : Drover) (u : Nat) (k : SMap Nat) : (d.acquire u k).stew = d.stew := rfl
@[simp] theorem Drover.acquire_board (d : Drover) (u : Nat) (k : SMap Nat) : (d.acquire u k).board = d.board := rfl
@[simp] theorem Drover.acquire_queues (d : Drover) (u : Nat) (k : SMap Nat) : (d.acquire u k).queues = d.queues := rfl
@[simp] theorem Drover.acquire_members (d : Drover) (u : Nat) (k : SMap Nat) : (d.acquire u k).members = d.members := rfl
@[simp] theorem Drover.acquire_hold (d : Drover) (u : Nat) (k : SMap Nat) : (d.acquire u k).hold = d.hold := rfl
@[simp] theorem Drover.acquire_async (d : Drover) (u : Nat) (k : SMap Nat) : (d.acquire u k).async = d.async := rfl
@[simp] theorem Drover.acquire_trap (d : Drover) (u : Nat) (k : SMap Nat) : (d.acquire u k).trap = d.trap := rfl
@[simp] theorem Drover.acquire_held (d : Drover) (u : Nat) (k : SMap Nat) : (d.acquire u k).held = d.held := rfl
@[simp] theorem Drover.acquire_blockedAt (d : Drover) (u : Nat) (k : SMap Nat) : (d.acquire u k).blockedAt = d.blockedAt := rfl
@[simp] theorem Drover.acquire_mapNow (d : Drover) (u : Nat) (k : SMap Nat) : (d.acquire u k).mapNow = d.mapNow := rfl
@[simp] theorem Drover.post_steward (d : Drover) (a : Access) : (d.post a).steward = d.steward := rfl
@[simp] theorem Drover.post_exp (d : Drover) (a : Access) : (d.post a).exp = d.exp := rfl
@[simp] theorem Drover.post_core (d : Drover) (a : Access) : (d.post a).core = d.core := rfl
@[simp] theorem Drover.post_run (d : Drover) (a : Access) : (d.post a).run = d.run := rfl
@[simp] theorem Drover.post_regs (d : Drover) (a : Access) : (d.post a).regs = d.regs := rfl
@[simp] theorem Drover.post_ctl (d : Drover) (a : Access) : (d.post a).ctl = d.ctl := rfl
@[simp] theorem Drover.post_stew (d : Drover) (a : Access) : (d.post a).stew = d.stew := rfl
@[simp] theorem Drover.post_board (d : Drover) (a : Access) : (d.post a).board = d.board := rfl
@[simp] theorem Drover.post_queues (d : Drover) (a : Access) : (d.post a).queues = d.queues := rfl
@[simp] theorem Drover.post_members (d : Drover) (a : Access) : (d.post a).members = d.members := rfl
@[simp] theorem Drover.post_hold (d : Drover) (a : Access) : (d.post a).hold = d.hold := rfl
@[simp] theorem Drover.post_async (d : Drover) (a : Access) : (d.post a).async = d.async := rfl
@[simp] theorem Drover.post_trap (d : Drover) (a : Access) : (d.post a).trap = d.trap := rfl
@[simp] theorem Drover.post_held (d : Drover) (a : Access) : (d.post a).held = d.held := rfl
@[simp] theorem Drover.post_blockedAt (d : Drover) (a : Access) : (d.post a).blockedAt = d.blockedAt := rfl
@[simp] theorem Drover.post_mapNow (d : Drover) (a : Access) : (d.post a).mapNow = d.mapNow := rfl
@[simp] theorem Drover.post_clk (d : Drover) (a : Access) : (d.post a).clk = d.clk := rfl
@[simp] theorem Drover.orFlags_steward (d : Drover) (fl : BitVec 7) : (d.orFlags fl).steward = d.steward := rfl
@[simp] theorem Drover.orFlags_exp (d : Drover) (fl : BitVec 7) : (d.orFlags fl).exp = d.exp := rfl
@[simp] theorem Drover.orFlags_core (d : Drover) (fl : BitVec 7) : (d.orFlags fl).core = d.core := rfl
@[simp] theorem Drover.orFlags_run (d : Drover) (fl : BitVec 7) : (d.orFlags fl).run = d.run := rfl
@[simp] theorem Drover.orFlags_regs (d : Drover) (fl : BitVec 7) : (d.orFlags fl).regs = d.regs := rfl
@[simp] theorem Drover.orFlags_stew (d : Drover) (fl : BitVec 7) : (d.orFlags fl).stew = d.stew := rfl
@[simp] theorem Drover.orFlags_board (d : Drover) (fl : BitVec 7) : (d.orFlags fl).board = d.board := rfl
@[simp] theorem Drover.orFlags_queues (d : Drover) (fl : BitVec 7) : (d.orFlags fl).queues = d.queues := rfl
@[simp] theorem Drover.orFlags_mem (d : Drover) (fl : BitVec 7) : (d.orFlags fl).mem = d.mem := rfl
@[simp] theorem Drover.orFlags_members (d : Drover) (fl : BitVec 7) : (d.orFlags fl).members = d.members := rfl
@[simp] theorem Drover.orFlags_hold (d : Drover) (fl : BitVec 7) : (d.orFlags fl).hold = d.hold := rfl
@[simp] theorem Drover.orFlags_async (d : Drover) (fl : BitVec 7) : (d.orFlags fl).async = d.async := rfl
@[simp] theorem Drover.orFlags_trap (d : Drover) (fl : BitVec 7) : (d.orFlags fl).trap = d.trap := rfl
@[simp] theorem Drover.orFlags_held (d : Drover) (fl : BitVec 7) : (d.orFlags fl).held = d.held := rfl
@[simp] theorem Drover.orFlags_blockedAt (d : Drover) (fl : BitVec 7) : (d.orFlags fl).blockedAt = d.blockedAt := rfl
@[simp] theorem Drover.orFlags_mapNow (d : Drover) (fl : BitVec 7) : (d.orFlags fl).mapNow = d.mapNow := rfl
@[simp] theorem Drover.orFlags_clk (d : Drover) (fl : BitVec 7) : (d.orFlags fl).clk = d.clk := rfl
@[simp] theorem Drover.retire_x (d : Drover) (n : Nat) : (d.retire n).regs.x = d.regs.x := rfl
@[simp] theorem Drover.retire_p (d : Drover) (n : Nat) : (d.retire n).regs.p = d.regs.p := rfl
@[simp] theorem Drover.retire_d (d : Drover) (n : Nat) : (d.retire n).regs.d = d.regs.d := rfl
@[simp] theorem Drover.retire_pc (d : Drover) (n : Nat) : (d.retire n).regs.pc = d.regs.pc + BitVec.ofNat 64 n := rfl
@[simp] theorem Drover.retire_fflags (d : Drover) (n : Nat) : (d.retire n).ctl.fflags = d.ctl.fflags := rfl
@[simp] theorem Drover.retire_qpeer (d : Drover) (n : Nat) : (d.retire n).ctl.qpeer = d.ctl.qpeer := rfl
@[simp] theorem Drover.retire_yieldth (d : Drover) (n : Nat) : (d.retire n).ctl.yieldth = d.ctl.yieldth := rfl
@[simp] theorem Drover.retire_arm (d : Drover) (n : Nat) : (d.retire n).ctl.arm = d.ctl.arm := rfl
@[simp] theorem Drover.retire_ovr (d : Drover) (n : Nat) : (d.retire n).ctl.ovr = d.ctl.ovr := rfl
@[simp] theorem Drover.retire_govhold (d : Drover) (n : Nat) : (d.retire n).ctl.govhold = d.ctl.govhold := rfl
@[simp] theorem Drover.retire_instret (d : Drover) (n : Nat) : (d.retire n).ctl.instret = d.ctl.instret + 1 := rfl
@[simp] theorem Drover.jump_pc (d : Drover) (t : Word) : (d.jump t).regs.pc = t := rfl
@[simp] theorem Drover.jump_x (d : Drover) (t : Word) : (d.jump t).regs.x = d.regs.x := rfl
@[simp] theorem Drover.jump_p (d : Drover) (t : Word) : (d.jump t).regs.p = d.regs.p := rfl
@[simp] theorem Drover.jump_d (d : Drover) (t : Word) : (d.jump t).regs.d = d.regs.d := rfl
@[simp] theorem Drover.writeX_regs (d : Drover) (r : BitVec 5) (v : Word) : (d.writeX r v).regs = d.regs.setX r v := rfl
@[simp] theorem Drover.acquire_accs (d : Drover) (u : Nat) (k : SMap Nat) :
    (d.acquire u k).mem.accs = d.mem.accs.map fun a => { a with line := none } := rfl
@[simp] theorem Drover.acquire_tlb (d : Drover) (u : Nat) (k : SMap Nat) : (d.acquire u k).mem.tlb = d.mem.tlb := rfl
@[simp] theorem Drover.orFlags_ctl (d : Drover) (fl : BitVec 7) :
    (d.orFlags fl).ctl = { d.ctl with fflags := Machine.orFlags d.ctl.fflags fl } := rfl
@[simp] theorem Drover.takeTrap_trap (d : Drover) (t : TrapReq) : (d.takeTrap t).trap = some t := rfl
@[simp] theorem Drover.takeTrap_hold (d : Drover) (t : TrapReq) : (d.takeTrap t).hold = .idle := rfl

end Sys2Proof.Machine
end

