-- ==== Sys2Proof/Laws/Ops.lean ====
section
/-!
SUPPORT. What each shared operation can do, said once: registers and predicates, reading sources, results, logging,
committing an instruction, and the outcomes of `issues`, `drives`, `commands` and `eventStep`.
-/

namespace Sys2Proof.Machine

/-! ## Drovers of a chip -/

@[simp] theorem Chip.setDrover_drover? (c : Chip) (u : Nat) (d : Drover) (v : Nat) :
    (c.setDrover u d).drover? v = if v = u then some d else c.drover? v := look_put ..

theorem Chip.drover?_congr {c c' : Chip} (h : c'.drovers = c.drovers) (u : Nat) : c'.drover? u = c.drover? u := by
  simp [Chip.drover?, h]

/-! ## Registers (R8) -/

@[simp] theorem Regs.getX_zero (r : Regs) : r.getX 0 = 0 := by simp [Regs.getX]

theorem Regs.getX_setX (r : Regs) (n m : BitVec 5) (v : Word) :
    (r.setX n v).getX m = if m = n ∧ m ≠ 0 then v else r.getX m := by
  unfold Regs.setX Regs.getX
  by_cases hm : m = 0
  · rw [if_pos hm, if_pos hm, if_neg (fun h => h.2 hm)]
  · rw [if_neg hm, if_neg hm]
    by_cases hn : n = 0
    · rw [if_pos hn, if_neg (fun h => hm (h.1.trans hn))]
    · rw [if_neg hn]
      by_cases h : m = n
      · subst h; rw [if_pos ⟨rfl, hm⟩]; exact Vector.getElem_set_self _
      · have k : n.toNat ≠ m.toNat := fun e => h (BitVec.eq_of_toNat_eq e.symm)
        rw [if_neg (fun e => h e.1)]; exact Vector.getElem_set_ne (by omega) _ k

@[simp] theorem Regs.setX_p (r : Regs) (n : BitVec 5) (v : Word) : (r.setX n v).p = r.p := by
  unfold Regs.setX; split <;> rfl

@[simp] theorem Regs.setX_d (r : Regs) (n : BitVec 5) (v : Word) : (r.setX n v).d = r.d := by
  unfold Regs.setX; split <;> rfl

@[simp] theorem Regs.setX_pc (r : Regs) (n : BitVec 5) (v : Word) : (r.setX n v).pc = r.pc := by
  unfold Regs.setX; split <;> rfl

theorem getLsbD_setBitP (p : BitVec 8) (n m : Fin 8) (b : Bool) :
    (setBitP p n.val b).getLsbD m.val = if m = n then b else p.getLsbD m.val := by
  revert n m; cases b <;> simp only [setBitP] <;> intro n m
  · fin_cases n <;> fin_cases m <;> simp
  · fin_cases n <;> fin_cases m <;> simp

theorem Regs.getP_setP (r : Regs) (n m : BitVec 3) (b : Bool) :
    (r.setP n b).getP m = if m = n ∧ m ≠ 7 then b else r.getP m := by
  unfold Regs.setP Regs.getP
  by_cases hm : m = 7
  · rw [if_pos hm, if_pos hm, if_neg (fun h => h.2 hm)]
  · rw [if_neg hm, if_neg hm]
    by_cases hn : n = 7
    · rw [if_pos hn, if_neg (fun h => hm (h.1.trans hn))]
    · rw [if_neg hn]
      have h := getLsbD_setBitP r.p ⟨n.toNat, by omega⟩ ⟨m.toNat, by omega⟩ b
      have e : (m.toNat = n.toNat) ↔ m = n := ⟨BitVec.eq_of_toNat_eq, fun h => h ▸ rfl⟩
      simp only [Fin.mk.injEq, e] at h
      by_cases k : m = n
      · rw [if_pos k] at h; rw [if_pos ⟨k, hm⟩]; exact h
      · rw [if_neg k] at h; rw [if_neg (fun e => k e.1)]; exact h

@[simp] theorem Regs.setP_x (r : Regs) (n : BitVec 3) (b : Bool) : (r.setP n b).x = r.x := by
  unfold Regs.setP; split <;> rfl

@[simp] theorem Regs.setP_d (r : Regs) (n : BitVec 3) (b : Bool) : (r.setP n b).d = r.d := by
  unfold Regs.setP; split <;> rfl

@[simp] theorem Regs.setP_pc (r : Regs) (n : BitVec 3) (b : Bool) : (r.setP n b).pc = r.pc := by
  unfold Regs.setP; split <;> rfl

theorem Regs.getX_of_x {r r' : Regs} (h : r'.x = r.x) (n : BitVec 5) : r'.getX n = r.getX n := by
  simp [Regs.getX, h]

/-! ## Reading sources -/

/-- What reading sources keeps of a drover. -/
structure Drover.SameBut (d d' : Drover) : Prop where
  regs : d'.regs = d.regs
  ctl : d'.ctl = d.ctl
  stew : d'.stew = d.stew
  steward : d'.steward = d.steward
  outq : d'.queues.outq = d.queues.outq
  tlb : d'.mem.tlb = d.mem.tlb
  ready : d'.pushReady = d.pushReady
  nextSeq : d'.mem.nextSeq = d.mem.nextSeq
  pend : d'.board.pend = d.board.pend

theorem Drover.SameBut.rfl {d : Drover} : d.SameBut d := ⟨.refl _, .refl _, .refl _, .refl _, .refl _, .refl _, .refl _, .refl _, .refl _⟩

theorem Drover.SameBut.trans {a b c : Drover} (h : a.SameBut b) (k : b.SameBut c) : a.SameBut c :=
  ⟨k.regs.trans h.regs, k.ctl.trans h.ctl, k.stew.trans h.stew, k.steward.trans h.steward, k.outq.trans h.outq,
    k.tlb.trans h.tlb, k.ready.trans h.ready, k.nextSeq.trans h.nextSeq, k.pend.trans h.pend⟩

theorem Drover.acquire_sameBut (d : Drover) (u : Nat) (k : SMap Nat) : d.SameBut (d.acquire u k) :=
  ⟨.refl _, .refl _, .refl _, .refl _, .refl _, .refl _, by simp [Drover.pushReady, Function.comp_def, Access.performedAt], .refl _, .refl _⟩

/-- Reading a source changes no register, control register or outbound queue. -/
theorem Drover.readX_sameBut {d d' : Drover} {u : Nat} {r : BitVec 5} {v : Word} (h : d.readX u r = .ok (v, d')) :
    d.SameBut d' := by
  unfold Drover.readX at h
  split at h
  · split at h
    · cases h
    · split at h
      · cases h; exact .rfl
      · cases h
        exact (⟨.refl _, .refl _, .refl _, .refl _, .refl _, .refl _, .refl _, .refl _, .refl _⟩ :
          d.SameBut { d with board := { d.board with clk := del d.board.clk r.toNat } }).trans (acquire_sameBut ..)
  · split at h
    · split at h
      · cases h
      · cases h
        split
        · exact ⟨.refl _, .refl _, .refl _, .refl _, .refl _, .refl _, .refl _, .refl _, .refl _⟩
        · rename_i _ _ q _ _
          exact (⟨.refl _, .refl _, .refl _, .refl _, .refl _, .refl _, .refl _, .refl _, .refl _⟩ :
            d.SameBut { d with queues := { d.queues with mbx := q } }).trans (acquire_sameBut ..)
    · split at h
      · split at h
        · cases h
        · cases h; exact ⟨.refl _, .refl _, .refl _, .refl _, .refl _, .refl _, .refl _, .refl _, .refl _⟩
      · split at h
        · split at h
          · cases h
          · rename_i e q _; cases h
            exact (⟨.refl _, .refl _, .refl _, .refl _, .refl _, .refl _, .refl _, .refl _, .refl _⟩ :
              d.SameBut { d with queues := { d.queues with inq := q } }).trans (acquire_sameBut ..)
        · cases h

theorem Res.bind_eq_ok {α β : Type} {r : Res α} {f : α → Res β} {b : β} (h : r.bind f = .ok b) :
    ∃ a, r = .ok a ∧ f a = .ok b := by
  cases r <;> simp [Res.bind] at h
  exact ⟨_, rfl, h⟩

@[simp] theorem Res.ok_bind {α β : Type} (a : α) (f : α → Res β) : (Res.ok a).bind f = f a := rfl
@[simp] theorem unlessStall_none {α : Type} (k : Res α) : unlessStall none k = k := rfl

/-- Where an instruction goes on, none of its sources had a late error. -/
theorem Drover.unlessLate_eq_ok {α : Type} {d : Drover} {rs : List (BitVec 5)} {k : Res α} {b : α}
    (h : d.unlessLate rs k = .ok b) : k = .ok b := by
  unfold Drover.unlessLate at h
  split at h
  · cases h
  · exact h

theorem Drover.read2_sameBut {d d' : Drover} {u : Nat} {a b : BitVec 5} {x y : Word}
    (h : d.read2 u a b = .ok (x, y, d')) : d.SameBut d' := by
  obtain ⟨⟨x1, d1⟩, h1, h⟩ := Res.bind_eq_ok (Drover.unlessLate_eq_ok h)
  obtain ⟨⟨y1, d2⟩, h2, h⟩ := Res.bind_eq_ok h
  cases h
  exact (readX_sameBut h1).trans (readX_sameBut h2)

/-! ## The fault log -/

/-- What writing the fault log leaves alone. -/
structure Chip.Logged (c c' : Chip) : Prop where
  drovers : c'.drovers = c.drovers
  serais : c'.serais = c.serais
  binds : c'.binds = c.binds
  sched : c'.sched = c.sched
  xde : c'.xde = c.xde
  links : c'.links = c.links
  mgmt : c'.mgmt = c.mgmt
  health : c'.health = c.health
  ports : c'.ports = c.ports
  tags : c'.homes.tags = c.homes.tags

theorem Chip.Logged.rfl {c : Chip} : c.Logged c := ⟨.refl _, .refl _, .refl _, .refl _, .refl _, .refl _, .refl _, .refl _, .refl _, .refl _⟩

theorem Chip.Logged.trans {a b c : Chip} (h : a.Logged b) (k : b.Logged c) : a.Logged c :=
  ⟨k.drovers.trans h.drovers, k.serais.trans h.serais, k.binds.trans h.binds, k.sched.trans h.sched, k.xde.trans h.xde,
    k.links.trans h.links, k.mgmt.trans h.mgmt, k.health.trans h.health, k.ports.trans h.ports, k.tags.trans h.tags⟩

theorem Chip.logFault_logged (c : Chip) (die e : Nat) (l : LogEntry) : c.Logged (c.logFault die e l) := by
  unfold Chip.logFault
  cases c.exp? e <;> simp only
  · exact .rfl
  · split <;> exact ⟨.refl _, .refl _, .refl _, .refl _, .refl _, .refl _, .refl _, .refl _, .refl _, .refl _⟩

theorem Chip.logLate_logged (c : Chip) (u : Nat) (d : Drover) (l : LateErr) : c.Logged (c.logLate u d l) :=
  c.logFault_logged ..

theorem Chip.foldl_logLate_logged (u : Nat) (d : Drover) (l : List LateErr) (c : Chip) :
    c.Logged (l.foldl (fun c l => c.logLate u d l) c) := by
  induction l generalizing c with
  | nil => exact .rfl
  | cons a l ih => exact (c.logLate_logged u d a).trans (ih _)

/-! ## Committing and issuing -/

theorem State.commit_logged (s : State) (old new : Drover) :
    (s.chip.setDrover s.focus new).Logged (s.commit old new).chip :=
  Chip.foldl_logLate_logged ..

@[simp] theorem State.commit_cycle (s : State) (old new : Drover) : (s.commit old new).cycle = s.cycle := rfl
@[simp] theorem State.commit_agenda (s : State) (old new : Drover) : (s.commit old new).agenda = s.agenda := rfl
@[simp] theorem State.commit_focus (s : State) (old new : Drover) : (s.commit old new).focus = s.focus := rfl

theorem State.commit_drover? (s : State) (old new : Drover) (u : Nat) :
    (s.commit old new).chip.drover? u = if u = s.focus then some new else s.chip.drover? u := by
  rw [Chip.drover?_congr (s.commit_logged old new).drovers, Chip.setDrover_drover?]

@[simp] theorem State.commit_cur? (s : State) (old new : Drover) : (s.commit old new).cur? = some new := by
  simp [State.cur?, State.commit_drover?]

theorem State.issues_ok {s : State} {i : Instr} {n : Nat} {f : Drover → Res Drover} {d d' : Drover}
    (hc : s.cur? = some d) (h : f d = .ok d') : s.issues i n f = .next (s.commit d (d'.retire n)) := by
  simp [State.issues, hc, h]

theorem State.drives_ok {s : State} {i : Instr} {f : Drover → Res (Chip × Drover)} {d d' : Drover} {c : Chip}
    (hc : s.cur? = some d) (h : f d = .ok (c, d')) :
    s.drives i f = .next ({ s with chip := c }.commit d (d'.retire (Instr.bytes i))) := by
  simp [State.drives, hc, h]

theorem State.issues_trap {s : State} {i : Instr} {n : Nat} {f : Drover → Res Drover} {d d' : Drover} {t : TrapReq}
    (hc : s.cur? = some d) (h : f d = .trap t d') : s.issues i n f = .next (s.takeTrap (withWords i t) d') := by
  simp [State.issues, hc, h]

/-- Whatever it answers, an instruction that changes its drover alone goes on, and leaves cycle, agenda and focus. -/
theorem State.issues_cases (s : State) (i : Instr) (n : Nat) (f : Drover → Res Drover) :
    ∃ t, s.issues i n f = .next t ∧ t.cycle = s.cycle ∧ t.agenda = s.agenda ∧ t.focus = s.focus := by
  unfold State.issues
  split
  · exact ⟨_, rfl, rfl, rfl, rfl⟩
  · split <;> exact ⟨_, rfl, rfl, rfl, rfl⟩

theorem State.drives_cases (s : State) (i : Instr) (f : Drover → Res (Chip × Drover)) :
    ∃ t, s.drives i f = .next t ∧ t.cycle = s.cycle ∧ t.agenda = s.agenda ∧ t.focus = s.focus := by
  unfold State.drives
  split
  · exact ⟨_, rfl, rfl, rfl, rfl⟩
  · split <;> exact ⟨_, rfl, rfl, rfl, rfl⟩

theorem State.commands_cases (s : State) (i : Instr) (f : Nat → Drover → Res (Chip × Drover)) :
    s.commands i f = .refused .noEngine ∨
      ∃ t, s.commands i f = .next t ∧ t.cycle = s.cycle ∧ t.agenda = s.agenda ∧ t.focus = s.focus := by
  unfold State.commands
  split
  · exact .inr ⟨_, rfl, rfl, rfl, rfl⟩
  · split
    · exact .inl rfl
    · split
      · exact .inr ⟨_, rfl, rfl, rfl, rfl⟩
      · exact .inr (s.drives_cases i _)

theorem State.eventStep_cases (s : State) (f : Chip → Nat → Chip) :
    ∃ t, s.eventStep f = .next t ∧ t.cycle = s.cycle ∧ t.agenda = s.agenda ∧ t.focus = s.focus :=
  ⟨_, rfl, rfl, rfl, rfl⟩

/-! ## Results -/

theorem Drover.pushReady_tick (d : Drover) (u : Nat) : (d.tick u).pushReady = d.pushReady := rfl

/-- A result for x0 to x27. -/
theorem State.result_reg {s : State} {d : Drover} {r : BitVec 5} (v : Word) (h : r.toNat < 28) :
    s.result d r v = .ok (d.writeX r v) := by
  unfold State.result; rw [if_neg (by omega)]

/-! ## Taking a trap (R321, R322) -/

@[simp] theorem State.takeTrap_cycle (s : State) (t : TrapReq) (d : Drover) : (s.takeTrap t d).cycle = s.cycle := rfl
@[simp] theorem State.takeTrap_agenda (s : State) (t : TrapReq) (d : Drover) : (s.takeTrap t d).agenda = s.agenda := rfl
@[simp] theorem State.takeTrap_focus (s : State) (t : TrapReq) (d : Drover) : (s.takeTrap t d).focus = s.focus := rfl
@[simp] theorem State.takeTrap_homes (s : State) (t : TrapReq) (d : Drover) :
    (s.takeTrap t d).chip.homes = s.chip.homes := rfl

/-- A trap changes one drover, the one in focus. -/
theorem State.takeTrap_drover? (s : State) (t : TrapReq) (d : Drover) (u : Nat) :
    (s.takeTrap t d).chip.drover? u = if u = s.focus then some (d.takeTrap t) else s.chip.drover? u := by
  simp [State.takeTrap, State.onChip]

@[simp] theorem State.takeTrap_cur? (s : State) (t : TrapReq) (d : Drover) :
    (s.takeTrap t d).cur? = some (d.takeTrap t) := by
  simp [State.cur?, State.takeTrap_drover?]

@[simp] theorem withWords_cause (i : Instr) (t : TrapReq) : (withWords i t).cause = t.cause := by
  unfold withWords; split <;> rfl
@[simp] theorem withWords_pc (i : Instr) (t : TrapReq) : (withWords i t).pc = t.pc := by
  unfold withWords; split <;> rfl
@[simp] theorem withWords_val (i : Instr) (t : TrapReq) : (withWords i t).val = t.val := by
  unfold withWords; split <;> rfl

end Sys2Proof.Machine
end

