-- ==== Sys2Proof/Laws/PerInstr.lean ====
section
/-!
SUPPORT. For every instruction of the table that has an encoding, the decoder reads its encoded words as that instruction,
operand for operand (R68 to R76): one lemma per constructor. Events have no words, and an ILLEGAL-INSTRUCTION condition is
every word the decoder refuses.
-/

namespace Sys2Proof.Laws.RoundTrip

open Sys2Proof

-- one lemma at a time: in one text three hundred at once run out of memory
set_option Elab.async false

/-- The word, or the two words, of an instruction decode to it, and open as many words as it has. -/
def Statement (i : Instr) : Prop :=
  i.isEvent = true ∨ (∃ x, i = .illegalInstruction x) ∨
    match encode i with
    | [w] => twoWords w = false ∧ decodeRaw w 0 = .ok i
    | [w, w1] => twoWords w = true ∧ decodeRaw w w1 = .ok i
    | _ => False

theorem ofWord {i : Instr} {w : BitVec 32} (h : (fld w 26 6).toNat < 63) (e : encode i = [w]) (d : decodeRaw w 0 = .ok i) :
    Statement i := by
  refine .inr (.inr ?_)
  rw [e]
  refine ⟨?_, d⟩
  unfold twoWords
  simp; omega

theorem ofA {i : Instr} {op : Nat} {rd ra rb : BitVec 5} {s : BitVec 3} {o : BitVec 2} {ix : Nat} (h : op < 63) (k : ix < 64)
    (e : encode i = [packA op rd ra rb s o ix]) (d : decodeRaw (packA op rd ra rb s o ix) 0 = .ok i) : Statement i :=
  ofWord (by rw [packA_op _ _ _ _ _ _ _ (by omega) k]; exact h) e d

theorem ofI {i : Instr} {op : Nat} {rd ra : BitVec 5} {m : BitVec 16} (h : op < 63)
    (e : encode i = [packI op rd ra m]) (d : decodeRaw (packI op rd ra m) 0 = .ok i) : Statement i :=
  ofWord (by rw [packI_op _ _ _ _ (by omega)]; exact h) e d

theorem ofM {i : Instr} {op : Nat} {rd ra : BitVec 5} {z o : BitVec 2} {f : BitVec 12} (h : op < 63)
    (e : encode i = [packM op rd ra z o f]) (d : decodeRaw (packM op rd ra z o f) 0 = .ok i) : Statement i :=
  ofWord (by rw [packM_op _ _ _ _ _ _ (by omega)]; exact h) e d

theorem ofB {i : Instr} {op : Nat} {n : BitVec 1} {k : BitVec 3} {f : BitVec 22} (h : op < 63)
    (e : encode i = [packB op n k f]) (d : decodeRaw (packB op n k f) 0 = .ok i) : Statement i :=
  ofWord (by rw [packB_op _ _ _ _ (by omega)]; exact h) e d

theorem ofX {i : Instr} {rd ra rb : BitVec 5} {s : BitVec 3} {o : BitVec 2} {ix : Nat} {w1 : BitVec 32} (k : ix < 5)
    (e : encode i = [packA 63 rd ra rb s o ix, w1]) (d : decodeRaw (packA 63 rd ra rb s o ix) w1 = .ok i) :
    Statement i := by
  refine .inr (.inr ?_)
  rw [e]
  refine ⟨?_, d⟩
  unfold twoWords
  rw [packA_op _ _ _ _ _ _ _ (by decide) (by omega)]
  rfl

/-! Small fields widened and read back. -/

theorem bit2_lt (w : BitVec 1) : (w.setWidth 2).toNat < 2 := by revert w; decide
theorem bit3_lt (w : BitVec 1) : (w.setWidth 3).toNat < 2 := by revert w; decide
theorem bit5_lt (w : BitVec 1) : (w.setWidth 5).toNat < 2 := by revert w; decide
theorem q5_lt (w : BitVec 2) : (w.setWidth 5).toNat < 4 := by revert w; decide
theorem p5_lt (w : BitVec 3) : (w.setWidth 5).toNat < 8 := by revert w; decide
theorem r5_lt (w : BitVec 4) : (w.setWidth 5).toNat < 16 := by revert w; decide
theorem bit2_back (w : BitVec 1) : (w.setWidth 2).setWidth 1 = w := by revert w; decide
theorem bit3_back (w : BitVec 1) : (w.setWidth 3).setWidth 1 = w := by revert w; decide
theorem bit5_back (w : BitVec 1) : (w.setWidth 5).setWidth 1 = w := by revert w; decide
theorem q5_back (w : BitVec 2) : (w.setWidth 5).setWidth 2 = w := by revert w; decide
theorem p5_back (w : BitVec 3) : (w.setWidth 5).setWidth 3 = w := by revert w; decide
theorem r5_back (w : BitVec 4) : (w.setWidth 5).setWidth 4 = w := by revert w; decide

/-! The decoder by major opcode. -/

theorem raw1 (w w1 : BitVec 32) (h : (fld w 26 6).toNat = 1) :
    decodeRaw w w1 = decodeAlu (fld w 0 6).toNat (fld w 21 5) (fld w 16 5) (fld w 11 5) (fld w 8 3) (fld w 6 2) := by
  unfold decodeRaw; rw [h]; rfl

theorem rawA1 (rd ra rb : BitVec 5) (s : BitVec 3) (o : BitVec 2) (ix : Nat) (k : ix < 64) :
    decodeRaw (packA 1 rd ra rb s o ix) 0 = decodeAlu ix rd ra rb s o := by
  have h : 1 < 64 := by decide
  rw [raw1 _ _ (packA_op _ _ _ _ _ _ _ h k), packA_rd _ _ _ _ _ _ _ h k, packA_ra _ _ _ _ _ _ _ h k,
    packA_rb _ _ _ _ _ _ _ h k, packA_s _ _ _ _ _ _ _ h k, packA_o _ _ _ _ _ _ _ h k, packA_ix _ _ _ _ _ _ _ h k]

theorem raw8 (w w1 : BitVec 32) (h : (fld w 26 6).toNat = 8) :
    decodeRaw w w1 = decodeCmp (fld w 0 6).toNat (fld w 21 5) (fld w 16 5) (fld w 11 5) (fld w 8 3) (fld w 6 2) := by
  unfold decodeRaw; rw [h]; rfl

theorem rawA8 (rd ra rb : BitVec 5) (s : BitVec 3) (o : BitVec 2) (ix : Nat) (k : ix < 64) :
    decodeRaw (packA 8 rd ra rb s o ix) 0 = decodeCmp ix rd ra rb s o := by
  have h : 8 < 64 := by decide
  rw [raw8 _ _ (packA_op _ _ _ _ _ _ _ h k), packA_rd _ _ _ _ _ _ _ h k, packA_ra _ _ _ _ _ _ _ h k,
    packA_rb _ _ _ _ _ _ _ h k, packA_s _ _ _ _ _ _ _ h k, packA_o _ _ _ _ _ _ _ h k, packA_ix _ _ _ _ _ _ _ h k]

theorem raw10 (w w1 : BitVec 32) (h : (fld w 26 6).toNat = 10) :
    decodeRaw w w1 = decodePred (fld w 0 6).toNat (fld w 21 5) (fld w 16 5) (fld w 11 5) (fld w 8 3) (fld w 6 2) := by
  unfold decodeRaw; rw [h]; rfl

theorem rawA10 (rd ra rb : BitVec 5) (s : BitVec 3) (o : BitVec 2) (ix : Nat) (k : ix < 64) :
    decodeRaw (packA 10 rd ra rb s o ix) 0 = decodePred ix rd ra rb s o := by
  have h : 10 < 64 := by decide
  rw [raw10 _ _ (packA_op _ _ _ _ _ _ _ h k), packA_rd _ _ _ _ _ _ _ h k, packA_ra _ _ _ _ _ _ _ h k,
    packA_rb _ _ _ _ _ _ _ h k, packA_s _ _ _ _ _ _ _ h k, packA_o _ _ _ _ _ _ _ h k, packA_ix _ _ _ _ _ _ _ h k]

theorem raw12 (w w1 : BitVec 32) (h : (fld w 26 6).toNat = 12) :
    decodeRaw w w1 = decodeFpu (fld w 0 6).toNat (fld w 21 5) (fld w 16 5) (fld w 11 5) (fld w 8 3) (fld w 6 2) := by
  unfold decodeRaw; rw [h]; rfl

theorem rawA12 (rd ra rb : BitVec 5) (s : BitVec 3) (o : BitVec 2) (ix : Nat) (k : ix < 64) :
    decodeRaw (packA 12 rd ra rb s o ix) 0 = decodeFpu ix rd ra rb s o := by
  have h : 12 < 64 := by decide
  rw [raw12 _ _ (packA_op _ _ _ _ _ _ _ h k), packA_rd _ _ _ _ _ _ _ h k, packA_ra _ _ _ _ _ _ _ h k,
    packA_rb _ _ _ _ _ _ _ h k, packA_s _ _ _ _ _ _ _ h k, packA_o _ _ _ _ _ _ _ h k, packA_ix _ _ _ _ _ _ _ h k]

theorem raw22 (w w1 : BitVec 32) (h : (fld w 26 6).toNat = 22) :
    decodeRaw w w1 = decodeDesc (fld w 0 6).toNat (fld w 21 5) (fld w 16 5) (fld w 11 5) (fld w 8 3) (fld w 6 2) := by
  unfold decodeRaw; rw [h]; rfl

theorem rawA22 (rd ra rb : BitVec 5) (s : BitVec 3) (o : BitVec 2) (ix : Nat) (k : ix < 64) :
    decodeRaw (packA 22 rd ra rb s o ix) 0 = decodeDesc ix rd ra rb s o := by
  have h : 22 < 64 := by decide
  rw [raw22 _ _ (packA_op _ _ _ _ _ _ _ h k), packA_rd _ _ _ _ _ _ _ h k, packA_ra _ _ _ _ _ _ _ h k,
    packA_rb _ _ _ _ _ _ _ h k, packA_s _ _ _ _ _ _ _ h k, packA_o _ _ _ _ _ _ _ h k, packA_ix _ _ _ _ _ _ _ h k]

theorem raw26 (w w1 : BitVec 32) (h : (fld w 26 6).toNat = 26) :
    decodeRaw w w1 = decodeJump (fld w 0 6).toNat (fld w 21 5) (fld w 16 5) (fld w 11 5) (fld w 8 3) (fld w 6 2) := by
  unfold decodeRaw; rw [h]; rfl

theorem rawA26 (rd ra rb : BitVec 5) (s : BitVec 3) (o : BitVec 2) (ix : Nat) (k : ix < 64) :
    decodeRaw (packA 26 rd ra rb s o ix) 0 = decodeJump ix rd ra rb s o := by
  have h : 26 < 64 := by decide
  rw [raw26 _ _ (packA_op _ _ _ _ _ _ _ h k), packA_rd _ _ _ _ _ _ _ h k, packA_ra _ _ _ _ _ _ _ h k,
    packA_rb _ _ _ _ _ _ _ h k, packA_s _ _ _ _ _ _ _ h k, packA_o _ _ _ _ _ _ _ h k, packA_ix _ _ _ _ _ _ _ h k]

theorem raw28 (w w1 : BitVec 32) (h : (fld w 26 6).toNat = 28) :
    decodeRaw w w1 = decodeSys (fld w 0 6).toNat (fld w 21 5) (fld w 16 5) (fld w 11 5) (fld w 8 3) (fld w 6 2) := by
  unfold decodeRaw; rw [h]; rfl

theorem rawA28 (rd ra rb : BitVec 5) (s : BitVec 3) (o : BitVec 2) (ix : Nat) (k : ix < 64) :
    decodeRaw (packA 28 rd ra rb s o ix) 0 = decodeSys ix rd ra rb s o := by
  have h : 28 < 64 := by decide
  rw [raw28 _ _ (packA_op _ _ _ _ _ _ _ h k), packA_rd _ _ _ _ _ _ _ h k, packA_ra _ _ _ _ _ _ _ h k,
    packA_rb _ _ _ _ _ _ _ h k, packA_s _ _ _ _ _ _ _ h k, packA_o _ _ _ _ _ _ _ h k, packA_ix _ _ _ _ _ _ _ h k]

theorem raw32 (w w1 : BitVec 32) (h : (fld w 26 6).toNat = 32) :
    decodeRaw w w1 = decodeAmo (fld w 0 6).toNat (fld w 21 5) (fld w 16 5) (fld w 11 5) (fld w 8 3) (fld w 6 2) := by
  unfold decodeRaw; rw [h]; rfl

theorem rawA32 (rd ra rb : BitVec 5) (s : BitVec 3) (o : BitVec 2) (ix : Nat) (k : ix < 64) :
    decodeRaw (packA 32 rd ra rb s o ix) 0 = decodeAmo ix rd ra rb s o := by
  have h : 32 < 64 := by decide
  rw [raw32 _ _ (packA_op _ _ _ _ _ _ _ h k), packA_rd _ _ _ _ _ _ _ h k, packA_ra _ _ _ _ _ _ _ h k,
    packA_rb _ _ _ _ _ _ _ h k, packA_s _ _ _ _ _ _ _ h k, packA_o _ _ _ _ _ _ _ h k, packA_ix _ _ _ _ _ _ _ h k]

theorem raw33 (w w1 : BitVec 32) (h : (fld w 26 6).toNat = 33) :
    decodeRaw w w1 = decodeRed (fld w 0 6).toNat (fld w 21 5) (fld w 16 5) (fld w 11 5) (fld w 8 3) (fld w 6 2) := by
  unfold decodeRaw; rw [h]; rfl

theorem rawA33 (rd ra rb : BitVec 5) (s : BitVec 3) (o : BitVec 2) (ix : Nat) (k : ix < 64) :
    decodeRaw (packA 33 rd ra rb s o ix) 0 = decodeRed ix rd ra rb s o := by
  have h : 33 < 64 := by decide
  rw [raw33 _ _ (packA_op _ _ _ _ _ _ _ h k), packA_rd _ _ _ _ _ _ _ h k, packA_ra _ _ _ _ _ _ _ h k,
    packA_rb _ _ _ _ _ _ _ h k, packA_s _ _ _ _ _ _ _ h k, packA_o _ _ _ _ _ _ _ h k, packA_ix _ _ _ _ _ _ _ h k]

theorem raw35 (w w1 : BitVec 32) (h : (fld w 26 6).toNat = 35) :
    decodeRaw w w1 = decodeSync (fld w 0 6).toNat (fld w 21 5) (fld w 16 5) (fld w 11 5) (fld w 8 3) (fld w 6 2) := by
  unfold decodeRaw; rw [h]; rfl

theorem rawA35 (rd ra rb : BitVec 5) (s : BitVec 3) (o : BitVec 2) (ix : Nat) (k : ix < 64) :
    decodeRaw (packA 35 rd ra rb s o ix) 0 = decodeSync ix rd ra rb s o := by
  have h : 35 < 64 := by decide
  rw [raw35 _ _ (packA_op _ _ _ _ _ _ _ h k), packA_rd _ _ _ _ _ _ _ h k, packA_ra _ _ _ _ _ _ _ h k,
    packA_rb _ _ _ _ _ _ _ h k, packA_s _ _ _ _ _ _ _ h k, packA_o _ _ _ _ _ _ _ h k, packA_ix _ _ _ _ _ _ _ h k]

theorem raw36 (w w1 : BitVec 32) (h : (fld w 26 6).toNat = 36) :
    decodeRaw w w1 = decodeQ (fld w 0 6).toNat (fld w 21 5) (fld w 16 5) (fld w 11 5) (fld w 8 3) (fld w 6 2) := by
  unfold decodeRaw; rw [h]; rfl

theorem rawA36 (rd ra rb : BitVec 5) (s : BitVec 3) (o : BitVec 2) (ix : Nat) (k : ix < 64) :
    decodeRaw (packA 36 rd ra rb s o ix) 0 = decodeQ ix rd ra rb s o := by
  have h : 36 < 64 := by decide
  rw [raw36 _ _ (packA_op _ _ _ _ _ _ _ h k), packA_rd _ _ _ _ _ _ _ h k, packA_ra _ _ _ _ _ _ _ h k,
    packA_rb _ _ _ _ _ _ _ h k, packA_s _ _ _ _ _ _ _ h k, packA_o _ _ _ _ _ _ _ h k, packA_ix _ _ _ _ _ _ _ h k]

theorem raw40 (w w1 : BitVec 32) (h : (fld w 26 6).toNat = 40) :
    decodeRaw w w1 = decodeStrm (fld w 0 6).toNat (fld w 21 5) (fld w 16 5) (fld w 11 5) (fld w 8 3) (fld w 6 2) := by
  unfold decodeRaw; rw [h]; rfl

theorem rawA40 (rd ra rb : BitVec 5) (s : BitVec 3) (o : BitVec 2) (ix : Nat) (k : ix < 64) :
    decodeRaw (packA 40 rd ra rb s o ix) 0 = decodeStrm ix rd ra rb s o := by
  have h : 40 < 64 := by decide
  rw [raw40 _ _ (packA_op _ _ _ _ _ _ _ h k), packA_rd _ _ _ _ _ _ _ h k, packA_ra _ _ _ _ _ _ _ h k,
    packA_rb _ _ _ _ _ _ _ h k, packA_s _ _ _ _ _ _ _ h k, packA_o _ _ _ _ _ _ _ h k, packA_ix _ _ _ _ _ _ _ h k]

theorem raw41 (w w1 : BitVec 32) (h : (fld w 26 6).toNat = 41) :
    decodeRaw w w1 = decodeCopy (fld w 0 6).toNat (fld w 21 5) (fld w 16 5) (fld w 11 5) (fld w 8 3) (fld w 6 2) := by
  unfold decodeRaw; rw [h]; rfl

theorem rawA41 (rd ra rb : BitVec 5) (s : BitVec 3) (o : BitVec 2) (ix : Nat) (k : ix < 64) :
    decodeRaw (packA 41 rd ra rb s o ix) 0 = decodeCopy ix rd ra rb s o := by
  have h : 41 < 64 := by decide
  rw [raw41 _ _ (packA_op _ _ _ _ _ _ _ h k), packA_rd _ _ _ _ _ _ _ h k, packA_ra _ _ _ _ _ _ _ h k,
    packA_rb _ _ _ _ _ _ _ h k, packA_s _ _ _ _ _ _ _ h k, packA_o _ _ _ _ _ _ _ h k, packA_ix _ _ _ _ _ _ _ h k]

theorem raw42 (w w1 : BitVec 32) (h : (fld w 26 6).toNat = 42) :
    decodeRaw w w1 = decodeWing (fld w 0 6).toNat (fld w 21 5) (fld w 16 5) (fld w 11 5) (fld w 8 3) (fld w 6 2) := by
  unfold decodeRaw; rw [h]; rfl

theorem rawA42 (rd ra rb : BitVec 5) (s : BitVec 3) (o : BitVec 2) (ix : Nat) (k : ix < 64) :
    decodeRaw (packA 42 rd ra rb s o ix) 0 = decodeWing ix rd ra rb s o := by
  have h : 42 < 64 := by decide
  rw [raw42 _ _ (packA_op _ _ _ _ _ _ _ h k), packA_rd _ _ _ _ _ _ _ h k, packA_ra _ _ _ _ _ _ _ h k,
    packA_rb _ _ _ _ _ _ _ h k, packA_s _ _ _ _ _ _ _ h k, packA_o _ _ _ _ _ _ _ h k, packA_ix _ _ _ _ _ _ _ h k]

theorem raw43 (w w1 : BitVec 32) (h : (fld w 26 6).toNat = 43) :
    decodeRaw w w1 = decodeGram (fld w 0 6).toNat (fld w 21 5) (fld w 16 5) (fld w 11 5) (fld w 8 3) (fld w 6 2) := by
  unfold decodeRaw; rw [h]; rfl

theorem rawA43 (rd ra rb : BitVec 5) (s : BitVec 3) (o : BitVec 2) (ix : Nat) (k : ix < 64) :
    decodeRaw (packA 43 rd ra rb s o ix) 0 = decodeGram ix rd ra rb s o := by
  have h : 43 < 64 := by decide
  rw [raw43 _ _ (packA_op _ _ _ _ _ _ _ h k), packA_rd _ _ _ _ _ _ _ h k, packA_ra _ _ _ _ _ _ _ h k,
    packA_rb _ _ _ _ _ _ _ h k, packA_s _ _ _ _ _ _ _ h k, packA_o _ _ _ _ _ _ _ h k, packA_ix _ _ _ _ _ _ _ h k]

theorem raw44 (w w1 : BitVec 32) (h : (fld w 26 6).toNat = 44) :
    decodeRaw w w1 = decodeTask (fld w 0 6).toNat (fld w 21 5) (fld w 16 5) (fld w 11 5) (fld w 8 3) (fld w 6 2) := by
  unfold decodeRaw; rw [h]; rfl

theorem rawA44 (rd ra rb : BitVec 5) (s : BitVec 3) (o : BitVec 2) (ix : Nat) (k : ix < 64) :
    decodeRaw (packA 44 rd ra rb s o ix) 0 = decodeTask ix rd ra rb s o := by
  have h : 44 < 64 := by decide
  rw [raw44 _ _ (packA_op _ _ _ _ _ _ _ h k), packA_rd _ _ _ _ _ _ _ h k, packA_ra _ _ _ _ _ _ _ h k,
    packA_rb _ _ _ _ _ _ _ h k, packA_s _ _ _ _ _ _ _ h k, packA_o _ _ _ _ _ _ _ h k, packA_ix _ _ _ _ _ _ _ h k]

theorem raw45 (w w1 : BitVec 32) (h : (fld w 26 6).toNat = 45) :
    decodeRaw w w1 = decodeXde (fld w 0 6).toNat (fld w 21 5) (fld w 16 5) (fld w 11 5) (fld w 8 3) (fld w 6 2) := by
  unfold decodeRaw; rw [h]; rfl

theorem rawA45 (rd ra rb : BitVec 5) (s : BitVec 3) (o : BitVec 2) (ix : Nat) (k : ix < 64) :
    decodeRaw (packA 45 rd ra rb s o ix) 0 = decodeXde ix rd ra rb s o := by
  have h : 45 < 64 := by decide
  rw [raw45 _ _ (packA_op _ _ _ _ _ _ _ h k), packA_rd _ _ _ _ _ _ _ h k, packA_ra _ _ _ _ _ _ _ h k,
    packA_rb _ _ _ _ _ _ _ h k, packA_s _ _ _ _ _ _ _ h k, packA_o _ _ _ _ _ _ _ h k, packA_ix _ _ _ _ _ _ _ h k]

theorem raw63 (w w1 : BitVec 32) (h : (fld w 26 6).toNat = 63) :
    decodeRaw w w1 = decodeExt (fld w 21 5) (fld w 16 5) (fld w 11 5) (fld w 8 3) (fld w 6 2) (fld w 0 6).toNat w1 := by
  unfold decodeRaw; rw [h]; rfl

theorem rawX (rd ra rb : BitVec 5) (s : BitVec 3) (o : BitVec 2) (ix : Nat) (w1 : BitVec 32) (k : ix < 64) :
    decodeRaw (packA 63 rd ra rb s o ix) w1 = decodeExt rd ra rb s o ix w1 := by
  have h : 63 < 64 := by decide
  rw [raw63 _ _ (packA_op _ _ _ _ _ _ _ h k), packA_rd _ _ _ _ _ _ _ h k, packA_ra _ _ _ _ _ _ _ h k,
    packA_rb _ _ _ _ _ _ _ h k, packA_s _ _ _ _ _ _ _ h k, packA_o _ _ _ _ _ _ _ h k, packA_ix _ _ _ _ _ _ _ h k]

theorem raw0 (w w1 : BitVec 32) (h : (fld w 26 6).toNat = 0) :
    decodeRaw w w1 = .ok (.ill (fld w 0 26)) := by
  unfold decodeRaw; rw [h]; rfl

theorem raw2 (w w1 : BitVec 32) (h : (fld w 26 6).toNat = 2) :
    decodeRaw w w1 = .ok (.addi (fld w 21 5) (fld w 16 5) (fld w 0 16)) := by
  unfold decodeRaw; rw [h]; rfl

theorem raw3 (w w1 : BitVec 32) (h : (fld w 26 6).toNat = 3) :
    decodeRaw w w1 = .ok (.andi (fld w 21 5) (fld w 16 5) (fld w 0 16)) := by
  unfold decodeRaw; rw [h]; rfl

theorem raw4 (w w1 : BitVec 32) (h : (fld w 26 6).toNat = 4) :
    decodeRaw w w1 = .ok (.ori (fld w 21 5) (fld w 16 5) (fld w 0 16)) := by
  unfold decodeRaw; rw [h]; rfl

theorem raw5 (w w1 : BitVec 32) (h : (fld w 26 6).toNat = 5) :
    decodeRaw w w1 = .ok (.xori (fld w 21 5) (fld w 16 5) (fld w 0 16)) := by
  unfold decodeRaw; rw [h]; rfl

theorem raw6 (w w1 : BitVec 32) (h : (fld w 26 6).toNat = 6) :
    decodeRaw w w1 = decodeShift (fld w 21 5) (fld w 16 5) w := by
  unfold decodeRaw; rw [h]; rfl

theorem raw7 (w w1 : BitVec 32) (h : (fld w 26 6).toNat = 7) :
    decodeRaw w w1 = if fld w 16 5 = 0 then .ok (.lui (fld w 21 5) (fld w 0 16)) else .error .reservedField := by
  unfold decodeRaw; rw [h]; rfl

theorem raw9 (w w1 : BitVec 32) (h : (fld w 26 6).toNat = 9) :
    decodeRaw w w1 = decodeCmpi (fld w 16 5) w := by
  unfold decodeRaw; rw [h]; rfl

theorem raw16 (w w1 : BitVec 32) (h : (fld w 26 6).toNat = 16) :
    decodeRaw w w1 = .ok (.ld (fld w 21 5) (fld w 16 5) (fld w 14 2) (fld w 12 2) (fld w 0 12)) := by
  unfold decodeRaw; rw [h]; rfl

theorem raw17 (w w1 : BitVec 32) (h : (fld w 26 6).toNat = 17) :
    decodeRaw w w1 = .ok (.ldu (fld w 21 5) (fld w 16 5) (fld w 14 2) (fld w 12 2) (fld w 0 12)) := by
  unfold decodeRaw; rw [h]; rfl

theorem raw18 (w w1 : BitVec 32) (h : (fld w 26 6).toNat = 18) :
    decodeRaw w w1 = .ok (.st (fld w 21 5) (fld w 16 5) (fld w 14 2) (fld w 12 2) (fld w 0 12)) := by
  unfold decodeRaw; rw [h]; rfl

theorem raw19 (w w1 : BitVec 32) (h : (fld w 26 6).toNat = 19) :
    decodeRaw w w1 = decodeLdf (fld w 21 5) (fld w 16 5) (fld w 14 2) (fld w 12 2) (fld w 0 12) := by
  unfold decodeRaw; rw [h]; rfl

theorem raw20 (w w1 : BitVec 32) (h : (fld w 26 6).toNat = 20) :
    decodeRaw w w1 = decodeStf (fld w 21 5) (fld w 16 5) (fld w 14 2) (fld w 12 2) (fld w 0 12) := by
  unfold decodeRaw; rw [h]; rfl

theorem raw21 (w w1 : BitVec 32) (h : (fld w 26 6).toNat = 21) :
    decodeRaw w w1 = decodePref (fld w 21 5) (fld w 16 5) (fld w 14 2) (fld w 12 2) (fld w 0 12) := by
  unfold decodeRaw; rw [h]; rfl

theorem raw24 (w w1 : BitVec 32) (h : (fld w 26 6).toNat = 24) :
    decodeRaw w w1 = .ok (.br (fld w 25 1) (fld w 22 3) (fld w 0 22)) := by
  unfold decodeRaw; rw [h]; rfl

theorem raw25 (w w1 : BitVec 32) (h : (fld w 26 6).toNat = 25) :
    decodeRaw w w1 = .ok (.call (fld w 25 1) (fld w 22 3) (fld w 0 22)) := by
  unfold decodeRaw; rw [h]; rfl

theorem raw29 (w w1 : BitVec 32) (h : (fld w 26 6).toNat = 29) :
    decodeRaw w w1 = if fld w 16 5 = 0 ∧ fld w 9 7 = 0 then .ok (.mfc (fld w 21 5) (fld w 0 9)) else .error .reservedField := by
  unfold decodeRaw; rw [h]; rfl

theorem raw30 (w w1 : BitVec 32) (h : (fld w 26 6).toNat = 30) :
    decodeRaw w w1 = if fld w 21 5 = 0 ∧ fld w 9 7 = 0 then .ok (.mtc (fld w 16 5) (fld w 0 9)) else .error .reservedField := by
  unfold decodeRaw; rw [h]; rfl

theorem ill (x : BitVec 26) : Statement (.ill x) := by
  have := x.isLt
  have e : (BitVec.ofNat 32 x.toNat).toNat = x.toNat := by simp only [BitVec.toNat_ofNat]; omega
  have h : (fld (BitVec.ofNat 32 x.toNat) 26 6).toNat = 0 := by rw [fld_toNat, e]; omega
  refine ofWord (by omega) rfl ?_
  rw [raw0 _ _ h]
  congr 2
  apply BitVec.eq_of_toNat_eq; rw [fld_toNat, e]; omega

theorem illegalInstruction (w : BitVec 32) : Statement (.illegalInstruction w) := .inr (.inl ⟨_, rfl⟩)

theorem add (d : BitVec 5) (a : BitVec 5) (b : BitVec 5) (w : BitVec 1) : Statement (.add d a b w) := by
  refine ofA (by decide) (by decide) rfl ?_
  rw [rawA1 _ _ _ _ _ _ (by decide)]
  simp only [decodeAlu, bit2_lt, bit2_back, and_self, if_true]

theorem sub (d : BitVec 5) (a : BitVec 5) (b : BitVec 5) (w : BitVec 1) : Statement (.sub d a b w) := by
  refine ofA (by decide) (by decide) rfl ?_
  rw [rawA1 _ _ _ _ _ _ (by decide)]
  simp only [decodeAlu, bit2_lt, bit2_back, and_self, if_true]

theorem and (d : BitVec 5) (a : BitVec 5) (b : BitVec 5) : Statement (.and d a b) := by
  refine ofA (by decide) (by decide) rfl ?_
  rw [rawA1 _ _ _ _ _ _ (by decide)]
  simp only [decodeAlu, and_self, if_true]

theorem or (d : BitVec 5) (a : BitVec 5) (b : BitVec 5) : Statement (.or d a b) := by
  refine ofA (by decide) (by decide) rfl ?_
  rw [rawA1 _ _ _ _ _ _ (by decide)]
  simp only [decodeAlu, and_self, if_true]

theorem xor (d : BitVec 5) (a : BitVec 5) (b : BitVec 5) : Statement (.xor d a b) := by
  refine ofA (by decide) (by decide) rfl ?_
  rw [rawA1 _ _ _ _ _ _ (by decide)]
  simp only [decodeAlu, and_self, if_true]

theorem andn (d : BitVec 5) (a : BitVec 5) (b : BitVec 5) : Statement (.andn d a b) := by
  refine ofA (by decide) (by decide) rfl ?_
  rw [rawA1 _ _ _ _ _ _ (by decide)]
  simp only [decodeAlu, and_self, if_true]

theorem shl (d : BitVec 5) (a : BitVec 5) (b : BitVec 5) (w : BitVec 1) : Statement (.shl d a b w) := by
  refine ofA (by decide) (by decide) rfl ?_
  rw [rawA1 _ _ _ _ _ _ (by decide)]
  simp only [decodeAlu, bit2_lt, bit2_back, and_self, if_true]

theorem shr (d : BitVec 5) (a : BitVec 5) (b : BitVec 5) (w : BitVec 1) : Statement (.shr d a b w) := by
  refine ofA (by decide) (by decide) rfl ?_
  rw [rawA1 _ _ _ _ _ _ (by decide)]
  simp only [decodeAlu, bit2_lt, bit2_back, and_self, if_true]

theorem sar (d : BitVec 5) (a : BitVec 5) (b : BitVec 5) (w : BitVec 1) : Statement (.sar d a b w) := by
  refine ofA (by decide) (by decide) rfl ?_
  rw [rawA1 _ _ _ _ _ _ (by decide)]
  simp only [decodeAlu, bit2_lt, bit2_back, and_self, if_true]

theorem rol (d : BitVec 5) (a : BitVec 5) (b : BitVec 5) (w : BitVec 1) : Statement (.rol d a b w) := by
  refine ofA (by decide) (by decide) rfl ?_
  rw [rawA1 _ _ _ _ _ _ (by decide)]
  simp only [decodeAlu, bit2_lt, bit2_back, and_self, if_true]

theorem mul (d : BitVec 5) (a : BitVec 5) (b : BitVec 5) (w : BitVec 1) : Statement (.mul d a b w) := by
  refine ofA (by decide) (by decide) rfl ?_
  rw [rawA1 _ _ _ _ _ _ (by decide)]
  simp only [decodeAlu, bit2_lt, bit2_back, and_self, if_true]

theorem mulh (d : BitVec 5) (a : BitVec 5) (b : BitVec 5) : Statement (.mulh d a b) := by
  refine ofA (by decide) (by decide) rfl ?_
  rw [rawA1 _ _ _ _ _ _ (by decide)]
  simp only [decodeAlu, and_self, if_true]

theorem mulhu (d : BitVec 5) (a : BitVec 5) (b : BitVec 5) : Statement (.mulhu d a b) := by
  refine ofA (by decide) (by decide) rfl ?_
  rw [rawA1 _ _ _ _ _ _ (by decide)]
  simp only [decodeAlu, and_self, if_true]

theorem div (d : BitVec 5) (a : BitVec 5) (b : BitVec 5) (w : BitVec 1) : Statement (.div d a b w) := by
  refine ofA (by decide) (by decide) rfl ?_
  rw [rawA1 _ _ _ _ _ _ (by decide)]
  simp only [decodeAlu, bit2_lt, bit2_back, and_self, if_true]

theorem divu (d : BitVec 5) (a : BitVec 5) (b : BitVec 5) (w : BitVec 1) : Statement (.divu d a b w) := by
  refine ofA (by decide) (by decide) rfl ?_
  rw [rawA1 _ _ _ _ _ _ (by decide)]
  simp only [decodeAlu, bit2_lt, bit2_back, and_self, if_true]

theorem rem (d : BitVec 5) (a : BitVec 5) (b : BitVec 5) (w : BitVec 1) : Statement (.rem d a b w) := by
  refine ofA (by decide) (by decide) rfl ?_
  rw [rawA1 _ _ _ _ _ _ (by decide)]
  simp only [decodeAlu, bit2_lt, bit2_back, and_self, if_true]

theorem remu (d : BitVec 5) (a : BitVec 5) (b : BitVec 5) (w : BitVec 1) : Statement (.remu d a b w) := by
  refine ofA (by decide) (by decide) rfl ?_
  rw [rawA1 _ _ _ _ _ _ (by decide)]
  simp only [decodeAlu, bit2_lt, bit2_back, and_self, if_true]

theorem min (d : BitVec 5) (a : BitVec 5) (b : BitVec 5) (w : BitVec 1) : Statement (.min d a b w) := by
  refine ofA (by decide) (by decide) rfl ?_
  rw [rawA1 _ _ _ _ _ _ (by decide)]
  simp only [decodeAlu, bit2_lt, bit2_back, and_self, if_true]

theorem max (d : BitVec 5) (a : BitVec 5) (b : BitVec 5) (w : BitVec 1) : Statement (.max d a b w) := by
  refine ofA (by decide) (by decide) rfl ?_
  rw [rawA1 _ _ _ _ _ _ (by decide)]
  simp only [decodeAlu, bit2_lt, bit2_back, and_self, if_true]

theorem minu (d : BitVec 5) (a : BitVec 5) (b : BitVec 5) (w : BitVec 1) : Statement (.minu d a b w) := by
  refine ofA (by decide) (by decide) rfl ?_
  rw [rawA1 _ _ _ _ _ _ (by decide)]
  simp only [decodeAlu, bit2_lt, bit2_back, and_self, if_true]

theorem maxu (d : BitVec 5) (a : BitVec 5) (b : BitVec 5) (w : BitVec 1) : Statement (.maxu d a b w) := by
  refine ofA (by decide) (by decide) rfl ?_
  rw [rawA1 _ _ _ _ _ _ (by decide)]
  simp only [decodeAlu, bit2_lt, bit2_back, and_self, if_true]

theorem clz (d : BitVec 5) (a : BitVec 5) (w : BitVec 1) : Statement (.clz d a w) := by
  refine ofA (by decide) (by decide) rfl ?_
  rw [rawA1 _ _ _ _ _ _ (by decide)]
  simp only [decodeAlu, bit2_lt, bit2_back, and_self, if_true]

theorem ctz (d : BitVec 5) (a : BitVec 5) (w : BitVec 1) : Statement (.ctz d a w) := by
  refine ofA (by decide) (by decide) rfl ?_
  rw [rawA1 _ _ _ _ _ _ (by decide)]
  simp only [decodeAlu, bit2_lt, bit2_back, and_self, if_true]

theorem popc (d : BitVec 5) (a : BitVec 5) (w : BitVec 1) : Statement (.popc d a w) := by
  refine ofA (by decide) (by decide) rfl ?_
  rw [rawA1 _ _ _ _ _ _ (by decide)]
  simp only [decodeAlu, bit2_lt, bit2_back, and_self, if_true]

theorem sextb (d : BitVec 5) (a : BitVec 5) : Statement (.sextb d a) := by
  refine ofA (by decide) (by decide) rfl ?_
  rw [rawA1 _ _ _ _ _ _ (by decide)]
  simp only [decodeAlu, and_self, if_true]

theorem sexth (d : BitVec 5) (a : BitVec 5) : Statement (.sexth d a) := by
  refine ofA (by decide) (by decide) rfl ?_
  rw [rawA1 _ _ _ _ _ _ (by decide)]
  simp only [decodeAlu, and_self, if_true]

theorem sextw (d : BitVec 5) (a : BitVec 5) : Statement (.sextw d a) := by
  refine ofA (by decide) (by decide) rfl ?_
  rw [rawA1 _ _ _ _ _ _ (by decide)]
  simp only [decodeAlu, and_self, if_true]

theorem bswap (d : BitVec 5) (a : BitVec 5) : Statement (.bswap d a) := by
  refine ofA (by decide) (by decide) rfl ?_
  rw [rawA1 _ _ _ _ _ _ (by decide)]
  simp only [decodeAlu, and_self, if_true]

theorem addi (d : BitVec 5) (a : BitVec 5) (i : BitVec 16) : Statement (.addi d a i) := by
  refine ofI (by decide) rfl ?_
  rw [raw2 _ _ (packI_op _ _ _ _ (by decide))]
  simp only [packI_rd, packI_ra, packI_imm, Nat.reduceLT]

theorem andi (d : BitVec 5) (a : BitVec 5) (i : BitVec 16) : Statement (.andi d a i) := by
  refine ofI (by decide) rfl ?_
  rw [raw3 _ _ (packI_op _ _ _ _ (by decide))]
  simp only [packI_rd, packI_ra, packI_imm, Nat.reduceLT]

theorem ori (d : BitVec 5) (a : BitVec 5) (i : BitVec 16) : Statement (.ori d a i) := by
  refine ofI (by decide) rfl ?_
  rw [raw4 _ _ (packI_op _ _ _ _ (by decide))]
  simp only [packI_rd, packI_ra, packI_imm, Nat.reduceLT]

theorem xori (d : BitVec 5) (a : BitVec 5) (i : BitVec 16) : Statement (.xori d a i) := by
  refine ofI (by decide) rfl ?_
  rw [raw5 _ _ (packI_op _ _ _ _ (by decide))]
  simp only [packI_rd, packI_ra, packI_imm, Nat.reduceLT]

theorem shli (d : BitVec 5) (a : BitVec 5) (w : BitVec 1) (n : BitVec 6) : Statement (.shli d a w n) := by
  refine ofI (by decide) rfl ?_
  rw [raw6 _ _ (packI_op _ _ _ _ (by decide)), packI_rd _ _ _ _ (by decide), packI_ra _ _ _ _ (by decide),
    decodeShift_pack _ _ _ _ _ (by decide)]
  rfl

theorem shri (d : BitVec 5) (a : BitVec 5) (w : BitVec 1) (n : BitVec 6) : Statement (.shri d a w n) := by
  refine ofI (by decide) rfl ?_
  rw [raw6 _ _ (packI_op _ _ _ _ (by decide)), packI_rd _ _ _ _ (by decide), packI_ra _ _ _ _ (by decide),
    decodeShift_pack _ _ _ _ _ (by decide)]
  rfl

theorem sari (d : BitVec 5) (a : BitVec 5) (w : BitVec 1) (n : BitVec 6) : Statement (.sari d a w n) := by
  refine ofI (by decide) rfl ?_
  rw [raw6 _ _ (packI_op _ _ _ _ (by decide)), packI_rd _ _ _ _ (by decide), packI_ra _ _ _ _ (by decide),
    decodeShift_pack _ _ _ _ _ (by decide)]
  rfl

theorem lui (d : BitVec 5) (i : BitVec 16) : Statement (.lui d i) := by
  refine ofI (by decide) rfl ?_
  rw [raw7 _ _ (packI_op _ _ _ _ (by decide))]
  simp only [packI_rd, packI_ra, packI_imm, Nat.reduceLT, if_true]

theorem ceq (p : BitVec 3) (a : BitVec 5) (b : BitVec 5) (w : BitVec 1) : Statement (.ceq p a b w) := by
  refine ofA (by decide) (by decide) rfl ?_
  rw [rawA8 _ _ _ _ _ _ (by decide)]
  simp only [decodeCmp, p5_lt, p5_back, bit2_lt, bit2_back, and_self, if_true]

theorem cne (p : BitVec 3) (a : BitVec 5) (b : BitVec 5) (w : BitVec 1) : Statement (.cne p a b w) := by
  refine ofA (by decide) (by decide) rfl ?_
  rw [rawA8 _ _ _ _ _ _ (by decide)]
  simp only [decodeCmp, p5_lt, p5_back, bit2_lt, bit2_back, and_self, if_true]

theorem clt (p : BitVec 3) (a : BitVec 5) (b : BitVec 5) (w : BitVec 1) : Statement (.clt p a b w) := by
  refine ofA (by decide) (by decide) rfl ?_
  rw [rawA8 _ _ _ _ _ _ (by decide)]
  simp only [decodeCmp, p5_lt, p5_back, bit2_lt, bit2_back, and_self, if_true]

theorem cltu (p : BitVec 3) (a : BitVec 5) (b : BitVec 5) (w : BitVec 1) : Statement (.cltu p a b w) := by
  refine ofA (by decide) (by decide) rfl ?_
  rw [rawA8 _ _ _ _ _ _ (by decide)]
  simp only [decodeCmp, p5_lt, p5_back, bit2_lt, bit2_back, and_self, if_true]

theorem cle (p : BitVec 3) (a : BitVec 5) (b : BitVec 5) (w : BitVec 1) : Statement (.cle p a b w) := by
  refine ofA (by decide) (by decide) rfl ?_
  rw [rawA8 _ _ _ _ _ _ (by decide)]
  simp only [decodeCmp, p5_lt, p5_back, bit2_lt, bit2_back, and_self, if_true]

theorem cleu (p : BitVec 3) (a : BitVec 5) (b : BitVec 5) (w : BitVec 1) : Statement (.cleu p a b w) := by
  refine ofA (by decide) (by decide) rfl ?_
  rw [rawA8 _ _ _ _ _ _ (by decide)]
  simp only [decodeCmp, p5_lt, p5_back, bit2_lt, bit2_back, and_self, if_true]

theorem cmpiEq (p : BitVec 3) (a : BitVec 5) (i : BitVec 16) : Statement (.cmpiEq p a i) := by
  refine ofI (by decide) rfl ?_
  rw [raw9 _ _ (packI_op _ _ _ _ (by decide)), packI_ra _ _ _ _ (by decide), decodeCmpi_pack _ _ _ _ (by decide)]
  rfl

theorem cmpiLt (p : BitVec 3) (a : BitVec 5) (i : BitVec 16) : Statement (.cmpiLt p a i) := by
  refine ofI (by decide) rfl ?_
  rw [raw9 _ _ (packI_op _ _ _ _ (by decide)), packI_ra _ _ _ _ (by decide), decodeCmpi_pack _ _ _ _ (by decide)]
  rfl

theorem cmpiLtu (p : BitVec 3) (a : BitVec 5) (i : BitVec 16) : Statement (.cmpiLtu p a i) := by
  refine ofI (by decide) rfl ?_
  rw [raw9 _ _ (packI_op _ _ _ _ (by decide)), packI_ra _ _ _ _ (by decide), decodeCmpi_pack _ _ _ _ (by decide)]
  rfl

theorem cmpiLe (p : BitVec 3) (a : BitVec 5) (i : BitVec 16) : Statement (.cmpiLe p a i) := by
  refine ofI (by decide) rfl ?_
  rw [raw9 _ _ (packI_op _ _ _ _ (by decide)), packI_ra _ _ _ _ (by decide), decodeCmpi_pack _ _ _ _ (by decide)]
  rfl

theorem pand (d : BitVec 3) (a : BitVec 3) (b : BitVec 3) : Statement (.pand d a b) := by
  refine ofA (by decide) (by decide) rfl ?_
  rw [rawA10 _ _ _ _ _ _ (by decide)]
  simp only [decodePred, p5_lt, p5_back, and_self, if_true]

theorem por (d : BitVec 3) (a : BitVec 3) (b : BitVec 3) : Statement (.por d a b) := by
  refine ofA (by decide) (by decide) rfl ?_
  rw [rawA10 _ _ _ _ _ _ (by decide)]
  simp only [decodePred, p5_lt, p5_back, and_self, if_true]

theorem pxor (d : BitVec 3) (a : BitVec 3) (b : BitVec 3) : Statement (.pxor d a b) := by
  refine ofA (by decide) (by decide) rfl ?_
  rw [rawA10 _ _ _ _ _ _ (by decide)]
  simp only [decodePred, p5_lt, p5_back, and_self, if_true]

theorem pandn (d : BitVec 3) (a : BitVec 3) (b : BitVec 3) : Statement (.pandn d a b) := by
  refine ofA (by decide) (by decide) rfl ?_
  rw [rawA10 _ _ _ _ _ _ (by decide)]
  simp only [decodePred, p5_lt, p5_back, and_self, if_true]

theorem pnot (d : BitVec 3) (a : BitVec 3) : Statement (.pnot d a) := by
  refine ofA (by decide) (by decide) rfl ?_
  rw [rawA10 _ _ _ _ _ _ (by decide)]
  simp only [decodePred, p5_lt, p5_back, and_self, if_true]

theorem pset (d : BitVec 3) (a : BitVec 5) : Statement (.pset d a) := by
  refine ofA (by decide) (by decide) rfl ?_
  rw [rawA10 _ _ _ _ _ _ (by decide)]
  simp only [decodePred, p5_lt, p5_back, and_self, if_true]

theorem pget (d : BitVec 5) (a : BitVec 3) : Statement (.pget d a) := by
  refine ofA (by decide) (by decide) rfl ?_
  rw [rawA10 _ _ _ _ _ _ (by decide)]
  simp only [decodePred, p5_lt, p5_back, and_self, if_true]

theorem sel (d : BitVec 5) (a : BitVec 5) (b : BitVec 5) (c : BitVec 3) : Statement (.sel d a b c) := by
  refine ofA (by decide) (by decide) rfl ?_
  have j := sel_split c
  rw [rawA10 _ _ _ _ _ _ (by decide)]
  simp only [decodePred, j.1, j.2, if_true]

theorem fadd (d : BitVec 5) (a : BitVec 5) (b : BitVec 5) (p : BitVec 1) (r : BitVec 2) : Statement (.fadd d a b p r) := by
  refine ofA (by decide) (by decide) rfl ?_
  rw [rawA12 _ _ _ _ _ _ (by decide)]
  simp only [decodeFpu, bit3_lt, bit3_back, if_true]

theorem fsub (d : BitVec 5) (a : BitVec 5) (b : BitVec 5) (p : BitVec 1) (r : BitVec 2) : Statement (.fsub d a b p r) := by
  refine ofA (by decide) (by decide) rfl ?_
  rw [rawA12 _ _ _ _ _ _ (by decide)]
  simp only [decodeFpu, bit3_lt, bit3_back, if_true]

theorem fmul (d : BitVec 5) (a : BitVec 5) (b : BitVec 5) (p : BitVec 1) (r : BitVec 2) : Statement (.fmul d a b p r) := by
  refine ofA (by decide) (by decide) rfl ?_
  rw [rawA12 _ _ _ _ _ _ (by decide)]
  simp only [decodeFpu, bit3_lt, bit3_back, if_true]

theorem fdiv (d : BitVec 5) (a : BitVec 5) (b : BitVec 5) (p : BitVec 1) (r : BitVec 2) : Statement (.fdiv d a b p r) := by
  refine ofA (by decide) (by decide) rfl ?_
  rw [rawA12 _ _ _ _ _ _ (by decide)]
  simp only [decodeFpu, bit3_lt, bit3_back, if_true]

theorem fsqrt (d : BitVec 5) (a : BitVec 5) (p : BitVec 1) (r : BitVec 2) : Statement (.fsqrt d a p r) := by
  refine ofA (by decide) (by decide) rfl ?_
  rw [rawA12 _ _ _ _ _ _ (by decide)]
  simp only [decodeFpu, bit3_lt, bit3_back, and_self, if_true]

theorem fmin (d : BitVec 5) (a : BitVec 5) (b : BitVec 5) (p : BitVec 1) : Statement (.fmin d a b p) := by
  refine ofA (by decide) (by decide) rfl ?_
  rw [rawA12 _ _ _ _ _ _ (by decide)]
  simp only [decodeFpu, bit3_lt, bit3_back, and_self, if_true]

theorem fmax (d : BitVec 5) (a : BitVec 5) (b : BitVec 5) (p : BitVec 1) : Statement (.fmax d a b p) := by
  refine ofA (by decide) (by decide) rfl ?_
  rw [rawA12 _ _ _ _ _ _ (by decide)]
  simp only [decodeFpu, bit3_lt, bit3_back, and_self, if_true]

theorem fma (d : BitVec 5) (a : BitVec 5) (b : BitVec 5) (p : BitVec 1) (r : BitVec 2) : Statement (.fma d a b p r) := by
  refine ofA (by decide) (by decide) rfl ?_
  rw [rawA12 _ _ _ _ _ _ (by decide)]
  simp only [decodeFpu, bit3_lt, bit3_back, if_true]

theorem fcvtif (d : BitVec 5) (a : BitVec 5) (w : BitVec 1) (u : BitVec 1) (p : BitVec 1) (r : BitVec 2) : Statement (.fcvtif d a w u p r) := by
  refine ofA (by decide) (by decide) rfl ?_
  rw [rawA12 _ _ _ _ _ _ (by decide)]
  have j := bitAt_join3 w u p
  simp only [decodeFpu, j.1, j.2.1, j.2.2, if_true]

theorem fcvtfi (d : BitVec 5) (a : BitVec 5) (w : BitVec 1) (u : BitVec 1) (p : BitVec 1) (r : BitVec 2) : Statement (.fcvtfi d a w u p r) := by
  refine ofA (by decide) (by decide) rfl ?_
  rw [rawA12 _ _ _ _ _ _ (by decide)]
  have j := bitAt_join3 w u p
  simp only [decodeFpu, j.1, j.2.1, j.2.2, if_true]

theorem fcvtff (d : BitVec 5) (a : BitVec 5) (p : BitVec 1) (r : BitVec 2) : Statement (.fcvtff d a p r) := by
  refine ofA (by decide) (by decide) rfl ?_
  rw [rawA12 _ _ _ _ _ _ (by decide)]
  simp only [decodeFpu, bit3_lt, bit3_back, and_self, if_true]

theorem fceq (d : BitVec 3) (a : BitVec 5) (b : BitVec 5) (p : BitVec 1) : Statement (.fceq d a b p) := by
  refine ofA (by decide) (by decide) rfl ?_
  rw [rawA12 _ _ _ _ _ _ (by decide)]
  simp only [decodeFpu, p5_lt, p5_back, bit3_lt, bit3_back, and_self, if_true]

theorem fclt (d : BitVec 3) (a : BitVec 5) (b : BitVec 5) (p : BitVec 1) : Statement (.fclt d a b p) := by
  refine ofA (by decide) (by decide) rfl ?_
  rw [rawA12 _ _ _ _ _ _ (by decide)]
  simp only [decodeFpu, p5_lt, p5_back, bit3_lt, bit3_back, and_self, if_true]

theorem fcle (d : BitVec 3) (a : BitVec 5) (b : BitVec 5) (p : BitVec 1) : Statement (.fcle d a b p) := by
  refine ofA (by decide) (by decide) rfl ?_
  rw [rawA12 _ _ _ _ _ _ (by decide)]
  simp only [decodeFpu, p5_lt, p5_back, bit3_lt, bit3_back, and_self, if_true]

theorem fclass (d : BitVec 5) (a : BitVec 5) (p : BitVec 1) : Statement (.fclass d a p) := by
  refine ofA (by decide) (by decide) rfl ?_
  rw [rawA12 _ _ _ _ _ _ (by decide)]
  simp only [decodeFpu, bit3_lt, bit3_back, and_self, if_true]

theorem ld (d : BitVec 5) (a : BitVec 5) (z : BitVec 2) (o : BitVec 2) (f : BitVec 12) : Statement (.ld d a z o f) := by
  refine ofM (by decide) rfl ?_
  rw [raw16 _ _ (packM_op _ _ _ _ _ _ (by decide)), packM_rd _ _ _ _ _ _ (by decide), packM_ra _ _ _ _ _ _ (by decide),
    packM_z _ _ _ _ _ _ (by decide), packM_o _ _ _ _ _ _ (by decide), packM_f _ _ _ _ _ _ (by decide)]

theorem ldu (d : BitVec 5) (a : BitVec 5) (z : BitVec 2) (o : BitVec 2) (f : BitVec 12) : Statement (.ldu d a z o f) := by
  refine ofM (by decide) rfl ?_
  rw [raw17 _ _ (packM_op _ _ _ _ _ _ (by decide)), packM_rd _ _ _ _ _ _ (by decide), packM_ra _ _ _ _ _ _ (by decide),
    packM_z _ _ _ _ _ _ (by decide), packM_o _ _ _ _ _ _ (by decide), packM_f _ _ _ _ _ _ (by decide)]

theorem st (d : BitVec 5) (a : BitVec 5) (z : BitVec 2) (o : BitVec 2) (f : BitVec 12) : Statement (.st d a z o f) := by
  refine ofM (by decide) rfl ?_
  rw [raw18 _ _ (packM_op _ _ _ _ _ _ (by decide)), packM_rd _ _ _ _ _ _ (by decide), packM_ra _ _ _ _ _ _ (by decide),
    packM_z _ _ _ _ _ _ (by decide), packM_o _ _ _ _ _ _ (by decide), packM_f _ _ _ _ _ _ (by decide)]

theorem ldf (d : BitVec 5) (a : BitVec 5) (z : BitVec 2) (f : BitVec 12) : Statement (.ldf d a z f) := by
  refine ofM (by decide) rfl ?_
  rw [raw19 _ _ (packM_op _ _ _ _ _ _ (by decide)), packM_rd _ _ _ _ _ _ (by decide), packM_ra _ _ _ _ _ _ (by decide),
    packM_z _ _ _ _ _ _ (by decide), packM_o _ _ _ _ _ _ (by decide), packM_f _ _ _ _ _ _ (by decide)]
  rfl

theorem ldfe (d : BitVec 5) (a : BitVec 5) (z : BitVec 2) (f : BitVec 12) : Statement (.ldfe d a z f) := by
  refine ofM (by decide) rfl ?_
  rw [raw19 _ _ (packM_op _ _ _ _ _ _ (by decide)), packM_rd _ _ _ _ _ _ (by decide), packM_ra _ _ _ _ _ _ (by decide),
    packM_z _ _ _ _ _ _ (by decide), packM_o _ _ _ _ _ _ (by decide), packM_f _ _ _ _ _ _ (by decide)]
  rfl

theorem stef (d : BitVec 5) (a : BitVec 5) (z : BitVec 2) (f : BitVec 12) : Statement (.stef d a z f) := by
  refine ofM (by decide) rfl ?_
  rw [raw20 _ _ (packM_op _ _ _ _ _ _ (by decide)), packM_rd _ _ _ _ _ _ (by decide), packM_ra _ _ _ _ _ _ (by decide),
    packM_z _ _ _ _ _ _ (by decide), packM_o _ _ _ _ _ _ (by decide), packM_f _ _ _ _ _ _ (by decide)]
  rfl

theorem stf (d : BitVec 5) (a : BitVec 5) (z : BitVec 2) (f : BitVec 12) : Statement (.stf d a z f) := by
  refine ofM (by decide) rfl ?_
  rw [raw20 _ _ (packM_op _ _ _ _ _ _ (by decide)), packM_rd _ _ _ _ _ _ (by decide), packM_ra _ _ _ _ _ _ (by decide),
    packM_z _ _ _ _ _ _ (by decide), packM_o _ _ _ _ _ _ (by decide), packM_f _ _ _ _ _ _ (by decide)]
  rfl

theorem sete (a : BitVec 5) (z : BitVec 2) (f : BitVec 12) : Statement (.sete a z f) := by
  refine ofM (by decide) rfl ?_
  rw [raw20 _ _ (packM_op _ _ _ _ _ _ (by decide)), packM_rd _ _ _ _ _ _ (by decide), packM_ra _ _ _ _ _ _ (by decide),
    packM_z _ _ _ _ _ _ (by decide), packM_o _ _ _ _ _ _ (by decide), packM_f _ _ _ _ _ _ (by decide)]
  rfl

theorem prefR (a : BitVec 5) (f : BitVec 12) : Statement (.prefR a f) := by
  refine ofM (by decide) rfl ?_
  rw [raw21 _ _ (packM_op _ _ _ _ _ _ (by decide)), packM_rd _ _ _ _ _ _ (by decide), packM_ra _ _ _ _ _ _ (by decide),
    packM_z _ _ _ _ _ _ (by decide), packM_o _ _ _ _ _ _ (by decide), packM_f _ _ _ _ _ _ (by decide)]
  rfl

theorem prefW (a : BitVec 5) (f : BitVec 12) : Statement (.prefW a f) := by
  refine ofM (by decide) rfl ?_
  rw [raw21 _ _ (packM_op _ _ _ _ _ _ (by decide)), packM_rd _ _ _ _ _ _ (by decide), packM_ra _ _ _ _ _ _ (by decide),
    packM_z _ _ _ _ _ _ (by decide), packM_o _ _ _ _ _ _ (by decide), packM_f _ _ _ _ _ _ (by decide)]
  rfl

theorem dld (d : BitVec 4) (a : BitVec 5) (b : BitVec 5) (s : BitVec 3) (o : BitVec 2) : Statement (.dld d a b s o) := by
  refine ofA (by decide) (by decide) rfl ?_
  rw [rawA22 _ _ _ _ _ _ (by decide)]
  simp only [decodeDesc, r5_lt, r5_back, if_true]

theorem dst (d : BitVec 4) (a : BitVec 5) (b : BitVec 5) (s : BitVec 3) (o : BitVec 2) : Statement (.dst d a b s o) := by
  refine ofA (by decide) (by decide) rfl ?_
  rw [rawA22 _ _ _ _ _ _ (by decide)]
  simp only [decodeDesc, r5_lt, r5_back, if_true]

theorem br (n : BitVec 1) (k : BitVec 3) (f : BitVec 22) : Statement (.br n k f) := by
  refine ofB (by decide) rfl ?_
  rw [raw24 _ _ (packB_op _ _ _ _ (by decide)), packB_n _ _ _ _ (by decide), packB_k _ _ _ _ (by decide),
    packB_f _ _ _ _ (by decide)]

theorem call (n : BitVec 1) (k : BitVec 3) (f : BitVec 22) : Statement (.call n k f) := by
  refine ofB (by decide) rfl ?_
  rw [raw25 _ _ (packB_op _ _ _ _ (by decide)), packB_n _ _ _ _ (by decide), packB_k _ _ _ _ (by decide),
    packB_f _ _ _ _ (by decide)]

theorem jr (a : BitVec 5) : Statement (.jr a) := by
  refine ofA (by decide) (by decide) rfl ?_
  rw [rawA26 _ _ _ _ _ _ (by decide)]
  simp only [decodeJump, and_self, if_true]

theorem jalr (d : BitVec 5) (a : BitVec 5) : Statement (.jalr d a) := by
  refine ofA (by decide) (by decide) rfl ?_
  rw [rawA26 _ _ _ _ _ _ (by decide)]
  simp only [decodeJump, and_self, if_true]

theorem nop : Statement .nop := by
  refine ofA (by decide) (by decide) rfl ?_
  rw [rawA28 _ _ _ _ _ _ (by decide)]
  simp only [decodeSys, and_self, if_true]

theorem trap (a : BitVec 5) : Statement (.trap a) := by
  refine ofA (by decide) (by decide) rfl ?_
  rw [rawA28 _ _ _ _ _ _ (by decide)]
  simp only [decodeSys, and_self, if_true]

theorem eret : Statement .eret := by
  refine ofA (by decide) (by decide) rfl ?_
  rw [rawA28 _ _ _ _ _ _ (by decide)]
  simp only [decodeSys, and_self, if_true]

theorem fence (s : BitVec 3) (o : BitVec 2) : Statement (.fence s o) := by
  refine ofA (by decide) (by decide) rfl ?_
  rw [rawA28 _ _ _ _ _ _ (by decide)]
  simp only [decodeSys, and_self, if_true]

theorem sleep : Statement .sleep := by
  refine ofA (by decide) (by decide) rfl ?_
  rw [rawA28 _ _ _ _ _ _ (by decide)]
  simp only [decodeSys, and_self, if_true]

theorem brk : Statement .brk := by
  refine ofA (by decide) (by decide) rfl ?_
  rw [rawA28 _ _ _ _ _ _ (by decide)]
  simp only [decodeSys, and_self, if_true]

theorem iflush : Statement .iflush := by
  refine ofA (by decide) (by decide) rfl ?_
  rw [rawA28 _ _ _ _ _ _ (by decide)]
  simp only [decodeSys, and_self, if_true]

theorem halt : Statement .halt := by
  refine ofA (by decide) (by decide) rfl ?_
  rw [rawA28 _ _ _ _ _ _ (by decide)]
  simp only [decodeSys, and_self, if_true]

theorem mfc (d : BitVec 5) (n : BitVec 9) : Statement (.mfc d n) := by
  refine ofI (by decide) rfl ?_
  have := n.isLt
  have e : (n.setWidth 16).toNat = n.toNat := by simp only [BitVec.toNat_setWidth]; omega
  have h9 : fld (packI 29 d 0 (n.setWidth 16)) 9 7 = 0 := by
    apply BitVec.eq_of_toNat_eq; rw [packI_low _ _ _ _ _ _ (by decide) (by decide), e]; simp; omega
  have h0 : fld (packI 29 d 0 (n.setWidth 16)) 0 9 = n := by
    apply BitVec.eq_of_toNat_eq; rw [packI_low _ _ _ _ _ _ (by decide) (by decide), e]; omega
  rw [raw29 _ _ (packI_op _ _ _ _ (by decide)), packI_rd _ _ _ _ (by decide), packI_ra _ _ _ _ (by decide), h9, h0]
  simp only [and_self, if_true]

theorem mtc (a : BitVec 5) (n : BitVec 9) : Statement (.mtc a n) := by
  refine ofI (by decide) rfl ?_
  have := n.isLt
  have e : (n.setWidth 16).toNat = n.toNat := by simp only [BitVec.toNat_setWidth]; omega
  have h9 : fld (packI 30 0 a (n.setWidth 16)) 9 7 = 0 := by
    apply BitVec.eq_of_toNat_eq; rw [packI_low _ _ _ _ _ _ (by decide) (by decide), e]; simp; omega
  have h0 : fld (packI 30 0 a (n.setWidth 16)) 0 9 = n := by
    apply BitVec.eq_of_toNat_eq; rw [packI_low _ _ _ _ _ _ (by decide) (by decide), e]; omega
  rw [raw30 _ _ (packI_op _ _ _ _ (by decide)), packI_rd _ _ _ _ (by decide), packI_ra _ _ _ _ (by decide), h9, h0]
  simp only [and_self, if_true]

theorem amoSwap (d : BitVec 5) (a : BitVec 5) (b : BitVec 5) (s : BitVec 3) (o : BitVec 2) : Statement (.amoSwap d a b s o) := by
  refine ofA (by decide) (by decide) rfl ?_
  rw [rawA32 _ _ _ _ _ _ (by decide)]
  rfl

theorem amoAdd (d : BitVec 5) (a : BitVec 5) (b : BitVec 5) (s : BitVec 3) (o : BitVec 2) : Statement (.amoAdd d a b s o) := by
  refine ofA (by decide) (by decide) rfl ?_
  rw [rawA32 _ _ _ _ _ _ (by decide)]
  rfl

theorem amoAnd (d : BitVec 5) (a : BitVec 5) (b : BitVec 5) (s : BitVec 3) (o : BitVec 2) : Statement (.amoAnd d a b s o) := by
  refine ofA (by decide) (by decide) rfl ?_
  rw [rawA32 _ _ _ _ _ _ (by decide)]
  rfl

theorem amoOr (d : BitVec 5) (a : BitVec 5) (b : BitVec 5) (s : BitVec 3) (o : BitVec 2) : Statement (.amoOr d a b s o) := by
  refine ofA (by decide) (by decide) rfl ?_
  rw [rawA32 _ _ _ _ _ _ (by decide)]
  rfl

theorem amoXor (d : BitVec 5) (a : BitVec 5) (b : BitVec 5) (s : BitVec 3) (o : BitVec 2) : Statement (.amoXor d a b s o) := by
  refine ofA (by decide) (by decide) rfl ?_
  rw [rawA32 _ _ _ _ _ _ (by decide)]
  rfl

theorem amoMin (d : BitVec 5) (a : BitVec 5) (b : BitVec 5) (s : BitVec 3) (o : BitVec 2) : Statement (.amoMin d a b s o) := by
  refine ofA (by decide) (by decide) rfl ?_
  rw [rawA32 _ _ _ _ _ _ (by decide)]
  rfl

theorem amoMax (d : BitVec 5) (a : BitVec 5) (b : BitVec 5) (s : BitVec 3) (o : BitVec 2) : Statement (.amoMax d a b s o) := by
  refine ofA (by decide) (by decide) rfl ?_
  rw [rawA32 _ _ _ _ _ _ (by decide)]
  rfl

theorem amoMinu (d : BitVec 5) (a : BitVec 5) (b : BitVec 5) (s : BitVec 3) (o : BitVec 2) : Statement (.amoMinu d a b s o) := by
  refine ofA (by decide) (by decide) rfl ?_
  rw [rawA32 _ _ _ _ _ _ (by decide)]
  rfl

theorem amoMaxu (d : BitVec 5) (a : BitVec 5) (b : BitVec 5) (s : BitVec 3) (o : BitVec 2) : Statement (.amoMaxu d a b s o) := by
  refine ofA (by decide) (by decide) rfl ?_
  rw [rawA32 _ _ _ _ _ _ (by decide)]
  rfl

theorem amoFadd (d : BitVec 5) (a : BitVec 5) (b : BitVec 5) (s : BitVec 3) (o : BitVec 2) : Statement (.amoFadd d a b s o) := by
  refine ofA (by decide) (by decide) rfl ?_
  rw [rawA32 _ _ _ _ _ _ (by decide)]
  rfl

theorem amoCas (d : BitVec 5) (a : BitVec 5) (b : BitVec 5) (s : BitVec 3) (o : BitVec 2) : Statement (.amoCas d a b s o) := by
  refine ofA (by decide) (by decide) rfl ?_
  rw [rawA32 _ _ _ _ _ _ (by decide)]
  rfl

theorem redAdd (w : BitVec 1) (a : BitVec 5) (b : BitVec 5) (s : BitVec 3) (o : BitVec 2) : Statement (.redAdd w a b s o) := by
  refine ofA (by decide) (by decide) rfl ?_
  rw [rawA33 _ _ _ _ _ _ (by decide)]
  simp only [decodeRed, bit5_lt, bit5_back, if_true]

theorem redAnd (w : BitVec 1) (a : BitVec 5) (b : BitVec 5) (s : BitVec 3) (o : BitVec 2) : Statement (.redAnd w a b s o) := by
  refine ofA (by decide) (by decide) rfl ?_
  rw [rawA33 _ _ _ _ _ _ (by decide)]
  simp only [decodeRed, bit5_lt, bit5_back, if_true]

theorem redOr (w : BitVec 1) (a : BitVec 5) (b : BitVec 5) (s : BitVec 3) (o : BitVec 2) : Statement (.redOr w a b s o) := by
  refine ofA (by decide) (by decide) rfl ?_
  rw [rawA33 _ _ _ _ _ _ (by decide)]
  simp only [decodeRed, bit5_lt, bit5_back, if_true]

theorem redXor (w : BitVec 1) (a : BitVec 5) (b : BitVec 5) (s : BitVec 3) (o : BitVec 2) : Statement (.redXor w a b s o) := by
  refine ofA (by decide) (by decide) rfl ?_
  rw [rawA33 _ _ _ _ _ _ (by decide)]
  simp only [decodeRed, bit5_lt, bit5_back, if_true]

theorem redMin (w : BitVec 1) (a : BitVec 5) (b : BitVec 5) (s : BitVec 3) (o : BitVec 2) : Statement (.redMin w a b s o) := by
  refine ofA (by decide) (by decide) rfl ?_
  rw [rawA33 _ _ _ _ _ _ (by decide)]
  simp only [decodeRed, bit5_lt, bit5_back, if_true]

theorem redMax (w : BitVec 1) (a : BitVec 5) (b : BitVec 5) (s : BitVec 3) (o : BitVec 2) : Statement (.redMax w a b s o) := by
  refine ofA (by decide) (by decide) rfl ?_
  rw [rawA33 _ _ _ _ _ _ (by decide)]
  simp only [decodeRed, bit5_lt, bit5_back, if_true]

theorem redMinu (w : BitVec 1) (a : BitVec 5) (b : BitVec 5) (s : BitVec 3) (o : BitVec 2) : Statement (.redMinu w a b s o) := by
  refine ofA (by decide) (by decide) rfl ?_
  rw [rawA33 _ _ _ _ _ _ (by decide)]
  simp only [decodeRed, bit5_lt, bit5_back, if_true]

theorem redMaxu (w : BitVec 1) (a : BitVec 5) (b : BitVec 5) (s : BitVec 3) (o : BitVec 2) : Statement (.redMaxu w a b s o) := by
  refine ofA (by decide) (by decide) rfl ?_
  rw [rawA33 _ _ _ _ _ _ (by decide)]
  simp only [decodeRed, bit5_lt, bit5_back, if_true]

theorem redFadd (w : BitVec 1) (a : BitVec 5) (b : BitVec 5) (s : BitVec 3) (o : BitVec 2) : Statement (.redFadd w a b s o) := by
  refine ofA (by decide) (by decide) rfl ?_
  rw [rawA33 _ _ _ _ _ _ (by decide)]
  simp only [decodeRed, bit5_lt, bit5_back, if_true]

theorem redFmin (w : BitVec 1) (a : BitVec 5) (b : BitVec 5) (s : BitVec 3) (o : BitVec 2) : Statement (.redFmin w a b s o) := by
  refine ofA (by decide) (by decide) rfl ?_
  rw [rawA33 _ _ _ _ _ _ (by decide)]
  simp only [decodeRed, bit5_lt, bit5_back, if_true]

theorem redFmax (w : BitVec 1) (a : BitVec 5) (b : BitVec 5) (s : BitVec 3) (o : BitVec 2) : Statement (.redFmax w a b s o) := by
  refine ofA (by decide) (by decide) rfl ?_
  rw [rawA33 _ _ _ _ _ _ (by decide)]
  simp only [decodeRed, bit5_lt, bit5_back, if_true]

theorem garrive (d : BitVec 5) (a : BitVec 5) (s : BitVec 3) (o : BitVec 2) : Statement (.garrive d a s o) := by
  refine ofA (by decide) (by decide) rfl ?_
  rw [rawA35 _ _ _ _ _ _ (by decide)]
  simp only [decodeSync, if_true]

theorem gwait (d : BitVec 5) (a : BitVec 5) (s : BitVec 3) (o : BitVec 2) : Statement (.gwait d a s o) := by
  refine ofA (by decide) (by decide) rfl ?_
  rw [rawA35 _ _ _ _ _ _ (by decide)]
  simp only [decodeSync, if_true]

theorem gbar (d : BitVec 5) (a : BitVec 5) (s : BitVec 3) (o : BitVec 2) : Statement (.gbar d a s o) := by
  refine ofA (by decide) (by decide) rfl ?_
  rw [rawA35 _ _ _ _ _ _ (by decide)]
  simp only [decodeSync, if_true]

theorem gset (d : BitVec 5) (a : BitVec 5) (b : BitVec 5) : Statement (.gset d a b) := by
  refine ofA (by decide) (by decide) rfl ?_
  rw [rawA35 _ _ _ _ _ _ (by decide)]
  simp only [decodeSync, and_self, if_true]

theorem ginfo (d : BitVec 5) (a : BitVec 5) : Statement (.ginfo d a) := by
  refine ofA (by decide) (by decide) rfl ?_
  rw [rawA35 _ _ _ _ _ _ (by decide)]
  simp only [decodeSync, and_self, if_true]

theorem gcoll (d : BitVec 5) (a : BitVec 5) (b : BitVec 5) (s : BitVec 3) : Statement (.gcoll d a b s) := by
  refine ofA (by decide) (by decide) rfl ?_
  rw [rawA35 _ _ _ _ _ _ (by decide)]
  simp only [decodeSync, if_true]

theorem galloc (d : BitVec 5) (a : BitVec 5) : Statement (.galloc d a) := by
  refine ofA (by decide) (by decide) rfl ?_
  rw [rawA35 _ _ _ _ _ _ (by decide)]
  simp only [decodeSync, and_self, if_true]

theorem gfree (d : BitVec 5) (a : BitVec 5) : Statement (.gfree d a) := by
  refine ofA (by decide) (by decide) rfl ?_
  rw [rawA35 _ _ _ _ _ _ (by decide)]
  simp only [decodeSync, and_self, if_true]

theorem qsel (a : BitVec 5) : Statement (.qsel a) := by
  refine ofA (by decide) (by decide) rfl ?_
  rw [rawA36 _ _ _ _ _ _ (by decide)]
  simp only [decodeQ, and_self, if_true]

theorem qlen (d : BitVec 5) (q : BitVec 2) : Statement (.qlen d q) := by
  refine ofA (by decide) (by decide) rfl ?_
  rw [rawA36 _ _ _ _ _ _ (by decide)]
  simp only [decodeQ, q5_lt, q5_back, and_self, if_true]

theorem qpeek (d : BitVec 5) (q : BitVec 2) : Statement (.qpeek d q) := by
  refine ofA (by decide) (by decide) rfl ?_
  rw [rawA36 _ _ _ _ _ _ (by decide)]
  simp only [decodeQ, q5_lt, q5_back, and_self, if_true]

theorem sopen (d : BitVec 5) (a : BitVec 3) (b : BitVec 4) : Statement (.sopen d a b) := by
  refine ofA (by decide) (by decide) rfl ?_
  rw [rawA40 _ _ _ _ _ _ (by decide)]
  simp only [decodeStrm, p5_lt, p5_back, r5_lt, r5_back, and_self, if_true]

theorem sclose (d : BitVec 5) (a : BitVec 3) : Statement (.sclose d a) := by
  refine ofA (by decide) (by decide) rfl ?_
  rw [rawA40 _ _ _ _ _ _ (by decide)]
  simp only [decodeStrm, p5_lt, p5_back, and_self, if_true]

theorem sbar (m : BitVec 3) (s : BitVec 3) : Statement (.sbar m s) := by
  refine ofA (by decide) (by decide) rfl ?_
  rw [rawA40 _ _ _ _ _ _ (by decide)]
  simp only [decodeStrm, p5_lt, p5_back, and_self, if_true]

theorem sstat (d : BitVec 5) (a : BitVec 3) : Statement (.sstat d a) := by
  refine ofA (by decide) (by decide) rfl ?_
  rw [rawA40 _ _ _ _ _ _ (by decide)]
  simp only [decodeStrm, p5_lt, p5_back, and_self, if_true]

theorem slink (d : BitVec 5) (a : BitVec 3) (b : BitVec 3) : Statement (.slink d a b) := by
  refine ofA (by decide) (by decide) rfl ?_
  rw [rawA40 _ _ _ _ _ _ (by decide)]
  simp only [decodeStrm, p5_lt, p5_back, and_self, if_true]

theorem copy (d : BitVec 5) (a : BitVec 5) (b : BitVec 5) (s : BitVec 3) : Statement (.copy d a b s) := by
  refine ofA (by decide) (by decide) rfl ?_
  rw [rawA41 _ _ _ _ _ _ (by decide)]
  simp only [decodeCopy, if_true]

theorem cpflush : Statement .cpflush := by
  refine ofA (by decide) (by decide) rfl ?_
  rw [rawA41 _ _ _ _ _ _ (by decide)]
  simp only [decodeCopy, and_self, if_true]

theorem cpstat (d : BitVec 5) : Statement (.cpstat d) := by
  refine ofA (by decide) (by decide) rfl ?_
  rw [rawA41 _ _ _ _ _ _ (by decide)]
  simp only [decodeCopy, and_self, if_true]

theorem pgload (d : BitVec 5) (q : BitVec 2) (b : BitVec 5) : Statement (.pgload d q b) := by
  refine ofA (by decide) (by decide) rfl ?_
  rw [rawA42 _ _ _ _ _ _ (by decide)]
  simp only [decodeWing, q5_lt, q5_back, and_self, if_true]

theorem pgcast (d : BitVec 5) (a : BitVec 5) (b : BitVec 5) : Statement (.pgcast d a b) := by
  refine ofA (by decide) (by decide) rfl ?_
  rw [rawA42 _ _ _ _ _ _ (by decide)]
  simp only [decodeWing, and_self, if_true]

theorem pgbind (d : BitVec 5) (a : BitVec 5) (b : BitVec 5) : Statement (.pgbind d a b) := by
  refine ofA (by decide) (by decide) rfl ?_
  rw [rawA42 _ _ _ _ _ _ (by decide)]
  simp only [decodeWing, and_self, if_true]

theorem pgdrop (d : BitVec 5) (q : BitVec 2) : Statement (.pgdrop d q) := by
  refine ofA (by decide) (by decide) rfl ?_
  rw [rawA42 _ _ _ _ _ _ (by decide)]
  simp only [decodeWing, q5_lt, q5_back, and_self, if_true]

theorem pgstat (d : BitVec 5) (q : BitVec 2) : Statement (.pgstat d q) := by
  refine ofA (by decide) (by decide) rfl ?_
  rw [rawA42 _ _ _ _ _ _ (by decide)]
  simp only [decodeWing, q5_lt, q5_back, and_self, if_true]

theorem wload (d : BitVec 5) (m : BitVec 4) (b : BitVec 5) : Statement (.wload d m b) := by
  refine ofA (by decide) (by decide) rfl ?_
  rw [rawA42 _ _ _ _ _ _ (by decide)]
  simp only [decodeWing, r5_lt, r5_back, and_self, if_true]

theorem wdrop (d : BitVec 5) (b : BitVec 5) : Statement (.wdrop d b) := by
  refine ofA (by decide) (by decide) rfl ?_
  rw [rawA42 _ _ _ _ _ _ (by decide)]
  simp only [decodeWing, and_self, if_true]

theorem wpoke (d : BitVec 5) (q : BitVec 2) (b : BitVec 5) : Statement (.wpoke d q b) := by
  refine ofA (by decide) (by decide) rfl ?_
  rw [rawA42 _ _ _ _ _ _ (by decide)]
  simp only [decodeWing, q5_lt, q5_back, and_self, if_true]

theorem gload (d : BitVec 5) (c : BitVec 2) (b : BitVec 5) : Statement (.gload d c b) := by
  refine ofA (by decide) (by decide) rfl ?_
  rw [rawA43 _ _ _ _ _ _ (by decide)]
  simp only [decodeGram, q5_lt, q5_back, and_self, if_true]

theorem gstart (d : BitVec 5) (c : BitVec 2) (s : BitVec 3) : Statement (.gstart d c s) := by
  refine ofA (by decide) (by decide) rfl ?_
  rw [rawA43 _ _ _ _ _ _ (by decide)]
  simp only [decodeGram, q5_lt, q5_back, p5_lt, p5_back, and_self, if_true]

theorem gstop (d : BitVec 5) (c : BitVec 2) : Statement (.gstop d c) := by
  refine ofA (by decide) (by decide) rfl ?_
  rw [rawA43 _ _ _ _ _ _ (by decide)]
  simp only [decodeGram, q5_lt, q5_back, and_self, if_true]

theorem gstat (d : BitVec 5) (c : BitVec 2) : Statement (.gstat d c) := by
  refine ofA (by decide) (by decide) rfl ?_
  rw [rawA43 _ _ _ _ _ _ (by decide)]
  simp only [decodeGram, q5_lt, q5_back, and_self, if_true]

theorem waita (d : BitVec 5) (c : BitVec 2) : Statement (.waita d c) := by
  refine ofA (by decide) (by decide) rfl ?_
  rw [rawA43 _ _ _ _ _ _ (by decide)]
  simp only [decodeGram, q5_lt, q5_back, and_self, if_true]

theorem actdone (c : BitVec 2) : Statement (.actdone c) := by
  refine ofA (by decide) (by decide) rfl ?_
  rw [rawA43 _ _ _ _ _ _ (by decide)]
  simp only [decodeGram, q5_lt, q5_back, and_self, if_true]

theorem spawn (d : BitVec 5) (a : BitVec 5) (b : BitVec 5) : Statement (.spawn d a b) := by
  refine ofA (by decide) (by decide) rfl ?_
  rw [rawA44 _ _ _ _ _ _ (by decide)]
  simp only [decodeTask, and_self, if_true]

theorem retire : Statement .retire := by
  refine ofA (by decide) (by decide) rfl ?_
  rw [rawA44 _ _ _ _ _ _ (by decide)]
  simp only [decodeTask, and_self, if_true]

theorem yield : Statement .yield := by
  refine ofA (by decide) (by decide) rfl ?_
  rw [rawA44 _ _ _ _ _ _ (by decide)]
  simp only [decodeTask, and_self, if_true]

theorem twatch (d : BitVec 5) (a : BitVec 5) : Statement (.twatch d a) := by
  refine ofA (by decide) (by decide) rfl ?_
  rw [rawA44 _ _ _ _ _ _ (by decide)]
  simp only [decodeTask, and_self, if_true]

theorem tstat (d : BitVec 5) (a : BitVec 5) : Statement (.tstat d a) := by
  refine ofA (by decide) (by decide) rfl ?_
  rw [rawA44 _ _ _ _ _ _ (by decide)]
  simp only [decodeTask, and_self, if_true]

theorem tkill (d : BitVec 5) (a : BitVec 5) : Statement (.tkill d a) := by
  refine ofA (by decide) (by decide) rfl ?_
  rw [rawA44 _ _ _ _ _ _ (by decide)]
  simp only [decodeTask, and_self, if_true]

theorem xgate (d : BitVec 5) (a : BitVec 5) (b : BitVec 5) : Statement (.xgate d a b) := by
  refine ofA (by decide) (by decide) rfl ?_
  rw [rawA45 _ _ _ _ _ _ (by decide)]
  simp only [decodeXde, and_self, if_true]

theorem xtopk (d : BitVec 5) (a : BitVec 5) (b : BitVec 5) : Statement (.xtopk d a b) := by
  refine ofA (by decide) (by decide) rfl ?_
  rw [rawA45 _ _ _ _ _ _ (by decide)]
  simp only [decodeXde, and_self, if_true]

theorem xbin (d : BitVec 5) (a : BitVec 5) (b : BitVec 5) : Statement (.xbin d a b) := by
  refine ofA (by decide) (by decide) rfl ?_
  rw [rawA45 _ _ _ _ _ _ (by decide)]
  simp only [decodeXde, and_self, if_true]

theorem xsend (d : BitVec 5) (a : BitVec 5) (b : BitVec 5) : Statement (.xsend d a b) := by
  refine ofA (by decide) (by decide) rfl ?_
  rw [rawA45 _ _ _ _ _ _ (by decide)]
  simp only [decodeXde, and_self, if_true]

theorem xrecv (d : BitVec 5) (a : BitVec 5) (b : BitVec 5) : Statement (.xrecv d a b) := by
  refine ofA (by decide) (by decide) rfl ?_
  rw [rawA45 _ _ _ _ _ _ (by decide)]
  simp only [decodeXde, and_self, if_true]

theorem xbias (d : BitVec 5) (a : BitVec 5) (b : BitVec 5) : Statement (.xbias d a b) := by
  refine ofA (by decide) (by decide) rfl ?_
  rw [rawA45 _ _ _ _ _ _ (by decide)]
  simp only [decodeXde, and_self, if_true]

theorem xstat (d : BitVec 5) (a : BitVec 5) : Statement (.xstat d a) := by
  refine ofA (by decide) (by decide) rfl ?_
  rw [rawA45 _ _ _ _ _ _ (by decide)]
  simp only [decodeXde, and_self, if_true]

theorem liw (d : BitVec 5) (i : BitVec 32) : Statement (.liw d i) := by
  refine ofX (by decide) rfl ?_
  rw [rawX _ _ _ _ _ _ _ (by decide)]
  simp only [decodeExt, and_self, if_true]

theorem lih (d : BitVec 5) (i : BitVec 32) : Statement (.lih d i) := by
  refine ofX (by decide) rfl ?_
  rw [rawX _ _ _ _ _ _ _ (by decide)]
  simp only [decodeExt, and_self, if_true]

theorem amocCas (d : BitVec 5) (a : BitVec 5) (b : BitVec 5) (s : BitVec 3) (o : BitVec 2) (t : BitVec 10) (g : BitVec 22) : Statement (.amocCas d a b s o t g) := by
  refine ofX (by decide) rfl ?_
  rw [rawX _ _ _ _ _ _ _ (by decide)]
  simp only [decodeExt, packLaunch_t, packLaunch_g]

theorem amocDecz (d : BitVec 5) (a : BitVec 5) (s : BitVec 3) (o : BitVec 2) (t : BitVec 10) (g : BitVec 22) : Statement (.amocDecz d a s o t g) := by
  refine ofX (by decide) rfl ?_
  rw [rawX _ _ _ _ _ _ _ (by decide)]
  simp only [decodeExt, packLaunch_t, packLaunch_g, if_true]

theorem amocAddge (d : BitVec 5) (a : BitVec 5) (b : BitVec 5) (s : BitVec 3) (o : BitVec 2) (t : BitVec 10) (g : BitVec 22) : Statement (.amocAddge d a b s o t g) := by
  refine ofX (by decide) rfl ?_
  rw [rawX _ _ _ _ _ _ _ (by decide)]
  simp only [decodeExt, packLaunch_t, packLaunch_g]

theorem drainWrite (u : Nat) (q : Nat) : Statement (.drainWrite u q) := .inl rfl

theorem forward (u : Nat) (q : Nat) : Statement (.forward u q) := .inl rfl

theorem hit (u : Nat) (q : Nat) : Statement (.hit u q) := .inl rfl

theorem sendRead (u : Nat) (q : Nat) : Statement (.sendRead u q) := .inl rfl

theorem orderPoint (u : Nat) (q : Nat) : Statement (.orderPoint u q) := .inl rfl

theorem homeAmo (u : Nat) (q : Nat) : Statement (.homeAmo u q) := .inl rfl

theorem homeRed (u : Nat) (q : Nat) : Statement (.homeRed u q) := .inl rfl

theorem homeContinuation (u : Nat) (q : Nat) : Statement (.homeContinuation u q) := .inl rfl

theorem homeFullEmpty (u : Nat) (q : Nat) : Statement (.homeFullEmpty u q) := .inl rfl

theorem complete (u : Nat) (q : Nat) : Statement (.complete u q) := .inl rfl

theorem junction (u : Nat) (q : Nat) (u2 : Nat) (q2 : Nat) : Statement (.junction u q u2 q2) := .inl rfl

theorem remoteCacheFill (die : BitVec 3) (u : Nat) (q : Nat) : Statement (.remoteCacheFill die u q) := .inl rfl

theorem remoteCacheEvict (die : BitVec 3) (line : Nat) : Statement (.remoteCacheEvict die line) := .inl rfl

theorem remoteCacheInvalidate (die : BitVec 3) (line : Nat) : Statement (.remoteCacheInvalidate die line) := .inl rfl

theorem translationWalk (u : Nat) (va : BitVec 64) : Statement (.translationWalk u va) := .inl rfl

theorem inboxMapWrite (u : Nat) (q : Nat) : Statement (.inboxMapWrite u q) := .inl rfl

theorem mailboxPush (u : Nat) (q : Nat) : Statement (.mailboxPush u q) := .inl rfl

theorem peerQueueTransfer (u : Nat) (peer : BitVec 4) : Statement (.peerQueueTransfer u peer) := .inl rfl

theorem invalidatePage (u : Nat) (q : Nat) : Statement (.invalidatePage u q) := .inl rfl

theorem invalidateExpedition (u : Nat) (q : Nat) : Statement (.invalidateExpedition u q) := .inl rfl

theorem invalidateAll (u : Nat) (q : Nat) : Statement (.invalidateAll u q) := .inl rfl

theorem invalidationPerformed : Statement .invalidationPerformed := .inl rfl

theorem groupArrival (u : Nat) (q : Nat) : Statement (.groupArrival u q) := .inl rfl

theorem groupDeparture (u : Nat) (m : BitVec 2) : Statement (.groupDeparture u m) := .inl rfl

theorem collectiveCombine (e : Nat) (g : BitVec 8) : Statement (.collectiveCombine e g) := .inl rfl

theorem offsetsRead (n : BitVec 12) (p : BitVec 3) : Statement (.offsetsRead n p) := .inl rfl

theorem gatherEntryRead (n : BitVec 12) (p : BitVec 3) : Statement (.gatherEntryRead n p) := .inl rfl

theorem porterRead (n : BitVec 12) (p : BitVec 3) : Statement (.porterRead n p) := .inl rfl

theorem porterWrite (n : BitVec 12) (p : BitVec 3) : Statement (.porterWrite n p) := .inl rfl

theorem streamDrained (n : BitVec 12) (p : BitVec 3) : Statement (.streamDrained n p) := .inl rfl

theorem copyMove (n : BitVec 12) (c : BitVec 1) : Statement (.copyMove n c) := .inl rfl

theorem copyComplete (n : BitVec 12) (c : BitVec 1) : Statement (.copyComplete n c) := .inl rfl

theorem writePacketSend (n : BitVec 12) (i : Nat) : Statement (.writePacketSend n i) := .inl rfl

theorem cellDataFiring (n : BitVec 12) (q : BitVec 2) (i : BitVec 6) : Statement (.cellDataFiring n q i) := .inl rfl

theorem cellMarkStep (n : BitVec 12) (q : BitVec 2) (i : BitVec 6) : Statement (.cellMarkStep n q i) := .inl rfl

theorem cellScaleStep (n : BitVec 12) (q : BitVec 2) (i : BitVec 6) : Statement (.cellScaleStep n q i) := .inl rfl

theorem cellDirectiveStep (n : BitVec 12) (q : BitVec 2) (i : BitVec 6) : Statement (.cellDirectiveStep n q i) := .inl rfl

theorem cellEmitNext (n : BitVec 12) (q : BitVec 2) (i : BitVec 6) : Statement (.cellEmitNext n q i) := .inl rfl

theorem outputMove (n : BitVec 12) (q : BitVec 2) (i : BitVec 6) (xv : BitVec 1) : Statement (.outputMove n q i xv) := .inl rfl

theorem veinHop (n : BitVec 12) (q : BitVec 2) (i : BitVec 6) (d : BitVec 2) : Statement (.veinHop n q i d) := .inl rfl

theorem route (n : BitVec 12) (q : BitVec 2) (i : BitVec 6) (d : BitVec 2) : Statement (.route n q i d) := .inl rfl

theorem fork (n : BitVec 12) (q : BitVec 2) (i : BitVec 6) : Statement (.fork n q i) := .inl rfl

theorem steer (n : BitVec 12) (q : BitVec 2) (i : BitVec 6) : Statement (.steer n q i) := .inl rfl

theorem merge (n : BitVec 12) (q : BitVec 2) (i : BitVec 6) : Statement (.merge n q i) := .inl rfl

theorem carry (n : BitVec 12) (q : BitVec 2) (i : BitVec 6) : Statement (.carry n q i) := .inl rfl

theorem inv (n : BitVec 12) (q : BitVec 2) (i : BitVec 6) : Statement (.inv n q i) := .inl rfl

theorem accUpdate (n : BitVec 12) (q : BitVec 2) (i : BitVec 6) : Statement (.accUpdate n q i) := .inl rfl

theorem waveOrderPerform (n : BitVec 12) (q : BitVec 2) (k : Nat) : Statement (.waveOrderPerform n q k) := .inl rfl

theorem bankPortAccess (u : Nat) (q : Nat) : Statement (.bankPortAccess u q) := .inl rfl

theorem firingAdmit (n : BitVec 12) (q : BitVec 2) : Statement (.firingAdmit n q) := .inl rfl

theorem pagerClose (n : BitVec 12) : Statement (.pagerClose n) := .inl rfl

theorem pagerCloseTimeout (n : BitVec 12) : Statement (.pagerCloseTimeout n) := .inl rfl

theorem pagerSave (n : BitVec 12) : Statement (.pagerSave n) := .inl rfl

theorem pagerLoad (n : BitVec 12) : Statement (.pagerLoad n) := .inl rfl

theorem pagerOpen (n : BitVec 12) : Statement (.pagerOpen n) := .inl rfl

theorem pageIdleExpiry (n : BitVec 12) (g : BitVec 8) : Statement (.pageIdleExpiry n g) := .inl rfl

theorem pagerExclusionExpiry (n : BitVec 12) (g : BitVec 8) : Statement (.pagerExclusionExpiry n g) := .inl rfl

theorem parseStep (n : BitVec 12) (g : BitVec 2) : Statement (.parseStep n g) := .inl rfl

theorem contextForward (n : BitVec 12) (g : BitVec 2) : Statement (.contextForward n g) := .inl rfl

theorem skip (n : BitVec 12) (g : BitVec 2) : Statement (.skip n g) := .inl rfl

theorem recoveryPop (n : BitVec 12) (g : BitVec 2) : Statement (.recoveryPop n g) := .inl rfl

theorem inject (n : BitVec 12) (g : BitVec 2) : Statement (.inject n g) := .inl rfl

theorem post (n : BitVec 12) (g : BitVec 2) : Statement (.post n g) := .inl rfl

theorem command (n : BitVec 12) (g : BitVec 2) : Statement (.command n g) := .inl rfl

theorem trapAction (n : BitVec 12) (g : BitVec 2) : Statement (.trapAction n g) := .inl rfl

theorem launchDelivery (slice : BitVec 9) (e : Nat) : Statement (.launchDelivery slice e) := .inl rfl

theorem watchRegister (cv : Nat) (i : BitVec 2) : Statement (.watchRegister cv i) := .inl rfl

theorem yieldThreshold (cv : Nat) : Statement (.yieldThreshold cv) := .inl rfl

theorem dispatch (die : BitVec 3) : Statement (.dispatch die) := .inl rfl

theorem reserving (die : BitVec 3) : Statement (.reserving die) := .inl rfl

theorem aging (cv : Nat) : Statement (.aging cv) := .inl rfl

theorem spillRefill (die : BitVec 3) (e : Nat) : Statement (.spillRefill die e) := .inl rfl

theorem advertise (die : BitVec 3) : Statement (.advertise die) := .inl rfl

theorem migrationSend (die : BitVec 3) : Statement (.migrationSend die) := .inl rfl

theorem migrationReceive (die : BitVec 3) : Statement (.migrationReceive die) := .inl rfl

theorem moduleAdvertise (dev : BitVec 9) : Statement (.moduleAdvertise dev) := .inl rfl

theorem moduleMigration (die : BitVec 3) (dev : BitVec 9) : Statement (.moduleMigration die dev) := .inl rfl

theorem deadlockPreempt (die : BitVec 3) (e : Nat) : Statement (.deadlockPreempt die e) := .inl rfl

theorem saveWalk (u : Nat) : Statement (.saveWalk u) := .inl rfl

theorem gating (u : Nat) : Statement (.gating u) := .inl rfl

theorem saveCommit (u : Nat) : Statement (.saveCommit u) := .inl rfl

theorem restore (u : Nat) : Statement (.restore u) := .inl rfl

theorem heldBankWriteout (n : BitVec 12) : Statement (.heldBankWriteout n) := .inl rfl

theorem trapDelivery (u : Nat) : Statement (.trapDelivery u) := .inl rfl

theorem recordTake (k : BitVec 4) : Statement (.recordTake k) := .inl rfl

theorem age (n : BitVec 12) (edge : Nat) : Statement (.age n edge) := .inl rfl

theorem waitlong (n : BitVec 12) (edge : Nat) : Statement (.waitlong n edge) := .inl rfl

theorem eccError (site : EccSite) : Statement (.eccError site) := .inl rfl

theorem selfTest (site : TestUnit) (pass : Bool) : Statement (.selfTest site pass) := .inl rfl

theorem expeditionEnd (e : Nat) : Statement (.expeditionEnd e) := .inl rfl

theorem flitSend (link : BitVec 5) : Statement (.flitSend link) := .inl rfl

theorem dataFlitReceive (link : BitVec 5) (flit : List (BitVec 8)) : Statement (.dataFlitReceive link flit) := .inl rfl

theorem nak (link : BitVec 5) (flit : List (BitVec 8)) : Statement (.nak link flit) := .inl rfl

theorem idle (link : BitVec 5) : Statement (.idle link) := .inl rfl

theorem nakTimeout (link : BitVec 5) : Statement (.nakTimeout link) := .inl rfl

theorem replayTimeout (link : BitVec 5) : Statement (.replayTimeout link) := .inl rfl

theorem lossOfLock (link : BitVec 5) (lanes : BitVec 16) : Statement (.lossOfLock link lanes) := .inl rfl

theorem retrainComplete (link : BitVec 5) (good : BitVec 16) (ack : Option (BitVec 12)) : Statement (.retrainComplete link good ack) := .inl rfl

theorem packetForward (link : BitVec 5) : Statement (.packetForward link) := .inl rfl

theorem readPacket (link : BitVec 5) : Statement (.readPacket link) := .inl rfl

theorem writePacket (link : BitVec 5) : Statement (.writePacket link) := .inl rfl

theorem readData (link : BitVec 5) : Statement (.readData link) := .inl rfl

theorem atomicPacket (link : BitVec 5) : Statement (.atomicPacket link) := .inl rfl

theorem atomicResult (link : BitVec 5) : Statement (.atomicResult link) := .inl rfl

theorem writeDone (link : BitVec 5) : Statement (.writeDone link) := .inl rfl

theorem roundOpen (die : BitVec 3) : Statement (.roundOpen die) := .inl rfl

theorem gateMerge : Statement .gateMerge := .inl rfl

theorem xsendRowSend (die : BitVec 3) : Statement (.xsendRowSend die) := .inl rfl

theorem xdeRow : Statement .xdeRow := .inl rfl

theorem xdeResponse : Statement .xdeResponse := .inl rfl

theorem xsendFinish (die : BitVec 3) : Statement (.xsendFinish die) := .inl rfl

theorem xdeFinish : Statement .xdeFinish := .inl rfl

theorem xbinWork (die : BitVec 3) : Statement (.xbinWork die) := .inl rfl

theorem xbiasBuild : Statement .xbiasBuild := .inl rfl

theorem migrationPacket (link : BitVec 5) : Statement (.migrationPacket link) := .inl rfl

theorem advertisementPacket (link : BitVec 5) : Statement (.advertisementPacket link) := .inl rfl

theorem fifoWrite (port : BitVec 6) (off : Nat) (data : List (BitVec 8)) : Statement (.fifoWrite port off data) := .inl rfl

theorem pctlWrite (port : BitVec 6) (v : BitVec 64) : Statement (.pctlWrite port v) := .inl rfl

theorem launchStream (port : BitVec 6) (plan : LoadPlan) : Statement (.launchStream port plan) := .inl rfl

theorem feed (port : BitVec 6) : Statement (.feed port) := .inl rfl

theorem functionLevelReset : Statement .functionLevelReset := .inl rfl

theorem routingTableWrite (dev : BitVec 9) (v : BitVec 8) : Statement (.routingTableWrite dev v) := .inl rfl

theorem devidWrite (v : BitVec 64) : Statement (.devidWrite v) := .inl rfl

theorem powlimWrite (v : BitVec 64) : Statement (.powlimWrite v) := .inl rfl

theorem thermClear (v : BitVec 64) : Statement (.thermClear v) := .inl rfl

theorem attreq (addr : BitVec 64) : Statement (.attreq addr) := .inl rfl

theorem hostRegisterWrite (off : Nat) (v : BitVec 64) : Statement (.hostRegisterWrite off v) := .inl rfl

theorem boot : Statement .boot := .inl rfl

theorem recoveryImage (image : List (BitVec 8)) : Statement (.recoveryImage image) := .inl rfl

theorem moduleReset : Statement .moduleReset := .inl rfl

theorem governorWindow (n : BitVec 12) (q : BitVec 2) (i : BitVec 6) : Statement (.governorWindow n q i) := .inl rfl

theorem throttle (die : BitVec 3) : Statement (.throttle die) := .inl rfl

theorem trip : Statement .trip := .inl rfl

theorem bindingTransfer (n : BitVec 12) (src : BindSrc) : Statement (.bindingTransfer n src) := .inl rfl

theorem throttleRelease (die : BitVec 3) : Statement (.throttleRelease die) := .inl rfl

end Sys2Proof.Laws.RoundTrip
end

