-- ==== Sys2Proof/Tests/Slice0.lean ====
section
/-!
SUPPORT. Tests of the model: words written out bit by bit from the encodings of R68 to R76 and what they decode to; a term
for each well-formedness check, which it refuses; and, for the statements, states and operands that meet their
hypotheses, with what one step leaves there. Expected results are calculated by hand from the spec.
-/

namespace Sys2Proof.Tests

open Sys2Proof Sys2Proof.Machine Sys2Proof.Claims

-- one theorem at a time: in one text a hundred evaluations at once run out of memory
set_option Elab.async false

/-! ## Decoding: fields in the order of R68, highest bits first -/

-- ILL (R74), and the A-format families of R72: op, rd, ra, rb, fn [10:8], fn [7:6], index
theorem test_decode_ill : decodeWords [0b000000_00000_00000_00000_000_00_000101] = .ok (.ill 5, []) := by decide +kernel
theorem test_decode_alu : decodeWords [0b000001_00011_00100_00101_000_01_000001] = .ok (.sub 3 4 5 1, []) := by decide +kernel
theorem test_decode_cmp : decodeWords [0b001000_00010_00100_00101_000_00_000010] = .ok (.clt 2 4 5 0, []) := by decide +kernel
theorem test_decode_pred : decodeWords [0b001010_00001_00010_00011_000_00_000011] = .ok (.pandn 1 2 3, []) := by decide +kernel
theorem test_decode_sel : decodeWords [0b001010_00011_00100_00101_001_10_000111] = .ok (.sel 3 4 5 6, []) := by decide +kernel
theorem test_decode_fpu : decodeWords [0b001100_00011_00100_00101_001_11_000010] = .ok (.fmul 3 4 5 1 3, []) := by decide +kernel
theorem test_decode_fcvtfi : decodeWords [0b001100_00011_00100_00000_110_01_001001] = .ok (.fcvtfi 3 4 1 1 0 1, []) := by decide +kernel
theorem test_decode_desc : decodeWords [0b010110_01010_00100_00101_011_10_000001] = .ok (.dst 10 4 5 3 2, []) := by decide +kernel
theorem test_decode_jump : decodeWords [0b011010_00011_00100_00000_000_00_000001] = .ok (.jalr 3 4, []) := by decide +kernel
theorem test_decode_sys : decodeWords [0b011100_00000_00000_00000_100_11_000011] = .ok (.fence 4 3, []) := by decide +kernel
theorem test_decode_amo : decodeWords [0b100000_00011_00100_00101_010_01_001010] = .ok (.amoCas 3 4 5 2 1, []) := by decide +kernel
theorem test_decode_red : decodeWords [0b100001_00001_00100_00101_000_10_001001] = .ok (.redFmin 1 4 5 0 2, []) := by decide +kernel
theorem test_decode_sync : decodeWords [0b100011_00011_00100_00101_100_00_000101] = .ok (.gcoll 3 4 5 4, []) := by decide +kernel
theorem test_decode_q : decodeWords [0b100100_00011_00000_00010_000_00_000010] = .ok (.qpeek 3 2, []) := by decide +kernel
theorem test_decode_strm : decodeWords [0b101000_00011_00111_01111_000_00_000000] = .ok (.sopen 3 7 15, []) := by decide +kernel
theorem test_decode_copy : decodeWords [0b101001_00011_00100_00101_001_00_000000] = .ok (.copy 3 4 5 1, []) := by decide +kernel
theorem test_decode_wing : decodeWords [0b101010_00011_01001_00101_000_00_000101] = .ok (.wload 3 9 5, []) := by decide +kernel
theorem test_decode_gram : decodeWords [0b101011_00011_00010_00101_000_00_000001] = .ok (.gstart 3 2 5, []) := by decide +kernel
theorem test_decode_task : decodeWords [0b101100_00011_00100_00101_000_00_000000] = .ok (.spawn 3 4 5, []) := by decide +kernel
theorem test_decode_xde : decodeWords [0b101101_00011_00100_00101_000_00_000011] = .ok (.xsend 3 4 5, []) := by decide +kernel

-- the I format: op, rd, ra, imm16
theorem test_decode_addi : decodeWords [0b000010_00011_00100_1111111111111110] = .ok (.addi 3 4 0xFFFE, []) := by decide +kernel
theorem test_decode_andi : decodeWords [0b000011_00011_00100_0000000000000111] = .ok (.andi 3 4 7, []) := by decide +kernel
theorem test_decode_ori : decodeWords [0b000100_00011_00100_1000000000000000] = .ok (.ori 3 4 0x8000, []) := by decide +kernel
theorem test_decode_xori : decodeWords [0b000101_00011_00100_0000000000000001] = .ok (.xori 3 4 1, []) := by decide +kernel
theorem test_decode_shift : decodeWords [0b000110_00011_00100_0000000_1_10_011111] = .ok (.sari 3 4 1 31, []) := by decide +kernel
theorem test_decode_lui : decodeWords [0b000111_00011_00000_0000000000000010] = .ok (.lui 3 2, []) := by decide +kernel
theorem test_decode_cmpi : decodeWords [0b001001_10_110_00100_1111111111111111] = .ok (.cmpiLtu 6 4 0xFFFF, []) := by decide +kernel
theorem test_decode_mfc : decodeWords [0b011101_00011_00000_0000000_100000001] = .ok (.mfc 3 0x101, []) := by decide +kernel
theorem test_decode_mtc : decodeWords [0b011110_00000_00100_0000000_000010010] = .ok (.mtc 4 18, []) := by decide +kernel

-- the M format: op, rd, ra, sz, ord, off12
theorem test_decode_ld : decodeWords [0b010000_00011_00100_10_01_111111111000] = .ok (.ld 3 4 2 1 0xFF8, []) := by decide +kernel
theorem test_decode_ldu : decodeWords [0b010001_00011_00100_00_00_000000000001] = .ok (.ldu 3 4 0 0 1, []) := by decide +kernel
theorem test_decode_st : decodeWords [0b010010_00011_00100_11_10_000000001000] = .ok (.st 3 4 3 2 8, []) := by decide +kernel
theorem test_decode_ldf : decodeWords [0b010011_00011_00100_11_01_000000000000] = .ok (.ldfe 3 4 3 0, []) := by decide +kernel
theorem test_decode_stf : decodeWords [0b010100_00000_00100_11_10_000000000000] = .ok (.sete 4 3 0, []) := by decide +kernel
theorem test_decode_pref : decodeWords [0b010101_00001_00100_00_00_000001000000] = .ok (.prefW 4 0x40, []) := by decide +kernel

-- the B format: op, neg, pred, off22
theorem test_decode_br : decodeWords [0b011000_1_010_1111111111111111111111] = .ok (.br 1 2 0x3FFFFF, []) := by decide +kernel
theorem test_decode_call : decodeWords [0b011001_0_111_0000000000000000000010] = .ok (.call 0 7 2, []) := by decide +kernel

-- the X format: word 0 as A, word 1 an immediate, or template and tag
theorem test_decode_lih : decodeWords [0b111111_00011_00000_00000_000_00_000001, 0x89ABCDEF] = .ok (.lih 3 0x89ABCDEF, []) := by
  decide +kernel
theorem test_decode_amoc : decodeWords [0b111111_00011_00100_00101_001_11_000100, 0b0000000101_0000000000000000001001] =
    .ok (.amocAddge 3 4 5 1 3 5 9, []) := by decide +kernel

-- bytes stand in memory lowest first (R67)
theorem test_decode_bytes : decode [0x00, 0x28, 0x64, 0x04] = .ok (.add 3 4 5 0, 4) := by decide +kernel

/-! ## Words and terms that are refused, each by the name of its check -/

theorem test_reject_major : decodeWords [0b111110_00000_00000_0000000000000000] = .error .unassignedMajor := by decide +kernel
theorem test_reject_index : decodeWords [0b000001_00011_00100_00101_000_00_011100] = .error .indexPastList := by decide +kernel
theorem test_reject_field : decodeWords [0b000001_00011_00100_00101_001_00_000000] = .error .reservedField := by decide +kernel
theorem test_reject_variant : decodeWords [0b010100_00011_00100_11_11_000000000000] = .error .badVariant := by decide +kernel
theorem test_reject_truncated : decodeWords [0b111111_00011_00000_00000_000_00_000000] = .error .truncated := by decide +kernel
theorem test_ill_scope : Instr.check (.fence 5 1) = some .badScope := by decide
theorem test_ill_order : Instr.check (.fence 0 0) = some .badOrder := by decide
theorem test_ill_red_order : Instr.check (.redAdd 0 4 5 0 1) = some .badOrder := by decide
theorem test_ill_branch : Instr.check (.br 1 7 0) = some .neverBranch := by decide
theorem test_ill_shift : Instr.check (.shli 3 4 1 32) = some .shiftAmount := by decide
theorem test_ill_source : Instr.check (.add 3 30 5 0) = some .portUse := by decide
theorem test_ill_result : Instr.check (.add 28 4 5 0) = some .portUse := by decide
theorem test_ill_pending : Instr.check (.ld 30 4 3 0 0) = some .portUse := by decide
theorem test_ill_queue : Instr.check (.qpeek 3 3) = some .badVariant := by decide
theorem test_ill_link : Instr.check (.flitSend 18) = some .noLink := by decide
theorem test_ill_flit : Instr.check (.dataFlitReceive 0 [0]) = some .badFlit := by decide
theorem test_well_formed : Instr.wellFormed (.add 30 31 29 1) = true := by decide

/-! ## A task that runs on serai 0 -/

/-- A task's drover: x4 and x5 as given, p1 true, pc 0x10000. -/
def D (x y : Word) : Drover :=
  { State.placeDrover with regs := { State.placeDrover.regs with x := (State.placeDrover.regs.x.set 4 x).set 5 y, p := 2 } }

/-- The module with a drover in focus, task 16 on serai 0, a NOP at its pc. -/
def S (d : Drover) : State :=
  { State.reset.withFetchWord 32 0x70000000 with
    focus := 16, chip := (State.reset.withFetchWord 32 0x70000000).chip.setDrover 16 d }

/-- What a step that goes on leaves: the drover in focus, and the module. -/
def dr? (o : Host.Outcome State Fault Refusal) : Option Drover :=
  match o with
  | .next t => t.cur?
  | _ => none

/-- See `dr?`. -/
def chip? (o : Host.Outcome State Fault Refusal) : Option Chip :=
  match o with
  | .next t => some t.chip
  | _ => none

/-- x[r] after a step. -/
def reg (o : Host.Outcome State Fault Refusal) (r : BitVec 5) : Option Word := (dr? o).map fun d => d.regs.getX r

/-- x3 after an instruction with sources x4 and x5. -/
def x3 (i : Instr) (x y : Word) : Option Word := reg (exec i (S (D x y))) 3

/-- Cause, TRAPPC and TRAPVAL of the trap that an instruction takes. -/
def trapOf (o : Host.Outcome State Fault Refusal) : Option (Nat × Word × Word) :=
  ((dr? o).bind (·.trap)).map fun t => (t.cause, t.pc, t.val)

theorem cur (d : Drover) : (S d).cur? = some d := by simp [S, State.cur?]

/-! ### Operands that may issue -/

theorem test_ready0 (x y : Word) : Ready0 (S (D x y)) (D x y) 3 := ⟨cur _, rfl, .inl (by decide)⟩
theorem test_ready1 (x y : Word) : Ready1 (S (D x y)) (D x y) 3 4 x := ⟨test_ready0 x y, rfl, _, rfl⟩
theorem test_ready2 (x y : Word) : Ready2 (S (D x y)) (D x y) 3 4 5 x y := ⟨test_ready0 x y, rfl, _, rfl⟩
theorem test_reads1 (x y : Word) : Reads1 (S (D x y)) (D x y) 4 x := ⟨cur _, rfl, _, rfl⟩
theorem test_reads2 (x y : Word) : Reads2 (S (D x y)) (D x y) 4 5 x y := ⟨cur _, rfl, _, rfl⟩
theorem test_ready_fma (x y : Word) : ReadyFma (S (D x y)) (D x y) 3 4 5 0 x y := ⟨cur _, by decide, rfl, rfl, _, _, rfl, rfl⟩
theorem test_ready1d (x y : Word) : ∃ d1, Ready1d (S (D x y)) (D x y) d1 3 4 x := ⟨_, cur _, rfl, rfl, by decide, rfl⟩
theorem test_ready2d (x y : Word) : ∃ d1, Ready2d (S (D x y)) (D x y) d1 3 4 5 x y := ⟨_, cur _, rfl, rfl, by decide, rfl⟩
theorem test_reads2d (x y : Word) : ∃ d1, Reads2d (S (D x y)) (D x y) d1 4 5 x y := ⟨_, cur _, rfl, rfl⟩
theorem test_reads_cas (x y : Word) : ∃ d1 d2, ReadsCas (S (D x y)) (D x y) d1 d2 3 4 5 x y 0 :=
  ⟨_, _, cur _, rfl, rfl, by decide, rfl, rfl⟩

/-- A result may be pushed: the caravan's own member 0, its queue empty. -/
theorem test_ready_push : Ready0 (S (D 1 2)) (D 1 2) 30 := ⟨cur _, rfl, .inr (by decide +kernel)⟩

/-! ### R106 to R110: values, with those that R106 lists -/

theorem test_add_wraps : x3 (.add 3 4 5 0) (BitVec.allOnes 64) 2 = some 1 := by decide +kernel
theorem test_sub_w : x3 (.sub 3 4 5 1) 0x100000000 1 = some (BitVec.allOnes 64) := by decide +kernel
theorem test_logic : x3 (.and 3 4 5) 12 10 = some 8 ∧ x3 (.or 3 4 5) 12 10 = some 14 ∧ x3 (.xor 3 4 5) 12 10 = some 6 ∧
    x3 (.andn 3 4 5) 12 10 = some 4 := by decide +kernel
theorem test_shl : x3 (.shl 3 4 5 0) 1 67 = some 8 := by decide +kernel
theorem test_shr_w : x3 (.shr 3 4 5 1) 0x180000000 4 = some 0x08000000 := by decide +kernel
theorem test_sar_w : x3 (.sar 3 4 5 1) 0x180000000 4 = some 0xFFFFFFFFF8000000 := by decide +kernel
theorem test_rol : x3 (.rol 3 4 5 0) 1 68 = some 0x10 := by decide +kernel
theorem test_mul_w : x3 (.mul 3 4 5 1) 0x10000 0x8000 = some 0xFFFFFFFF80000000 := by decide +kernel
theorem test_mulh : x3 (.mulh 3 4 5) (BitVec.allOnes 64) (BitVec.allOnes 64) = some 0 := by decide +kernel
theorem test_mulhu : x3 (.mulhu 3 4 5) (BitVec.allOnes 64) (BitVec.allOnes 64) = some 0xFFFFFFFFFFFFFFFE := by decide +kernel
theorem test_div : x3 (.div 3 4 5 0) 0x8000000000000000 (BitVec.allOnes 64) = some 0x8000000000000000 := by decide +kernel
theorem test_div_w : x3 (.div 3 4 5 1) 7 0 = some (BitVec.allOnes 64) := by decide +kernel
theorem test_divu : x3 (.divu 3 4 5 0) (BitVec.allOnes 64) 16 = some 0x0FFFFFFFFFFFFFFF := by decide +kernel
theorem test_rem : x3 (.rem 3 4 5 0) 7 0 = some 7 ∧ x3 (.rem 3 4 5 0) (-7) 2 = some (-1) := by decide +kernel
theorem test_remu : x3 (.remu 3 4 5 0) 7 4 = some 3 := by decide +kernel
theorem test_minmax : x3 (.min 3 4 5 0) (-1) 2 = some (-1) ∧ x3 (.max 3 4 5 0) (-1) 2 = some 2 ∧ x3 (.maxu 3 4 5 0) (-1) 2 = some (-1) := by
  decide +kernel
theorem test_minu_w : x3 (.minu 3 4 5 1) 0x80000000 0x90000000 = some 0xFFFFFFFF80000000 := by decide +kernel
theorem test_clz_w : x3 (.clz 3 4 1) 0x100000000 0 = some 32 := by decide +kernel
theorem test_ctz : x3 (.ctz 3 4 0) 8 0 = some 3 ∧ x3 (.ctz 3 4 0) 0 0 = some 64 := by decide +kernel
theorem test_popc : x3 (.popc 3 4 0) 0xF0F 0 = some 8 := by decide +kernel
theorem test_sext : x3 (.sextb 3 4) 0x180 0 = some (-128) ∧ x3 (.sexth 3 4) 0x8000 0 = some 0xFFFFFFFFFFFF8000 ∧
    x3 (.sextw 3 4) 0x80000000 0 = some 0xFFFFFFFF80000000 := by decide +kernel
theorem test_bswap : x3 (.bswap 3 4) 0x0102030405060708 0 = some 0x0807060504030201 := by decide +kernel
theorem test_trailing : isTrailing (0 : BitVec 32) 32 ∧ isTrailing (8 : Word) 3 := by
  refine ⟨⟨by decide, by simp, by simp⟩, ⟨by decide, by decide, by decide⟩⟩
theorem test_immediates : x3 (.addi 3 4 0xFFFF) 5 0 = some 4 ∧ x3 (.andi 3 4 0xFFFF) (-1) 0 = some 0xFFFF ∧
    x3 (.ori 3 4 0x8000) 1 0 = some 0x8001 ∧ x3 (.xori 3 4 3) 1 0 = some 2 := by decide +kernel
theorem test_shift_immediates : x3 (.shli 3 4 1 31) 1 0 = some 0xFFFFFFFF80000000 ∧ x3 (.shri 3 4 0 63) (-1) 0 = some 1 ∧
    x3 (.sari 3 4 0 63) (-2) 0 = some (-1) := by decide +kernel
theorem test_lui : x3 (.lui 3 0x8000) 0 0 = some 0xFFFFFFFF80000000 := by decide +kernel
theorem test_liw : x3 (.liw 3 0x80000000) 0 0 = some 0xFFFFFFFF80000000 := by decide +kernel
theorem test_lih : reg (exec (.lih 4 0x12345678) (S (D 0xAAAAAAAA9ABCDEF0 0))) 4 = some 0x123456789ABCDEF0 := by decide +kernel
theorem test_write_x0 : reg (exec (.add 0 4 5 0) (S (D 1 2))) 0 = some 0 := by decide +kernel

/-- p[k] after an instruction. -/
def pAfter (i : Instr) (k : BitVec 3) (x y : Word) : Option Bool := (dr? (exec i (S (D x y)))).map fun d => d.regs.getP k

theorem test_compares : pAfter (.ceq 2 4 5 1) 2 0x100000001 1 = some true ∧ pAfter (.cne 2 4 5 0) 2 0x100000001 1 = some true ∧
    pAfter (.clt 2 4 5 0) 2 (-1) 0 = some true ∧ pAfter (.cltu 2 4 5 0) 2 (-1) 0 = some false ∧
    pAfter (.cle 2 4 5 1) 2 0x80000000 0 = some true ∧ pAfter (.cleu 2 4 5 0) 2 3 3 = some true := by decide +kernel
theorem test_compare_immediates : pAfter (.cmpiEq 2 4 0xFFFF) 2 (-1) 0 = some true ∧ pAfter (.cmpiLt 2 4 0) 2 (-1) 0 = some true ∧
    pAfter (.cmpiLtu 2 4 0xFFFF) 2 5 0 = some true ∧ pAfter (.cmpiLe 2 4 5) 2 6 0 = some false := by decide +kernel
theorem test_predicates : pAfter (.pand 2 1 7) 2 0 0 = some true ∧ pAfter (.por 2 0 1) 2 0 0 = some true ∧
    pAfter (.pxor 2 1 1) 2 0 0 = some false ∧ pAfter (.pandn 2 1 0) 2 0 0 = some true ∧ pAfter (.pnot 2 0) 2 0 0 = some true ∧
    pAfter (.pset 2 4) 2 3 0 = some true ∧ pAfter (.pnot 7 7) 7 0 0 = some true := by decide +kernel
theorem test_pget_sel : x3 (.pget 3 1) 0 0 = some 1 ∧ x3 (.sel 3 4 5 1) 8 9 = some 8 ∧ x3 (.sel 3 4 5 0) 8 9 = some 9 := by decide +kernel

/-! ### R38, R111 to R113: floating point -/

-- 12/8 and 20/8 are ties: to even; 9/8 toward each side
theorem test_rounding : (0 : Nat) < 3 ∧ (roundTo .rne false 12 0 3).1 = 2 ∧ (roundTo .rne false 20 0 3).1 = 2 ∧
    (roundTo .rtz true 15 0 3).1 = 1 ∧ (roundTo .rdn true 9 0 3).1 = 2 ∧ (roundTo .rup false 9 0 3).1 = 2 := by decide +kernel
-- 1.5 + 2.25 = 3.75; 1.5 - 2.25 = -0.75; 1.5 * 2.25 = 3.375; 3 / 2 = 1.5; sqrt 4 = 2; 1.5 * 2 + 0 = 3
theorem test_fadd : x3 (.fadd 3 4 5 0 0) 0x3FC00000 0x40100000 = some 0x40700000 := by decide +kernel
theorem test_fsub : x3 (.fsub 3 4 5 1 0) 0x3FF8000000000000 0x4002000000000000 = some 0xBFE8000000000000 := by decide +kernel
theorem test_fmul : x3 (.fmul 3 4 5 0 0) 0x3FC00000 0x40100000 = some 0x40580000 := by decide +kernel
theorem test_fdiv : x3 (.fdiv 3 4 5 0 0) 0x40400000 0x40000000 = some 0x3FC00000 := by decide +kernel
theorem test_fadd_over : x3 (.fadd 3 4 5 0 0) 0x7F7FFFFF 0x7F7FFFFF = some 0x7F800000 ∧
    (dr? (exec (.fadd 3 4 5 0 1) (S (D 0x7F7FFFFF 0x7F7FFFFF)))).map (fun d => (d.regs.getX 3, d.ctl.fflags)) =
      some (0x7F7FFFFF, 5) := by decide +kernel
theorem test_fsqrt : x3 (.fsqrt 3 4 0 0) 0x40800000 0 = some 0x40000000 := by decide +kernel
theorem test_fma : x3 (.fma 3 4 5 0 0) 0x3FC00000 0x40000000 = some 0x40400000 := by decide +kernel
theorem test_fminmax : x3 (.fmin 3 4 5 0) 0xBF800000 0x3F800000 = some 0xBF800000 ∧ x3 (.fmax 3 4 5 0) 0xBF800000 0x3F800000 = some 0x3F800000 := by
  decide +kernel
theorem test_fcvt : x3 (.fcvtif 3 4 0 0 0 0) (-2) 0 = some 0xC0000000 ∧ x3 (.fcvtfi 3 4 0 0 0 1) 0xC0200000 0 = some (-2) := by decide +kernel
theorem test_fcvtff : x3 (.fcvtff 3 4 0 0) 0x3FF8000000000000 0 = some 0x3FC00000 := by decide +kernel
theorem test_nan : (fpFmt 0).decode (fpSrc 0 0x7FC00000) = .nan ∧ x3 (.fcvtfi 3 4 0 0 0 0) 0x7FC00000 0 = some 0 ∧
    pAfter (.fceq 2 4 5 0) 2 0x7FC00000 0x7FC00000 = some false := by decide +kernel
theorem test_to_int : ((fpFmt 0).decode (fpSrc 0 0x4F32D05E)).toInt (modeOf 0) (cvtLimits 1 0).1 (cvtLimits 1 0).2 = (2147483647, 48) ∧
    x3 (.fcvtfi 3 4 1 1 0 0) 0x4F32D05E 0 = some 0xB2D05E00 := by decide +kernel
theorem test_fcompares : pAfter (.fclt 2 4 5 0) 2 0xBF800000 0 = some true ∧ pAfter (.fcle 2 4 5 0) 2 0x80000000 0 = some true := by
  decide +kernel
theorem test_fclass : x3 (.fclass 3 4 0) 0x3F800000 0 = some 64 := by decide +kernel

/-! ### R114 to R140: memory instructions at issue -/

/-- The access that an instruction has put last into the drover's queues: kind, address, width, data. -/
def lastAcc (o : Host.Outcome State Fault Refusal) : Option (AccKind × Nat × Nat × Word) :=
  ((dr? o).bind fun d => d.mem.accs.getLast?).map fun a => (a.kind, a.pa, a.size, a.data)

/-- x4 points 16 bytes into the task's page; x5 is 9. -/
abbrev M : Drover := D 0x10010 9

theorem test_may_load : MayAccess (S M) M (mAt 0x10010 0xFF8) (ask1 .load 3 false false 3 0) State.placeLeaf :=
  ⟨rfl, by decide, by decide, rfl, rfl⟩
theorem test_may_full : MayAccess (S M) M (mAt 0x10010 0) (ask1 .ldf 3 true false 3 0) State.placeLeaf ∧
    MayAccess (S M) M (mAt 0x10010 0) (ask1 .ldfe 3 true false 3 0) State.placeLeaf ∧
    MayAccess (S M) M (mAt 0x10010 0) (ask1 .loadU 2 false false 3 0) State.placeLeaf :=
  ⟨⟨rfl, by decide, by decide, rfl, rfl⟩, ⟨rfl, by decide, by decide, rfl, rfl⟩, ⟨rfl, by decide, by decide, rfl, rfl⟩⟩
theorem test_may_store : MayAccess (S M) M (mAt 0x10010 0) (ask1 .store 3 false false 0 9) State.placeLeaf ∧
    MayAccess (S M) M (mAt 0x10010 0) (ask1 .stef 3 false true 0 9) State.placeLeaf ∧
    MayAccess (S M) M (mAt 0x10010 0) (ask1 .stf 3 false true 0 9) State.placeLeaf ∧
    MayAccess (S M) M (mAt 0x10010 0) (ask1 .sete 3 false true 0 0) State.placeLeaf :=
  ⟨⟨rfl, by decide, by decide, rfl, rfl⟩, ⟨rfl, by decide, by decide, rfl, rfl⟩, ⟨rfl, by decide, by decide, rfl, rfl⟩,
    ⟨rfl, by decide, by decide, rfl, rfl⟩⟩
theorem test_may_atomic : MayAccess (S M) M 0x10010 (askAmo (.amo 1) 8 0 0 3 9 0) State.placeLeaf ∧
    MayAccess (S M) M 0x10010 (askAmo .amoCas 8 0 0 3 9 0) State.placeLeaf ∧
    MayAccess (S M) M 0x10010 (askAmo (.red 0 true) 4 0 0 0 9 0) State.placeLeaf :=
  ⟨⟨rfl, by decide, by decide, rfl, rfl⟩, ⟨rfl, by decide, by decide, rfl, rfl⟩, ⟨rfl, by decide, by decide, rfl, rfl⟩⟩
theorem test_may_continue : MayAccess (S M) M 0x10010 (askCont .amocCas 8 0 0 3 9 0 5 6) State.placeLeaf ∧
    MayAccess (S M) M 0x10010 (askCont .amocDecz 8 0 0 3 0 0 5 6) State.placeLeaf ∧
    MayAccess (S M) M 0x10010 (askCont .amocAddge 16 0 0 3 9 0 5 6) State.placeLeaf :=
  ⟨⟨rfl, by decide, by decide, rfl, rfl⟩, ⟨rfl, by decide, by decide, rfl, rfl⟩, ⟨rfl, by decide, by decide, rfl, rfl⟩⟩
theorem test_may_desc : MayAccess (S (D 0x10000 0x80)) (D 0x10000 0x80) (0x10000 + 0x80) (ask16 .dload false false 0 10 (List.replicate 16 0)) State.placeLeaf ∧
    MayAccess (S (D 0x10000 0x80)) (D 0x10000 0x80) (0x10000 + 0x80) (ask16 .dstore false false 0 0 (descWords ((D 0x10000 0x80).regs.getD 10))) State.placeLeaf ∧
    look (D 0x10000 0x80).board.dpend 10 = none ∧ look (D 0x10000 0x80).board.dbad 10 = none :=
  ⟨⟨rfl, by decide, by decide, rfl, rfl⟩, ⟨rfl, by decide, by decide, rfl, rfl⟩, rfl, rfl⟩

theorem test_ld : lastAcc (exec (.ld 3 4 3 0 0xFF8) (S M)) = some (.load, 0x10008, 8, 0) ∧
    (dr? (exec (.ld 3 4 3 0 0xFF8) (S M))).map (fun d => look d.board.pend 3) = some (some (.access 1)) := by decide +kernel
theorem test_ldu : lastAcc (exec (.ldu 3 4 0 0 1) (S M)) = some (.loadU, 0x10011, 1, 0) := by decide +kernel
theorem test_st : lastAcc (exec (.st 5 4 1 0 2) (S M)) = some (.store, 0x10012, 2, 9) := by decide +kernel
theorem test_ldf : lastAcc (exec (.ldf 3 4 3 0) (S M)) = some (.ldf, 0x10010, 8, 0) ∧
    lastAcc (exec (.ldfe 3 4 3 0) (S M)) = some (.ldfe, 0x10010, 8, 0) := by decide +kernel
theorem test_stf : lastAcc (exec (.stef 5 4 3 0) (S M)) = some (.stef, 0x10010, 8, 9) ∧
    lastAcc (exec (.stf 5 4 3 0) (S M)) = some (.stf, 0x10010, 8, 9) ∧ lastAcc (exec (.sete 4 3 0) (S M)) = some (.sete, 0x10010, 8, 0) := by
  decide +kernel
theorem test_amo : lastAcc (exec (.amoMaxu 3 4 5 0 0) (S M)) = some (.amo 8, 0x10010, 8, 9) ∧
    lastAcc (exec (.amoCas 3 4 5 0 0) (S M)) = some (.amoCas, 0x10010, 8, 9) := by decide +kernel
theorem test_red : lastAcc (exec (.redFmax 1 4 5 0 0) (S M)) = some (.red 10 true, 0x10010, 4, 9) := by decide +kernel
theorem test_amoc : lastAcc (exec (.amocDecz 3 4 0 0 5 6) (S M)) = some (.amocDecz, 0x10010, 8, 0) ∧
    lastAcc (exec (.amocAddge 3 4 5 0 0 5 6) (S M)) = some (.amocAddge, 0x10010, 8, 9) := by decide +kernel
theorem test_dld : lastAcc (exec (.dld 10 4 5 0 0) (S (D 0x10000 0x80))) = some (.dload, 0x100F8, 8, 0) ∧
    (dr? (exec (.dld 10 4 5 0 0) (S (D 0x10000 0x80)))).map (fun d => (d.mem.accs.length, look d.board.dpend 10)) = some (16, some 16) := by
  decide +kernel
theorem test_dst : lastAcc (exec (.dst 10 4 5 0 0) (S (D 0x10000 0x80))) = some (.dstore, 0x100F8, 8, 0) := by decide +kernel
theorem test_pref : (dr? (exec (.prefR 4 0) (S M))).map (fun d => (d.regs.pc, d.mem.accs)) = some (0x10004, []) := by decide +kernel

-- R114, R75: misaligned by 1; no translation by the walker (the task has no page tables); no permission to write
theorem test_misaligned : trapOf (exec (.ld 3 4 3 0 1) (S M)) = some (2, 0x10000, 0x10011) ∧ (mAt 0x10010 1).toNat % width 3 ≠ 0 ∧
    M.room .load = true ∧ M.room .store = true ∧ trapOf (exec (.st 5 4 3 0 1) (S M)) = some (2, 0x10000, 0x10011) := by decide +kernel
theorem test_amo_misaligned : trapOf (exec (.amoAdd 3 4 5 0 0) (S (D 0x10004 9))) = some (2, 0x10000, 0x10004) := by decide +kernel
theorem test_no_translation : (S (D 0x200000000000000 0)).chip.translate 16 (D 0x200000000000000 0) 0x200000000000000 = .fault ∧
    trapOf (exec (.ld 3 4 3 0 0) (S (D 0x200000000000000 0))) = some (3, 0x10000, 0x200000000000000) := by decide +kernel
/-- A task whose page may not be read. -/
def noRead : Drover := { D 0x10010 9 with mem := { (D 0x10010 9).mem with tlb := [{ State.placeLeaf with canR := false }] } }
theorem test_no_permission : (S noRead).chip.translate 16 noRead 0x10010 = .leaf { State.placeLeaf with canR := false } ∧
    accessFault false { State.placeLeaf with canR := false } 0x10010 8 .load = some 4 ∧
    trapOf (exec (.ld 3 4 3 0 0) (S noRead)) = some (4, 0x10000, 0x10010) := by decide +kernel

/-! ### R119 to R125: control flow, system instructions, control registers -/

/-- The pc after an instruction. -/
def pcAfter (i : Instr) (d : Drover) : Option Word := (dr? (exec i (S d))).map fun d => d.regs.pc

theorem test_br : pcAfter (.br 0 1 0x3FFFFF) (D 0 0) = some 0xFFFC ∧ pcAfter (.br 1 1 4) (D 0 0) = some 0x10004 ∧
    pcAfter (.br 1 0 4) (D 0 0) = some 0x10010 := by decide +kernel
theorem test_call : ((D 0 0).regs.getP 1 ^^ (0 : BitVec 1) == 1) = true ∧ pcAfter (.call 0 1 4) (D 0 0) = some 0x10010 ∧
    reg (exec (.call 0 1 4) (S (D 0 0))) 27 = some 0x10004 := by decide +kernel
theorem test_call_not_taken : ((D 0 0).regs.getP 0 ^^ (0 : BitVec 1) == 1) = false ∧ pcAfter (.call 0 0 4) (D 0 0) = some 0x10004 ∧
    reg (exec (.call 0 0 4) (S (D 0 0))) 27 = some 0 := by decide +kernel
/-- lr awaits a load. -/
def lrPending : Drover := { D 0 0 with board := { (D 0 0).board with pend := [(27, .access 1)] } }
theorem test_call_waits : (look lrPending.board.pend 27).isSome = true ∧ pcAfter (.call 0 1 4) lrPending = some 0x10000 := by decide +kernel
theorem test_jr : pcAfter (.jr 4) (D 0x10020 0) = some 0x10020 ∧ trapOf (exec (.jr 4) (S (D 0x10022 0))) = some (2, 0x10000, 0x10022) := by
  decide +kernel
theorem test_jalr : pcAfter (.jalr 3 4) (D 0x10020 0) = some 0x10020 ∧ x3 (.jalr 3 4) 0x10020 0 = some 0x10004 ∧
    trapOf (exec (.jalr 3 4) (S (D 0x10022 0))) = some (2, 0x10000, 0x10022) := by decide +kernel

theorem test_ill : trapOf (exec (.ill 0) (S M)) = some (1, 0x10000, 0) ∧
    trapOf (exec (.illegalInstruction 0xF8000000) (S M)) = some (1, 0x10000, 0) := by decide +kernel
theorem test_trap : trapOf (exec (.trap 5) (S M)) = some (0x13, 0x10004, 9) ∧ trapOf (exec .brk (S M)) = some (0x12, 0x10004, 0) := by
  decide +kernel
theorem test_privileged : M.steward = false ∧ trapOf (exec .eret (S M)) = some (0x14, 0x10000, 0) ∧
    trapOf (exec .halt (S M)) = some (0x14, 0x10000, 0) := by decide +kernel
theorem test_nop : pcAfter .nop M = some 0x10004 := by decide +kernel
theorem test_fence : lastAcc (exec (.fence 4 3) (S M)) = some (.fence, 0, 0, 0) ∧ M.readsHeld < 16 ∧ M.writesHeld < 32 := by decide +kernel
/-- One entry stands in the mailbox, one in the action port, one in the inbound queue. -/
def queued : Drover :=
  { M with queues := { M.queues with mbx := [⟨7, 0, []⟩, ⟨5, 0, []⟩], act := [⟨8, 0, []⟩], inq := [⟨9, 0, []⟩] } }
theorem test_sleep : pcAfter .sleep queued = some 0x10004 ∧ queued.queues.mbx ≠ [] ∧ (dr? (exec .sleep (S M))).map (·.hold) = some .sleep ∧
    M.hold = .idle ∧ M.queues.mbx = [] ∧ M.queues.act = [] ∧ M.queues.inq = [] := by decide +kernel
theorem test_iflush : M.mem.accs = [] ∧ pcAfter .iflush M = some 0x10004 := by decide +kernel

theorem test_mfc : x3 (.mfc 3 0) 0 0 = some 1 ∧ x3 (.mfc 3 2) 0 0 = some 0 ∧ x3 (.mfc 3 18) 0 0 = some 0x10000 ∧
    (S (D 0 0)).chip.task? 16 ≠ none ∧ (S (D 0 0)).chip.caravan? 1 ≠ none := by decide +kernel
theorem test_mfc_bounds : trapOf (exec (.mfc 3 6) (S M)) = some (1, 0x10000, 0) ∧ trapOf (exec (.mfc 3 22) (S M)) = some (1, 0x10000, 0) ∧
    trapOf (exec (.mfc 3 0xFF) (S M)) = some (1, 0x10000, 0) ∧ trapOf (exec (.mfc 3 0x100) (S M)) = some (0x14, 0x10000, 0) ∧
    trapOf (exec (.mfc 3 0x106) (S M)) = some (0x14, 0x10000, 0) ∧ trapOf (exec (.mfc 3 0x107) (S M)) = some (1, 0x10000, 0) := by
  decide +kernel
theorem test_mtc : (dr? (exec (.mtc 4 16) (S (D 0x3F 0)))).map (·.ctl.fflags) = some 0x1F ∧
    (dr? (exec (.mtc 4 18) (S (D 5 0)))).map (·.ctl.yieldth) = some 1024 ∧
    (dr? (exec (.mtc 4 19) (S (D 1 0)))).map (fun d => (d.ctl.arm, look d.board.pend 24)) = some (1, some .inbox) ∧
    (D 1 0).armStall 19 1 = none := by decide +kernel
theorem test_mtc_bounds : trapOf (exec (.mtc 4 15) (S M)) = some (1, 0x10000, 0) ∧ trapOf (exec (.mtc 4 21) (S M)) = some (1, 0x10000, 0) ∧
    trapOf (exec (.mtc 4 0x101) (S M)) = some (1, 0x10000, 0) ∧ trapOf (exec (.mtc 4 0x102) (S M)) = some (0x14, 0x10000, 0) ∧
    trapOf (exec (.mtc 4 0x104) (S M)) = some (1, 0x10000, 0) := by decide +kernel

/-! ### R16 to R18, R155: what waits, and the queue ports -/

/-- x4 awaits a load; x6 holds a late error. -/
def pending4 : Drover :=
  { M with board := { M.board with pend := [(4, .access 1)], late := [(6, { cause := 6, val := 0x40, origin := 0, aux0 := 0 })] } }
theorem test_pending : pending4.srcStall [4] ≠ none ∧ pending4.srcStall [4, 5] ≠ none ∧ pending4.dstStall 4 ≠ none ∧
    (dr? (exec (.add 3 4 5 0) (S pending4))).map (·.regs) = some pending4.regs ∧
    (dr? (exec (.addi 4 5 0) (S pending4))).map (·.regs) = some pending4.regs := by decide +kernel
theorem test_late_error : look pending4.board.late 6 ≠ none ∧ trapOf (exec (.addi 3 6 0) (S pending4)) = some (6, 0x10000, 0x40) := by
  decide +kernel
theorem test_ports : queued.board.pend = [] ∧ reg (exec (.addi 3 28 0) (S queued)) 3 = some 7 ∧ reg (exec (.addi 3 29 0) (S queued)) 3 = some 8 ∧
    reg (exec (.addi 3 31 0) (S queued)) 3 = some 9 ∧ reg (exec (.sub 3 28 28 0) (S queued)) 3 = some 2 := by decide +kernel
theorem test_ready_port : Ready0 (S queued) queued 3 := ⟨cur _, rfl, .inl (by decide)⟩
theorem test_qsel : (dr? (exec (.qsel 5) (S M))).map (·.ctl.qpeer) = some 9 := by decide +kernel
theorem test_qlen : reg (exec (.qlen 3 0) (S queued)) 3 = some 2 ∧ reg (exec (.qlen 3 3) (S queued)) 3 = some 16 := by decide +kernel
theorem test_qpeek : reg (exec (.qpeek 3 0) (S queued)) 3 = some 7 ∧ pcAfter (.qpeek 3 0) M = some 0x10000 := by decide +kernel

/-! ### R121, R324: a steward core -/

/-- Steward core 0, running. -/
def stew : Drover := { Drover.fresh true (some 0) with run := .running, stew := { (Drover.fresh true (some 0)).stew with trappc := 0x10008 } }
/-- A record that holds task 16, whose x1 is to keep what it received. -/
def heldRecord : Record :=
  { task := some 16, caravan := some 1, exp := 0, notask := false, fatal := false, defer := false, heldFlag := true, seq := 0, die := 0,
    serai := 0, req := M.trapAt 0x12 0, deferAcc := none, deferWatch := none, addr := 0x3FFFFE00000, pending := 2,
    image := [], clk := [] }
/-- The steward in focus, with task 16 held by its current record. -/
def SS : State :=
  { S { M with held := true } with
    focus := 0,
    chip := { ((S { M with held := true }).chip.setDrover 0 stew) with
      traps := { (S M).chip.traps with current := (S M).chip.traps.current.set 0 (some heldRecord) } } }
theorem test_eret : SS.cur? = some stew ∧ stew.steward = true ∧ (SS.chip.task? 16).map (·.alive) = some true ∧
    (SS.chip.drover? 16).map (fun d => (d.held, d.core)) = some (true, some 0) ∧
    (chip? (exec .eret SS)).map (fun c => ((c.drover? 16).map fun d => (d.regs.pc, d.held), c.traps.current[0])) =
      some (some (0x10008, false), none) := by decide +kernel
theorem test_halt : (dr? (exec .halt SS)).map (·.run) = some .halted := by decide +kernel
theorem test_no_engine : exec .cpflush SS = .refused .noEngine := rfl

/-! ## Engine commands of the task on serai 0 -/

/-- The task's module with serai 0 as given. -/
def V (d : Drover) (v : Serai) : State := { S d with chip := (S d).chip.setSerai 0 v }

theorem test_cmd (x y : Word) (v : Serai) : Cmd (V (D x y) v) (D x y) 0 3 := ⟨⟨rfl, rfl, rfl⟩, rfl, by decide⟩
theorem test_in_serai (x y : Word) : InSerai (S (D x y)) (D x y) 0 := ⟨rfl, rfl, rfl⟩

/-- Serai 0 after a step. -/
def ser (o : Host.Outcome State Fault Refusal) : Option Serai := (chip? o).map (·.serai 0)

/-! ### R147 to R153: groups -/

/-- An expedition with groups 0 (idle, of three) and 1 (one has arrived). -/
def exp0 : Expedition :=
  { templates := [(5, { entry := 0x10000, prio := 0, size := 1, pinned := false }), (6, { entry := 0, prio := 0, size := 1, pinned := false })],
    groups := [(0, Group.fresh 3), (1, { Group.fresh 2 with arrived := 1, arrivals := [(16, true)] })], home := 0, modules := [0], ptroot := 0,
    spillAddr := 0, spillCap := 0, spill := [], spillOpen := false, spillNoted := [], chrysalis := 0x100000, slots := 4, flog := 0,
    flogCap := 0, ageLim := 1000, waitLim := 1000, nextTask := 2, port := none, key := 0, ending := false }

/-- The task's module with expedition 0. -/
def G (d : Drover) : State := { S d with chip := (S d).chip.onSched fun s => { s with exps := [(0, exp0)] } }

/-- A member that has not arrived. -/
def idleMember : Member := { arrived := false, phase := none, wait := none, result := none, rels := [], freed := false }
/-- A member of group 0 that has not arrived, and of group 1 in four stages. -/
def MB (x y : Word) (m : Member) : Drover := { D x y with members := [(0, idleMember), (1, m)] }
/-- See `MB`. -/
def arrived : Member := { idleMember with arrived := true }

theorem test_group_refusals : x3 (.garrive 3 4 3 0) 256 0 = some (refusal 1) ∧ x3 (.gbar 3 4 3 0) 256 0 = some (refusal 1) ∧
    x3 (.gwait 3 4 3 0) 256 0 = some (refusal 1) ∧ x3 (.garrive 3 4 3 0) 255 0 = some (refusal 2) ∧
    x3 (.gbar 3 4 3 0) 255 0 = some (refusal 2) ∧ x3 (.gwait 3 4 3 0) 255 0 = some (refusal 2) := by decide +kernel
theorem test_group_twice : reg (exec (.garrive 3 4 3 0) (G (MB 1 0 arrived))) 3 = some (refusal 3) ∧
    reg (exec (.gbar 3 4 3 0) (G (MB 1 0 arrived))) 3 = some (refusal 3) ∧
    reg (exec (.gwait 3 4 3 0) (G (MB 0 0 arrived))) 3 = some (refusal 4) := by decide +kernel
theorem test_garrive : look (MB 0 0 arrived).members 0 = some idleMember ∧
    (MB 0 0 arrived).writesHeld < 32 ∧ reg (exec (.garrive 3 4 3 2) (G (MB 0 0 arrived))) 3 = some 0 ∧
    lastAcc (exec (.garrive 3 4 3 2) (G (MB 0 0 arrived))) = some (.arrive 0 false, 0, 0, 0) := by decide +kernel
theorem test_gbar : lastAcc (exec (.gbar 3 4 3 1) (G (MB 0 0 arrived))) = some (.phase 0, 0, 0, 0) ∧
    (dr? (exec (.gbar 3 4 3 1) (G (MB 0 0 arrived)))).map (fun d => look d.board.pend 3) = some (some (.group 0)) := by decide +kernel
theorem test_gwait : reg (exec (.gwait 3 4 3 1) (G (MB 1 0 { arrived with freed := true }))) 3 = some (refusal 1) ∧
    reg (exec (.gwait 3 4 3 1) (G (MB 1 0 { arrived with result := some 9 }))) 3 = some 9 ∧
    ((chip? (exec (.gwait 3 4 3 1) (G (MB 1 0 arrived)))).bind (·.group? 0 1)).map (·.waiters) = some [{ u := 16, rd := 3, acq := true, scope := 3 }] := by decide +kernel
theorem test_ready_group : Ready1d (G (MB 1 0 arrived)) (MB 1 0 arrived) (MB 1 0 arrived) 3 4 1 := ⟨rfl, rfl, rfl, by decide, rfl⟩

theorem test_group_exp : (G (D 0 1)).chip.groupExp (D 0 1) = some 0 ∧ ¬ underWay (Group.fresh 3) ∧
    underWay { Group.fresh 2 with arrived := 1, arrivals := [(16, true)] } := by
  refine ⟨by decide +kernel, by unfold underWay; decide, by unfold underWay; decide⟩
theorem test_gset : reg (exec (.gset 3 4 5) (G (D 256 1))) 3 = some (refusal 1) ∧ reg (exec (.gset 3 4 5) (G (D 0 0))) 3 = some (refusal 6) ∧
    reg (exec (.gset 3 4 5) (G (D 0 65536))) 3 = some (refusal 6) ∧ reg (exec (.gset 3 4 5) (G (D 1 65535))) 3 = some (refusal 5) ∧
    ((chip? (exec (.gset 3 4 5) (G (D 0 65535)))).bind (·.group? 0 0)).map (·.count) = some 65535 := by decide +kernel
theorem test_ginfo : reg (exec (.ginfo 3 4) (G (D 2 0))) 3 = some (BitVec.allOnes 64) ∧
    reg (exec (.ginfo 3 4) (G (D 1 0))) 3 = some 0x0002000100000000 := by decide +kernel
theorem test_gfree : reg (exec (.gfree 3 4) (G (D 256 0))) 3 = some (refusal 1) ∧ reg (exec (.gfree 3 4) (G (D 1 0))) 3 = some (refusal 5) ∧
    (chip? (exec (.gfree 3 4) (G (D 0 0)))).map (·.group? 0 0) = some none := by decide +kernel
theorem test_galloc : reg (exec (.galloc 3 4) (G (D 65536 0))) 3 = some (refusal 6) ∧ reg (exec (.galloc 3 4) (G (D 65535 0))) 3 = some 2 ∧
    ((chip? (exec (.galloc 3 4) (G (D 65535 0)))).bind (·.group? 0 2)).map (·.count) = some 65535 ∧
    ∀ j, j < 2 → look exp0.groups j ≠ none := by decide +kernel
/-- Every group id is taken. -/
def allTaken : Expedition := { exp0 with groups := (List.range 256).map fun k => (k, Group.fresh 1) }
theorem test_galloc_full : (∀ j, j < 256 → look allTaken.groups j ≠ none) ∧
    trapOf (exec (.galloc 3 4) { S (D 1 0) with chip := (S (D 1 0)).chip.onSched fun s => { s with exps := [(0, allTaken)] } }) = some (0x0F, 0x10000, 0) := by
  refine ⟨?_, by decide +kernel⟩
  decide +kernel

/-- Bank 1 of member 0's serai in the caravan window, where engines read their blocks, and its physical address. -/
abbrev W : Word := 0x01FFE00000010000
/-- See `W`. -/
abbrev PW : Nat := 0x80000010000
/-- A state with bytes at `W`. -/
def atW (s : State) (b : List Byte) : State := { s with chip := { s.chip with homes := { s.chip.homes with mem := s.chip.homes.mem.write PW b } } }

/-- Contributor 0's part of a reduction of one 64-bit sum, from W + 64 to W + 128. -/
def collBlock : List Byte := [0, 0, 5, 0] ++ bytesOf 1 4 ++ bytesOf 0 8 ++ bytesOf (W.toNat + 64) 8 ++ bytesOf (W.toNat + 128) 8 ++ List.replicate 32 0
/-- The participant, with its block. -/
def collState (p : List Byte) : State := atW (G (MB 0 W arrived)) p
theorem test_gcoll_refusals : x3 (.gcoll 3 4 5 3) 256 0 = some (refusal 1) ∧ x3 (.gcoll 3 4 5 3) 255 0 = some (refusal 2) ∧
    reg (exec (.gcoll 3 4 5 3) (G (MB 1 0 arrived))) 3 = some (refusal 3) ∧
    trapOf (exec (.gcoll 3 4 5 3) (G (MB 0 0x10001 arrived))) = some (2, 0x10000, 0x10001) ∧
    reg (exec (.gcoll 3 4 5 3) (collState (List.replicate 64 0xFF))) 3 = some (refusal 7) := by decide +kernel
theorem test_gcoll : collBad collBlock = false ∧ (MB 0 W arrived).writesInto W.toNat 64 = false ∧ (MB 0 W arrived).released = true ∧
    (match (collState collBlock).chip.readBlock (blockAgent 16) 16 (MB 0 W arrived) W.toNat 64 with
      | .ok p c => p == collBlock && (c.dropFar (blockAgent 16)).collFault 16 (MB 0 W arrived) p == none
      | _ => false) = true ∧
    (dr? (exec (.gcoll 3 4 5 3) (collState collBlock))).map (·.hold) = some .waiting ∧
    ((chip? (exec (.gcoll 3 4 5 3) (collState collBlock))).bind (·.group? 0 0)).map (·.arrived) = some 1 := by decide +kernel
theorem test_gcoll_holds : reg (exec (.gcoll 3 4 5 3) (S { M with hold := .result 77 })) 3 = some 77 ∧
    pcAfter (.gcoll 3 4 5 3) { M with hold := .waiting } = some 0x10000 := by decide +kernel

/-! ### R162 to R170: streams and copies -/

/-- A descriptor of R51: base, format, levels as extent and stride. -/
def descBits (base fmt : Nat) (lv : List (Nat × Nat)) : BitVec 1024 :=
  BitVec.ofNat 1024 (base + fmt * 2 ^ 58 + lv.length * 2 ^ 156 +
    (lv.zipIdx.map fun p => p.1.1 * 2 ^ (160 + 96 * p.2) + p.1.2 * 2 ^ (192 + 96 * p.2)).sum)
/-- x4 and x5 as given; d10 a tile of 4 by 1 signed bytes at `W`, d11 a tile of FP32. -/
def DT (x y : Word) : Drover :=
  { D x y with regs := { (D x y).regs with d := ((D x y).regs.d.set 10 (descBits W.toNat 0 [(4, 1), (1, 4)])).set 11 (descBits W.toNat 8 [(4, 1), (1, 4)]) } }
theorem test_cmd_tile (x y : Word) (v : Serai) : Cmd (V (DT x y) v) (DT x y) 0 4 ∧ Cmd (V (DT x y) v) (DT x y) 0 3 ∧ descHolds (DT x y) 10 ∧
    (DT x y).readX 16 4 = .ok (x, DT x y) := ⟨⟨⟨rfl, rfl, rfl⟩, rfl, by decide⟩, ⟨⟨rfl, rfl, rfl⟩, rfl, by decide⟩, ⟨rfl, rfl⟩, rfl⟩

/-- Serai 0 with porter 2 in a condition. -/
def porterIs (f : Porter → Porter) : Serai := Serai.reset.onPorter 2 f
/-- x[r] after an instruction of the task with serai 0 as given. -/
def rv (i : Instr) (r : BitVec 5) (d : Drover) (v : Serai) : Option Word := reg (exec i (V d v)) r

theorem test_sopen_refusals : rv (.sopen 4 2 10) 4 (DT 0 0) (porterIs fun q => { q with cond := 3 }) = some 1 ∧
    rv (.sopen 4 2 10) 4 (DT 4 0) Serai.reset = some 20 ∧ rv (.sopen 4 2 10) 4 (DT 2 0) Serai.reset = some 20 ∧
    rv (.sopen 4 2 12) 4 (DT 0 0) Serai.reset = some 2 ∧ (descOf ((DT 0 0).regs.getD 12)).check = some (2, 0) := by decide +kernel
theorem test_sopen : (descOf ((DT 0 0).regs.getD 10)).check = none ∧
    (V (DT 3 0) Serai.reset).chip.porterSides 16 2 Porter.reset = (false, false) ∧
    (ser (exec (.sopen 4 2 10) (V (DT 3 0) Serai.reset))).map (fun v => ((v.porter 2).cond, (v.porter 2).dir, (v.porter 2).setTag)) =
      some (1, true, true) ∧
    (ser (exec (.sopen 4 2 10) (V (DT 0 0) Serai.reset))).map (fun v => ((v.porter 2).cond, (v.porter 2).dir)) = some (1, false) := by
  decide +kernel
/-- Porter 2 is a source already. -/
def bound2 (d : Drover) : State := { V d Serai.reset with chip := { (V d Serai.reset).chip with binds := [(.porter 16 2, .mailbox 16)] } }
theorem test_sopen_bound : (bound2 (DT 1 0)).chip.porterSides 16 2 Porter.reset = (true, false) ∧
    reg (exec (.sopen 4 2 10) (bound2 (DT 1 0))) 4 = some 22 ∧ reg (exec (.sopen 4 2 10) (bound2 (DT 0 0))) 4 = some 0 := by decide +kernel
theorem test_sclose : rv (.sclose 3 2) 3 M (porterIs fun q => { q with cond := 3 }) = some 0 ∧ rv (.sclose 3 2) 3 M Serai.reset = some 1 ∧
    rv (.sclose 3 2) 3 M (porterIs fun q => { q with cond := 2 }) = some 1 ∧
    (ser (exec (.sclose 3 2) (V M (porterIs fun q => { q with cond := 1 })))).map (fun v => ((v.porter 2).cond, (v.porter 2).buf)) =
      some (2, [Token.eot]) := by decide +kernel
/-- Porter 2 reads on (scratch class): one stream under way. -/
def reading : Serai := porterIs fun q => { q with cond := 1, scratch := true, sid := 1, walk := { q.walk with done := false } }
theorem test_sbar : reading.selected 1 = [1] ∧ reading.streamDone 1 = false ∧ reading.selected 6 = [] ∧
    (dr? (exec (.sbar 1 3) (V M reading))).map (·.hold) = some (.sbar [1] [] 3) ∧
    (dr? (exec (.sbar 6 3) (V M reading))).map (·.regs.pc) = some 0x10004 ∧ reading.copyIds = [] := by decide +kernel
theorem test_sstat : rv (.sstat 3 2) 3 M (porterIs fun q => { q with cond := 3, dir := true, count := 5, fcause := 3, ragged := true, aflags := 2 }) =
    some 0x000000050302020B := by decide +kernel
/-- Porter 2 reads and porter 5 writes. -/
def linkable : Serai := (porterIs fun q => { q with cond := 1 }).onPorter 5 fun q => { q with cond := 1, dir := true }
theorem test_slink : (V M linkable).chip.porterFree 16 2 (linkable.porter 2) = true ∧ (V M linkable).chip.porterFree 16 5 (linkable.porter 5) = true ∧
    (linkable.porter 2).isReading = true ∧
    (ser (exec (.slink 3 2 5) (V M linkable))).map (fun v => ((v.porter 2).link, (v.porter 5).link)) = some (some 5, some 2) ∧
    rv (.slink 3 5 2) 3 M linkable = some 22 ∧ rv (.slink 3 2 2) 3 M linkable = some 22 := by decide +kernel

/-- The block of a copy from porter 2 to porter 5, on channel 1. -/
def copyBlock : List Byte := [0x25, 0, 0, 0] ++ bytesOf 2 4 ++ bytesOf 5 4 ++ List.replicate 52 0
/-- The template cache holds a good and a bad block. -/
def templates : Serai := { Serai.reset with copy := { Serai.reset.copy with templates := [(W.toNat, copyBlock), (W.toNat + 64, List.replicate 64 0xFF)] } }
/-- A copy with a number. -/
def job (n : Nat) : CopyJob :=
  { id := n, scope := 3, setTag := false, srcMem := false, dstMem := false, src := some (.porter 16 2), dst := some (.porter 16 5), desc := 0,
    walk := Walk.start, pins := [], buf := [], moved := 0, rd := 0, code := none, discard := false, eotDone := false, after := 0, cmd := none,
    owner := 16, pc := 0, late := none, chunks := [], packets := [], poisonOut := false, poisonCnt := 0, clk := [] }
/-- Channel 1 holds eight copies. -/
def fullChannel : Serai := { templates with copy := { templates.copy with ch := #v[[], (List.range 8).map job] } }
/-- The module with the blocks in memory too. -/
def copies (x : Word) (v : Serai) : State := atW (V (D x 0) v) (copyBlock ++ List.replicate 64 0xFF)
theorem test_template : (copies W templates).chip.templateStands 16 (D W 0) W.toNat copyBlock = true ∧
    (copies W templates).chip.templateStands 16 (D W 0) (W.toNat + 64) (List.replicate 64 0xFF) = true ∧ copyBad (List.replicate 64 0xFF) = true ∧
    (copies W fullChannel).chip.templateStands 16 (D W 0) W.toNat copyBlock = true := by decide +kernel
theorem test_copy : copyBad copyBlock = false ∧ trapOf (exec (.copy 3 4 5 3) (copies (W + 1) templates)) = some (2, 0x10000, W + 1) ∧
    reg (exec (.copy 3 4 5 3) (copies (W + 64) templates)) 3 = some 21 ∧
    (dr? (exec (.copy 3 4 5 3) (copies W templates))).map (fun d => look d.board.pend 3) = some (some (.copy 1 1)) ∧
    (ser (exec (.copy 3 4 5 3) (copies W templates))).map (fun v => ((v.copy.jobs 1).length, v.nextSid)) = some (1, 2) := by decide +kernel
theorem test_copy_full : (fullChannel.copy.jobs 1).length = 8 ∧ (fullChannel.copy.jobs 0).length < 8 ∧
    (dr? (exec (.copy 3 4 5 3) (copies W fullChannel))).map (·.regs.pc) = some 0x10000 := by decide +kernel
theorem test_cpstat : rv (.cpstat 3) 3 M fullChannel = some 0x20800 ∧
    (ser (exec .cpflush (V M fullChannel))).map (·.copy.templates) = some [] := by decide +kernel
theorem test_ready_copy (x : Word) (v : Serai) : Ready2d (copies x v) (D x 0) (D x 0) 3 4 5 x 0 := ⟨rfl, rfl, rfl, by decide, rfl⟩

/-! ### R171 to R178: pages and banks -/

/-- The head of a page image with a page id: the rest of it is zero (R81). -/
def pageHead (id : Byte) : List Byte := [0x50, 0x41, 0x47, 0x45, 1, 0, id, 0]
/-- A page with input portal 0 and output portal 1, in quarter 0. -/
def page1 : Page := { (pageImage []).page 0 0 with portals := [0x100, 0x180, 0, 0, 0, 0, 0, 0] }
/-- Serai 0 with that page, between firings. -/
def paged : Serai := { Serai.reset with pages := [(9, page1)] }
/-- A token of portal 0 is under way in it. -/
def busyPage : Serai := { Serai.reset with pages := [(9, { page1 with admitted := [(0, 1)] })] }
/-- Sixty-four pages. -/
def fullSet : Serai := { Serai.reset with pages := (List.range 64).map fun k => (k, { page1 with quarter := none }) }
/-- x3 after a command that reads bytes at `W`. -/
def rw (i : Instr) (d : Drover) (v : Serai) (b : List Byte) : Option Word := reg (exec i (atW (V d v) b)) 3

theorem test_conditions : Serai.reset.condition 0 = 0 ∧ paged.condition 0 = 1 ∧ busyPage.condition 0 = 2 ∧
    { paged with pager := .saved 0 9 0 }.condition 0 = 3 := by decide +kernel
theorem test_pgload_waits : trapOf (exec (.pgload 3 0 4) (V (D 1 0) Serai.reset)) = some (2, 0x10000, 1) ∧
    (dr? (exec (.pgload 3 0 4) (V (D 64 0) busyPage))).map (·.regs.pc) = some 0x10000 := by decide +kernel
theorem test_pgload_refusals : rw (.pgload 3 0 4) (D W 0) Serai.reset [] = some 10 ∧ rw (.pgload 3 0 4) (D W 0) paged (pageHead 9) = some 23 ∧
    rw (.pgload 3 0 4) (D W 0) fullSet (pageHead 200) = some 24 := by decide +kernel
theorem test_pgload : rw (.pgload 3 2 4) (D W 0) Serai.reset (pageHead 9) = some 0 ∧
    ((ser (exec (.pgload 3 2 4) (atW (V (D W 0) Serai.reset) (pageHead 9)))).bind (look ·.pages 9)).map (·.quarter) = some (some 2) := by decide +kernel

/-- Parameters of a cast to the caravan's members that the selector names, without deltas, at `W`; the image of zeros is bad. -/
def castBlock (sel : Byte) : List Byte := [0, sel] ++ List.replicate 62 0
/-- A page image at W + 64, whose head alone is not zero, after a block of 64 bytes at `W`. -/
def blockAndImage (b : List Byte) (h : List Byte) : List Byte := b ++ h
theorem test_pgcast : (V M Serai.reset).chip.castTo 16 0x00 = [(0, 16)] ∧ castBad (castBlock 0x00) = false ∧
    trapOf (exec (.pgcast 3 4 5) (V (D 1 W) Serai.reset)) = some (2, 0x10000, 1) ∧
    rw (.pgcast 3 4 5) (D (W + 64) W) Serai.reset ([4] ++ List.replicate 63 0) = some 21 ∧
    rw (.pgcast 3 4 5) (D (W + 64) W) Serai.reset (blockAndImage (castBlock 0x00) (pageHead 9)) = some 0 ∧
    rw (.pgcast 3 4 5) (D (W + 64) W) Serai.reset (castBlock 0x00) = some 0x10A22 := by decide +kernel

-- endpoint words of R161: 0 to 7 porters, 1 portals, 2 mailboxes, 3 contexts
theorem test_pgbind_refusals : (V M paged).chip.endpoint 16 0x40000000 = none ∧ rv (.pgbind 3 4 5) 3 (D 0x40000000 2) paged = some 22 ∧
    (V M paged).chip.bindSource (.mailbox 16) = false ∧ rv (.pgbind 3 4 5) 3 (D 0x20000000 2) paged = some 22 ∧
    rv (.pgbind 3 4 5) 3 (D 0x10090001 0x50000000) paged = some 22 ∧ rv (.pgbind 3 4 5) 3 (D 2 5) linkable = some 22 := by decide +kernel
theorem test_pgbind : (V M paged).chip.bindSource (.portal 16 9 1) = true ∧ (V M paged).chip.bindSink (.mailbox 16) = true ∧
    (chip? (exec (.pgbind 3 4 5) (V (D 0x10090001 0x20000000) paged))).map (·.binds) = some [(.portal 16 9 1, .mailbox 16)] := by decide +kernel
/-- A binding stands. -/
def bindState (d : Drover) : State := { V d paged with chip := { (V d paged).chip with binds := [(.portal 16 9 1, .mailbox 16)] } }
theorem test_pgunbind : (bindState M).chip.endpoint 16 0x10090001 = some (.portal 16 9 1) ∧
    (chip? (exec (.pgbind 3 4 5) (bindState (D 0x10090001 0xF0000000)))).map (·.binds) = some [] ∧
    reg (exec (.pgbind 3 4 5) (bindState (D 0x10090001 0x20000000))) 3 = some 22 := by decide +kernel
theorem test_pgdrop : rv (.pgdrop 4 0) 4 (D 257 0) paged = some 20 ∧ rv (.pgdrop 4 1) 4 (D 1 0) paged = some 20 ∧
    rv (.pgdrop 4 1) 4 (D 0 0) paged = some 1 ∧ (dr? (exec (.pgdrop 4 0) (V (D 0 0) busyPage))).map (·.regs.pc) = some 0x10000 ∧
    (chip? (exec (.pgdrop 4 0) (bindState (D 0 0)))).map (fun c => ((c.serai 0).pages.length, c.binds)) = some (0, []) := by decide +kernel
theorem test_pgstat : rv (.pgstat 4 3) 4 (D 1 0) paged = some 0 ∧
    rv (.pgstat 4 0) 4 (D 0 0) { paged with pages := [(9, { page1 with firings := 2 })], qcause := #v[3, 0, 0, 0] } = some 0x0002000009000301 := by decide +kernel

theorem test_wload_refusals : rv (.wload 3 10 4) 3 (DT 256 0) Serai.reset = some 21 ∧ rv (.wload 3 12 4) 3 (DT 255 0) Serai.reset = some 2 ∧
    (descOf ((DT 0 0).regs.getD 11)).badTile = true ∧ rv (.wload 3 11 4) 3 (DT 255 0) Serai.reset = some 25 ∧
    (dr? (exec (.wload 3 10 4) (V (DT 0 0) busyPage))).map (·.regs.pc) = some 0x10000 := by decide +kernel
theorem test_wload : (V (DT 5 0) Serai.reset).chip.tileFault 16 (DT 5 0) (descOf ((DT 5 0).regs.getD 10)) (descOf ((DT 5 0).regs.getD 10)).tile = none ∧
    reg (exec (.wload 3 10 4) (atW (V (DT 5 0) Serai.reset) [1, 2, 3, 4])) 3 = some 0 ∧
    ((ser (exec (.wload 3 10 4) (atW (V (DT 5 0) Serai.reset) [1, 2, 3, 4]))).bind (look ·.banks 5)).map (fun k => (k.resident, k.fmt)) =
      some (true, some 0) := by decide +kernel
/-- The same tile where nothing is mapped, in an uncorrectable word, and a cell of a resident page that uses its bank. -/
def unmapped : Drover := { DT 5 0 with regs := { (DT 5 0).regs with d := (DT 5 0).regs.d.set 10 (descBits 0x5000 0 [(4, 1), (1, 4)]) } }
/-- See `unmapped`. -/
def badWord : State := { V (DT 5 0) Serai.reset with chip := { (V (DT 5 0) Serai.reset).chip with homes := { (S M).chip.homes with bad := [PW / 8] } } }
theorem test_wload_faults : (V unmapped Serai.reset).chip.tileFault 16 unmapped (descOf (unmapped.regs.getD 10)) (descOf (unmapped.regs.getD 10)).tile =
      some (3, 0x5000) ∧ trapOf (exec (.wload 3 10 4) (V unmapped Serai.reset)) = some (3, 0x10000, 0x5000) ∧
    reg (exec (.wload 3 10 4) badWord) 3 = some 37 := by decide +kernel
/-- Cell 0 runs ACC on its bank. -/
def usesBank : Serai := { paged with pages := [(9, { page1 with cells := (page1.cells.set 0 (BitVec.ofNat 128 (0x24 * 2 ^ 120))) })] }
/-- Cell 5's bank is weight resident. -/
def resident5 : Serai := { paged with banks := [(5, { resident := true, fmt := some 0, exps := [] })] }
theorem test_wdrop : rv (.wdrop 3 4) 3 (D 256 0) paged = some 21 ∧ rv (.wdrop 3 4) 3 (D 5 0) Serai.reset = some 1 ∧
    rv (.wdrop 3 4) 3 (D 5 0) paged = some 26 ∧ (dr? (exec (.wdrop 3 4) (V (D 5 0) busyPage))).map (·.regs.pc) = some 0x10000 ∧
    (V (D 5 0) resident5).chip.bankResident 0 5 = true ∧ quarterOf 5 = 0 ∧ rv (.wdrop 3 4) 3 (D 5 0) resident5 = some 0 ∧
    (chip? (exec (.wdrop 3 4) (V (D 5 0) resident5))).map (·.bankResident 0 5) = some false := by decide +kernel
/-- Portal 0's FIFO is full. -/
def fullPortal : Serai :=
  { paged with pages := [(9, { page1 with fifos := [(0, List.replicate 16 { tok := Token.eot, byCell := false, byXv := false, here := true })] })] }
theorem test_wpoke : (dr? (exec (.wpoke 3 0 4) (V (D 1 0) { paged with pager := .saved 0 9 0 }))).map (·.regs.pc) = some 0x10000 ∧
    rv (.wpoke 3 0 4) 3 (D 2048 0) paged = some 21 ∧ rv (.wpoke 3 0 4) 3 (D 14 0) paged = some 12 ∧ rv (.wpoke 3 0 4) 3 (D 0 0) paged = some 12 ∧
    rv (.wpoke 3 1 4) 3 (D 1 0) paged = some 1 ∧ rv (.wpoke 3 0 4) 3 (D 0x10D 0) paged = some 14 ∧
    (dr? (exec (.wpoke 3 0 4) (V (D 1 0) fullPortal))).map (·.regs.pc) = some 0x10000 ∧ rv (.wpoke 3 0 4) 3 (D 13 0) paged = some 0 ∧
    (((ser (exec (.wpoke 3 0 4) (V (D 13 0) paged))).bind (look ·.pages 9)).bind fun g => look g.fifos 0).map (fun l => l.map (·.tok)) =
      some [Token.directive 13] := by decide +kernel
theorem test_wload_used : usesBank.bankUsed 0 = true ∧ rv (.wload 3 10 4) 3 (DT 0 0) usesBank = some 1 := by decide +kernel

/-! ### R179 to R183: grammars -/

/-- Serai 0 with context 1 as given. -/
def ctxIs (f : Context → Context) : Serai := Serai.reset.onCtx 1 f
/-- A grammar image with one nonterminal and one empty production: every kind mapped as R86 asks, the rest zero. -/
def gramImage : List Byte :=
  bytesOf 0x4D415247 4 ++ [1, 0, 1, 0, 1, 0, 0, 0] ++ List.replicate 52 0 ++ [0, 1, 2, 3, 4, 5, 6, 7, 8, 0xFF, 0xFF, 0xFF, 0xFF, 0xFF, 0xFF, 9]
theorem test_gload_refusals : trapOf (exec (.gload 3 1 4) (V (D 1 0) Serai.reset)) = some (2, 0x10000, 1) ∧
    rv (.gload 3 1 4) 3 (D W 0) (ctxIs fun x => { x with cond := 1 }) = some 1 ∧ rv (.gload 3 1 4) 3 (D W 0) (ctxIs fun x => { x with cond := 3 }) = some 1 ∧
    rw (.gload 3 1 4) (D W 0) Serai.reset [] = some 10 := by decide +kernel
theorem test_gload : rw (.gload 3 1 4) (D W 0) Serai.reset gramImage = some 0 ∧
    (ser (exec (.gload 3 1 4) (atW (V (D W 0) Serai.reset) gramImage))).map (fun v => (v.ctx 1).grammar.map List.length) = some (some 8576) := by
  decide +kernel
theorem test_gstart_refusals : rv (.gstart 4 1 2) 4 (D 2 0) Serai.reset = some 20 ∧ rv (.gstart 4 1 2) 4 (D 1 0) Serai.reset = some 27 ∧
    rv (.gstart 4 1 2) 4 (D 1 0) (ctxIs fun x => { x with cond := 3, grammar := some [] }) = some 1 ∧
    rv (.gstart 4 1 2) 4 (D 0 0) ((ctxIs fun x => { x with grammar := some [] }).onPorter 2 fun q => { q with cond := 1, dir := true }) = some 22 ∧
    rw (.gstart 3 1 2) { D 0 0 with regs := (D 0 0).regs.setX 3 W } (ctxIs fun x => { x with grammar := some [] }) [3] = some 21 := by decide +kernel
theorem test_gstart : (ser (exec (.gstart 4 1 2) (V (D 1 0) (ctxIs fun x => { x with grammar := some [0, 0, 0, 0, 0, 0, 0, 5] })))).map (fun v =>
      ((v.ctx 1).cond, (v.ctx 1).stack, (v.ctx 1).porter, (v.ctx 1).holdeot, (v.porter 2).claim)) =
    some (1, [.nonterm 5 none 5], some 2, true, some (.context 1)) ∧
    (ser (exec (.gstart 3 1 2) (atW (V { D 0 0 with regs := (D 0 0).regs.setX 3 W } (ctxIs fun x => { x with grammar := some [] })) [1, 7]))).map (fun v =>
      ((v.ctx 1).cond, (v.ctx 1).ctab.length)) = some (1, 256) := by decide +kernel
/-- A context that parses, with an action in its FIFO. -/
def parsing : Context := { Context.reset with cond := 1, terminals := 3, stack := [.term 1 none 0], afifo := [{ idx := 2, word := 0 }], porter := some 2 }
theorem test_gstop : (dr? (exec (.gstop 3 1) (V M (ctxIs fun _ => parsing)))).map (·.regs.pc) = some 0x10000 ∧
    (ser (exec (.gstop 3 1) (V M (ctxIs fun _ => parsing)))).map (fun v => (v.ctx 1).stopping) = some true ∧
    (ser (exec (.gstop 3 1) (V M (ctxIs fun _ => { parsing with afifo := [] })))).map (fun v => ((v.ctx 1).cond, (v.ctx 1).porter)) = some (2, none) ∧
    (ser (exec (.gstop 3 1) (V M (ctxIs fun _ => { parsing with cond := 3 })))).map (fun v => (v.ctx 1).cond) = some 2 ∧
    rv (.gstop 3 1) 3 M Serai.reset = some 1 := by decide +kernel
theorem test_gstat : rv (.gstat 3 1) 3 M (ctxIs fun _ => { parsing with tcause := 4, postlost := true }) = some 0x0000000300210441 := by decide +kernel
theorem test_waita : rv (.waita 3 1) 3 M (ctxIs fun x => { x with cond := 3 }) = some 0x301 ∧
    (dr? (exec (.waita 3 1) (V M (ctxIs fun _ => parsing)))).map (·.hold) = some .waiting ∧
    rv (.waita 3 1) 3 { M with hold := .waiting } (ctxIs fun x => { x with cond := 3, terminals := 2 }) = some 0x0000000200000003 := by decide +kernel
theorem test_actdone : (dr? (exec (.actdone 1) (V { M with queues := { M.queues with act := [⟨2 ^ 62, 0, []⟩, ⟨2 ^ 63, 0, []⟩] } }
      (ctxIs fun x => { x with eotheld := true })))).map (fun d => d.queues.act.map (·.val)) = some [2 ^ 63] ∧
    (ser (exec (.actdone 1) (V M (ctxIs fun x => { x with eotheld := true })))).map (fun v => (v.ctx 1).eotheld) = some false := by decide +kernel

/-! ### R184 to R189: tasks -/

/-- A page table whose one leaf maps the first 2^30 bytes to themselves, not tagged, for tasks (R248 to R250). -/
def tables (h : Homes) : Homes :=
  (h.write 0x1000000 (bytesOf 0x1080001 8)).write 0x1080000 (bytesOf 0x3F 8 ++ bytesOf (4 * 2 ^ 33 + 0x3F * 2 ^ 42) 8)
/-- The task's module with expedition 0, those tables, a second task 17 (TASKID 2) in a caravan of its own, retired or not. -/
def T (d : Drover) (st : TaskState) : State :=
  let c := (G d).chip
  { G d with
    chip := { c with
      homes := { tables c.homes with tags := [PW / 8] },
      drovers := put c.drovers 17 (Drover.fresh false (some 1)),
      sched := { c.sched with
        exps := [(0, { exp0 with ptroot := 0x1000 })],
        tasks := put c.sched.tasks 17 { exp := 0, taskid := 2, caravan := 2, index := 0, state := st, args := [], groups := [], departed := false, slot := none, full := false, header := [], heldAt := none },
        caravans := put c.sched.caravans 2 { exp := 0, tmpl := 0, members := [17], pinned := false, prio := 0, ready := 0, order := 0, agedAt := 0, passedAt := none, rose := none, origin := none, place := .resident 0, reason := none, watches := [], hint := 0, near := none, wake := false, dispatchedAt := 0, lastAdvert := 0 } } } }
theorem test_in_serai_task (x y : Word) : InSerai (T (D x y) .running) (D x y) 0 ∧
    Ready1d (T (D x y) .running) (D x y) (D x y) 3 4 x ∧ Ready2d (T (D x y) .running) (D x y) (D x y) 3 4 0 x 0 :=
  ⟨⟨rfl, rfl, rfl⟩, ⟨rfl, rfl, rfl, by decide, rfl⟩, ⟨rfl, rfl, rfl, by decide, rfl⟩⟩
theorem test_spawn_refusals : reg (exec (.spawn 3 4 0) (T (D 65536 0) .running)) 3 = some 20 ∧ reg (exec (.spawn 3 4 0) (T (D 0x2005 0) .running)) 3 = some 20 ∧
    reg (exec (.spawn 3 4 0) (T (D 1023 0) .running)) 3 = some 28 ∧ reg (exec (.spawn 3 4 0) (T (D 6 0) .running)) 3 = some 28 := by decide +kernel
theorem test_spawn : (D 5 0).released = true ∧ (look exp0.templates 5).isSome = true ∧
    (T (D 5 0) .running).chip.queueLen ((T (D 5 0) .running).chip.bazaarDie (D 5 0) 0) = 0 ∧
    reg (exec (.spawn 3 4 0) (T (D 5 0) .running)) 3 = some 0x200000000 := by decide +kernel
/-- A parameter block of SPAWN at `W`: group bytes 24 to 27, masks 28 and 29, byte 31, and watch address 0. -/
def spawnBlock (g m w z : Byte) (a : Word) : List Byte :=
  List.replicate 24 0 ++ [g, 0, 0, 0, m, w, 0, z] ++ leBytes a.toNat 8 ++ List.replicate 24 0
/-- The task with template 5 (or 6) selected and that block. -/
def SB (b : List Byte) : State := atW (T (D 5 W) .running) b
theorem test_spawn_block : trapOf (exec (.spawn 3 4 5) (T (D 5 (W + 32)) .running)) = some (2, 0x10000, W + 32) ∧
    (match (SB (spawnBlock 9 1 0 0 0)).chip.readBlock (blockAgent 16) 16 (D 5 W) W.toNat 64 with | .ok b _ => b == spawnBlock 9 1 0 0 0 | _ => false) = true ∧
    reg (exec (.spawn 3 4 5) (SB (spawnBlock 9 1 0 0 0))) 3 = some 29 ∧ reg (exec (.spawn 3 4 5) (SB (spawnBlock 0 0 1 0 (W + 4)))) 3 = some 30 ∧
    reg (exec (.spawn 3 4 5) (SB (spawnBlock 0 0 1 0 8))) 3 = some 30 ∧
    trapOf (exec (.spawn 3 4 5) (SB (spawnBlock 0 0 1 0 0x100000000000))) = some (3, 0x10000, 0x100000000000) := by decide +kernel
theorem test_spawn_bad_args : reg (exec (.spawn 3 4 5) (SB (spawnBlock 0 16 0 0 0))) 3 = some 21 ∧
    reg (exec (.spawn 3 4 5) (SB (spawnBlock 0 0 16 0 0))) 3 = some 21 ∧ reg (exec (.spawn 3 4 5) (SB (spawnBlock 0 0 0 1 0))) 3 = some 21 := by decide +kernel
theorem test_spawn_watching : reg (exec (.spawn 3 4 5) (SB (spawnBlock 0 1 1 0 W))) 3 = some 0x200000000 ∧
    ((chip? (exec (.spawn 3 4 5) (SB (spawnBlock 0 1 1 0 W)))).bind fun c => c.caravan? (SB []).chip.sched.nextCv).map (fun v => (v.place, v.watches)) =
      some (.watching 0, [(0, PW)]) := by decide +kernel
theorem test_retire : M.writesOpen = false ∧ (dr? (exec .retire (T M .running))).map (·.run) = some .off ∧
    ((chip? (exec .retire (T M .running))).bind (·.task? 16)).map (·.state) = some .retired := by decide +kernel
/-- A store of the task is on its way. -/
def storing : Drover :=
  { M with mem := { M.mem with accs := [{ seq := 1, inst := 1, kind := .store, pc := 0x10000, va := 0x10010, pa := 0x10010, size := 8, leaf := State.placeLeaf, rd := 0, word := 0, data := 9, data2 := 0, acq := false, rel := false, scope := 3, tmpl := 0, tag := 0, phase := .queued, sentAt := 0, reply := 0, late := none, line := none, clk := [] }] } }
theorem test_retire_waits : storing.writesOpen = true ∧ pcAfter .retire storing = some 0x10000 := by decide +kernel
theorem test_yield : (dr? (exec .yield (T M .running))).map (·.hold) = some .yielding ∧
    ((chip? (exec .yield (T M .running))).bind (·.caravan? 1)).map (fun v => (v.reason.isSome, v.wake)) = some (true, true) ∧
    (dr? (exec .yield { T M .running with chip := (T M .running).chip.onSched fun s => { s with caravans := upd s.caravans 1 fun v => { v with pinned := true } } })).map (·.regs.pc) = some 0x10004 ∧
    pcAfter .yield { M with hold := .result 0 } = some 0x10004 := by decide +kernel
theorem test_twatch : trapOf (exec (.twatch 3 4) (T (D 4 0) .running)) = some (2, 0x10000, 4) ∧
    (match (T (D 8 0) .running).chip.engineLeaf 16 (D 8 0) 8 .read with | .ok l _ => l.tagged | _ => true) = false ∧
    reg (exec (.twatch 3 4) (T (D 8 0) .running)) 3 = some 30 ∧
    (match (T (D W 0) .running).chip.engineLeaf 16 (D W 0) W.toNat .read with
      | .ok l c => l.tagged && !l.rmt && c.homes.tag (watchWord l (l.pa W.toNat)) | _ => false) = true ∧
    reg (exec (.twatch 3 4) (T (D W 0) .running)) 3 = some 0 ∧ reg (exec (.twatch 3 4) (T { D W 0 with hold := .result 0 } .running)) 3 = some 0 := by
  decide +kernel
theorem test_twatch_empty : (dr? (exec (.twatch 3 4) (T (D (W + 8) 0) .running))).map (fun d => (d.hold, d.regs.pc)) = some (.waiting, 0x10000) ∧
    trapOf (exec (.twatch 3 4) (T (D 0x100000000000 0) .running)) = some (3, 0x10000, 0x100000000000) := by decide +kernel
/-- Die 0's walkers hold a leaf for the first 2^30 bytes: a tagged page of module 5, to which link 0 leads. -/
def farWatch : State :=
  let s := T (D 64 0) .running
  let l : Leaf := { State.placeLeaf with expid := 0, vbase := 0, size := 2 ^ 30, pbase := 0, rmt := true, dev := 5, tagged := true }
  { s with chip := { s.chip with walkers := { s.chip.walkers with leaves := [(0, [l])] }, routes := [(5, 0)] } }
theorem test_twatch_far : (match farWatch.chip.engineLeaf 16 (D 64 0) 64 .read with | .ok l c => l.rmt && l.tagged && c.requests == [] | _ => false) = true ∧
    (dr? (exec (.twatch 3 4) farWatch)).map (fun d => (d.hold, d.regs.pc)) = some (.waiting, 0x10000) ∧
    (chip? (exec (.twatch 3 4) farWatch)).map (fun c => c.requests.map (·.2)) = some [.watch 1 32 0] := by decide +kernel
theorem test_tstat : (T (D 9 0) .running).chip.taskKey? 0 9 = none ∧ reg (exec (.tstat 3 4) (T (D 9 0) .running)) 3 = some 0x00000009000FFF0F ∧
    (T (D 2 0) .retired).chip.taskKey? 0 2 = some 17 ∧
    (reg (exec (.tstat 3 4) (T (D 2 0) .retired)) 3).map (·.toNat % 16) = some 7 ∧ (reg (exec (.tstat 3 4) (T (D 1 0) .running)) 3).map (·.toNat % 16) = some 4 := by
  decide +kernel
theorem test_tkill : reg (exec (.tkill 3 4) (T (D 0x100000001 0) .running)) 3 = some 31 ∧ reg (exec (.tkill 3 4) (T (D 9 0) .running)) 3 = some 31 ∧
    reg (exec (.tkill 3 4) (T (D 2 0) .retired)) 3 = some 31 ∧ reg (exec (.tkill 3 4) (T (D 2 0) .running)) 3 = some 0 ∧
    (T (D 1 0) .running).chip.taskKey? 0 1 = some 16 ∧ (dr? (exec (.tkill 3 4) (T (D 1 0) .running))).map (·.run) = some .off ∧
    ((chip? (exec (.tkill 3 4) (T (D 1 0) .running))).bind (·.task? 16)).map (·.state) = some .killed := by decide +kernel

/-! ### R190 to R192, R303 to R305, R311 to R314: dispatch commands -/

/-- Parameters of two experts of sixteen for four tokens, one contributor (R191). -/
def topkBlock : List Byte :=
  [2, 0] ++ bytesOf 1 2 ++ bytesOf 16 2 ++ bytesOf 0 2 ++ bytesOf 4 4 ++ bytesOf 0 4 ++ bytesOf (W.toNat + 0x100) 8 ++ bytesOf (W.toNat + 0x200) 8 ++
    List.replicate 32 0
/-- See `topkBlock`: one record at W + 256. -/
def binBlock : List Byte :=
  bytesOf (W.toNat + 0x100) 8 ++ bytesOf 1 4 ++ bytesOf 16 2 ++ bytesOf 0 2 ++ bytesOf (W.toNat + 0x300) 8 ++ bytesOf (W.toNat + 0x400) 8 ++
    bytesOf (W.toNat + 0x500) 8 ++ bytesOf (W.toNat + 0x200) 8 ++ List.replicate 16 0
/-- See `topkBlock`: the descriptor is at W + 128. -/
def sendBlock : List Byte :=
  bytesOf 0 8 ++ bytesOf (W.toNat + 0x300) 8 ++ bytesOf 4 4 ++ bytesOf 0 4 ++ bytesOf (W.toNat + 0x80) 8 ++ bytesOf (W.toNat + 0x400) 8 ++
    bytesOf (W.toNat + 0x200) 8 ++ List.replicate 16 0
/-- See `sendBlock`. -/
def recvBlock : List Byte :=
  bytesOf 0 2 ++ bytesOf 2 2 ++ bytesOf 4 4 ++ bytesOf (W.toNat + 0x80) 8 ++ bytesOf (W.toNat + 0x300) 8 ++ bytesOf (W.toNat + 0x400) 8 ++ bytesOf 1 2 ++
    bytesOf 0 6 ++ bytesOf (W.toNat + 0x200) 8 ++ List.replicate 16 0
/-- See `topkBlock`: a step of 0.5 and a target of 1. -/
def biasBlock : List Byte :=
  bytesOf 0x3F000000 4 ++ bytesOf 0x3F800000 4 ++ bytesOf 16 2 ++ bytesOf 0 6 ++ bytesOf (W.toNat + 0x300) 8 ++ bytesOf (W.toNat + 0x200) 8 ++
    List.replicate 32 0
/-- A round for micro-batch 7. -/
def round7 : Round := { id := 1, ending := none, exp := 0, block := topkBlock, slot := 0, bver := 0, toks := [], dropNan := 0, done := PW + 0x200, closed := false, dies := [0], owner := 16, clk := [] }
/-- The task with bytes at `W`, in round 7 with its list for token 1 given. -/
def X (x y : Word) (b : List Byte) : State :=
  let s := atW (V (D x y) { Serai.reset with joined := some (7, 1) }) b
  { s with chip := { s.chip with xde := { s.chip.xde with rounds := [(7, { round7 with toks := [(1, { got := 1, nan := false, list := [], written := false })] })] } } }
theorem test_dispatches (x y : Word) (b : List Byte) : Dispatches (X x y b) (D x y) (D x y) 3 4 5 x y := ⟨⟨rfl, rfl, rfl, by decide, rfl⟩, rfl, rfl⟩

theorem test_dispatch_params : (∀ i, i ∈ [Instr.xtopk 3 4 5, .xbin 3 4 5, .xsend 3 4 5, .xrecv 3 4 5, .xbias 3 4 5] →
      reg (exec i (X 0x100000000 W [])) 3 = some 21 ∧ reg (exec i (X 0xFFFFFFFF W (List.replicate 64 0xFF))) 3 = some 21) ∧
    ∀ i, i ∈ [Instr.xtopk 3 4 5, .xbin 3 4 5, .xsend 3 4 5, .xrecv 3 4 5] → reg (exec i (X 7 W [])) 3 = some 33 := by decide +kernel
theorem test_shapes : topkShape topkBlock ∧ topkRange topkBlock ∧ topkShape [] ∧ ¬ topkRange [] ∧ ¬ topkShape (List.replicate 64 0xFF) := by
  unfold topkShape topkRange; decide +kernel
theorem test_shapes_bin : binShape binBlock ∧ binRange binBlock ∧ binShape [] ∧ ¬ binRange [] ∧ ¬ binShape (List.replicate 64 0xFF) := by
  unfold binShape binRange; decide +kernel
theorem test_shapes_send : sendShape sendBlock ∧ sendRange sendBlock ∧ sendShape [] ∧ ¬ sendRange [] ∧ ¬ sendShape (List.replicate 64 0xFF) := by
  unfold sendShape sendRange; decide +kernel
theorem test_shapes_recv : recvShape recvBlock ∧ recvRange recvBlock ∧ recvShape [] ∧ ¬ recvRange [] ∧ ¬ recvShape (List.replicate 64 0xFF) := by
  unfold recvShape recvRange; decide +kernel
theorem test_shape_bias : biasShape biasBlock ∧ ¬ biasShape [] := by
  unfold biasShape
  exact ⟨⟨by decide +kernel, by decide +kernel, by decide +kernel, by decide +kernel, by decide +kernel, by decide +kernel, ⟨_, _, _, rfl⟩, ⟨_, _, _, rfl⟩⟩,
    fun h => absurd h.2.2.2.2.1 (by decide +kernel)⟩
theorem test_xgate_refusals : x3 (.xgate 3 4 5) 0 W = some 1 ∧ (S M).chip.joinedRound 16 = none ∧
    ((X 4 W []).chip.joinedRound 16).map (fun p => (p.1, p.2.tokens, p.2.contributors)) = some (7, 4, 1) ∧ reg (exec (.xgate 3 4 5) (X 4 W [])) 3 = some 33 ∧
    reg (exec (.xgate 3 4 5) (X 1 W [])) 3 = some 1 ∧ reg (exec (.xgate 3 4 5) (X 0x90000 W [])) 3 = some 21 ∧
    reg (exec (.xgate 3 4 5) (X 0x100003 W [])) 3 = some 21 ∧ trapOf (exec (.xgate 3 4 5) (X 3 (W + 4) [])) = some (2, 0x10000, W + 4) := by decide +kernel
theorem test_xgate : (chip? (exec (.xgate 3 4 5) (X 0x10003 W (bytesOf 0x0003C0400000 8)))).map (fun c => c.xde.lists.map fun l => (l.mb, l.tok)) = some [(7, 3)] ∧
    reg (exec (.xgate 3 4 5) (X 0x10003 W (bytesOf 0x0003C0400000 8))) 3 = some 0 := by decide +kernel

/-- The completion word at W + 512 can be written. -/
theorem test_done_at : (match (X 7 W []).chip.doneAt 16 (D 7 W) (W.toNat + 0x200) with | .word w => w | _ => 0) = PW + 0x200 := by decide +kernel
theorem test_xtopk : (dr? (exec (.xtopk 3 4 5) (X 8 W topkBlock))).map (·.hold) = some .waiting ∧
    (chip? (exec (.xtopk 3 4 5) (X 8 W topkBlock))).map (fun c => c.xde.opens.map fun o => (o.mb, o.u, o.block == topkBlock)) = some [(8, 16, true)] ∧
    reg (exec (.xtopk 3 4 5) (S { M with hold := .result 5 })) 3 = some 5 := by decide +kernel
theorem test_xbin : (chip? (exec (.xbin 3 4 5) (X 7 W binBlock))).map (fun c => c.xde.work.map fun k => (k.op, k.recs.length, k.done)) =
    some [(2, 128, PW + 0x200)] := by decide +kernel
/-- A descriptor of rank 2 or 3 as the 128 bytes at W + 128, after a block. -/
def withDesc (b : List Byte) (lv : List (Nat × Nat)) : List Byte := b ++ List.replicate 64 0 ++ leBytes (descBits W.toNat 0 lv).toNat 128
theorem test_xsend : reg (exec (.xsend 3 4 5) (X 8 W sendBlock)) 3 = some 1 ∧
    (descOf (descBits W.toNat 0 [(4, 1), (4, 4)])).rank = 2 ∧ (descOf (descBits W.toNat 0 [(4, 1), (4, 4)])).check = none ∧
    (chip? (exec (.xsend 3 4 5) (X 7 W (withDesc sendBlock [(4, 1), (4, 4)])))).map (fun c => c.xde.work.map fun k => (k.op, k.mb, k.experts)) =
      some [(3, 7, 16)] := by decide +kernel
theorem test_xrecv : (X 9 W []).chip.xde.freeSlots (D 9 W).die = 7 ∧ (descOf (descBits W.toNat 0 [(4, 1), (4, 4), (2, 16)])).check = none ∧
    (chip? (exec (.xrecv 3 4 5) (X 9 W (withDesc recvBlock [(4, 1), (4, 4), (2, 16)])))).map (fun c => c.xde.sessions.map fun z => (z.mb, z.die, z.admitted)) =
      some [(9, 0, [0, 0])] := by decide +kernel
/-- An XBIAS at work. -/
def work5 : XWork :=
  { op := 5, die := 0, mb := 0, block := biasBlock, desc := 0, done := PW + 0x200, recs := [], cut := none, ending := none, exp := 0, tok := 0, rank := 0, unanswered := [],
    retarget := [], alts := [], admitted := 0, dropped := 0, code := 0, unreachable := false, experts := 16, owner := 16, clk := [] }
/-- The state with it. -/
def biasWork (s : State) : State := { s with chip := { s.chip with xde := { s.chip.xde with work := [work5] } } }
theorem test_xbias : (chip? (exec (.xbias 3 4 5) (X 0 W biasBlock))).map (fun c => c.xde.work.map fun k => (k.op, k.done)) = some [(5, PW + 0x200)] ∧
    reg (exec (.xbias 3 4 5) (biasWork (X 0 W biasBlock))) 3 = some 1 := by decide +kernel
theorem test_xstat : reg (exec (.xstat 3 4) (X 0 0 [])) 3 = some 0x700000001 ∧ reg (exec (.xstat 3 4) (biasWork (X 1 0 []))) 3 = some 0x100 ∧
    reg (exec (.xstat 3 4) (X 2 0 [])) 3 = some 7 ∧ reg (exec (.xstat 3 4) (X 3 0 [])) 3 = some 0 ∧ reg (exec (.xstat 3 4) (X 4 0 [])) 3 = some (BitVec.allOnes 64) := by decide +kernel

/-! ## Events: what a step of the machine leaves -/

/-- An access of the task to the page at 0x10000, its first. -/
def acc (k : AccKind) (ph : Phase) : Access :=
  { seq := 1, inst := 1, kind := k, pc := 0x10000, va := 0x10010, pa := 0x10010, size := 8, leaf := State.placeLeaf, rd := 3, word := 0, data := 9,
    data2 := 7, acq := false, rel := false, scope := 3, tmpl := 5, tag := 1, phase := ph, sentAt := 0, reply := 0x55, late := none, line := none, clk := [] }
/-- The task with its accesses, the first of which x3 awaits. -/
def A (l : List Access) : Drover := { M with mem := { M.mem with accs := l, nextSeq := 9 }, board := { M.board with pend := [(3, .access 1)] } }
/-- The task's module with these accesses and the 8 bytes at 0x10010. -/
def HS (l : List Access) (w : Nat) (f : Homes → Homes) : State :=
  { S (A l) with chip := { (S (A l)).chip with homes := f ((S (A l)).chip.homes.write 0x10010 (bytesOf w 8)) } }
/-- Drover 16 after an event. -/
def dv (i : Instr) (s : State) : Option Drover := (chip? (exec i s)).bind (·.drover? 16)
/-- The homes after an event. -/
def hm (i : Instr) (s : State) : Option Homes := (chip? (exec i s)).map (·.homes)
/-- The first access of drover 16 after an event. -/
def ac1 (i : Instr) (s : State) : Option Access := (dv i s).bind (·.acc? 1)

theorem test_has_acc (k : AccKind) (ph : Phase) (w : Nat) (f : Homes → Homes) : HasAcc (HS [acc k ph] w f) 16 1 (A [acc k ph]) (acc k ph) ∧
    (HS [acc k ph] w f).chip.moves 16 (A [acc k ph]) = true := ⟨⟨rfl, rfl⟩, rfl⟩

/-! ### S2 to S7 of R268, R130 -/

theorem test_drain_write : (A [acc .store .queued]).canDrain (acc .store .queued) = true ∧
    (ac1 (.drainWrite 16 1) (HS [acc .store .queued] 0 id)).map (fun a => (a.phase, a.sentAt)) = some (.sent, 1) := by decide +kernel
theorem test_send_read : (A [acc .load .queued]).canSendRead (acc .load .queued) = true ∧
    (ac1 (.sendRead 16 1) (HS [acc .load .queued] 0 id)).map (·.phase) = some .sent := by decide +kernel
/-- A load of module 5's memory, to which link 0 leads. -/
def farLoad : Access := { acc .load .queued with leaf := { State.placeLeaf with rmt := true, dev := 5 } }
/-- See `farLoad`. -/
def farState : State := { HS [farLoad] 0 id with chip := { (HS [farLoad] 0 id).chip with routes := [(5, 0)] } }
theorem test_send_far : (A [farLoad]).canSendRead farLoad = true ∧
    ((farState.chip.request 5 0 0x10010 (farLoad.payload 0) (fun k => .access 16 1 k)).map fun p => p.1) = some 0 ∧
    (ac1 (.sendRead 16 1) farState).map (·.phase) = some (.remote 0) := by decide +kernel
/-- A store of 0x1122334455667788 and then a load of its bytes 4 to 5. -/
def forwards : List Access :=
  [{ acc .store .queued with data := 0x1122334455667788 }, { acc .load .queued with seq := 2, inst := 2, pa := 0x10014, va := 0x10014, size := 2, rd := 4 }]
theorem test_forward : ((A forwards).acc? 2).map (fun a => (a.easy, ((A forwards).overlaps a).length)) = some (true, 1) ∧
    ((dv (.forward 16 2) (HS forwards 0 id)).bind (·.acc? 2)).map (fun a => (a.phase, a.reply)) = some (.replied, 0x3344) := by decide +kernel
/-- The data cache holds the line of the load. -/
def cached : Drover := { A [acc .load .queued] with mem := { (A [acc .load .queued]).mem with dcache := [(0x400, BitVec.ofNat 512 (0x77 * 2 ^ 128))] } }
theorem test_hit : (acc .load .queued).easy = true ∧ (acc .load .queued).cacheable = true ∧ cached.lineFree (acc .load .queued) = true ∧
    cached.acquiresDone (acc .load .queued) = true ∧ cached.overlaps (acc .load .queued) = [] ∧
    (ac1 (.hit 16 1) (S cached)).map (fun a => (a.phase, a.reply)) = some (.replied, 0x77) := by decide +kernel
theorem test_complete : (A [acc .load .replied]).canComplete (acc .load .replied) = true ∧
    (dv (.complete 16 1) (HS [acc .load .replied] 0 id)).map (fun d => (d.regs.getX 3, d.board.pend)) = some (0x55, []) := by decide +kernel
/-- Two reductions of the task to one word, both on their way. -/
def twoReds : List Access := [acc (.red 0 false) .sent, { acc (.red 0 false) .sent with seq := 2, inst := 2 }]
theorem test_junction : combinable (acc (.red 0 false) .sent) { acc (.red 0 false) .sent with seq := 2, inst := 2 } = true ∧
    ((dv (.junction 16 1 16 2) (HS twoReds 0 id)).bind (·.acc? 2)).map (·.phase) = some (.joined 16 1) := by decide +kernel

/-! ### Homes: R28, R127 to R141 -/

theorem test_at_home (k : AccKind) (w : Nat) : AtHome (HS [acc k .sent] w id) 16 1 (A [acc k .sent]) (acc k .sent) :=
  ⟨⟨rfl, rfl⟩, by
    have h : (HS [acc k .sent] w id).chip.behind 16 (acc k .sent).clk 0x10010 = false := rfl
    simpa [Chip.arrived, Drover.arrived, A, acc] using h, rfl, by simp [Homes.writable, acc, State.placeLeaf]⟩
theorem test_home_load : (HS [acc .load .sent] 0x1234 id).chip.homes.anyBad 0x10010 8 = false ∧
    (ac1 (.orderPoint 16 1) (HS [acc .load .sent] 0x1234 id)).map (fun a => (a.phase, a.reply)) = some (.replied, 0x1234) ∧
    (hm (.orderPoint 16 1) (HS [acc .store .sent] 0x1234 id)).map (fun h => h.num 0x10010 8) = some 9 ∧
    (dv (.orderPoint 16 1) (HS [acc .store .sent] 0x1234 id)).map (·.mem.accs.length) = some 0 := by decide +kernel
/-- What an atomic or a reduction leaves in the word, and answers. -/
def amoAt (i : Instr) (k : AccKind) (w : Nat) : Option (Nat × Word) :=
  let s := HS [acc k .sent] w id
  (hm i s).map fun h => (h.num 0x10010 8, ((ac1 i s).map (·.reply)).getD 0)
theorem test_home_amo : amoAt (.homeAmo 16 1) (.amo 1) 5 = some (14, 5) ∧ amoAt (.homeAmo 16 1) (.amo 0) 5 = some (9, 5) ∧
    amoAt (.homeAmo 16 1) (.amo 5) (2 ^ 64 - 1) = some (2 ^ 64 - 1, BitVec.allOnes 64) ∧ amoAt (.homeAmo 16 1) (.amo 7) (2 ^ 64 - 1) = some (9, BitVec.allOnes 64) ∧
    amoAt (.homeAmo 16 1) .amoCas 9 = some (7, 9) ∧ amoAt (.homeAmo 16 1) .amoCas 8 = some (8, 8) := by decide +kernel
theorem test_home_red : (amoAt (.homeRed 16 1) (.red 0 false) (2 ^ 64 - 1)).map (·.1) = some 8 ∧
    (amoAt (.homeRed 16 1) (.red 0 true) 0x1FFFFFFFF).map (·.1) = some 0x100000008 := by decide +kernel
/-- The word is full. -/
def full (h : Homes) : Homes := { h with tags := [wordKey 0x10010] }
theorem test_full_empty : noWaiter (HS [acc .ldf .sent] 4 full).chip 0x10010 ∧
    (ac1 (.homeFullEmpty 16 1) (HS [acc .ldf .sent] 4 full)).map (·.reply) = some 4 ∧ (hm (.homeFullEmpty 16 1) (HS [acc .ldf .sent] 4 full)).map (·.tag 0x10010) = some true ∧
    (hm (.homeFullEmpty 16 1) (HS [acc .ldfe .sent] 4 full)).map (·.tag 0x10010) = some false ∧
    (hm (.homeFullEmpty 16 1) (HS [acc .stef .sent] 4 id)).map (fun h => (h.tag 0x10010, h.num 0x10010 8)) = some (true, 9) ∧
    (hm (.homeFullEmpty 16 1) (HS [acc .stf .sent] 4 full)).map (fun h => (h.tag 0x10010, h.num 0x10010 8)) = some (true, 9) ∧
    (hm (.homeFullEmpty 16 1) (HS [acc .sete .sent] 4 full)).map (·.tag 0x10010) = some false := by
  refine ⟨by intro w h; simp [HS, A, S, State.withFetchWord, State.reset, Chip.afterReset, full, Homes.write, Homes.clearBad, Chip.setDrover] at h, ?_⟩
  decide +kernel
theorem test_full_empty_waits : (HS [acc .ldf .sent] 4 id).chip.waiterRoom 0x10010 = true ∧
    (hm (.homeFullEmpty 16 1) (HS [acc .ldf .sent] 4 id)).map (·.waiters) = some [.access (wordKey 0x10010) 0x10010 16 1] ∧
    (hm (.homeFullEmpty 16 1) (HS [acc .stef .sent] 4 full)).map (fun h => (h.waiters, h.num 0x10010 8)) = some ([.access (wordKey 0x10010) 0x10010 16 1], 4) := by decide +kernel
/-- What a continuation atomic leaves: word, answer, templates launched. -/
def contAt (k : AccKind) (w : Nat) : Option (Nat × Word × List (Nat × Word)) :=
  let s := HS [acc k .sent] w id
  (hm (.homeContinuation 16 1) s).map fun h => (h.num 0x10010 8, ((ac1 (.homeContinuation 16 1) s).map (·.reply)).getD 0, h.relay.map fun l => (l.2.tmpl, l.2.old))
theorem test_relay_room : (HS [acc .amocDecz .sent] 2 id).chip.homes.relayLen (sliceOf 0x10010) = 0 := by decide +kernel
theorem test_decz : contAt .amocDecz 2 = some (1, 0, []) ∧ contAt .amocDecz 1 = some (0, 1, [(5, 1)]) ∧ contAt .amocDecz 0 = some (0, 3, []) := by
  decide +kernel
theorem test_cont_cas : contAt .amocCas 9 = some (7, 1, [(5, 9)]) ∧ contAt .amocCas 8 = some (8, 0, []) := by decide +kernel

/-! ### R10, R155, R256: serai windows -/

/-- A store or load of the task in its own window. -/
def winAcc (k : AccKind) (off : Nat) : Access :=
  { acc k .sent with va := caravanBase + off, pa := 0x80000000000 + off, leaf := windowLeaf 0 (caravanBase + off) 0 0 }
/-- Inbox 1 armed. -/
def armedD (l : List Access) : Drover := { A l with ctl := { M.ctl with arm := 2 }, board := { (A l).board with pend := [(25, .inbox)] } }
theorem test_windows : (winAcc .store 0x1030008).region = .serai 0 0x1030008 ∧ windowOf 0x1030008 = .inbox 1 ∧
    (HS [winAcc .store 0x1030008] 0 id).chip.mapTarget 16 (winAcc .store 0x1030008) = some 16 ∧
    (A [winAcc .store 0x1030008]).arrived (winAcc .store 0x1030008) = true ∧ windowOf 0x1020000 = .mailbox ∧ windowOf 0x10008 = .bank 1 8 ∧
    windowOf 0x1002000 = .porter 2 := by decide +kernel
theorem test_inbox : (dv (.inboxMapWrite 16 1) (S (armedD [winAcc .store 0x1030008]))).map (fun d => (d.regs.getX 25, d.ctl.arm, d.board.pend)) = some (9, 0, []) ∧
    (dv (.inboxMapWrite 16 1) (S (A [winAcc .store 0x1030008]))).map (fun d => (d.regs.getX 25, d.ctl.ovr)) = some (9, 2) := by decide +kernel
theorem test_mailbox : (dv (.mailboxPush 16 1) (S (A [winAcc .store 0x1020000]))).map (fun d => d.queues.mbx.map (·.val)) = some [9] := by decide +kernel
theorem test_bank_port : (ac1 (.bankPortAccess 16 1) (atW (S (A [winAcc .load 0x10008])) (bytesOf 0 8 ++ bytesOf 0x99 8))).map (·.reply) = some 0x99 ∧
    (ac1 (.bankPortAccess 16 1) (S (A [winAcc .load 0x1002000]))).map (·.phase) = some .replied := by decide +kernel
/-- Two members; the first has an entry for the second. -/
def pair (n : Nat) : State :=
  let s := S { M with queues := { M.queues with outq := [(1, [⟨77, 0, []⟩])] } }
  { s with
    chip := { s.chip with
      drovers := put s.chip.drovers 17 { Drover.fresh false (some 1) with queues := { M.queues with inq := List.replicate n ⟨1, 0, []⟩ } },
      sched := { s.chip.sched with caravans := upd s.chip.sched.caravans 1 fun v => { v with members := [16, 17] } } } }
theorem test_peers : ((pair 0).chip.caravanOf? 16).map (fun v => v.members[1]?) = some (some 17) ∧
    ((chip? (exec (.peerQueueTransfer 16 1) (pair 31))).bind (·.drover? 17)).map (fun d => (d.queues.inq.getLast?).map (·.val)) = some (some 77) ∧
    (dv (.peerQueueTransfer 16 1) (pair 31)).map (fun d => look d.queues.outq 1) = some (some []) ∧
    ((chip? (exec (.peerQueueTransfer 16 1) (pair 32))).bind (·.drover? 17)).map (fun d => d.queues.inq.length) = some 32 := by decide +kernel

/-! ### R250, R260, R261, R263: caches and translations -/

/-- A load of a replicable page homed on another die: page 0x10 has its home on slice 16, so die 0; the task is moved to die 1. -/
abbrev line1 : Nat := canon 0x10010 / 64
/-- See `line1`. -/
def farDie (l : SMap (BitVec 512)) : State :=
  let a := { acc .load .sent with leaf := { State.placeLeaf with replicable := true } }
  let d := { A [a] with core := some 512 }
  { S d with chip := { (S d).chip with homes := { (S d).chip.homes.write 0x10010 (bytesOf 0x66 8) with rcache := l } } }
theorem test_remote_cache : (farDie []).cur?.map (·.die) = some 1 ∧ sliceOf 0x10010 / 64 = 0 ∧
    (hm (.remoteCacheFill 1 16 1) (farDie [])).map (fun h => look h.rcache (line1 * 8 + 1)) = some (some ((farDie []).chip.homes.line 0x10010)) ∧
    (ac1 (.remoteCacheFill 1 16 1) (farDie [(8 * line1 + 1, BitVec.ofNat 512 (0x77 * 2 ^ 128))])).map (·.reply) = some 0x77 ∧
    (hm (.remoteCacheEvict 1 line1) (farDie [(8 * line1 + 1, 0)])).map (·.rcache) = some [] ∧
    (hm (.remoteCacheInvalidate 1 line1) (farDie [(8 * line1 + 1, 0)])).map (·.rcache) = some [] := by decide +kernel
/-- The task waits for a translation. -/
def walking (va : Nat) : Drover := { M with hold := .walk va }
/-- With walks in progress, and uncorrectable words. -/
def walked (va : Nat) (l : List TableWalk) (bad : List Nat) : State :=
  let s := T (walking va) .running
  { s with chip := { s.chip with walkers := { s.chip.walkers with walks := l }, homes := { s.chip.homes with bad := bad } } }
/-- A walk that has read the root's entry, which names the table of level 2. -/
def second (va : Nat) : TableWalk := { die := 0, tag := (walking va).expTag, va := va, level := 2, table := 0x1080000 }
theorem test_walk : walkable ((walked 0x20000 [] []).chip.rootOf (walking 0x20000)) 0x20000 = true ∧ (walking 0x20000).walks 0x20000 = true ∧
    (walked 0x20000 [] []).chip.cachedLeaf 0 (walking 0x20000).expTag 0x20000 = none ∧
    (match (walked 0x20000 [] []).chip.homes.walkStep (walking 0x20000).expTag 0x20000 1 0x1000000 with | .on t => t | _ => 0) = 0x1080000 ∧
    (chip? (exec (.translationWalk 16 0x20000) (walked 0x20000 [] []))).map (·.walkers.walks) = some [second 0x20000] ∧
    (dv (.translationWalk 16 0x20000) (walked 0x20000 [second 0x20000] [])).map (fun d => (d.hold, d.mem.tlb.length)) = some (.idle, 2) := by
  decide +kernel
theorem test_walk_faults :
    (match (walked 0x40000000 [] []).chip.homes.walkStep 0 0x40000000 2 0x1080000 with | .fault => true | _ => false) = true ∧
    ((dv (.translationWalk 16 0x40000000) (walked 0x40000000 [second 0x40000000] [])).bind (·.trap)).map (fun r => (r.cause, r.val)) = some (3, 0x40000000) ∧
    (match (walked 0x20000 [] [wordKey 0x1080000]).chip.homes.walkStep 0 0x20000 2 0x1080000 with | .bad _ => true | _ => false) = true ∧
    ((dv (.translationWalk 16 0x20000) (walked 0x20000 [second 0x20000] [wordKey 0x1080000])).bind (·.trap)).map (fun r => (r.cause, r.val)) = some (3, 0x20000) ∧
    walkable 0 (2 ^ 57) = false := by decide +kernel
/-- A store to the translation control port. -/
def tcpAcc (data : Word) : Access := { acc .store .sent with va := 0x40000000000, pa := 0x40000000000, data := data }
theorem test_invalidate : (tcpAcc 0x10).region = .tcp ∧ (A [tcpAcc 0x10]).arrived (tcpAcc 0x10) = true ∧
    (hm (.invalidatePage 16 1) (S (A [tcpAcc 0x10]))).map (fun h => h.invals.map fun v => (v.kind, v.exp, v.vpn)) = some [(0, 0, 0x10)] ∧
    (dv (.invalidatePage 16 1) (S (A [tcpAcc 0x10]))).map (·.mem.tlb) = some [] ∧
    (dv (.invalidatePage 16 1) (S (A [tcpAcc 0x11]))).map (·.mem.tlb.length) = some 1 ∧
    (hm (.invalidateExpedition 16 1) (S (A [tcpAcc (2 ^ 61 + 3 * 2 ^ 45)]))).map (fun h => h.invals.map fun v => (v.kind, v.exp)) = some [(1, 3)] ∧
    (dv (.invalidateAll 16 1) (S (A [tcpAcc (2 ^ 62)]))).map (·.mem.tlb) = some [] := by decide +kernel
/-- An invalidation that waits for nothing. -/
def invalState : State :=
  HS [] 0 fun h => { h with invals := [{ kind := 2, exp := 0, vpn := 0, u := 16, seq := 1 }] }
theorem test_invalidation_performed : invalState.chip.inFlight { kind := 2, exp := 0, vpn := 0, u := 16, seq := 1 } = false ∧
    invalState.chip.pinned { kind := 2, exp := 0, vpn := 0, u := 16, seq := 1 } = false ∧
    (hm .invalidationPerformed invalState).map (·.invals) = some [] := by decide +kernel

/-! ### R148, R153: group steps -/

/-- The task has arrived at group 0, of which the given number have arrived before. -/
def arriving (n : Nat) : State :=
  let d := { MB 0 0 arrived with mem := { M.mem with accs := [acc (.arrive 0 false) .sent] } }
  { S d with chip := (S d).chip.onSched fun s => { s with exps := [(0, { exp0 with groups := [(0, { Group.fresh 3 with arrived := n })] })] } }
/-- Group 0 after an event. -/
def gr (i : Instr) (s : State) : Option Group := (chip? (exec i s)).bind (·.group? 0 0)
theorem test_group_arrival : (gr (.groupArrival 16 1) (arriving 1)).map (fun g => (g.arrived, g.phase)) = some (2, 0) ∧
    (gr (.groupArrival 16 1) (arriving 2)).map (fun g => (g.arrived, g.phase, g.arrivals)) = some (0, 1, []) := by decide +kernel
/-- The task has retired and was a member of group 0. -/
def departing (l : List (Nat × Bool)) : State :=
  let s := S (D 0 0)
  { s with
    chip := s.chip.onSched fun z =>
      { z with exps := [(0, { exp0 with groups := [(0, { Group.fresh 3 with arrived := 1, arrivals := l })] })],
               tasks := upd z.tasks 16 fun t => { t with state := .retired, groups := [some 0] } } }
theorem test_group_departure : (gr (.groupDeparture 16 0) (departing [(16, true)])).map (fun g => (g.deferred, g.count)) = some (1, 3) ∧
    (gr (.groupDeparture 16 0) (departing [])).map (fun g => (g.deferred, g.count, g.depFlag)) = some (0, 2, true) := by decide +kernel
/-- Two participants that disagree on the operation. -/
def disagree : State :=
  let g := { Group.fresh 2 with arrived := 2, colls := [{ u := 16, rd := 3, param := collBlock }, { u := 17, rd := 3, param := [1] ++ collBlock.drop 1 }] }
  { S (D 0 0) with chip := (S (D 0 0)).chip.onSched fun z => { z with exps := [(0, { exp0 with groups := [(0, g)] })] } }
theorem test_collective : collMismatch [{ u := 16, rd := 3, param := collBlock }, { u := 17, rd := 3, param := [1] ++ collBlock.drop 1 }] = true ∧
    (gr (.collectiveCombine 0 0) disagree).map (fun g => (g.phase, g.colls)) = some (1, []) := by decide +kernel

/-! ### R57 to R65, R161 to R169, R367: streams and copies at work -/

theorem test_engine (x y : Word) (v : Serai) (b : List Byte) : Engine (atW (V (D x y) v) b) 0 16 (D x y) v := rfl

/-- A porter that reads on from a descriptor. -/
def readPorter (w : BitVec 1024) : Serai :=
  porterIs fun q => { q with cond := 1, sid := 1, desc := w, walk := Walk.opened (descOf w), after := 1 }
/-- A tile at `W`: plain; ragged, with two offsets at W + 256; gathered, with its list there. -/
def plainTile : BitVec 1024 := descBits W.toNat 0 [(4, 1), (1, 4)]
/-- See `plainTile`. -/
def raggedTile : BitVec 1024 := plainTile + BitVec.ofNat 1024 ((W.toNat + 0x100) * 2 ^ 64 + 2 ^ 124)
/-- See `plainTile`. -/
def gatherTile : BitVec 1024 := plainTile + BitVec.ofNat 1024 ((W.toNat + 0x100) * 2 ^ 64 + 2 * 2 ^ 144)
/-- Porter 2 after an event on a serai with bytes at `W`. -/
def po (i : Instr) (v : Serai) (b : List Byte) : Option Porter := (ser (exec i (atW (V M v) b))).map (·.porter 2)
/-- Four elements at `W` and two entries at W + 256. -/
def tileBytes : List Byte := [1, 2, 3, 4] ++ List.replicate 252 0 ++ bytesOf 0 4 ++ bytesOf 4 4
theorem test_offsets : M.cleared 1 = true ∧ (Walk.opened (descOf raggedTile)).offsRead = false ∧ (descOf raggedTile).check = none ∧
    (po (.offsetsRead 0 2) (readPorter raggedTile) tileBytes).map (·.walk.offs) = some [0] := by decide +kernel
theorem test_gather : (descOf gatherTile).check = none ∧
    ((Walk.opened (descOf gatherTile)).begin (descOf gatherTile)).1.gatherDue (descOf gatherTile) = true ∧
    (po (.gatherEntryRead 0 2) (readPorter gatherTile) tileBytes).map (·.walk.gatherNext) = some 1 := by decide +kernel
theorem test_porter_read : (po (.porterRead 0 2) (readPorter plainTile) tileBytes).map (fun q => q.buf.map fun t => (t.kind, t.mask, t.payload)) =
    some [(0, 0xF, 0x04030201)] := by decide +kernel
/-- The module with porter 2 bound to the mailbox. -/
def boundState (v : Serai) : State := { V M v with chip := { (V M v).chip with binds := [(.porter 16 2, .mailbox 16)] } }
/-- A DATA token of one lane. -/
def dataTok (w : Nat) : Token := { kind := 0, level := 0, mask := 1, payload := BitVec.ofNat 256 w }
theorem test_transfer : (boundState Serai.reset).chip.porterSink 16 2 Porter.reset = some (.mailbox 16) ∧
    (dv (.bindingTransfer 0 (.porter 2)) (boundState (porterIs fun q => { q with cond := 1, buf := [dataTok 5] }))).map (fun d => d.queues.mbx.map (·.val)) = some [5] ∧
    (ser (exec (.bindingTransfer 0 (.porter 2)) (boundState (porterIs fun q => { q with cond := 1, buf := [dataTok 5] })))).map (fun v => ((v.porter 2).buf, (v.porter 2).count)) =
      some ([], 1) := by decide +kernel
theorem test_drained : (po (.streamDrained 0 2) (porterIs fun q => { q with cond := 2, eotDone := true }) []).map (·.cond) = some 0 := by decide +kernel

/-- A whole chunk of 64 bytes at `W`, and one of module 5. -/
def chunk (l : Leaf) : Chunk :=
  { leaf := l, sid := 1, setTag := false, va := W.toNat, pa := PW, bytes := List.replicate 64 0x11, bits := List.replicate 64 0xFF }
/-- See `chunk`. -/
def winLeaf : Leaf := windowLeaf 0 W.toNat 0 0
/-- A writing porter with chunks and tokens. -/
def writePorter (k : List Chunk) (b : List Token) : Serai :=
  porterIs fun q => { q with cond := 1, dir := true, sid := 1, desc := plainTile, walk := Walk.opened (descOf plainTile), after := 1, chunks := k, buf := b }
theorem test_porter_write : chunkReady [chunk winLeaf] false = none ∧ chunkReady [chunk winLeaf, chunk winLeaf] false = some (chunk winLeaf) ∧
    (po (.porterWrite 0 2) (writePorter [chunk winLeaf, { chunk winLeaf with va := W.toNat + 64, pa := PW + 64 }] []) []).map (·.chunks.length) = some 1 ∧
    ((chip? (exec (.porterWrite 0 2) (V M (writePorter [chunk winLeaf, { chunk winLeaf with va := W.toNat + 64, pa := PW + 64 }] [])))).map (fun c => c.homes.num PW 2)) =
      some 0x1111 := by decide +kernel
theorem test_porter_eot : Token.eot.isEot = true ∧ (po (.porterWrite 0 2) (writePorter [] [Token.eot]) []).map (fun q => (q.cond, q.eotDone, q.count)) =
    some (2, true, 1) := by decide +kernel
/-- A chunk of module 5, to which link 0 leads, in a porter whose stream has ended. -/
def farPorter : State :=
  let k := { chunk { winLeaf with rmt := true, dev := 5 } with pa := 0x10000 }
  let s := V M (porterIs fun q => { q with cond := 2, dir := true, eotDone := true, chunks := [k] })
  { s with chip := { s.chip with routes := [(5, 0)] } }
theorem test_write_packets : (ser (exec (.writePacketSend 0 2) farPorter)).map (fun v => ((v.porter 2).packets, (v.porter 2).chunks)) = some ([0], []) := by
  decide +kernel

/-- Porter 5 writes; channel 1 holds a copy. -/
def copying (f : CopyJob → CopyJob) : Serai :=
  (porterIs id).onPorter 5 (fun q => { q with cond := 1, dir := true }) |> fun v => { v with copy := { v.copy with ch := #v[[], [f (job 1), job 2]] } }
theorem test_copy_move : (ser (exec (.copyMove 0 1) (V M (copying fun j => { j with buf := [dataTok 5] })))).map (fun v =>
      ((v.porter 5).buf, (v.copy.jobs 1).map (·.buf))) = some ([dataTok 5], [[], []]) := by decide +kernel
/-- x3 awaits the copy. -/
def awaits : Drover := { M with board := { M.board with pend := [(3, .copy 1 1)] } }
theorem test_copy_complete : (dr? (exec (.copyComplete 0 1) (V awaits (copying fun j => { j with eotDone := true, moved := 7, rd := 3 })))).map (fun d => (d.regs.getX 3, d.board.pend)) =
      some (0x700000000, []) ∧
    (ser (exec (.copyComplete 0 1) (V awaits (copying fun j => { j with eotDone := true, moved := 7, rd := 3 })))).map (fun v => (v.copy.jobs 1).length) = some 1 := by decide +kernel

/-! ### R225 to R241: contexts -/

/-- Context 1 parses tokens of porter 2. -/
def parseCtx (f : Context → Context) (b : List Token) : Serai :=
  (ctxIs fun x => f { x with cond := 1, grammar := some gramImage, porter := some 2 }).onPorter 2 fun q => { q with cond := 1, buf := b, claim := some (.context 1) }
/-- Context 1 after an event. -/
def cx (i : Instr) (v : Serai) : Option Context := (ser (exec i (V M v))).map (·.ctx 1)
/-- Terminal column 9 is on the stack, and the token is `eot`. -/
def matching : Serai := parseCtx (fun x => { x with stack := [.term 9 none 0, .term 1 none 0] }) [Token.eot]
theorem test_parse : matching.granted 1 = true ∧ (matching.nextStep 1).map (·.1) = some .parse ∧
    (cx (.parseStep 0 1) matching).map (fun x => (x.stack, x.out)) = some ([.term 1 none 0], [.tok Token.eot]) := by decide +kernel
theorem test_skip : ((parseCtx (fun x => { x with skip := some (15, 0) }) [dataTok 1]).nextStep 1).map (·.1) = some .skip ∧
    (cx (.skip 0 1) (parseCtx (fun x => { x with skip := some (15, 0) }) [dataTok 1])).map (·.skip) = some (some (15, 0)) ∧
    (cx (.skip 0 1) (parseCtx (fun x => { x with skip := some (15, 0) }) [Token.eot])).map (·.skipMark) = some (some (15, 0)) := by decide +kernel
theorem test_pop : ((parseCtx (fun x => { x with skipMark := some (15, 0), stack := [.term 1 none 0] }) [Token.eot]).nextStep 1).map (·.1) = some .pop ∧
    (cx (.recoveryPop 0 1) (parseCtx (fun x => { x with skipMark := some (15, 0), stack := [.term 1 none 0, .nonterm 0 none 0] }) [Token.eot])).isSome = true := by
  decide +kernel
theorem test_forward_out : (cx (.contextForward 0 1) (ctxIs fun x => { x with cond := 1, out := [.tok (dataTok 1)] })).map (·.out) = some [] := by decide +kernel
/-- Context 1 with a fired action. -/
def fired (w : Nat) (o : List OutItem) : Serai := { ctxIs (fun x => { x with cond := 1, afifo := [{ idx := 0, word := w }], out := o }) with pages := [(9, page1)] }
theorem test_inject : ((fired (3 * 2 ^ 48) [.inject]).ctx 1).dueInject = some { idx := 0, word := 3 * 2 ^ 48 } ∧
    ((ser (exec (.inject 0 1) (V M (fired (3 * 2 ^ 48) [.inject])))).bind (look ·.pages 9)).map (fun g => look g.fifos 0 |>.map fun l => l.map (·.tok)) =
      some (some [Token.directive 3]) ∧
    (cx (.inject 0 1) (fired (3 * 2 ^ 48) [.inject])).map (fun x => (x.afifo, x.out)) = some ([], []) := by decide +kernel
theorem test_post : ((fired (2 ^ 60 + 77) []).ctx 1).due 1 = some { idx := 0, word := 2 ^ 60 + 77 } ∧
    (dr? (exec (.post 0 1) (V M (fired (2 ^ 60 + 77) [])))).map (fun d => d.queues.act.map (·.val)) = some [0x400000000000004D] := by decide +kernel
theorem test_command : ((fired (2 * 2 ^ 60) []).ctx 1).due 2 = some { idx := 0, word := 2 * 2 ^ 60 } ∧
    (cx (.command 0 1) (fired (2 * 2 ^ 60) [])).map (fun x => (x.cmdfail, x.afifo)) = some (true, []) := by decide +kernel
/-- Its command opens porter 3 from the descriptor at `W`. -/
def opens : Serai := (fired (2 * 2 ^ 60) []).onCtx 1 fun x => { x with ctab := [1, 3, 0, 0, 0, 0, 0, 0] ++ bytesOf W.toNat 8 ++ List.replicate 240 0 }
theorem test_command_open : (ser (exec (.command 0 1) (atW (V M opens) (leBytes plainTile.toNat 128)))).map (fun v => ((v.ctx 1).cmds, (v.porter 3).cond)) =
    some ([1], 1) := by decide +kernel
theorem test_trap_action : (dr? (exec (.trapAction 0 1) (V M (fired (3 * 2 ^ 60 + 5) [])))).map (fun d => d.async.map fun r => (r.cause, r.val)) = some [(0x13, 5)] ∧
    (cx (.trapAction 0 1) (fired (3 * 2 ^ 60 + 5) [])).map (·.trapWait) = some true := by decide +kernel

/-! ### R194 to R223: cells, hops and routers -/

/-- A cell word (R77): operation, format, the three inputs, and the rest. -/
def cellBits (op fmt a b rest : Nat) : BitVec 128 := BitVec.ofNat 128 (op * 2 ^ 120 + fmt * 2 ^ 114 + a * 2 ^ 108 + b * 2 ^ 104 + rest)
/-- A token that has arrived and that nothing has read. -/
def hopTok (t : Token) : HopTok := { tok := t, byCell := false, byXv := false, here := true }
/-- A page whose cell 0 and router 0 are as given, with input portals 0, 2 and 3 and tokens admitted there. -/
def cellPage (w : BitVec 128) (x : BitVec 64) (a b c : List Token) : Page :=
  { page1 with
    cells := page1.cells.set 0 w, xvs := page1.xvs.set 0 x, portals := [0x100, 0x180, 0x101, 0x102, 0, 0, 0, 0],
    fifos := [(0, a.map hopTok), (2, b.map hopTok), (3, c.map hopTok)], admitted := [(0, 5), (2, 5), (3, 5)] }
/-- The serai with that page, 9, in quarter 0. -/
def wing (g : Page) : Serai := { Serai.reset with pages := [(9, g)] }
/-- Page 9 after an event. -/
def pg9 (i : Instr) (g : Page) : Option Page := (ser (exec i (V M (wing g)))).bind (look ·.pages 9)
/-- What cell 0's output register then holds: kind, level, mask and the payload's low 64 bits. -/
def cellOut (i : Instr) (g : Page) : Option (Nat × Nat × Nat × Nat) :=
  ((pg9 i g).bind fun g => (g.cellAt 0).out).map fun t => (t.kind.toNat, t.level.toNat, t.mask.toNat, (t.payload.setWidth 64).toNat)
theorem test_page_at (g : Page) (h : g.quarter = some 0) : PageAt (V M (wing g)) 0 0 9 g :=
  ⟨16, M, wing g, rfl, by simp [wing, Serai.resident, h], rfl⟩

theorem test_cell_at (g : Page) (h : g.quarter = some 0) : CellAt (V M (wing g)) 0 0 0 9 g := ⟨test_page_at g h, rfl⟩

/-- ADD of 1 in INT32, from portal 0. -/
def addOne : BitVec 128 := cellBits 2 4 8 5 (1 * 2 ^ 50)
/-- Poison with a record. -/
def poisonTok : Token := { kind := 4, level := 0, mask := 1, payload := 0x123 }
theorem test_cell_data : (cellPage addOne 0 [dataTok 5] [] []).next 0 = .data [dataTok 5] ∧
    ((cellPage addOne 0 [dataTok 5] [] []).seat 0 0 9 0).poisonOf [dataTok 5] = none ∧
    cellOut (.cellDataFiring 0 0 0) (cellPage addOne 0 [dataTok 5] [] []) = some (0, 0, 1, 6) ∧
    (pg9 (.cellDataFiring 0 0 0) (cellPage addOne 0 [dataTok 5] [] [])).map (fun g => look g.fifos 0) = some (some []) := by decide +kernel
theorem test_cell_poison : ((cellPage addOne 0 [poisonTok] [] []).seat 0 0 9 0).poisonOf [poisonTok] = some (poisonTok, none) ∧
    (cellOut (.cellDataFiring 0 0 0) (cellPage addOne 0 [poisonTok] [] [])).map (·.1) = some 4 := by decide +kernel
/-- BLD from bank slots named by portal 0's token, first of its wave. -/
def bld : BitVec 128 := cellBits 37 4 8 0 (0x3FF * 2 ^ 20 + 0x3FE)
theorem test_cell_mem : ((cellPage bld 0 [dataTok 5] [] []).seat 0 0 9 0).w.op = .bld ∧ (cellPage bld 0 [dataTok 5] [] []).next 0 = .data [dataTok 5] ∧
    (pg9 (.cellDataFiring 0 0 0) (cellPage bld 0 [dataTok 5] [] [])).map (fun g => g.waves.map (·.cell)) = some [0] := by decide +kernel
/-- ACC with one slot of each half; slot 0's words are full. -/
def accState : State :=
  let s := V M (wing (cellPage (cellBits 36 8 8 0 (2 * 2 ^ 30)) 0 [{ dataTok 0x3F800000 with mask := 1 }] [] []))
  { s with chip := { s.chip with homes := { s.chip.homes with tags := (List.range 8).map fun k => 0x80000000000 / 8 + k } } }
theorem test_acc : (accState.chip.serai 0).pages.map (fun p => p.2.next 0) = [.data [{ dataTok 0x3F800000 with mask := 1 }]] ∧
    (chip? (exec (.accUpdate 0 0 0) accState)).map (fun c => c.homes.num (0x80000000000 + 64) 4) = some 0x3F800000 := by decide +kernel

/-- A CIM cell with a token, on a die of whose CIM cells the given number are active. -/
def cimState (k : Nat) : State :=
  let s := V M (wing (cellPage (cellBits 35 8 8 0 0) 0 [dataTok 0x3F800000] [] []))
  { s with chip := { s.chip with gov := { s.chip.gov with cims := s.chip.gov.cims.set 0 ((List.range k).map fun j => (j + 1, 9)) } } }
theorem test_cim : ((cellPage (cellBits 35 8 8 0 0) 0 [dataTok 0x3F800000] [] []).seat 0 0 9 0).w.op = .cim ∧
    (cellPage (cellBits 35 8 8 0 0) 0 [dataTok 0x3F800000] [] []).next 0 = .data [dataTok 0x3F800000] ∧ (cimState 0).chip.cimFull 0 0 0 0 = false ∧
    (chip? (exec (.cellDataFiring 0 0 0) (cimState 0))).map (fun c => c.gov.cims[0]) = some [(0, 1)] := by decide +kernel
theorem test_cim_full : (cimState 8192).chip.cimFull 0 0 0 0 = true ∧
    (chip? (exec (.cellDataFiring 0 0 0) (cimState 8192))).map (fun c => ((c.serai 0).pages.map fun p => (look p.2.fifos 0).map (·.length))) = some [some 1] := by
  decide +kernel

theorem test_cell_mark : (cellPage addOne 0 [Token.mark 3] [] []).next 0 = .marks [Token.mark 3] ∧
    (cellOut (.cellMarkStep 0 0 0) (cellPage addOne 0 [Token.mark 3] [] [])).map (fun t => (t.1, t.2.1)) = some (1, 3) := by decide +kernel
/-- ADD of portals 0 and 2. -/
def addTwo : BitVec 128 := cellBits 2 4 8 10 0
theorem test_cell_mismatch : (cellPage addTwo 0 [Token.mark 3] [Token.mark 2] []).next 0 = .marks [Token.mark 3, Token.mark 2] ∧
    (cellOut (.cellMarkStep 0 0 0) (cellPage addTwo 0 [Token.mark 3] [Token.mark 2] [])).map (·.1) = some 4 := by decide +kernel
theorem test_cell_side : (cellPage addOne 0 [Token.directive 1] [] []).next 0 = .side 0 8 (Token.directive 1) ∧
    (pg9 (.cellDirectiveStep 0 0 0) (cellPage addOne 0 [Token.directive 1] [] [])).map (fun g => look g.fifos 0) = some (some []) ∧
    (pg9 (.cellScaleStep 0 0 0) (cellPage addOne 0 [{ kind := 2, level := 0, mask := 1, payload := 0x80 }] [] [])).map (fun g => look g.fifos 0) = some (some []) := by
  decide +kernel
/-- Cell 0 has a second token to emit. -/
def emitting : Page := { cellPage addOne 0 [] [] [] with cst := [(0, { Cell.fresh (cellOf addOne) with emit := [dataTok 7] })] }
theorem test_cell_emit : emitting.hasCell 0 = true ∧ (cellOut (.cellEmitNext 0 0 0) emitting).map (·.2.2.2) = some 7 := by decide +kernel
/-- Cell 0's result goes E; the cell there reads its W input. -/
def sending (l : List HopTok) : Page :=
  let g := cellPage (addOne + BitVec.ofNat 128 (4 * 2 ^ 96)) 0 [] [] []
  { g with cells := g.cells.set 1 (cellBits 2 4 4 5 0), cst := [(0, { Cell.fresh (cellOf addOne) with out := some (dataTok 7) })], hops := [(1, l)] }
theorem test_output_move : (sending []).roomFor 0 ((sending []).word 0).omask (oportOf ((sending []).word 0).oport) = true ∧
    (pg9 (.outputMove 0 0 0 0) (sending [])).map (fun g => ((lookD g.hops 1 []).length, (g.cellAt 0).out)) = some (1, none) ∧
    (sending [hopTok (dataTok 1), hopTok (dataTok 1)]).roomFor 0 ((sending []).word 0).omask (oportOf ((sending []).word 0).oport) = false ∧
    (pg9 (.outputMove 0 0 0 0) (sending [hopTok (dataTok 1), hopTok (dataTok 1)])).map (fun g => (lookD g.hops 1 []).length) = some 2 := by decide +kernel
theorem test_vein_hop : (sending []).hopRead (hopKey 0 1) = true ∧ (sending []).hopRead (hopKey 0 2) = false ∧
    (pg9 (.veinHop 0 0 0 1) (sending [{ hopTok (dataTok 1) with here := false }])).map (fun g => (lookD g.hops 1 []).map (·.here)) = some [true] ∧
    (pg9 (.veinHop 0 0 0 2) { sending [] with hops := [(2, [hopTok (dataTok 1)])] }).map (fun g => lookD g.hops 2 []) = some [] := by decide +kernel

/-- A router word (R80): operator, control and data inputs, output masks, rmap. -/
def xvBits (op ctl a b omt omf rmap : Nat) : BitVec 64 :=
  BitVec.ofNat 64 (op * 2 ^ 60 + ctl * 2 ^ 56 + a * 2 ^ 52 + b * 2 ^ 48 + omt * 2 ^ 44 + omf * 2 ^ 40 + rmap * 2 ^ 16)
/-- Router 0 after an event. -/
def rt (i : Instr) (g : Page) : Option Router := (pg9 i g).map (·.routerAt 0)
theorem test_router_structure : (∀ j, j ∈ [(Instr.steer 0 0 0, 1), (.merge 0 0 0, 2), (.carry 0 0 0, 3), (.inv 0 0 0, 4), (.fork 0 0 0, 5)] →
    (pg9 j.1 (cellPage 0 (xvBits j.2 8 10 11 4 2 0) [Token.mark 3] [] [])).map (fun g => look g.fifos 0) = some (some [])) := by decide +kernel
theorem test_steer : (rt (.steer 0 0 0) (cellPage 0 (xvBits 1 8 10 0 4 2 0) [dataTok 1] [dataTok 5] [])).map (fun r => (r.out, r.dirs)) = some (some (dataTok 5), 4) ∧
    (rt (.steer 0 0 0) (cellPage 0 (xvBits 1 8 10 0 4 2 0) [dataTok 0] [dataTok 5] [])).map (fun r => (r.out, r.dirs)) = some (some (dataTok 5), 2) ∧
    (rt (.steer 0 0 0) (cellPage 0 (xvBits 1 8 10 0 4 0 0) [dataTok 0] [dataTok 5] [])).map (·.out) = some none := by decide +kernel
theorem test_merge : (dataTok 1).truth = (true, false) ∧ (rt (.merge 0 0 0) (cellPage 0 (xvBits 2 8 10 11 4 2 0) [dataTok 1] [dataTok 5] [])).map (·.out) = some (some (dataTok 5)) := by
  decide +kernel
theorem test_carry : (rt (.carry 0 0 0) (cellPage 0 (xvBits 3 8 10 11 4 2 0) [] [dataTok 5] [])).map (fun r => (r.out, r.loop)) = some (some (dataTok 5), true) := by
  decide +kernel
theorem test_inv : (rt (.inv 0 0 0) { cellPage 0 (xvBits 4 8 10 0 4 2 0) [dataTok 1] [] [] with xst := [(0, { Router.fresh with held := some (dataTok 5) })] }).map
    (fun r => (r.out, r.held)) = some (some (dataTok 5), some (dataTok 5)) := by decide +kernel
theorem test_fork : (rt (.fork 0 0 0) (cellPage 0 (xvBits 5 0 10 0 6 0 0) [] [dataTok 5] [])).map (·.out) = some (some (dataTok 5)) := by decide +kernel
theorem test_route : (rt (.route 0 0 0 1) (cellPage 0 (xvBits 0 0 0 0 0 0 0x0A00) [] [dataTok 5] [])).map (fun r => (r.out, r.dirs)) = some (some (dataTok 5), 4) := by
  decide +kernel
theorem test_router_move : (pg9 (.outputMove 0 0 0 1) { cellPage 0 (xvBits 5 0 10 0 4 0 0) [] [] [] with xst := [(0, { Router.fresh with out := some (dataTok 7), dirs := 2, emit := [dataTok 8] })] }).map
    (fun g => ((g.routerAt 0).out, (lookD g.hops 2 []).map (·.tok))) = some (some (dataTok 8), [dataTok 7]) := by decide +kernel

/-- A poisoned operation of cell 0 stands in the wave-order unit. -/
def waving : Page := { cellPage bld 0 [] [] [] with waves := [{ cell := 0, q := poisonTok, d := poisonTok }] }
theorem test_wave : waving.waveNext (waving.word 0) = true ∧ (cellOut (.waveOrderPerform 0 0 0) waving).map (·.1) = some 4 ∧
    (pg9 (.waveOrderPerform 0 0 0) waving).map (fun g => (g.waves.length, g.lastWave)) = some (0, (0, 0x3FE)) := by decide +kernel
/-- Portal 0 has a token that no firing has been given. -/
def enabledPage : Page := { page1 with fifos := [(0, [hopTok (dataTok 1)])] }
theorem test_firing : enabledPage.enabled = true ∧ (pg9 (.firingAdmit 0 0) enabledPage).map (fun g => (g.firings, look g.admitted 0)) = some (1, some 1) := by
  decide +kernel

/-! ### R298, R299: the pager -/

/-- A page that waits for a quarter with a token. -/
def waitingPage : Page := { enabledPage with portals := [0x140, 0x180, 0, 0, 0, 0, 0, 0], quarter := none }
/-- The pager's state after an event. -/
def pager (i : Instr) (v : Serai) (t : Nat) : Option Pager := (ser (exec i { V M v with cycle := t })).map (·.pager)
/-- Four resident pages, and one that waits. -/
def fullWing : Serai := { Serai.reset with pages := ((List.range 4).map fun k => (k, { page1 with quarter := some k, since := k })) ++ [(9, waitingPage)] }
theorem test_pager_close : ({ paged with pages := [(9, page1), (10, waitingPage)] } : Serai).pageCandidate = some (10, waitingPage) ∧
    pager (.pagerClose 0) { paged with pages := [(9, page1), (10, waitingPage)] } 5 = some (.saved 1 10 5) ∧
    (fullWing.pageVictim 1).map (·.1) = some 0 ∧ pager (.pagerClose 0) fullWing 5 = some (.closing 0 9 0 5) := by decide +kernel
/-- The pager closes quarter 0 of page 0 since cycle 0. -/
def closing (f : Page → Page) : Serai := { fullWing with pages := upd fullWing.pages 0 f, pager := .closing 0 9 0 0 }
theorem test_pager_timeout : pager (.pagerCloseTimeout 0) (closing fun g => { g with admitted := [(0, 1)] }) 4096 = some .idle ∧
    pager (.pagerCloseTimeout 0) (closing fun g => { g with admitted := [(0, 1)] }) 4095 = some (.closing 0 9 0 0) := by decide +kernel
theorem test_pager_save : pager (.pagerSave 0) (closing id) 10 = some (.saved 0 9 74) := by decide +kernel
theorem test_pager_load : pager (.pagerLoad 0) { closing (fun g => { g with quarter := none }) with pager := .saved 0 9 74 } 74 = some (.loaded 0 9 394) ∧
    pager (.pagerOpen 0) { fullWing with pager := .loaded 0 9 330 } 330 = some .idle := by decide +kernel
theorem test_page_expiry : (pg9 (.pageIdleExpiry 0 9) page1).map (·.idle) = some false ∧ page1.enabled = false ∧
    ((ser (exec (.pageIdleExpiry 0 9) { V M paged with cycle := 4096 })).bind (look ·.pages 9)).map (·.idle) = some true ∧
    ((ser (exec (.pagerExclusionExpiry 0 9) { V M (wing { page1 with excludedAt := some 0 }) with cycle := 65536 })).bind (look ·.pages 9)).map (·.excludedAt) = some none := by
  decide +kernel

/-! ### R136 to R138, R280 to R295: launches, watches, the bazaar -/

/-- Caravan 2, task 17 alone, of expedition 0, where it stands. -/
def cv2 (p : Place) : Caravan :=
  { exp := 0, tmpl := 5, members := [17], pinned := false, prio := 3, ready := 1, order := 0, agedAt := 0, passedAt := none, rose := none, origin := none, place := p, reason := none,
    watches := [], hint := 0, near := none, wake := false, dispatchedAt := 0, lastAdvert := 0 }
/-- The module with that caravan, its task out of a serai, in a cycle. -/
def B (v : Caravan) (t : Nat) (f : Chip → Chip) : State :=
  let s := T M .ready
  { s with
    cycle := t,
    chip := f { s.chip with
      drovers := put s.chip.drovers 17 (Drover.fresh false none),
      sched := { s.chip.sched with caravans := put s.chip.sched.caravans 2 v, nextCv := 3, nextKey := 18 } } }
/-- Caravan 2 after an event. -/
def cvAfter (i : Instr) (s : State) : Option Caravan := (chip? (exec i s)).bind (·.caravan? 2)
/-- A launch of a template that slice 0 has taken. -/
def launch (k : Nat) : Launch := { exp := 0, tmpl := k, old := 4, tag := 6, word := 0x10010, va := 0x10010, issuer := 16, since := 7, clk := [] }
/-- See `launch`. -/
def relayed (k : Nat) : State := B (cv2 .gone) 9 fun c => { c with homes := { c.homes with relay := [(0, launch k)] } }
theorem test_launch : (relayed 6).chip.launching (launch 6) = none ∧ ((relayed 5).chip.launching (launch 5)).map (fun g => (g.tem.size, g.args)) = some (1, [4, 6, 0x10010]) ∧
    (relayed 5).chip.takesEntry 0 0 = true ∧ (hm (.launchDelivery 0 0) (relayed 6)).map (·.relay) = some [] ∧
    ((chip? (exec (.launchDelivery 0 0) (relayed 5))).bind (·.caravan? 3)).map (fun v => (v.exp, v.members.length, v.ready, v.place)) = some (0, 1, 9, .queue 0) := by
  decide +kernel
/-- A launch of template 5 is in the spill area of expedition 0, whose word is homed on slice 16. -/
def spilt : State := B (cv2 .gone) 9 fun c => { c with sched := { c.sched with exps := upd c.sched.exps 0 fun x => { x with spill := [launch 5] } } }
theorem test_spilled_launch : sliceOf 0x10010 / 64 = 0 ∧ spilt.chip.nextSpilled 0 0 = some (spilt.chip.nextSpilled 0 0 |>.map (·.1) |>.getD 0, true, 0) ∧
    spilt.chip.queueLen 0 = 0 ∧ (spilt.chip.launching (launch 5)).map (·.tem.size) = some 1 ∧
    ((chip? (exec (.spillRefill 0 0) spilt)).bind (·.caravan? 3)).map (fun v => (v.exp, v.members.length, v.ready, v.place)) = some (0, 1, 7, .queue 0) := by
  decide +kernel
/-- Caravan 2 watches the word at 0x10010, empty or full. -/
def watching (f : Homes → Homes) : State := B { cv2 (.watching 0) with watches := [(0, 0x10010)] } 9 fun c => { c with homes := f { c.homes with tags := [] } }
theorem test_watch : (watching id).chip.watchPlaced 2 0 = false ∧ (watching id).chip.waiterRoom 0x10010 = true ∧
    (hm (.watchRegister 2 0) (watching id)).map (·.waiters) = some [.watch (wordKey 0x10010) 0x10010 2 0] ∧
    (cvAfter (.watchRegister 2 0) (watching full)).map (fun v => (v.watches, v.ready, v.place)) = some ([], 9, .queue 0) := by decide +kernel

/-- A module of which only serai 8 works on die 0, and whose expedition 0 may also run on module 5. -/
def oneSerai (c : Chip) : Chip :=
  { c with
    health := { c.health with withdrawn := (List.range 512).filter fun n => n != 8 },
    sched := { c.sched with exps := upd c.sched.exps 0 fun x => { x with modules := [0, 5] } } }
/-- The state of a caravan that is ready in it. -/
abbrev readyState : State := B (cv2 (.queue 0)) 9 oneSerai
theorem test_one_free : readyState.chip.freeSerais 0 = [8] := by
  have h : ∀ n, n ∈ List.range 512 → readyState.chip.seraiFree n = (n == 8) := by
    intro n hn
    by_cases h8 : n = 8
    · subst h8; decide +kernel
    · have hw : readyState.chip.health.withdrawn.contains n = true := by
        simp [readyState, B, oneSerai, List.mem_range.1 hn, h8]
      rw [Chip.seraiFree, hw]
      simp [h8]
  have hm : (List.range 512).map (fun i => 0 * 512 + i) = List.range 512 := by simp
  rw [Chip.freeSerais, hm, List.filter_congr h]
  decide +kernel
theorem test_chosen : readyState.chip.chosen 0 (cv2 (.queue 0)) = some [8] := by
  simp only [Chip.chosen, test_one_free]
  decide +kernel
theorem test_queued : readyState.chip.queuedAt 9 0 = [(2, cv2 (.queue 0))] := by decide +kernel
theorem test_never_fits : readyState.chip.neverFits (cv2 (.queue 0)) = false := by
  have h : ((readyState.chip.exp? (cv2 (.queue 0)).exp).any fun x => x.modules.all fun m => m == readyState.chip.mgmt.devid.toNat ||
      (look readyState.chip.sched.modWorking m).any fun n => decide (n < (cv2 (.queue 0)).members.length)) = false := by
    decide +kernel
  simp only [Chip.neverFits, h, Bool.and_false]
theorem test_fits : firstEntry ((readyState.chip.queuedAt 9 0).filter fun p => readyState.chip.neverFits p.2) = none := by
  simp [test_queued, test_never_fits, firstEntry, firstBy]
/-- What the only entry of a queue that fits gives. -/
theorem nextDispatch_single (c : Chip) (t die cv : Nat) (v : Caravan) (ns : List Nat) (hb : (c.sched.bazaars[die]?).bind (·.reserving) = none)
    (hq : c.queuedAt t die = [(cv, v)]) (hc : c.chosen die v = some ns) : c.nextDispatch t die = some (cv, v, c.assignment v ns) := by
  simp [Chip.nextDispatch, hb, hq, hc, firstEntry, firstBy]
theorem test_dispatch : readyState.chip.nextDispatch 9 0 = some (2, cv2 (.queue 0), [(17, 8)]) := by
  have ha : readyState.chip.assignment (cv2 (.queue 0)) [8] = [(17, 8)] := by decide +kernel
  exact ha ▸ nextDispatch_single _ _ _ _ _ _ (by decide +kernel) test_queued test_chosen
theorem test_dispatch_at_once : readyState.chip.dispatched 9 0 = false ∧ (cv2 (.queue 0)).levelAt 9 = 3 ∧ readyState.chip.writeouts [(17, 8)] = [] ∧ (readyState.chip.task? 17).map (·.slot) = some none := by decide +kernel
theorem test_reserving : (firstEntry ((B { cv2 (.queue 0) with passedAt := some 0 } 65536 id).chip.queued 0)).map (·.1) = some 2 ∧
    (chip? (exec (.reserving 0) (B { cv2 (.queue 0) with passedAt := some 0 } 65536 id))).map (fun c => c.sched.bazaars[(0 : Fin 8)].reserving) = some (some 2) ∧
    (chip? (exec (.reserving 0) (B { cv2 (.queue 0) with passedAt := some 0 } 65535 id))).map (fun c => c.sched.bazaars[(0 : Fin 8)].reserving) = some none := by decide +kernel
theorem test_aging : (cvAfter (.aging 2) (B (cv2 (.queue 0)) 0x100000 id)).map (fun v => (v.prio, v.agedAt)) = some (4, 0x100000) ∧
    (cvAfter (.aging 2) (B { cv2 (.queue 0) with prio := 7 } 0x100000 id)).map (·.prio) = some 7 := by decide +kernel
theorem test_refill : (cvAfter (.spillRefill 0 0) (B (cv2 (.spilled 0)) 5 id)).map (fun v => (v.place, v.agedAt)) = some (.queue 0, 5) := by decide +kernel
/-- Die 0 has no serai free; die 1 advertises one. -/
def noneFree (c : Chip) : Chip :=
  { c with
    health := { c.health with withdrawn := List.range 512 },
    sched := { c.sched with bazaars := c.sched.bazaars.set 1 { Bazaar.reset with advertised := 1 } } }
theorem test_none_free (v : Caravan) (t : Nat) (f : Chip → Chip) (h : ∀ c, (f c).health.withdrawn = List.range 512) :
    (B v t f).chip.freeSerais 0 = [] := by
  have hw : (B v t f).chip.health.withdrawn = List.range 512 := h _
  simp [Chip.freeSerais, Chip.seraiFree, hw]
  intros; omega
theorem test_migration : (B (cv2 (.queue 0)) 9 noneFree).chip.migrationPick 0 = some (2, cv2 (.queue 0), 1) ∧
    (B (cv2 (.queue 0)) 9 noneFree).chip.imagesFull (cv2 (.queue 0)) = true := by
  refine ⟨?_, by decide +kernel⟩
  rw [Chip.migrationPick, test_none_free _ _ _ fun c => by simp [noneFree]]
  decide +kernel
theorem test_migration_receive : (∀ p, p ∈ (B (cv2 (.migrating 0 1)) 9 id).chip.sched.caravans → (p.2.comesTo 1).isSome = true → p = (2, cv2 (.migrating 0 1))) ∧
    (cvAfter (.migrationReceive 1) (B (cv2 (.migrating 0 1)) 9 id)).map (·.place) = some (.queue 1) := by decide +kernel
/-- Expedition 0 runs on modules 0 and 5, and module 5, to which link 0 leads, has advertised room. -/
def neighbours (c : Chip) : Chip :=
  { noneFree c with
    routes := [(5, 0)],
    sched := { c.sched with exps := upd c.sched.exps 0 fun x => { x with modules := [0, 5] }, modAdverts := [(5, 1)] } }
theorem test_module_migration : (B (cv2 (.queue 0)) 65536 neighbours).chip.modulePick 65536 0 = some (2, cv2 (.queue 0)) ∧
    (B (cv2 (.queue 0)) 65536 neighbours).chip.mayTravel (cv2 (.queue 0)) = true ∧ ((B (cv2 (.queue 0)) 65536 neighbours).chip.linkTo 5).isSome = true ∧
    lookD (B (cv2 (.queue 0)) 65536 neighbours).chip.sched.modAdverts 5 0 = 1 := by
  refine ⟨?_, by decide +kernel⟩
  rw [Chip.modulePick, test_none_free _ _ _ fun c => by simp [neighbours, noneFree]]
  decide +kernel
/-- The caravan is on serai 8 and has been blocked since cycle 0. -/
def blocked (c : Chip) : Chip :=
  { c with drovers := put c.drovers 17 { Drover.fresh false (some 8) with run := .running, hold := .sleep, blockedAt := some (0, 32) } }
theorem test_yield_threshold : (B (cv2 (.resident 0)) 65536 blocked).chip.living (cv2 (.resident 0)) = [17] ∧
    (B (cv2 (.resident 0)) 65536 blocked).chip.allBlocked 65536 (fun d => d.ctl.yieldth.toNat) (cv2 (.resident 0)) = true ∧
    (cvAfter (.yieldThreshold 2) (B (cv2 (.resident 0)) 65536 blocked)).map (·.reason) = some (some 0) ∧
    (cvAfter (.yieldThreshold 2) (B (cv2 (.resident 0)) 65535 blocked)).map (·.reason) = some none := by decide +kernel
/-- Die 0 has counted a deadlock of expedition 0 since cycle 0; caravan 1 is gone. -/
def deadlocked (c : Chip) : Chip :=
  { blocked c with
    sched := { c.sched with
      caravans := upd c.sched.caravans 1 (fun v => { v with place := .gone }), bazaars := c.sched.bazaars.set 0 { Bazaar.reset with deadlock := [(0, 0)] } } }
theorem test_deadlock : (B (cv2 (.resident 0)) 65536 deadlocked).chip.residents 0 0 = [(2, cv2 (.resident 0))] ∧
    (cvAfter (.deadlockPreempt 0 0) (B (cv2 (.resident 0)) 65536 deadlocked)).map (·.reason) = some (some 2) ∧
    (cvAfter (.deadlockPreempt 0 0) (B (cv2 (.resident 0)) 65535 deadlocked)).map (·.reason) = some none := by decide +kernel
theorem test_advertise : (B (cv2 .gone) 4096 id).chip.sched.bazaars[0]? = some Bazaar.reset ∧ Bazaar.reset.advertisedAt + 4096 ≤ (B (cv2 .gone) 4096 id).cycle ∧
    (B (cv2 .gone) 65536 neighbours).chip.modules.contains 5 = true ∧ look (B (cv2 .gone) 65536 neighbours).chip.sched.advertSent 5 = none := by
  decide +kernel

/-! ### R337 to R340, R290: saving, in a chrysalis area that a page of the task maps -/

/-- Where the page of 2^30 bytes at address 0 stands in memory. -/
abbrev mapsTo : Nat := 0x8000000000
/-- The page's leaf. -/
def bigLeaf : Leaf :=
  { expid := 0, vbase := 0, size := 2 ^ 30, pbase := mapsTo, rmt := false, dev := 0, canR := true, canW := true, canX := true, user := true, fmt := 0x3F,
    watched := false, tagged := true, replicable := false }

theorem canon_hbmD {pa : Nat} (h1 : 0x8000000000 ≤ pa) (h2 : pa < 0x10000000000) : canon pa = pa := by
  have : regionOf pa = .hbmD := by simp [regionOf, Nat.not_lt.2 h1, h2]
  simp [canon, this]

/-- The walkers of die 0 hold that leaf, no word is uncorrectable, and nothing is on its way; the drover is of a task of expedition 0 there. -/
structure Tab (c : Chip) (d : Drover) : Prop where
  task : d.steward = false
  exp : d.exp = 0
  site : d.site = 0
  good : c.homes.bad = []
  held : lookD c.walkers.leaves 0 [] = [bigLeaf]
  quiet : ∀ p, p ∈ c.drovers → p.2.mem.accs = []

theorem Tab.tag {c : Chip} {d : Drover} (t : Tab c d) : d.expTag = 0 := by simp [Drover.expTag, t.task, t.exp]

theorem bigLeaf_covers {va : Nat} (h : va < 2 ^ 30) : bigLeaf.covers 0 va = true := by
  simp [Leaf.covers, bigLeaf]
  omega

theorem Tab.leaf {c : Chip} {d : Drover} (t : Tab c d) (u : Nat) {va : Nat} (h : va < 2 ^ 30) (n : Need) (hn : n = .read ∨ n = .write)
    (pins : List Leaf) (hp : pins = [] ∨ pins = [bigLeaf]) : c.engineLeaf u d va n pins = .ok bigLeaf c := by
  have b1 : bitsOf va 45 12 ≠ 0xFFF := by simp only [bitsOf]; omega
  have hr : c.resolve u d va = .leaf bigLeaf := by
    have ht : c.translate u { d with mem := { d.mem with tlb := [] } } va = .miss := by
      have h57 : ¬2 ^ 57 ≤ va := by omega
      simp [Chip.translate, t.task, b1, h57, -Nat.reducePow]
    have hc : c.cachedLeaf d.site d.expTag va = some bigLeaf := by
      simp only [Chip.cachedLeaf, t.site, t.tag, t.held, List.find?_cons, bigLeaf_covers h]
    simp only [Chip.resolve, ht, hc]
    rfl
  have hf : engineFault d.steward bigLeaf va n = none := by
    have hreg : regionOf (mapsTo + (va - 0)) = .hbmD := by
      have hm : mapsTo = 0x8000000000 := rfl
      rw [regionOf, if_neg (by omega), if_pos (by omega)]
    have e : engineFault false bigLeaf va n =
        (match regionOf (mapsTo + (va - 0)) with
          | .hbmD => if !bigLeaf.grants false n then some 4 else none
          | _ => engineFault false bigLeaf va n) := by
      rw [hreg]
      simp only [engineFault, Leaf.pa, bigLeaf, hreg]
      rfl
    rw [t.task, e, hreg]
    rcases hn with rfl | rfl <;> rfl
  have hk : c.keepLeaf 0 bigLeaf = c := by simp [Chip.keepLeaf, t.held]
  rcases hp with rfl | rfl
  · simp only [Chip.engineLeaf, List.find?_nil, hr, hf, t.site, hk, ite_self]
  · simp only [Chip.engineLeaf, List.find?_cons, t.tag, bigLeaf_covers h, hf]

theorem Tab.calm {c : Chip} {d : Drover} (t : Tab c d) (u : Nat) (clk : SMap Nat) (pa : Nat) : c.behind u clk pa = false := by
  rw [Chip.behind, List.any_eq_false]
  intro p hp
  simp [t.quiet p hp]

theorem Tab.store {c : Chip} {d : Drover} (t : Tab c d) (pa : Nat) (bs : List Byte) : Tab (c.onHomes fun h => h.storeBytes pa bs) d :=
  ⟨t.task, t.exp, t.site, by simp [Chip.onHomes, Homes.storeBytes, Homes.unrelease, Homes.clearBad, Homes.write, Homes.dropCopies, t.good], t.held, t.quiet⟩

theorem Tab.storeVa {d : Drover} (u fuel : Nat) {pins : List Leaf} (hp : pins = [] ∨ pins = [bigLeaf]) : ∀ {c : Chip} {va : Nat} {bs : List Byte}, Tab c d →
    va + bs.length ≤ 2 ^ 30 → (c.storeVa u d pins va fuel bs).2 = none ∧ Tab (c.storeVa u d pins va fuel bs).1 d := by
  induction fuel with
  | zero => intro c va bs t _; exact ⟨rfl, t⟩
  | succ fuel ih =>
    intro c va bs t h
    rw [Chip.storeVa]
    split
    · exact ⟨rfl, t⟩
    · rename_i hb
      have hl : 0 < bs.length := List.length_pos_iff.2 hb
      have hm : mapsTo = 0x8000000000 := rfl
      have hreg : regionOf (mapsTo + va) = .hbmD := by rw [regionOf, if_neg (by omega), if_pos (by omega)]
      have hf := t.leaf u (va := va) (by omega) .write (.inr rfl) pins hp
      have hw : c.writePiece u d va (bs.take (min bs.length (64 - va % 64))) pins =
          .ok false (c.onHomes fun h => h.storeBytes (mapsTo + va) (bs.take (min bs.length (64 - va % 64)))) := by
        rw [Chip.writePiece, hf]
        simp [Got.bind, Leaf.pa, bigLeaf, Chip.writeDropped, hreg]
      have hx : c.writeFails (bigLeaf.pa va) = (false, c) := by simp [Chip.writeFails, Homes.anyBad, t.good]
      have hr : bigLeaf.rmt = false := rfl
      have hd : (bs.drop (min bs.length (64 - va % 64))).length = bs.length - min bs.length (64 - va % 64) := by simp
      simp only [hf, hr, hx, hw, Bool.false_eq_true, if_false]
      exact ih (t.store _ _) (by omega)

theorem Tab.storeBlock {c : Chip} {d : Drover} (t : Tab c d) (u : Nat) {pins : List Leaf} (hp : pins = [] ∨ pins = [bigLeaf]) {va : Nat} {bs : List Byte}
    (h : va + bs.length ≤ 2 ^ 30) : ∃ c', c.storeBlock u d va bs pins = (c', none) ∧ Tab c' d :=
  ⟨_, Prod.ext rfl (Tab.storeVa u _ hp t h).1, (Tab.storeVa u _ hp t h).2⟩

theorem readBytes_split (m : Memory) (a k n : Nat) : m.readBytes a (k + n) = m.readBytes a k ++ m.readBytes (a + k) n := by
  simp only [Memory.readBytes, List.range_add, List.map_append, List.map_map]
  congr 1
  refine List.map_congr_left fun i _ => ?_
  simp [Nat.add_assoc]

theorem Tab.readVa {c : Chip} {d : Drover} (t : Tab c d) (agent u fuel : Nat) : ∀ {va n : Nat}, n ≤ 64 * fuel → va % 64 = 0 ∨ n = 0 →
    va + n ≤ 2 ^ 30 → c.readVa agent u d va fuel n = .ok (c.homes.mem.readBytes (mapsTo + va) n) c := by
  have hm : mapsTo = 0x8000000000 := rfl
  induction fuel with
  | zero =>
    intro va n h _ _
    have : n = 0 := by omega
    subst this
    rfl
  | succ fuel ih =>
    intro va n hn h64 h
    rw [Chip.readVa]
    split
    · rename_i h0
      rw [h0]
      rfl
    · rename_i h0
      have hp : c.readPiece agent u d va (min n (64 - va % 64)) = .ok (c.homes.mem.readBytes (mapsTo + va) (min n (64 - va % 64))) c := by
        have hreg : regionOf (mapsTo + va) = .hbmD := by rw [regionOf, if_neg (by omega), if_pos (by omega)]
        have he : c.readError (mapsTo + va) (min n (64 - va % 64)) = none := by simp [Chip.readError, hreg, Homes.anyBad, t.good]
        have hc : canon (mapsTo + va) = mapsTo + va := canon_hbmD (by omega) (by omega)
        have hl : bigLeaf.pa va = mapsTo + va := by simp [Leaf.pa, bigLeaf]
        have hr : bigLeaf.rmt = false := rfl
        rw [Chip.readPiece, t.leaf u (by omega) .read (.inl rfl) [] (.inl rfl)]
        simp only [Got.bind, hl, hr, t.calm, he, Homes.bytes, hc, Bool.false_eq_true, if_false]
      have e : n = min n (64 - va % 64) + (n - min n (64 - va % 64)) := by omega
      simp only [hp]
      rw [ih (va := va + min n (64 - va % 64)) (n := n - min n (64 - va % 64)) (by omega) (by omega) (by omega)]
      conv => rhs; rw [e, readBytes_split]
      rw [Nat.add_assoc]
      rfl

theorem readBytes_write (m : Memory) (a : Nat) (bs : List Byte) : (m.write a bs).readBytes a bs.length = bs := by
  refine List.ext_getElem (by simp [Memory.readBytes]) fun i h1 h2 => ?_
  simp only [Memory.readBytes, List.getElem_map, List.getElem_range, Memory.read_write]
  rw [if_pos ⟨by omega, by omega⟩]
  simp [List.getD_eq_getElem?_getD, h2]

theorem crc32Bit_lt {c : Nat} (h : c < 2 ^ 32) : crc32Bit c < 2 ^ 32 := by
  unfold crc32Bit
  split
  · exact Nat.xor_lt_two_pow (by omega) (by decide)
  · omega

theorem crc32c_lt (l : List Byte) : crc32c l < 2 ^ 32 := by
  have h : ∀ (l : List Byte) (c : Nat), c < 2 ^ 32 → l.foldl crc32Byte c < 2 ^ 32 := by
    intro l
    induction l with
    | nil => intro c h; exact h
    | cons b l ih =>
      intro c h
      refine ih _ ?_
      unfold crc32Byte
      iterate 8 apply crc32Bit_lt
      exact Nat.xor_lt_two_pow h (by have := b.isLt; omega)
  exact Nat.xor_lt_two_pow (h l _ (by decide)) (by decide)

theorem natOfBytes_leBytes4 {v : Nat} (h : v < 2 ^ 32) : natOfBytes (leBytes v 4) = v := by
  simp only [leBytes, natOfBytes, BitVec.toNat_ofNat]
  omega

/-- A sealed image: its parity, its checksum, and what that covers (R339). -/
theorem sealImage_good {head body : List Byte} (h : head.length = 60) :
    field (sealImage head body) 60 4 = crc32c ((sealImage head body).take 60 ++ leBytes 0 4 ++ (sealImage head body).drop 64) := by
  obtain ⟨q, hq⟩ : ∃ q, q = leBytes (crc32c (head ++ leBytes 0 4 ++ body)) 4 := ⟨_, rfl⟩
  have hl : q.length = 4 := by rw [hq]; rfl
  have e : sealImage head body = head ++ (q ++ body) := by rw [sealImage, hq, List.append_assoc]
  have e1 : (sealImage head body).take 60 = head := by rw [e]; exact List.take_left' h
  have e2 : (sealImage head body).drop 64 = body := by
    rw [e, ← List.append_assoc]
    exact List.drop_left' (by simp [h, hl])
  have e3 : slice (sealImage head body) 60 4 = q := by
    rw [slice, e, List.drop_left' h]
    exact List.take_left' hl
  rw [e1, e2, field, e3, hq]
  exact natOfBytes_leBytes4 (crc32c_lt _)

theorem Tab.slotPage {c : Chip} {d : Drover} (t : Tab c d) (u : Nat) {va : Nat} (h : va < 2 ^ 30) (b : Bool) : c.slotPage u d va b = .ok bigLeaf c := by
  rw [Chip.slotPage, t.leaf u h .write (.inr rfl) [] (.inl rfl)]
  simp [bigLeaf]

theorem Tab.slotWalk {c : Chip} {d : Drover} (t : Tab c d) (u : Nat) {va : Nat} (b : Bool) : ∀ {n : Nat}, va + 4096 * n ≤ 2 ^ 30 →
    c.slotWalk u d va b n = .ok (if n = 0 then [] else [bigLeaf]) c := by
  intro n
  induction n with
  | zero => intro _; rfl
  | succ n ih =>
    intro h
    rw [Chip.slotWalk, ih (by omega)]
    simp only [Got.bind]
    rw [t.slotPage u (by omega) b]
    by_cases h0 : n = 0 <;> simp [h0]

theorem Tab.tags {c : Chip} {d : Drover} (t : Tab c d) (src dst words : Nat) : Tab (c.onHomes fun h => h.copyTags src dst words) d := by
  have g : ∀ (l : List Nat) (h : Homes), (l.foldl (fun h i => h.setTag (dst + 8 * i) (h.tag (src + 8 * i))) h).bad = h.bad := by
    intro l
    induction l with
    | nil => intro h; rfl
    | cons i l ih => intro h; exact ih _
  exact ⟨t.task, t.exp, t.site, (g _ _).trans t.good, t.held, t.quiet⟩

theorem Tab.writeBanks {c : Chip} {d : Drover} (t : Tab c d) (u n va i : Nat) (h : va + lightBytes + 4096 * i ≤ 2 ^ 30) :
    ∃ c', c.writeBanks u d [bigLeaf] n va i = (c', none) ∧ Tab c' d := by
  induction i with
  | zero => exact ⟨c, rfl, t⟩
  | succ i ih =>
    obtain ⟨c1, e, t1⟩ := ih (Nat.le_trans (by omega) h)
    unfold Chip.writeBanks
    rewrite [e]
    have hx : va + lightBytes + 4096 * i + 4096 ≤ 2 ^ 30 := Nat.le_trans (Nat.le_of_eq (Nat.add_assoc _ _ _)) h
    have ha : va + lightBytes + 4096 * i < 2 ^ 30 := Nat.lt_of_lt_of_le (Nat.lt_add_of_pos_right (by decide : 0 < 4096)) hx
    have hl : (c1.homes.bytesLong (bankAddr n 0 0 + 4096 * i) 4096).length = 4096 := by rw [Homes.bytesLong, List.length_map, List.length_range]
    obtain ⟨c2, e2, t2⟩ := t1.storeBlock u (.inr rfl) (va := va + lightBytes + 4096 * i)
      (bs := c1.homes.bytesLong (bankAddr n 0 0 + 4096 * i) 4096) (Nat.le_trans (Nat.add_le_add_left (Nat.le_of_eq hl) _) hx)
    have hf := t2.leaf u ha .write (.inr rfl) [bigLeaf] (.inr rfl)
    have hr : bigLeaf.rmt = false := rfl
    simp only [e2, hf, hr, Bool.false_eq_true, if_false]
    exact ⟨_, rfl, t2.tags _ _ _⟩

/-- Task 17 of caravan 2, in serai 8 or out of it, saved in a slot or not, where the chrysalis area of expedition 0 at 0x100000 is in that page. -/
def SV (d : Drover) (v : Caravan) (slot : Option Nat) (t : Nat) (f : Chip → Chip) : State :=
  B v t fun c => f { c with
    drovers := [(17, d)], walkers := { c.walkers with leaves := [(0, [bigLeaf])] },
    sched := { c.sched with exps := [(0, exp0)], tasks := upd c.sched.tasks 17 fun t => { t with state := .running, slot := slot } } }
/-- Its drover on serai 8, and out of a serai. -/
def onEight : Drover := { Drover.fresh false (some 8) with run := .running }
/-- See `onEight`. -/
def outOf : Drover := Drover.fresh false none
/-- The caravan is to be saved for a yield. -/
def toSave : Caravan := { cv2 (.resident 0) with reason := some 0 }
theorem test_tab (d : Drover) (v : Caravan) (slot : Option Nat) (t : Nat) (h : d.steward = false) (k : d.exp = 0) (hs : d.site = 0) (ha : d.mem.accs = []) :
    Tab (SV d v slot t id).chip d := by
  refine ⟨h, k, hs, rfl, rfl, fun p hp => ?_⟩
  have : p = (17, d) := by simpa [SV, B] using hp
  rw [this]; exact ha
theorem test_saves (d : Drover) (v : Caravan) (slot : Option Nat) (t : Nat) : ∃ ta x, Saves (SV d v slot t id) 17 ta d v x ∧ x.chrysalis = 0x100000 ∧ x.slots = 4 ∧
    ta.alive = true ∧ ta.slot = slot ∧ ta.caravan = 2 := ⟨_, _, ⟨rfl, rfl, rfl, rfl⟩, rfl, rfl, rfl, rfl, rfl⟩
theorem test_save_walk : onEight.core = some 8 ∧ savesFull 0 = false ∧ look (SV onEight toSave none 9 id).chip.sched.saving 17 = none ∧
    ∃ table c1, (SV onEight toSave none 9 id).chip.readBlock (blockAgent 17) 17 onEight 0x100000 4 = .ok table c1 ∧ freeSlotOf table = some 0 ∧
      (c1.dropFar (blockAgent 17)).slotWalk 17 onEight (slotAddr 0x100000 0) true (imageBytes false / 4096) = .ok [bigLeaf] (c1.dropFar (blockAgent 17)) := by
  have t := test_tab onEight toSave none 9 rfl rfl rfl rfl
  refine ⟨rfl, rfl, rfl, _, _, t.readVa _ _ _ (by decide) (by decide) (by decide), by decide +kernel, ?_⟩
  have t' : Tab ((SV onEight toSave none 9 id).chip.dropFar (blockAgent 17)) onEight := ⟨t.task, t.exp, t.site, t.good, t.held, t.quiet⟩
  rw [t'.slotWalk 17 true (by decide), if_neg (by decide)]
/-- Where nothing maps the chrysalis area, the walk of the slot fails. -/
theorem test_save_walk_fails : (match ({ (SV onEight toSave none 9 id).chip with walkers := State.reset.chip.walkers } : Chip).slotWalk 17 onEight 0x110000 true 1 with
    | .bad why _ => why | _ => 0) = 1 := by decide +kernel
/-- Serai 8 is gated, and its save is in the given stage. -/
def stage (d : Drover) (x : Saving) (t : Nat) : State :=
  SV d toSave none t fun c => { c with sched := { c.sched with saving := [(17, x)] } }
theorem test_tab_stage (d : Drover) (x : Saving) (t : Nat) (h : d.steward = false) (k : d.exp = 0) (hs : d.site = 0) (ha : d.mem.accs = []) :
    Tab (stage d x t).chip d := by
  obtain ⟨a, b, c, e1, e2, e3⟩ := test_tab d toSave none t h k hs ha
  exact ⟨a, b, c, e1, e2, e3⟩
/-- The stages of the save. -/
abbrev walked0 : Saving := .walked 0 false [bigLeaf]
/-- See `walked0`. -/
abbrev gated0 : Saving := .gatedIn 0 false 0 [bigLeaf]
theorem test_gating : (stage onEight walked0 9).chip.allWalked toSave = true ∧ onEight.hold ≠ .yielding ∧
    look (stage onEight walked0 9).chip.sched.saving 17 = some walked0 ∧
    ((((stage onEight walked0 9).chip.setDrover 17 { onEight with run := .gated })).storeBlock 17 { onEight with run := .gated } (slotAddr 0x100000 0)
      [1, 2, 3, 4, 5, 6, 7, 8] [bigLeaf]).2 = none := by
  refine ⟨by decide +kernel, by decide, rfl, ?_⟩
  obtain ⟨c', e, _⟩ := Tab.storeBlock (c := (stage onEight walked0 9).chip.setDrover 17 { onEight with run := .gated })
    (d := { onEight with run := .gated }) ⟨rfl, rfl, rfl, rfl, rfl, fun p hp => by
      have : p = (17, { onEight with run := .gated }) := by simpa [stage, SV, B, Chip.setDrover, put] using hp
      rw [this]; rfl⟩ 17 (.inr rfl) (va := slotAddr 0x100000 0) (bs := [1, 2, 3, 4, 5, 6, 7, 8]) (by decide)
  rw [e]
theorem test_body_length (k : Nat) : (onEight.imageBody [] k).length = 98240 := by
  simp only [Drover.imageBody, List.flatMap_nil, List.nil_append, List.length_append, List.length_take, List.length_map, List.length_range]
  decide +kernel
theorem sealImage_length (head body : List Byte) : (sealImage head body).length = head.length + 4 + body.length := by
  have : (leBytes (crc32c (head ++ leBytes 0 4 ++ body)) 4).length = 4 := rfl
  simp only [sealImage, List.length_append, this]
/-- The module in which the image is made. -/
abbrev making : Chip := { (stage onEight gated0 1536).chip with free := (stage onEight gated0 1536).chip.free + 1 }
/-- R339, R340: an image of 98,304 bytes can be written, whatever its free bytes are. -/
theorem test_save_commit : (stage onEight gated0 1536).chip.mgmt.bootst = 1 ∧ onEight.mem.accs = [] ∧ (making.serai 8).tokens = [] ∧
    look (stage onEight gated0 1536).chip.sched.saving 17 = some gated0 ∧ 0 + 1536 + (if false then 262144 else 0) ≤ 1536 ∧
    ∀ head : List Byte, head.length = 60 → ∃ c1 c3,
      making.storeBlock 17 onEight (slotAddr 0x100000 0 + 64) ((sealImage head (onEight.imageBody [] making.free)).drop 64) [bigLeaf] = (c1, none) ∧
      c1.storeBlock 17 onEight (slotAddr 0x100000 0) ((sealImage head (onEight.imageBody [] making.free)).take 64) [bigLeaf] = (c3, none) := by
  refine ⟨rfl, rfl, by decide +kernel, rfl, by decide, fun head hh => ?_⟩
  have ha : slotAddr 0x100000 0 = 0x110000 := by decide
  have hl := sealImage_length head (onEight.imageBody [] making.free)
  rw [test_body_length, hh] at hl
  have t : Tab making onEight := by
    obtain ⟨a, b, c, e1, e2, e3⟩ := test_tab_stage onEight gated0 1536 rfl rfl rfl rfl
    exact ⟨a, b, c, e1, e2, e3⟩
  obtain ⟨c1, w1, t1⟩ := t.storeBlock 17 (.inr rfl) (va := slotAddr 0x100000 0 + 64) (bs := (sealImage head (onEight.imageBody [] making.free)).drop 64) (by
      rw [List.length_drop, hl, ha]; decide)
  obtain ⟨c3, w3, -⟩ := t1.storeBlock 17 (.inr rfl) (va := slotAddr 0x100000 0) (bs := (sealImage head (onEight.imageBody [] making.free)).take 64) (by
      rw [List.length_take, hl, ha]; decide)
  exact ⟨c1, c3, w1, w3⟩
theorem test_header_length (c : Chip) (n cycle : Nat) (t : Task) (v : Caravan) (x : Expedition) : ((c.imageHeader 17 n cycle t v x false false true).take 60).length = 60 := by
  simp [Chip.imageHeader, headerBytes, leBytes]

theorem byteAt_seal (x : Byte) (h b : List Byte) : byteAt (sealImage (x :: h) b) 0 = x.toNat := rfl

/-- An image with its checksum (R339): 98,304 bytes. -/
structure Good (b : List Byte) : Prop where
  length : b.length = 98304
  complete : byteAt b 0 % 2 = 1
  crc : field b 60 4 = crc32c (b.take 60 ++ leBytes 0 4 ++ b.drop 64)
/-- Zeros behind a complete header are such an image. -/
theorem test_good : Good (sealImage (1 :: List.replicate 59 0) (List.replicate 98240 0)) :=
  ⟨by rw [sealImage_length, List.length_cons, List.length_replicate, List.length_replicate],
    (congrArg (· % 2) (byteAt_seal 1 (List.replicate 59 0) (List.replicate 98240 0))).trans (by decide),
    sealImage_good (by rw [List.length_cons, List.length_replicate])⟩
/-- Task 17 is saved in slot 0 with that image, and serai 8 is to hold it again, or holds its banks and is to be tested. -/
def saved (b : List Byte) (t : Nat) : State :=
  SV outOf (cv2 (.resident 0)) (some 0) t fun c => { c with
    homes := { c.homes with mem := c.homes.mem.write (mapsTo + 0x110000) b },
    sched := { c.sched with restoring := [(8, 17)], heldBanks := [(8, 17)] },
    health := { c.health with testing := [.serai 8] } }
theorem test_tab_saved (b : List Byte) (t : Nat) : Tab (saved b t).chip outOf := by
  obtain ⟨a, c, d, e1, e2, e3⟩ := test_tab outOf (cv2 (.resident 0)) (some 0) t rfl rfl rfl rfl
  exact ⟨a, c, d, e1, e2, e3⟩
/-- What the reading of a slot whose pages serve answers. -/
theorem goodImage_of {c : Chip} {u k : Nat} {t : Task} {d : Drover} {x : Expedition} {pins : List Leaf} {b : List Byte} (ht : c.task? u = some t)
    (hd : c.drover? u = some d) (hs : t.slot = some k) (hx : c.exp? t.exp = some x)
    (hw : c.slotWalk u d (slotAddr x.chrysalis k) false (imageBytes t.full / 4096) = .ok pins c) (hp : ((pins.any fun l => l.rmt) && c.anyPosted) = false)
    (hr : c.readBlock (blockAgent u) u d (slotAddr x.chrysalis k) lightBytes = .ok b c) :
    c.goodImage u = if byteAt b 0 % 2 = 1 ∧ field b 60 4 = crc32c (b.take 60 ++ leBytes 0 4 ++ b.drop 64) then .ok b c else .bad 5 (slotAddr x.chrysalis k) := by
  have hb : ∀ {α β : Type} (a : α) (c : Chip) (f : α → Chip → Got β), (Got.ok a c).bind f = f a c := fun _ _ _ => rfl
  rw [Chip.goodImage, ht, hd]
  dsimp only
  rw [hs, hx]
  dsimp only
  rw [hw, hb, hp, if_neg Bool.false_ne_true, hr, hb]
theorem test_slot_reads (b : List Byte) : ∃ ta x, (saved b 1536).chip.task? 17 = some ta ∧ (saved b 1536).chip.drover? 17 = some outOf ∧ ta.slot = some 0 ∧
    (saved b 1536).chip.exp? ta.exp = some x ∧ slotAddr x.chrysalis 0 = 0x110000 ∧ ta.full = false :=
  ⟨_, _, rfl, rfl, rfl, rfl, by decide, rfl⟩
theorem test_slot_pages (b : List Byte) : (saved b 1536).chip.slotWalk 17 outOf 0x110000 false (imageBytes false / 4096) = .ok [bigLeaf] (saved b 1536).chip := by
  rw [(test_tab_saved b 1536).slotWalk 17 false (by decide), if_neg (by decide)]
theorem test_slot_bytes (b : List Byte) : (saved b 1536).chip.readBlock (blockAgent 17) 17 outOf 0x110000 lightBytes =
    .ok ((saved b 1536).chip.homes.mem.readBytes (mapsTo + 0x110000) lightBytes) (saved b 1536).chip := by
  rw [Chip.readBlock]
  exact (test_tab_saved b 1536).readVa _ _ _ (by decide) (by decide) (by decide)
theorem test_image (b : List Byte) : (saved b 1536).chip.goodImage 17 =
    if byteAt ((saved b 1536).chip.homes.mem.readBytes (mapsTo + 0x110000) lightBytes) 0 % 2 = 1 ∧
        field ((saved b 1536).chip.homes.mem.readBytes (mapsTo + 0x110000) lightBytes) 60 4 =
          crc32c (((saved b 1536).chip.homes.mem.readBytes (mapsTo + 0x110000) lightBytes).take 60 ++ leBytes 0 4 ++
            ((saved b 1536).chip.homes.mem.readBytes (mapsTo + 0x110000) lightBytes).drop 64) then
      .ok ((saved b 1536).chip.homes.mem.readBytes (mapsTo + 0x110000) lightBytes) (saved b 1536).chip else .bad 5 0x110000 := by
  obtain ⟨ta, x, ht, hd, hs, hx, ha, hf⟩ := test_slot_reads b
  have h := goodImage_of ht hd hs hx (pins := [bigLeaf]) (b := (saved b 1536).chip.homes.mem.readBytes (mapsTo + 0x110000) lightBytes)
    (by rw [ha, hf]; exact test_slot_pages b) rfl (by rw [ha]; exact test_slot_bytes b)
  rw [ha] at h
  exact h
theorem test_good_image {b : List Byte} (g : Good b) : (saved b 1536).chip.goodImage 17 = .ok b (saved b 1536).chip := by
  have hb : (saved b 1536).chip.homes.mem.readBytes (mapsTo + 0x110000) lightBytes = b := by
    have hm : (saved b 1536).chip.homes.mem = (SV outOf (cv2 (.resident 0)) (some 0) 1536 id).chip.homes.mem.write (mapsTo + 0x110000) b := rfl
    have hl : lightBytes = b.length := g.length.symm
    rewrite [hm, hl]
    exact readBytes_write _ _ _
  have h := test_image b
  rw [hb] at h
  rw [h, if_pos ⟨g.complete, g.crc⟩]
theorem test_restore {b : List Byte} (g : Good b) : ((saved b 1536).chip.sched.restoring.find? fun p => p.2 == 17) = some (8, 17) ∧
    (saved b 1536).chip.living (cv2 (.resident 0)) = [17] ∧
    (cv2 (.resident 0)).dispatchedAt + 1536 + (if false && !decide ((none : Option Nat) = some 8) then 262144 else 0) ≤ 1536 ∧
    ((saved b 1536).chip.task? 17).map (fun t => (t.slot, t.full, t.heldAt)) = some (some 0, false, none) ∧
    (saved b 1536).chip.badImage [17] = .ok none (saved b 1536).chip ∧
    (saved b 1536).chip.banksHere 17 outOf (slotAddr exp0.chrysalis 0) 0 = .ok () (saved b 1536).chip :=
  ⟨rfl, rfl, by decide, rfl, by rw [Chip.badImage, test_good_image g]; rfl, rfl⟩
/-- R340: an image of zeros is incomplete. -/
theorem test_restore_bad : (saved [] 1536).chip.badImage [17] = .ok (some 17) (saved [] 1536).chip := by
  have hz : byteAt ((saved [] 1536).chip.homes.mem.readBytes (mapsTo + 0x110000) lightBytes) 0 = 0 := by
    have : ∀ (m : Memory) (a n : Nat), byteAt (m.readBytes a (n + 1)) 0 = (m.read a).toNat := by
      intro m a n
      simp [byteAt, Memory.readBytes, List.range_succ_eq_map]
    rw [show lightBytes = 98303 + 1 from rfl, this]
    decide +kernel
  have h := test_image []
  rw [if_neg (by rw [hz]; exact fun h => absurd h.1 (by decide))] at h
  rw [Chip.badImage, h]
theorem test_writeout (b : List Byte) : look (saved b 0).chip.sched.heldBanks 8 = some 17 ∧ (saved b 0).chip.wantsWriteout 0 8 17 = true ∧
    (saved b 0).chip.slotWalk 17 outOf (slotAddr exp0.chrysalis 0) true (imageBytes true / 4096) = .ok [bigLeaf] (saved b 0).chip ∧
    ((saved b 0).chip.writeBanks 17 outOf [bigLeaf] 8 (slotAddr exp0.chrysalis 0) bankPages).2 = none := by
  have hw : (saved b 0).chip.health.testing.contains (.serai (BitVec.ofNat 12 8)) = true := rfl
  refine ⟨rfl, by simp only [Chip.wantsWriteout, hw, Bool.true_or], by rw [(test_tab_saved b 0).slotWalk 17 true (by decide), if_neg (by decide)], ?_⟩
  obtain ⟨c', e, -⟩ := (test_tab_saved b 0).writeBanks 17 8 (slotAddr exp0.chrysalis 0) bankPages (by decide)
  rw [e]

/-! ### R321, R323, R331, R333: traps, and the watchdog -/

theorem test_trap_delivery : (dv (.trapDelivery 16) (S { M with trap := some (M.trapAt 2 0x10001) })).map (fun d => (d.held, d.trap.isSome, d.blockedAt)) =
    some (true, false, some (0, 34)) ∧ { M with trap := some (M.trapAt 2 0x10001) }.drained = true := by decide +kernel
/-- Steward core 0 with a record in its queue. -/
def recorded : State :=
  { SS with
    chip := { SS.chip with traps := { SS.chip.traps with current := Vector.replicate 16 none, queues := (Vector.replicate 16 []).set 0 [{ heldRecord with addr := 0x3FFFFE00080 }] } } }
theorem test_record_take : ((chip? (exec (.recordTake 0) recorded)).bind (·.drover? 0)).map (fun d => (d.stew.trapcause, d.stew.traprec)) = some (0x12, 0x3FFFFE00080) ∧
    (chip? (exec (.recordTake 0) recorded)).map (fun c => c.traps.current[(0 : Fin 16)].isSome) = some true ∧ stew.run = .running := by decide +kernel
/-- The hop leaving cell 0 to the E of page 9, whose counters are past expedition 0's limits of 1,000. -/
def aged : State :=
  { G M with chip := (G M).chip.setSerai 0 { paged with ages := [(9 * 2 ^ 24 + 1, { age := 1001, wait := 1001 })] } }
theorem test_age : edgePage (9 * 2 ^ 24 + 1) = 9 ∧ (aged.chip.engineAt 0).isSome = true ∧
    (dv (.age 0 (9 * 2 ^ 24 + 1)) aged).map (fun d => d.async.map (·.cause)) = some [9] ∧
    (dv (.waitlong 0 (9 * 2 ^ 24 + 1)) aged).map (fun d => d.async.map (·.cause)) = some [0x0A] := by decide +kernel

/-! ### R349 to R355, R367: links and packets -/

/-- The task's module at cycle 5000 with link 0 as given; device 5 is reached by it. -/
def L (f : Link → Link) : State :=
  let s := S M
  { s with cycle := 5000, chip := { s.chip with links := s.chip.links.set 0 (f Link.reset), routes := [(5, 0), (6, 1)] } }
/-- Link 0 after an event. -/
def lk (i : Instr) (f : Link → Link) : Option Link := (chip? (exec i (L f))).bind fun c => c.links[0]?
/-- The header of the newest flit on the wire. -/
def hd (k : Link) : Option Nat := k.wire.getLast?.map fun f => field f 0 8
theorem test_link_up : (L id).chip.links[(0 : BitVec 5).toNat]? = some Link.reset ∧ Link.reset.up = true ∧ Link.reset.retraining = false ∧
    Link.reset.replay.length < 4095 ∧ Link.reset.ackSentAt + 256 ≤ (L id).cycle := by decide +kernel
theorem test_flit_send : (lk (.flitSend 0) fun k => { k with outFlits := [(true, false, [7, 8])], nextSeq := 4095, av := true, expect := 3 }).map (fun k =>
      (hd k, k.replay)) = some (some (4095 * 2 ^ 48 + 2 * 2 ^ 36 + 2 ^ 35 + 2 ^ 34 + 2 * 2 ^ 25), [(4095, [1, 7, 8])]) ∧
    (lk (.flitSend 0) fun k => { k with outFlits := [(true, false, [7, 8])], nextSeq := 4095 }).map (fun k => (k.outFlits.length, k.nextSeq)) = some (0, 0) ∧
    (lk (.flitSend 0) fun k => { k with resend := [(9, [2, 7])], replay := [(9, [2, 7])] }).map (fun k => (hd k, k.resend)) =
      some (some (9 * 2 ^ 48 + 2 ^ 33 + 2 ^ 25), []) := by decide +kernel
theorem test_link_timers : (lk (.idle 0) id).map (fun k => (hd k, k.ackSentAt)) = some (some (2 ^ 60), 5000) ∧
    (lk (.nakTimeout 0) fun k => { k with nak := some 904 }).map (fun k => (hd k, k.nak)) = some (some (2 * 2 ^ 60), some 5000) ∧
    (lk (.nakTimeout 0) fun k => { k with nak := some 905 }).map (fun k => k.nak) = some (some 905) ∧
    (lk (.replayTimeout 0) fun k => { k with replay := [(1, [3])], progressAt := 904 }).map (fun k => (k.resend, k.progressAt)) = some ([(1, [3])], 5000) := by
  decide +kernel
theorem test_loss_of_lock : (3 ∈ lanesUsed 0xFFFF ∧ (8 : BitVec 16).getLsbD 3 = true) ∧
    (lk (.lossOfLock 0 8) id).map (fun k => (hd k, k.retraining)) = some (some (3 * 2 ^ 60), true) ∧
    (lk (.lossOfLock 0 0) fun k => { k with bad := [1, 2, 3, 4] }).map (·.retraining) = some true ∧
    (lk (.lossOfLock 0 0) fun k => { k with bad := [1, 2, 3] }).map (·.retraining) = some false := by decide +kernel
theorem natOfBytes_leBytes (n : Nat) : ∀ v : Nat, v < 256 ^ n → natOfBytes (leBytes v n) = v := by
  induction n with
  | zero => intro v h; simp at h; simp [h, leBytes, natOfBytes]
  | succ n ih =>
    intro v h
    have : v / 256 < 256 ^ n := Nat.div_lt_of_lt_mul (by rw [Nat.pow_succ] at h; omega)
    simp only [leBytes, natOfBytes, ih _ this, BitVec.toNat_ofNat]
    omega
theorem leBytes_length (n : Nat) : ∀ v : Nat, (leBytes v n).length = n := by
  induction n with
  | zero => intro v; rfl
  | succ n ih => intro v; simp [leBytes, ih]
theorem crc64Bit_lt {c : Nat} (h : c < 2 ^ 64) : crc64Bit c < 2 ^ 64 := by
  unfold crc64Bit
  split
  · exact Nat.xor_lt_two_pow (Nat.mod_lt _ (by decide)) (by decide)
  · omega
theorem crc64_lt (l : List Byte) : crc64 l < 2 ^ 64 := by
  have key : ∀ (l : List Byte) (c : Nat), c < 2 ^ 64 → l.foldl crc64Byte c < 2 ^ 64 := by
    intro l
    induction l with
    | nil => exact fun c h => h
    | cons b l ih =>
      intro c h
      refine ih _ ?_
      have : b.toNat * 2 ^ 56 < 2 ^ 64 := by have := b.isLt; omega
      exact crc64Bit_lt (crc64Bit_lt (crc64Bit_lt (crc64Bit_lt (crc64Bit_lt (crc64Bit_lt (crc64Bit_lt (crc64Bit_lt (Nat.xor_lt_two_pow h this))))))))
  exact key l 0 (by decide)
/-- A flit as a link sends it has its header in front and the right CRC at its end. -/
theorem flit_built {h : Nat} {p : List Byte} (hp : p.length ≤ 240) (hh : h < 2 ^ 64) : (flitBytes h p).length = 256 ∧
    field (flitBytes h p) 248 8 = crc64 ((flitBytes h p).take 248) ∧ field (flitBytes h p) 0 8 = h := by
  have hl : (leBytes h 8 ++ p ++ List.replicate (240 - p.length) 0).length = 248 := by
    simp only [List.length_append, leBytes_length, List.length_replicate]; omega
  refine ⟨?_, ?_, ?_⟩
  · simp only [flitBytes, List.length_append, hl, leBytes_length]
  · unfold flitBytes field slice
    rw [List.drop_left' hl, List.take_left' hl, List.take_of_length_le (by simp [leBytes_length]), natOfBytes_leBytes 8 _ (crc64_lt _)]
  · unfold flitBytes field slice
    rw [List.drop_zero, List.append_assoc, List.append_assoc, List.take_left' (leBytes_length 8 h), natOfBytes_leBytes 8 _ hh]
/-- A DATA flit numbered 0 that is a packet's first and last; and a NAK that acknowledges flit 1. -/
def dataFlit : List Byte :=
  flitBytes (2 ^ 34 + 2 ^ 33 + 32 * 2 ^ 25) ({ ptype := 2, err := 0, dst := 0, src := 5, tag := 3, addr := 0, data := [] } : Packet).bytes
/-- See `dataFlit`. -/
def nakFlit : List Byte := flitBytes (2 * 2 ^ 60 + 2 ^ 36 + 2 ^ 35) []
theorem test_good_flits : flitBad dataFlit = false ∧ flitBad nakFlit = false := by
  constructor
  · obtain ⟨h1, h2, h3⟩ := flit_built (h := 2 ^ 34 + 2 ^ 33 + 32 * 2 ^ 25)
      (p := ({ ptype := 2, err := 0, dst := 0, src := 5, tag := 3, addr := 0, data := [] } : Packet).bytes) (by decide +kernel) (by decide)
    unfold flitBad dataFlit
    rw [h1, h2, h3]
    simp only [bne_self_eq_false]
    decide +kernel
  · obtain ⟨h1, h2, h3⟩ := flit_built (h := 2 * 2 ^ 60 + 2 ^ 36 + 2 ^ 35) (p := []) (by decide) (by decide)
    unfold flitBad nakFlit
    rw [h1, h2, h3]
    simp only [bne_self_eq_false]
    decide +kernel
theorem test_flit_headers : bitsOf (field dataFlit 0 8) 60 4 = 0 ∧ bitsOf (field dataFlit 0 8) 48 12 = Link.reset.expect ∧
    bitsOf (field nakFlit 0 8) 60 4 = 2 ∧ bitOf (field nakFlit 0 8) 35 = true ∧ bitsOf (field nakFlit 0 8) 36 12 = 1 := by decide +kernel
theorem test_flit_receive : (chip? (exec (.dataFlitReceive 0 dataFlit) (L id))).bind (fun c => (c.links[0]?).map fun k =>
      (k.expect, k.av, k.inPackets.map fun p => (p.2.src, p.2.tag))) = some (1, true, [(5, 3)]) := by
  simp only [exec, execDataFlitReceive, State.eventStep, Chip.receiveFlit, test_good_flits.1]
  decide +kernel
/-- A row for a micro-batch with no session stands at the head of the link. -/
def rowAhead (k : Link) : Link := { k with inPackets := [(0, { ptype := 6, err := 0, dst := 0, src := 5, tag := 0, addr := 0, data := [] })] }
theorem test_ingress : (L id).chip.ingressBlocked Link.reset = false ∧ (L rowAhead).chip.ingressBlocked (rowAhead Link.reset) = true ∧
    (chip? (exec (.dataFlitReceive 0 dataFlit) (L rowAhead))).bind (fun c => (c.links[0]?).map fun k => (k.expect, k.inPackets.length)) = some (0, 1) := by
  refine ⟨by decide +kernel, by decide +kernel, ?_⟩
  simp only [exec, execDataFlitReceive, State.eventStep, Chip.receiveFlit, test_good_flits.1]
  decide +kernel
theorem test_nak : (lk (.nak 0 nakFlit) fun k => { k with replay := [(0, [0, 1]), (1, [0, 2]), (2, [0, 3])] }).map (fun k => (k.replay, k.resend)) =
    some ([(2, [0, 3])], [(2, [0, 3])]) := by
  simp only [lk, exec, execNak, State.eventStep, Chip.receiveFlit, test_good_flits.2]
  decide +kernel
theorem test_flit_bad : flitBad [0] = true ∧ (lk (.dataFlitReceive 0 [0]) id).map (fun k => (hd k, k.nak, k.expect)) = some (some (2 * 2 ^ 60), some 5000, 0) ∧
    (chip? (exec (.dataFlitReceive 0 [0]) (L id))).map (fun c => c.mgmt.linkerr) = some 1 := by decide +kernel
theorem test_retrain : widthFor (0xFFFF &&& 0xFF0F) = 8 ∧
    (lk (.retrainComplete 0 0xFF0F none) fun k => { k with retraining := true }).map (fun k => (k.up, k.retraining, k.width)) = some (true, false, 8) ∧
    (lk (.retrainComplete 0 0xFF0F none) fun k => { k with retraining := true, replay := [(1, [3])] }).map (fun k => (k.lanes, k.resend)) =
      some (0xFF0F, [(1, [3])]) ∧ widthFor (0xFFFF &&& 0x7777) = 0 ∧
    (lk (.retrainComplete 0 0x7777 none) fun k => { k with retraining := true }).map (·.up) = some false := by decide +kernel

/-- The module with a packet at the head of link 0, a word of 0x99 at 0x10010, and requests. -/
def P (p : Packet) (r : SMap RemoteReq) (l : List Access) : State :=
  let s := HS l 0x99 id
  { s with chip := { s.chip with links := s.chip.links.set 0 { Link.reset with inPackets := [(0, p)] }, routes := [(5, 0), (6, 1)], requests := r } }
/-- A packet of a type from device 5 under tag 3. -/
def pk (ty : Nat) (b : List Byte) : Packet := { ptype := ty, err := 0, dst := 0, src := 5, tag := 3, addr := 0x10010, data := b }
/-- What link 0 then holds: packets left, flits to send, the payload of the first past its header. -/
def pOut (i : Instr) (s : State) : Option (Nat × List (Bool × Bool × List Byte)) :=
  (chip? (exec i s)).bind fun c => (c.links[0]?).map fun k => (k.inPackets.length, k.outFlits)
theorem test_packet_head (ty : Nat) (b : List Byte) (r : SMap RemoteReq) (l : List Access) : (P (pk ty b) r l).chip.headOf (0 : BitVec 5).toNat ty = some (pk ty b) := by
  simp [Chip.headOf, P, pk, S, HS, State.withFetchWord, State.reset, Chip.afterReset]
theorem test_serves : servesRemote 0x10010 = true ∧ servesRemote (0x10010 + 8 - 1) = true ∧ (P (pk 0 [8, 0]) [] []).chip.homes.anyBad 0x10010 8 = false ∧
    (P (pk 0 [8, 0]) [] []).chip.linkTo 5 = some 0 := by decide +kernel
theorem test_read_packet : pOut (.readPacket 0) (P (pk 0 [8, 0]) [] []) =
    some (0, flitsOf 10 true ({ ptype := 2, err := 0, dst := 5, src := 0, tag := 3, addr := 0, data := bytesOf 0x99 8 } : Packet).bytes) := by decide +kernel
theorem test_read_packet_bad : let s := P (pk 0 [8, 0]) [] []
    let t := { s with chip := { s.chip with homes := s.chip.homes.setBad 0x10010 true } }
    t.chip.homes.anyBad 0x10010 8 = true ∧ pOut (.readPacket 0) t =
      some (0, flitsOf 10 true ({ ptype := 2, err := 9, dst := 5, src := 0, tag := 3, addr := 0, data := [] } : Packet).bytes) := by decide +kernel
theorem test_write_packet : (hm (.writePacket 0) (P (pk 1 [1, 2]) [] [])).map (·.num 0x10010 4) = some 0x0201 ∧
    pOut (.writePacket 0) (P (pk 1 [1, 2]) [] []) =
      some (0, flitsOf 10 true ({ ptype := 5, err := 0, dst := 5, src := 0, tag := 3, addr := 0, data := [] } : Packet).bytes) := by decide +kernel
/-- The payload of an atomic packet: AMO ADD of 8 bytes with 9 (log 37). -/
def amoBytes : List Byte := (acc (.amo 1) .sent).payload 0
theorem test_atomic_packet : kindOf (byteAt amoBytes 0) (byteAt amoBytes 1) = .amo 1 ∧ field amoBytes 2 2 = 8 ∧
    (hm (.atomicPacket 0) (P (pk 3 amoBytes) [] [])).map (·.num 0x10010 8) = some (0x99 + 9) := by decide +kernel
theorem test_answers : look [(3, RemoteReq.access 16 1 0)] 3 = some (.access 16 1 0) ∧
    (ac1 (.readData 0) (P (pk 2 (bytesOf 0x77 8)) [(3, .access 16 1 0)] [acc .load (.remote 0)])).map (fun a => (a.phase, a.reply)) = some (.replied, 0x77) ∧
    (ac1 (.atomicResult 0) (P (pk 4 (bytesOf 0x78 8 ++ [0])) [(3, .access 16 1 0)] [acc (.amo 1) (.remote 0)])).map (fun a => (a.phase, a.reply)) = some (.replied, 0x78) ∧
    (dv (.writeDone 0) (P (pk 5 []) [(3, .access 16 1 0)] [acc .store (.remote 0)])).map (·.mem.accs.length) = some 0 ∧
    (chip? (exec (.writeDone 0) (P (pk 5 []) [(3, .access 16 1 0)] [acc .store (.remote 0)]))).map (·.requests) = some [] := by decide +kernel
/-- A line of another module has been asked for under tag 3. -/
def asking : State := { P (pk 2 [1, 2]) [(3, .line 8 0)] [] with chip := { (P (pk 2 [1, 2]) [(3, .line 8 0)] []).chip with far := [(8, .asked 3)] } }
theorem test_line_answer : (chip? (exec (.readData 0) asking)).map (fun c => look c.far 8) = some (some (.line 0x0201 0)) := by decide +kernel
theorem test_forward_packet : (P { pk 0 [] with dst := 6 } [] []).chip.linkTo 6 = some 1 ∧
    (chip? (exec (.packetForward 0) (P { pk 0 [] with dst := 6 } [] []))).map (fun c => ((c.links[0]?).map (·.inPackets.length), (c.links[1]?).map (·.outFlits.length))) =
      some (some 0, some 1) := by decide +kernel

/-! ### R292, R293: migration between modules -/

/-- The module with expedition 0, a packet on link 0 and a caravan that is on its way. -/
def MG (p : Packet) (pl : Place) : State :=
  let s := G M
  { s with
    chip := { s.chip with
      links := s.chip.links.set 0 { Link.reset with inPackets := [(0, p)] }, routes := [(5, 0)],
      sched := { s.chip.sched with caravans := upd s.chip.sched.caravans 1 fun v => { v with place := pl } } } }
theorem test_advertisement : (MG (pk 10 [9, 1]) (.queue 0)).chip.headOf (0 : BitVec 5).toNat 10 = some (pk 10 [9, 1]) ∧
    (chip? (exec (.advertisementPacket 0) (MG (pk 10 [9, 1]) (.queue 0)))).map (fun c => look c.sched.modAdverts 5) = some (some 0x109) := by decide +kernel
theorem test_migration_reply : (MG (pk 9 (bytesOf 1 4 ++ bytesOf 1 4)) (.migrating 0 13)).chip.headOf (0 : BitVec 5).toNat 9 = some (pk 9 (bytesOf 1 4 ++ bytesOf 1 4)) ∧
    ((chip? (exec (.migrationPacket 0) (MG (pk 9 (bytesOf 1 4 ++ bytesOf 1 4)) (.migrating 0 13)))).bind (·.caravan? 1)).map (·.place) = some (.module 5) ∧
    ((chip? (exec (.migrationPacket 0) (MG (pk 9 (bytesOf 2 4 ++ bytesOf 1 4)) (.migrating 0 13)))).bind (·.caravan? 1)).map (·.place) = some (.queue 0) := by
  decide +kernel
/-- An entry of expedition e with template 5, two members, priority 3, ready since 77. -/
def entry (e : Nat) : List Byte :=
  bytesOf 0 4 ++ bytesOf 9 4 ++ bytesOf e 2 ++ bytesOf 5 2 ++ [2, 3, 0, 0] ++ bytesOf 77 8 ++ bytesOf 50 4 ++ bytesOf 0 4 ++ bytesOf 0 24
theorem test_migration_refused : (MG (pk 9 (entry 3)) (.queue 0)).chip.exp? (field (pk 9 (entry 3)).data 8 2) = none ∧
    pOut (.migrationPacket 0) (MG (pk 9 (entry 3)) (.queue 0)) =
      some (0, flitsOf 10 true ({ ptype := 9, err := 0, dst := 5, src := 0, tag := 0, addr := 0, data := bytesOf 2 4 ++ bytesOf 9 4 } : Packet).bytes) := by
  decide +kernel
theorem test_migration_taken : (MG (pk 9 (entry 0)) (.queue 0)).chip.headOf (0 : BitVec 5).toNat 9 = some (pk 9 (entry 0)) ∧
    (MG (pk 9 (entry 0)) (.queue 0)).chip.exp? (field (entry 0) 8 2) = some exp0 ∧ (look exp0.templates (field (entry 0) 10 2)).isSome = true ∧
    exp0.ending = false ∧ field (entry 0) 0 4 = 0 ∧ ∀ die, (MG (pk 9 (entry 0)) (.queue 0)).chip.takesEntry die 0 = true := by
  refine ⟨by decide +kernel, by decide +kernel, by decide +kernel, rfl, by decide +kernel, fun die => ?_⟩
  have h : ((MG (pk 9 (entry 0)) (.queue 0)).chip.sched.caravans).length = 1 := by decide +kernel
  have h2 : (MG (pk 9 (entry 0)) (.queue 0)).chip.queueLen die ≤ 1 := by
    rw [← h]
    exact List.length_filter_le _ _
  have h3 : (MG (pk 9 (entry 0)) (.queue 0)).chip.queueLen die < 2048 := by omega
  simp [Chip.takesEntry, h3]

/-! ### R303 to R317: dispatch engines at work -/

/-- The task's module with bytes at `W` and engines as given, at the start of round 7. -/
def XE (d : Drover) (b : List Byte) (f : Xde → Xde) : State :=
  let s := atW (V d Serai.reset) b
  { s with chip := { s.chip with routes := [(5, 0)], xde := f s.chip.xde } }
/-- An XTOPK of the task for micro-batch 8. -/
def open8 : OpenReq := { u := 16, exp := 0, die := 0, mb := 8, block := topkBlock, done := PW + 0x200, clk := [] }
theorem test_round_open : let s := XE { M with hold := .waiting } [] fun x => { x with opens := [open8] }
    (s.chip.xde.opens.find? fun o => o.die == (0 : BitVec 3).toNat) = some open8 ∧ (s.chip.task? 16).any (·.alive) = true ∧
    s.chip.xde.openRound 8 = none ∧ s.chip.xde.freeSlots 0 = 8 ∧ (dv (.roundOpen 0) s).map (·.hold) = some (.result 0) ∧
    (chip? (exec (.roundOpen 0) s)).map (fun c => (look c.xde.rounds 8).map fun r => (r.tokens, r.contributors, r.dies)) = some (some (4, 1, [0])) := by
  decide +kernel
/-- Round 7 with so many contributors and tokens. -/
def roundOf (n t : Nat) : Round := { round7 with block := [2, 0] ++ bytesOf n 2 ++ bytesOf 16 2 ++ bytesOf 0 2 ++ bytesOf t 4 ++ bytesOf 0 4 ++ bytesOf (W.toNat + 0x100) 8 ++ bytesOf 0 40 }
/-- A list of one candidate, expert 3 with score and key 2, for token 0. -/
def list7 : GateList := { mb := 7, tok := 0, nan := false, list := [{ expert := 3, score := 0x40000000, key := 0x40000000 }] }
/-- The state in which it is merged. -/
def merging (n t : Nat) : State := XE M [] fun x => { x with lists := [list7], rounds := [(7, roundOf n t)] }
/-- Round 7 after an event. -/
def r7 (i : Instr) (s : State) : Option Round := (chip? (exec i s)).bind fun c => look c.xde.rounds 7
theorem test_gate_merge : (merging 2 4).chip.xde.openRound 7 = some (roundOf 2 4) ∧ (roundOf 2 4).contributors = 2 ∧ (roundOf 2 4).tokens = 4 ∧
    (r7 .gateMerge (merging 2 4)).map (fun r => (look r.toks 0).map fun t => (t.got, t.list.map (·.expert), t.written)) = some (some (1, [3], false)) ∧
    (r7 .gateMerge (merging 1 4)).map (fun r => (r.closed, (look r.toks 0).map (·.written))) = some (false, some true) := by decide +kernel
theorem test_gate_record : (chip? (exec .gateMerge (merging 1 4))).map (fun c => (c.homes.num (PW + 0x100) 8, c.homes.num (PW + 0x108) 8)) =
    some (2 ^ 32, 2 ^ 63 + 2 ^ 62 + 3 * 2 ^ 32 + 0x3F800000) ∧
    (r7 .gateMerge (merging 1 1)).map (fun r => (r.closed, r.toks)) = some (true, []) ∧
    (chip? (exec .gateMerge (merging 1 1))).map (fun c => (c.homes.tag (PW + 0x200), c.homes.num (PW + 0x200) 8)) = some (true, (doneWord 1 0 0 0).toNat) := by
  decide +kernel
/-- Nothing that those writes must wait for is on its way. -/
theorem test_no_waits : (merging 1 1).chip.writeWaits 16 ((merging 1 1).chip.workDrover 16 0 0) (roundOf 1 1).records 128 = false ∧
    (merging 1 1).chip.doneWaits 16 (PW + 0x200) [] = false ∧ ((merging 1 1).chip.xde.rounds.all fun p => p.2.ending.isNone) = true := by decide +kernel
/-- A record of token 0 with one entry, expert 3, that passed and is active. -/
def record3 : List Byte := bytesOf 0 4 ++ [1, 0, 0, 0] ++ bytesOf (2 ^ 63 + 2 ^ 62 + 3 * 2 ^ 32 + 0x3F800000) 8 ++ List.replicate 112 0
/-- Four experts, one token. -/
def bin4 : List Byte :=
  bytesOf (W.toNat + 0x100) 8 ++ bytesOf 1 4 ++ bytesOf 4 2 ++ bytesOf 0 2 ++ bytesOf (W.toNat + 0x300) 8 ++ bytesOf (W.toNat + 0x400) 8 ++
    bytesOf (W.toNat + 0x500) 8 ++ bytesOf (W.toNat + 0x200) 8 ++ List.replicate 16 0
/-- A work of a kind. -/
def workOf (op : Nat) (b : List Byte) : XWork := { XWork.start op 0 7 b (PW + 0x200) 16 0 [] with recs := record3 }
theorem test_xbin_work : let s := XE M [] fun x => { x with work := [workOf 2 bin4] }
    (workOf 2 bin4).cut = none ∧ s.chip.binWaits (workOf 2 bin4) = false ∧ ((List.range 4).map fun e => binOf record3 1 e) = [[], [], [], [0]] ∧
    (chip? (exec (.xbinWork 0) s)).map (fun c => (c.homes.num (PW + 0x300) 16, c.homes.num (PW + 0x400) 20, c.homes.num (PW + 0x500) 4)) =
      some (2 ^ 96, 2 ^ 128, 0) ∧
    (chip? (exec (.xbinWork 0) s)).map (fun c => (c.xde.work.length, c.homes.tag (PW + 0x200), c.homes.num (PW + 0x200) 8)) =
      some (0, true, (doneWord 1 0 0 0).toNat) := by decide +kernel
/-- An XBIAS whose counts at W + 768 are 2 and then 0, while round 7 uses slot 0. -/
def biasing : State := XE M (List.replicate 0x300 0 ++ bytesOf 2 4) fun x => { x with work := [{ workOf 5 biasBlock with recs := [] }], rounds := [(7, round7)] }
theorem test_xbias_build : biasing.chip.xde.oldSlot = 1 ∧ (biasing.chip.xde.rounds.all fun p => p.2.closed || p.2.slot != 1) = true ∧
    (chip? (exec .xbiasBuild biasing)).map (fun c => c.xde.newest) = some 1 ∧ (chip? (exec .xbiasBuild biasing)).map (fun c => c.xde.work.length) = some 0 ∧
    (chip? (exec .xbiasBuild biasing)).bind (fun c => (c.xde.bias[1]?).bind fun m => look m 0) = some 0xBF000000 ∧
    (chip? (exec .xbiasBuild biasing)).bind (fun c => (c.xde.bias[1]?).bind fun m => look m 1) = some 0x3F000000 := by decide +kernel

/-- An XSEND of one token with its record at W, its rows of 4 bytes at W + 128 and its map at W + 256. -/
def send7 : XWork :=
  { XWork.start 3 0 7 (bytesOf 0 8 ++ bytesOf W.toNat 8 ++ bytesOf 1 4 ++ bytesOf 0 4 ++ bytesOf 0 8 ++ bytesOf (W.toNat + 0x100) 8 ++ bytesOf (W.toNat + 0x200) 8 ++
      List.replicate 16 0) (PW + 0x200) 16 0 [] with desc := descBits (W.toNat + 0x80) 0 [(4, 1), (1, 4)], experts := 4 }
/-- Its module; expert 3 lives on a device. -/
def rowState (dev : Nat) (w : XWork) : State :=
  XE M (record3 ++ [1, 2, 3, 4] ++ List.replicate 124 0 ++ bytesOf 0 6 ++ bytesOf dev 2) fun x => { x with work := [w] }
theorem test_row_send : send7.sends = true ∧ send7.retarget = [] ∧ (rowState 5 send7).chip.linkTo 5 = some 0 ∧
    (chip? (exec (.xsendRowSend 0) (rowState 5 send7))).map (fun c => c.xde.work.map fun w => (w.tok, w.rank)) = some [(0, 1)] ∧
    (chip? (exec (.xsendRowSend 0) (rowState 5 send7))).map (fun c => c.xde.work.map (·.unanswered)) = some [[(5, 0, 0)]] ∧
    (chip? (exec (.xsendRowSend 0) (rowState 5 send7))).map (fun c => (c.links[0]?).map fun k => k.outFlits.length) = some (some 1) ∧
    (rowState 9 send7).chip.linkTo 9 = none ∧ (chip? (exec (.xsendRowSend 0) (rowState 9 send7))).map (fun c => c.xde.ownResp.map fun p => (p.2.ptype, p.2.dst)) = some [(7, 0)] := by
  decide +kernel
/-- The parts of that row: its copy, its map entry, its elements. -/
theorem test_row_parts : (match (rowState 5 send7).chip.nextCopy send7 M 1 0 0 with
      | .ok (some q) c =>
        match c.readBlock (xdeAgent 16) 16 M (W.toNat + 0x100 + 6) 2 with
        | .ok m c =>
          match c.readRow (xdeAgent 16) 16 M (descOf send7.desc) 0 with
          | .ok r _ => some (field m 0 2 + 16 * r.2 + 256 * bitsOf q.2.2 32 12, r.1)
          | _ => none
        | _ => none
      | _ => none) = some (0x345, [1, 2, 3, 4]) := by decide +kernel

/-- A session for micro-batch 7, experts 2 and 3, capacity 4, one sender, rows of 4 bytes at W, headers at W + 256, counts at W + 768. -/
def session7 : Session :=
  { die := 0, mb := 7, block := bytesOf 2 2 ++ bytesOf 2 2 ++ bytesOf 4 4 ++ bytesOf 0 8 ++ bytesOf (W.toNat + 0x100) 8 ++ bytesOf (W.toNat + 0x300) 8 ++ bytesOf 1 2 ++
      List.replicate 30 0, desc := descBits W.toNat 0 [(4, 1), (4, 4), (2, 16)], admitted := [0, 0], finishes := 0, done := PW + 0x200, cut := none, ending := none, owner := 16, exp := 0, clk := [] }
/-- A row for an expert, of n elements, from device 5. -/
def rowPacket (e n : Nat) : Packet :=
  { ptype := 6, err := 0, dst := 0, src := 5, tag := 0, addr := 0,
    data := bytesOf (routeHeader 7 0 5 e 0 0x3F80) 8 ++ [0, 1, 0, 0] ++ bytesOf n 4 ++ [1, 2, 3, 4] }
/-- The module with a session, its rowState, and a packet of its own. -/
def receiving (p : Packet) (w : List XWork) : State := XE M [] fun x =>
  { x with sessions := [session7], work := w, own := if p.ptype = 7 then [] else [(0, p)], ownResp := if p.ptype = 7 then [(0, p)] else [] }
theorem test_row_head : (receiving (rowPacket 3 4) []).chip.firstHead 6 (fun p => ((receiving (rowPacket 3 4) []).chip.xde.sessionFor (bitsOf (field p.data 0 8) 56 8) 0).isSome) =
      some (rowPacket 3 4, .own) ∧ byteAt (rowPacket 3 4).data 9 = 1 ∧
    (receiving (rowPacket 3 4) []).chip.xde.sessionFor (bitsOf (field (rowPacket 3 4).data 0 8) 56 8) 3 = some session7 ∧
    session7.judge 0 4 3 = 0 ∧ session7.judge 0 4 4 = 2 ∧ session7.judge 0 3 3 = 3 ∧ { session7 with admitted := [0, 4] }.judge 0 4 3 = 1 := by decide +kernel
theorem test_row_admitted : (chip? (exec .xdeRow (receiving (rowPacket 3 4) []))).map (fun c => c.xde.sessions.map (·.admitted)) = some [[0, 1]] ∧
    (chip? (exec .xdeRow (receiving (rowPacket 3 4) []))).map (fun c => c.homes.num (PW + 16) 4) = some 0x04030201 ∧
    (chip? (exec .xdeRow (receiving (rowPacket 4 4) []))).map (fun c => c.xde.sessions.map (·.admitted)) = some [[0, 0]] := by decide +kernel
/-- A response to the copy of token 0, rank 0, from device 5, with a reason. -/
def response (why : Nat) : Packet :=
  { ptype := 7, err := 0, dst := 0, src := 5, tag := 0, addr := 0, data := leBytes (responseWord (routeHeader 7 0 0 3 0 0) 5 why) 8 }
theorem test_response : bitsOf (field (response 0).data 0 8) 8 8 = 0 ∧ (receiving (response 0) [{ send7 with unanswered := [(5, 0, 0)] }]).chip.firstHead 7 (fun _ => true) =
      some (response 0, .ownResp) ∧
    (chip? (exec .xdeResponse (receiving (response 0) [{ send7 with unanswered := [(5, 0, 0)] }]))).map (fun c => c.xde.work.map fun w => (w.admitted, w.unanswered)) =
      some [(1, [])] := by decide +kernel
theorem test_send_finish : { send7 with tok := 1, admitted := 1 }.sends = false ∧ { send7 with tok := 1, admitted := 1 }.unanswered = [] ∧
    (chip? (exec (.xsendFinish 0) (rowState 5 { send7 with tok := 1, admitted := 1 }))).map (fun c => (c.xde.work.length, c.homes.num (PW + 0x200) 8)) =
      some (0, (doneWord 1 0 0 0).toNat) := by decide +kernel
/-- A FINISH for micro-batch 7. -/
def finish7 : Packet := { ptype := 8, err := 0, dst := 0, src := 5, tag := 0, addr := 0, data := bytesOf 7 4 }
theorem test_finish : (receiving finish7 []).chip.firstHead 8 (fun _ => true) = some (finish7, .own) ∧
    (chip? (exec .xdeFinish (receiving finish7 []))).map (fun c => c.xde.sessions.length) = some 0 := by decide +kernel

/-! ### R356 to R360: host ports, launches -/

/-- The task's module with expedition 0 and port 0 as given. -/
def HP (v : Serai) (p : Port) : State :=
  let s := G M
  { s with chip := { (s.chip.setSerai 0 v) with ports := s.chip.ports.set 0 p } }
/-- Port 0 after an event. -/
def pt (i : Instr) (p : Port) : Option Port := (chip? (exec i (HP paged p))).bind fun c => c.ports[0]?
/-- The 64 bytes of a DATA token of one lane, 5. -/
def fifoBytes : List Byte := bytesOf 5 32 ++ bytesOf 1 4 ++ List.replicate 28 0
/-- A port with n tokens. -/
def filled (n : Nat) : Port := { Port.reset with fifo := List.replicate n (dataTok 0) }
theorem test_port (p : Port) : (HP paged p).chip.ports[(0 : BitVec 6).toNat]? = some p := by simp [HP]
theorem test_fifo_write : fifoBytes.length = 64 ∧ byteAt fifoBytes 36 % 8 = 0 ∧ (pt (.fifoWrite 0 0x7C0 fifoBytes) (filled 255)).map (fun p => (p.fifo.length, p.fifo.getLast?)) =
      some (256, some (dataTok 5)) ∧
    (pt (.fifoWrite 0 0 fifoBytes) (filled 256)).map (fun p => (p.fifo.length, p.overrun)) = some (256, true) ∧
    (pt (.fifoWrite 0 8 fifoBytes) (filled 0)).map (fun p => (p.fifo.length, p.badtoken)) = some (0, true) ∧
    (pt (.fifoWrite 0 0 [1]) (filled 0)).map (fun p => (p.fifo.length, p.badtoken)) = some (0, true) := by decide +kernel
theorem test_port_registers : (pt (.pctlWrite 0 0x8209000300000007) { filled 1 with overrun := true }).map (fun p => (p.mode, p.portal, p.pageid)) = some (true, 2, 9) ∧
    (pt (.pctlWrite 0 0x8209000300000007) { filled 1 with overrun := true }).map (fun p => (p.expid, p.taskid, p.overrun)) = some (3, 7, false) ∧
    (pt (.hostRegisterWrite 0x810 0x1234) Port.reset).map (·.comp) = some 0x1200 := by decide +kernel
/-- A port that feeds portal 0 of page 9 of a task of expedition 0. -/
def feeding (t : Nat) (pg : Nat) : Port := { filled 2 with mode := true, pageid := pg, taskid := t }
/-- The module in which the task has ended. -/
def endedTask : State :=
  let s := HP paged (feeding 1 9)
  { s with chip := s.chip.onSched fun z => { z with tasks := upd z.tasks 16 fun t => { t with state := .retired } } }
theorem test_feed : (HP paged (feeding 1 9)).chip.taskKey? 0 1 = some 16 ∧ (HP paged (feeding 1 9)).chip.seraiOf 16 = some 0 ∧
    ((look paged.pages 9).bind fun g => portalUse ((g.portals[0]?).getD 0)) = some false ∧
    ((HP paged (feeding 1 9)).chip.accept 0 (.portal 16 9 0) (dataTok 0)).isSome = true ∧ (pt (.feed 0) (feeding 1 9)).map (·.fifo.length) = some 1 ∧
    (HP paged (feeding 8 9)).chip.taskKey? 0 8 = none ∧ (pt (.feed 0) (feeding 8 9)).map (·.notarget) = some true ∧ (pt (.feed 0) (feeding 1 8)).map (·.notarget) = some true ∧
    ((chip? (exec (.feed 0) endedTask)).bind fun c => (c.ports[0]?).map (·.fifo)) = some [] := by decide +kernel

/-- An image of 280 bytes: one template, entry 0x10000, text of 8 bytes at 0x10000. -/
def expImage : List Byte :=
  bytesOf 0x50445845 4 ++ bytesOf 1 4 ++ bytesOf 0x10000 8 ++ bytesOf 0 2 ++ bytesOf 1 6 ++ bytesOf 256 8 ++ bytesOf 272 8 ++ bytesOf 8 8 ++ bytesOf 280 8 ++ bytesOf 0 8 ++
    bytesOf 280 8 ++ bytesOf 0 8 ++ bytesOf 0x10008 8 ++ bytesOf 0x10040 8 ++ bytesOf 256 4 ++ bytesOf 1 4 ++ bytesOf 16 8 ++ bytesOf 0 16 ++ bytesOf 280 8 ++
    List.replicate 120 0 ++ bytesOf 0x10000 8 ++ bytesOf 3 8 ++ bytesOf 0x70000000 8
/-- A plan: pages 0x10 and 0x100 in frames 0x200 and 0x201, tables of their own. -/
def plan1 : LoadPlan :=
  { expid := 4, slice := 0, ptroot := 0x400, frames := [(0x10, 0x200), (0x100, 0x201)], tables := [(2, 0, 0x800000), (3, 0, 0x900000), (4, 0, 0xA00000)],
    spill := 0x2000000, chrysalis := 0x100000, flog := 0xC00000, modules := [0] }
/-- A LAUNCH stream: key 9, image of n bytes at host address 0x1000, argument 6. -/
def launchTokens (n : Nat) : List Token := [dataTok (9 + 0x1000 * 2 ^ 64 + n * 2 ^ 128 + 6 * 2 ^ 192), Token.eot]
/-- The module that runs, with host memory and the stream in port 0. -/
def launchState (n : Nat) (l : List Token) : State :=
  let s := HP Serai.reset { Port.reset with fifo := l, comp := 0x2000 }
  { s with chip := { s.chip with homes := s.chip.homes.write (hostBase + 0x1000) (expImage.take n), mgmt := { s.chip.mgmt with bootst := 1 } } }
theorem test_launch_bad : (launchState 0 (launchTokens 16)).chip.mgmt.bootst = 1 ∧ (look (launchState 0 []).chip.images 9).isNone = true ∧
    imageGood ((launchState 0 []).chip.hostRead 0x1000 16) = false ∧
    (chip? (exec (.launchStream 0 plan1) (launchState 0 (launchTokens 16)))).map (fun c => (c.mgmt.vectors, (c.port 0).fifo.length)) = some (1, 0) ∧
    (chip? (exec (.launchStream 0 plan1) (launchState 0 (launchTokens 16)))).map (fun c => c.homes.num (hostBase + 0x2000) 12) = some (9 + 2 * 2 ^ 80) := by
  decide +kernel
theorem test_plan : planSound plan1 = true ∧ (launchState 280 []).chip.exp? plan1.expid.toNat = none ∧ expImage.length = 280 := by decide +kernel
theorem test_image_good : imageGood expImage = true := by decide +kernel
theorem test_host_read : (launchState 280 []).chip.hostRead 0x1000 280 = expImage := by decide +kernel
theorem test_plan_place : (planPlace plan1 (launchState 280 []).chip.homes expImage).isSome = true := by decide +kernel

/-- The module once its tasks have ended; port 3 launched expedition 0. -/
def endingState : State :=
  let s := G (D 0 0)
  { s with
    chip := s.chip.onSched fun z =>
      { z with exps := upd z.exps 0 fun x => { x with port := some 3, flog := 0x8000 }, tasks := upd z.tasks 16 fun t => { t with state := .retired } } }
theorem test_expedition_end : (endingState.chip.exp? 0).any (fun x => endingState.chip.mayEnd 0 x) = true ∧
    (chip? (exec (.expeditionEnd 0) endingState)).map (fun c => ((c.exp? 0).isNone, (c.task? 16).isNone, c.mgmt.vectors)) = some (true, true, 8) ∧
    ((chip? (exec .functionLevelReset endingState)).bind fun c => c.exp? 0).map (·.ending) = some true := by decide +kernel

/-! ### R344 to R347, R357 to R366: management, boot, errors -/

/-- The management registers after an event. -/
def mg (i : Instr) (f : Mgmt → Mgmt) : Option Mgmt := (chip? (exec i { S M with chip := (S M).chip.onMgmt f })).map (·.mgmt)
theorem test_routes : (chip? (exec (.routingTableWrite 5 17) (L id))).map (fun c => (look c.routes 5, look c.routes 6)) = some (some 17, some 1) ∧
    (chip? (exec (.routingTableWrite 5 18) (L id))).map (fun c => look c.routes 5) = some none := by decide +kernel
theorem test_management : (mg (.devidWrite 0x205) id).map (·.devid) = some 5 ∧ (mg (.devidWrite 0x205) fun m => { m with launched := true }).map (·.devid) = some 0 ∧
    (mg (.powlimWrite 399) id).map (·.powlim) = some 400 ∧ (mg (.powlimWrite 1901) id).map (·.powlim) = some 1900 ∧ (mg (.powlimWrite 1000) id).map (·.powlim) = some 1000 ∧
    (mg (.thermClear 1) fun m => { m with throttle := true, trip := true }).map (fun m => (m.throttle, m.trip)) = some (false, true) := by decide +kernel
theorem test_attest : (mg (.attreq 0x1000) id).map (·.otCounter) = some 1 ∧ (mg (.attreq 0x1000) id).map (·.vectors.getLsbD 64) = some true ∧
    (mg (.attreq 0x1000) fun m => { m with otCounter := 2 ^ 20 }).map (·.otCounter) = some (2 ^ 20) := by decide +kernel

/-- A firmware image's head of version 2: one byte at the first address of LPDDR, whose entry it is. -/
def fwHead : List Byte :=
  bytesOf 0x574D5246 4 ++ bytesOf 1 2 ++ bytesOf 2 2 ++ bytesOf 0x20000000000 8 ++ bytesOf 0x20000000000 8 ++ bytesOf 1 8 ++ List.replicate 3104 0
/-- A module at boot whose flash holds it, and whose fuses hold a digest. -/
def bootState (b d : List Byte) : State :=
  { State.reset with chip := State.reset.chip.onMgmt fun m => { m with flash := b.zipIdx.map fun p => (p.2, p.1), fuseDigest := d } }
theorem test_firmware_form : firmwareForm fwHead = true ∧ fwHead.length = 3136 ∧ firmwareForm [] = false := by decide +kernel
theorem test_boot_empty : (bootState [] []).chip.mgmt.bootst = 0 ∧ (chip? (exec .boot (bootState [] []))).map (·.mgmt.bootst) = some 2 := by decide +kernel
theorem test_boot_refused (h body : List Byte) : (bootState fwHead []).chip.mgmt.accepts h body = false := by
  have : digest (slice h 48 68) ≠ [] := fun e => by
    have := congrArg List.length e
    simp [digest] at this
  have h2 : (bootState fwHead []).chip.mgmt.fuseDigest = [] := rfl
  simp [Mgmt.accepts, this, h2]
theorem test_flash : ((List.range firmwareHead).map fun i => lookD (bootState fwHead []).chip.mgmt.flash i 0) = fwHead := by
  have h : (bootState fwHead []).chip.mgmt.flash = fwHead.zipIdx.map fun p => (p.2, p.1) := rfl
  have key : ∀ (l : List Byte) (k i : Nat), i < l.length → look ((l.zipIdx k).map fun p => (p.2, p.1)) (k + i) = l[i]? := by
    intro l
    induction l with
    | nil => intro k i h; simp at h
    | cons b l ih =>
      intro k i h
      cases i with
      | zero => simp [look]
      | succ i =>
        have := ih (k + 1) i (by simpa using h)
        rw [show k + (i + 1) = k + 1 + i by omega]
        simp only [List.zipIdx_cons, List.map_cons, List.getElem?_cons_succ, ← this]
        exact if_neg (by omega)
  have e : firmwareHead = fwHead.length := test_firmware_form.2.1.symm
  rw [e, h]
  refine List.ext_getElem (by simp) fun i h1 h2 => ?_
  have := key fwHead 0 i h2
  simp only [Nat.zero_add] at this
  simp [lookD, this, h2]
/-- With the key's digest in the fuses, an image is accepted when its signature verifies: log 19 leaves open which signatures do. -/
theorem test_boot_accepted (body : List Byte) (h : Config.xmssVerify (slice fwHead 48 68) (fwHead.take 256 ++ body) (slice fwHead 256 2820) = true) :
    (bootState fwHead (digest (slice fwHead 48 68))).chip.mgmt.accepts fwHead body = true := by
  have h1 : (bootState fwHead (digest (slice fwHead 48 68))).chip.mgmt.fuseDigest = digest (slice fwHead 48 68) := rfl
  have h2 : (bootState fwHead (digest (slice fwHead 48 68))).chip.mgmt.rollback = 0 := rfl
  simp [Mgmt.accepts, test_firmware_form.1, h, h1, h2]
theorem test_recovery : let s := HP Serai.reset { Port.reset with fifo := launchTokens 16 }
    let t := { s with chip := s.chip.onMgmt fun m => { m with bootst := 2 } }
    (t.chip.port 0).fifo.length = 2 ∧ t.chip.hostRead 0x1000 16 = List.replicate 16 0 ∧
    (chip? (exec (.recoveryImage (List.replicate 16 0)) t)).map (fun c => (c.mgmt.bootst, (c.port 0).fifo.length)) = some (2, 0) := by decide +kernel
theorem test_module_reset : (match exec .moduleReset (S M) with
      | .next t => some (t.cycle, t.chip.mgmt.bootst, t.chip.drovers.length)
      | _ => none) = some (0, 0, 16) := by decide +kernel

/-- The health records after an event of a module in which units are to be tested. -/
def hl (i : Instr) (l : List TestUnit) (f : Health → Health) : Option Health :=
  (chip? (exec i { S M with chip := { (S M).chip with health := f { (S M).chip.health with testing := l } } })).map (·.health)
theorem test_ecc : (mg (.eccError (.corrected (.serai 3))) id).map (·.ecccnt) = some 1 ∧ (hl (.eccError (.corrected (.serai 3))) [] id).map (·.testing) = some [.serai 3] ∧
    holdsData 0x10010 = true ∧ (hm (.eccError (.word 0x10010 (.dramRow 0x10010))) (S M)).map (·.isBad 0x10010) = some true ∧
    (mg (.eccError (.control 3)) id).map (·.uecnt) = some 1 ∧
    (hm (.eccError (.tag 0x10010 (.dramRow 0x10010))) (S M)).map (fun h => (h.badTag 0x10010, h.isBad 0x10010)) = some (true, false) := by decide +kernel
theorem test_test_runs : ({ S M with chip := { (S M).chip with health := { (S M).chip.health with testing := [.serai 3] } } } : State).chip.testRuns (.serai 3) = true ∧
    (hl (.selfTest (.serai 3) true) [.serai 3] id).map (fun h => (h.testing, h.fenced)) = some ([], []) := by decide +kernel
theorem test_self_test : (hl (.selfTest (.serai 3) false) [.serai 3] fun h => { h with spares := h.spares.set 0 1 }).map (fun h => (h.fenced, h.withdrawn, h.spares[0])) =
      some ([3], [], 0) ∧
    (hl (.selfTest (.serai 3) false) [.serai 3] fun h => { h with spares := h.spares.set 0 0 }).map (fun h => (h.withdrawn, h.replace)) = some ([3], true) ∧
    (hl (.selfTest (.sliceWay 3 2) false) [.sliceWay 3 2] id).map (·.waysOff) = some [(3, 2)] ∧
    (hl (.selfTest (.dramRow 0x1000) false) [.dramRow 0x1000] id).map (·.rows) = some [0x1000] := by decide +kernel
theorem test_governor : (cellPage addOne 0 [dataTok 5] [] []).next 0 ≠ .none ∧ ((cellPage addOne 0 [dataTok 5] [] []).word 0).op.governed = true ∧
    (chip? (exec (.governorWindow 0 0 0) (V M (wing (cellPage addOne 0 [dataTok 5] [] []))))).map (fun c => (c.gov.held, c.mgmt.govcnt)) = some ([(0, 0, 0)], 1) ∧
    (pg9 (.cellDataFiring 0 0 0) (cellPage addOne 0 [dataTok 5] [] [])).map (fun g => (g.cellAt 0).out.isSome) = some true := by decide +kernel
theorem test_thermal : (mg (.throttle 2) id).map (fun m => (m.throttle, m.throttled)) = some (true, 4) ∧
    (mg (.throttleRelease 2) fun m => { m with throttle := true, throttled := 6 }).map (fun m => (m.throttle, m.throttled)) = some (true, 2) ∧
    (mg .trip id).map (fun m => (m.trip, m.stopped, m.vectors.getLsbD 64)) = some (true, true, true) := by decide +kernel

/-! ## Frames, fetch, whole machine -/

/-- The number of the next state's instructions, where a step goes on. -/
def goesOn (o : Host.Outcome State Fault Refusal) : Bool := (chip? o).isSome
theorem test_frames : registerForm (.add 3 4 5 0) = true ∧ goesOn (exec (.add 3 4 5 0) (S M)) = true ∧ memoryForm (.st 3 4 3 2 0) = true ∧
    goesOn (exec (.st 3 4 3 2 0) (S (D 0x10010 0))) = true ∧ goesOn (exec (.fence 4 3) (S M)) = true := by decide +kernel
theorem test_store_frame : (acc .store .sent).leaf.watched = false ∧ goesOn (exec (.orderPoint 16 1) (HS [acc .store .sent] 0x1234 id)) = true ∧
    (hm (.orderPoint 16 1) (HS [acc .store .sent] 0x1234 id)).map (fun h => (h.byte 0x10010, h.byte 0x10011, h.byte 0x10018)) = some (9, 0, 0) := by
  decide +kernel

/-- The pc after a step of the machine, and its cycle. -/
def after (s : State) : Option (Word × Nat) :=
  match step s with
  | .next t => t.cur?.map fun d => (d.regs.pc, t.cycle)
  | _ => none
/-- The module with an instruction placed. -/
abbrev placed (nbits w : Nat) : State := State.reset.withFetchWord nbits w
theorem test_fetch : ((0x10000 : Word).toNat % 4 = 0 ∧ servesRemote (State.placeLeaf.pa 0x10000) = true ∧ State.placeLeaf.grants false .fetch = true ∧
      State.placeLeaf.rmt = false ∧ look State.placeDrover.mem.icache (fetchKey State.placeLeaf 0x10000) = none) ∧
    (match (placed 32 0x70000000).chip.translate 16 State.placeDrover 0x10000 with | .leaf l => l == State.placeLeaf | _ => false) = true ∧
    (match (placed 32 0x70000000).fetchWord State.placeDrover 0x10000 with | .got w _ => w | _ => 0) = 0x70000000 := by decide +kernel
theorem test_step : (placed 32 0x70000000).agenda = [] ∧ (placed 32 0x70000000).chip.mgmt.stopped = false ∧ (placed 32 0x70000000).chip.mgmt.bootst ≠ 0 ∧
    (placed 32 0x70000000).cur? = some State.placeDrover ∧ State.placeDrover.mayIssue 0 = true ∧
    ((placed 32 0x70000000).onChip fun c => c.begun 16 State.placeDrover).cur? = some State.placeDrover ∧ State.placeDrover.async = [] ∧
    decodeWords [0x70000000] = .ok (.nop, []) ∧ after (placed 32 0x70000000) = some (0x10004, 1) := by decide +kernel
theorem test_step_two_words : twoWords 0xFC600000 = true ∧ decodeWords [0xFC600000, 0x12345678] = .ok (.liw 3 0x12345678, []) ∧
    after (placed 64 0x12345678FC600000) = some (0x10008, 1) := by decide +kernel
/-- The task has been dispatched and has issued nothing. -/
def dispatched (w : Nat) (f : Drover → Drover) : State :=
  (placed 32 w).onChip fun c => (c.onTask 16 fun t => { t with state := .dispatched }).onDrover 16 f
/-- The state of task 16 after a step. -/
def stateAfter (s : State) : Option TaskState :=
  match step s with
  | .next t => (t.chip.task? 16).map (·.state)
  | _ => none
theorem test_first_issue : (dispatched 0x70000000 id).chip.unstarted 16 = true ∧ stateAfter (dispatched 0x70000000 id) = some .running ∧
    stateAfter (dispatched 0x04642800 fun d => { d with board := { d.board with pend := [(4, .access 1)] } }) = some .dispatched := by decide +kernel
theorem test_step_illegal_pair : twoWords 0xFC000005 = true ∧ (match decodeWords [0xFC000005, 0] with | .error _ => true | _ => false) = true ∧
    (match step (placed 64 0xFC000005) with | .next t => (t.cur?.bind (·.trap)).map (·.cause) | _ => none) = some 1 := by decide +kernel
theorem test_step_illegal : twoWords 0xF8000000 = false ∧ decodeWords [0xF8000000] = .error .unassignedMajor ∧
    (match step (placed 32 0xF8000000) with | .next t => (t.cur?.bind (·.trap)).map (·.cause) | _ => none) = some 1 := by decide +kernel
theorem test_decode_table : decodeTableWord 32 0x70000000 = some .nop ∧ decodeTableWord 64 0x12345678FC600000 = some (.liw 3 0x12345678) := by decide +kernel
theorem test_agenda : Instr.isEvent (.throttle 2) = true ∧
    (match step { placed 32 0x70000000 with agenda := [.event (.throttle 2), .tick 3] } with
      | .next t => some (t.cycle, t.agenda.length, t.chip.mgmt.throttle) | _ => none) = some (0, 1, true) ∧
    (match step { placed 32 0x70000000 with agenda := [.tick 3] } with | .next t => some (t.cycle, t.agenda.length) | _ => none) = some (3, 0) ∧
    (match step { placed 32 0x70000000 with agenda := [.issue 16] } with | .next t => some (t.cycle, t.agenda.length) | _ => none) = some (0, 0) := by decide +kernel
theorem test_boot_step : State.reset.agenda = [] ∧ State.reset.chip.mgmt.stopped = false ∧ State.reset.chip.mgmt.bootst = 0 ∧
    (match step State.reset with | .next t => some (t.cycle, t.chip.mgmt.bootst) | _ => none) = some (1, 2) := by decide +kernel
theorem test_canonical : Canonical (placed 32 0x70000000) := by unfold Canonical; decide +kernel
theorem test_round_trip : Instr.wellFormed (.add 30 31 29 1) = true ∧ Instr.isEvent (.add 30 31 29 1) = false ∧
    decode (bytesOfWords (encode (.add 30 31 29 1)) ++ [1]) = .ok (.add 30 31 29 1, 4) := by decide +kernel
/-- A module that a trip has stopped. -/
def tripped (l : List Turn) : State := { placed 32 0x70000000 with agenda := l, chip := (placed 32 0x70000000).chip.onMgmt fun m => { m with stopped := true } }
theorem test_stopped : (tripped []).chip.mgmt.stopped = true ∧ Turn.isReset (.tick 1) = false ∧ goesOn (step (tripped [])) = false ∧
    goesOn (step (tripped [.tick 1])) = false ∧ (match step (tripped [.event .moduleReset]) with | .next t => !t.chip.mgmt.stopped | _ => false) = true := by
  decide +kernel

end Sys2Proof.Tests
end

section
/-!
SUPPORT. An issue attempt that stalls (R16, R17): what the state is after it, and that this is what `Waits` asks. A steward
core's engine command (R1, R7).
-/

namespace Sys2Proof.Machine

@[simp] theorem unlessStall_some {α : Type} (b : Option Nat) (k : Res α) : unlessStall (some b) k = .stall b := rfl

/-- A stall ends the issue attempt, whatever would have followed. -/
theorem unlessStall_of_ne_none {α : Type} {o : Option (Option Nat)} (h : o ≠ none) (k : Res α) :
    ∃ b, unlessStall o k = .stall b := by
  obtain ⟨b, rfl⟩ := Option.ne_none_iff_exists'.mp h
  exact ⟨b, unlessStall_some b k⟩

theorem State.issues_stall {s : State} {i : Instr} {n : Nat} {f : Drover → Res Drover} {d : Drover} {b : Option Nat}
    (hc : s.cur? = some d) (h : f d = .stall b) :
    s.issues i n f = .next (s.onChip fun c => c.setDrover s.focus (d.stalled b s.cycle)) := by
  simp [State.issues, hc, h]

theorem State.drives_stall {s : State} {i : Instr} {f : Drover → Res (Chip × Drover)} {d : Drover} {b : Option Nat}
    (hc : s.cur? = some d) (h : f d = .stall b) :
    s.drives i f = .next (s.onChip fun c => c.setDrover s.focus (d.stalled b s.cycle)) := by
  simp [State.drives, hc, h]

/-- A steward core has no serai to command, and the command stops before its operands are looked at (log 74). -/
theorem State.commands_steward {s : State} {i : Instr} {f : Nat → Drover → Res (Chip × Drover)} {d : Drover}
    (hc : s.cur? = some d) (hs : d.steward = true) : s.commands i f = .refused .noEngine := by
  simp [State.commands, hc, hs]

end Sys2Proof.Machine

namespace Sys2Proof.Claims

open Sys2Proof.Machine

section

variable {s : State} {dr : Drover} {i j : Instr} {n : Nat} {l : List (BitVec 5)} {d : BitVec 5} {k : Drover → Res Drover}

/-- A stall writes `blockedAt` of the drover in focus alone, which no program sees. -/
theorem waits_of_stalled {b : Option Nat}
    (h : exec i s = .next (s.onChip fun c => c.setDrover s.focus (dr.stalled b s.cycle))) : Waits s dr i := by
  refine ⟨_, dr.stalled b s.cycle, h, ?_, rfl, rfl, rfl, rfl, rfl, rfl, rfl, rfl, fun u hu => ?_⟩
  · simp [State.cur?]
  · simp [hu]

/-- An instruction that looks at its sources first waits for them. -/
theorem waits_of_srcStall (hc : s.cur? = some dr)
    (hi : exec i s = s.issues j n fun dr => unlessStall (dr.srcStall l) (k dr)) (h : dr.srcStall l ≠ none) :
    Waits s dr i := by
  obtain ⟨b, hb⟩ := unlessStall_of_ne_none h (k dr)
  exact waits_of_stalled (hi.trans (State.issues_stall hc hb))

/-- An instruction whose sources are ready waits for its destination. -/
theorem waits_of_srcReady_of_dstStall (hc : s.cur? = some dr)
    (hi : exec i s = s.issues j n fun dr => unlessStall (dr.srcStall l) (unlessStall (dr.dstStall d) (k dr)))
    (hsrc : dr.srcStall l = none) (hdst : dr.dstStall d ≠ none) : Waits s dr i := by
  obtain ⟨b, hb⟩ := unlessStall_of_ne_none hdst (k dr)
  exact waits_of_stalled (hi.trans (State.issues_stall hc (by rw [hsrc, unlessStall_none, hb])))

/-- An instruction without sources waits for its destination. -/
theorem waits_of_dstStall {f : Drover → Res (Chip × Drover)} (hc : s.cur? = some dr)
    (hi : exec i s = s.drives j fun dr => unlessStall (dr.dstStall d) (f dr)) (h : dr.dstStall d ≠ none) :
    Waits s dr i := by
  obtain ⟨b, hb⟩ := unlessStall_of_ne_none h (f dr)
  exact waits_of_stalled (hi.trans (State.drives_stall hc hb))

end

/-- R16, R17: what each form looks at first is the shape of its definition, which `rfl` reads off. -/
theorem operandStalls : OperandStalls := by
  intro s dr d a b w p z o r f k n x hc
  refine ⟨fun hsrc => ?twoSources, fun hsrc => ?oneSource, fun hdst => ?noSource, fun hread hdst => ?destination⟩
  case twoSources =>
    refine ⟨?add, ?mul, ?div, ?ceq, ?fadd, ?amoAdd⟩ <;> exact waits_of_srcStall hc rfl hsrc
  case oneSource =>
    refine ⟨?ld, ?jalr, ?mtc⟩ <;> exact waits_of_srcStall hc rfl hsrc
  case noSource => exact waits_of_dstStall hc rfl hdst
  case destination =>
    obtain ⟨-, hsrc, -⟩ := hread
    refine ⟨?addi, ?ldReady⟩ <;> exact waits_of_srcReady_of_dstStall hc rfl hsrc hdst

/-- R1, R7, log 74: every command listed goes through `State.commands`, which asks for a serai. -/
theorem stewardHasNoEngine : StewardHasNoEngine := by
  intro s dr d a b p p2 sc m g hc hs i hi
  fin_cases hi <;> exact State.commands_steward hc hs

/-- Settles O24: an issue attempt that stalls leaves what a program sees (`waits_of_stalled`), and a steward core's engine
command stops (`State.commands_steward`). -/
theorem issueHolds : Obligations.IssueHolds := ⟨operandStalls, stewardHasNoEngine⟩

end Sys2Proof.Claims
end

section
/-!
SUPPORT. A scalar instruction that completes (R105): what its result leaves of the drover, what its commit leaves of the
state, and that this is what `Wrote` asks; one rule for each operand form.
-/

namespace Sys2Proof.Machine

/-! ## Results, with their frame -/

@[simp] theorem Drover.orFlags_zero (d : Drover) : d.orFlags 0 = d := by
  simp [Drover.orFlags, Machine.orFlags]

/-- What no scalar register instruction changes of its drover. -/
structure Drover.Framed (d d' : Drover) : Prop where
  ctl : d'.ctl = { d.ctl with fflags := d'.ctl.fflags }
  dregs : d'.regs.d = d.regs.d
  stew : d'.stew = d.stew
  steward : d'.steward = d.steward
  tlb : d'.mem.tlb = d.mem.tlb

theorem Drover.SameBut.framed {d d' : Drover} (h : d.SameBut d') : d.Framed d' where
  ctl := by rw [h.ctl]
  dregs := by rw [h.regs]
  stew := h.stew
  steward := h.steward
  tlb := h.tlb

theorem Drover.Framed.orFlags {d d' : Drover} (h : d.Framed d') (fl : BitVec 7) : d.Framed (d'.orFlags fl) :=
  ⟨by rw [Drover.orFlags_ctl, h.ctl], h.dregs, h.stew, h.steward, h.tlb⟩

/-- What a result v for register r leaves of the drover that computed it: the register written, or the value pushed for
the member that QPEER names, and nothing else that a program reads. -/
structure Drover.Given (d d' : Drover) (r : BitVec 5) (v : Word) : Prop where
  ctl : d'.ctl = d.ctl
  pc : d'.regs.pc = d.regs.pc
  p : d'.regs.p = d.regs.p
  dregs : d'.regs.d = d.regs.d
  stew : d'.stew = d.stew
  steward : d'.steward = d.steward
  tlb : d'.mem.tlb = d.mem.tlb
  getX : ∀ m : BitVec 5, m.toNat < 28 → d'.regs.getX m = if m = r ∧ m ≠ 0 then v else d.regs.getX m
  pushed : r.toNat = 30 → ∃ e : QEntry, e.val = v ∧
    look d'.queues.outq d.ctl.qpeer.toNat = some (lookD d.queues.outq d.ctl.qpeer.toNat [] ++ [e])

theorem Drover.Given.framed {a d d' : Drover} {r : BitVec 5} {v : Word} (h : a.Framed d) (k : d.Given d' r v) :
    a.Framed d' where
  ctl := by rw [k.ctl]; exact h.ctl
  dregs := k.dregs.trans h.dregs
  stew := k.stew.trans h.stew
  steward := k.steward.trans h.steward
  tlb := k.tlb.trans h.tlb

theorem Drover.writeX_given (d : Drover) {r : BitVec 5} (v : Word) (h : r.toNat < 28) : d.Given (d.writeX r v) r v where
  ctl := rfl
  pc := Regs.setX_pc ..
  p := Regs.setX_p ..
  dregs := Regs.setX_d ..
  stew := rfl
  steward := rfl
  tlb := rfl
  getX m _ := Regs.getX_setX ..
  pushed h30 := by omega

/-- A push through x30 that may go (R9, R157). -/
theorem State.result_push {s : State} {d : Drover} {r : BitVec 5} (v : Word) (h : r.toNat = 30)
    (halive : s.chip.peerAlive s.focus d.ctl.qpeer.toNat = true) (hready : d.pushReady = true) :
    ∃ d', s.result d r v = .ok d' ∧ d.Given d' r v := by
  refine ⟨_, by unfold State.result; rw [if_pos h, if_pos halive, if_pos hready], ?_⟩
  refine ⟨rfl, rfl, rfl, rfl, rfl, rfl, rfl, fun m hm => ?_, fun _ => ⟨_, rfl, look_put_same ..⟩⟩
  have hne : m ≠ r := fun e => by subst e; omega
  rw [if_neg fun e => hne e.1]; rfl

/-! ## The commit of a framed drover -/

open Sys2Proof.Claims

/-- Committing and retiring a drover that keeps the frame leaves what `Rest` names. -/
theorem State.commit_rest {s : State} {dr d' : Drover} (n : Nat) (h : dr.Framed d') :
    Rest s (s.commit dr (d'.retire n)) dr (d'.retire n) := by
  have hlog := s.commit_logged dr (d'.retire n)
  refine ⟨fun u hu => ?others, rfl, rfl, hlog.serais, hlog.sched, hlog.binds, hlog.xde, hlog.links, hlog.mgmt,
    h.dregs, h.stew, h.steward, congrArg (·.qpeer) h.ctl, congrArg (·.yieldth) h.ctl, congrArg (·.arm) h.ctl,
    congrArg (·.ovr) h.ctl, congrArg (·.govhold) h.ctl, congrArg (·.instret + 1) h.ctl, h.tlb⟩
  case others => rw [State.commit_drover?, if_neg hu]

end Sys2Proof.Machine

namespace Sys2Proof.Claims

open Sys2Proof.Machine

section

variable {s : State} {dr d1 : Drover} {i : Instr} {n : Nat} {d a b : BitVec 5} {x y v : Word} {fl : BitVec 7}

/-- A free destination takes the result of a drover that has only read its sources and raised exceptions. -/
theorem result_given (hd : destOk s dr d) (hs : dr.SameBut d1) (fl : BitVec 7) (v : Word) :
    ∃ d', s.result (d1.orFlags fl) d v = .ok d' ∧ (d1.orFlags fl).Given d' d v := by
  obtain ⟨-, hreg | ⟨h30, halive, hready⟩⟩ := hd
  · exact ⟨_, State.result_reg v hreg, Drover.writeX_given _ v hreg⟩
  · exact State.result_push v h30 (by simpa [hs.ctl] using halive) (hs.ready.trans hready)

/-- An instruction whose answer is a result for a free destination completes (R105). -/
theorem wrote_of_result {f : Drover → Res Drover} (hc : s.cur? = some dr) (hd : destOk s dr d) (hs : dr.SameBut d1)
    (hi : exec i s = s.drove i f) (hn : Instr.bytes i = n) (hf : f dr = s.result (d1.orFlags fl) d v) :
    Wrote s dr i d v (fl.setWidth 5) n := by
  subst hn
  obtain ⟨d', hr, hg⟩ := result_given hd hs fl v
  have hframe : dr.Framed d' := hg.framed (hs.framed.orFlags fl)
  refine ⟨_, d'.retire _, hi.trans (State.issues_ok hc (hf.trans hr)), State.commit_cur? .., State.commit_rest _ hframe,
    ?pc, ?preds, ?flags, fun r hr => ?regs, fun h30 => ?push⟩
  case pc => rw [Drover.retire_pc, hg.pc, Drover.orFlags_regs, hs.regs]
  case preds => rw [Drover.retire_p, hg.p, Drover.orFlags_regs, hs.regs]
  case flags => rw [Drover.retire_fflags, hg.ctl, Drover.orFlags_ctl, hs.ctl]; rfl
  case regs => rw [Regs.getX_of_x (Drover.retire_x ..), hg.getX r hr, Drover.orFlags_regs, hs.regs]
  case push => simpa [hs.ctl, hs.outq] using hg.pushed h30

/-! ## One rule for each operand form -/

theorem wrote_op2 {f : Word → Word → Word} (h : Ready2 s dr d a b x y) (hi : exec i s = s.op2 i d a b f)
    (hn : Instr.bytes i = 4) (hv : f x y = v) : Wrote s dr i d v 0 4 := by
  obtain ⟨⟨hc, hd⟩, hsrc, d1, hread⟩ := h
  refine wrote_of_result (fl := 0) hc hd (Drover.read2_sameBut hread) hi hn ?_
  rw [hsrc, hd.1, hread, Drover.orFlags_zero]
  exact congrArg (s.result d1 d) hv

theorem wrote_op1 {f : Word → Word} (h : Ready1 s dr d a x) (hi : exec i s = s.op1 i d a f)
    (hn : Instr.bytes i = 4) (hv : f x = v) : Wrote s dr i d v 0 4 := by
  obtain ⟨⟨hc, hd⟩, hsrc, d1, hread⟩ := h
  refine wrote_of_result (fl := 0) hc hd (Drover.readX_sameBut hread) hi hn ?_
  rw [hsrc, hd.1, hread, Drover.orFlags_zero]
  exact congrArg (s.result d1 d) hv

/-- One source at the width that W selects. -/
theorem wrote_op1_width {g : (n : Nat) → BitVec n → BitVec n} {w : BitVec 1} {v32 : BitVec 32} {v64 : Word}
    (h : Ready1 s dr d a x) (hi : exec i s = s.op1 i d a fun x => atWidth w (fun n x _ => g n x) x 0)
    (hn : Instr.bytes i = 4) (h32 : g 32 (lo x) = v32) (h64 : g 64 x = v64) : Wrote s dr i d (atW w v32 v64) 0 4 :=
  wrote_op1 h hi hn (by rw [← h32, ← h64]; rfl)

theorem fpWrote_fop2 {g : Nat → Nat → Nat × BitVec 7} {p : BitVec 1} (h : Ready2 s dr d a b x y)
    (hi : exec i s = s.fop2 i d a b fun x y => fpDst (g (fpSrc p x) (fpSrc p y))) (hn : Instr.bytes i = 4) :
    fpWrote s dr i d (g (fpSrc p x) (fpSrc p y)) := by
  obtain ⟨⟨hc, hd⟩, hsrc, d1, hread⟩ := h
  refine wrote_of_result hc hd (Drover.read2_sameBut hread) hi hn ?_
  rw [hsrc, hd.1, hread]; rfl

theorem fpWrote_fop1 {g : Nat → Nat × BitVec 7} {p : BitVec 1} (h : Ready1 s dr d a x)
    (hi : exec i s = s.fop1 i d a fun x => fpDst (g (fpSrc p x))) (hn : Instr.bytes i = 4) :
    fpWrote s dr i d (g (fpSrc p x)) := by
  obtain ⟨⟨hc, hd⟩, hsrc, d1, hread⟩ := h
  refine wrote_of_result hc hd (Drover.readX_sameBut hread) hi hn ?_
  rw [hsrc, hd.1, hread]; rfl

end

end Sys2Proof.Claims
end

section
/-!
SUPPORT. The values of the ALU operations (R44, R106), at every width: shift amounts, the high half of a product, division
and remainder, the counts of bits, and the bytes reversed.
-/

namespace Sys2Proof.Machine

/-! ## Shift amounts and products -/

theorem lo_toNat_mod (y : Word) : (Claims.lo y).toNat % 32 = y.toNat % 32 := by
  rw [Claims.lo, BitVec.toNat_setWidth]; omega

theorem rotateLeft_mod {n : Nat} (x : BitVec n) (k : Nat) :
    x.rotateLeft (k % n) = x <<< (k % n) ||| x >>> (n - k % n) := by
  rw [BitVec.rotateLeft_def, Nat.mod_mod]

/-- Bits [127:64] of a product of integers, whatever its sign. -/
theorem ofInt_div_eq_high (P : Int) : BitVec.ofInt 64 (P / 2 ^ 64) = (BitVec.ofInt 128 P >>> 64).setWidth 64 := by
  apply BitVec.eq_of_toNat_eq
  simp only [BitVec.toNat_ofInt, BitVec.toNat_setWidth, BitVec.toNat_ushiftRight, Nat.shiftRight_eq_div_pow]
  omega

theorem ofInt_mulh (x y : Word) :
    BitVec.ofInt 64 (x.toInt * y.toInt / 2 ^ 64) = ((x.signExtend 128 * y.signExtend 128) >>> 64).setWidth 64 := by
  rw [ofInt_div_eq_high, BitVec.ofInt_mul]; rfl

theorem ofNat_mulhu (x y : Word) :
    BitVec.ofNat 64 (x.toNat * y.toNat / 2 ^ 64) = ((x.setWidth 128 * y.setWidth 128) >>> 64).setWidth 64 := by
  rw [← BitVec.ofNat_toNat 128 x, ← BitVec.ofNat_toNat 128 y, ← BitVec.ofNat_mul]
  apply BitVec.eq_of_toNat_eq
  simp only [BitVec.toNat_ofNat, BitVec.toNat_setWidth, BitVec.toNat_ushiftRight, Nat.shiftRight_eq_div_pow]
  omega

/-! ## Division and remainder (R44) -/

section

variable {n : Nat} (x y : BitVec n)

theorem toNat_eq_zero_iff : x.toNat = 0 ↔ x = 0 := BitVec.toNat_inj (y := 0#n)

theorem intOf_toNat : intOf n x.toNat = x.toInt := by
  rw [BitVec.toInt_eq_toNat_cond]
  simp only [intOf, Nat.mod_eq_of_lt x.isLt]

theorem ofNat_natOfInt (v : Int) : BitVec.ofNat n (natOfInt n v) = BitVec.ofInt n v := by
  apply BitVec.eq_of_toNat_eq
  rw [BitVec.toNat_ofNat, BitVec.toNat_ofInt, natOfInt, Nat.mod_eq_of_lt]
  exact (Int.toNat_lt (Int.emod_nonneg _ (by positivity))).2 (Int.emod_lt_of_pos _ (by positivity))

/-- The pair that division by zero, division of the most negative number by −1, and any other division give. -/
theorem divN_toNat (signed : Bool) : divN n signed x.toNat y.toNat =
    if y = 0 then (2 ^ n - 1, x.toNat)
    else if signed then
      if x.toInt = -(2 ^ (n - 1) : Int) ∧ y.toInt = -1 then (x.toNat, 0)
      else (natOfInt n (x.toInt.tdiv y.toInt), natOfInt n (x.toInt.tmod y.toInt))
    else (x.toNat / y.toNat, x.toNat % y.toNat) := by
  simp only [divN, Nat.mod_eq_of_lt x.isLt, Nat.mod_eq_of_lt y.isLt, intOf_toNat, toNat_eq_zero_iff]

theorem ofNat_two_pow_sub_one : BitVec.ofNat n (2 ^ n - 1) = BitVec.allOnes n := by
  apply BitVec.eq_of_toNat_eq
  rw [BitVec.toNat_ofNat, BitVec.toNat_allOnes, Nat.mod_eq_of_lt (by have := Nat.two_pow_pos n; omega)]

theorem sdiv_eq_ofInt : x.sdiv y = BitVec.ofInt n (x.toInt.tdiv y.toInt) := by
  apply BitVec.eq_of_toInt_eq
  rw [BitVec.toInt_sdiv, BitVec.toInt_ofInt]

theorem srem_eq_ofInt : x.srem y = BitVec.ofInt n (x.toInt.tmod y.toInt) := by
  rw [← BitVec.toInt_srem, BitVec.ofInt_toInt]

variable {x y}

/-- The most negative number divided by −1 is itself, since 2^(n − 1) and −2^(n − 1) are equal modulo 2^n. -/
theorem sdiv_of_overflow (hx : x.toInt = -(2 ^ (n - 1) : Int)) (hy : y.toInt = -1) : x.sdiv y = x := by
  have hmin : x = BitVec.intMin n := by
    apply BitVec.eq_of_toInt_eq
    rw [BitVec.toInt_intMin_eq_bmod, ← hx, ← BitVec.toInt_ofInt, BitVec.ofInt_toInt]
  have hneg : x.sdiv y = -x := by
    rw [sdiv_eq_ofInt, hy, Int.tdiv_neg, Int.tdiv_one, BitVec.ofInt_neg, BitVec.ofInt_toInt]
  rw [hneg, hmin, BitVec.neg_intMin]

theorem srem_of_overflow (hy : y.toInt = -1) : x.srem y = 0 := by
  rw [srem_eq_ofInt, hy, Int.tmod_neg, Int.tmod_one]; rfl

theorem divN_signed_quot : BitVec.ofNat n (divN n true x.toNat y.toNat).1 = Claims.quotS x y := by
  rw [divN_toNat, Claims.quotS]
  split
  case isTrue => exact ofNat_two_pow_sub_one
  case isFalse =>
    rw [if_pos rfl]
    split
    case isTrue h => rw [sdiv_of_overflow h.1 h.2, BitVec.ofNat_toNat, BitVec.setWidth_eq]
    case isFalse => rw [ofNat_natOfInt, sdiv_eq_ofInt]

theorem divN_signed_rem : BitVec.ofNat n (divN n true x.toNat y.toNat).2 = Claims.remS x y := by
  rw [divN_toNat, Claims.remS]
  split
  case isTrue => rw [BitVec.ofNat_toNat, BitVec.setWidth_eq]
  case isFalse =>
    rw [if_pos rfl]
    split
    case isTrue h => rw [srem_of_overflow h.2]; rfl
    case isFalse => rw [ofNat_natOfInt, srem_eq_ofInt]

theorem divN_unsigned_quot : BitVec.ofNat n (divN n false x.toNat y.toNat).1 = Claims.quotU x y := by
  rw [divN_toNat, Claims.quotU]
  split
  case isTrue => exact ofNat_two_pow_sub_one
  case isFalse => rw [if_neg Bool.false_ne_true, ← BitVec.toNat_udiv, BitVec.ofNat_toNat, BitVec.setWidth_eq]; rfl

theorem divN_unsigned_rem : BitVec.ofNat n (divN n false x.toNat y.toNat).2 = Claims.remU x y := by
  rw [divN_toNat, Claims.remU]
  split
  case isTrue => rw [BitVec.ofNat_toNat, BitVec.setWidth_eq]
  case isFalse => rw [if_neg Bool.false_ne_true, ← BitVec.toNat_umod, BitVec.ofNat_toNat, BitVec.setWidth_eq]; rfl

end

/-! ## Counts of bits -/

section

variable {n : Nat} (x : BitVec n)

theorem clzN_eq_leading : clzN n x = Claims.leading x := by
  unfold clzN Claims.leading bitLen
  simp only [toNat_eq_zero_iff]
  congr 1
  split <;> omega

/-- The count is the one number that has zeros below it and, short of the width, a one at it. -/
theorem ctzNat_eq {n a c : Nat} (hle : c ≤ n) (hzero : ∀ k, k < c → a.testBit k = false)
    (hone : c < n → a.testBit c = true) : ctzNat a n = c := by
  induction n generalizing a c with
  | zero => simp only [ctzNat]; omega
  | succ n ih =>
    cases c with
    | zero =>
      have hodd : a % 2 = 1 := by simpa [Nat.testBit_zero] using hone (by omega)
      rw [ctzNat, if_pos hodd]
    | succ c =>
      have heven : ¬ a % 2 = 1 := by simpa [Nat.testBit_zero] using hzero 0 (by omega)
      have hrest : ctzNat (a / 2) n = c := by
        refine ih (by omega) (fun k hk => ?_) fun hc => ?_
        · rw [Nat.testBit_div_two]; exact hzero (k + 1) (by omega)
        · rw [Nat.testBit_div_two]; exact hone (by omega)
      rw [ctzNat, if_neg heven, hrest, Nat.add_comm]

theorem ctzN_of_isTrailing {c : Nat} (h : Claims.isTrailing x c) : ctzN n x = BitVec.ofNat n c := by
  obtain ⟨hle, hzero, hone⟩ := h
  exact congrArg _ (ctzNat_eq hle hzero hone)

theorem popNat_eq_length (a n : Nat) : popNat a n = ((List.range n).filter a.testBit).length := by
  induction n generalizing a with
  | zero => rfl
  | succ n ih =>
    have hshift : (a.testBit ∘ Nat.succ) = (a / 2).testBit := funext fun k => Nat.testBit_succ a k
    rw [popNat, ih, List.range_succ_eq_map, List.filter_cons, List.filter_map, hshift, Nat.testBit_zero]
    rcases Nat.mod_two_eq_zero_or_one a with h | h <;> simp [h, Nat.add_comm]

theorem popN_eq_ones : popN n x = Claims.ones x := congrArg _ (popNat_eq_length ..)

end

/-! ## The bytes reversed -/

theorem natOfBytes_leBytes_mod (v n : Nat) : natOfBytes (leBytes v n) = v % 256 ^ n := by
  induction n generalizing v with
  | zero => simp [leBytes, natOfBytes, Nat.mod_one]
  | succ n ih => rw [leBytes, natOfBytes, ih, BitVec.toNat_ofNat, pow_succ' 256 n, Nat.mod_mul]

/-- The bytes of a word, lowest first. -/
theorem leBytes_eq_map (v n : Nat) : leBytes v n = (List.range n).map fun k => BitVec.ofNat 8 (v >>> (8 * k)) := by
  induction n generalizing v with
  | zero => rfl
  | succ n ih =>
    have hshift (k : Nat) : (v / 256) >>> (8 * k) = v >>> (8 * (k + 1)) := by
      rw [Nat.mul_succ, Nat.add_comm, Nat.shiftRight_add, Nat.shiftRight_eq_div_pow v 8]
    rw [leBytes, ih, List.range_succ_eq_map, List.map_cons, List.map_map]
    simp only [hshift]; rfl

theorem bswap_eq {x v : Word} (h : ∀ k, k < 8 → v.extractLsb' (8 * k) 8 = x.extractLsb' (8 * (7 - k)) 8) :
    bswap x = v := by
  have hbytes : (leBytes x.toNat 8).reverse = leBytes v.toNat 8 := by
    rw [leBytes_eq_map, leBytes_eq_map]
    refine List.ext_getElem (by simp) fun k hk _ => ?_
    simpa [BitVec.extractLsb'] using (h k (by simpa using hk)).symm
  rw [bswap, hbytes, natOfBytes_leBytes_mod, Nat.mod_eq_of_lt (show v.toNat < 256 ^ 8 from v.isLt), BitVec.ofNat_toNat,
    BitVec.setWidth_eq]

end Sys2Proof.Machine

namespace Sys2Proof.Claims

open Sys2Proof.Machine

/-! ## The statements -/

/-- R106: the operand form of each instruction is the shape of its definition, which `rfl` reads off. -/
theorem aluResults : AluResults := by
  intro s dr d a b x y h
  refine ⟨fun w => ?add, fun w => ?sub, ?and, ?or, ?xor, ?andn, fun w => ?shl, fun w => ?shr, fun w => ?sar, fun w => ?rol,
    fun w => ?mul, ?mulh, ?mulhu, fun w => ?min, fun w => ?max, fun w => ?minu, fun w => ?maxu⟩
  case shl | shr | sar => rw [← lo_toNat_mod]; exact wrote_op2 h rfl rfl rfl
  case rol => rw [← lo_toNat_mod, ← rotateLeft_mod, ← rotateLeft_mod]; exact wrote_op2 h rfl rfl rfl
  case mulh => exact wrote_op2 (f := fun x y => BitVec.ofInt 64 (x.toInt * y.toInt / 2 ^ 64)) h rfl rfl (ofInt_mulh x y)
  case mulhu => exact wrote_op2 (f := fun x y => BitVec.ofNat 64 (x.toNat * y.toNat / 2 ^ 64)) h rfl rfl (ofNat_mulhu x y)
  case andn => exact wrote_op2 (f := fun x y => x &&& ~~~y) h rfl rfl rfl
  case add | sub | and | or | xor | mul | min | max | minu | maxu => exact wrote_op2 h rfl rfl rfl

/-- R44, R106: each width by the rule of `divN` at that width. -/
theorem divisionResults : DivisionResults := by
  intro s dr d a b x y h w
  refine ⟨?div, ?divu, ?rem, ?remu⟩
  case div => rw [← divN_signed_quot, ← divN_signed_quot]; exact wrote_op2 h rfl rfl rfl
  case divu => rw [← divN_unsigned_quot, ← divN_unsigned_quot]; exact wrote_op2 h rfl rfl rfl
  case rem => rw [← divN_signed_rem, ← divN_signed_rem]; exact wrote_op2 h rfl rfl rfl
  case remu => rw [← divN_unsigned_rem, ← divN_unsigned_rem]; exact wrote_op2 h rfl rfl rfl

/-- R106: each count at both widths by the rule of its function. -/
theorem bitCountResults : BitCountResults := by
  intro s dr d a x h
  refine ⟨fun w => ?clz, fun w c32 c64 h32 h64 => ?ctz, fun w => ?popc, ?sextb, ?sexth, ?sextw, fun v hv => ?bswap⟩
  case clz => exact wrote_op1_width (g := clzN) h rfl rfl (clzN_eq_leading _) (clzN_eq_leading _)
  case ctz => exact wrote_op1_width (g := ctzN) h rfl rfl (ctzN_of_isTrailing _ h32) (ctzN_of_isTrailing _ h64)
  case popc => exact wrote_op1_width (g := popN) h rfl rfl (popN_eq_ones _) (popN_eq_ones _)
  case bswap => exact wrote_op1 (f := bswap) h rfl rfl (bswap_eq hv)
  case sextb => exact wrote_op1 (f := fun x => (x.setWidth 8).signExtend 64) h rfl rfl rfl
  case sexth => exact wrote_op1 (f := fun x => (x.setWidth 16).signExtend 64) h rfl rfl rfl
  case sextw => exact wrote_op1 (f := fun x => (x.setWidth 32).signExtend 64) h rfl rfl rfl

/-- Settles O1: every ALU instruction completes with its value and frame (`wrote_op2`, `wrote_op1`), and the values are
those of R44 and R106. -/
theorem arithmeticResults : Obligations.ArithmeticResults := ⟨aluResults, divisionResults, bitCountResults⟩

end Sys2Proof.Claims
end

section
/-!
SUPPORT. Rounding a magnitude to a multiple of a power of two (R38), and the drover's floating-point operations (R111).
-/

namespace Sys2Proof.Machine

/-! ## Rounding (R38) -/

/-- Where the magnitude is a multiple already, every mode keeps it. -/
theorem roundTo_finer (mode : RMode) (sgn : Bool) (m k : Nat) (e : Int) :
    roundTo mode sgn m (e + k) e = (m * 2 ^ k, true) := by
  rw [roundTo, if_pos (by omega), show (e + k - e).toNat = k by omega]

/-- Rounding drops k bits, and `roundsUp` looks at what is dropped. -/
theorem roundTo_coarser (mode : RMode) (sgn : Bool) (m : Nat) {k : Nat} (e : Int) (hk : 0 < k) :
    roundTo mode sgn m e (e + k) =
      (if roundsUp mode sgn (m / 2 ^ k) (m % 2 ^ k) k then m / 2 ^ k + 1 else m / 2 ^ k, m % 2 ^ k == 0) := by
  rw [roundTo, if_neg (by omega), show (e + k - e).toNat = k by omega]

/-- To nearest goes up past the half, and on the half when the multiple below is odd. -/
theorem roundsUp_rne (sgn : Bool) (hi rem : Nat) {k : Nat} (hk : 0 < k) :
    roundsUp .rne sgn hi rem k = true ↔ 2 ^ k < 2 * rem ∨ 2 * rem = 2 ^ k ∧ hi % 2 = 1 := by
  obtain ⟨j, rfl⟩ : ∃ j, k = j + 1 := ⟨k - 1, by omega⟩
  simp only [roundsUp, Bool.or_eq_true, Bool.and_eq_true, decide_eq_true_eq, beq_iff_eq, bne_iff_ne, pow_succ]
  omega

/-- The quotient rounded up is the quotient, or one more where something is left over. -/
theorem add_pred_div (m : Nat) {p : Nat} (hp : 0 < p) :
    (m + p - 1) / p = if m % p ≠ 0 then m / p + 1 else m / p := by
  have hm := Nat.div_add_mod m p
  have hlt := Nat.mod_lt m hp
  split
  · rw [show m + p - 1 = (m % p - 1) + p * (m / p + 1) by rw [Nat.mul_add]; omega, Nat.add_mul_div_left _ _ hp,
      Nat.div_eq_of_lt (by omega), Nat.zero_add]
  · rw [show m + p - 1 = (p - 1) + p * (m / p) by omega, Nat.add_mul_div_left _ _ hp,
      Nat.div_eq_of_lt (by omega), Nat.zero_add]

end Sys2Proof.Machine

namespace Sys2Proof.Claims

open Sys2Proof.Machine

/-- To nearest, ties to even: with m = 2^k × (m / 2^k) + m % 2^k, what is left over is compared with half a step. -/
theorem roundTo_rne (sgn : Bool) (m : Nat) {k : Nat} (e : Int) (hk : 0 < k) :
    let r := roundTo .rne sgn m e (e + k)
    2 * r.1 * 2 ^ k ≤ 2 * m + 2 ^ k ∧ 2 * m ≤ 2 * r.1 * 2 ^ k + 2 ^ k ∧
      ((2 * r.1 * 2 ^ k = 2 * m + 2 ^ k ∨ 2 * m = 2 * r.1 * 2 ^ k + 2 ^ k) → r.1 % 2 = 0) ∧
      (r.2 = true ↔ m % 2 ^ k = 0) := by
  have hm := Nat.div_add_mod m (2 ^ k)
  have hlt := Nat.mod_lt m (Nat.two_pow_pos k)
  have hup := roundsUp_rne sgn (m / 2 ^ k) (m % 2 ^ k) hk
  have hstep (q : Nat) : 2 * q * 2 ^ k = 2 * (2 ^ k * q) := by ring
  simp only [roundTo_coarser _ _ _ _ hk, hstep, beq_iff_eq, iff_self, and_true]
  generalize 2 ^ k = p at *
  split
  case isTrue h =>
    have := hup.1 h
    rw [Nat.mul_add]
    omega
  case isFalse h =>
    have := mt hup.2 h
    omega

theorem roundTo_rtz (sgn : Bool) (m : Nat) {k : Nat} (e : Int) (hk : 0 < k) :
    (roundTo .rtz sgn m e (e + k)).1 = m / 2 ^ k := by
  rw [roundTo_coarser _ _ _ _ hk]; rfl

theorem roundTo_rdn (sgn : Bool) (m : Nat) {k : Nat} (e : Int) (hk : 0 < k) :
    (roundTo .rdn sgn m e (e + k)).1 = if sgn then (m + 2 ^ k - 1) / 2 ^ k else m / 2 ^ k := by
  rw [roundTo_coarser _ _ _ _ hk, add_pred_div m (Nat.two_pow_pos k)]
  cases sgn <;> simp [roundsUp]

theorem roundTo_rup (sgn : Bool) (m : Nat) {k : Nat} (e : Int) (hk : 0 < k) :
    (roundTo .rup sgn m e (e + k)).1 = if sgn then m / 2 ^ k else (m + 2 ^ k - 1) / 2 ^ k := by
  rw [roundTo_coarser _ _ _ _ hk, add_pred_div m (Nat.two_pow_pos k)]
  cases sgn <;> simp [roundsUp]

theorem roundingModes : RoundingModes := fun sgn m k e hk =>
  ⟨roundTo_rne sgn m e hk, roundTo_rtz sgn m e hk, roundTo_rdn sgn m e hk, roundTo_rup sgn m e hk,
    fun mode => roundTo_finer mode sgn m k e⟩

end Sys2Proof.Claims

/-! ## Floating-point operations (R111) -/

namespace Sys2Proof.Machine

/-- Reading a source keeps the late errors that wait on registers. -/
theorem Drover.readX_late {d d' : Drover} {u : Nat} {r : BitVec 5} {v : Word} (h : d.readX u r = .ok (v, d')) :
    d'.board.late = d.board.late := by
  unfold Drover.readX at h
  split at h
  · split at h
    · cases h
    · split at h <;> cases h <;> rfl
  · split at h
    · split at h
      · cases h
      · cases h; split <;> rfl
    · split at h
      · split at h <;> cases h; rfl
      · split at h
        · split at h <;> cases h; rfl
        · cases h

/-- A register that could be read holds no late error. -/
theorem Drover.readX_late_none {d d' : Drover} {u : Nat} {r : BitVec 5} {v : Word} (hr : r.toNat < 28)
    (h : d.readX u r = .ok (v, d')) : look d.board.late r.toNat = none := by
  unfold Drover.readX at h
  rw [if_pos hr] at h
  split at h
  · cases h
  · assumption

theorem Drover.unlessLate_cons {α : Type} {d : Drover} {r : BitVec 5} {l : List (BitVec 5)} {k : Res α}
    (h : look d.board.late r.toNat = none) : d.unlessLate (r :: l) k = d.unlessLate l k := by
  simp [Drover.unlessLate, h]

/-- Where an instruction goes on past the check of its sources for late errors, the check lets anything go on that is made
of a drover with the same late errors. -/
theorem Drover.unlessLate_of_ok {α β : Type} {d d' : Drover} {l : List (BitVec 5)} {k : Res α} {b : α}
    (hlate : d'.board.late = d.board.late) (h : d'.unlessLate l k = .ok b) (k' : Res β) : d.unlessLate l k' = k' := by
  unfold Drover.unlessLate at h ⊢
  rw [hlate] at h
  split at h
  · cases h
  · rfl

end Sys2Proof.Machine

namespace Sys2Proof.Claims

open Sys2Proof.Machine

section

variable {s : State} {dr : Drover} {d a b : BitVec 5} {x y z : Word}

/-- FMA reads its destination first, and its sources hold no late error since all three could be read. -/
theorem fpWrote_fma (h : ReadyFma s dr d a b z x y) (p : BitVec 1) (r : BitVec 2) :
    fpWrote s dr (.fma d a b p r) d
      ((fpFmt p).fmaBits .ieee (modeOf r.toNat) (fpSrc p x) (fpSrc p y) (fpSrc p z)) := by
  obtain ⟨hc, hreg, hsrc, hdst, d1, d2, hz, hxy⟩ := h
  have hsame : dr.SameBut d2 := (Drover.readX_sameBut hz).trans (Drover.read2_sameBut hxy)
  refine wrote_of_result hc ⟨hdst, .inl hreg⟩ hsame rfl rfl ?_
  rw [hsrc, hdst, unlessStall_none, unlessStall_none, Drover.unlessLate_cons (Drover.readX_late_none hreg hz),
    Drover.unlessLate_of_ok (Drover.readX_late hz) hxy, hz]
  simp only [Res.ok_bind, hxy]
  rfl

end

theorem floatResults : FloatResults := by
  intro s dr d a b x y z p r
  refine ⟨fun h => ⟨?fadd, ?fsub, ?fmul, ?fdiv, ?fmin, ?fmax⟩, fun h => ?fsqrt, fun h => fpWrote_fma h p r⟩
  case fadd => exact fpWrote_fop2 (g := (fpFmt p).addBits .ieee (modeOf r.toNat)) h rfl rfl
  case fsub => exact fpWrote_fop2 (g := fun u v => (fpFmt p).addBits .ieee (modeOf r.toNat) u ((fpFmt p).negBits v)) h rfl rfl
  case fmul => exact fpWrote_fop2 (g := (fpFmt p).mulBits .ieee (modeOf r.toNat)) h rfl rfl
  case fdiv => exact fpWrote_fop2 (g := (fpFmt p).divBits .ieee (modeOf r.toNat)) h rfl rfl
  case fmin => exact fpWrote_fop2 (g := fun u v => ((fpFmt p).minBits u v, 0)) h rfl rfl
  case fmax => exact fpWrote_fop2 (g := fun u v => ((fpFmt p).maxBits u v, 0)) h rfl rfl
  case fsqrt => exact fpWrote_fop1 (g := (fpFmt p).sqrtBits .ieee (modeOf r.toNat)) h rfl rfl

/-- Settles O5: rounding goes up as each mode says (`roundTo_coarser`), and every operation completes with its rounded
result and flags (`fpWrote_fop2`, `fpWrote_fop1`, `fpWrote_fma`). -/
theorem floatArithmetic : Obligations.FloatArithmetic := ⟨roundingModes, floatResults⟩

end Sys2Proof.Claims
end


section
/-!
SUPPORT. The decoder and the encoder undo each other (R67 to R76): the words of an instruction decode to it, from a list of
words and from the bytes in memory; and what a word decodes to encodes to that word, a lemma for each family of R72.
-/

namespace Sys2Proof.Laws.RoundTrip

open Sys2Proof

-- as where the lemmas per constructor stand: one proof at a time
set_option Elab.async false

/-! ## From an instruction to its words and back -/

/-- The lemmas per constructor, in the order of the constructors. -/
theorem statement (i : Instr) : Statement i :=
  i.casesOn (motive := Statement)
    ill illegalInstruction add sub and or xor andn shl shr sar rol mul mulh mulhu div divu rem remu min max minu maxu
    clz ctz popc sextb sexth sextw bswap addi andi ori xori shli shri sari lui ceq cne clt cltu cle cleu cmpiEq cmpiLt
    cmpiLtu cmpiLe pand por pxor pandn pnot pset pget sel fadd fsub fmul fdiv fsqrt fmin fmax fma fcvtif fcvtfi fcvtff
    fceq fclt fcle fclass ld ldu st ldf ldfe stef stf sete prefR prefW dld dst br call jr jalr nop trap eret fence
    sleep brk iflush halt mfc mtc amoSwap amoAdd amoAnd amoOr amoXor amoMin amoMax amoMinu amoMaxu amoFadd amoCas
    redAdd redAnd redOr redXor redMin redMax redMinu redMaxu redFadd redFmin redFmax garrive gwait gbar gset ginfo
    gcoll galloc gfree qsel qlen qpeek sopen sclose sbar sstat slink copy cpflush cpstat pgload pgcast pgbind pgdrop
    pgstat wload wdrop wpoke gload gstart gstop gstat waita actdone spawn retire yield twatch tstat tkill xgate xtopk
    xbin xsend xrecv xbias xstat liw lih amocCas amocDecz amocAddge drainWrite forward hit sendRead orderPoint homeAmo
    homeRed homeContinuation homeFullEmpty complete junction remoteCacheFill remoteCacheEvict remoteCacheInvalidate
    translationWalk inboxMapWrite mailboxPush peerQueueTransfer invalidatePage invalidateExpedition invalidateAll
    invalidationPerformed groupArrival groupDeparture collectiveCombine offsetsRead gatherEntryRead porterRead
    porterWrite streamDrained copyMove copyComplete writePacketSend cellDataFiring cellMarkStep cellScaleStep
    cellDirectiveStep cellEmitNext outputMove veinHop route fork steer merge carry inv accUpdate waveOrderPerform
    bankPortAccess firingAdmit pagerClose pagerCloseTimeout pagerSave pagerLoad pagerOpen pageIdleExpiry
    pagerExclusionExpiry parseStep contextForward skip recoveryPop inject post command trapAction launchDelivery
    watchRegister yieldThreshold dispatch reserving aging spillRefill advertise migrationSend migrationReceive
    moduleAdvertise moduleMigration deadlockPreempt saveWalk gating saveCommit restore heldBankWriteout trapDelivery
    recordTake age waitlong eccError selfTest expeditionEnd flitSend dataFlitReceive nak idle nakTimeout replayTimeout
    lossOfLock retrainComplete packetForward readPacket writePacket readData atomicPacket atomicResult writeDone
    roundOpen gateMerge xsendRowSend xdeRow xdeResponse xsendFinish xdeFinish xbinWork xbiasBuild migrationPacket
    advertisementPacket fifoWrite pctlWrite launchStream feed functionLevelReset routingTableWrite devidWrite
    powlimWrite thermClear attreq hostRegisterWrite boot recoveryImage moduleReset governorWindow throttle trip
    bindingTransfer throttleRelease

/-- Instructions with an encoding have one word or two, and the words decode to them. -/
theorem decodeRaw_encode {i : Instr} (he : i.isEvent = false) (hw : ∀ w, i ≠ .illegalInstruction w) :
    (∃ w, encode i = [w] ∧ twoWords w = false ∧ decodeRaw w 0 = .ok i) ∨
      ∃ w w1, encode i = [w, w1] ∧ twoWords w = true ∧ decodeRaw w w1 = .ok i := by
  obtain hev | ⟨w, hill⟩ | hwords := statement i
  · rw [he] at hev; cases hev
  · exact absurd hill (hw w)
  · split at hwords
    case h_1 w hw => exact .inl ⟨w, hw, hwords⟩
    case h_2 w w1 hw => exact .inr ⟨w, w1, hw, hwords⟩
    case h_3 => exact hwords.elim

/-- The checks of R9, R70 and R73 stand between a word's fields and its instruction. -/
theorem decodePair_eq_ok {w w1 : BitVec 32} {i : Instr} :
    decodePair w w1 = .ok i ↔ decodeRaw w w1 = .ok i ∧ i.wellFormed = true := by
  unfold decodePair Instr.wellFormed
  cases decodeRaw w w1 with
  | error e => simp
  | ok j =>
    cases hj : j.check with
    | none => simp only [hj, Except.ok.injEq]; exact ⟨fun e => ⟨e, by rw [← e, hj]; rfl⟩, And.left⟩
    | some e =>
      simp only [hj, reduceCtorEq, Except.ok.injEq, false_iff, not_and]
      rintro rfl
      simp [hj]

/-! ## Bytes in memory's order (R67) -/

theorem wordOf_bytes (w : BitVec 32) :
    wordOf (BitVec.ofNat 8 w.toNat) (BitVec.ofNat 8 (w.toNat / 256)) (BitVec.ofNat 8 (w.toNat / 256 / 256))
      (BitVec.ofNat 8 (w.toNat / 256 / 256 / 256)) = w := by
  have := w.isLt
  apply BitVec.eq_of_toNat_eq
  simp only [wordOf, BitVec.toNat_ofNat]
  omega

open Sys2Proof.Claims Sys2Proof.Machine in
theorem decode_oneWord {w : BitVec 32} (h : twoWords w = false) (rest : List Byte) :
    decode (bytesOfWords [w] ++ rest) = (decodePair w 0).map fun i => (i, 4) := by
  simp only [bytesOfWords, leBytes, List.flatMap_cons, List.flatMap_nil, List.cons_append, List.nil_append, decode,
    wordOf_bytes, h, Bool.false_eq_true, if_false]

open Sys2Proof.Claims Sys2Proof.Machine in
theorem decode_twoWords {w : BitVec 32} (h : twoWords w = true) (w1 : BitVec 32) (rest : List Byte) :
    decode (bytesOfWords [w, w1] ++ rest) = (decodePair w w1).map fun i => (i, 8) := by
  simp only [bytesOfWords, leBytes, List.flatMap_cons, List.flatMap_nil, List.cons_append, List.nil_append, decode,
    wordOf_bytes, h, if_true]

/-! ## From a word to its instruction and back: the fields of a word are the word (R68) -/

theorem packA_fields {w : BitVec 32} {op : Nat} (h : (fld w 26 6).toNat = op) :
    packA op (fld w 21 5) (fld w 16 5) (fld w 11 5) (fld w 8 3) (fld w 6 2) (fld w 0 6).toNat = w := by
  have := w.isLt
  rw [fld_toNat] at h
  apply BitVec.eq_of_toNat_eq
  rw [packA_toNat _ _ _ _ _ _ _ (by omega) (fld w 0 6).isLt]
  simp only [fld_toNat]
  omega

theorem packI_fields {w : BitVec 32} {op : Nat} (h : (fld w 26 6).toNat = op) :
    packI op (fld w 21 5) (fld w 16 5) (fld w 0 16) = w := by
  have := w.isLt
  rw [fld_toNat] at h
  apply BitVec.eq_of_toNat_eq
  rw [packI_toNat _ _ _ _ (by omega)]
  simp only [fld_toNat]
  omega

theorem packM_fields {w : BitVec 32} {op : Nat} (h : (fld w 26 6).toNat = op) :
    packM op (fld w 21 5) (fld w 16 5) (fld w 14 2) (fld w 12 2) (fld w 0 12) = w := by
  have := w.isLt
  rw [fld_toNat] at h
  apply BitVec.eq_of_toNat_eq
  rw [packM_toNat _ _ _ _ _ _ (by omega)]
  simp only [fld_toNat]
  omega

theorem packB_fields {w : BitVec 32} {op : Nat} (h : (fld w 26 6).toNat = op) :
    packB op (fld w 25 1) (fld w 22 3) (fld w 0 22) = w := by
  have := w.isLt
  rw [fld_toNat] at h
  apply BitVec.eq_of_toNat_eq
  rw [packB_toNat _ _ _ _ (by omega)]
  simp only [fld_toNat]
  omega

theorem ofNat_ill_fields {w : BitVec 32} (h : (fld w 26 6).toNat = 0) : BitVec.ofNat 32 (fld w 0 26).toNat = w := by
  have := w.isLt
  rw [fld_toNat] at h
  apply BitVec.eq_of_toNat_eq
  rw [BitVec.toNat_ofNat, fld_toNat]
  omega

theorem packLaunch_fields (w : BitVec 32) : packLaunch (fld w 22 10) (fld w 0 22) = w := by
  have := w.isLt
  apply BitVec.eq_of_toNat_eq
  simp only [packLaunch, BitVec.toNat_ofNat, fld_toNat]
  omega

theorem packShift_fields {w : BitVec 32} {k : Nat} (h : fld w 9 7 = 0) (hk : (fld w 6 2).toNat = k) :
    packShift (fld w 8 1) k (fld w 0 6) = fld w 0 16 := by
  have h0 : (fld w 9 7).toNat = 0 := by rw [h]; rfl
  rw [fld_toNat] at h0 hk
  apply BitVec.eq_of_toNat_eq
  rw [packShift_toNat _ _ _ (by omega)]
  simp only [fld_toNat]
  omega

theorem packKind_fields {w : BitVec 32} {k : Nat} (hk : (fld w 24 2).toNat = k) : packKind k (fld w 21 3) = fld w 21 5 := by
  rw [fld_toNat] at hk
  apply BitVec.eq_of_toNat_eq
  rw [packKind_toNat _ _ (by omega)]
  simp only [fld_toNat]
  omega

/-- The number of a control register in an immediate whose other bits are zero (R125). -/
theorem setWidth_fld_ctl {w : BitVec 32} (h : fld w 9 7 = 0) : (fld w 0 9).setWidth 16 = fld w 0 16 := by
  have h0 : (fld w 9 7).toNat = 0 := by rw [h]; rfl
  rw [fld_toNat] at h0
  apply BitVec.eq_of_toNat_eq
  simp only [BitVec.toNat_setWidth, fld_toNat]
  omega

/-- A field whose high bits are zero, cut and widened again. -/
theorem setWidth_setWidth_of_lt {m n : Nat} {x : BitVec n} (h : x.toNat < 2 ^ m) : (x.setWidth m).setWidth n = x := by
  apply BitVec.eq_of_toNat_eq
  rw [BitVec.toNat_setWidth, BitVec.toNat_setWidth, Nat.mod_eq_of_lt h, Nat.mod_eq_of_lt x.isLt]

theorem join3_bitAt (s : BitVec 3) : join3 (bitAt s 2) (bitAt s 1) (bitAt s 0) = s := by revert s; decide

/-- The predicate number of SEL, split over two fields (R71). -/
theorem sel_join {s : BitVec 3} (o : BitVec 2) (h : s.toNat < 2) :
    BitVec.ofNat 3 ((BitVec.ofNat 3 (s.toNat * 4 + o.toNat)).toNat / 4) = s ∧
      BitVec.ofNat 2 ((BitVec.ofNat 3 (s.toNat * 4 + o.toNat)).toNat % 4) = o := by
  revert s o; decide

/-! ## From a word to its instruction and back: the families (R72) -/

/-- An instruction with an encoding, and its words. -/
def HasWords (i : Instr) (l : List (BitVec 32)) : Prop := i.isEvent = false ∧ encode i = l

/-- A decoder's row behind a check of fields answers only when the check passes. -/
theorem HasWords.of_check {c : Prop} [Decidable c] {e : Reject} {i j : Instr} {l : List (BitVec 32)}
    (h : (if c then .ok j else .error e) = Except.ok i) (hj : c → HasWords j l) : HasWords i l := by
  split at h
  case isTrue hc => cases h; exact hj hc
  case isFalse => cases h

section

variable {ix : Nat} {rd ra rb : BitVec 5} {s : BitVec 3} {o : BitVec 2} {i : Instr}

theorem hasWords_decodeAlu (h : decodeAlu ix rd ra rb s o = .ok i) : HasWords i [packA 1 rd ra rb s o ix] := by
  unfold decodeAlu at h
  split at h
  case h_29 => cases h
  all_goals exact .of_check h fun hc => ⟨rfl, by simp [encode, hc, setWidth_setWidth_of_lt]⟩

theorem hasWords_decodeCmp (h : decodeCmp ix rd ra rb s o = .ok i) : HasWords i [packA 8 rd ra rb s o ix] := by
  unfold decodeCmp at h
  split at h
  case h_7 => cases h
  all_goals exact .of_check h fun hc => ⟨rfl, by simp [encode, hc, setWidth_setWidth_of_lt]⟩

theorem hasWords_decodePred (h : decodePred ix rd ra rb s o = .ok i) : HasWords i [packA 10 rd ra rb s o ix] := by
  unfold decodePred at h
  split at h
  case h_8 =>
    refine .of_check h fun hc => ⟨rfl, ?_⟩
    obtain ⟨hs, ho⟩ := sel_join o hc
    rw [encode, hs, ho]
  case h_9 => cases h
  all_goals exact .of_check h fun hc => ⟨rfl, by simp [encode, hc, setWidth_setWidth_of_lt]⟩

theorem hasWords_decodeFpu (h : decodeFpu ix rd ra rb s o = .ok i) : HasWords i [packA 12 rd ra rb s o ix] := by
  unfold decodeFpu at h
  split at h
  case h_16 => cases h
  all_goals exact .of_check h fun hc => ⟨rfl, by simp [encode, hc, setWidth_setWidth_of_lt, join3_bitAt]⟩

theorem hasWords_decodeDesc (h : decodeDesc ix rd ra rb s o = .ok i) : HasWords i [packA 22 rd ra rb s o ix] := by
  unfold decodeDesc at h
  split at h
  case h_3 => cases h
  all_goals exact .of_check h fun hc => ⟨rfl, by simp [encode, hc, setWidth_setWidth_of_lt]⟩

theorem hasWords_decodeJump (h : decodeJump ix rd ra rb s o = .ok i) : HasWords i [packA 26 rd ra rb s o ix] := by
  unfold decodeJump at h
  split at h
  case h_3 => cases h
  all_goals exact .of_check h fun hc => ⟨rfl, by simp [encode, hc]⟩

theorem hasWords_decodeSys (h : decodeSys ix rd ra rb s o = .ok i) : HasWords i [packA 28 rd ra rb s o ix] := by
  unfold decodeSys at h
  split at h
  case h_9 => cases h
  all_goals exact .of_check h fun hc => ⟨rfl, by simp [encode, hc]⟩

theorem hasWords_decodeRed (h : decodeRed ix rd ra rb s o = .ok i) : HasWords i [packA 33 rd ra rb s o ix] := by
  unfold decodeRed at h
  split at h
  case h_12 => cases h
  all_goals exact .of_check h fun hc => ⟨rfl, by simp [encode, hc, setWidth_setWidth_of_lt]⟩

theorem hasWords_decodeSync (h : decodeSync ix rd ra rb s o = .ok i) : HasWords i [packA 35 rd ra rb s o ix] := by
  unfold decodeSync at h
  split at h
  case h_9 => cases h
  all_goals exact .of_check h fun hc => ⟨rfl, by simp [encode, hc]⟩

theorem hasWords_decodeQ (h : decodeQ ix rd ra rb s o = .ok i) : HasWords i [packA 36 rd ra rb s o ix] := by
  unfold decodeQ at h
  split at h
  case h_4 => cases h
  all_goals exact .of_check h fun hc => ⟨rfl, by simp [encode, hc, setWidth_setWidth_of_lt]⟩

theorem hasWords_decodeStrm (h : decodeStrm ix rd ra rb s o = .ok i) : HasWords i [packA 40 rd ra rb s o ix] := by
  unfold decodeStrm at h
  split at h
  case h_6 => cases h
  all_goals exact .of_check h fun hc => ⟨rfl, by simp [encode, hc, setWidth_setWidth_of_lt]⟩

theorem hasWords_decodeCopy (h : decodeCopy ix rd ra rb s o = .ok i) : HasWords i [packA 41 rd ra rb s o ix] := by
  unfold decodeCopy at h
  split at h
  case h_4 => cases h
  all_goals exact .of_check h fun hc => ⟨rfl, by simp [encode, hc]⟩

theorem hasWords_decodeWing (h : decodeWing ix rd ra rb s o = .ok i) : HasWords i [packA 42 rd ra rb s o ix] := by
  unfold decodeWing at h
  split at h
  case h_9 => cases h
  all_goals exact .of_check h fun hc => ⟨rfl, by simp [encode, hc, setWidth_setWidth_of_lt]⟩

theorem hasWords_decodeGram (h : decodeGram ix rd ra rb s o = .ok i) : HasWords i [packA 43 rd ra rb s o ix] := by
  unfold decodeGram at h
  split at h
  case h_7 => cases h
  all_goals exact .of_check h fun hc => ⟨rfl, by simp [encode, hc, setWidth_setWidth_of_lt]⟩

theorem hasWords_decodeTask (h : decodeTask ix rd ra rb s o = .ok i) : HasWords i [packA 44 rd ra rb s o ix] := by
  unfold decodeTask at h
  split at h
  case h_7 => cases h
  all_goals exact .of_check h fun hc => ⟨rfl, by simp [encode, hc]⟩

theorem hasWords_decodeXde (h : decodeXde ix rd ra rb s o = .ok i) : HasWords i [packA 45 rd ra rb s o ix] := by
  unfold decodeXde at h
  split at h
  case h_8 => cases h
  all_goals exact .of_check h fun hc => ⟨rfl, by simp [encode, hc]⟩

theorem hasWords_decodeAmo (h : decodeAmo ix rd ra rb s o = .ok i) : HasWords i [packA 32 rd ra rb s o ix] := by
  unfold decodeAmo at h
  split at h <;> cases h <;> exact ⟨rfl, rfl⟩

theorem hasWords_decodeExt {w1 : BitVec 32} (h : decodeExt rd ra rb s o ix w1 = .ok i) :
    HasWords i [packA 63 rd ra rb s o ix, w1] := by
  unfold decodeExt at h
  split at h
  case h_1 | h_2 => exact .of_check h fun hc => ⟨rfl, by simp [encode, hc]⟩
  case h_4 => exact .of_check h fun hc => ⟨rfl, by simp [encode, hc, packLaunch_fields]⟩
  case h_3 | h_5 => cases h; exact ⟨rfl, by simp [encode, packLaunch_fields]⟩
  case h_6 => cases h

theorem hasWords_decodeLdf {z : BitVec 2} {f : BitVec 12} (h : decodeLdf rd ra z o f = .ok i) :
    HasWords i [packM 19 rd ra z o f] := by
  unfold decodeLdf at h
  split at h
  case h_1 ho => obtain rfl : o = 0 := BitVec.eq_of_toNat_eq ho; cases h; exact ⟨rfl, rfl⟩
  case h_2 ho => obtain rfl : o = 1 := BitVec.eq_of_toNat_eq ho; cases h; exact ⟨rfl, rfl⟩
  case h_3 => cases h

theorem hasWords_decodeStf {z : BitVec 2} {f : BitVec 12} (h : decodeStf rd ra z o f = .ok i) :
    HasWords i [packM 20 rd ra z o f] := by
  unfold decodeStf at h
  split at h
  case h_1 ho => obtain rfl : o = 0 := BitVec.eq_of_toNat_eq ho; cases h; exact ⟨rfl, rfl⟩
  case h_2 ho => obtain rfl : o = 1 := BitVec.eq_of_toNat_eq ho; cases h; exact ⟨rfl, rfl⟩
  case h_3 ho =>
    obtain rfl : o = 2 := BitVec.eq_of_toNat_eq ho
    exact .of_check h fun hc => ⟨rfl, by rw [hc, encode]⟩
  case h_4 => cases h

theorem hasWords_decodePref {z : BitVec 2} {f : BitVec 12} (h : decodePref rd ra z o f = .ok i) :
    HasWords i [packM 21 rd ra z o f] := by
  unfold decodePref at h
  split at h
  case isTrue hc =>
    obtain ⟨rfl, rfl⟩ := hc
    split at h
    case h_1 hd => obtain rfl : rd = 0 := BitVec.eq_of_toNat_eq hd; cases h; exact ⟨rfl, rfl⟩
    case h_2 hd => obtain rfl : rd = 1 := BitVec.eq_of_toNat_eq hd; cases h; exact ⟨rfl, rfl⟩
    case h_3 => cases h
  case isFalse => cases h

end

section

variable {w w1 : BitVec 32} {i : Instr}

theorem hasWords_decodeShift (hop : (fld w 26 6).toNat = 6) (h : decodeShift (fld w 21 5) (fld w 16 5) w = .ok i) :
    HasWords i [w] := by
  unfold decodeShift at h
  split at h
  case isTrue hz =>
    split at h
    case h_1 hk | h_2 hk | h_3 hk => cases h; exact ⟨rfl, by rw [encode, packShift_fields hz hk, packI_fields hop]⟩
    case h_4 => cases h
  case isFalse => cases h

theorem hasWords_decodeCmpi (hop : (fld w 26 6).toNat = 9) (h : decodeCmpi (fld w 16 5) w = .ok i) : HasWords i [w] := by
  unfold decodeCmpi at h
  split at h
  case h_1 hk | h_2 hk | h_3 hk => cases h; exact ⟨rfl, by rw [encode, packKind_fields hk, packI_fields hop]⟩
  case h_4 h0 h1 h2 =>
    have hk : (fld w 24 2).toNat = 3 := by
      have hne : (fld w 24 2).toNat ≠ 0 ∧ (fld w 24 2).toNat ≠ 1 ∧ (fld w 24 2).toNat ≠ 2 := ⟨h0, h1, h2⟩
      have hlt := (fld w 24 2).isLt
      omega
    cases h; exact ⟨rfl, by rw [encode, packKind_fields hk, packI_fields hop]⟩

theorem HasWords.of_oneWord {op : Nat} (hop : (fld w 26 6).toNat = op) (hne : op ≠ 63) (h : HasWords i [w]) :
    HasWords i (if twoWords w then [w, w1] else [w]) := by
  rwa [if_neg (by simp [twoWords, hop, hne])]

theorem HasWords.ofA {op : Nat} (hop : (fld w 26 6).toNat = op) (hne : op ≠ 63)
    (h : HasWords i [packA op (fld w 21 5) (fld w 16 5) (fld w 11 5) (fld w 8 3) (fld w 6 2) (fld w 0 6).toNat]) :
    HasWords i (if twoWords w then [w, w1] else [w]) :=
  .of_oneWord hop hne (by rwa [packA_fields hop] at h)

theorem HasWords.ofM {op : Nat} (hop : (fld w 26 6).toNat = op) (hne : op ≠ 63)
    (h : HasWords i [packM op (fld w 21 5) (fld w 16 5) (fld w 14 2) (fld w 12 2) (fld w 0 12)]) :
    HasWords i (if twoWords w then [w, w1] else [w]) :=
  .of_oneWord hop hne (by rwa [packM_fields hop] at h)

/-- What a word, and for the X format the word after it, decodes to has those words (R67 to R76). -/
theorem hasWords_decodeRaw (h : decodeRaw w w1 = .ok i) : HasWords i (if twoWords w then [w, w1] else [w]) := by
  unfold decodeRaw at h
  split at h
  -- ILL, and the I and B formats
  case h_1 hop => cases h; exact .of_oneWord hop (by decide) ⟨rfl, by rw [encode, ofNat_ill_fields hop]⟩
  case h_2 hop | h_3 hop | h_4 hop | h_5 hop =>
    cases h; exact .of_oneWord hop (by decide) ⟨rfl, by rw [encode, packI_fields hop]⟩
  case h_6 hop => exact .of_oneWord hop (by decide) (hasWords_decodeShift hop h)
  case h_7 hop =>
    exact .of_oneWord hop (by decide) (.of_check h fun ha => ⟨rfl, by rw [encode, ← ha, packI_fields hop]⟩)
  case h_8 hop => exact .of_oneWord hop (by decide) (hasWords_decodeCmpi hop h)
  case h_15 hop | h_16 hop => cases h; exact .of_oneWord hop (by decide) ⟨rfl, by rw [encode, packB_fields hop]⟩
  case h_17 hop | h_18 hop =>
    exact .of_oneWord hop (by decide)
      (.of_check h fun ⟨hr, hz⟩ => ⟨rfl, by rw [encode, ← hr, setWidth_fld_ctl hz, packI_fields hop]⟩)
  -- the M format
  case h_9 hop | h_10 hop | h_11 hop => cases h; exact .ofM hop (by decide) ⟨rfl, rfl⟩
  case h_12 hop => exact .ofM hop (by decide) (hasWords_decodeLdf h)
  case h_13 hop => exact .ofM hop (by decide) (hasWords_decodeStf h)
  case h_14 hop => exact .ofM hop (by decide) (hasWords_decodePref h)
  -- the X format
  case h_19 hop =>
    have hx := hasWords_decodeExt h
    rw [packA_fields hop] at hx
    rwa [if_pos (by simp [twoWords, hop])]
  -- the A format
  case h_20 hop => exact .ofA hop (by decide) (hasWords_decodeAlu h)
  case h_21 hop => exact .ofA hop (by decide) (hasWords_decodeCmp h)
  case h_22 hop => exact .ofA hop (by decide) (hasWords_decodePred h)
  case h_23 hop => exact .ofA hop (by decide) (hasWords_decodeFpu h)
  case h_24 hop => exact .ofA hop (by decide) (hasWords_decodeDesc h)
  case h_25 hop => exact .ofA hop (by decide) (hasWords_decodeJump h)
  case h_26 hop => exact .ofA hop (by decide) (hasWords_decodeSys h)
  case h_27 hop => exact .ofA hop (by decide) (hasWords_decodeAmo h)
  case h_28 hop => exact .ofA hop (by decide) (hasWords_decodeRed h)
  case h_29 hop => exact .ofA hop (by decide) (hasWords_decodeSync h)
  case h_30 hop => exact .ofA hop (by decide) (hasWords_decodeQ h)
  case h_31 hop => exact .ofA hop (by decide) (hasWords_decodeStrm h)
  case h_32 hop => exact .ofA hop (by decide) (hasWords_decodeCopy h)
  case h_33 hop => exact .ofA hop (by decide) (hasWords_decodeWing h)
  case h_34 hop => exact .ofA hop (by decide) (hasWords_decodeGram h)
  case h_35 hop => exact .ofA hop (by decide) (hasWords_decodeTask h)
  case h_36 hop => exact .ofA hop (by decide) (hasWords_decodeXde h)
  -- no major opcode
  case h_37 => cases h

end

/-! ## Lists of words -/

section

variable {w w1 : BitVec 32} {l rest : List (BitVec 32)} {i : Instr}

theorem decodeWords_oneWord (h : twoWords w = false) (l : List (BitVec 32)) :
    decodeWords (w :: l) = (decodePair w 0).map fun i => (i, l) := by
  simp [decodeWords, h]

theorem decodeWords_twoWords (h : twoWords w = true) (w1 : BitVec 32) (l : List (BitVec 32)) :
    decodeWords (w :: w1 :: l) = (decodePair w w1).map fun i => (i, l) := by
  simp [decodeWords, h]

theorem map_eq_ok_iff {α β : Type} {x : Except Reject α} {f : α → β} {b : β} :
    x.map f = .ok b ↔ ∃ a, x = .ok a ∧ f a = b := by
  cases x <;> simp [Except.map]

theorem map_eq_error_iff {α β : Type} {x : Except Reject α} {f : α → β} {e : Reject} :
    x.map f = .error e ↔ x = .error e := by
  cases x <;> simp [Except.map]

/-- What a list of words decodes to is an instruction of its first word, or of its first two. -/
theorem decodeWords_eq_ok (h : decodeWords l = .ok (i, rest)) :
    (∃ w, l = w :: rest ∧ twoWords w = false ∧ decodePair w 0 = .ok i) ∨
      ∃ w w1, l = w :: w1 :: rest ∧ twoWords w = true ∧ decodePair w w1 = .ok i := by
  match l, h with
  | w :: l, h =>
    cases ht : twoWords w with
    | false =>
      rw [decodeWords_oneWord ht, map_eq_ok_iff] at h
      obtain ⟨j, hj, hr⟩ := h
      cases hr
      exact .inl ⟨w, rfl, ht, hj⟩
    | true =>
      match l, h with
      | [], h => simp [decodeWords, ht] at h
      | w1 :: l, h =>
        rw [decodeWords_twoWords ht, map_eq_ok_iff] at h
        obtain ⟨j, hj, hr⟩ := h
        cases hr
        exact .inr ⟨w, w1, rfl, ht, hj⟩

end

/-- Settles O53: the words of an instruction decode to it, constructor by constructor (`statement`), and a word's bytes in
memory's order are that word (`wordOf_bytes`). -/
theorem decodeEncode : Obligations.DecodeEncode := by
  intro i rest hwf he hill
  obtain ⟨w, hl, ht, hraw⟩ | ⟨w, w1, hl, ht, hraw⟩ := decodeRaw_encode he hill
  · rw [hl, decode_oneWord ht, decodePair_eq_ok.2 ⟨hraw, hwf⟩]; rfl
  · rw [hl, decode_twoWords ht, decodePair_eq_ok.2 ⟨hraw, hwf⟩]; rfl

/-- Settles O54: what a word decodes to has that word, family by family (`hasWords_decodeRaw`), and has passed the checks
(`decodePair_eq_ok`). -/
theorem encodeDecode : Obligations.EncodeDecode := by
  intro l rest i h
  obtain ⟨w, rfl, ht, hp⟩ | ⟨w, w1, rfl, ht, hp⟩ := decodeWords_eq_ok h
  all_goals
    obtain ⟨hraw, hwf⟩ := decodePair_eq_ok.1 hp
    obtain ⟨he, henc⟩ := hasWords_decodeRaw hraw
    rw [ht] at henc
    exact ⟨hwf, he, by rw [henc]; rfl⟩

/-- Settles O52: each word of the list evaluates. -/
theorem decodeWords : Obligations.DecodeWords := by
  unfold Obligations.DecodeWords
  decide +kernel

end Sys2Proof.Laws.RoundTrip
end

section
/-!
SUPPORT. How a step of an empty agenda finds its instruction: the word of a line in the instruction cache, the fetch of
one word or two, their decoding, and the first issue of a task (R67, R74, R124, R252, R280).
-/

namespace Sys2Proof.Machine

open Sys2Proof.Claims

/-! ## The word of a line (R67, R124) -/

theorem natOfBytes_append (l m : List Byte) : natOfBytes (l ++ m) = natOfBytes l + 2 ^ (8 * l.length) * natOfBytes m := by
  induction l with
  | nil => simp [natOfBytes]
  | cons b l ih => rw [List.cons_append, natOfBytes, ih, natOfBytes, List.length_cons, Nat.mul_succ, pow_add]; ring

theorem natOfBytes_lt (l : List Byte) : natOfBytes l < 2 ^ (8 * l.length) := by
  induction l with
  | nil => simp [natOfBytes]
  | cons b l ih => have := b.isLt; rw [natOfBytes, List.length_cons, Nat.mul_succ, pow_add]; omega

theorem Memory.length_readBytes (m : Memory) (a n : Nat) : (m.readBytes a n).length = n := by simp [Memory.readBytes]

theorem Memory.natOfBytes_readBytes_lt (m : Memory) (a : Nat) {n k : Nat} (h : 8 * n = k) :
    natOfBytes (m.readBytes a n) < 2 ^ k := by
  simpa only [m.length_readBytes, h] using natOfBytes_lt (m.readBytes a n)

theorem Memory.readBytes_add (m : Memory) (a j k : Nat) :
    m.readBytes a (j + k) = m.readBytes a j ++ m.readBytes (a + j) k := by
  simp [Memory.readBytes, List.range_add, Function.comp_def, Nat.add_assoc]

/-- A number within a number: four bytes at an offset of a line. -/
theorem Memory.natOfBytes_readBytes_within (m : Memory) (a : Nat) {j n : Nat} (h : j + 4 ≤ n) :
    natOfBytes (m.readBytes a n) / 2 ^ (8 * j) % 2 ^ 32 = natOfBytes (m.readBytes (a + j) 4) := by
  obtain ⟨r, rfl⟩ : ∃ r, n = j + (4 + r) := ⟨n - j - 4, by omega⟩
  rw [m.readBytes_add a, m.readBytes_add (a + j), natOfBytes_append, natOfBytes_append, m.length_readBytes,
    m.length_readBytes, Nat.add_mul_div_left _ _ (by positivity), Nat.div_eq_of_lt (m.natOfBytes_readBytes_lt _ rfl),
    Nat.zero_add, Nat.add_mul_mod_self_left, Nat.mod_eq_of_lt (m.natOfBytes_readBytes_lt _ rfl)]

theorem regionOf_eq_hbmI {pa : Nat} : regionOf pa = .hbmI ↔ pa < 0x8000000000 := by
  constructor
  · intro h
    by_contra hlt
    rw [regionOf, if_neg hlt] at h
    split_ifs at h
  · intro h
    rw [regionOf, if_pos h]

/-- A line stands in one frame, and so its bytes stand together in DRAM (R254). -/
theorem canon_line (pa : Nat) : canon (pa / 64 * 64) + pa % 64 = canon pa := by
  unfold canon
  by_cases h : pa < 0x8000000000
  · have hline : pa / 64 * 64 < 0x8000000000 := by omega
    have hframe : pa / 64 * 64 / 4096 = pa / 4096 := by omega
    rw [regionOf_eq_hbmI.2 h, regionOf_eq_hbmI.2 hline]
    dsimp only
    rw [hframe]
    omega
  · have hline : ¬ pa / 64 * 64 < 0x8000000000 := by omega
    split
    case h_1 heq => exact absurd (regionOf_eq_hbmI.1 heq) hline
    split
    case h_1 heq => exact absurd (regionOf_eq_hbmI.1 heq) h
    omega

theorem toNat_extractLsb'_ofNat {n v : Nat} (h : v < 2 ^ n) (lo len : Nat) :
    ((BitVec.ofNat n v).extractLsb' lo len).toNat = v / 2 ^ lo % 2 ^ len := by
  rw [BitVec.extractLsb'_toNat, BitVec.toNat_ofNat, Nat.mod_eq_of_lt h, Nat.shiftRight_eq_div_pow]

theorem wordInLine_line (h : Homes) {pa : Nat} (ha : pa % 4 = 0) :
    wordInLine (h.line pa) pa = BitVec.ofNat 32 (h.num pa 4) := by
  have hline : h.num (pa / 64 * 64) 64 < 2 ^ 512 := h.mem.natOfBytes_readBytes_lt _ rfl
  have hword : h.num pa 4 < 2 ^ 32 := h.mem.natOfBytes_readBytes_lt _ rfl
  apply BitVec.eq_of_toNat_eq
  rw [wordInLine, Homes.line, toNat_extractLsb'_ofNat hline, BitVec.toNat_ofNat, Nat.mod_eq_of_lt hword]
  rw [Homes.num, Homes.bytes, h.mem.natOfBytes_readBytes_within _ (by omega), canon_line]
  rfl

/-! ## Fetching (R67, R252, R256) -/

/-- A fetch from memory of this module, through a leaf that grants it, goes through the instruction cache. -/
theorem State.fetchWord_module {s : State} {d : Drover} {va : Word} {l : Leaf} (ha : va.toNat % 4 = 0)
    (ht : s.chip.translate s.focus d va.toNat = .leaf l) (hr : l.rmt = false) (hm : servesRemote (l.pa va.toNat) = true)
    (hg : l.grants d.steward .fetch = true) (hb : s.chip.homes.anyBad (l.pa va.toNat) 4 = false) :
    s.fetchWord d va = s.fetchThrough d l va.toNat := by
  unfold servesRemote at hm
  unfold State.fetchWord
  simp only [ha, ht, hr, hg, hb]
  split at hm
  case h_4 => cases hm
  all_goals rename_i hreg; simp [hreg]

/-- A line that the cache does not hold is filled from memory. -/
theorem State.fetchThrough_fill {s : State} {d : Drover} {l : Leaf} {va : Nat} (hr : l.rmt = false)
    (hi : look d.mem.icache (fetchKey l (l.pa va)) = none) :
    ∃ d', s.fetchThrough d l va = .got (wordInLine (s.chip.homes.line (l.pa va)) (l.pa va)) d' ∧ d'.regs = d.regs := by
  unfold State.fetchThrough
  simp [hi, hr]

section

variable {s : State} {d d1 d2 : Drover} {w w1 : BitVec 32}

/-- The instruction that words decode to, or ILLEGAL with the first of them (R74). -/
def decodedOr (w w1 : BitVec 32) : Instr :=
  match decodePair w w1 with
  | .ok i => i
  | .error _ => .illegalInstruction w

theorem decodedOr_ok {i : Instr} (h : decodePair w w1 = .ok i) : decodedOr w w1 = i := by simp [decodedOr, h]

theorem decodedOr_error {e : Reject} (h : decodePair w w1 = .error e) : decodedOr w w1 = .illegalInstruction w := by
  simp [decodedOr, h]

theorem State.fetchInstr_oneWord (hw : s.fetchWord d d.regs.pc = .got w d1) (ht : twoWords w = false) :
    s.fetchInstr d = .got (decodedOr w 0) d1 := by
  unfold State.fetchInstr decodedOr
  simp only [hw, ht]
  cases decodePair w 0 <;> rfl

theorem State.fetchInstr_twoWords (hw : s.fetchWord d d.regs.pc = .got w d1) (ht : twoWords w = true)
    (hw1 : s.fetchWord d1 (d1.regs.pc + 4) = .got w1 d2) : s.fetchInstr d = .got (decodedOr w w1) d2 := by
  unfold State.fetchInstr decodedOr
  simp only [hw, ht, hw1, if_true]
  cases decodePair w w1 <;> rfl

end

/-! ## An issue and a step -/

theorem step_event {s : State} {i : Instr} {rest : List Turn} (ha : s.agenda = .event i :: rest)
    (hs : s.chip.mgmt.stopped = false) (hi : i.isEvent = true) :
    step s = settled { s with agenda := rest } (exec i { s with agenda := rest }) := by
  simp [step, ha, hs, State.turn, hi]

theorem step_idle {s : State} (ha : s.agenda = []) (hs : s.chip.mgmt.stopped = false) : step s = s.idleTurn := by
  simp [step, ha, hs]

/-- A drover that may issue and has no asynchronous trap runs what it fetches. -/
theorem State.issue_got {s s1 : State} {d0 d d1 : Drover} {i : Instr} (hc : s.cur? = some d0)
    (hm : d0.mayIssue s.cycle = true) (h1 : s1 = s.onChip fun c => c.begun s.focus d0) (hc1 : s1.cur? = some d)
    (hq : d.async = []) (hf : s1.fetchInstr d = .got i d1) : s.issue = s1.runs d1 i := by
  subst h1
  unfold State.issue
  simp [hc, hm, hc1, hq, hf]

theorem step_issue {s : State} (ha : s.agenda = []) (hs : s.chip.mgmt.stopped = false) (hb : s.chip.mgmt.bootst ≠ 0) :
    step s = passed 1 (settled s s.issue) := by
  rw [step_idle ha hs, State.idleTurn, if_neg hb]

theorem State.runs_of_started {s : State} {d : Drover} {i : Instr} (h : s.chip.unstarted s.focus = false) :
    s.runs d i = exec i (withDrover s d) := if_neg (by rw [← Bool.not_eq_false, not_not]; exact h)

/-- The first instruction of a task after its dispatch runs once to see whether it issues (R280). -/
theorem State.runs_of_unstarted {s t : State} {d : Drover} {i : Instr} (h : s.chip.unstarted s.focus = true)
    (ht : exec i (withDrover s d) = .next t) :
    s.runs d i =
      if t.hasIssued d then exec i ((withDrover s d).onChip fun c => c.started s.focus) else .next t := by
  unfold withDrover at ht ⊢
  have hu : (s.onChip fun c => c.setDrover s.focus d).chip.unstarted s.focus = true := h
  simp only [State.runs, State.onChip_focus, hu, ht, if_true]

end Sys2Proof.Machine

namespace Sys2Proof.Claims

open Sys2Proof.Machine Sys2Proof.Laws.RoundTrip

/-- The fetch of a word of this module's memory that the instruction cache does not hold (R67, R124, R252). -/
theorem fetchWord_reads_memory {s : State} {d : Drover} {va : Word} {l : Leaf} (ha : va.toNat % 4 = 0)
    (ht : s.chip.translate s.focus d va.toNat = .leaf l) (hr : l.rmt = false) (hpa : l.pa va.toNat % 4 = 0)
    (hm : servesRemote (l.pa va.toNat) = true) (hg : l.grants d.steward .fetch = true)
    (hb : s.chip.homes.anyBad (l.pa va.toNat) 4 = false) (hi : look d.mem.icache (fetchKey l (l.pa va.toNat)) = none) :
    ∃ d', s.fetchWord d va = .got (BitVec.ofNat 32 (s.chip.homes.num (l.pa va.toNat) 4)) d' ∧ d'.regs = d.regs := by
  rw [State.fetchWord_module ha ht hr hm hg hb, ← wordInLine_line _ hpa]
  exact State.fetchThrough_fill hr hi

/-- R67, R74, R124, R252, R280. -/
theorem decodedStep : DecodedStep := by
  intro s
  refine ⟨?fetch, ?decoded, ?run, ?event, ?boot⟩
  case fetch =>
    rintro d va l _ ha ht hr rfl hpa hm hg hb hi
    exact fetchWord_reads_memory ha ht hr hpa hm hg hb hi
  case decoded =>
    intro s1 d0 d d1 w ha hs hb hc hm h1 hc1 hq hw
    have runs {i : Instr} {d' : Drover} (hf : s1.fetchInstr d = .got i d') :
        step s = passed 1 (settled s (s1.runs d' i)) := by
      rw [step_issue ha hs hb, State.issue_got hc hm h1 hc1 hq hf]
    refine ⟨fun i hi => ?one, fun w1 d2 ht hw1 => ⟨fun i hi => ?two, fun e he => ?illegalTwo⟩,
      fun e ht he => ?illegalOne⟩
    case one =>
      obtain ⟨w', hl, ht, hp⟩ | ⟨w', w1, hl, -⟩ := decodeWords_eq_ok hi <;> cases hl
      rw [runs (State.fetchInstr_oneWord hw ht), decodedOr_ok hp]
    case two =>
      obtain ⟨w', hl, -⟩ | ⟨w', w1', hl, -, hp⟩ := decodeWords_eq_ok hi <;> cases hl
      rw [runs (State.fetchInstr_twoWords hw ht hw1), decodedOr_ok hp]
    case illegalTwo =>
      rw [decodeWords_twoWords ht, map_eq_error_iff] at he
      rw [runs (State.fetchInstr_twoWords hw ht hw1), decodedOr_error he]
    case illegalOne =>
      rw [decodeWords_oneWord ht, map_eq_error_iff] at he
      rw [runs (State.fetchInstr_oneWord hw ht), decodedOr_error he]
  case run =>
    intro d i
    refine ⟨State.runs_of_started, fun t hu ht => ⟨fun hi => ?issued, fun hi => ?stalled⟩⟩
    case issued => rw [State.runs_of_unstarted hu ht, if_pos hi]
    case stalled => rw [State.runs_of_unstarted hu ht, if_neg (by simp [hi])]
  case event => exact fun i rest ha hs hi => step_event ha hs hi
  case boot =>
    intro ha hs hb
    rw [step_idle ha hs, State.idleTurn, if_pos hb]

/-- R366: `step` asks first whether the clocks stand; module reset builds a module whose clocks run. -/
theorem stoppedModule : StoppedModule := by
  intro s hs
  refine ⟨fun ha => ?idle, fun a rest ha hr => ?turn, fun rest ha => ?reset⟩
  case idle => simp [step, ha, hs]
  case turn => simp [step, ha, hs, hr]
  case reset =>
    simp only [step, ha, hs, Turn.isReset]
    exact ⟨_, rfl, rfl, rfl⟩

/-- Settles O58: a step of an empty agenda runs what its drover fetches (`State.issue_got`), the fetch reads the word that stands
in memory (`wordInLine_line`), and the fetched words decode as `decodeWords` says (`decodeWords_eq_ok`). -/
theorem stepRunsDecoded : Obligations.StepRunsDecoded := ⟨decodedStep, stoppedModule⟩

end Sys2Proof.Claims
end

section
/-!
SUPPORT. The system instructions (R121 to R124): what an instruction that traps leaves, and that this is what `Trapped`
asks; one that goes on with its drover as it was; the markers of a FENCE.
-/

namespace Sys2Proof.Machine

/-! ## Holds and traps -/

theorem State.issues_hold {s : State} {i : Instr} {n : Nat} {f : Drover → Res Drover} {d d' : Drover} {c : Chip}
    {b : Option Nat} (hc : s.cur? = some d) (h : f d = .hold c d' b) :
    s.issues i n f = .next ({ s with chip := c }.commit d (d'.stalled b s.cycle)) := by
  simp [State.issues, hc, h]

theorem State.drives_trap {s : State} {i : Instr} {f : Drover → Res (Chip × Drover)} {d d' : Drover} {t : TrapReq}
    (hc : s.cur? = some d) (h : f d = .trap t d') : s.drives i f = .next (s.takeTrap (withWords i t) d') := by
  simp [State.drives, hc, h]

/-- What a trap leaves of the drover that takes it, where the instruction has read sources (R105, R321). -/
structure Drover.Kept (d d' : Drover) : Prop where
  x : d'.regs.x = d.regs.x
  p : d'.regs.p = d.regs.p
  dregs : d'.regs.d = d.regs.d
  ctl : d'.ctl = d.ctl
  accs : d'.mem.accs.length = d.mem.accs.length

theorem Drover.Kept.rfl {d : Drover} : d.Kept d := ⟨.refl _, .refl _, .refl _, .refl _, .refl _⟩

theorem Drover.Kept.jump {d d' : Drover} (h : d.Kept d') (pc : Word) : d.Kept (d'.jump pc) :=
  ⟨h.x, h.p, h.dregs, h.ctl, h.accs⟩

theorem Drover.length_accs_acquire (d : Drover) (u : Nat) (k : SMap Nat) :
    (d.acquire u k).mem.accs.length = d.mem.accs.length := List.length_map ..

/-- Reading a source enters no access and completes none. -/
theorem Drover.readX_length_accs {d d' : Drover} {u : Nat} {r : BitVec 5} {v : Word} (h : d.readX u r = .ok (v, d')) :
    d'.mem.accs.length = d.mem.accs.length := by
  unfold Drover.readX at h
  split at h
  case isTrue =>
    split at h
    case h_1 => cases h
    case h_2 =>
      split at h <;> cases h
      case h_1 => rfl
      case h_2 => exact Drover.length_accs_acquire ..
  case isFalse =>
    split at h
    case isTrue =>
      split at h <;> cases h
      split
      · rfl
      · exact Drover.length_accs_acquire ..
    case isFalse =>
      split at h
      case isTrue => split at h <;> cases h; rfl
      case isFalse =>
        split at h
        case isTrue => split at h <;> cases h; exact Drover.length_accs_acquire ..
        case isFalse => cases h

theorem Drover.readX_kept {d d' : Drover} {u : Nat} {r : BitVec 5} {v : Word} (h : d.readX u r = .ok (v, d')) :
    d.Kept d' := by
  have hs := Drover.readX_sameBut h
  exact ⟨by rw [hs.regs], by rw [hs.regs], by rw [hs.regs], hs.ctl, Drover.readX_length_accs h⟩

/-! ## Illegal words (R74) -/

theorem exec_illegalInstruction_ready {s : State} {d : Drover} {w : BitVec 32} (hc : s.cur? = some d)
    (h : ∀ r, r ∈ wordRegisters w → d.isPending r = false) :
    exec (.illegalInstruction w) s =
      .next (s.takeTrap { d.trapAt 1 0 with aux0 := w.setWidth 64, aux1 := s.secondWord d w } d) := by
  have hfind : (wordRegisters w).find? (fun r => d.isPending r) = none := by simpa using h
  show execIllegalInstruction w s = _
  simp [execIllegalInstruction, hc, hfind]

theorem exec_illegalInstruction_pending {s : State} {d : Drover} {w : BitVec 32} {r : BitVec 5} (hc : s.cur? = some d)
    (hr : r ∈ wordRegisters w) (hp : d.isPending r = true) :
    ∃ b, exec (.illegalInstruction w) s = .next (s.onChip fun c => c.setDrover s.focus (d.stalled b s.cycle)) := by
  obtain ⟨q, hq⟩ : ∃ q, (wordRegisters w).find? (fun r => d.isPending r) = some q :=
    Option.isSome_iff_exists.1 (List.find?_isSome.2 ⟨r, hr, hp⟩)
  refine ⟨(look d.board.pend q.toNat).bind (d.blocksOn q.toNat), ?_⟩
  show execIllegalInstruction w s = _
  simp only [execIllegalInstruction, hc, hq]

/-! ## FENCE (R122) -/

theorem Drover.postFence_framed (d : Drover) (acq rel : Bool) (scope : Nat) : d.Framed (d.postFence acq rel scope) := by
  cases acq <;> cases rel <;> exact ⟨rfl, rfl, rfl, rfl, rfl⟩

theorem Drover.postFence_regs (d : Drover) (acq rel : Bool) (scope : Nat) : (d.postFence acq rel scope).regs = d.regs := by
  cases acq <;> cases rel <;> rfl

/-- A marker for the acquire, then one for the release. -/
theorem Drover.postFence_accs (d : Drover) (acq rel : Bool) (scope : Nat) :
    ∃ l : List Access, (d.postFence acq rel scope).mem.accs = d.mem.accs ++ l ∧
      (∀ a, a ∈ l → a.kind = .fence ∧ a.scope = scope) ∧
      (l.map fun a => (a.acq, a.rel)) = (if acq then [(true, false)] else []) ++ (if rel then [(false, true)] else []) := by
  cases acq <;> cases rel
  case false.false => exact ⟨[], (List.append_nil _).symm, by simp, rfl⟩
  case false.true => exact ⟨[_], rfl, by simp [Drover.postless], rfl⟩
  case true.false => exact ⟨[_], rfl, by simp [Drover.postless], rfl⟩
  case true.true => exact ⟨[_, _], List.append_assoc .., by simp [Drover.postless], rfl⟩

end Sys2Proof.Machine

namespace Sys2Proof.Claims

open Sys2Proof.Machine

section

variable {s : State} {dr d1 : Drover} {i j : Instr} {m : Nat} {q : TrapReq}

theorem trapped_of_takeTrap (h : exec i s = .next (s.takeTrap q d1)) (hk : dr.Kept d1) :
    Trapped s dr i q.cause q.pc q.val := by
  refine ⟨_, d1.takeTrap q, q, h, State.takeTrap_cur? .., rfl, rfl, rfl, rfl, hk.x, hk.p, hk.dregs, hk.ctl, hk.accs,
    State.takeTrap_homes .., fun u hu => ?_⟩
  rw [State.takeTrap_drover?, if_neg hu]

/-- An instruction that changes its drover alone, and traps. -/
theorem trapped_of_issues {f : Drover → Res Drover} (hc : s.cur? = some dr) (hi : exec i s = s.issues j m f)
    (hf : f dr = .trap q d1) (hk : dr.Kept d1) : Trapped s dr i q.cause q.pc q.val := by
  simpa only [withWords_cause, withWords_pc, withWords_val] using
    trapped_of_takeTrap (hi.trans (State.issues_trap hc hf)) hk

/-- An instruction that changes more of the chip, and traps. -/
theorem trapped_of_drives {f : Drover → Res (Chip × Drover)} (hc : s.cur? = some dr) (hi : exec i s = s.drives j f)
    (hf : f dr = .trap q d1) (hk : dr.Kept d1) : Trapped s dr i q.cause q.pc q.val := by
  simpa only [withWords_cause, withWords_pc, withWords_val] using
    trapped_of_takeTrap (hi.trans (State.drives_trap hc hf)) hk

/-- An instruction that answers its drover as it was goes on behind itself. -/
theorem jumped_of_ok {f : Drover → Res Drover} (hc : s.cur? = some dr) (hi : exec i s = s.drove j f)
    (hb : Instr.bytes j = 4) (hf : f dr = .ok dr) : Jumped s dr i (dr.regs.pc + 4) :=
  ⟨_, dr.retire _, hi.trans (State.issues_ok hc hf), State.commit_cur? .., State.commit_rest _ Drover.SameBut.rfl.framed,
    by rw [Drover.retire_pc, hb]; rfl, rfl, rfl, rfl⟩

end

/-- R72, R74, R121. -/
theorem systemTraps : SystemTraps := by
  intro s dr w j hc
  refine ⟨?ill, fun h => ?illegal, fun r hr hp => ?pending, ?brk, fun a x hread => ?trap, fun ht => ⟨?eret, ?halt⟩⟩
  case ill => exact trapped_of_issues (m := 4) (f := fun d => .trap (d.trapAt 1 0) d) hc rfl rfl .rfl
  case illegal => exact trapped_of_takeTrap (exec_illegalInstruction_ready hc h) .rfl
  case pending =>
    obtain ⟨b, hb⟩ := exec_illegalInstruction_pending hc hr hp
    exact waits_of_stalled hb
  case brk =>
    exact trapped_of_issues (m := 4) (f := fun d => .trap (d.trapAfter 0x12 0) (d.jump (d.regs.pc + 4))) hc rfl rfl
      (Drover.Kept.rfl.jump _)
  case trap =>
    obtain ⟨-, hsrc, d1, hx⟩ := hread
    refine trapped_of_issues (q := dr.trapAfter 0x13 x) hc rfl ?_ ((Drover.readX_kept hx).jump (dr.regs.pc + 4))
    rw [hsrc, hx]; rfl
  case eret => exact trapped_of_drives (q := dr.trapAt 0x14 0) hc rfl (by simp [ht]) .rfl
  case halt => exact trapped_of_drives (q := dr.trapAt 0x14 0) hc rfl (by simp [ht]) .rfl

/-- R122: the markers stand behind the drover's accesses, and nothing else that a program reads changes. -/
theorem fence_issues {s : State} {dr : Drover} (sc : BitVec 3) (o : BitVec 2) (hc : s.cur? = some dr)
    (hr : dr.readsHeld < 16) (hw : dr.writesHeld < 32) :
    exec (.fence sc o) s = .next (s.commit dr ((dr.postFence (o.getLsbD 0) (o.getLsbD 1) sc.toNat).retire 4)) :=
  State.issues_ok hc (if_neg (by omega))

/-- R121 to R124. -/
theorem systemResults : SystemResults := by
  intro s dr sc o hc
  refine ⟨?nop, fun hr hw => ?fence, fun hq => ?ends, fun hh hm ha hq => ?sleeps, fun hacc => ?iflush⟩
  case nop => exact jumped_of_ok hc rfl rfl rfl
  case fence =>
    obtain ⟨l, haccs, hkind, horders⟩ := dr.postFence_accs (o.getLsbD 0) (o.getLsbD 1) sc.toNat
    have hregs := dr.postFence_regs (o.getLsbD 0) (o.getLsbD 1) sc.toNat
    refine ⟨_, _, l, fence_issues sc o hc hr hw, State.commit_cur? .., State.commit_rest _ (Drover.postFence_framed ..),
      ?pc, ?x, haccs, hkind, horders⟩
    case pc => rw [Drover.retire_pc, hregs]; rfl
    case x => rw [Drover.retire_x, hregs]
  case ends =>
    refine jumped_of_ok hc rfl rfl ?_
    simp only [hq, if_true]
    split <;> rfl
  case sleeps =>
    refine ⟨_, _, State.issues_hold (c := s.chip) (d' := { dr with hold := .sleep }) (b := some 32) hc ?_,
      State.commit_cur? .., rfl, rfl⟩
    simp [hh, hm, ha, hq]
  case iflush =>
    refine ⟨_, _, State.issues_ok hc (if_neg (by simp [hacc])), State.commit_cur? .., State.commit_rest _ ?frame, ?pc, rfl,
      rfl⟩
    case frame => exact ⟨rfl, rfl, rfl, rfl, rfl⟩
    case pc => rw [Drover.retire_pc]; rfl

/-- Settles O11: a trap stands in a drover that has only read its sources (`trapped_of_takeTrap`), and what completes commits a
drover that keeps the frame (`State.commit_rest`). -/
theorem systemInstructions : Obligations.SystemInstructions := ⟨systemTraps, systemResults⟩

end Sys2Proof.Claims
end

section
/-!
SUPPORT. Engine commands (R158 to R160): a command that gives a status word, one that holds issue, one that traps, and the
block of memory that one reads; then the grammar instructions (R179 to R183).
-/

namespace Sys2Proof.Machine

open Sys2Proof.Claims

/-! ## Serais, porters and contexts -/

@[simp] theorem Chip.serai_onSerai (c : Chip) (n : Nat) (f : Serai → Serai) : (c.onSerai n f).serai n = f (c.serai n) := by
  simp [Chip.serai, Chip.onSerai, Chip.setSerai, lookD]

@[simp] theorem Serai.ctx_onCtx (v : Serai) (g : BitVec 2) (f : Context → Context) :
    (v.onCtx g.toNat f).ctx g.toNat = f (v.ctx g.toNat) := by
  simp [Serai.ctx, Serai.onCtx, g.isLt]

@[simp] theorem Serai.ctx_onPorter (v : Serai) (p g : Nat) (f : Porter → Porter) : (v.onPorter p f).ctx g = v.ctx g := rfl

@[simp] theorem Serai.porter_onPorter (v : Serai) (p : BitVec 3) (f : Porter → Porter) :
    (v.onPorter p.toNat f).porter p.toNat = f (v.porter p.toNat) := by
  simp [Serai.porter, Serai.onPorter, p.isLt]

/-! ## Commands -/

theorem State.commands_of_inSerai {s : State} {d : Drover} {n : Nat} (h : InSerai s d n) (i : Instr)
    (f : Nat → Drover → Res (Chip × Drover)) : s.commands i f = s.drives i (f n) := by
  obtain ⟨hc, hs, hn⟩ := h
  simp [State.commands, hc, hs, hn]

theorem State.drives_hold {s : State} {i : Instr} {f : Drover → Res (Chip × Drover)} {d d' : Drover} {c : Chip}
    {b : Option Nat} (hc : s.cur? = some d) (h : f d = .hold c d' b) :
    s.drives i f = .next ({ s with chip := c }.commit d (d'.stalled b s.cycle)) := by
  simp [State.drives, hc, h]

/-- A block that is read whole is handed on (R158). -/
theorem State.block_of_blockIs {α : Type} {s : State} {c c' : Chip} {d : Drover} {va : Word} {n align : Nat} {b : List Byte}
    (h : BlockIs s c c' d va n align b) (k : List Byte → Chip → Res α) : s.block c d va n align k = k b c' := by
  obtain ⟨ha, hw, c1, hr, rfl⟩ := h
  simp [State.block, ha, hw, hr]

theorem State.block_misaligned {α : Type} (s : State) (c : Chip) (d : Drover) {va : Word} {n align : Nat}
    (h : va.toNat % align ≠ 0) (k : List Byte → Chip → Res α) : s.block c d va n align k = .trap (d.trapAt 2 va) d := by
  simp [State.block, h]

theorem Drover.modeWord_of_ready {dr d1 : Drover} {u : Nat} {d : BitVec 5} {mode : Word} (hdst : dr.dstStall d = none)
    (hread : dr.readX u d = .ok (mode, d1)) (k : Word → Drover → Res (Chip × Drover)) : dr.modeWord u d k = k mode d1 := by
  rw [Drover.modeWord, hdst, hread]; rfl

/-! ## Contexts that start and stop (R180, R181) -/

/-- What GSTART leaves of the chip: the context parses with the start symbol on its stack, and holds the porter (R180, R227). -/
def Chip.parsing (c : Chip) (n : Nat) (g : BitVec 2) (p : BitVec 3) (img tab : List Byte) (mode : Word) : Chip :=
  c.onSerai n fun v => (v.onCtx g.toNat fun x => x.started img p.toNat tab (bitOf mode.toNat 0)).onPorter p.toNat fun q =>
    { q with claim := some (.context g.toNat) }

theorem Chip.ctx_parsing (c : Chip) (n : Nat) (g : BitVec 2) (p : BitVec 3) (img tab : List Byte) (mode : Word) :
    ((c.parsing n g p img tab mode).serai n).ctx g.toNat =
      ((c.serai n).ctx g.toNat).started img p.toNat tab (bitOf mode.toNat 0) := by
  simp [Chip.parsing]

theorem Chip.claim_parsing (c : Chip) (n : Nat) (g : BitVec 2) (p : BitVec 3) (img tab : List Byte) (mode : Word) :
    (((c.parsing n g p img tab mode).serai n).porter p.toNat).claim = some (.context g.toNat) := by
  simp [Chip.parsing]

theorem bitOf_toNat_zero (w : Word) : bitOf w.toNat 0 = w.getLsbD 0 := by
  simp only [bitOf, BitVec.getLsbD, Nat.testBit_zero, pow_zero, Nat.div_one]; rfl

/-- The porter is refused where it is taken, holds a token of another, or is open for writing (R180, log 68). -/
theorem porter_refused {free passed dir : Bool} {cond : Nat} :
    (!free || passed || (cond != 0 && dir)) = true ↔ free = false ∨ passed = true ∨ (cond ≠ 0 ∧ dir = true) := by
  simp [or_assoc]

theorem porter_taken {free passed dir : Bool} {cond : Nat} (hfree : free = true) (hpassed : passed = false)
    (hdir : cond = 0 ∨ dir = false) : ¬ (!free || passed || (cond != 0 && dir)) = true := by
  rw [porter_refused]
  rcases hdir with h | h <;> simp [hfree, hpassed, h]

/-- A table read from memory is refused for any malformed entry (R180). -/
theorem table_refused {tab : List Byte} (htab : tab ≠ []) :
    ((List.range 16).any fun k => !(tab == []) && commandBad (slice tab (16 * k) 16)) = true ↔
      ∃ k, k < 16 ∧ commandBad (slice tab (16 * k) 16) = true := by
  simp [htab]

/-- A context takes a grammar or a start in conditions 0 and 2 (R179, R180). -/
theorem parsing_refused {cond : Nat} (h : cond = 0 ∨ cond = 2) : ¬ (cond ≠ 0 ∧ cond ≠ 2) := by omega

theorem Serai.ctx_stopCtx (v : Serai) (g : BitVec 2) : ((v.stopCtx g.toNat).ctx g.toNat).cond = 2 ∧
    ((v.stopCtx g.toNat).ctx g.toNat).stack = [] ∧ ((v.stopCtx g.toNat).ctx g.toNat).porter = none := by
  rw [Serai.stopCtx, Serai.ctx_onCtx]
  refine ⟨rfl, rfl, ?_⟩
  show ((v.release g.toNat).ctx g.toNat).porter = none
  unfold Serai.release
  split
  case h_1 hp => exact hp
  case h_2 => rw [Serai.ctx_onCtx]

end Sys2Proof.Machine

namespace Sys2Proof.Claims

open Sys2Proof.Machine

section

variable {s : State} {dr d1 : Drover} {n : Nat} {d : BitVec 5} {v : Word} {c : Chip} {i j : Instr}
  {f : Nat → Drover → Res (Chip × Drover)}

/-- A command of four bytes that commits a drover with the registers and the control registers it had. -/
theorem goes_of_ok {d' : Drover} {P : State → Drover → Prop} (h : InSerai s dr n) (hi : exec i s = s.commands j f)
    (hb : Instr.bytes j = 4) (hf : f n dr = .ok (c, d')) (hpc : d'.regs.pc = dr.regs.pc) (hp : d'.regs.p = dr.regs.p)
    (hd : d'.regs.d = dr.regs.d) (hctl : d'.ctl = dr.ctl)
    (hP : ∀ t, t.chip.serais = c.serais → P t (d'.retire 4)) : Goes s dr i P := by
  have hcommit := hi.trans ((State.commands_of_inSerai h j f).trans (State.drives_ok h.1 hf))
  rw [hb] at hcommit
  refine ⟨_, _, hcommit, State.commit_cur? .., rfl, rfl, ?_, hp, hd, ?_, hP _ (State.commit_logged _ dr _).serais⟩
  · rw [Drover.retire_pc, hpc]; rfl
  · rw [← hctl]; rfl

/-- A command that writes a status word (R160). -/
theorem gives_of_status {P : State → Drover → Prop} (h : Cmd s dr n d) (hs : dr.SameBut d1) (hi : exec i s = s.commands j f)
    (hb : Instr.bytes j = 4) (hf : f n dr = Drover.status c d1 d v)
    (hP : ∀ t d', t.chip.serais = c.serais → P t d') : Gives s dr i d v P := by
  obtain ⟨hin, -, -⟩ := h
  refine goes_of_ok hin hi hb hf ?_ ?_ ?_ hs.ctl fun t ht => ⟨fun r _ => ?_, hP t _ ht⟩
  · exact (Regs.setX_pc ..).trans (by rw [hs.regs])
  · exact (Regs.setX_p ..).trans (by rw [hs.regs])
  · exact (Regs.setX_d ..).trans (by rw [hs.regs])
  · exact (Regs.getX_setX ..).trans (by rw [hs.regs])

/-- A command that holds issue has its effect on the chip, and its drover waits. -/
theorem holds_of_hold {d' : Drover} {b : Option Nat} (h : InSerai s dr n) (hi : exec i s = s.commands j f)
    (hf : f n dr = .hold c d' b) :
    ∃ t, exec i s = .next t ∧ t.cur? = some (d'.stalled b s.cycle) ∧ t.chip.serais = c.serais :=
  ⟨_, hi.trans ((State.commands_of_inSerai h j f).trans (State.drives_hold h.1 hf)), State.commit_cur? ..,
    (State.commit_logged _ dr _).serais⟩

/-- A command that traps. -/
theorem trapped_of_commands {q : TrapReq} (h : InSerai s dr n) (hi : exec i s = s.commands j f) (hf : f n dr = .trap q d1)
    (hk : dr.Kept d1) : Trapped s dr i q.cause q.pc q.val :=
  trapped_of_drives h.1 (hi.trans (State.commands_of_inSerai h j f)) hf hk

theorem serai_of_serais {t : State} (h : t.chip.serais = c.serais) (n : Nat) : t.chip.serai n = c.serai n := by
  rw [Chip.serai, h]; rfl

theorem status_eq (code detail : Nat) : statusWord code detail 0 = status code detail := by
  simp [statusWord, status]

end

/-! ## The grammar instructions -/

/-! ### GLOAD: alignment and condition before the block, the checks of the image after it (R179, R90) -/

section

variable {s : State} {dr d1 : Drover} {n : Nat} {d b : BitVec 5} {g : BitVec 2} {x : Word} {img : List Byte} {c : Chip}
  (h : Cmd s dr n d) (hx : Ready1d s dr d1 d b x)

include h hx

theorem gload_misaligned (ha : x.toNat % 64 ≠ 0) : Trapped s dr (.gload d g b) 2 dr.regs.pc x := by
  obtain ⟨-, hsrc, hdst, -, hread⟩ := hx
  refine trapped_of_commands (q := dr.trapAt 2 x) h.1 rfl ?_ .rfl
  simp [hsrc, hdst, hread, ha, State.block_misaligned]

theorem gload_badState (ha : x.toNat % 64 = 0) (h0 : ((s.chip.serai n).ctx g.toNat).cond ≠ 0)
    (h2 : ((s.chip.serai n).ctx g.toNat).cond ≠ 2) : Gives s dr (.gload d g b) d (status 1 0) any := by
  obtain ⟨-, hsrc, hdst, -, hread⟩ := hx
  refine gives_of_status (c := s.chip) h (Drover.readX_sameBut hread) rfl rfl ?_ fun _ _ _ => trivial
  simp only [hsrc, hdst, hread, unlessStall_none, Res.ok_bind, if_pos (And.intro ha (And.intro h0 h2)), failWord, status_eq]

variable (hcond : ((s.chip.serai n).ctx g.toNat).cond = 0 ∨ ((s.chip.serai n).ctx g.toNat).cond = 2)
  (hblk : BlockIs s s.chip c dr x grammarSize 64 img)

include hcond hblk

theorem gload_badImage {k l : Nat} (hchk : checkGrammar img = some (k, l)) :
    Gives s dr (.gload d g b) d (status k l) any := by
  obtain ⟨-, hsrc, hdst, -, hread⟩ := hx
  refine gives_of_status (c := c) h (Drover.readX_sameBut hread) rfl rfl ?_ fun _ _ _ => trivial
  simp only [hsrc, hdst, hread, unlessStall_none, Res.ok_bind, if_neg (not_and_of_not_right _ (parsing_refused hcond)),
    State.block_of_blockIs hblk, hchk, status_eq]

theorem gload_keeps (hchk : checkGrammar img = none) :
    Gives s dr (.gload d g b) d 0 fun t _ => ((t.chip.serai n).ctx g.toNat).grammar = some img := by
  obtain ⟨-, hsrc, hdst, -, hread⟩ := hx
  refine gives_of_status (c := c.onSerai n fun v => v.onCtx g.toNat fun x => { x with grammar := some img }) h
    (Drover.readX_sameBut hread) rfl rfl ?_ fun t _ ht => ?_
  · simp only [hsrc, hdst, hread, unlessStall_none, Res.ok_bind, if_neg (not_and_of_not_right _ (parsing_refused hcond)),
      State.block_of_blockIs hblk, hchk]
    rfl
  · rw [serai_of_serais ht, Chip.serai_onSerai, Serai.ctx_onCtx]

end

/-! ### GSTART: the refusals in order, then the table, then the start (R180) -/

section

variable {s : State} {dr d1 : Drover} {n : Nat} {d : BitVec 5} {g : BitVec 2} {p : BitVec 3} {mode : Word}
  {img tab : List Byte} {c : Chip} (h : Cmd s dr n d) (hread : dr.readX s.focus d = .ok (mode, d1))

include h hread

theorem gstart_badMode (hm : mode.toNat % 64 / 2 ≠ 0) : Gives s dr (.gstart d g p) d (status 20 0) any := by
  refine gives_of_status (c := s.chip) h (Drover.readX_sameBut hread) rfl rfl ?_ fun _ _ _ => trivial
  simp only [Drover.modeWord_of_ready h.2.1 hread, if_pos hm, failWord, status_eq]

variable (hm : ¬ mode.toNat % 64 / 2 ≠ 0)

include hm

theorem gstart_noGrammar (hg : ((s.chip.serai n).ctx g.toNat).grammar = none) :
    Gives s dr (.gstart d g p) d (status 27 0) any := by
  refine gives_of_status (c := s.chip) h (Drover.readX_sameBut hread) rfl rfl ?_ fun _ _ _ => trivial
  simp only [Drover.modeWord_of_ready h.2.1 hread, if_neg hm, hg, failWord, status_eq]

variable (hg : ((s.chip.serai n).ctx g.toNat).grammar = some img)

include hg

theorem gstart_badState (h0 : ((s.chip.serai n).ctx g.toNat).cond ≠ 0) (h2 : ((s.chip.serai n).ctx g.toNat).cond ≠ 2) :
    Gives s dr (.gstart d g p) d (status 1 0) any := by
  refine gives_of_status (c := s.chip) h (Drover.readX_sameBut hread) rfl rfl ?_ fun _ _ _ => trivial
  simp only [Drover.modeWord_of_ready h.2.1 hread, if_neg hm, hg, if_pos (And.intro h0 h2), failWord, status_eq]

variable (hcond : ((s.chip.serai n).ctx g.toNat).cond = 0 ∨ ((s.chip.serai n).ctx g.toNat).cond = 2)

include hcond

theorem gstart_badPorter (hbad : s.chip.porterFree s.focus p.toNat ((s.chip.serai n).porter p.toNat) = false ∨
    ((s.chip.serai n).porter p.toNat).passed = true ∨
      (((s.chip.serai n).porter p.toNat).cond ≠ 0 ∧ ((s.chip.serai n).porter p.toNat).dir = true)) :
    Gives s dr (.gstart d g p) d (status 22 0) any := by
  refine gives_of_status (c := s.chip) h (Drover.readX_sameBut hread) rfl rfl ?_ fun _ _ _ => trivial
  simp only [Drover.modeWord_of_ready h.2.1 hread, if_neg hm, hg, if_neg (parsing_refused hcond), if_pos (porter_refused.2 hbad),
    failWord, status_eq]

variable (hfree : s.chip.porterFree s.focus p.toNat ((s.chip.serai n).porter p.toNat) = true)
  (hpassed : ((s.chip.serai n).porter p.toNat).passed = false)
  (hdir : ((s.chip.serai n).porter p.toNat).cond = 0 ∨ ((s.chip.serai n).porter p.toNat).dir = false)

include hfree hpassed hdir

theorem gstart_noTable (ha : mode.toNat < 64) :
    Gives s dr (.gstart d g p) d 0 fun t _ => ∃ y, (t.chip.serai n).ctx g.toNat = y ∧ y.cond = 1 ∧
      y.stack = [.nonterm (byteAt img 7) none (byteAt img 7)] ∧ y.porter = some p.toNat ∧ y.terminals = 0 ∧
      y.holdeot = mode.getLsbD 0 ∧ ((t.chip.serai n).porter p.toNat).claim = some (.context g.toNat) := by
  have ha : mode.toNat / 64 * 64 = 0 := by omega
  have hempty : ¬ ((List.range 16).any fun k => !(([] : List Byte) == []) && commandBad (slice [] (16 * k) 16)) = true := by
    simp
  refine gives_of_status (c := s.chip.parsing n g p img [] mode) h (Drover.readX_sameBut hread) rfl rfl ?_ fun t _ ht => ?_
  · simp only [Drover.modeWord_of_ready h.2.1 hread, if_neg hm, hg, if_neg (parsing_refused hcond),
      if_neg (porter_taken hfree hpassed hdir), if_pos ha, if_neg hempty]
    rfl
  · rw [serai_of_serais ht]
    exact ⟨_, Chip.ctx_parsing .., rfl, rfl, rfl, rfl, bitOf_toNat_zero mode, Chip.claim_parsing ..⟩

variable (ha : 64 ≤ mode.toNat) (hblk : BlockIs s s.chip c dr (BitVec.ofNat 64 (mode.toNat / 64 * 64)) 256 64 tab)
  (htab : tab ≠ [])

include ha hblk htab

theorem gstart_badTable (hbad : ∃ k, k < 16 ∧ commandBad (slice tab (16 * k) 16) = true) :
    Gives s dr (.gstart d g p) d (status 21 0) any := by
  have ha : ¬ mode.toNat / 64 * 64 = 0 := by omega
  refine gives_of_status (c := c) h (Drover.readX_sameBut hread) rfl rfl ?_ fun _ _ _ => trivial
  simp only [Drover.modeWord_of_ready h.2.1 hread, if_neg hm, hg, if_neg (parsing_refused hcond),
    if_neg (porter_taken hfree hpassed hdir), if_neg ha, State.block_of_blockIs hblk, if_pos ((table_refused htab).2 hbad),
    failWord, status_eq]

theorem gstart_table (hok : ∀ k, k < 16 → commandBad (slice tab (16 * k) 16) = false) :
    Gives s dr (.gstart d g p) d 0 fun t _ =>
      ((t.chip.serai n).ctx g.toNat).cond = 1 ∧ ((t.chip.serai n).ctx g.toNat).ctab = tab := by
  have ha : ¬ mode.toNat / 64 * 64 = 0 := by omega
  have hgood : ¬ ∃ k, k < 16 ∧ commandBad (slice tab (16 * k) 16) = true := by
    rintro ⟨k, hk, hbad⟩
    rw [hok k hk] at hbad
    cases hbad
  refine gives_of_status (c := c.parsing n g p img tab mode) h (Drover.readX_sameBut hread) rfl rfl ?_ fun t _ ht => ?_
  · simp only [Drover.modeWord_of_ready h.2.1 hread, if_neg hm, hg, if_neg (parsing_refused hcond),
      if_neg (porter_taken hfree hpassed hdir), if_neg ha, State.block_of_blockIs hblk,
      if_neg (mt (table_refused htab).1 hgood)]
    rfl
  · rw [serai_of_serais ht, Chip.ctx_parsing]
    exact ⟨rfl, rfl⟩

end

theorem grammarStarts : GrammarStarts := by
  rintro s dr d1 n d b g p x mode _ _ img tab c h rfl rfl
  refine ⟨fun hx => ⟨gload_misaligned h hx, gload_badState h hx, fun hcond hblk =>
      ⟨fun _ _ => gload_badImage h hx hcond hblk, gload_keeps h hx hcond hblk⟩⟩,
    fun hread => ⟨gstart_badMode h hread, fun hm => ?start⟩⟩
  case start =>
    have hm := not_not.2 hm
    exact ⟨gstart_noGrammar h hread hm, fun hg => ⟨gstart_badState h hread hm hg, fun hcond =>
      ⟨gstart_badPorter h hread hm hg hcond, fun hfree hpassed hdir =>
        ⟨gstart_noTable h hread hm hg hcond hfree hpassed hdir, fun ha hblk htab =>
          ⟨gstart_badTable h hread hm hg hcond hfree hpassed hdir ha hblk htab,
            gstart_table h hread hm hg hcond hfree hpassed hdir ha hblk htab⟩⟩⟩⟩⟩

/-! ### GSTOP, GSTAT, WAITA, ACTDONE (R181 to R183) -/

section

variable {s : State} {dr : Drover} {n : Nat} {d : BitVec 5} {g : BitVec 2} (h : Cmd s dr n d)

include h

/-- GSTOP waits for the actions that a context has begun. -/
theorem gstop_waits (h1 : ((s.chip.serai n).ctx g.toNat).cond = 1) (ha : ((s.chip.serai n).ctx g.toNat).afifo ≠ []) :
    ∃ t d', exec (.gstop d g) s = .next t ∧ t.cur? = some d' ∧ d'.regs = dr.regs ∧
      ((t.chip.serai n).ctx g.toNat).stopping = true := by
  obtain ⟨t, ht, hcur, hser⟩ := holds_of_hold (i := .gstop d g) (d' := dr) (b := some 32)
    (c := s.chip.onSerai n fun v => v.onCtx g.toNat fun x => { x with stopping := true }) h.1 rfl (by
      simp only [h.2.1, unlessStall_none, if_pos (And.intro h1 ha)])
  exact ⟨t, _, ht, hcur, rfl, by rw [serai_of_serais hser, Chip.serai_onSerai, Serai.ctx_onCtx]⟩

theorem gstop_stops (hc : ((s.chip.serai n).ctx g.toNat).cond = 3 ∨
    (((s.chip.serai n).ctx g.toNat).cond = 1 ∧ ((s.chip.serai n).ctx g.toNat).afifo = [])) :
    Gives s dr (.gstop d g) d 0 fun t _ => ((t.chip.serai n).ctx g.toNat).cond = 2 ∧
      ((t.chip.serai n).ctx g.toNat).stack = [] ∧ ((t.chip.serai n).ctx g.toNat).porter = none := by
  have hdone : ¬ (((s.chip.serai n).ctx g.toNat).cond = 1 ∧ ((s.chip.serai n).ctx g.toNat).afifo ≠ []) := by
    rcases hc with h3 | ⟨-, ha⟩
    · omega
    · exact fun k => k.2 ha
  have hmay : ((s.chip.serai n).ctx g.toNat).cond = 1 ∨ ((s.chip.serai n).ctx g.toNat).cond = 3 := by omega
  refine gives_of_status (c := s.chip.onSerai n fun v => v.stopCtx g.toNat) h .rfl rfl rfl ?_ fun t _ ht => ?_
  · simp only [h.2.1, unlessStall_none, if_neg hdone, if_pos hmay]; rfl
  · rw [serai_of_serais ht, Chip.serai_onSerai]
    exact Serai.ctx_stopCtx _ g

theorem gstop_badState (h1 : ((s.chip.serai n).ctx g.toNat).cond ≠ 1) (h3 : ((s.chip.serai n).ctx g.toNat).cond ≠ 3) :
    Gives s dr (.gstop d g) d (status 1 0) any := by
  refine gives_of_status (c := s.chip) h .rfl rfl rfl ?_ fun _ _ _ => trivial
  simp only [h.2.1, unlessStall_none, if_neg (not_and_of_not_left _ h1), if_neg (not_or.2 ⟨h1, h3⟩), failWord, status_eq]

theorem gstat_gives : Gives s dr (.gstat d g) d ((s.chip.serai n).ctxWord g.toNat) fun t _ => t.chip.serais = s.chip.serais :=
  gives_of_status (c := s.chip) h .rfl rfl rfl (by rw [h.2.1]; rfl) fun _ _ ht => ht

theorem waita_badState (hh : dr.hold = .idle) (h1 : ((s.chip.serai n).ctx g.toNat).cond ≠ 1) :
    Gives s dr (.waita d g) d (status 1 ((s.chip.serai n).ctx g.toNat).cond) any := by
  have hnew : dr.hold ≠ .waiting := by rw [hh]; decide
  refine gives_of_status (c := s.chip) h .rfl rfl rfl ?_ fun _ _ _ => trivial
  simp only [h.2.1, unlessStall_none, if_pos (And.intro hnew h1), status_eq]

theorem waita_holds (h1 : ((s.chip.serai n).ctx g.toNat).cond = 1) :
    ∃ t d', exec (.waita d g) s = .next t ∧ t.cur? = some d' ∧ d'.hold = .waiting ∧ d'.regs = dr.regs := by
  have hparses : ¬ ((s.chip.serai n).ctx g.toNat).cond ≠ 1 := not_not.2 h1
  obtain ⟨t, ht, hcur, -⟩ := holds_of_hold (i := .waita d g) (c := s.chip) (d' := { dr with hold := .waiting })
    (b := some 32) h.1 rfl (by
      simp only [h.2.1, unlessStall_none, if_neg (not_and_of_not_right _ hparses), if_neg (not_and_of_not_left _ hparses)])
  exact ⟨t, _, ht, hcur, rfl, rfl⟩

theorem waita_gives (hh : dr.hold = .waiting) (h1 : ((s.chip.serai n).ctx g.toNat).cond ≠ 1)
    (ha : ((s.chip.serai n).ctx g.toNat).afifo = []) (hl : (s.chip.serai n).liveCmds g.toNat = 0) :
    Gives s dr (.waita d g) d ((s.chip.serai n).ctxWord g.toNat) any := by
  refine gives_of_status (c := s.chip) h .rfl rfl rfl ?_ fun _ _ _ => trivial
  simp only [h.2.1, unlessStall_none, if_neg (not_and_of_not_left _ (not_not.2 hh)), if_pos (And.intro h1 (And.intro ha hl))]

theorem actdone_goes : Goes s dr (.actdone g) fun t d' => d'.regs.x = dr.regs.x ∧
    ((t.chip.serai n).ctx g.toNat).eotheld = false ∧
    d'.queues.act = dr.queues.act.filter fun e => e.val.toNat / 2 ^ 62 != g.toNat := by
  refine goes_of_ok h.1 rfl rfl rfl rfl rfl rfl rfl fun t ht => ⟨rfl, ?_, rfl⟩
  rw [serai_of_serais ht, Chip.serai_onSerai, Serai.ctx_onCtx]
  split
  case isTrue => rfl
  case isFalse he => simpa using he

end

theorem grammarStatus : GrammarStatus := by
  rintro s dr n d g _ _ h rfl rfl
  exact ⟨gstop_waits h, gstop_stops h, gstop_badState h, gstat_gives h, waita_badState h, waita_holds h, waita_gives h,
    actdone_goes h⟩

/-- Settles O21: each clause is the command's one way through its refusals (`gload_keeps`, `gstart_table`, `gstop_stops` and
those beside them), and what a command that gives a status word leaves is said once (`gives_of_status`). -/
theorem grammars : Obligations.Grammars := ⟨grammarStarts, grammarStatus⟩

end Sys2Proof.Claims
end

section
/-!
SUPPORT. Immediate operations (R107, R108, R76), comparisons and the PRED family (R109, R110): the operand forms that write
a predicate or have no source, and the values of comparisons at the width that W selects.
-/

namespace Sys2Proof.Machine

/-! ## Values of the immediate operations -/

theorem signExtend_shiftLeft_16 (m : BitVec 16) : m.signExtend 64 <<< 16 = m.signExtend 64 * 65536 :=
  BitVec.shiftLeft_eq_mul_twoPow ..

/-- The two halves of a word share no bit, so that joining them is adding them (R76). -/
theorem high_or_low (j l : BitVec 32) :
    j.setWidth 64 <<< 32 ||| l.setWidth 64 = (j.setWidth 64 * 2 ^ 32 + l.setWidth 64 : Word) := by
  have hdisjoint : j.setWidth 64 <<< 32 &&& l.setWidth 64 = (0 : Word) := by
    ext k hk
    simp only [BitVec.getElem_and, BitVec.getElem_shiftLeft, BitVec.getElem_setWidth]
    by_cases h : k < 32 <;> simp [h, BitVec.getLsbD_of_ge, Nat.le_of_not_lt]
  rw [← BitVec.add_eq_or_of_and_eq_zero _ _ hdisjoint, BitVec.shiftLeft_eq_mul_twoPow]
  rfl

/-! ## Comparisons at a width (R109) -/

section

variable (w : BitVec 1) (x y : Word)

theorem cmpU_beq : (cmpU w x == cmpU w y) = if w = 1 then Claims.lo x == Claims.lo y else x == y := by
  unfold cmpU Claims.lo
  split
  case isTrue =>
    rw [Bool.eq_iff_iff, beq_iff_eq, beq_iff_eq, ← BitVec.toNat_inj, BitVec.toNat_setWidth_of_le (by decide : 32 ≤ 64),
      BitVec.toNat_setWidth_of_le (by decide : 32 ≤ 64), BitVec.toNat_inj]
  case isFalse => rfl

theorem cmpU_bne : (cmpU w x != cmpU w y) = if w = 1 then Claims.lo x != Claims.lo y else x != y := by
  rw [bne, cmpU_beq]; split <;> rfl

theorem cmpU_ult : (cmpU w x).ult (cmpU w y) = if w = 1 then (Claims.lo x).ult (Claims.lo y) else x.ult y := by
  unfold cmpU Claims.lo
  split
  case isTrue => simp only [BitVec.ult, BitVec.toNat_setWidth_of_le (by decide : 32 ≤ 64)]
  case isFalse => rfl

theorem cmpU_ule : (cmpU w x).ule (cmpU w y) = if w = 1 then (Claims.lo x).ule (Claims.lo y) else x.ule y := by
  unfold cmpU Claims.lo
  split
  case isTrue => simp only [BitVec.ule, BitVec.toNat_setWidth_of_le (by decide : 32 ≤ 64)]
  case isFalse => rfl

theorem cmpS_slt : (cmpS w x).slt (cmpS w y) = if w = 1 then (Claims.lo x).slt (Claims.lo y) else x.slt y := by
  unfold cmpS Claims.lo
  split
  case isTrue => simp only [BitVec.slt, BitVec.toInt_signExtend_of_le (by decide : 32 ≤ 64)]
  case isFalse => rfl

theorem cmpS_sle : (cmpS w x).sle (cmpS w y) = if w = 1 then (Claims.lo x).sle (Claims.lo y) else x.sle y := by
  unfold cmpS Claims.lo
  split
  case isTrue => simp only [BitVec.sle, BitVec.toInt_signExtend_of_le (by decide : 32 ≤ 64)]
  case isFalse => rfl

end

/-! ## A source that is pending -/

/-- A pending register among the sources stalls (R17). -/
theorem Drover.srcStall_of_pending {d : Drover} {r : BitVec 5} {l : List (BitVec 5)} (hr : r ∈ l)
    (hp : d.isPending r = true) : d.srcStall l ≠ none := by
  obtain ⟨q, hq⟩ : ∃ q, l.find? (fun r => d.isPending r) = some q :=
    Option.isSome_iff_exists.1 (List.find?_isSome.2 ⟨r, hr, hp⟩)
  simp [Drover.srcStall, hq]

end Sys2Proof.Machine

namespace Sys2Proof.Claims

open Sys2Proof.Machine

section

variable {s : State} {dr d1 : Drover} {i : Instr} {n : Nat} {d a b : BitVec 5} {k : BitVec 3} {x y v : Word} {t : Bool}

/-! ## One rule for each operand form -/

theorem wrote_op0 {f : Drover → Word} (h : Ready0 s dr d) (hi : exec i s = s.op0 i d f) (hn : Instr.bytes i = n)
    (hv : f dr = v) : Wrote s dr i d v 0 n := by
  obtain ⟨hc, hd⟩ := h
  refine wrote_of_result (fl := 0) hc hd .rfl hi hn ?_
  rw [hd.1, Drover.orFlags_zero, unlessStall_none, hv]

/-- An instruction whose answer is its drover with a predicate written completes (R105). -/
theorem decided_of_ok {f : Drover → Res Drover} (hc : s.cur? = some dr) (hs : dr.SameBut d1)
    (hi : exec i s = s.drove i f) (hn : Instr.bytes i = 4) (hf : f dr = .ok { d1 with regs := d1.regs.setP k t }) :
    Decided s dr i k t := by
  have hframe : dr.Framed { d1 with regs := d1.regs.setP k t } :=
    ⟨hs.framed.ctl, (Regs.setP_d ..).trans hs.framed.dregs, hs.stew, hs.steward, hs.tlb⟩
  refine ⟨_, _, hi.trans (State.issues_ok hc hf), State.commit_cur? .., State.commit_rest _ hframe, ?pc, ?x,
    congrArg (·.fflags) hs.ctl, fun r => ?preds⟩
  case pc => rw [Drover.retire_pc, Regs.setP_pc, hs.regs, hn]; rfl
  case x => rw [Drover.retire_x, Regs.setP_x, hs.regs]
  case preds => exact (Regs.getP_setP ..).trans (by rw [hs.regs])

theorem decided_cmp2 {f : Word → Word → Bool} (h : Reads2 s dr a b x y) (hi : exec i s = s.cmp2 i k a b f)
    (hn : Instr.bytes i = 4) (hv : f x y = t) : Decided s dr i k t := by
  obtain ⟨hc, hsrc, d1, hread⟩ := h
  refine decided_of_ok hc (Drover.read2_sameBut hread) hi hn ?_
  rw [hsrc, hread, ← hv]; rfl

theorem decided_cmp1 {f : Word → Bool} (h : Reads1 s dr a x) (hi : exec i s = s.cmp1 i k a f)
    (hn : Instr.bytes i = 4) (hv : f x = t) : Decided s dr i k t := by
  obtain ⟨hc, hsrc, d1, hread⟩ := h
  refine decided_of_ok hc (Drover.readX_sameBut hread) hi hn ?_
  rw [hsrc, hread, ← hv]; rfl

theorem decided_pred {f : Regs → Bool} (hc : s.cur? = some dr) (hi : exec i s = s.pred i k f)
    (hn : Instr.bytes i = 4) (hv : f dr.regs = t) : Decided s dr i k t :=
  decided_of_ok hc .rfl hi hn (by rw [hv])

/-- LIH reads its destination, and its two words are eight bytes (R76, R108). -/
theorem wrote_lih (h : Ready1 s dr d d x) (j : BitVec 32) :
    Wrote s dr (.lih d j) d (j.setWidth 64 * 2 ^ 32 + (lo x).setWidth 64) 0 8 := by
  obtain ⟨⟨hc, hd⟩, hsrc, d1, hread⟩ := h
  refine wrote_of_result (fl := 0) hc hd (Drover.readX_sameBut hread) rfl rfl ?_
  rw [hsrc, hd.1, hread, Drover.orFlags_zero, ← high_or_low]
  rfl

/-- SEL reads both sources, and the predicate where they are read (R110). -/
theorem wrote_sel (h : Ready2 s dr d a b x y) (k : BitVec 3) :
    Wrote s dr (.sel d a b k) d (if dr.regs.getP k then x else y) 0 4 := by
  obtain ⟨⟨hc, hd⟩, hsrc, d1, hread⟩ := h
  have hs := Drover.read2_sameBut hread
  refine wrote_of_result (fl := 0) hc hd hs rfl rfl ?_
  rw [hsrc, hd.1, hread, Drover.orFlags_zero, ← hs.regs]
  rfl

end

/-! ## The statements -/

/-- Settles O2: each immediate operation is an operation on one source or on none (`wrote_op1`, `wrote_op0`), and LIH joins
its halves (`wrote_lih`). -/
theorem immediateResults : Obligations.ImmediateResults := by
  intro s dr d a x
  refine ⟨fun h m w n => ?oneSource, fun h m j => ?noSource, fun h _ j => wrote_lih h j⟩
  case oneSource =>
    have hn : n.toNat % 64 = n.toNat := Nat.mod_eq_of_lt n.isLt
    refine ⟨?addi, ?andi, ?ori, ?xori, ?shli, ?shri, ?sari⟩
    case addi => exact wrote_op1 (f := fun x => x + m.signExtend 64) h rfl rfl rfl
    case andi => exact wrote_op1 (f := fun x => x &&& m.setWidth 64) h rfl rfl rfl
    case ori => exact wrote_op1 (f := fun x => x ||| m.setWidth 64) h rfl rfl rfl
    case xori => exact wrote_op1 (f := fun x => x ^^^ m.setWidth 64) h rfl rfl rfl
    case shli => exact wrote_op1_width (g := fun k x => x <<< (n.toNat % k)) h rfl rfl rfl (by rw [hn])
    case shri => exact wrote_op1_width (g := fun k x => x >>> (n.toNat % k)) h rfl rfl rfl (by rw [hn])
    case sari => exact wrote_op1_width (g := fun k x => x.sshiftRight (n.toNat % k)) h rfl rfl rfl (by rw [hn])
  case noSource =>
    exact ⟨wrote_op0 (f := fun _ => m.signExtend 64 <<< 16) h rfl rfl (signExtend_shiftLeft_16 m),
      wrote_op0 (f := fun _ => j.signExtend 64) h rfl rfl rfl⟩

/-- Settles O3: comparing the extended low halves is comparing the low halves (`cmpU_beq`, `cmpS_slt` and their fellows). -/
theorem compareResults : Obligations.CompareResults := by
  intro s dr k a b x y
  refine ⟨fun h w => ?twoSources, fun h m => ?immediate⟩
  case twoSources =>
    refine ⟨?ceq, ?cne, ?clt, ?cltu, ?cle, ?cleu⟩
    case ceq => exact decided_cmp2 (f := fun x y => cmpU w x == cmpU w y) h rfl rfl (cmpU_beq w x y)
    case cne => exact decided_cmp2 (f := fun x y => cmpU w x != cmpU w y) h rfl rfl (cmpU_bne w x y)
    case clt => exact decided_cmp2 (f := fun x y => (cmpS w x).slt (cmpS w y)) h rfl rfl (cmpS_slt w x y)
    case cltu => exact decided_cmp2 (f := fun x y => (cmpU w x).ult (cmpU w y)) h rfl rfl (cmpU_ult w x y)
    case cle => exact decided_cmp2 (f := fun x y => (cmpS w x).sle (cmpS w y)) h rfl rfl (cmpS_sle w x y)
    case cleu => exact decided_cmp2 (f := fun x y => (cmpU w x).ule (cmpU w y)) h rfl rfl (cmpU_ule w x y)
  case immediate =>
    refine ⟨?eq, ?lt, ?ltu, ?le⟩
    case eq => exact decided_cmp1 (f := fun x => x == m.signExtend 64) h rfl rfl rfl
    case lt => exact decided_cmp1 (f := fun x => x.slt (m.signExtend 64)) h rfl rfl rfl
    case ltu => exact decided_cmp1 (f := fun x => x.ult (m.signExtend 64)) h rfl rfl rfl
    case le => exact decided_cmp1 (f := fun x => x.sle (m.signExtend 64)) h rfl rfl rfl

/-- Settles O4: a predicate or a register is written by the rule of the operand form, and SEL waits for either source. -/
theorem predicateResults : Obligations.PredicateResults := by
  intro s dr k a b d ra rb x y
  refine ⟨fun hc => ⟨?pand, ?por, ?pxor, ?pandn, ?pnot⟩, fun h => ?pset, fun h => ?pget, fun h => wrote_sel h a,
    fun hc r hr _ _ hp => ?selStalls⟩
  case pand => exact decided_pred (f := fun r => r.getP a && r.getP b) hc rfl rfl rfl
  case por => exact decided_pred (f := fun r => r.getP a || r.getP b) hc rfl rfl rfl
  case pxor => exact decided_pred (f := fun r => r.getP a != r.getP b) hc rfl rfl (congrFun₂ Bool.bne_eq_xor _ _)
  case pandn => exact decided_pred (f := fun r => r.getP a && !r.getP b) hc rfl rfl rfl
  case pnot => exact decided_pred (f := fun r => !r.getP a) hc rfl rfl rfl
  case pset => exact decided_cmp1 (f := fun x => x.getLsbD 0) h rfl rfl rfl
  case pget => exact wrote_op0 (f := fun dr => if dr.regs.getP a then 1 else 0) h rfl rfl rfl
  case selStalls =>
    have hsrc : dr.srcStall [ra, rb] ≠ none := Drover.srcStall_of_pending (by simpa using hr) hp
    obtain ⟨t, d', ht, hcur, hregs, -⟩ : Waits s dr (.sel d ra rb a) := waits_of_srcStall hc rfl hsrc
    exact ⟨t, d', ht, hcur, hregs⟩

end Sys2Proof.Claims
end

section
/-!
SUPPORT. Conversions, floating-point comparisons and FCLASS (R112, R113, R40).
-/

namespace Sys2Proof.Machine

/-! ## Conversions between integers and values (R112, R42) -/

/-- FCVTIF's source is the low 32 bits or all of the register, signed or not. -/
theorem cvtSrc_eq (w u : BitVec 1) (x : Word) :
    cvtSrc w u x = if u = 1 then (if w = 1 then ((Claims.lo x).toNat : Int) else x.toNat)
      else (if w = 1 then (Claims.lo x).toInt else x.toInt) := by
  have hlow : intOf 32 x.toNat = (Claims.lo x).toInt := by
    rw [← intOf_toNat, Claims.lo, BitVec.toNat_setWidth]
    simp only [intOf, Nat.mod_mod]
  have hall : x.toNat % 2 ^ 64 = x.toNat := Nat.mod_eq_of_lt x.isLt
  unfold cvtSrc
  by_cases hu : u = 1 <;> by_cases hw : w = 1
  · simp only [if_pos hu, if_pos hw, Claims.lo, BitVec.toNat_setWidth]
  · simp only [if_pos hu, if_neg hw, hall]
  · simp only [if_neg hu, if_pos hw, hlow]
  · simp only [if_neg hu, if_neg hw, intOf_toNat]

/-- Every target of FCVTFI holds 0. -/
theorem cvtLimits_zero (w u : BitVec 1) : (cvtLimits w u).1 ≤ 0 ∧ 0 ≤ (cvtLimits w u).2 := by
  revert w u; decide

/-- A conversion to a range that holds 0 stays in the range, a NaN included. -/
theorem FVal.toInt_range (mode : RMode) {lo hi : Int} (v : FVal) (h : lo ≤ 0 ∧ 0 ≤ hi) :
    lo ≤ (v.toInt mode lo hi).1 ∧ (v.toInt mode lo hi).1 ≤ hi := by
  cases v with
  | nan => exact h
  | inf s => cases s <;> simp only [FVal.toInt] <;> omega
  | fin s m e =>
    simp only [FVal.toInt]
    split
    · dsimp only; omega
    · split <;> dsimp only <;> omega

/-! ## Comparison and class (R40, R113) -/

theorem FVal.cmp_nan_left (v : FVal) : FVal.nan.cmp v = none := rfl

theorem FVal.cmp_nan_right (v : FVal) : v.cmp .nan = none := by cases v <;> rfl

theorem fclassBit_lt (f : FFmt) (bits : Nat) : fclassBit f bits < 9 := by
  unfold fclassBit
  repeat' split
  all_goals decide

end Sys2Proof.Machine

namespace Sys2Proof.Claims

open Sys2Proof.Machine

section

variable {s : State} {dr : Drover} {i : Instr} {d a : BitVec 5} {x v : Word} {fl : BitVec 7}

/-- One source, a result and its exceptions, whatever form the source has. -/
theorem wrote_fop1 {f : Word → Word × BitVec 7} (h : Ready1 s dr d a x) (hi : exec i s = s.fop1 i d a f)
    (hn : Instr.bytes i = 4) (hv : f x = (v, fl)) : Wrote s dr i d v (fl.setWidth 5) 4 := by
  obtain ⟨⟨hc, hd⟩, hsrc, d1, hread⟩ := h
  refine wrote_of_result hc hd (Drover.readX_sameBut hread) hi hn ?_
  rw [hsrc, hd.1, hread]
  simp only [unlessStall_none, Res.ok_bind, hv]

end

section

variable {s : State} {dr : Drover} {d a : BitVec 5} {x : Word} (h : Ready1 s dr d a x) (w u p : BitVec 1) (r : BitVec 2)
include h

theorem fpWrote_fcvtif : fpWrote s dr (.fcvtif d a w u p r) d ((fpFmt p).encode .ieee (modeOf r.toNat) (ofInt
    (if u = 1 then (if w = 1 then ((lo x).toNat : Int) else x.toNat) else (if w = 1 then (lo x).toInt else x.toInt)))) := by
  rw [← cvtSrc_eq]
  exact wrote_fop1 (f := fun x => fpDst ((fpFmt p).encode .ieee (modeOf r.toNat) (ofInt (cvtSrc w u x)))) h rfl rfl rfl

theorem wrote_fcvtfi {v : Int} {fl : BitVec 7}
    (hv : ((fpFmt p).decode (fpSrc p x)).toInt (modeOf r.toNat) (cvtLimits w u).1 (cvtLimits w u).2 = (v, fl)) :
    Wrote s dr (.fcvtfi d a w u p r) d (BitVec.ofInt 64 v) (fl.setWidth 5) 4 :=
  wrote_fop1 (f := fun x =>
    let (v, fl) := ((fpFmt p).decode (fpSrc p x)).toInt (modeOf r.toNat) (cvtLimits w u).1 (cvtLimits w u).2
    (BitVec.ofInt 64 v, fl)) h rfl rfl (by simp only [hv])

end

/-- Settles O6: each operation is one of the operand forms, a conversion to an integer stays in its range
(`FVal.toInt_range`), and a NaN is not comparable (`FVal.cmp_nan_left`, `FVal.cmp_nan_right`). -/
theorem floatConversions : Obligations.FloatConversions := by
  intro s dr d a b k x y w u p r
  refine ⟨fun h => ⟨fpWrote_fcvtif h w u p r, fun hnan => ?nan, fun v fl hv => ⟨wrote_fcvtfi h w u p r hv, ?range⟩, ?fcvtff,
    _, fclassBit_lt (fpFmt p) (fpSrc p x), ?fclass⟩, fun h => ⟨?fceq, ?fclt, ?fcle, ?unordered⟩⟩
  case nan => exact wrote_fcvtfi (v := 0) (fl := flagNV) h w u p r (by rw [hnan]; rfl)
  case range =>
    have hrange := FVal.toInt_range (modeOf r.toNat) ((fpFmt p).decode (fpSrc p x)) (cvtLimits_zero w u)
    rwa [hv] at hrange
  case fcvtff =>
    exact wrote_fop1 (f := fun x => fpDst ((fpFmt p).encode .ieee (modeOf r.toNat)
      ((fpFmt (1 - p)).decode (fpSrc (1 - p) x)))) h rfl rfl rfl
  case fclass => exact wrote_op1 (f := fun x => BitVec.ofNat 64 (2 ^ fclassBit (fpFmt p) (fpSrc p x))) h rfl rfl rfl
  case fceq => exact decided_cmp2 (f := fun x y => fpCmp p x y == some 0) h rfl rfl rfl
  case fclt => exact decided_cmp2 (f := fun x y => fpCmp p x y == some (-1)) h rfl rfl rfl
  case fcle =>
    exact decided_cmp2 (f := fun x y => fpCmp p x y == some (-1) || fpCmp p x y == some 0) h rfl rfl (Bool.or_comm ..)
  case unordered =>
    rintro (hx | hy)
    · rw [fpCmp, hx, FVal.cmp_nan_left]
    · rw [fpCmp, hy, FVal.cmp_nan_right]

end Sys2Proof.Claims
end

section
/-!
SUPPORT. Branches, calls and jumps (R119, R120), and prefetches (R116): an instruction that goes on at an address with its
registers as they were, or with a link.
-/

namespace Sys2Proof.Machine

/-! ## Branches (R119) -/

theorem Regs.taken_eq (r : Regs) (n : BitVec 1) (k : BitVec 3) : r.taken n k = (r.getP k ^^ n == 1) :=
  congrFun₂ Bool.bne_eq_xor _ _

theorem branchTarget_eq (pc : Word) (f : BitVec 22) : branchTarget pc f = pc + 4 * f.signExtend 64 := by
  rw [branchTarget, BitVec.shiftLeft_eq_mul_twoPow, BitVec.mul_comm]; rfl

theorem Drover.Framed.jump {d d' : Drover} (h : d.Framed d') (pc : Word) : d.Framed (d'.jump pc) :=
  ⟨h.ctl, h.dregs, h.stew, h.steward, h.tlb⟩

/-- lr that is pending stalls a taken call (R119). -/
theorem Drover.dstStall_of_pending {d : Drover} {r : BitVec 5} (hr : r.toNat ≠ 30)
    (hp : (look d.board.pend r.toNat).isSome = true) : d.dstStall r ≠ none := by
  obtain ⟨q, hq⟩ := Option.isSome_iff_exists.1 hp
  rw [Drover.dstStall, if_neg hr, hq]
  split <;> exact Option.some_ne_none _

end Sys2Proof.Machine

namespace Sys2Proof.Claims

open Sys2Proof.Machine

section

variable {s : State} {dr d1 d2 : Drover} {i : Instr} {n : Nat} {f : Drover → Res Drover} {d a : BitVec 5}
  {x pc pc' link : Word} {k : BitVec 3} {g : BitVec 1} {m : BitVec 22}

/-- An instruction that has only read its sources, and goes on n bytes behind an address. -/
theorem jumped_of_jump (hc : s.cur? = some dr) (hs : dr.SameBut d1) (hi : exec i s = s.issues i n f)
    (hf : f dr = .ok (d1.jump pc)) (hpc : pc + BitVec.ofNat 64 n = pc') : Jumped s dr i pc' := by
  refine ⟨_, _, hi.trans (State.issues_ok hc hf), State.commit_cur? .., State.commit_rest _ (hs.framed.jump pc), hpc, ?x, ?p,
    congrArg (·.fflags) hs.ctl⟩
  case x => rw [Drover.retire_x, Drover.jump_x, hs.regs]
  case p => rw [Drover.retire_p, Drover.jump_p, hs.regs]

/-- An instruction of four bytes that has only read a source goes on behind itself. -/
theorem jumped_of_read (h : Reads1 s dr a x) (hi : exec i s = s.prefetch i a) (hn : Instr.bytes i = 4) :
    Jumped s dr i (dr.regs.pc + 4) := by
  obtain ⟨hc, hsrc, d1, hread⟩ := h
  have hs := Drover.readX_sameBut hread
  refine jumped_of_jump (pc := d1.regs.pc) hc hs hi ?_ (by rw [hs.regs, hn]; rfl)
  rw [hsrc, hread]; rfl

/-- An instruction that leaves a link and goes on at an address. -/
theorem linked_of_given (hc : s.cur? = some dr) (hs : dr.SameBut d1) (hg : d1.Given d2 d link)
    (hi : exec i s = s.issues i 0 f) (hf : f dr = .ok (d2.jump pc)) : Linked s dr i d link pc := by
  have hframe : dr.Framed (d2.jump pc) := (hg.framed hs.framed).jump pc
  refine ⟨_, _, hi.trans (State.issues_ok hc hf), State.commit_cur? .., State.commit_rest _ hframe, BitVec.add_zero _, ?p,
    fun r hr => ?regs, fun h30 => ?push⟩
  case p => rw [Drover.retire_p, Drover.jump_p, hg.p, hs.regs]
  case regs => rw [Regs.getX_of_x (Drover.retire_x ..), Regs.getX_of_x (Drover.jump_x ..), hg.getX r hr, hs.regs]
  case push =>
    have hpushed := hg.pushed h30
    rw [hs.ctl, hs.outq] at hpushed
    exact hpushed

/-! ## The instructions -/

theorem br_jumps (hc : s.cur? = some dr) : Jumped s dr (.br g k m)
    (if (dr.regs.getP k ^^ g == 1) then dr.regs.pc + 4 * m.signExtend 64 else dr.regs.pc + 4) := by
  rw [← Regs.taken_eq, ← branchTarget_eq]
  have hexec : exec (.br g k m) s = s.issues (.br g k m) 0 fun d =>
      .ok (d.jump (if d.regs.taken g k then branchTarget d.regs.pc m else d.regs.pc + 4)) := rfl
  exact jumped_of_jump hc .rfl hexec rfl (BitVec.add_zero _)

theorem call_notTaken (hc : s.cur? = some dr) (ht : (dr.regs.getP k ^^ g == 1) = false) :
    Jumped s dr (.call g k m) (dr.regs.pc + 4) := by
  rw [← Regs.taken_eq] at ht
  exact jumped_of_jump hc .rfl rfl (by rw [ht]; rfl) (BitVec.add_zero _)

theorem call_taken (hc : s.cur? = some dr) (ht : (dr.regs.getP k ^^ g == 1) = true) (hlr : dr.dstStall 27 = none) :
    Linked s dr (.call g k m) 27 (dr.regs.pc + 4) (dr.regs.pc + 4 * m.signExtend 64) := by
  rw [← Regs.taken_eq] at ht
  rw [← branchTarget_eq]
  exact linked_of_given hc .rfl (Drover.writeX_given dr _ (by decide)) rfl (by rw [ht, hlr]; rfl)

theorem call_waits (hc : s.cur? = some dr) (ht : (dr.regs.getP k ^^ g == 1) = true)
    (hlr : (look dr.board.pend 27).isSome = true) : Waits s dr (.call g k m) := by
  rw [← Regs.taken_eq] at ht
  obtain ⟨b, hb⟩ := unlessStall_of_ne_none (Drover.dstStall_of_pending (r := 27) (by decide) hlr)
    (.ok ((dr.writeX 27 (dr.regs.pc + 4)).jump (branchTarget dr.regs.pc m)))
  exact waits_of_stalled (State.issues_stall hc (by rw [ht, if_pos rfl, hb]))

theorem jr_jumps (h : Reads1 s dr a x) (hx : x.toNat % 4 = 0) : Jumped s dr (.jr a) x := by
  obtain ⟨hc, hsrc, d1, hread⟩ := h
  refine jumped_of_jump hc (Drover.readX_sameBut hread) rfl ?_ (BitVec.add_zero _)
  rw [hsrc, hread]
  exact if_neg (not_not.2 hx)

/-- The target is looked at before anything is changed (R120). -/
theorem jr_traps (h : Reads1 s dr a x) (hx : x.toNat % 4 ≠ 0) : Trapped s dr (.jr a) 2 dr.regs.pc x := by
  obtain ⟨hc, hsrc, d1, hread⟩ := h
  refine trapped_of_issues (q := dr.trapAt 2 x) hc rfl ?_ .rfl
  rw [hsrc, hread]
  exact if_pos hx

theorem jalr_links (h : Ready1 s dr d a x) (hx : x.toNat % 4 = 0) : Linked s dr (.jalr d a) d (dr.regs.pc + 4) x := by
  obtain ⟨⟨hc, hd⟩, hsrc, d1, hread⟩ := h
  have hs := Drover.readX_sameBut hread
  obtain ⟨d2, hr, hg⟩ := result_given hd hs 0 (dr.regs.pc + 4)
  rw [Drover.orFlags_zero] at hr hg
  refine linked_of_given hc hs hg rfl ?_
  rw [hsrc, hd.1, hread, unlessStall_none, unlessStall_none, Res.ok_bind]
  exact (if_neg (not_not.2 hx)).trans (by rw [hr]; rfl)

theorem jalr_traps (h : Ready1 s dr d a x) (hx : x.toNat % 4 ≠ 0) : Trapped s dr (.jalr d a) 2 dr.regs.pc x := by
  obtain ⟨⟨hc, hd⟩, hsrc, d1, hread⟩ := h
  refine trapped_of_issues (q := dr.trapAt 2 x) hc rfl ?_ .rfl
  rw [hsrc, hd.1, hread]
  exact if_pos hx

end

/-- Settles O10: a branch or jump is its drover with another pc (`jumped_of_jump`), a call or JALR one with a link
(`linked_of_given`), and a target is looked at before anything changes. -/
theorem controlFlow : Obligations.ControlFlow := by
  intro s dr n k f d a x
  refine ⟨fun hc => ⟨br_jumps hc, call_notTaken hc, call_taken hc, fun ht hlr => ?callWaits⟩, rfl, rfl, jr_jumps, jr_traps,
    jalr_links, jalr_traps⟩
  case callWaits =>
    obtain ⟨t, d', hexec, hcur, hregs, -⟩ := call_waits (m := f) hc ht hlr
    exact ⟨t, d', hexec, hcur, hregs⟩

end Sys2Proof.Claims
end

section
/-!
SUPPORT. Memory instructions at issue (R114 to R118, R140): what `State.memory` answers where an access goes on and where it
traps, what entering an ask leaves of the drover, and that this is what `Issued` and `Trapped` ask.
-/

namespace Sys2Proof.Machine

open Sys2Proof.Claims

/-! ## What an access answers (R75, R266, R273) -/

section

variable {s : State} {dr d1 : Drover} {va : Word} {a : Ask} {l : Leaf} {fin : Drover → Nat → Drover}

/-- An access that nothing stands against enters the queues. -/
theorem State.memory_enters (h : MayAccess s dr va a l) :
    s.memory dr d1 va a fin = .ok (fin (d1.enter s.focus a l va.toNat) d1.mem.nextSeq) := by
  obtain ⟨hidle, hroom, halign, hleaf, hwatched⟩ := h
  simp [State.memory, hidle, hroom, halign, hleaf, hwatched]

theorem State.memory_misaligned (hidle : dr.hold = .idle) (hroom : dr.room a.kind = true)
    (halign : va.toNat % a.align ≠ 0) : s.memory dr d1 va a fin = .trap (dr.trapAt 2 va) dr := by
  simp [State.memory, hidle, hroom, halign]

/-- Room and alignment come before the translation, and what that raises is the answer. -/
theorem State.memory_refused {q : TrapReq} (hidle : dr.hold = .idle) (hroom : dr.room a.kind = true)
    (halign : va.toNat % a.align = 0) (hleaf : s.leafFor dr va.toNat a = .trap q dr) :
    s.memory dr d1 va a fin = .trap q dr := by
  simp [State.memory, hidle, hroom, halign, hleaf, Res.bind]

theorem State.leafFor_fault (ht : s.chip.translate s.focus dr va.toNat = .fault) :
    s.leafFor dr va.toNat a = .trap (dr.trapAt 3 va) dr := by
  simp [State.leafFor, ht]

theorem State.leafFor_refused {c : Nat} (ht : s.chip.translate s.focus dr va.toNat = .leaf l)
    (hf : accessFault dr.steward l va.toNat a.size a.kind = some c) :
    s.leafFor dr va.toNat a = .trap (dr.trapAt c va) dr := by
  simp [State.leafFor, ht, hf]

end

/-! ## Entering an ask -/

theorem Drover.Framed.trans {d d' d'' : Drover} (h : d.Framed d') (k : d'.Framed d'') : d.Framed d'' where
  ctl := by rw [k.ctl, h.ctl]
  dregs := k.dregs.trans h.dregs
  stew := k.stew.trans h.stew
  steward := k.steward.trans h.steward
  tlb := k.tlb.trans h.tlb

/-- The drover with an ask entered: registers as before, the accesses behind those it had. -/
structure Drover.Entered (d d' : Drover) (as : List Access) : Prop where
  framed : d.Framed d'
  fflags : d'.ctl.fflags = d.ctl.fflags
  regs : d'.regs = d.regs
  accs : d'.mem.accs = d.mem.accs ++ as

theorem Drover.enter_entered (d : Drover) (u : Nat) (a : Ask) (l : Leaf) (va : Nat) :
    ∃ d2 : Drover, d2.mem = d.mem ∧ d.Entered (d.enter u a l va) (d2.accesses a l va 0 a.words) := by
  unfold Drover.enter
  cases a.rel
  case false => exact ⟨d, rfl, ⟨rfl, rfl, rfl, rfl, rfl⟩, rfl, rfl, rfl⟩
  case true => exact ⟨d.tick u, rfl, ⟨rfl, rfl, rfl, rfl, rfl⟩, rfl, rfl, rfl⟩

theorem Drover.getElem?_accesses (d : Drover) (a : Ask) (l : Leaf) (va : Nat) (ws : List Word) (j k : Nat) :
    (d.accesses a l va j ws)[k]? = (ws[k]?).map fun w => d.access a l va (j + k) w := by
  induction ws generalizing j k with
  | nil => rfl
  | cons w ws ih =>
    cases k with
    | zero => rfl
    | succ k => rw [Drover.accesses, List.getElem?_cons_succ, List.getElem?_cons_succ, ih, Nat.add_right_comm, Nat.add_assoc]

theorem Drover.length_accesses (d : Drover) (a : Ask) (l : Leaf) (va : Nat) (ws : List Word) (j : Nat) :
    (d.accesses a l va j ws).length = ws.length := by
  induction ws generalizing j with
  | nil => rfl
  | cons w ws ih => rw [Drover.accesses, List.length_cons, List.length_cons, ih]

/-- `fin` leaves a destination pending or nothing: it writes the scoreboard alone. -/
def Pending (fin : Drover → Nat → Drover) : Prop := ∀ d q, ∃ b, fin d q = { d with board := b }

theorem pendNone_pending : Pending pendNone := fun _ _ => ⟨_, rfl⟩

theorem pendDesc_pending (n : BitVec 4) : Pending (pendDesc n) := fun _ _ => ⟨_, rfl⟩

theorem pendOn_pending (r : BitVec 5) : Pending (pendOn r) := fun d q => by
  unfold pendOn Drover.pendX
  split <;> exact ⟨_, rfl⟩

theorem look_pend_pendOn {r : BitVec 5} (h : r ≠ 0) (d : Drover) (q : Nat) :
    look (pendOn r d q).board.pend r.toNat = some (.access q) := by
  have hne : ¬ r.toNat = 0 := fun e => h ((toNat_eq_zero_iff r).1 e)
  rw [pendOn, Drover.pendX, if_neg hne]
  exact look_put_same ..

theorem look_dpend_pendDesc (n : BitVec 4) (d : Drover) (q : Nat) :
    look (pendDesc n d q).board.dpend n.toNat = some 16 := look_put_same ..

theorem Drover.Entered.pending {d d' : Drover} {as : List Access} {fin : Drover → Nat → Drover} (h : d.Entered d' as)
    (hp : Pending fin) (q : Nat) : d.Entered (fin d' q) as := by
  obtain ⟨b, hb⟩ := hp d' q
  rw [hb]
  exact ⟨h.framed.trans ⟨rfl, rfl, rfl, rfl, rfl⟩, h.fflags, h.regs, h.accs⟩

/-! ## Descriptors (R117, R118) -/

theorem Drover.useDesc_ready {α : Type} {d : Drover} {n : BitVec 4} {k : BitVec 1024 → Res α}
    (hpend : look d.board.dpend n.toNat = none) (hbad : look d.board.dbad n.toNat = none) :
    d.useDesc n k = k (d.regs.getD n) := by
  simp [Drover.useDesc, hpend, hbad]

theorem eq_of_getElem?_descWords {v : BitVec 1024} {k : Nat} {w : Word} (h : (descWords v)[k]? = some w) :
    w = v.extractLsb' (64 * k) 64 := by
  rw [descWords, List.getElem?_map, Option.map_eq_some_iff] at h
  obtain ⟨j, hj, rfl⟩ := h
  obtain ⟨hlt, hj⟩ := List.getElem?_eq_some_iff.1 hj
  rw [← hj, List.getElem_range]

end Sys2Proof.Machine

namespace Sys2Proof.Claims

open Sys2Proof.Machine

section

variable {s : State} {dr d1 : Drover} {i : Instr} {n : Nat} {f : Drover → Res Drover} {va : Word} {a : Ask} {l : Leaf}
  {fin : Drover → Nat → Drover}

/-- An instruction that enters an ask issues: its accesses stand behind the drover's, and registers keep their values. -/
theorem enters_of_memory (hc : s.cur? = some dr) (hs : dr.SameBut d1) (hi : exec i s = s.drove i f)
    (hn : Instr.bytes i = n) (hf : f dr = s.memory dr d1 va a fin) (hm : MayAccess s dr va a l) (hp : Pending fin) :
    ∃ (t : State) (d2 d' : Drover), exec i s = .next t ∧ t.cur? = some ((fin d' d1.mem.nextSeq).retire n) ∧
      Rest s t dr ((fin d' d1.mem.nextSeq).retire n) ∧ d2.mem = d1.mem ∧
      d1.Entered (fin d' d1.mem.nextSeq) (d2.accesses a l va.toNat 0 a.words) := by
  subst hn
  obtain ⟨d2, hmem, hent⟩ := d1.enter_entered s.focus a l va.toNat
  have hent := hent.pending hp d1.mem.nextSeq
  exact ⟨_, d2, _, hi.trans (State.issues_ok hc (hf.trans (State.memory_enters hm))), State.commit_cur? ..,
    State.commit_rest _ (hs.framed.trans hent.framed), hmem, hent⟩

/-- And each access is a word of the ask, at its place. -/
theorem words_of_memory (hc : s.cur? = some dr) (hs : dr.SameBut d1) (hi : exec i s = s.drove i f)
    (hf : f dr = s.memory dr d1 va a fin) (hm : MayAccess s dr va a l) (hp : Pending fin) :
    ∃ t d2 d' as, exec i s = .next t ∧ t.cur? = some d' ∧ Rest s t dr d' ∧
      d'.regs.pc = dr.regs.pc + BitVec.ofNat 64 (Instr.bytes i) ∧ d'.regs.x = dr.regs.x ∧
      d'.mem.accs = d1.mem.accs ++ as ∧ as.length = a.words.length ∧ d'.board = (fin d2 d1.mem.nextSeq).board ∧
      ∀ w e, as[w]? = some e → ∃ (d3 : Drover) (v : Word), a.words[w]? = some v ∧ e = d3.access a l va.toNat w v := by
  obtain ⟨t, d3, d2, ht, hcur, hrest, -, hent⟩ := enters_of_memory hc hs hi rfl hf hm hp
  refine ⟨t, d2, _, _, ht, hcur, hrest, ?pc, ?x, hent.accs, Drover.length_accesses .., rfl, fun w e he => ?words⟩
  case pc => rw [Drover.retire_pc, hent.regs, hs.regs]
  case x => rw [Drover.retire_x, hent.regs, hs.regs]
  case words =>
    rw [Drover.getElem?_accesses, Option.map_eq_some_iff, Nat.zero_add] at he
    obtain ⟨v, hv, rfl⟩ := he
    exact ⟨d3, v, hv, rfl⟩

/-- An instruction that asks for one word, and what it leaves pending. -/
theorem issued_of_memory {w : Word} {dst : Option (BitVec 5)} (hc : s.cur? = some dr) (hs : dr.SameBut d1)
    (hi : exec i s = s.drove i f) (hn : Instr.bytes i = n) (hf : f dr = s.memory dr d1 va a fin)
    (hm : MayAccess s dr va a l) (hw : a.words = [w]) (hp : Pending fin)
    (hdst : ∀ r, dst = some r → r ≠ 0 → ∀ d q, look (fin d q).board.pend r.toNat = some (.access q)) :
    Issued s dr d1 i n a.kind va l a.size w a.data2 a.acq a.rel a.scope dst := by
  obtain ⟨t, d2, d', ht, hcur, hrest, hmem, hent⟩ := enters_of_memory hc hs hi hn hf hm hp
  rw [hw] at hent
  refine ⟨t, _, d2.access a l va.toNat 0 w, ht, hcur, hrest, ?pc, ?x, ?p, ?flags, hent.accs, congrArg (·.nextSeq) hmem, rfl,
    rfl, rfl, rfl, rfl, rfl, rfl, rfl, rfl, rfl, fun r hr h0 => ?dst⟩
  case pc => rw [Drover.retire_pc, hent.regs, hs.regs]
  case x => rw [Drover.retire_x, hent.regs, hs.regs]
  case p => rw [Drover.retire_p, hent.regs, hs.regs]
  case flags => rw [Drover.retire_fflags, hent.fflags, hs.ctl]
  case dst => exact (hdst r hr h0 _ _).trans (by rw [Drover.access, hmem, Nat.add_zero])

/-- An instruction that leaves its destination pending on the access. -/
theorem issued_pendOn {w : Word} {d : BitVec 5} (hc : s.cur? = some dr) (hs : dr.SameBut d1) (hi : exec i s = s.drove i f)
    (hn : Instr.bytes i = n) (hf : f dr = s.memory dr d1 va a (pendOn d)) (hm : MayAccess s dr va a l)
    (hw : a.words = [w]) : Issued s dr d1 i n a.kind va l a.size w a.data2 a.acq a.rel a.scope (some d) := by
  refine issued_of_memory hc hs hi hn hf hm hw (pendOn_pending d) fun r hr h0 => ?_
  cases hr
  exact look_pend_pendOn h0

/-- An instruction that leaves nothing pending. -/
theorem issued_pendNone {w : Word} (hc : s.cur? = some dr) (hs : dr.SameBut d1) (hi : exec i s = s.drove i f)
    (hn : Instr.bytes i = n) (hf : f dr = s.memory dr d1 va a pendNone) (hm : MayAccess s dr va a l)
    (hw : a.words = [w]) : Issued s dr d1 i n a.kind va l a.size w a.data2 a.acq a.rel a.scope none :=
  issued_of_memory hc hs hi hn hf hm hw pendNone_pending fun _ hr => nomatch hr

end

section

variable {s : State} {dr d1 : Drover} {i : Instr} {d a b : BitVec 5} {x y : Word} {z o : BitVec 2} {f : BitVec 12}
  {k : AccKind} {acq rel : Bool} {l : Leaf} {c : Nat} {v : Word}

/-! ## Loads and stores of the M format -/

theorem issued_loadM (h : Ready1d s dr d1 d a x) (hi : exec i s = s.loadM i k d a z acq rel f) (hn : Instr.bytes i = 4)
    (hm : MayAccess s dr (mAt x f) (ask1 k z acq rel d.toNat 0) l) :
    Issued s dr d1 i 4 k (mAt x f) l (width z) 0 0 acq rel 3 (some d) := by
  obtain ⟨hc, hsrc, hdst, -, hread⟩ := h
  refine issued_pendOn hc (Drover.readX_sameBut hread) hi hn ?_ hm rfl
  rw [hsrc, hdst, hread]; rfl

theorem issued_storeM (h : Reads2d s dr d1 a d x y) (hi : exec i s = s.storeM i k d a z acq rel f)
    (hn : Instr.bytes i = 4) (hm : MayAccess s dr (mAt x f) (ask1 k z acq rel 0 y) l) :
    Issued s dr d1 i 4 k (mAt x f) l (width z) y 0 acq rel 3 none := by
  obtain ⟨hc, hsrc, hread⟩ := h
  refine issued_pendNone hc (Drover.read2_sameBut hread) hi hn ?_ hm rfl
  rw [hsrc, hread]; rfl

/-- A load whose access traps. -/
theorem trapped_loadM (h : Ready1d s dr d1 d a x) (hi : exec i s = s.loadM i k d a z acq rel f)
    (ht : s.memory dr d1 (mAt x f) (ask1 k z acq rel d.toNat 0) (pendOn d) = .trap (dr.trapAt c v) dr) :
    Trapped s dr i c dr.regs.pc v := by
  obtain ⟨hc, hsrc, hdst, -, hread⟩ := h
  refine trapped_of_issues (q := dr.trapAt c v) hc hi (Eq.trans ?_ ht) .rfl
  rw [hsrc, hdst, hread]; rfl

/-- A store whose access traps. -/
theorem trapped_storeM (h : Reads2d s dr d1 a d x y) (hi : exec i s = s.storeM i k d a z acq rel f)
    (ht : s.memory dr d1 (mAt x f) (ask1 k z acq rel 0 y) pendNone = .trap (dr.trapAt c v) dr) :
    Trapped s dr i c dr.regs.pc v := by
  obtain ⟨hc, hsrc, hread⟩ := h
  refine trapped_of_issues (q := dr.trapAt c v) hc hi (Eq.trans ?_ ht) .rfl
  rw [hsrc, hread]; rfl

/-- A returning atomic whose access traps. -/
theorem trapped_amo {op : Nat} {sc : BitVec 3} (h : Ready2d s dr d1 d a b x y) (hi : exec i s = s.amo i op d a b sc o)
    (ht : s.memory dr d1 x (askAmo (.amo op) 8 sc o d.toNat y 0) (pendOn d) = .trap (dr.trapAt c v) dr) :
    Trapped s dr i c dr.regs.pc v := by
  obtain ⟨hc, hsrc, hdst, -, hread⟩ := h
  refine trapped_of_issues (q := dr.trapAt c v) hc hi (Eq.trans ?_ ht) .rfl
  rw [hsrc, hdst, hread]; rfl

end

/-! ## The statements -/

/-- R114, R115, R140: each load has the M format, and its kind and order are the shape of its definition. -/
theorem loadsIssue : LoadsIssue := by
  intro s dr d1 d a x z o f l h
  refine ⟨?ld, ?ldu, ?ldf, ?ldfe⟩ <;> exact issued_loadM h rfl rfl

/-- R114, R115, R140: SETE alone has no data, and so one source. -/
theorem storesIssue : StoresIssue := by
  intro s dr d1 d a x v z o f l
  refine ⟨fun h => ?twoSources, fun hc hsrc hread hm => ?sete⟩
  case twoSources => refine ⟨?st, ?stef, ?stf⟩ <;> exact issued_storeM h rfl rfl
  case sete =>
    refine issued_pendNone (a := ask1 .sete z false true 0 0) hc (Drover.readX_sameBut hread) rfl rfl ?_ hm rfl
    rw [hsrc, hread]; rfl

/-- R116 to R118: DLD leaves its register pending on its words, DST reads its register, and PREF has only read its source. -/
theorem descriptorsIssue : DescriptorsIssue := by
  intro s dr d1 n a b x y sc o l f
  refine ⟨fun ⟨hc, hsrc, hread⟩ hpend hm => ?dld, fun ⟨hc, hsrc, hread⟩ hpend hbad hm => ?dst, fun h => ⟨?prefR, ?prefW⟩⟩
  case dld =>
    obtain ⟨t, d2, d', as, ht, hcur, hrest, hpc, hx, haccs, hlen, hboard, hwords⟩ :=
      words_of_memory (i := .dld n a b sc o) (d1 := d1) hc (Drover.read2_sameBut hread) rfl
        (by rw [hsrc, hpend, hread]; rfl) hm (pendDesc_pending n)
    refine ⟨t, d', as, ht, hcur, hrest, hpc, hx, haccs, hlen, ?_, fun w e he => ?_⟩
    · rw [hboard, look_dpend_pendDesc]
    · obtain ⟨d3, v, -, rfl⟩ := hwords w e he
      exact ⟨rfl, rfl, rfl, rfl, rfl, rfl⟩
  case dst =>
    obtain ⟨t, d2, d', as, ht, hcur, hrest, hpc, hx, haccs, hlen, -, hwords⟩ :=
      words_of_memory (i := .dst n a b sc o) (d1 := d1) hc (Drover.read2_sameBut hread) rfl
        (by rw [hsrc, Drover.useDesc_ready hpend hbad, hread]; rfl) hm pendNone_pending
    refine ⟨t, d', as, ht, hcur, hrest, hpc, hx, haccs, hlen, fun w e he => ?_⟩
    obtain ⟨d3, v, hv, rfl⟩ := hwords w e he
    exact ⟨rfl, rfl, eq_of_getElem?_descWords hv, rfl⟩
  case prefR => exact jumped_of_read h rfl rfl
  case prefW => exact jumped_of_read h rfl rfl

/-- Settles O8: what nothing stands against enters the queues (`State.memory_enters`), and the drover that has entered it
keeps its registers (`Drover.enter_entered`, `issued_of_memory`, `words_of_memory`). -/
theorem loadsAndStoresIssue : Obligations.LoadsAndStoresIssue := ⟨loadsIssue, storesIssue, descriptorsIssue⟩

/-- Settles O9: a trap of an access leaves the drover as it was before its operands were read (`State.memory_misaligned`,
`State.memory_refused`). -/
theorem accessTraps : Obligations.AccessTraps := by
  intro s dr d1 d a b x y z o f sc hidle
  refine ⟨fun h hroom hal => ?loads, fun h hroom hal => ?stores, fun h hroom hal => ?atomics, fun h hroom hal ht => ?fault,
    fun l c h hroom hal ht hf => ?refused⟩
  case loads =>
    refine ⟨?ld, ?ldu, ?ldf, ?ldfe⟩ <;> exact trapped_loadM h rfl (State.memory_misaligned hidle hroom hal)
  case stores =>
    refine ⟨?st, ?stef, ?stf⟩ <;> exact trapped_storeM h rfl (State.memory_misaligned hidle hroom hal)
  case atomics =>
    refine ⟨?amoAdd, ?amoSwap⟩ <;> exact trapped_amo h rfl (State.memory_misaligned hidle hroom hal)
  case fault => exact trapped_loadM h rfl (State.memory_refused hidle hroom hal (State.leafFor_fault ht))
  case refused => exact trapped_loadM h rfl (State.memory_refused hidle hroom hal (State.leafFor_refused ht hf))

end Sys2Proof.Claims
end

section
/-!
SUPPORT. A steward's ERET and HALT (R121, R324): what the fault log and the end of a record leave of the stewards' records,
and a task that goes on with the values of its record.
-/

namespace Sys2Proof.Machine

/-! ## The stewards' current records -/

theorem Chip.logFault_current (c : Chip) (die e : Nat) (l : LogEntry) :
    (c.logFault die e l).traps.current = c.traps.current := by
  unfold Chip.logFault
  split
  case h_1 => rfl
  case h_2 => dsimp only; split <;> rfl

theorem Chip.foldl_logLate_current (u : Nat) (d : Drover) (l : List LateErr) (c : Chip) :
    (l.foldl (fun c l => c.logLate u d l) c).traps.current = c.traps.current := by
  induction l generalizing c with
  | nil => rfl
  | cons a l ih => exact (ih _).trans (c.logFault_current ..)

/-- Committing a drover leaves what every steward handles. -/
theorem State.commit_current (s : State) (old new : Drover) :
    (s.commit old new).chip.traps.current = s.chip.traps.current :=
  Chip.foldl_logLate_current ..

/-! ## A task that resumes (R324) -/

@[simp] theorem Chip.onEngines_drovers (c : Chip) (u : Nat) (f : Serai → Serai) :
    (c.onEngines u f).drovers = c.drovers := by
  unfold Chip.onEngines; split <;> rfl

/-- A register that was ready at capture gets its value of the record, one that was pending keeps what it received. -/
theorem Drover.resume_getX (d : Drover) (pc : Word) (xs : Nat → Word) (pending : BitVec 32) (preds : BitVec 8)
    (fflags : BitVec 5) (qpeer : BitVec 4) {n : BitVec 5} (h0 : 0 < n.toNat) (h28 : n.toNat < 28) :
    (d.resume pc xs pending preds fflags qpeer).regs.getX n =
      if pending.getLsbD n.toNat then d.regs.getX n else xs n.toNat := by
  have hne : n ≠ 0 := fun e => by subst e; exact absurd h0 (by decide)
  have hscalar : (n.toNat = 0 ∨ 28 ≤ n.toNat ∨ pending.getLsbD n.toNat) ↔ pending.getLsbD n.toNat :=
    (or_iff_right (by omega)).trans (or_iff_right (by omega))
  simp only [Regs.getX, if_neg hne, Drover.resume, Vector.getElem_ofFn, hscalar]
  rfl

/-- The end of a HELD record whose task lives in its serai. -/
theorem Chip.endRecord_held {c : Chip} {cycle u v : Nat} {r : Record} {pc : Word} {t : Task} {d : Drover}
    (hheld : r.heldFlag = true) (hr : r.task = some u) (ht : c.task? u = some t) (halive : t.alive = true)
    (hd : c.drover? u = some d) (hdheld : d.held = true) (hcore : d.core = some v) :
    (c.endRecord cycle r pc).drover? u = some
      (d.resume pc (fun n => BitVec.ofNat 64 (c.recordField r (64 + 8 * n) 8)) r.pending
        (BitVec.ofNat 8 (bitsOf (c.recordField r 320 8) 32 7)) (BitVec.ofNat 5 (bitsOf (c.recordField r 320 8) 40 5))
        (BitVec.ofNat 4 (c.recordField r 328 1))) := by
  simp only [Chip.endRecord, hheld, hr, Chip.resumeTask, ht, hd, halive, hdheld, hcore]
  exact (Chip.drover?_congr (Chip.onEngines_drovers ..) u).trans (by rw [Chip.setDrover_drover?, if_pos rfl])

end Sys2Proof.Machine

namespace Sys2Proof.Claims

open Sys2Proof.Machine

section

variable {s : State} {dr : Drover} (hc : s.cur? = some dr) (hst : dr.steward = true)
include hc hst

/-- ERET with a current record: its handling ends, and then it is no longer current. -/
theorem exec_eret_record {r : Record} (hr : s.chip.traps.current[dr.core.getD 0]? = some (some r)) :
    exec .eret s = .next ({ s with chip := (s.chip.endRecord s.cycle r dr.stew.trappc).onTraps fun t =>
      { t with current := t.current.setIfInBounds (dr.core.getD 0) none } }.commit dr (dr.retire 4)) :=
  State.drives_ok hc (by simp [hst, hr])

theorem exec_eret_none (hr : s.chip.traps.current[dr.core.getD 0]? = some none) :
    exec .eret s = .next (s.commit dr (dr.retire 4)) :=
  State.drives_ok hc (by simp [hst, hr])

theorem exec_halt : exec .halt s =
    .next ({ s with chip := (s.chip.setDrover s.focus { dr with run := .halted }).emptySteward (dr.core.getD 0) }.commit dr
      (Drover.retire { dr with run := .halted } 4)) :=
  State.drives_ok hc (by simp [hst])

end

/-- A record that has been current is so no longer. -/
theorem current_ended {c : Chip} {s : State} {k : Nat} (h : k < 16) (old new : Drover) :
    ({ s with chip := c.onTraps fun t => { t with current := t.current.setIfInBounds k none } }.commit old new
      ).chip.traps.current[k]? = some none := by
  rw [State.commit_current]
  exact Vector.getElem?_setIfInBounds_self_of_lt h

/-- Settles O14: ERET ends the current record, whatever its handling was (`exec_eret_record`), a held task resumes from it
(`Chip.endRecord_held`), and HALT commits a halted core. -/
theorem stewardReturns : Obligations.StewardReturns := by
  intro s dr hc hst
  refine ⟨fun hr => ?ends, fun r u v ta du hr hheld htask hne ht halive hd hdheld hcore => ?resumes, ?halts⟩
  case ends =>
    obtain ⟨cur, hcur⟩ := Option.ne_none_iff_exists'.1 hr
    cases cur with
    | none => exact ⟨_, exec_eret_none hc hst hcur, State.commit_cur? .., by rw [State.commit_current, hcur]⟩
    | some r =>
      exact ⟨_, exec_eret_record hc hst hcur, State.commit_cur? .., current_ended (Vector.getElem?_eq_some_iff.1 hcur).1 ..⟩
  case resumes =>
    have hend := Chip.endRecord_held (cycle := s.cycle) (pc := dr.stew.trappc) hheld htask ht halive hd hdheld hcore
    exact ⟨_, _, exec_eret_record hc hst hr, (State.commit_drover? ..).trans ((if_neg hne).trans hend), rfl, rfl, rfl,
      current_ended (Vector.getElem?_eq_some_iff.1 hr).1 .., fun n h0 h28 => Drover.resume_getX _ _ _ _ _ _ _ h0 h28⟩
  case halts =>
    exact ⟨_, Drover.retire { dr with run := .halted } 4, exec_halt hc hst, State.commit_cur? .., rfl, rfl, rfl⟩

end Sys2Proof.Claims
end

section
/-!
SUPPORT. Atomics, reductions and continuation atomics at issue (R126 to R129, R134, R136): the late errors of the three
sources that a CAS reads, and the operand forms of the atomics.
-/

namespace Sys2Proof.Machine

/-- The check of sources for late errors goes through them one after the other (R18). -/
theorem Drover.unlessLate_append {α : Type} (d : Drover) (l m : List (BitVec 5)) (k : Res α) :
    d.unlessLate (l ++ m) k = d.unlessLate l (d.unlessLate m k) := by
  unfold Drover.unlessLate
  rw [List.findSome?_append]
  cases l.findSome? fun r => (look d.board.late r.toNat).map fun e => (r, e) <;> rfl

/-- Three sources, the last a register, that could be read hold no late error. -/
theorem Drover.unlessLate_of_read3 {α : Type} {d d1 d2 : Drover} {u : Nat} {a b r : BitVec 5} {x y z : Word}
    (hread : d.read2 u a b = .ok (x, y, d1)) (hr : r.toNat < 28) (hlast : d1.readX u r = .ok (z, d2)) (k : Res α) :
    d.unlessLate [a, b, r] k = k := by
  obtain ⟨⟨x1, da⟩, ha, hrest⟩ := Res.bind_eq_ok (Drover.unlessLate_eq_ok hread)
  obtain ⟨⟨y1, db⟩, hb, hpair⟩ := Res.bind_eq_ok hrest
  cases hpair
  have hlate : look d.board.late r.toNat = none := by
    rw [← Drover.readX_late ha, ← Drover.readX_late hb]
    exact Drover.readX_late_none hr hlast
  rw [show [a, b, r] = [a, b] ++ [r] from rfl, Drover.unlessLate_append, Drover.unlessLate_of_ok rfl hread,
    Drover.unlessLate_cons hlate]
  rfl

end Sys2Proof.Machine

namespace Sys2Proof.Claims

open Sys2Proof.Machine

/-! ## The operand forms -/

section

variable {s : State} {dr d1 d2 : Drover} {i : Instr} {op n : Nat} {d a b : BitVec 5} {x y z : Word} {w : BitVec 1}
  {sc : BitVec 3} {o : BitVec 2} {l : Leaf}

theorem issued_amo (h : Ready2d s dr d1 d a b x y) (hi : exec i s = s.amo i op d a b sc o) (hn : Instr.bytes i = 4)
    (hm : MayAccess s dr x (askAmo (.amo op) 8 sc o d.toNat y 0) l) :
    Issued s dr d1 i 4 (.amo op) x l 8 y 0 (o.getLsbD 0) (o.getLsbD 1) sc.toNat (some d) := by
  obtain ⟨hc, hsrc, hdst, -, hread⟩ := h
  refine issued_pendOn hc (Drover.read2_sameBut hread) hi hn ?_ hm rfl
  rw [hsrc, hdst, hread]; rfl

theorem issued_red (h : Reads2d s dr d1 a b x y) (hi : exec i s = s.red i op w a b sc o) (hn : Instr.bytes i = 4)
    (hm : MayAccess s dr x (askAmo (.red op (w == 1)) (if w = 1 then 4 else 8) sc o 0 y 0) l) :
    Issued s dr d1 i 4 (.red op (w == 1)) x l (if w = 1 then 4 else 8) y 0 (o.getLsbD 0) (o.getLsbD 1) sc.toNat none := by
  obtain ⟨hc, hsrc, hread⟩ := h
  refine issued_pendNone hc (Drover.read2_sameBut hread) hi hn ?_ hm rfl
  rw [hsrc, hread]; rfl

/-- An atomic that reads its destination too: the late errors of all three sources come before any is read (R105, R128). -/
theorem issued_casLike {k : Word → Word → Ask} {q : Word} (h : ReadsCas s dr d1 d2 d a b x y z)
    (hi : exec i s = s.casLike i d a b k) (hn : Instr.bytes i = n) (hm : MayAccess s dr x (k y z) l)
    (hw : (k y z).words = [q]) :
    Issued s dr d2 i n (k y z).kind x l (k y z).size q (k y z).data2 (k y z).acq (k y z).rel (k y z).scope (some d) := by
  obtain ⟨hc, hsrc, hdst, hd, hread, hread'⟩ := h
  refine issued_pendOn hc ((Drover.read2_sameBut hread).trans (Drover.readX_sameBut hread')) hi hn ?_ hm hw
  rw [hsrc, hdst, unlessStall_none, unlessStall_none, Drover.unlessLate_of_read3 hread hd hread', hread]
  simp only [Res.ok_bind, hread']

end

/-! ## The statements -/

/-- R127, R128: each returning atomic has one operand form, with its operation's number. -/
theorem returningAtomicsIssue : ReturningAtomicsIssue := by
  intro s dr d1 d2 d a b x y z sc o l
  refine ⟨fun h i op hi hm => ?amo, fun h hm => ?cas⟩
  case cas => exact issued_casLike (k := fun y c => askAmo .amoCas 8 sc o d.toNat y c) h rfl rfl hm rfl
  have form : ∀ p ∈ [(Instr.amoSwap d a b sc o, 0), (.amoAdd d a b sc o, 1), (.amoAnd d a b sc o, 2), (.amoOr d a b sc o, 3),
      (.amoXor d a b sc o, 4), (.amoMin d a b sc o, 5), (.amoMax d a b sc o, 6), (.amoMinu d a b sc o, 7),
      (.amoMaxu d a b sc o, 8), (.amoFadd d a b sc o, 9)],
      exec p.1 s = s.amo p.1 p.2 d a b sc o ∧ Instr.bytes p.1 = 4 := by
    intro p hp
    fin_cases hp <;> exact ⟨rfl, rfl⟩
  obtain ⟨hexec, hbytes⟩ := form _ hi
  exact issued_amo h hexec hbytes hm

/-- R129: the reductions likewise, at the width that W selects. -/
theorem reductionsIssue : ReductionsIssue := by
  intro s dr d1 a b x y w sc o l i op h hi hm
  have form : ∀ p ∈ [(Instr.redAdd w a b sc o, 0), (.redAnd w a b sc o, 1), (.redOr w a b sc o, 2), (.redXor w a b sc o, 3),
      (.redMin w a b sc o, 4), (.redMax w a b sc o, 5), (.redMinu w a b sc o, 6), (.redMaxu w a b sc o, 7),
      (.redFadd w a b sc o, 8), (.redFmin w a b sc o, 9), (.redFmax w a b sc o, 10)],
      exec p.1 s = s.red p.1 p.2 w a b sc o ∧ Instr.bytes p.1 = 4 := by
    intro p hp
    fin_cases hp <;> exact ⟨rfl, rfl⟩
  obtain ⟨hexec, hbytes⟩ := form _ hi
  exact issued_red h hexec hbytes hm

/-- R134, R136: eight bytes of code each; CAS reads its destination, DECZ has one source, ADDGE two. -/
theorem continuationsIssue : ContinuationsIssue := by
  intro s dr d1 d2 d a b x y z sc o t g l
  refine ⟨fun h hm => ?cas, fun ⟨hc, hsrc, hdst, _, hread⟩ hm => ?decz,
    fun ⟨hc, hsrc, hdst, _, hread⟩ hm => ?addge⟩
  case cas => exact issued_casLike (k := fun y c => askCont .amocCas 8 sc o d.toNat y c t g) h rfl rfl hm rfl
  case decz =>
    refine issued_pendOn (a := askCont .amocDecz 8 sc o d.toNat 0 0 t g) hc (Drover.readX_sameBut hread) rfl rfl ?_ hm rfl
    rw [hsrc, hdst, hread]; rfl
  case addge =>
    refine issued_pendOn (a := askCont .amocAddge 16 sc o d.toNat y 0 t g) hc (Drover.read2_sameBut hread) rfl rfl ?_ hm rfl
    rw [hsrc, hdst, hread]; rfl

/-- Settles O7: every atomic enters its ask with its operands in their roles (`issued_amo`, `issued_red`, `issued_casLike`,
`issued_pendOn`). -/
theorem atomicsIssue : Obligations.AtomicsIssue := ⟨returningAtomicsIssue, reductionsIssue, continuationsIssue⟩

end Sys2Proof.Claims
end

section
/-!
SUPPORT. Group operations at issue (R146 to R150): the group table of an expedition, a task's own state in a group, arrivals
and waits; one rule for an instruction that gives a word, whether it changes its drover alone or more of the chip.
-/

namespace Sys2Proof.Machine

open Sys2Proof.Claims

/-- An instruction that changes its drover alone is one that leaves the rest of the chip as it is. -/
theorem State.drove_eq_drives (s : State) (i : Instr) (f : Drover → Res Drover) :
    s.drove i f = s.drives i fun d => (f d).bind fun d' => .ok (s.chip, d') := by
  unfold State.drove State.issues State.drives
  cases s.cur? with
  | none => rfl
  | some d => dsimp only; cases f d <;> rfl

/-! ## The group table (R147, R150) -/

section

variable {c c' : Chip} {e g : Nat} {v w : Group} {x : Expedition}

theorem Chip.group?_congr (h : c'.sched = c.sched) (e g : Nat) : c'.group? e g = c.group? e g := by
  simp only [Chip.group?, Chip.exp?, h]

theorem Chip.group?_of_exp? (h : c.exp? e = some x) (g : Nat) : c.group? e g = look x.groups g := by
  simp only [Chip.group?, h]

theorem Chip.exp?_of_group? (h : c.group? e g = some v) : ∃ x, c.exp? e = some x ∧ look x.groups g = some v := by
  unfold Chip.group? at h
  split at h
  case h_1 => cases h
  case h_2 x hx => exact ⟨x, hx, h⟩

theorem Chip.exp?_onExp (c : Chip) (e : Nat) (f : Expedition → Expedition) : (c.onExp e f).exp? e = (c.exp? e).map f := by
  simp [Chip.onExp, Chip.onSched, Chip.exp?, look_upd]

theorem Chip.group?_onExp (h : c.exp? e = some x) (f : Expedition → Expedition) (g : Nat) :
    (c.onExp e f).group? e g = look (f x).groups g :=
  Chip.group?_of_exp? (by rw [Chip.exp?_onExp, h]; rfl) g

theorem Chip.group?_setGroup (h : c.exp? e = some x) (g : Nat) (w : Group) : (c.setGroup e g w).group? e g = some w := by
  rw [Chip.setGroup, Chip.group?_onExp h, look_put_same]

theorem Group.busy_iff : v.busy = true ↔ underWay v := by
  simp [Group.busy, underWay, or_assoc]

/-- GALLOC takes the lowest entry that is free (R150). -/
theorem freeGroup_eq_some {n : Nat} (hn : n < 256) (hfree : look x.groups n = none)
    (hbelow : ∀ j, j < n → look x.groups j ≠ none) : freeGroup x = some n := by
  rw [freeGroup, List.find?_range_eq_some]
  refine ⟨by rw [hfree]; rfl, List.mem_range.2 hn, fun j hj => ?_⟩
  simpa [Option.isSome_iff_ne_none] using hbelow j hj

theorem freeGroup_eq_none (h : ∀ j, j < 256 → look x.groups j ≠ none) : freeGroup x = none := by
  rw [freeGroup, List.find?_eq_none]
  intro j hj
  simpa using h j (List.mem_range.1 hj)

end

/-! ## A task's own state in a group (R149) -/

section

variable {d d' d1 : Drover} {u : Nat} {r a b : BitVec 5} {v x y : Word} {m : Member}

/-- Reading a source changes no membership. -/
theorem Drover.readX_members (h : d.readX u r = .ok (v, d')) : d'.members = d.members := by
  unfold Drover.readX at h
  split at h
  case isTrue =>
    split at h
    case h_1 => cases h
    case h_2 => split at h <;> cases h <;> rfl
  case isFalse =>
    split at h
    case isTrue =>
      split at h <;> cases h
      split <;> rfl
    case isFalse =>
      split at h
      case isTrue => split at h <;> cases h; rfl
      case isFalse =>
        split at h
        case isTrue => split at h <;> cases h; rfl
        case isFalse => cases h

theorem Drover.read2_members (h : d.read2 u a b = .ok (x, y, d1)) : d1.members = d.members := by
  obtain ⟨⟨x1, da⟩, ha, hrest⟩ := Res.bind_eq_ok (Drover.unlessLate_eq_ok h)
  obtain ⟨⟨y1, db⟩, hb, hpair⟩ := Res.bind_eq_ok hrest
  cases hpair
  exact (Drover.readX_members hb).trans (Drover.readX_members ha)

/-- Two sources of which the second is x0 read as one, and the second as zero. -/
theorem Drover.readX_of_read2_zero (h : d.read2 u a 0 = .ok (x, y, d1)) : ∃ da, d.readX u a = .ok (x, da) ∧ y = 0 := by
  obtain ⟨⟨x1, da⟩, ha, hrest⟩ := Res.bind_eq_ok (Drover.unlessLate_eq_ok h)
  obtain ⟨⟨y1, db⟩, hb, hpair⟩ := Res.bind_eq_ok hrest
  cases hpair
  refine ⟨da, ha, ?_⟩
  unfold Drover.readX at hb
  rw [if_pos (by decide)] at hb
  split at hb
  case h_1 => cases hb
  case h_2 => split at hb <;> cases hb <;> exact Regs.getX_zero _

theorem memberFail_number (h : 256 ≤ x.toNat) : memberFail d x = some 1 := if_pos h

theorem memberFail_stranger (hx : x.toNat < 256) (h : look d.members x.toNat = none) : memberFail d x = some 2 := by
  simp [memberFail, Drover.member, h, Nat.not_le.2 hx]

theorem memberFail_member (hx : x.toNat < 256) (h : look d.members x.toNat = some m) : memberFail d x = none := by
  simp [memberFail, Drover.member, h, Nat.not_le.2 hx]

theorem arriveFail_of_memberFail {n : Nat} (h : memberFail d x = some n) : arriveFail d x = some n := by
  simp [arriveFail, h]

theorem arriveFail_member (hx : x.toNat < 256) (h : look d.members x.toNat = some m) :
    arriveFail d x = if m.arrived then some 3 else none := by
  simp [arriveFail, memberFail_member hx h, Drover.member, h]

/-! ## Posting -/

/-- The drover with its arrival in a group over. -/
def Drover.leaves (d : Drover) (g : Nat) : Drover := { d with members := upd d.members g fun _ => Member.idle }

/-- The drover with the arrival and the wait of a GBAR posted, and its destination pending on the phase (R149). -/
def Drover.postBarrier (d : Drover) (u g : Nat) (acq rel : Bool) (scope : Nat) (r : BitVec 5) : Drover :=
  ((d.postArrival u g true rel scope r.toNat).postWait g { u := u, rd := r.toNat, acq := acq, scope := scope }).pendX r
    (.group g)

/-- An arrival stands behind the drover's accesses, with its order. -/
theorem Drover.postArrival_accs (d : Drover) (u g : Nat) (waits rel : Bool) (scope rd : Nat) :
    ∃ e : Access, (d.postArrival u g waits rel scope rd).mem.accs = d.mem.accs ++ [e] ∧ e.kind = .arrive g waits ∧
      e.rel = rel ∧ e.scope = scope ∧ e.phase = .queued := by
  cases rel <;> exact ⟨_, rfl, rfl, rfl, rfl, rfl⟩

@[simp] theorem Drover.postArrival_regs (d : Drover) (u g : Nat) (waits rel : Bool) (scope rd : Nat) :
    (d.postArrival u g waits rel scope rd).regs = d.regs := by cases rel <;> rfl

@[simp] theorem Drover.postArrival_ctl (d : Drover) (u g : Nat) (waits rel : Bool) (scope rd : Nat) :
    (d.postArrival u g waits rel scope rd).ctl = d.ctl := by cases rel <;> rfl

theorem Drover.look_members_postArrival {g : Nat} (h : look d.members g = some m) (u : Nat) (waits rel : Bool)
    (scope rd : Nat) : look (d.postArrival u g waits rel scope rd).members g = some { Member.idle with arrived := true } := by
  cases rel <;> simp [Drover.postArrival, look_upd, h]

@[simp] theorem Drover.postWait_regs (d : Drover) (g : Nat) (w : PhaseWait) : (d.postWait g w).regs = d.regs := rfl

@[simp] theorem Drover.postWait_ctl (d : Drover) (g : Nat) (w : PhaseWait) : (d.postWait g w).ctl = d.ctl := rfl

@[simp] theorem Drover.pendX_regs (d : Drover) (r : BitVec 5) (w : Await) : (d.pendX r w).regs = d.regs := by
  unfold Drover.pendX; split <;> rfl

@[simp] theorem Drover.pendX_ctl (d : Drover) (r : BitVec 5) (w : Await) : (d.pendX r w).ctl = d.ctl := by
  unfold Drover.pendX; split <;> rfl

@[simp] theorem Drover.pendX_mem (d : Drover) (r : BitVec 5) (w : Await) : (d.pendX r w).mem = d.mem := by
  unfold Drover.pendX; split <;> rfl

theorem Drover.look_pend_pendX (d : Drover) (h : r ≠ 0) (w : Await) : look (d.pendX r w).board.pend r.toNat = some w := by
  rw [Drover.pendX, if_neg fun e => h ((toNat_eq_zero_iff r).1 e)]
  exact look_put_same ..

@[simp] theorem Drover.postBarrier_regs (d : Drover) (u g : Nat) (acq rel : Bool) (scope : Nat) (r : BitVec 5) :
    (d.postBarrier u g acq rel scope r).regs = d.regs := by simp [Drover.postBarrier]

@[simp] theorem Drover.postBarrier_ctl (d : Drover) (u g : Nat) (acq rel : Bool) (scope : Nat) (r : BitVec 5) :
    (d.postBarrier u g acq rel scope r).ctl = d.ctl := by simp [Drover.postBarrier]

/-- The wait stands behind the arrival. -/
theorem Drover.postBarrier_accs (d : Drover) (u g : Nat) (acq rel : Bool) (scope : Nat) (r : BitVec 5) :
    ∃ e w : Access, (d.postBarrier u g acq rel scope r).mem.accs = d.mem.accs ++ [e, w] ∧ e.kind = .arrive g true ∧
      e.rel = rel ∧ e.scope = scope ∧ e.phase = .queued ∧ w.kind = .phase g ∧ w.acq = acq := by
  obtain ⟨e, haccs, he⟩ := d.postArrival_accs u g true rel scope r.toNat
  obtain ⟨hkind, hrel, hscope, hphase⟩ := he
  refine ⟨e, { (d.postArrival u g true rel scope r.toNat).postless (.phase g) acq false scope r.toNat with
    phase := .replied }, ?_, hkind, hrel, hscope, hphase, rfl, rfl⟩
  rw [List.append_cons, ← haccs, Drover.postBarrier, Drover.pendX_mem]
  rfl

end

end Sys2Proof.Machine

namespace Sys2Proof.Claims

open Sys2Proof.Machine

/-! ## Instructions that go on, and that give a word -/

section

variable {s : State} {dr d1 d2 : Drover} {i j : Instr} {d a b : BitVec 5} {x y v : Word} {c : Chip} {r : Nat}
  {P : State → Drover → Prop}

/-- An instruction of four bytes that commits a drover with the registers and control registers it had. -/
theorem goes_of_drives {f : Drover → Res (Chip × Drover)} (hc : s.cur? = some dr) (hi : exec i s = s.drives j f)
    (hb : Instr.bytes j = 4) (hf : f dr = .ok (c, d2)) (hpc : d2.regs.pc = dr.regs.pc) (hp : d2.regs.p = dr.regs.p)
    (hd : d2.regs.d = dr.regs.d) (hctl : d2.ctl = dr.ctl) (hP : ∀ t, t.chip.sched = c.sched → P t (d2.retire 4)) :
    Goes s dr i P := by
  have hcommit := hi.trans (State.drives_ok hc hf)
  rw [hb] at hcommit
  refine ⟨_, _, hcommit, State.commit_cur? .., rfl, rfl, ?_, hp, hd, ?_, hP _ (State.commit_logged _ dr _).sched⟩
  · rw [Drover.retire_pc, hpc]; rfl
  · rw [← hctl]; rfl

/-- One that gives a word to its destination. -/
theorem gives_of_drives {f : Drover → Res (Chip × Drover)} (hc : s.cur? = some dr) (hi : exec i s = s.drives j f)
    (hb : Instr.bytes j = 4) (hf : f dr = .ok (c, d2.writeX d v)) (hregs : d2.regs = dr.regs) (hctl : d2.ctl = dr.ctl)
    (hP : ∀ t, t.chip.sched = c.sched → P t ((d2.writeX d v).retire 4)) : Gives s dr i d v P := by
  refine goes_of_drives hc hi hb hf ?_ ?_ ?_ hctl fun t ht => ⟨fun n _ => ?_, hP t ht⟩
  · rw [Drover.writeX_regs, Regs.setX_pc, hregs]
  · rw [Drover.writeX_regs, Regs.setX_p, hregs]
  · rw [Drover.writeX_regs, Regs.setX_d, hregs]
  · exact (Regs.getX_setX ..).trans (by rw [hregs])

theorem gives_of_drove {f : Drover → Res Drover} (hc : s.cur? = some dr) (hi : exec i s = s.drove j f)
    (hb : Instr.bytes j = 4) (hf : f dr = .ok (d2.writeX d v)) (hregs : d2.regs = dr.regs) (hctl : d2.ctl = dr.ctl)
    (hP : ∀ t, P t ((d2.writeX d v).retire 4)) : Gives s dr i d v P :=
  gives_of_drives hc (hi.trans (State.drove_eq_drives ..)) hb (by rw [hf]; rfl) hregs hctl fun t _ => hP t

/-- An operation on the group table with one operand (R146). -/
theorem gives_of_onGroup1 {f : Option Nat → Word → Word → Drover → Res (Chip × Drover)} (h : Ready1d s dr d1 d a x)
    (hi : exec i s = s.onGroup j d [a] f a 0) (hb : Instr.bytes j = 4)
    (hf : f (s.chip.groupExp dr) x 0 d1 = .ok (c, d1.writeX d v))
    (hP : ∀ t d', t.chip.sched = c.sched → P t d') : Gives s dr i d v P := by
  obtain ⟨hc, hsrc, hdst, -, hread⟩ := h
  have hs := Drover.readX_sameBut hread
  refine gives_of_drives hc hi hb (Eq.trans ?_ hf) hs.regs hs.ctl fun t ht => hP t _ ht
  rw [hsrc, hdst, if_pos rfl, hread]; rfl

/-- One with two operands; the second may be x0. -/
theorem gives_of_onGroup2 {f : Option Nat → Word → Word → Drover → Res (Chip × Drover)} (h : Ready2d s dr d1 d a b x y)
    (hi : exec i s = s.onGroup j d [a, b] f a b) (hb : Instr.bytes j = 4)
    (hf : ∀ d', f (s.chip.groupExp dr) x y d' = .ok (c, d'.writeX d v))
    (hP : ∀ t d', t.chip.sched = c.sched → P t d') : Gives s dr i d v P := by
  obtain ⟨hc, hsrc, hdst, -, hread⟩ := h
  by_cases h0 : b = 0
  · subst h0
    obtain ⟨da, ha, rfl⟩ := Drover.readX_of_read2_zero hread
    have hs := Drover.readX_sameBut ha
    refine gives_of_drives hc hi hb (Eq.trans ?_ (hf da)) hs.regs hs.ctl fun t ht => hP t _ ht
    rw [hsrc, hdst, if_pos rfl, ha]; rfl
  · have hs := Drover.read2_sameBut hread
    refine gives_of_drives hc hi hb (Eq.trans ?_ (hf d1)) hs.regs hs.ctl fun t ht => hP t _ ht
    rw [hsrc, hdst, if_neg h0, hread]; rfl

end

/-! ## Arrivals and waits (R147, R149) -/

section

variable {s : State} {dr d1 : Drover} {d a : BitVec 5} {x : Word} {m : Member} {r : Nat} (h : Ready1d s dr d1 d a x)
  (sc : BitVec 3) (o : BitVec 2)

include h

theorem garrive_refused (hr : arriveFail d1 x = some r) : Gives s dr (.garrive d a sc o) d (refusal r) any := by
  obtain ⟨hc, hsrc, hdst, -, hread⟩ := h
  have hs := Drover.readX_sameBut hread
  refine gives_of_drove (d2 := d1) hc rfl rfl ?_ hs.regs hs.ctl fun _ => trivial
  rw [hsrc, hdst, hread]
  simp only [unlessStall_none, Res.ok_bind, hr]; rfl

theorem gbar_refused (hr : arriveFail d1 x = some r) : Gives s dr (.gbar d a sc o) d (refusal r) any := by
  obtain ⟨hc, hsrc, hdst, -, hread⟩ := h
  have hs := Drover.readX_sameBut hread
  refine gives_of_drove (d2 := d1) hc rfl rfl ?_ hs.regs hs.ctl fun _ => trivial
  rw [hsrc, hdst, hread]
  simp only [unlessStall_none, Res.ok_bind, hr]; rfl

theorem gwait_refused (hr : memberFail d1 x = some r) : Gives s dr (.gwait d a sc o) d (refusal r) any := by
  obtain ⟨hc, hsrc, hdst, -, hread⟩ := h
  have hs := Drover.readX_sameBut hread
  refine gives_of_drives (d2 := d1) (c := s.chip) hc rfl rfl ?_ hs.regs hs.ctl fun _ _ => trivial
  rw [hsrc, hdst, hread]
  simp only [unlessStall_none, Res.ok_bind, hr]; rfl

section

variable (hx : x.toNat < 256) (hm : look dr.members x.toNat = some m)

include hx hm

/-- The arrival of a member that has none outstanding. -/
theorem garrive_posts (hidle : m.arrived = false) (hroom : dr.writesHeld < 32) :
    Gives s dr (.garrive d a sc o) d 0 fun _ d' => ∃ (e : Access), d'.mem.accs = d1.mem.accs ++ [e] ∧
      e.kind = .arrive x.toNat false ∧ e.rel = o.getLsbD 1 ∧ e.scope = sc.toNat ∧ e.phase = .queued ∧
      (look d'.members x.toNat).map (·.arrived) = some true := by
  obtain ⟨hc, hsrc, hdst, -, hread⟩ := h
  have hs := Drover.readX_sameBut hread
  rw [← Drover.readX_members hread] at hm
  obtain ⟨e, haccs, hkind, hrel, hscope, hphase⟩ := d1.postArrival_accs s.focus x.toNat false (o.getLsbD 1) sc.toNat 0
  refine gives_of_drove (d2 := d1.postArrival s.focus x.toNat false (o.getLsbD 1) sc.toNat 0) hc rfl rfl ?_
    (by rw [Drover.postArrival_regs, hs.regs]) (by rw [Drover.postArrival_ctl, hs.ctl])
    fun _ => ⟨e, haccs, hkind, hrel, hscope, hphase, ?_⟩
  · rw [hsrc, hdst, hread]
    simp [arriveFail_member hx hm, hidle, Nat.not_le.2 hroom]
  · rw [Drover.retire_members, Drover.writeX_members, Drover.look_members_postArrival hm]; rfl

/-- GBAR posts the arrival and, behind it, the wait that holds younger accesses. -/
theorem gbar_posts (hidle : m.arrived = false) (hroom : dr.writesHeld < 32) :
    Goes s dr (.gbar d a sc o) fun _ d' => ∃ (e w : Access), d'.mem.accs = d1.mem.accs ++ [e, w] ∧ d'.regs.x = dr.regs.x ∧
      e.kind = .arrive x.toNat true ∧ e.rel = o.getLsbD 1 ∧ e.scope = sc.toNat ∧ e.phase = .queued ∧ w.kind = .phase x.toNat ∧
      w.acq = o.getLsbD 0 ∧ (d ≠ 0 → look d'.board.pend d.toNat = some (.group x.toNat)) := by
  obtain ⟨hc, hsrc, hdst, -, hread⟩ := h
  have hs := Drover.readX_sameBut hread
  rw [← Drover.readX_members hread] at hm
  obtain ⟨e, w, haccs, hkind, hrel, hscope, hphase, hwait, hacq⟩ :=
    d1.postBarrier_accs s.focus x.toNat (o.getLsbD 0) (o.getLsbD 1) sc.toNat d
  have hregs := (d1.postBarrier_regs s.focus x.toNat (o.getLsbD 0) (o.getLsbD 1) sc.toNat d).trans hs.regs
  refine goes_of_drives (d2 := d1.postBarrier s.focus x.toNat (o.getLsbD 0) (o.getLsbD 1) sc.toNat d) (c := s.chip) hc
    (State.drove_eq_drives ..) rfl ?_ (by rw [hregs]) (by rw [hregs]) (by rw [hregs])
    (by rw [Drover.postBarrier_ctl, hs.ctl])
    fun _ _ => ⟨e, w, haccs, by rw [Drover.retire_x, hregs], hkind, hrel, hscope, hphase, hwait, hacq,
      fun hd => Drover.look_pend_pendX _ hd _⟩
  rw [hsrc, hdst, hread]
  simp [arriveFail_member hx hm, hidle, Nat.not_le.2 hroom, Drover.postBarrier]

/-! ### GWAIT (R149) -/

/-- A wait of a member that has not arrived. -/
theorem gwait_notArrived (harr : m.arrived = false) : Gives s dr (.gwait d a sc o) d (refusal 4) any := by
  obtain ⟨hc, hsrc, hdst, -, hread⟩ := h
  have hs := Drover.readX_sameBut hread
  rw [← Drover.readX_members hread] at hm
  refine gives_of_drives (d2 := d1) (c := s.chip) hc rfl rfl ?_ hs.regs hs.ctl fun _ _ => trivial
  rw [hsrc, hdst, hread]
  simp only [unlessStall_none, Res.ok_bind, memberFail_member hx hm, Drover.member, hm, harr]
  rfl

/-- A wait for an arrival that was dropped at a freed entry. -/
theorem gwait_freed (harr : m.arrived = true) (hfreed : m.freed = true) : Gives s dr (.gwait d a sc o) d (refusal 1) any := by
  obtain ⟨hc, hsrc, hdst, -, hread⟩ := h
  have hs := Drover.readX_sameBut hread
  rw [← Drover.readX_members hread] at hm
  refine gives_of_drives (d2 := d1.leaves x.toNat) (c := s.chip) hc rfl rfl ?_ hs.regs hs.ctl fun _ _ => trivial
  rw [hsrc, hdst, hread]
  simp only [unlessStall_none, Res.ok_bind, memberFail_member hx hm, Drover.member, hm, harr, hfreed]
  rfl

/-- A wait for a phase that is complete. -/
theorem gwait_gives {w : Word} (harr : m.arrived = true) (hfreed : m.freed = false) (hres : m.result = some w) :
    Gives s dr (.gwait d a sc o) d w fun _ d' => (look d'.members x.toNat).map (·.arrived) = some false := by
  obtain ⟨hc, hsrc, hdst, -, hread⟩ := h
  have hs := Drover.readX_sameBut hread
  rw [← Drover.readX_members hread] at hm
  have hmember : look (d1.leaves x.toNat).members x.toNat = some Member.idle := by simp [Drover.leaves, look_upd, hm]
  cases hacq : o.getLsbD 0
  case false =>
    refine gives_of_drives (d2 := d1.leaves x.toNat) (c := s.chip) hc rfl rfl ?_ hs.regs hs.ctl fun _ _ => ?_
    · rw [hsrc, hdst, hread]
      simp only [unlessStall_none, Res.ok_bind, memberFail_member hx hm, Drover.member, hm, harr, hfreed, hres, hacq]
      rfl
    · rw [Drover.retire_members, Drover.writeX_members, hmember]; rfl
  case true =>
    refine gives_of_drives (d2 := (d1.leaves x.toNat).acquire s.focus
      (s.chip.learns s.focus (d1.leaves x.toNat) sc.toNat m.rels)) (c := s.chip) hc rfl rfl ?_ hs.regs hs.ctl fun _ _ => ?_
    · rw [hsrc, hdst, hread]
      simp only [unlessStall_none, Res.ok_bind, memberFail_member hx hm, Drover.member, hm, harr, hfreed, hres, hacq]
      rfl
    · rw [Drover.retire_members, Drover.writeX_members, Drover.acquire_members, hmember]; rfl

/-- A wait for a phase that is not: the group keeps the waiter. -/
theorem gwait_waits {g : Group} (harr : m.arrived = true) (hfreed : m.freed = false) (hres : m.result = none)
    (hg : s.chip.group? dr.exp x.toNat = some g) :
    Goes s dr (.gwait d a sc o) fun t d' => d'.regs.x = dr.regs.x ∧
      (d ≠ 0 → look d'.board.pend d.toNat = some (.group x.toNat)) ∧
      (t.chip.group? dr.exp x.toNat).map (·.waiters) = some (g.waiters ++
        [({ u := s.focus, rd := d.toNat, acq := o.getLsbD 0, scope := sc.toNat } : PhaseWait)]) := by
  obtain ⟨hc, hsrc, hdst, -, hread⟩ := h
  have hs := Drover.readX_sameBut hread
  rw [← Drover.readX_members hread] at hm
  obtain ⟨e, he, hge⟩ := Chip.exp?_of_group? hg
  refine goes_of_drives (d2 := (d1.postWait x.toNat { u := s.focus, rd := d.toNat, acq := o.getLsbD 0, scope := sc.toNat }).pendX
      d (.group x.toNat)) hc rfl rfl
    (by rw [hsrc, hdst, hread]
        simp only [unlessStall_none, Res.ok_bind, memberFail_member hx hm, Drover.member, hm, harr, hfreed, hres]
        rfl)
    (by simp [hs.regs]) (by simp [hs.regs]) (by simp [hs.regs]) (by simp [hs.ctl])
    fun t ht => ⟨by simp [hs.regs], fun hd => Drover.look_pend_pendX _ hd _, ?_⟩
  rw [Chip.group?_congr ht, Chip.group?_onExp he, look_upd, if_pos rfl, hge]
  rfl

end

end

/-- R147, R149: the checks of an operation in their order, then what it posts or answers. -/
theorem groupArrivals : GroupArrivals := by
  intro s dr d1 d a x sc o m w h
  obtain ⟨-, -, -, -, hread⟩ := id h
  have hmem := Drover.readX_members hread
  refine ⟨fun hx => ?number, fun hx hm => ?stranger, fun hx hm => ⟨fun harr => ?twice, fun harr => ?notArrived,
    fun harr hroom => ⟨garrive_posts h sc o hx hm harr hroom, gbar_posts h sc o hx hm harr hroom⟩, gwait_freed h sc o hx hm,
    gwait_gives h sc o hx hm, fun harr hfreed hres g hg => gwait_waits h sc o hx hm harr hfreed hres hg⟩⟩
  case number =>
    have hfail : memberFail d1 x = some 1 := memberFail_number hx
    have harr := arriveFail_of_memberFail hfail
    exact ⟨garrive_refused h sc o harr, gbar_refused h sc o harr, gwait_refused h sc o hfail⟩
  case stranger =>
    have hfail : memberFail d1 x = some 2 := memberFail_stranger hx (by rw [hmem, hm])
    have harr := arriveFail_of_memberFail hfail
    exact ⟨garrive_refused h sc o harr, gbar_refused h sc o harr, gwait_refused h sc o hfail⟩
  case twice =>
    have hfail : arriveFail d1 x = some 3 := by rw [arriveFail_member hx (hmem ▸ hm), harr]; rfl
    exact ⟨garrive_refused h sc o hfail, gbar_refused h sc o hfail⟩
  case notArrived => exact gwait_notArrived h sc o hx hm harr

/-! ## The group table (R147, R150) -/

section

variable (d a b : BitVec 5) (s : State)

theorem exec_gset : exec (.gset d a b) s = execGset d a b s := rfl

theorem exec_ginfo : exec (.ginfo d a) s = execGinfo d a s := rfl

theorem exec_gfree : exec (.gfree d a) s = execGfree d a s := rfl

theorem exec_galloc : exec (.galloc d a) s = execGalloc d a s := rfl

end

section

variable {s : State} {dr d1 : Drover} {d a b : BitVec 5} {x y : Word} {e : Nat} {g : Group} {ex : Expedition}
  (he : s.chip.groupExp dr = some e)

include he

/-! ### GSET -/

section

variable (h : Ready2d s dr d1 d a b x y)

include h

theorem gset_noGroup (hg : 256 ≤ x.toNat ∨ s.chip.group? e x.toNat = none) : Gives s dr (.gset d a b) d (refusal 1) any := by
  refine gives_of_onGroup2 (j := .gset d a b) (c := s.chip) h (exec_gset ..) rfl (fun d' => ?_) fun _ _ _ => trivial
  rcases hg with hx | hg
  · simp only [he, Option.bind_some, Nat.not_lt.2 hx, if_false]; rfl
  · simp only [he, Option.bind_some, hg, Option.map_none, ite_self]; rfl

theorem gset_badCount (hx : x.toNat < 256) (hg : s.chip.group? e x.toNat = some g) (hy : y.toNat = 0 ∨ 65535 < y.toNat) :
    Gives s dr (.gset d a b) d (refusal 6) any := by
  refine gives_of_onGroup2 (j := .gset d a b) (c := s.chip) h (exec_gset ..) rfl (fun d' => ?_) fun _ _ _ => trivial
  simp only [he, hx, hg, hy, Option.bind_some, Option.map_some, if_true]; rfl

theorem gset_busy (hx : x.toNat < 256) (hg : s.chip.group? e x.toNat = some g) (h0 : 0 < y.toNat) (h1 : y.toNat ≤ 65535)
    (hbusy : underWay g) : Gives s dr (.gset d a b) d (refusal 5) any := by
  refine gives_of_onGroup2 (j := .gset d a b) (c := s.chip) h (exec_gset ..) rfl (fun d' => ?_) fun _ _ _ => trivial
  have hy : ¬ (y.toNat = 0 ∨ 65535 < y.toNat) := by omega
  simp only [he, hx, hg, hy, Option.bind_some, Option.map_some, if_true, if_false, Group.busy_iff.2 hbusy]; rfl

theorem gset_sets (hx : x.toNat < 256) (hg : s.chip.group? e x.toNat = some g) (h0 : 0 < y.toNat) (h1 : y.toNat ≤ 65535)
    (hidle : ¬ underWay g) :
    Gives s dr (.gset d a b) d 0 fun t _ => ∃ h, t.chip.group? e x.toNat = some h ∧ h.count = y.toNat ∧
      h.departed = 0 ∧ h.depFlag = false ∧ h.phase = g.phase := by
  obtain ⟨ex, hex, -⟩ := Chip.exp?_of_group? hg
  have hy : ¬ (y.toNat = 0 ∨ 65535 < y.toNat) := by omega
  have hbusy : ¬ g.busy = true := fun hb => hidle (Group.busy_iff.1 hb)
  refine gives_of_onGroup2 (j := .gset d a b) h (exec_gset ..) rfl (fun d' => ?_) fun t _ ht => ⟨_, (Chip.group?_congr ht ..).trans
    (Chip.group?_setGroup hex _ { g with count := y.toNat, departed := 0, depFlag := false }), rfl, rfl, rfl, rfl⟩
  simp only [he, hx, hg, hy, hbusy, Option.bind_some, Option.map_some, if_true, if_false]; rfl

end

/-! ### GINFO, GFREE, GALLOC -/

section

variable (h : Ready1d s dr d1 d a x)

include h

theorem ginfo_noGroup (hg : 256 ≤ x.toNat ∨ s.chip.group? e x.toNat = none) :
    Gives s dr (.ginfo d a) d (BitVec.allOnes 64) any := by
  refine gives_of_onGroup1 (j := .ginfo d a) (c := s.chip) h (exec_ginfo ..) rfl ?_ fun _ _ _ => trivial
  rcases hg with hx | hg
  · simp only [he, Option.bind_some, Nat.not_lt.2 hx, if_false]
  · simp only [he, Option.bind_some, hg, ite_self]

theorem ginfo_gives (hx : x.toNat < 256) (hg : s.chip.group? e x.toNat = some g) :
    Gives s dr (.ginfo d a) d (BitVec.ofNat 64 (g.count % 65536 * 2 ^ 48 + g.arrived % 65536 * 2 ^ 32 +
      g.departed * 2 ^ 16 + g.phase.toNat % 65536)) any := by
  refine gives_of_onGroup1 (j := .ginfo d a) (c := s.chip) h (exec_ginfo ..) rfl ?_ fun _ _ _ => trivial
  simp only [he, hx, hg, Option.bind_some, if_true]

theorem gfree_noGroup (hg : 256 ≤ x.toNat ∨ s.chip.group? e x.toNat = none) : Gives s dr (.gfree d a) d (refusal 1) any := by
  refine gives_of_onGroup1 (j := .gfree d a) (c := s.chip) h (exec_gfree ..) rfl ?_ fun _ _ _ => trivial
  rcases hg with hx | hg
  · simp only [he, Option.bind_some, Nat.not_lt.2 hx, if_false]; rfl
  · simp only [he, Option.bind_some, hg, Option.map_none, ite_self]; rfl

theorem gfree_busy (hx : x.toNat < 256) (hg : s.chip.group? e x.toNat = some g) (hbusy : underWay g) :
    Gives s dr (.gfree d a) d (refusal 5) any := by
  refine gives_of_onGroup1 (j := .gfree d a) (c := s.chip) h (exec_gfree ..) rfl ?_ fun _ _ _ => trivial
  simp only [he, hx, hg, Option.bind_some, Option.map_some, if_true, Group.busy_iff.2 hbusy]; rfl

theorem gfree_frees (hx : x.toNat < 256) (hg : s.chip.group? e x.toNat = some g) (hidle : ¬ underWay g) :
    Gives s dr (.gfree d a) d (BitVec.ofNat 64 (b2n g.depFlag * 2 ^ 63)) fun t _ => t.chip.group? e x.toNat = none := by
  obtain ⟨ex, hex, -⟩ := Chip.exp?_of_group? hg
  have hbusy : ¬ g.busy = true := fun hb => hidle (Group.busy_iff.1 hb)
  refine gives_of_onGroup1 (j := .gfree d a) (c := s.chip.onExp e fun y => { y with groups := del y.groups x.toNat }) h (exec_gfree ..) rfl ?_
    fun t _ ht => ?_
  · simp only [he, hx, hg, hbusy, Option.bind_some, Option.map_some, if_true]; rfl
  · rw [Chip.group?_congr ht, Chip.group?_onExp hex, look_del, if_pos rfl]

omit he in
theorem galloc_badCount (hx : x.toNat = 0 ∨ 65535 < x.toNat) : Gives s dr (.galloc d a) d (refusal 6) any := by
  refine gives_of_onGroup1 (j := .galloc d a) (c := s.chip) h (exec_galloc ..) rfl ?_ fun _ _ _ => trivial
  simp only [hx, if_true]; rfl

theorem galloc_takes {n : Nat} (h0 : 0 < x.toNat) (h1 : x.toNat ≤ 65535) (hex : s.chip.exp? e = some ex)
    (hfree : freeGroup ex = some n) :
    Gives s dr (.galloc d a) d (BitVec.ofNat 64 n) fun t _ => ∃ g, t.chip.group? e n = some g ∧ g.count = x.toNat ∧
      g.arrived = 0 ∧ g.phase = 0 ∧ g.departed = 0 ∧ g.depFlag = false := by
  have hx : ¬ (x.toNat = 0 ∨ 65535 < x.toNat) := by omega
  refine gives_of_onGroup1 (j := .galloc d a) (c := s.chip.setGroup e n (Group.fresh x.toNat)) h (exec_galloc ..) rfl ?_
    fun t _ ht => ⟨_, (Chip.group?_congr ht ..).trans (Chip.group?_setGroup hex ..), rfl, rfl, rfl, rfl, rfl⟩
  simp only [he, hx, hex, hfree, Option.bind_some, Option.map_some, if_false]

/-- No entry is free: SYNCRES, with the drover as it was. -/
theorem galloc_traps (h0 : 0 < x.toNat) (h1 : x.toNat ≤ 65535) (hex : s.chip.exp? e = some ex)
    (hfull : freeGroup ex = none) : Trapped s dr (.galloc d a) 0x0F dr.regs.pc 0 := by
  obtain ⟨hc, hsrc, hdst, -, hread⟩ := h
  have hx : ¬ (x.toNat = 0 ∨ 65535 < x.toNat) := by omega
  rw [← (Drover.readX_sameBut hread).regs]
  refine trapped_of_drives (q := { d1.trapAt 0x0F 0 with aux0 := BitVec.ofNat 64 (3 * 2 ^ 13 + d.toNat * 2 ^ 8 + 0x23) })
    hc rfl ?_ Drover.Kept.rfl
  rw [hsrc, hdst, if_pos rfl, hread]
  simp only [unlessStall_none, Res.ok_bind, he, hx, hex, hfull, Option.bind_some, Option.map_none, if_false,
    hc, Option.getD_some]

end

end

/-- R147, R150: each operation finds its entry in the table of the drover's expedition, and changes that entry alone. -/
theorem groupTable : GroupTable := by
  intro s dr d1 d a b x y e he
  refine ⟨fun h => ⟨gset_noGroup he h, fun g hx hg => ⟨gset_badCount he h hx hg, gset_busy he h hx hg, gset_sets he h hx hg⟩⟩,
    fun h => ⟨fun hg => ⟨ginfo_noGroup he h hg, gfree_noGroup he h hg⟩,
      fun g hx hg => ⟨ginfo_gives he h hx hg, gfree_busy he h hx hg, gfree_frees he h hx hg⟩, galloc_badCount h,
      fun ex n h0 h1 hex hn hfree hbelow => galloc_takes he h h0 h1 hex (freeGroup_eq_some hn hfree hbelow),
      fun ex h0 h1 hex hfull => galloc_traps he h h0 h1 hex (freeGroup_eq_none hfull)⟩⟩

/-- Settles O15: the arrivals and waits by a task's state in the group (`garrive_posts`, `gbar_posts`, `gwait_waits`), the table
by its entries (`gives_of_onGroup1`, `gives_of_onGroup2`). -/
theorem groupCommands : Obligations.GroupCommands := ⟨groupArrivals, groupTable⟩

end Sys2Proof.Claims
end

section
/-!
SUPPORT. GCOLL at issue (R151, R152): the checks before its block is read, what the block decides, and the hold.
-/

namespace Sys2Proof.Machine

/-- A group with one more contribution to its collective: an arrival, and the participant's block (R151). -/
def Group.contributed (g : Group) (u rd : Nat) (p : List Byte) : Group :=
  { g with arrived := g.arrived + 1, arrivals := g.arrivals ++ [(u, true)],
           colls := g.colls ++ [{ u := u, rd := rd, param := p }] }

/-- A drover that holds for its collective (R151). -/
def Drover.contributes (d : Drover) (g : Nat) : Drover :=
  { d with hold := .waiting, members := upd d.members g fun m => { m with arrived := true } }

end Sys2Proof.Machine

namespace Sys2Proof.Claims

open Sys2Proof.Machine

section

variable {s : State} {dr d1 : Drover} {d a b : BitVec 5} {x y : Word} {m : Member} {p : List Byte} {c : Chip} {r : Nat}
  (h : Ready2d s dr d1 d a b x y) (hidle : dr.hold = .idle) (sc : BitVec 3)

include h hidle

/-- The arrival is refused before the block is looked at. -/
theorem gcoll_refused (hr : arriveFail d1 x = some r) : Gives s dr (.gcoll d a b sc) d (refusal r) any := by
  obtain ⟨hc, hsrc, hdst, -, hread⟩ := h
  have hs := Drover.read2_sameBut hread
  refine gives_of_drives (d2 := d1) (c := s.chip) hc rfl rfl ?_ hs.regs hs.ctl fun _ _ => trivial
  simp only [hidle, hsrc, hdst, hread, unlessStall_none, Res.ok_bind, hr]; rfl

theorem gcoll_misaligned (hr : arriveFail d1 x = none) (ha : y.toNat % 64 ≠ 0) :
    Trapped s dr (.gcoll d a b sc) 2 dr.regs.pc y := by
  obtain ⟨hc, hsrc, hdst, -, hread⟩ := h
  refine trapped_of_drives (q := dr.trapAt 2 y) (d1 := dr) hc rfl ?_ .rfl
  simp only [hidle, hsrc, hdst, hread, unlessStall_none, Res.ok_bind, hr]
  exact State.block_misaligned s s.chip dr ha _

section

variable (hr : arriveFail d1 x = none) (hblock : BlockIs s s.chip c dr y 64 64 p)

include hr hblock

theorem gcoll_badParam (hbad : collBad p = true) : Gives s dr (.gcoll d a b sc) d (refusal 7) any := by
  obtain ⟨hc, hsrc, hdst, -, hread⟩ := h
  have hs := Drover.read2_sameBut hread
  refine gives_of_drives (d2 := d1) (c := c) hc rfl rfl ?_ hs.regs hs.ctl fun _ _ => trivial
  simp only [hidle, hsrc, hdst, hread, unlessStall_none, Res.ok_bind, hr, State.block_of_blockIs hblock, hbad]; rfl

/-- The contribution is made at the group's home, and the drover holds until it is answered. -/
theorem gcoll_holds {g : Group} (hbad : collBad p = false) (hfault : c.collFault s.focus dr p = none)
    (hbusy : dr.collBusy p = false) (hg : c.group? dr.exp x.toNat = some g) :
    ∃ t d', exec (.gcoll d a b sc) s = .next t ∧ t.cur? = some d' ∧ d'.hold = .waiting ∧ d'.regs = dr.regs ∧
      (t.chip.group? dr.exp x.toNat).map (·.arrived) = some (g.arrived + 1) := by
  obtain ⟨hc, hsrc, hdst, -, hread⟩ := h
  obtain ⟨ex, hex, -⟩ := Chip.exp?_of_group? hg
  refine ⟨_, _, State.drives_hold (c := c.setGroup dr.exp x.toNat (g.contributed s.focus d.toNat p))
    (d' := dr.contributes x.toNat) (b := some 32) hc ?runs, State.commit_cur? .., rfl, rfl, ?group⟩
  case group =>
    rw [Chip.group?_congr (State.commit_logged _ dr _).sched]
    exact congrArg _ (Chip.group?_setGroup hex ..)
  simp only [hidle, hsrc, hdst, hread, unlessStall_none, Res.ok_bind, hr, State.block_of_blockIs hblock, hbad, hfault, hg,
    hbusy]
  rfl

end

end

section

variable {s : State} {dr d1 : Drover} {a b : BitVec 5} {x y w : Word} (hc : s.cur? = some dr) (d : BitVec 5) (sc : BitVec 3)

include hc

/-- The answer has come. -/
theorem gcoll_gives (hhold : dr.hold = .result w) (hread : dr.read2 s.focus a b = .ok (x, y, d1)) :
    Gives s dr (.gcoll d a b sc) d w any := by
  have hs := Drover.read2_sameBut hread
  refine gives_of_drives (d2 := d1) (c := s.chip) hc rfl rfl ?_ hs.regs hs.ctl fun _ _ => trivial
  simp only [hhold, hread, Res.ok_bind]

theorem gcoll_waits (hhold : dr.hold = .waiting) : Waits s dr (.gcoll d a b sc) :=
  waits_of_stalled (State.drives_stall (b := some 32) hc (by simp only [hhold]))

end

/-- Settles O16: the arrival's checks come first (`gcoll_refused`), then the block's (`gcoll_misaligned`, `gcoll_badParam`); a
contribution holds until it is answered (`gcoll_holds`, `gcoll_gives`). -/
theorem collectiveResults : Obligations.CollectiveResults := by
  intro s dr d1 d a b x y sc m p c g
  refine ⟨fun h hidle => ?first, fun hc _ w hw hread => gcoll_gives hc d sc hw hread, fun hc hw => gcoll_waits hc d sc hw⟩
  obtain ⟨-, -, -, -, hread⟩ := id h
  have hmem := Drover.read2_members hread
  refine ⟨fun hx => ?number, fun hx hm => ?stranger, fun hx hm harr => ?twice, fun hx hm harr => ?member⟩
  case number => exact gcoll_refused h hidle sc (arriveFail_of_memberFail (memberFail_number hx))
  case stranger => exact gcoll_refused h hidle sc (arriveFail_of_memberFail (memberFail_stranger hx (by rw [hmem, hm])))
  case twice => exact gcoll_refused h hidle sc (by rw [arriveFail_member hx (hmem ▸ hm), harr]; rfl)
  case member =>
    have hr : arriveFail d1 x = none := by rw [arriveFail_member hx (hmem ▸ hm), harr]; rfl
    refine ⟨gcoll_misaligned h hidle sc hr, fun ha hw hblock => ?_⟩
    have hblock : BlockIs s s.chip (c.dropFar (blockAgent s.focus)) dr y 64 64 p := ⟨ha, hw, c, hblock, rfl⟩
    exact ⟨gcoll_badParam h hidle sc hr hblock, gcoll_holds h hidle sc hr hblock⟩

end Sys2Proof.Claims
end

section
/-!
SUPPORT. Accesses performed at their home (S6 of R268): an event that names an access, what performing one leaves of the
homes, the full/empty accesses with their waiters (R140, R141), and continuation atomics (R133 to R137).
-/

namespace Sys2Proof.Machine

open Sys2Proof.Claims

/-! ## Tags (R27) -/

section

variable {l : List Nat} {i j : Nat} (h : Homes) (pa : Nat)

theorem mem_insertNat : j ∈ insertNat l i ↔ j = i ∨ j ∈ l := by
  induction l with
  | nil => simp [insertNat]
  | cons k l ih =>
    unfold insertNat
    split
    · simp
    · split
      · subst_vars; simp
      · rw [List.mem_cons, List.mem_cons, ih]; tauto

theorem mem_eraseNat : j ∈ eraseNat l i ↔ j ∈ l ∧ j ≠ i := by simp [eraseNat]

@[simp] theorem Homes.tag_setTag (full : Bool) : (h.setTag pa full).tag pa = full := by
  cases full <;> simp [Homes.tag, Homes.setTag, mem_insertNat, mem_eraseNat]

@[simp] theorem Homes.storeBytes_mem (bs : List Byte) : (h.storeBytes pa bs).mem = h.mem.write (canon pa) bs := rfl

@[simp] theorem Homes.storeBytes_waiters (bs : List Byte) : (h.storeBytes pa bs).waiters = h.waiters := rfl

@[simp] theorem Homes.setTag_waiters (full : Bool) : (h.setTag pa full).waiters = h.waiters := rfl

end

/-! ## Performing (R268, R271) -/

section

variable {c : Chip} {u : Nat} {d : Drover} {a : Access}

/-- Homes that differ in what their words release, and in nothing else that an access leaves. -/
structure Homes.Alike (h h' : Homes) : Prop where
  mem : h'.mem = h.mem
  tags : h'.tags = h.tags
  waiters : h'.waiters = h.waiters
  relay : h'.relay = h.relay

theorem Homes.Alike.tag {h h' : Homes} (k : h.Alike h') (pa : Nat) : h'.tag pa = h.tag pa := by
  simp only [Homes.tag, k.tags]

theorem Chip.release_alike (c : Chip) (u : Nat) (d : Drover) (a : Access) : c.homes.Alike (c.release u d a).homes := by
  unfold Chip.release; split <;> exact ⟨rfl, rfl, rfl, rfl⟩

/-- Only a watched page keeps a record of its accesses (R273). -/
theorem Chip.performNoted_unwatched (hw : a.leaf.watched = false) : c.performNoted u d a = c.performAcc u d a := by
  simp [Chip.performNoted, Chip.raceCheck, hw]

/-- A full/empty access that is performed leaves its home as `Homes.perform` does, but for what its word releases. -/
theorem Chip.performAcc_alike (c : Chip) (u : Nat) (d : Drover) (hk : a.kind.isFullEmpty = true) :
    (c.homes.perform a.kind a.pa a.size a.data a.data2).homes.Alike (c.performAcc u d a).homes := by
  have hrel := Chip.release_alike { c with homes := (c.homes.perform a.kind a.pa a.size a.data a.data2).homes } u d a
  suffices hhomes : (c.performAcc u d a).homes =
      ({ c with homes := (c.homes.perform a.kind a.pa a.size a.data a.data2).homes }.release u d a).homes by
    rw [hhomes]; exact hrel
  unfold Chip.performAcc
  cases hkind : a.kind <;> simp [hkind, AccKind.isFullEmpty] at hk ⊢

theorem Homes.perform_waiters {k : AccKind} (hk : k.isFullEmpty = true) (h : Homes) (pa size : Nat) (data data2 : Word) :
    (h.perform k pa size data data2).homes.waiters = h.waiters := by
  cases k <;> simp only [AccKind.isFullEmpty, Bool.false_eq_true] at hk <;> rfl

/-- A load-when-full answers the word that it finds. -/
theorem Chip.performAcc_answers (hk : a.kind = .ldf ∨ a.kind = .ldfe) (hgood : c.homes.anyBad a.pa a.size = false) :
    (c.performAcc u d a).drover? u = some ((d.dropLine a).answer u a.seq
      (a.kind.extend a.size (natOfBytes (c.homes.bytes a.pa a.size))) none none (c.learned u d a)) := by
  unfold Chip.performAcc
  rcases hk with hk | hk <;>
  simp [hk, Homes.perform, Homes.performRead, Homes.lineFor, hgood, Homes.num]

/-! ## Waiters (R141) -/

theorem Chip.serve_of_noWaiter {pa : Nat} (h : noWaiter c pa) (cycle : Nat) : c.serve cycle pa = c := by
  have hnone : (c.homes.waiters.find? fun w => w.word == wordKey pa && c.waiterReady w) = none := by
    rw [List.find?_eq_none]
    intro w hw
    simp [h w hw]
  rw [Chip.serve, Chip.serveWord, hnone]

/-- An access that finds the tag it waits for, where nobody waits for the word. -/
theorem Chip.fullEmpty_performs (hk : a.kind.isFullEmpty = true) (hr : c.homes.feReady a.kind a.pa = true)
    (hw : a.leaf.watched = false) (hn : noWaiter c a.pa) (cycle : Nat) :
    c.fullEmpty cycle u d a = c.performAcc u d a := by
  rw [Chip.fullEmpty, if_pos hr, Chip.performNoted_unwatched hw, Chip.serve_of_noWaiter]
  intro w hmem
  rw [(c.performAcc_alike u d hk).waiters, Homes.perform_waiters hk] at hmem
  exact hn w hmem

/-- One that does not, of a task that lives, where a record is free: it waits behind those that wait already. -/
theorem Chip.fullEmpty_waits (hr : c.homes.feReady a.kind a.pa = false) (halive : ∀ t, c.task? u = some t → t.alive = true)
    (hroom : c.waiterRoom a.pa = true) (cycle : Nat) :
    (c.fullEmpty cycle u d a).homes = { c.homes with waiters := c.homes.waiters ++ [.access (wordKey a.pa) a.pa u a.seq] } := by
  have hdead : ¬ ((c.task? u).any fun t => !t.alive) = true := by
    cases ht : c.task? u with
    | none => simp
    | some t => simp [halive t ht]
  rw [Chip.fullEmpty, if_neg (by simp [hr]), if_neg hdead, if_pos hroom]
  rfl

/-! ## Continuation atomics (R133, R134) -/

theorem Homes.num_lt (h : Homes) (pa : Nat) : h.num pa 8 < 2 ^ 64 := h.mem.natOfBytes_readBytes_lt _ rfl

theorem Homes.word_eq_iff (h : Homes) (pa : Nat) (w : Word) : h.word pa = w ↔ h.num pa 8 = w.toNat := by
  rw [← BitVec.toNat_inj, Homes.word, BitVec.toNat_ofNat, Nat.mod_eq_of_lt (h.num_lt pa)]

/-- DECZ and CAS look at one word, where ADDGE has its threshold beside it. -/
theorem AccKind.cont_of_oneWord {k : AccKind} (hk : k = .amocDecz ∨ k = .amocCas) :
    k.isCont = true ∧ (k == .amocAddge) = false := by
  rcases hk with rfl | rfl <;> exact ⟨rfl, rfl⟩

/-- The homes after a word of a continuation atomic is written. -/
def Homes.contWrite (h : Homes) (pa v : Nat) : Homes := (h.dropCopies pa).writeNum pa 8 v

/-- And its launch put at the end of the relay queue of its slice. -/
def Homes.contLaunch (h : Homes) (pa v : Nat) (l : Launch) : Homes :=
  { h.contWrite pa v with relay := h.relay ++ [(sliceOf pa, l)] }

@[simp] theorem Homes.contWrite_mem (h : Homes) (pa v : Nat) :
    (h.contWrite pa v).mem = h.mem.write (canon pa) (leBytes v 8) := rfl

@[simp] theorem Homes.contWrite_relay (h : Homes) (pa v : Nat) : (h.contWrite pa v).relay = h.relay := rfl

section

variable {k : AccKind} {exp pa : Nat} {b new : Word} {l : Launch} {w : Nat} (hroom : c.homes.relayLen (sliceOf pa) < 64)
  (hgood : c.homes.anyBad pa 8 = false) (hk : (k == .amocAddge) = false)

include hroom hgood hk

/-- The form does not launch. -/
theorem Chip.continuation_stays (hform : contForm k (c.homes.num pa 8) (c.homes.num (pa + 8) 8) b new = (w, false, false)) :
    c.continuation k exp pa b new l = (c.onHomes fun h => h.contWrite pa w, some 0) := by
  simp [Chip.continuation, hroom, hgood, hk, hform]; rfl

/-- It launches: its record stands at the end of the slice's relay queue. -/
theorem Chip.continuation_launches
    (hform : contForm k (c.homes.num pa 8) (c.homes.num (pa + 8) 8) b new = (w, true, false)) :
    c.continuation k exp pa b new l = (c.onHomes fun h => h.contLaunch pa w { l with old := c.homes.word pa },
      some 1) := by
  simp [Chip.continuation, hroom, hgood, hk, hform]; rfl

/-- It underflows, and writes nothing. -/
theorem Chip.continuation_underflows
    (hform : contForm k (c.homes.num pa 8) (c.homes.num (pa + 8) 8) b new = (w, false, true)) :
    c.continuation k exp pa b new l = (c, some 3) := by
  simp [Chip.continuation, hroom, hgood, hk, hform]

end

end

end Sys2Proof.Machine

namespace Sys2Proof.Claims

open Sys2Proof.Machine

/-! ## Events (R268) -/

section

variable {s : State} {u q : Nat} {d : Drover} {a : Access} {i : Instr} {P : Chip → Prop}

/-- An event answers the chip it makes, and changes neither cycle, agenda nor focus. -/
theorem after_of_eventStep {f : Chip → Nat → Chip} (hi : exec i s = s.eventStep f) (hP : P (f s.chip s.cycle)) :
    After s i P := ⟨_, hi, rfl, rfl, rfl, hP⟩

/-- An event that names an access which its drover holds. -/
theorem after_of_withAcc {f : Chip → Nat → Drover → Access → Chip} (h : HasAcc s u q d a) (hi : exec i s = s.withAcc u q f)
    (hP : P (f s.chip s.cycle d a)) : After s i P := by
  obtain ⟨hd, ha⟩ := h
  refine after_of_eventStep hi ?_
  simp only [hd, ha]
  exact hP

/-! ## Full/empty accesses (R140, R141) -/

theorem exec_homeFullEmpty (s : State) (u q : Nat) : exec (.homeFullEmpty u q) s = execHomeFullEmpty u q s := rfl

theorem after_homeFullEmpty (h : AtHome s u q d a) (hk : a.kind.isFullEmpty = true)
    (hP : P (s.chip.fullEmpty s.cycle u d a)) : After s (.homeFullEmpty u q) P := by
  obtain ⟨hacc, harr, hslice, hwrite⟩ := h
  refine after_of_withAcc hacc (exec_homeFullEmpty ..) ?_
  simp only [hk, harr, hslice, hwrite, Bool.and_self, if_true]
  exact hP

/-- One that is performed, where nobody waits for its word: what its kind makes of the homes. -/
theorem after_fullEmpty_performed {k : AccKind} (h : AtHome s u q d a) (hk : a.kind = k) (hfe : k.isFullEmpty = true)
    (hr : s.chip.homes.feReady k a.pa = true) (hw : a.leaf.watched = false) (hn : noWaiter s.chip a.pa)
    (hP : (s.chip.homes.perform k a.pa a.size a.data a.data2).homes.Alike (s.chip.performAcc u d a).homes →
      P (s.chip.performAcc u d a)) : After s (.homeFullEmpty u q) P := by
  subst hk
  exact after_homeFullEmpty h hfe
    (by rw [Chip.fullEmpty_performs hfe hr hw hn]; exact hP (s.chip.performAcc_alike u d hfe))

end

/-- Settles O26: an access whose tag fits is performed (`Chip.fullEmpty_performs`), and leaves the homes that `Homes.perform`
says (`Chip.performAcc_alike`); one whose tag does not waits (`Chip.fullEmpty_waits`). -/
theorem fullEmptyPerformed : Obligations.FullEmptyPerformed := by
  rintro s u q d a _ h rfl hw
  refine ⟨fun hn hgood => ⟨fun hk htag => ?ldf, fun hk htag => ?ldfe, fun hk => ?stores, fun hk => ?sete⟩,
    fun hk hroom halive => ?waits⟩
  case ldf =>
    exact after_fullEmpty_performed h hk rfl htag hw hn fun hl =>
      ⟨(hl.tag a.pa).trans htag, hl.mem, Chip.performAcc_answers (.inl hk) hgood⟩
  case ldfe =>
    exact after_fullEmpty_performed h hk rfl htag hw hn fun hl =>
      ⟨(hl.tag a.pa).trans (Homes.tag_setTag ..), hl.mem, Chip.performAcc_answers (.inr hk) hgood⟩
  case stores =>
    rcases hk with hk | ⟨hk, htag⟩
    · exact after_fullEmpty_performed h hk rfl rfl hw hn fun hl => ⟨(hl.tag a.pa).trans (Homes.tag_setTag ..), hl.mem⟩
    · exact after_fullEmpty_performed h hk rfl (by simp [Homes.feReady, htag]) hw hn fun hl =>
        ⟨(hl.tag a.pa).trans (Homes.tag_setTag ..), hl.mem⟩
  case sete =>
    exact after_fullEmpty_performed h hk rfl rfl hw hn fun hl => ⟨(hl.tag a.pa).trans (Homes.tag_setTag ..), hl.mem⟩
  case waits =>
    have hfe : a.kind.isFullEmpty = true := by rcases hk with ⟨hk | hk, -⟩ | ⟨hk, -⟩ <;> rw [hk] <;> rfl
    have hready : s.chip.homes.feReady a.kind a.pa = false := by
      rcases hk with ⟨hk | hk, htag⟩ | ⟨hk, htag⟩ <;> simp [hk, Homes.feReady, htag]
    refine after_homeFullEmpty h hfe ?_
    rw [Chip.fullEmpty_waits hready halive hroom]
    exact ⟨rfl, rfl, rfl⟩

/-! ## Continuation atomics (R133, R134, R136) -/

theorem exec_homeContinuation (s : State) (u q : Nat) : exec (.homeContinuation u q) s = execHomeContinuation u q s := rfl

section

variable {s : State} {u q : Nat} {d : Drover} {a : Access} {P : Chip → Prop} {w : Nat} (h : AtHome s u q d a)
  (hroom : s.chip.homes.relayLen (sliceOf a.pa) < 64) (hgood : s.chip.homes.anyBad a.pa 8 = false)
  (hk : a.kind = .amocDecz ∨ a.kind = .amocCas)

include h hroom hgood hk

/-- The form does not launch: the word is written, and the status is 0. -/
theorem after_continuation_stays (hw : a.leaf.watched = false)
    (hform : contForm a.kind (s.chip.homes.num a.pa 8) (s.chip.homes.num (a.pa + 8) 8) a.data a.data2 = (w, false, false)) :
    After s (.homeContinuation u q) fun c => c.homes.relay = s.chip.homes.relay ∧
      c.homes.mem = s.chip.homes.mem.write (canon a.pa) (leBytes w 8) ∧
      c.drover? u = some ((d.dropLine a).answer u q 0 none none (s.chip.learned u d a)) := by
  obtain ⟨hacc, harr, hslice, hwrite⟩ := h
  obtain ⟨hcont, hnarrow⟩ := AccKind.cont_of_oneWord hk
  have halike := (s.chip.onHomes fun h => h.contWrite a.pa w).release_alike u d a
  refine after_of_withAcc hacc (exec_homeContinuation ..) ?_
  simp only [hcont, harr, hslice, hwrite, Bool.and_self, if_true, Chip.continuation_stays hroom hgood hnarrow hform,
    Chip.noteCont, hw]
  exact ⟨halike.relay, halike.mem, (Chip.setDrover_drover? ..).trans (if_pos rfl)⟩

/-- It launches: the launch stands at the end of the slice's relay queue, and the status is 1. -/
theorem after_continuation_launches (hw : a.leaf.watched = false)
    (hform : contForm a.kind (s.chip.homes.num a.pa 8) (s.chip.homes.num (a.pa + 8) 8) a.data a.data2 = (w, true, false)) :
    After s (.homeContinuation u q) fun c =>
      (∃ l : Launch, c.homes.relay = s.chip.homes.relay ++ [(sliceOf a.pa, l)] ∧ l.tmpl = a.tmpl ∧ l.tag = a.tag ∧
        l.old = s.chip.homes.word a.pa ∧ l.exp = d.exp) ∧
      c.homes.mem = s.chip.homes.mem.write (canon a.pa) (leBytes w 8) ∧
      c.drover? u = some ((d.dropLine a).answer u q 1 none none (s.chip.learned u d a)) := by
  obtain ⟨hacc, harr, hslice, hwrite⟩ := h
  obtain ⟨hcont, hnarrow⟩ := AccKind.cont_of_oneWord hk
  have halike := (s.chip.onHomes fun h => h.contLaunch a.pa w
    { s.chip.launchOf s.cycle u d a with old := s.chip.homes.word a.pa }).release_alike u d a
  refine after_of_withAcc hacc (exec_homeContinuation ..) ?_
  simp only [hcont, harr, hslice, hwrite, Bool.and_self, if_true, Chip.continuation_launches hroom hgood hnarrow hform,
    Chip.noteCont, hw]
  exact ⟨⟨_, halike.relay, rfl, rfl, rfl, rfl⟩, halike.mem, (Chip.setDrover_drover? ..).trans (if_pos rfl)⟩

/-- It underflows: nothing is written, and the status is 3. -/
theorem after_continuation_underflows
    (hform : contForm a.kind (s.chip.homes.num a.pa 8) (s.chip.homes.num (a.pa + 8) 8) a.data a.data2 = (w, false, true)) :
    After s (.homeContinuation u q) fun c => c.homes.mem = s.chip.homes.mem ∧ c.homes.relay = s.chip.homes.relay ∧
      c.drover? u = some ((d.dropLine a).answer u q 3 (some (underflow a)) none (s.chip.learned u d a)) := by
  obtain ⟨hacc, harr, hslice, hwrite⟩ := h
  obtain ⟨hcont, hnarrow⟩ := AccKind.cont_of_oneWord hk
  refine after_of_withAcc hacc (exec_homeContinuation ..) ?_
  simp only [hcont, harr, hslice, hwrite, Bool.and_self, if_true, Chip.continuation_underflows hroom hgood hnarrow hform]
  exact ⟨rfl, rfl, (Chip.setDrover_drover? ..).trans (if_pos rfl)⟩

end

/-- An event leaves what follows from what it leaves. -/
theorem After.mono {s : State} {i : Instr} {P Q : Chip → Prop} (h : After s i P) (hPQ : ∀ c, P c → Q c) : After s i Q := by
  obtain ⟨t, ht, hcycle, hagenda, hfocus, hP⟩ := h
  exact ⟨t, ht, hcycle, hagenda, hfocus, hPQ _ hP⟩

/-- Settles O27: with room in its slice's relay queue a continuation atomic does what its form says
(`after_continuation_stays`, `after_continuation_launches`, `after_continuation_underflows`). -/
theorem continuationsPerformed : Obligations.ContinuationsPerformed := by
  rintro s u q d _ a _ _ h rfl hw hroom hgood rfl rfl
  refine ⟨fun hk => ⟨fun hold => ?counts, fun hold => ?reaches, fun hold => ?underflows⟩,
    fun hk => ⟨fun hold => ?finds, fun hold => ?misses⟩⟩
  case counts =>
    refine after_continuation_stays h hroom hgood (.inl hk) hw ?_
    have h0 : s.chip.homes.num a.pa 8 ≠ 0 := by omega
    have h1 : s.chip.homes.num a.pa 8 ≠ 1 := by omega
    simp [hk, contForm, h0, h1]
  case reaches =>
    have hword : s.chip.homes.word a.pa = 1 := (Homes.word_eq_iff ..).2 hold
    refine (after_continuation_launches (w := 0) h hroom hgood (.inl hk) hw ?_).mono
      fun c ⟨⟨l, hrelay, ht, hg, ho, he⟩, hrest⟩ => ⟨⟨l, hrelay, ht, hg, ho.trans hword, he⟩, hrest⟩
    simp [hk, contForm, hold]
  case underflows =>
    refine (after_continuation_underflows (w := 0) h hroom hgood (.inl hk) ?_).mono fun c ⟨hmem, hrelay, hd⟩ =>
      ⟨hmem, hrelay, underflow a, rfl, rfl, hd⟩
    simp [hk, contForm, hold]
  case finds =>
    refine (after_continuation_launches (w := a.data2.toNat) h hroom hgood (.inr hk) hw ?_).mono
      fun c ⟨⟨l, hrelay, ht, _, ho, _⟩, hrest⟩ => ⟨⟨l, hrelay, ht, ho.trans hold⟩, hrest⟩
    simp [hk, contForm, (Homes.word_eq_iff ..).1 hold]
  case misses =>
    refine (after_continuation_stays (w := s.chip.homes.num a.pa 8) h hroom hgood (.inr hk) hw ?_).mono
      fun c ⟨hrelay, _, hd⟩ => ⟨hrelay, hd⟩
    have hne : s.chip.homes.num a.pa 8 ≠ a.data.toNat := fun e => hold ((Homes.word_eq_iff ..).2 e)
    simp [hk, contForm, hne]

end Sys2Proof.Claims
end

section
/-!
SUPPORT. Packets between modules (R126, R293, R354, R355, R367): what taking the head of a link and queueing a packet on
one leave, and what an answer finds of the request it closes.
-/

namespace Sys2Proof.Machine

/-! ## Links -/

/-- A change of one link: the others stand. -/
theorem Chip.onLink_links? (c : Chip) (l : Nat) (f : Link → Link) (j : Nat) :
    (c.onLink l f).links[j]? = if j = l then (c.links[j]?).map f else c.links[j]? := by
  unfold Chip.onLink
  cases hl : c.links[l]? with
  | none => by_cases hj : j = l <;> simp [hj, hl]
  | some k =>
    obtain ⟨hlt, hk⟩ := Vector.getElem?_eq_some_iff.1 hl
    by_cases hj : j = l
    · subst hj; simp [hlt, hk]
    · simp [hj, Ne.symm hj]

theorem Chip.onLink_frame (c : Chip) (l : Nat) (f : Link → Link) : ∃ ls, c.onLink l f = { c with links := ls } := by
  unfold Chip.onLink
  cases c.links[l]? with
  | none => exact ⟨_, rfl⟩
  | some k => exact ⟨_, rfl⟩

/-- A device's link is found by the routes and by which links are up. -/
theorem Chip.linkTo_congr {b c : Chip} (hr : c.routes = b.routes)
    (hl : ∀ j : Nat, (c.links[j]?).map (·.up) = (b.links[j]?).map (·.up)) (dev : Nat) : c.linkTo dev = b.linkTo dev := by
  have h := hl (lookD b.routes dev 31)
  unfold Chip.linkTo
  rw [hr]
  cases hc : c.links[lookD b.routes dev 31]? <;> cases hb : b.links[lookD b.routes dev 31]? <;> simp_all

theorem Chip.dropHead_links? (c : Chip) (l j : Nat) : (c.dropHead (.link l)).links[j]? =
    if j = l then (c.links[j]?).map fun k => { k with inPackets := k.inPackets.drop 1 } else c.links[j]? :=
  c.onLink_links? ..

/-- Only the links change where the head of one is taken. -/
theorem Chip.dropHead_frame (c : Chip) (l : Nat) : ∃ ls, c.dropHead (.link l) = { c with links := ls } := c.onLink_frame ..

@[simp] theorem Chip.dropHead_homes (c : Chip) (l : Nat) : (c.dropHead (.link l)).homes = c.homes := by
  obtain ⟨ls, h⟩ := c.dropHead_frame l; rw [h]

theorem Chip.dropHead_linkTo (c : Chip) (l dev : Nat) : (c.dropHead (.link l)).linkTo dev = c.linkTo dev := by
  obtain ⟨ls, h⟩ := c.dropHead_frame l
  refine Chip.linkTo_congr (by rw [h]) (fun j => ?_) dev
  rw [Chip.dropHead_links?]
  split <;> simp [Function.comp_def]

theorem Chip.queuePacket_links? (c : Chip) (l : Nat) (p : Packet) (j : Nat) : (c.queuePacket l p).links[j]? =
    if j = l then (c.links[j]?).map fun k => { k with outFlits := k.outFlits ++ flitsOf 10 true p.bytes } else c.links[j]? :=
  c.onLink_links? ..

theorem Chip.queuePacket_inPackets (c : Chip) (l : Nat) (p : Packet) (j : Nat) :
    ((c.queuePacket l p).links[j]?).map (·.inPackets) = (c.links[j]?).map (·.inPackets) := by
  rw [Chip.queuePacket_links?]
  split <;> simp [Function.comp_def]

/-- Only the links change where a packet is sent. -/
theorem Chip.send_frame (c : Chip) (p : Packet) : ∃ ls, c.send p = { c with links := ls } := by
  unfold Chip.send
  cases c.linkTo p.dst with
  | none => exact ⟨_, rfl⟩
  | some l => exact c.onLink_frame ..

theorem Chip.send_inPackets (c : Chip) (p : Packet) (j : Nat) :
    ((c.send p).links[j]?).map (·.inPackets) = (c.links[j]?).map (·.inPackets) := by
  unfold Chip.send
  cases c.linkTo p.dst with
  | none => rfl
  | some l => exact c.queuePacket_inPackets ..

@[simp] theorem Chip.send_homes (c : Chip) (p : Packet) : (c.send p).homes = c.homes := by
  obtain ⟨ls, h⟩ := c.send_frame p; rw [h]

@[simp] theorem Chip.send_sched (c : Chip) (p : Packet) : (c.send p).sched = c.sched := by
  obtain ⟨ls, h⟩ := c.send_frame p; rw [h]

@[simp] theorem Chip.answerRemote_homes (c : Chip) (dst tag ptype err : Nat) (data : List Byte) :
    (c.answerRemote dst tag ptype err data).homes = c.homes := c.send_homes _

/-- Chunks that fill no tag are stored at the homes one after the other. -/
theorem Chip.foldl_remoteChunk (cycle : Nat) (ks : List Chunk) (c : Chip) :
    ks.foldl (fun c k => c.remoteChunk cycle false k) c = { c with homes := ks.foldl (fun h k => h.storeChunk k) c.homes } := by
  induction ks generalizing c with
  | nil => rfl
  | cons k ks ih => exact ih _

/-- The chip c is b without the head of a link, so far as links and routes say. -/
structure Chip.HeadTaken (b c : Chip) (l : Nat) : Prop where
  links : c.links = (b.dropHead (.link l)).links
  routes : c.routes = b.routes
  mgmt : c.mgmt = b.mgmt

theorem Chip.dropHead_headTaken (c : Chip) (l : Nat) : c.HeadTaken (c.dropHead (.link l)) l := by
  obtain ⟨ls, h⟩ := c.dropHead_frame l
  exact ⟨rfl, by rw [h], by rw [h]⟩

theorem Chip.HeadTaken.withHomes {b c : Chip} {l : Nat} (h : b.HeadTaken c l) (hs : Homes) :
    b.HeadTaken { c with homes := hs } l := ⟨h.links, h.routes, h.mgmt⟩

theorem Chip.HeadTaken.linkTo {b c : Chip} {l : Nat} (h : b.HeadTaken c l) (dev : Nat) : c.linkTo dev = b.linkTo dev :=
  (Chip.linkTo_congr (h.routes.trans (b.dropHead_headTaken l).routes.symm) (fun j => by rw [h.links]) dev).trans
    (b.dropHead_linkTo l dev)

/-- A link that is not the one whose head is taken, or that one: what it has to send stands. -/
theorem Chip.HeadTaken.outFlits {b c : Chip} {l j : Nat} {k : Link} (h : b.HeadTaken c l) (hk : b.links[j]? = some k) :
    ∃ k', c.links[j]? = some k' ∧ k'.outFlits = k.outFlits := by
  rw [h.links, Chip.dropHead_links?, hk]
  split
  · exact ⟨_, rfl, rfl⟩
  · exact ⟨_, rfl, rfl⟩

theorem Chip.HeadTaken.inPackets {b c : Chip} {l : Nat} (h : b.HeadTaken c l) :
    (c.links[l]?).map (·.inPackets) = (b.links[l]?).map fun k => k.inPackets.drop 1 := by
  rw [h.links, Chip.dropHead_links?, if_pos rfl]
  simp [Function.comp_def]

/-- A packet queued on a link stands behind what the link had to send. -/
theorem Chip.HeadTaken.queuePacket {b c : Chip} {l j : Nat} {k : Link} {p : Packet} (h : b.HeadTaken c l) (hk : b.links[j]? = some k) :
    ∃ k', (c.queuePacket j p).links[j]? = some k' ∧ k'.outFlits = k.outFlits ++ flitsOf 10 true p.bytes := by
  obtain ⟨k', hk', hout⟩ := h.outFlits hk
  exact ⟨_, by rw [Chip.queuePacket_links?, if_pos rfl, hk']; rfl, by rw [← hout]⟩

/-! ## Answers to requests (R354) -/

theorem Chip.onDrover_drover? {c : Chip} {u : Nat} {d : Drover} (h : c.drover? u = some d) (f : Drover → Drover) :
    (c.onDrover u f).drover? u = some (f d) := by
  rw [Chip.onDrover, h]
  exact (Chip.setDrover_drover? ..).trans (if_pos rfl)

theorem Chip.onDrover_requests (c : Chip) (u : Nat) (f : Drover → Drover) : (c.onDrover u f).requests = c.requests := by
  unfold Chip.onDrover
  cases c.drover? u <;> rfl

theorem Chip.logFault_requests (c : Chip) (die e : Nat) (l : LogEntry) : (c.logFault die e l).requests = c.requests := by
  unfold Chip.logFault
  cases c.exp? e with
  | none => rfl
  | some x => dsimp only; split <;> rfl

/-- The chip with a link's head taken and the request of a tag closed. -/
def Chip.closing (c : Chip) (l tag : Nat) : Chip :=
  { c.dropHead (.link l) with requests := del (c.dropHead (.link l)).requests tag }

theorem Chip.closing_frame (c : Chip) (l tag : Nat) :
    ∃ ls, c.closing l tag = { c with links := ls, requests := del c.requests tag } := by
  obtain ⟨ls, h⟩ := c.dropHead_frame l
  exact ⟨ls, by rw [Chip.closing, h]⟩

theorem Chip.closing_requests (c : Chip) (l tag : Nat) : look (c.closing l tag).requests tag = none := by
  rw [Chip.closing, look_del, if_pos rfl]

theorem Chip.closing_drover? (c : Chip) (l tag u : Nat) : (c.closing l tag).drover? u = c.drover? u := by
  obtain ⟨ls, h⟩ := c.closing_frame l tag
  rw [h]; rfl

@[simp] theorem Chip.closing_homes (c : Chip) (l tag : Nat) : (c.closing l tag).homes = c.homes := by
  obtain ⟨ls, h⟩ := c.closing_frame l tag
  rw [h]

@[simp] theorem Chip.closing_far (c : Chip) (l tag : Nat) : (c.closing l tag).far = c.far := by
  obtain ⟨ls, h⟩ := c.closing_frame l tag
  rw [h]

end Sys2Proof.Machine

namespace Sys2Proof.Claims

open Sys2Proof.Machine

variable {s : State} {l : BitVec 5} {p : Packet}

/-! ## Packets that are served (R354) -/

/-- The links say that the head of link l is taken, where they hold what the chip without it holds. -/
theorem taken_of_inPackets {b c : Chip} {n : Nat}
    (h : (c.links[n]?).map (·.inPackets) = (b.links[n]?).map fun k => k.inPackets.drop 1) :
    ∀ k, b.links[n]? = some k → ∃ k', c.links[n]? = some k' ∧ k'.inPackets = k.inPackets.drop 1 := by
  intro k hk
  rw [hk] at h
  exact Option.map_eq_some_iff.1 h

/-- A packet sent where the head of a link is taken. -/
theorem queued_send {b c : Chip} {n : Nat} (h : b.HeadTaken c n) (p : Packet) : Queued b (c.send p) p := by
  intro o k ho hk
  simp only [Chip.send, h.linkTo, ho]
  exact h.queuePacket hk

/-- The packet at a link's head, taken and answered. -/
theorem replied_answerRemote {c : Chip} (h : s.chip.HeadTaken c l.toNat) (p : Packet) (ptype err : Nat) (data : List Byte) :
    Replied s l p ptype err data (c.answerRemote p.src p.tag ptype err data) := by
  refine ⟨taken_of_inPackets ((c.send_inPackets ..).trans h.inPackets), ?_⟩
  rw [← h.mgmt]
  exact queued_send h _

/-- An event that takes the packet of a type at the head of a link. -/
theorem after_packetStep {i : Instr} {ptype : Nat} {f : Chip → Nat → Packet → Chip} {P : Chip → Prop}
    (hh : s.chip.headOf l.toNat ptype = some p) (hi : exec i s = s.packetStep l ptype f)
    (hP : P (f (s.chip.dropHead (.link l.toNat)) s.cycle p)) : After s i P := by
  refine after_of_eventStep hi ?_
  simp only [hh]
  exact hP

/-! ## Requests served at the home (R126, R354, R367) -/

/-- The chip c answers the head of link l, and its homes are h. -/
theorem after_served {i : Instr} {ptype rtype err : Nat} {f : Chip → Nat → Packet → Chip} {data : List Byte} {h : Homes} {c : Chip}
    (hh : s.chip.headOf l.toNat ptype = some p) (hi : exec i s = s.packetStep l ptype f)
    (hf : f (s.chip.dropHead (.link l.toNat)) s.cycle p = c.answerRemote p.src p.tag rtype err data)
    (ht : s.chip.HeadTaken c l.toNat) (hc : c.homes = h) : After s i fun c => Replied s l p rtype err data c ∧ c.homes = h := by
  refine after_packetStep hh hi ?_
  rw [hf]
  exact ⟨replied_answerRemote ht .., (Chip.answerRemote_homes ..).trans hc⟩

theorem exec_readPacket (l : BitVec 5) (s : State) : exec (.readPacket l) s = execReadPacket l s := rfl

theorem exec_writePacket (l : BitVec 5) (s : State) : exec (.writePacket l) s = execWritePacket l s := rfl

theorem exec_atomicPacket (l : BitVec 5) (s : State) : exec (.atomicPacket l) s = execAtomicPacket l s := rfl

/-- The words of a read packet, or MEMERR where one of them is uncorrectable. -/
theorem after_readPacket {n : Nat} (hh : s.chip.headOf l.toNat 0 = some p) (hn : n = min (field p.data 0 2) 2048)
    (hfirst : servesRemote p.addr = true) (hlast : servesRemote (p.addr + n - 1) = true) :
    (s.chip.homes.anyBad p.addr n = false → After s (.readPacket l) fun c => Replied s l p 2 0
      (s.chip.homes.bytesLong p.addr n ++ if byteAt p.data 2 = 1 then leBytes (s.chip.homes.lineTags p.addr).toNat 1 else []) c ∧
        c.homes = s.chip.homes) ∧
    (s.chip.homes.anyBad p.addr n = true → After s (.readPacket l) fun c => Replied s l p 2 9 [] c ∧ c.homes = s.chip.homes) := by
  subst hn
  constructor
  · intro hgood
    exact after_served hh (exec_readPacket ..) (by simp [hfirst, hlast, hgood]) (s.chip.dropHead_headTaken _) (s.chip.dropHead_homes _)
  · intro hbad
    exact after_served hh (exec_readPacket ..) (by simp [hfirst, hlast, hbad]) (s.chip.dropHead_headTaken _) (s.chip.dropHead_homes _)

theorem after_writePacket (hh : s.chip.headOf l.toNat 1 = some p) (hfirst : servesRemote p.addr = true)
    (hlast : servesRemote (p.addr + p.writes.1.length - 1) = true) (htags : bitOf p.flags 1 = false) :
    After s (.writePacket l) fun c => Replied s l p 5 0 [] c ∧
      c.homes = (packetChunks 33 p.addr p.writes.1 p.writes.2).foldl (fun h k => h.storeChunk k) s.chip.homes :=
  after_served hh (exec_writePacket ..) (by simp only [hfirst, hlast, htags, Chip.foldl_remoteChunk]; rfl)
    ((s.chip.dropHead_headTaken _).withHomes _) (by rw [Chip.dropHead_homes])

/-- Codes below 19 are those of accesses. -/
theorem after_atomicPacket {k : AccKind} {r : Perf} (hh : s.chip.headOf l.toNat 3 = some p) (hserves : servesRemote p.addr = true)
    (hcode : byteAt p.data 0 < 19) (hk : k = kindOf (byteAt p.data 0) (byteAt p.data 1)) (hcont : k.isCont = false)
    (hfe : k.isFullEmpty = false)
    (hr : r = s.chip.homes.perform k p.addr (field p.data 2 2) (BitVec.ofNat 64 (field p.data 20 8)) (BitVec.ofNat 64 (field p.data 28 8))) :
    After s (.atomicPacket l) fun c => Replied s l p 4 (if r.bad then 9 else 0) (atomicReply r.reply 0) c ∧ c.homes = r.homes := by
  subst hk hr
  have h19 : byteAt p.data 0 ≠ 19 := by omega
  have h20 : byteAt p.data 0 ≠ 20 := by omega
  have h21 : byteAt p.data 0 ≠ 21 := by omega
  have h22 : byteAt p.data 0 ≠ 22 := by omega
  refine after_served hh (exec_atomicPacket ..)
    (by simp [h19, h20, h21, h22, hserves, hcont, hfe])
    ((s.chip.dropHead_headTaken _).withHomes _) rfl

/-! ## Answers (R126, R354) -/

theorem exec_readData (l : BitVec 5) (s : State) : exec (.readData l) s = execReadData l s := rfl

theorem exec_atomicResult (l : BitVec 5) (s : State) : exec (.atomicResult l) s = execAtomicResult l s := rfl

theorem exec_writeDone (l : BitVec 5) (s : State) : exec (.writeDone l) s = execWriteDone l s := rfl

/-- An answer whose request waits: the request is closed, and what asked gets what the answer brings. -/
theorem after_answered {i : Instr} {ptype : Nat} {g : Nat → Packet → Chip → RemoteReq → Chip} {r : RemoteReq} {P : Chip → Prop}
    (hh : s.chip.headOf l.toNat ptype = some p) (hr : look s.chip.requests p.tag = some r)
    (hi : exec i s = s.packetStep l ptype fun c cycle p => c.answered p (g cycle p))
    (hP : P (g s.cycle p (s.chip.closing l.toNat p.tag) r)) : After s i P := by
  refine after_packetStep hh hi ?_
  have hr' : look (s.chip.dropHead (.link l.toNat)).requests p.tag = some r := by
    obtain ⟨ls, h⟩ := s.chip.dropHead_frame l.toNat
    rw [h]; exact hr
  rw [Chip.answered, hr']
  exact hP

/-- The request of packet p is closed, and drover u is d. -/
def RequestClosed (p : Packet) (u : Nat) (d : Drover) (c : Chip) : Prop := look c.requests p.tag = none ∧ c.drover? u = some d

theorem requestClosed_onDrover {c : Chip} {u : Nat} {d d' : Drover} {f : Drover → Drover} (hr : look c.requests p.tag = none)
    (hd : c.drover? u = some d) (hf : f d = d') : RequestClosed p u d' (c.onDrover u f) :=
  ⟨by rw [Chip.onDrover_requests, hr], by rw [Chip.onDrover_drover? hd, hf]⟩

theorem requestClosed_setDrover {c : Chip} {u : Nat} (hr : look c.requests p.tag = none) (d : Drover) : RequestClosed p u d (c.setDrover u d) :=
  ⟨hr, (Chip.setDrover_drover? ..).trans (if_pos rfl)⟩

section

variable {u q via : Nat} {d : Drover} {a : Access} (hr : look s.chip.requests p.tag = some (.access u q via))
  (hd : s.chip.drover? u = some d) (ha : d.acc? q = some a) (herr : p.err = 0)

include hr hd ha herr

theorem after_readData_access (hh : s.chip.headOf l.toNat 2 = some p) :
    After s (.readData l)
      (RequestClosed p u (d.answer u q (a.kind.extend a.size (natOfBytes p.data)) none none s.chip.homes.seen)) := by
  refine after_answered hh hr (exec_readData ..) ?_
  simp only [herr, ne_eq, not_true_eq_false, if_false]
  exact requestClosed_onDrover (s.chip.closing_requests ..) ((s.chip.closing_drover? ..).trans hd) (by simp [ha])

theorem after_atomicResult_read (hh : s.chip.headOf l.toNat 4 = some p) (hrec : byteAt p.data 8 ≠ 1)
    (hread : a.kind.isRead = true) (hdecz : a.kind ≠ .amocDecz) :
    After s (.atomicResult l) (RequestClosed p u (d.answer u q (BitVec.ofNat 64 (field p.data 0 8)) none none s.chip.homes.seen)) := by
  refine after_answered hh hr (exec_atomicResult ..) ?_
  simp only [herr, Chip.closing_drover?, hd, ha, hread, beq_false_of_ne hrec, beq_false_of_ne hdecz, Chip.closing_homes,
    ne_eq, not_true_eq_false, if_false, if_true, Bool.false_and, Bool.false_eq_true]
  refine requestClosed_setDrover ?_ _
  split
  · exact (congrArg (look · p.tag) (Chip.logFault_requests ..)).trans (s.chip.closing_requests ..)
  · exact s.chip.closing_requests ..

theorem after_atomicResult_write (hh : s.chip.headOf l.toNat 4 = some p) (hrec : byteAt p.data 8 ≠ 1)
    (hwrite : a.kind.isRead = false) :
    After s (.atomicResult l) (RequestClosed p u (d.writtenDrop u q s.chip.homes.seen)) := by
  refine after_answered hh hr (exec_atomicResult ..) ?_
  simp only [herr, Chip.closing_drover?, hd, ha, hwrite, beq_false_of_ne hrec, Chip.closing_homes, ne_eq, not_true_eq_false,
    if_false, Bool.false_eq_true]
  exact requestClosed_setDrover (s.chip.closing_requests ..) _

omit ha in
theorem after_writeDone_access (hh : s.chip.headOf l.toNat 5 = some p) :
    After s (.writeDone l) (RequestClosed p u (d.written u q s.chip.homes.seen)) := by
  refine after_answered hh hr (exec_writeDone ..) ?_
  simp only [herr, ne_eq, not_true_eq_false, if_false]
  exact requestClosed_onDrover (s.chip.closing_requests ..) ((s.chip.closing_drover? ..).trans hd) (by simp)

end

theorem after_readData_line {key via : Nat} (hr : look s.chip.requests p.tag = some (.line key via))
    (hh : s.chip.headOf l.toNat 2 = some p) (herr : p.err = 0) (hfar : look s.chip.far key = some (.asked p.tag)) :
    After s (.readData l) fun c => look c.far key =
      some (.line (BitVec.ofNat 512 (natOfBytes (p.data.take 64))) (BitVec.ofNat 8 (byteAt p.data 64))) := by
  refine after_answered hh hr (exec_readData ..) ?_
  simp [hfar, herr]

/-! ## Packets that go on (R355) -/

theorem exec_packetForward (l : BitVec 5) (s : State) : exec (.packetForward l) s = execPacketForward l s := rfl

theorem after_packetForward {k : Link} {n o : Nat} (hk : s.chip.links[l.toNat]? = some k) (hhead : k.inPackets.head? = some (n, p))
    (hdst : p.dst ≠ s.chip.mgmt.devid.toNat) (ho : s.chip.linkTo p.dst = some o) :
    After s (.packetForward l) fun c => Queued s.chip c p ∧
      ∃ k', c.links[l.toNat]? = some k' ∧ k'.inPackets = k.inPackets.drop 1 := by
  refine after_of_eventStep (exec_packetForward ..) ?_
  have ht := s.chip.dropHead_headTaken l.toNat
  simp only [hk, Option.bind_some, hhead, if_neg hdst, Chip.dropHead_linkTo, ho]
  refine ⟨fun o' k' ho' hk' => ?_, taken_of_inPackets ((Chip.queuePacket_inPackets ..).trans ht.inPackets) k hk⟩
  cases ho.symm.trans ho'
  exact ht.queuePacket hk'

/-- The first part of O43: each packet by its own lemma. -/
theorem packetSteps : PacketSteps := by
  rintro s l p _ rfl
  exact ⟨fun _ => after_readPacket, after_writePacket, fun _ _ => after_atomicPacket,
    fun _ _ _ _ _ hr hd ha herr => ⟨after_readData_access hr hd ha herr, after_atomicResult_read hr hd ha herr,
      after_atomicResult_write hr hd ha herr, after_writeDone_access hr hd herr⟩,
    fun _ _ => after_readData_line, fun _ _ _ => after_packetForward⟩

end Sys2Proof.Claims
end

section
/-!
SUPPORT. An entry that comes from another module (R292, R293): a caravan enters a ready queue or the spill area, and keeps
the rest of what it was made with.
-/

namespace Sys2Proof.Machine

/-! ## What a write of an engine leaves of the scheduling state -/

/-- What an access of an engine leaves behind, where it leaves anything, has the scheduling state S. -/
def Got.Keeps {α : Type} (S : Sched) : Got α → Prop
  | .ok _ c => c.sched = S
  | .wait c => c.sched = S
  | .bad _ _ => True

theorem Got.Keeps.bind {α β : Type} {S : Sched} {g : Got α} {f : α → Chip → Got β} (hg : g.Keeps S)
    (hf : ∀ a c, c.sched = S → (f a c).Keeps S) : (g.bind f).Keeps S := by
  cases g with
  | ok a c => exact hf a c hg
  | wait c => exact hg
  | bad k va => trivial

theorem Chip.keepLeaf_sched (c : Chip) (die : Nat) (l : Leaf) : (c.keepLeaf die l).sched = c.sched := by
  unfold Chip.keepLeaf
  dsimp only
  split
  · rfl
  · split <;> rfl

theorem Chip.engineLeaf_keeps (c : Chip) (u : Nat) (d : Drover) (va : Nat) (n : Need) (pins : List Leaf) :
    (c.engineLeaf u d va n pins).Keeps c.sched := by
  unfold Chip.engineLeaf
  split
  case h_1 l _ =>
    split
    · trivial
    · exact rfl
  case h_2 =>
    split
    case h_1 => trivial
    case h_2 => exact rfl
    case h_3 =>
      split
      · trivial
      · exact rfl
    case h_4 l _ =>
      split
      · trivial
      · simp only [Got.Keeps]
        split
        · exact c.keepLeaf_sched ..
        · rfl

theorem Chip.queuePacket_sched (c : Chip) (l : Nat) (p : Packet) : (c.queuePacket l p).sched = c.sched := by
  obtain ⟨ls, h⟩ := c.onLink_frame l fun k => { k with outFlits := k.outFlits ++ flitsOf 10 true p.bytes }
  rw [Chip.queuePacket, h]

theorem Chip.request_sched {c c' : Chip} {dev ptype addr tag : Nat} {data : List Byte} {who : Nat → RemoteReq}
    (h : c.request dev ptype addr data who = some (tag, c')) : c'.sched = c.sched := by
  unfold Chip.request at h
  split at h
  · cases h
  · cases h
    exact Chip.queuePacket_sched ..

theorem Chip.writePiece_keeps (c : Chip) (u : Nat) (d : Drover) (va : Nat) (bs : List Byte) (pins : List Leaf) :
    (c.writePiece u d va bs pins).Keeps c.sched := by
  refine (c.engineLeaf_keeps u d va .write pins).bind fun l c' hc => ?_
  dsimp only
  split
  · cases hr : c'.request l.dev 1 (l.pa va) bs fun k => .posted (blockAgent u) k with
    | none => trivial
    | some r => exact (Chip.request_sched hr).trans hc
  · split <;> exact hc

theorem Chip.writeFails_sched (c : Chip) (pa : Nat) : (c.writeFails pa).2.sched = c.sched := by
  unfold Chip.writeFails
  split <;> rfl

theorem Chip.storeVa_sched (u : Nat) (d : Drover) (pins : List Leaf) (fuel : Nat) :
    ∀ (c : Chip) (va : Nat) (bs : List Byte), (c.storeVa u d pins va fuel bs).1.sched = c.sched := by
  induction fuel with
  | zero => intro c va bs; rfl
  | succ fuel ih =>
    intro c va bs
    rw [Chip.storeVa]
    split
    · rfl
    have hleaf := c.engineLeaf_keeps u d va .write pins
    dsimp only
    split
    case h_1 => rfl
    case h_2 c' he => rw [he] at hleaf; exact hleaf
    case h_3 l c1 he =>
      rw [he] at hleaf
      have hfails : (if l.rmt then (false, c1) else c1.writeFails (l.pa va)).2.sched = c.sched := by
        split
        · exact hleaf
        · exact (c1.writeFails_sched _).trans hleaf
      generalize (if l.rmt then (false, c1) else c1.writeFails (l.pa va)) = w at hfails ⊢
      obtain ⟨failed, c2⟩ := w
      cases failed
      case true => exact hfails
      case false =>
        have hpiece := c2.writePiece_keeps u d va (bs.take (min bs.length (64 - va % 64))) pins
        dsimp only
        split
        case h_1 => exact hfails
        case h_2 c3 hp => rw [hp] at hpiece; exact hpiece.trans hfails
        case h_3 b c3 hp => rw [hp] at hpiece; exact (ih ..).trans (hpiece.trans hfails)

/-! ## Caravans, whatever happens to tasks, expeditions and records -/

theorem Chip.deliverRecord_sched (c : Chip) (r : Record) : (c.deliverRecord r).sched = c.sched := by
  unfold Chip.deliverRecord
  split
  case h_1 => rfl
  case h_2 =>
    dsimp only
    split
    · rfl
    · split <;> rfl

theorem Chip.raiseRecord_sched (c : Chip) (die exp serai : Nat) (notask fatal defer : Bool) (task caravan : Option Nat) (q : TrapReq)
    (acc : Option Nat) (watch : Option (Nat × Nat)) :
    (c.raiseRecord die exp serai notask fatal defer task caravan q acc watch).sched = c.sched :=
  Chip.deliverRecord_sched ..

theorem Chip.writeSpill_caravans (c : Chip) (e die : Nat) : (c.writeSpill e die).sched.caravans = c.sched.caravans := by
  unfold Chip.writeSpill
  cases c.exp? e with
  | none => rfl
  | some x =>
    dsimp only
    have hstore := Chip.storeVa_sched (2 ^ 32) (spiller e die) []
      (((List.range 64).map fun i => Config.freeByte c.free i).length / 64 + 2) { c with free := c.free + 1 }
      (x.spillAddr + 64 * (c.spillUsed e % max x.spillCap 1)) ((List.range 64).map fun i => Config.freeByte c.free i)
    split
    case h_1 c' h => exact congrArg Sched.caravans ((congrArg (·.1.sched) h).symm.trans hstore)
    case h_2 c' k h =>
      refine (congrArg Sched.caravans (Chip.raiseRecord_sched ..)).trans ?_
      change c'.sched.caravans = c.sched.caravans
      exact congrArg Sched.caravans ((congrArg (·.1.sched) h).symm.trans hstore)

/-- Steps that each leave the caravans leave them together. -/
theorem foldl_caravans {α : Type} {f : Chip → α → Chip} (hf : ∀ c a, (f c a).sched.caravans = c.sched.caravans) (l : List α) (c : Chip) :
    (l.foldl f c).sched.caravans = c.sched.caravans := by
  induction l generalizing c with
  | nil => rfl
  | cons a l ih => exact (ih _).trans (hf c a)

theorem Chip.setMembers_caravans (c : Chip) (v : Caravan) (st : TaskState) :
    (c.setMembers v st).sched.caravans = c.sched.caravans :=
  foldl_caravans (f := fun c u => c.onTask u fun t => { t with state := st }) (fun _ _ => rfl) ..

theorem Chip.giveSlots_caravans (c : Chip) (ms : List Nat) (data : List Byte) :
    (c.giveSlots ms data).sched.caravans = c.sched.caravans := by
  refine foldl_caravans (fun c p => ?_) _ _
  dsimp only
  split <;> rfl

theorem Chip.onCaravan_caravan? {c : Chip} {cv : Nat} {v : Caravan} (h : c.caravan? cv = some v) (f : Caravan → Caravan) :
    (c.onCaravan cv f).caravan? cv = some (f v) :=
  (look_upd ..).trans ((if_pos rfl).trans (congrArg (Option.map f) h))

/-! ## A caravan that enters a queue -/

/-- A caravan that enters a ready queue, or the spill area, is ready from the time given; it stays what it was made. -/
theorem Chip.enqueue_caravan? {c : Chip} {cv : Nat} {v : Caravan} (h : c.caravan? cv = some v) (die time order : Nat) :
    ∃ y, (c.enqueue cv die time order).caravan? cv = some y ∧ y.exp = v.exp ∧ y.members = v.members ∧ y.prio = v.prio ∧
      y.ready = time ∧ (y.place = .queue die ∨ y.place = .spilled die) := by
  have hset (f : Caravan → Caravan) : ((c.onCaravan cv f).setMembers v .ready).caravan? cv = some (f v) := by
    rw [Chip.caravan?, Chip.setMembers_caravans]
    exact Chip.onCaravan_caravan? h f
  unfold Chip.enqueue
  rw [h]
  dsimp only
  cases decide (c.queueLen die < 2048) with
  | true => exact ⟨_, hset _, rfl, rfl, rfl, rfl, .inl rfl⟩
  | false => exact ⟨_, (congrArg (look · cv) (Chip.writeSpill_caravans ..)).trans (hset _), rfl, rfl, rfl, rfl, .inr rfl⟩

/-- A caravan of n members of an expedition, at a priority. -/
def Caravan.MadeFor (v : Caravan) (e n prio : Nat) : Prop := v.exp = e ∧ v.members.length = n ∧ v.prio = prio

/-- A new caravan stands under the next key. -/
theorem Chip.newCaravan_caravan? (c : Chip) (cycle : Nat) (l : Launching) (watches : SMap Nat) (place : Place) :
    ∃ v, (c.newCaravan cycle l watches place).1.caravan? c.sched.nextCv = some v ∧ v.MadeFor l.exp l.tem.size l.prio :=
  ⟨_, look_put_same .., rfl, by simp, rfl⟩

/-- A caravan that has been given its slots and its origin enters a queue and is answered for. -/
theorem Chip.queueMigrated_caravan? {c : Chip} {cv e n prio : Nat} (h : ∃ v, c.caravan? cv = some v ∧ v.MadeFor e n prio)
    (ms : List Nat) (origin : Option (Nat × Nat)) (f : Expedition → Expedition) (die : Nat) (g : Bazaar → Bazaar) (time order : Nat)
    (p : Packet) (code : Nat) :
    ∃ y, ((((((c.giveSlots ms p.data).onCaravan cv fun v => { v with origin := origin }).onExp e f).onBazaar die g).enqueue
        cv die time order).answerMigration p code).caravan? cv = some y ∧
      y.MadeFor e n prio ∧ y.ready = time ∧ (y.place = .queue die ∨ y.place = .spilled die) := by
  obtain ⟨v, hv, hexp, hlen, hprio⟩ := h
  have hgiven : (c.giveSlots ms p.data).caravan? cv = some v := (congrArg (look · cv) (c.giveSlots_caravans ..)).trans hv
  have hnamed := Chip.onCaravan_caravan? hgiven fun v => { v with origin := origin }
  obtain ⟨y, hy, he, hm, hp, hready, hplace⟩ := Chip.enqueue_caravan?
    (c := (((c.giveSlots ms p.data).onCaravan cv fun v => { v with origin := origin }).onExp e f).onBazaar die g) hnamed die time order
  refine ⟨y, ?_, ⟨he.trans hexp, (congrArg List.length hm).trans hlen, hp.trans hprio⟩, hready, hplace⟩
  rw [Chip.caravan?, Chip.answerMigration, Chip.send_sched]
  exact hy

/-- An entry of another module becomes a caravan under the next key, in the queue or the spill area of the roomiest die. -/
theorem Chip.takeMigrated_caravan? {c : Chip} {cycle : Nat} {p : Packet} {x : Expedition} {t : Template}
    (hx : c.exp? (field p.data 8 2) = some x) (ht : look x.templates (field p.data 10 2) = some t) (hend : x.ending = false)
    (htakes : c.takesEntry c.roomiest.1 (field p.data 8 2) = true) :
    ∃ v, (c.takeMigrated cycle p).caravan? c.sched.nextCv = some v ∧
      v.MadeFor (field p.data 8 2) (byteAt p.data 12) (byteAt p.data 13) ∧ v.ready = field p.data 16 8 ∧
      (v.place = .queue c.roomiest.1 ∨ v.place = .spilled c.roomiest.1) := by
  unfold Chip.takeMigrated
  simp only [hx, ht, Option.bind_some, Option.map_some, htakes, hend, Bool.not_true, Bool.or_false, Bool.false_eq_true, if_false]
  exact Chip.queueMigrated_caravan? (Chip.newCaravan_caravan? ..) ..

/-- An entry of an expedition that is not here goes back. -/
theorem Chip.takeMigrated_refused {c : Chip} {p : Packet} (hx : c.exp? (field p.data 8 2) = none) (cycle : Nat) :
    c.takeMigrated cycle p = c.answerMigration p 2 := by
  unfold Chip.takeMigrated
  simp only [hx, Option.bind_none]

end Sys2Proof.Machine

namespace Sys2Proof.Claims

open Sys2Proof.Machine

variable {s : State} {l : BitVec 5} {p : Packet}

theorem exec_advertisementPacket (l : BitVec 5) (s : State) :
    exec (.advertisementPacket l) s = execAdvertisementPacket l s := rfl

theorem exec_migrationPacket (l : BitVec 5) (s : State) : exec (.migrationPacket l) s = execMigrationPacket l s := rfl

theorem after_advertisementPacket (hh : s.chip.headOf l.toNat 10 = some p) :
    After s (.advertisementPacket l) fun c => look c.sched.modAdverts p.src = some (field p.data 0 2) :=
  after_packetStep hh (exec_advertisementPacket ..) (look_put_same ..)

theorem after_migrationPacket_taken {x : Expedition} {t : Template} (hh : s.chip.headOf l.toNat 9 = some p)
    (hcode : field p.data 0 4 = 0) (hx : s.chip.exp? (field p.data 8 2) = some x)
    (ht : look x.templates (field p.data 10 2) = some t) (hend : x.ending = false)
    (htakes : s.chip.takesEntry s.chip.roomiest.1 (field p.data 8 2) = true) :
    After s (.migrationPacket l) fun c => ∃ v, CaravanIs c s.chip.sched.nextCv v ∧ v.exp = field p.data 8 2 ∧
      v.members.length = byteAt p.data 12 ∧ v.prio = byteAt p.data 13 ∧ v.ready = field p.data 16 8 ∧
      (v.place = .queue s.chip.roomiest.1 ∨ v.place = .spilled s.chip.roomiest.1) := by
  refine after_packetStep hh (exec_migrationPacket ..) ?_
  obtain ⟨ls, hls⟩ := s.chip.dropHead_frame l.toNat
  rw [hls]
  simp only [hcode]
  obtain ⟨v, hv, ⟨hexp, hlen, hprio⟩, hready, hplace⟩ :=
    Chip.takeMigrated_caravan? (c := { s.chip with links := ls }) (cycle := s.cycle) hx ht hend htakes
  exact ⟨v, hv, hexp, hlen, hprio, hready, hplace⟩

theorem after_migrationPacket_refused (hh : s.chip.headOf l.toNat 9 = some p) (hcode : field p.data 0 4 = 0)
    (hx : s.chip.exp? (field p.data 8 2) = none) :
    After s (.migrationPacket l) fun c => Replied s l { p with tag := 0 } 9 0 (leBytes 2 4 ++ slice p.data 4 4) c := by
  refine after_packetStep hh (exec_migrationPacket ..) ?_
  have hx' : (s.chip.dropHead (.link l.toNat)).exp? (field p.data 8 2) = none := by
    obtain ⟨ls, hls⟩ := s.chip.dropHead_frame l.toNat
    rw [hls]; exact hx
  simp only [hcode]
  rw [Chip.takeMigrated_refused hx']
  exact replied_answerRemote (s.chip.dropHead_headTaken l.toNat) { p with tag := 0 } ..

/-- The answer to an entry that was sent: it is the other module's, or queued again. -/
theorem after_migrationPacket_answer {v : Caravan} {die dev : Nat} (hh : s.chip.headOf l.toNat 9 = some p)
    (hcode : field p.data 0 4 ≠ 0) (hv : s.chip.caravan? (field p.data 4 4) = some v) (hplace : v.place = .migrating die (8 + dev)) :
    After s (.migrationPacket l) fun c => CaravanIs c (field p.data 4 4)
      { v with place := if field p.data 0 4 = 1 then .module dev else .queue die } := by
  refine after_packetStep hh (exec_migrationPacket ..) ?_
  obtain ⟨ls, hls⟩ := s.chip.dropHead_frame l.toNat
  rw [hls]
  have hv' : Chip.caravan? { s.chip with links := ls } (field p.data 4 4) = some v := hv
  have hdst : ¬8 + dev < 8 := by omega
  split
  case h_1 h0 => exact absurd h0 hcode
  case h_2 =>
    simp only [hv', hplace, if_neg hdst, Nat.add_sub_cancel_left]
    exact Chip.onCaravan_caravan? hv' _

/-- The second part of O43. -/
theorem migrationPackets : MigrationPackets := by
  intro s l p
  exact ⟨after_advertisementPacket, fun hh => ⟨fun _ _ => after_migrationPacket_taken hh, after_migrationPacket_refused hh,
    fun _ _ _ => after_migrationPacket_answer hh⟩⟩

/-- Settles O43: what is served is answered (`replied_answerRemote`), an answer closes its request (`after_answered`), and an
entry that comes in becomes a caravan (`Chip.takeMigrated_caravan?`). -/
theorem modulePackets : Obligations.ModulePackets := ⟨packetSteps, migrationPackets⟩

end Sys2Proof.Claims
end

section
/-!
SUPPORT. What a committed engine command leaves of the whole chip; then the streams' commands (R163 to R167).
-/

namespace Sys2Proof.Machine

theorem Drover.tick_sameBut (d : Drover) (u : Nat) : d.SameBut (d.tick u) :=
  ⟨rfl, rfl, rfl, rfl, rfl, rfl, d.pushReady_tick u, rfl, rfl⟩

/-! ## SOPEN (R163) -/

/-- What SOPEN leaves of the chip: the porter open on its descriptor, and the clock of its stream before kept (R163, R165). -/
def Chip.opening (c : Chip) (n u : Nat) (d : Drover) (p : BitVec 3) (mode : Word) (v : BitVec 1024) (scratch : Bool)
    (leaf : Option Leaf) : Chip :=
  (c.dropFar (((c.serai n).porter p.toNat).memEnd u d p.toNat).agent).onSerai n fun s =>
    { s.onPorter p.toNat fun q =>
        q.opened s.nextSid v (bitOf mode.toNat 0) (bitOf mode.toNat 1) scratch leaf d.mem.nextSeq d.clk with
      nextSid := s.nextSid + 1,
      past := s.keptPast ((c.serai n).porter p.toNat).maskBit (((c.serai n).porter p.toNat).released u) }

theorem Chip.porter_opening (c : Chip) (n u : Nat) (d : Drover) (p : BitVec 3) (mode : Word) (v : BitVec 1024) (scratch : Bool)
    (leaf : Option Leaf) : ((c.opening n u d p mode v scratch leaf).serai n).porter p.toNat =
      ((c.serai n).porter p.toNat).opened (c.serai n).nextSid v (bitOf mode.toNat 0) (bitOf mode.toNat 1) scratch leaf
        d.mem.nextSeq d.clk := by
  rw [Chip.opening, Chip.serai_onSerai]
  exact Serai.porter_onPorter (c.serai n) p fun q => q.opened (c.serai n).nextSid v _ _ scratch leaf d.mem.nextSeq d.clk

theorem bitOf_zero_eq (m : Nat) : bitOf m 0 = decide (m % 2 = 1) := by simp [bitOf, beq_eq_decide]

/-- Of the modes that SOPEN takes, 3 alone sets tags. -/
theorem bitOf_one_eq {m : Nat} (h : m < 4) (h2 : m ≠ 2) : bitOf m 1 = decide (m = 3) := by
  interval_cases m <;> first | rfl | contradiction

section

variable (c : Chip) (n u : Nat) (d : Drover) (p : BitVec 3) {mode : Word} (v : BitVec 1024)

theorem Chip.openStream_badState (h : ((c.serai n).porter p.toNat).cond ≠ 0) :
    c.openStream n u d p.toNat mode v = (failWord 1, c) := if_pos h

variable (h0 : ((c.serai n).porter p.toNat).cond = 0)

include h0

theorem Chip.openStream_badMode (hm : 4 ≤ mode.toNat ∨ mode.toNat = 2) :
    c.openStream n u d p.toNat mode v = (failWord 20, c) := by
  simp only [Chip.openStream, h0, ne_eq, not_true_eq_false, if_false, if_pos hm]

variable (hm : ¬ (4 ≤ mode.toNat ∨ mode.toNat = 2))

include hm

theorem Chip.openStream_badDesc {k l : Nat} (hchk : (descOf v).check = some (k, l)) :
    c.openStream n u d p.toNat mode v = (statusWord k l 0, c) := by
  simp only [Chip.openStream, h0, ne_eq, not_true_eq_false, if_false, if_neg hm, hchk]

variable (hchk : (descOf v).check = none) {src snk : Bool}
  (hsides : c.porterSides u p.toNat ((c.serai n).porter p.toNat) = (src, snk))

include hchk hsides

theorem Chip.openStream_badPorter (hbad : ((src && bitOf mode.toNat 0) || (snk && !bitOf mode.toNat 0)) = true) :
    c.openStream n u d p.toNat mode v = (failWord 22, c) := by
  simp only [Chip.openStream, h0, ne_eq, not_true_eq_false, if_false, if_neg hm, hchk, hsides, hbad, if_true]

theorem Chip.openStream_opens (hok : ((src && bitOf mode.toNat 0) || (snk && !bitOf mode.toNat 0)) = false) :
    ∃ scratch leaf, c.openStream n u d p.toNat mode v = (statusOk, c.opening n u d p mode v scratch leaf) := by
  simp only [Chip.openStream, h0, ne_eq, not_true_eq_false, if_false, if_neg hm, hchk, hsides, hok, Bool.false_eq_true]
  exact ⟨_, _, rfl⟩

end

/-! ## SCLOSE, SBAR, SLINK (R164, R165, R167) -/

theorem Porter.close_faulted {q : Porter} (h : q.cond = 3) :
    q.close = (statusOk, { q with cond := 0, buf := [], more := [] }) := if_pos h

theorem Porter.close_idle {q : Porter} (h : q.cond = 0 ∨ q.cond = 2) : q.close = (failWord 1, q) := by
  have h3 : q.cond ≠ 3 := by omega
  have h1 : q.cond ≠ 1 := by omega
  rw [Porter.close, if_neg h3, if_pos h1]

/-- An open porter closes; a reading one has an `eot` alone to give. -/
theorem Porter.close_open {q : Porter} (h : q.cond = 1) :
    ∃ q', q.close = (statusOk, q') ∧ q'.cond = 2 ∧ (q.dir = false → q'.buf = [Token.eot]) := by
  have h3 : q.cond ≠ 3 := by omega
  rw [Porter.close, if_neg h3, if_neg (not_not.2 h)]
  cases q.dir with
  | false => exact ⟨_, rfl, rfl, fun _ => rfl⟩
  | true =>
    rw [if_pos rfl]
    split <;> exact ⟨_, rfl, rfl, nofun⟩

theorem Serai.porter_onPorter_other (v : Serai) {p r : BitVec 3} (h : p ≠ r) (f : Porter → Porter) :
    (v.onPorter p.toNat f).porter r.toNat = v.porter r.toNat := by
  have hne : p.toNat ≠ r.toNat := fun e => h (BitVec.eq_of_toNat_eq e)
  simp [Serai.porter, Serai.onPorter, hne]

/-- The serai with two porters linked (R167). -/
def Serai.linked (v : Serai) (a b : BitVec 3) : Serai :=
  (v.onPorter a.toNat fun q => { q with link := some b.toNat }).onPorter b.toNat fun q => { q with link := some a.toNat }

theorem Serai.link_linked (v : Serai) {a b : BitVec 3} (h : a ≠ b) :
    ((v.linked a b).porter a.toNat).link = some b.toNat ∧ ((v.linked a b).porter b.toNat).link = some a.toNat := by
  rw [Serai.linked, Serai.porter_onPorter_other _ h.symm, Serai.porter_onPorter, Serai.porter_onPorter]
  exact ⟨rfl, rfl⟩

end Sys2Proof.Machine

namespace Sys2Proof.Claims

open Sys2Proof.Machine

/-! ## SOPEN -/

section

variable {s : State} {dr d1 : Drover} {n : Nat} {d : BitVec 5} {p : BitVec 3} {b : BitVec 4} {mode : Word} {v : Word} {c : Chip}
  (h : Cmd s dr n d) (hread : dr.readX s.focus d = .ok (mode, d1)) (hdesc : descHolds dr b)

include h hread hdesc

/-- SOPEN gives the status that the stream's opening answers, and leaves its chip. -/
theorem sopen_gives {P : State → Drover → Prop}
    (ho : s.chip.openStream n s.focus (d1.tick s.focus) p.toNat mode (dr.regs.getD b) = (v, c))
    (hP : ∀ t d', t.chip.serais = c.serais → P t d') : Gives s dr (.sopen d p b) d v P := by
  obtain ⟨hpend, hbad⟩ := hdesc
  refine gives_of_status h ((Drover.readX_sameBut hread).trans (d1.tick_sameBut s.focus)) rfl rfl ?_ hP
  simp only [Drover.modeWord_of_ready h.2.1 hread, Drover.useDesc_ready hpend hbad, ho]

theorem sopen_refused {k l : Nat}
    (ho : s.chip.openStream n s.focus (d1.tick s.focus) p.toNat mode (dr.regs.getD b) = (statusWord k l 0, s.chip)) :
    Gives s dr (.sopen d p b) d (status k l) any :=
  sopen_gives h hread hdesc (by rw [ho, status_eq]) fun _ _ _ => trivial

end

theorem streamOpens : StreamOpens := by
  rintro s dr d1 n d p b mode _ h hread hdesc rfl
  refine ⟨fun hcond => ?condition, fun h0 hm => ?mode, fun h0 hlt h2 => ⟨fun k l hchk => ?descriptor, fun hchk src snk hsides => ?sides⟩⟩
  case condition => exact sopen_refused h hread hdesc (Chip.openStream_badState _ n _ _ p _ hcond)
  case mode => exact sopen_refused h hread hdesc (Chip.openStream_badMode _ n _ _ p _ h0 hm)
  all_goals have hm : ¬ (4 ≤ mode.toNat ∨ mode.toNat = 2) := by omega
  case descriptor => exact sopen_refused h hread hdesc (Chip.openStream_badDesc _ n _ _ p _ h0 hm hchk)
  have hdir : decide (mode.toNat % 2 = 0) = !bitOf mode.toNat 0 := by
    rw [bitOf_zero_eq, ← decide_not]; exact decide_eq_decide.2 (by omega)
  rw [← bitOf_zero_eq, hdir]
  refine ⟨fun hbad => ?taken, fun hsrc hsnk => ?opens⟩
  case taken =>
    exact sopen_refused h hread hdesc (Chip.openStream_badPorter _ n _ _ p _ h0 hm hchk hsides (Bool.or_eq_true_iff.2 hbad))
  case opens =>
    obtain ⟨scratch, leaf, ho⟩ := Chip.openStream_opens s.chip n s.focus (d1.tick s.focus) p (dr.regs.getD b) h0 hm hchk hsides
      (Bool.or_eq_false_iff.2 ⟨hsrc, hsnk⟩)
    refine sopen_gives h hread hdesc ho fun t _ ht => ?_
    rw [serai_of_serais ht, Chip.porter_opening]
    exact ⟨_, rfl, rfl, rfl, bitOf_one_eq hlt h2, rfl, rfl, rfl, rfl, rfl, rfl, rfl, rfl, rfl⟩

/-! ## SCLOSE, SBAR, SSTAT, SLINK -/

section

variable {s : State} {dr : Drover} {n : Nat} {d : BitVec 5} {p : BitVec 3} (h : Cmd s dr n d)

include h

/-- SCLOSE gives the status of the porter's closing, and leaves the porter so. -/
theorem sclose_gives {v : Word} {q : Porter} {P : State → Drover → Prop} (hq : ((s.chip.serai n).porter p.toNat).close = (v, q))
    (hP : ∀ (t : State) d', (t.chip.serai n).porter p.toNat = q → P t d') : Gives s dr (.sclose d p) d v P := by
  refine gives_of_status (c := s.chip.onSerai n fun v => v.onPorter p.toNat fun _ => q) h .rfl rfl rfl ?_ fun t d' ht => hP t d' ?_
  · simp only [h.2.1, unlessStall_none, hq]
  · rw [serai_of_serais ht, Chip.serai_onSerai, Serai.porter_onPorter]

theorem sclose_faulted (hc : ((s.chip.serai n).porter p.toNat).cond = 3) :
    Gives s dr (.sclose d p) d 0 fun t _ => ((t.chip.serai n).porter p.toNat).cond = 0 :=
  sclose_gives h (Porter.close_faulted hc) fun _ _ hq => by rw [hq]

theorem sclose_idle (hc : ((s.chip.serai n).porter p.toNat).cond = 0 ∨ ((s.chip.serai n).porter p.toNat).cond = 2) :
    Gives s dr (.sclose d p) d (status 1 0) any :=
  sclose_gives h ((Porter.close_idle hc).trans (by rw [failWord, status_eq])) fun _ _ _ => trivial

theorem sclose_open (hc : ((s.chip.serai n).porter p.toNat).cond = 1) :
    Gives s dr (.sclose d p) d 0 fun t _ => ((t.chip.serai n).porter p.toNat).cond = 2 ∧
      (((s.chip.serai n).porter p.toNat).dir = false → ((t.chip.serai n).porter p.toNat).buf = [Token.eot]) := by
  obtain ⟨q, hq, hcond, hbuf⟩ := Porter.close_open hc
  refine sclose_gives h hq fun t _ ht => ?_
  rw [ht]
  exact ⟨hcond, hbuf⟩

omit h in
theorem bitOf_toNat_getLsbD (k : BitVec 3) (i : Nat) : bitOf k.toNat i = k.getLsbD i := by
  rw [bitOf, BitVec.getLsbD, Nat.testBit_eq_decide_div_mod_eq, beq_eq_decide]

theorem sbar_completes {k sc : BitVec 3} (hidle : dr.hold = .idle)
    (hs : ∀ j, j ∈ (s.chip.serai n).selected k.toNat → (s.chip.serai n).streamDone j = true)
    (hcp : ∀ j, j ∈ (if k.getLsbD 2 then (s.chip.serai n).copyIds else []) → (s.chip.serai n).copyDone j = true) :
    Goes s dr (.sbar k sc) fun t d' => d'.regs.x = dr.regs.x ∧ t.chip.serais = s.chip.serais := by
  refine goes_of_ok (c := s.chip) (d' := dr.acquire s.focus ((s.chip.serai n).clockOf s.focus k.toNat ((s.chip.serai n).selected k.toNat)))
    h.1 rfl rfl ?_ rfl rfl rfl rfl fun t ht => ⟨rfl, ht⟩
  simp only [hidle, bitOf_toNat_getLsbD, List.all_eq_true.2 hs, List.all_eq_true.2 hcp, Bool.and_self, if_true]

theorem sbar_holds {k sc : BitVec 3} (hidle : dr.hold = .idle)
    (hs : ∃ j, j ∈ (s.chip.serai n).selected k.toNat ∧ (s.chip.serai n).streamDone j = false) :
    ∃ t d', exec (.sbar k sc) s = .next t ∧ t.cur? = some d' ∧
      d'.hold = .sbar ((s.chip.serai n).selected k.toNat) (if k.getLsbD 2 then (s.chip.serai n).copyIds else []) sc.toNat ∧
      d'.regs = dr.regs := by
  have hopen : (((s.chip.serai n).selected k.toNat).all fun x => (s.chip.serai n).streamDone x) = false := by
    obtain ⟨j, hj, hdone⟩ := hs
    exact List.all_eq_false.2 ⟨j, hj, by rw [hdone]; decide⟩
  obtain ⟨t, ht, hcur, -⟩ := holds_of_hold (i := .sbar k sc) (c := s.chip) (b := some 32)
    (d' := { dr with hold := .sbar ((s.chip.serai n).selected k.toNat) (if k.getLsbD 2 then (s.chip.serai n).copyIds else []) sc.toNat })
    h.1 rfl (by simp only [hidle, bitOf_toNat_getLsbD, hopen, Bool.false_and, Bool.false_eq_true, if_false])
  exact ⟨t, _, ht, hcur, rfl, rfl⟩

theorem sstat_gives : Gives s dr (.sstat d p) d ((s.chip.serai n).porter p.toNat).word fun t _ => t.chip.serais = s.chip.serais :=
  gives_of_status (c := s.chip) h .rfl rfl rfl (by rw [h.2.1]; rfl) fun _ _ ht => ht

/-- What SLINK asks of a reading and a writing porter. -/
theorem slink_links {a b : BitVec 3} (hne : a ≠ b) (ha : s.chip.porterFree s.focus a.toNat ((s.chip.serai n).porter a.toNat) = true)
    (hb : s.chip.porterFree s.focus b.toNat ((s.chip.serai n).porter b.toNat) = true)
    (hr : ((s.chip.serai n).porter a.toNat).isReading = true) (hw : ((s.chip.serai n).porter b.toNat).dir = true)
    (hc : ((s.chip.serai n).porter b.toNat).cond = 1) (hpa : ((s.chip.serai n).porter a.toNat).passed = false)
    (hpb : ((s.chip.serai n).porter b.toNat).passed = false) :
    Gives s dr (.slink d a b) d 0 fun t _ => ((t.chip.serai n).porter a.toNat).link = some b.toNat ∧
      ((t.chip.serai n).porter b.toNat).link = some a.toNat := by
  refine gives_of_status (c := s.chip.onSerai n fun v => v.linked a b) h .rfl rfl rfl ?_ fun t d' ht => ?_
  · simp only [h.2.1, unlessStall_none, hne, ha, hb, hr, hw, hc, hpa, hpb, ne_eq, not_false_eq_true, Bool.not_false, and_self, if_true]
    rfl
  · rw [serai_of_serais ht, Chip.serai_onSerai]
    exact Serai.link_linked _ hne

theorem slink_refused {a b : BitVec 3} (hbad : a = b ∨
    s.chip.porterFree s.focus a.toNat ((s.chip.serai n).porter a.toNat) = false ∨
    s.chip.porterFree s.focus b.toNat ((s.chip.serai n).porter b.toNat) = false ∨
    ((s.chip.serai n).porter a.toNat).isReading = false ∨ ((s.chip.serai n).porter b.toNat).dir = false ∨
    ((s.chip.serai n).porter b.toNat).cond ≠ 1 ∨ ((s.chip.serai n).porter a.toNat).passed = true ∨
    ((s.chip.serai n).porter b.toNat).passed = true) :
    Gives s dr (.slink d a b) d (status 22 0) fun t _ => t.chip.serais = s.chip.serais := by
  refine gives_of_status (c := s.chip) h .rfl rfl rfl ?_ fun _ _ ht => ht
  simp only [h.2.1, unlessStall_none]
  rw [if_neg, failWord, status_eq]
  rintro ⟨hne, ha, hb, hr, hw, hc, hpa, hpb⟩
  simp_all

end

theorem streamCommands : StreamCommands := by
  rintro s dr n d p a b k sc _ _ _ h rfl rfl rfl
  refine ⟨sclose_faulted h, sclose_idle h, sclose_open h, ?_, sstat_gives h, slink_links h, slink_refused h⟩
  rintro hidle _ _ rfl rfl
  exact ⟨sbar_completes h hidle, sbar_holds h hidle⟩

/-- Settles O17: SOPEN gives what `Chip.openStream` answers, one lemma for each of its checks in order (`Chip.openStream_badState` to
`Chip.openStream_opens`); SCLOSE gives what `Porter.close` answers. -/
theorem streams : Obligations.Streams := ⟨streamOpens, streamCommands⟩

end Sys2Proof.Claims
end

section
/-!
SUPPORT. A command that holds issue and changes nothing, a command that changes the bindings, and what a commit leaves of the
homes; then the copies' commands (R168 to R170).
-/

namespace Sys2Proof.Machine

/-! ## Holds that change nothing -/

theorem look_isSome_of_mem {α : Type} {m : SMap α} {p : Nat × α} (h : p ∈ m) : (look m p.1).isSome = true := by
  induction m with
  | nil => cases h
  | cons q m ih =>
    obtain ⟨k, v⟩ := q
    by_cases hk : k = p.1
    · rw [look, if_pos hk]; rfl
    · rw [look, if_neg hk]
      rcases List.mem_cons.1 h with rfl | h
      · exact absurd rfl hk
      · exact ih h

/-- No late error is lost while the scoreboard stands. -/
theorem lostErrors_of_board {old new : Drover} (h : new.board = old.board) : lostErrors old new = [] := by
  have none_lost : ∀ m : SMap LateErr, m.filter (fun p => (look m p.1).isNone) = [] := fun m =>
    List.filter_eq_nil_iff.2 fun p hp => by simp [Option.isSome_iff_ne_none.1 (look_isSome_of_mem hp)]
  rw [lostErrors, h, none_lost, none_lost]
  rfl

theorem State.commit_of_board {s : State} {old new : Drover} (h : new.board = old.board) :
    s.commit old new = s.onChip fun c => c.setDrover s.focus new := by
  rw [State.commit, lostErrors_of_board h]; rfl

/-! ## COPY (R168, R169) -/

section

variable (c : Chip) (n u : Nat) (d : Drover) {b : List Byte} (off : Word) (scope rd : Nat)

theorem Chip.acceptCopy_full (h : 8 ≤ ((c.serai n).copy.jobs (byteAt b 0 / 32 % 2)).length) :
    c.acceptCopy n u d b off scope rd none = .wait c := if_pos h

theorem Chip.acceptCopy_bad (h : ((c.serai n).copy.jobs (byteAt b 0 / 32 % 2)).length < 8) (hbad : copyBad b = true) :
    c.acceptCopy n u d b off scope rd none = .refused (failWord 21) := by
  rw [Chip.acceptCopy, if_neg (Nat.not_le.2 h), if_pos hbad]

end

/-- The drover whose COPY is accepted under a number: its token register is pending on the copy (R169). -/
def Drover.copies (d : Drover) (r : BitVec 5) (ch id : Nat) (traps : List TrapReq) : Drover :=
  { d.pendX r (.copy ch id) with async := traps }

@[simp] theorem Drover.copies_regs (d : Drover) (r : BitVec 5) (ch id : Nat) (traps : List TrapReq) :
    (d.copies r ch id traps).regs = d.regs := d.pendX_regs r _

@[simp] theorem Drover.copies_ctl (d : Drover) (r : BitVec 5) (ch id : Nat) (traps : List TrapReq) :
    (d.copies r ch id traps).ctl = d.ctl := d.pendX_ctl r _

end Sys2Proof.Machine

namespace Sys2Proof.Claims

open Sys2Proof.Machine

section

variable {s : State} {dr : Drover} {n : Nat} {c : Chip} {i j : Instr} {f : Nat → Drover → Res (Chip × Drover)} {b : Option Nat}

/-- A command that holds issue with the drover and the chip as they were. -/
theorem waits_of_hold (h : InSerai s dr n) (hi : exec i s = s.commands j f) (hf : f n dr = .hold s.chip dr b) : Waits s dr i := by
  refine waits_of_stalled (b := b) (hi.trans ((State.commands_of_inSerai h j f).trans ((State.drives_hold h.1 hf).trans ?_)))
  rw [State.commit_of_board (by rfl)]

end

section

variable {s : State} {dr d2 : Drover} {i j : Instr} {d : BitVec 5} {v : Word} {c : Chip} {P : State → Drover → Prop}

/-- A command that writes a word: the chip it leaves is the one it answers, but for the drover and the fault log. -/
theorem gives_of_command {f : Drover → Res (Chip × Drover)} (hc : s.cur? = some dr) (hi : exec i s = s.drives j f)
    (hb : Instr.bytes j = 4) (hf : f dr = .ok (c, d2.writeX d v)) (hs : dr.SameBut d2)
    (hP : ∀ t d', (c.setDrover s.focus d').Logged t.chip → P t d') : Gives s dr i d v P := by
  have hcommit := hi.trans (State.drives_ok hc hf)
  rw [hb] at hcommit
  refine ⟨_, _, hcommit, State.commit_cur? .., rfl, rfl, ?_, ?_, ?_, ?_, fun r _ => ?_, hP _ _ (State.commit_logged { s with chip := c } dr _)⟩
  · rw [Drover.retire_pc, Drover.writeX_regs, Regs.setX_pc, hs.regs]; rfl
  · rw [Drover.retire_p, Drover.writeX_regs, Regs.setX_p, hs.regs]
  · rw [Drover.retire_d, Drover.writeX_regs, Regs.setX_d, hs.regs]
  · rw [← hs.ctl]; rfl
  · exact (Regs.getX_setX ..).trans (by rw [hs.regs])

end

/-! ## COPY, CPFLUSH, CPSTAT -/

section

variable {s : State} {dr d1 : Drover} {n : Nat} {d a b : BitVec 5} {x y : Word} {sc : BitVec 3} {blk : List Byte}
  (h : Cmd s dr n d)

include h

section

variable (hx : Ready2d s dr d1 d a b x y)

include hx

theorem copy_misaligned (ha : x.toNat % 64 ≠ 0) : Trapped s dr (.copy d a b sc) 2 dr.regs.pc x := by
  obtain ⟨-, hsrc, hdst, -, hread⟩ := hx
  refine trapped_of_commands (q := dr.trapAt 2 x) h.1 rfl ?_ .rfl
  simp only [hsrc, hdst, hread, unlessStall_none, Res.ok_bind, if_pos ha]

variable (ha : x.toNat % 64 = 0) (hblk : look (s.chip.serai n).copy.templates x.toNat = some blk)
  (hstands : s.chip.templateStands s.focus dr x.toNat blk = true)

include ha hblk hstands

theorem copy_refused (hlen : ((s.chip.serai n).copy.jobs (byteAt blk 0 / 32 % 2)).length < 8) (hbad : copyBad blk = true) :
    Gives s dr (.copy d a b sc) d (status 21 0) any := by
  obtain ⟨-, hsrc, hdst, -, hread⟩ := hx
  refine gives_of_status (c := s.chip) h (Drover.read2_sameBut hread) rfl rfl ?_ fun _ _ _ => trivial
  simp only [hsrc, hdst, hread, unlessStall_none, Res.ok_bind, ha, ne_eq, not_true_eq_false, if_false, hblk, hstands, Bool.true_or,
    if_true, Chip.acceptCopy_bad s.chip n s.focus _ y _ _ hlen hbad, failWord, status_eq]

theorem copy_full (hlen : 8 ≤ ((s.chip.serai n).copy.jobs (byteAt blk 0 / 32 % 2)).length) : Waits s dr (.copy d a b sc) := by
  obtain ⟨-, hsrc, hdst, -, hread⟩ := hx
  refine waits_of_hold (b := some 32) h.1 rfl ?_
  simp only [hsrc, hdst, hread, unlessStall_none, Res.ok_bind, ha, ne_eq, not_true_eq_false, if_false, hblk, hstands, Bool.true_or,
    if_true, Chip.acceptCopy_full s.chip n s.focus _ y _ _ hlen]

theorem copy_accepted {id : Nat} {c' : Chip}
    (hok : s.chip.acceptCopy n s.focus (d1.tick s.focus) blk y sc.toNat d.toNat none = .accepted id c') :
    Goes s dr (.copy d a b sc) fun t d' => d'.regs.x = dr.regs.x ∧ t.chip.serais = c'.serais ∧
      (d ≠ 0 → look d'.board.pend d.toNat = some (.copy (byteAt blk 0 / 32 % 2) id)) := by
  obtain ⟨-, hsrc, hdst, -, hread⟩ := hx
  have hs := (Drover.read2_sameBut hread).trans (d1.tick_sameBut s.focus)
  refine goes_of_ok (c := c') (d' := (d1.tick s.focus).copies d (byteAt blk 0 / 32 % 2) id
      (((c'.drover? s.focus).map (·.async)).getD (d1.tick s.focus).async)) h.1 rfl rfl ?_ ?_ ?_ ?_
    ((Drover.copies_ctl ..).trans hs.ctl) fun t ht => ⟨?_, ht, fun h0 => ?_⟩
  · simp only [hsrc, hdst, hread, unlessStall_none, Res.ok_bind, ha, ne_eq, not_true_eq_false, if_false, hblk, hstands, Bool.true_or,
      if_true, hok, Drover.copies]
  · rw [Drover.copies_regs, hs.regs]
  · rw [Drover.copies_regs, hs.regs]
  · rw [Drover.copies_regs, hs.regs]
  · rw [Drover.retire_x, Drover.copies_regs, hs.regs]
  · exact Drover.look_pend_pendX _ h0 _

end

theorem cpflush_goes : Goes s dr .cpflush fun t d' => d'.regs.x = dr.regs.x ∧ (t.chip.serai n).copy.templates = [] ∧
    (t.chip.serai n).copy.ch = (s.chip.serai n).copy.ch := by
  refine goes_of_ok h.1 rfl rfl rfl rfl rfl rfl rfl fun t ht => ⟨rfl, ?_⟩
  rw [serai_of_serais ht, Chip.serai_onSerai]
  exact ⟨rfl, rfl⟩

theorem cpstat_gives : Gives s dr (.cpstat d) d (BitVec.ofNat 64 ((s.chip.serai n).copy.templates.length * 2 ^ 16 +
    ((s.chip.serai n).copy.jobs 1).length * 2 ^ 8 + ((s.chip.serai n).copy.jobs 0).length)) fun t _ => t.chip.serais = s.chip.serais :=
  gives_of_status (c := s.chip) h .rfl rfl rfl (by rw [h.2.1]; rfl) fun _ _ ht => ht

end

/-- Settles O18: with the block at hand a COPY does what `Chip.acceptCopy` answers: it waits (`copy_full`), is refused
(`copy_refused`) or is accepted (`copy_accepted`). -/
theorem copyCommands : Obligations.CopyCommands := by
  intro s dr d1 n d a b x y sc blk h
  exact ⟨copy_misaligned h, fun hx ha hblk hst hlen => ⟨copy_refused h hx ha hblk hst hlen, fun _ _ => copy_accepted h hx ha hblk hst⟩,
    copy_full h, cpflush_goes h, cpstat_gives h⟩

end Sys2Proof.Claims
end

section
/-!
SUPPORT. Pages loaded, bound, dropped and asked about (R171 to R175).
-/

namespace Sys2Proof.Machine

/-! ## Serais and quarters -/

@[simp] theorem Chip.serai_setSerai (c : Chip) (n : Nat) (v : Serai) : (c.setSerai n v).serai n = v := by
  simp [Chip.serai, Chip.setSerai, lookD]

theorem Serai.quarterBusy_iff {v : Serai} {q : Nat} : v.quarterBusy q = true ↔ 2 ≤ v.condition q := decide_eq_true_iff

theorem Serai.quarterBusy_of_lt {v : Serai} {q : Nat} (h : v.condition q < 2) : v.quarterBusy q = false :=
  decide_eq_false (Nat.not_le.2 h)

theorem Serai.condition_le (v : Serai) (q : Nat) : v.condition q ≤ 3 := by
  unfold Serai.condition
  split
  · exact Nat.le_refl 3
  · split
    · exact Nat.zero_le 3
    · split <;> decide

/-! ## Loading (R172) -/

section

variable {v : Serai} (q cycle : Nat) {b : List Byte}

theorem Serai.load_badImage {k l : Nat} (h : checkPage b = some (k, l)) : v.load q cycle b = ((k, l), v) := by
  rw [Serai.load, h]

variable (h : checkPage b = none)

include h

theorem Serai.load_duplicate (hp : look v.pages (pageImage b).pageid ≠ none) : v.load q cycle b = ((23, 0), v) := by
  rw [Serai.load, h]
  exact if_pos (Option.isSome_iff_ne_none.2 hp)

variable (hp : look v.pages (pageImage b).pageid = none)

include hp

theorem Serai.load_full (hlen : 64 ≤ v.pages.length) : v.load q cycle b = ((24, 0), v) := by
  rw [Serai.load, h]
  simp only [hp, Option.isSome_none, Bool.false_eq_true, if_false, if_pos hlen]

/-- The page stands in the quarter, with the cells of its image. -/
theorem Serai.load_loads (hlen : v.pages.length < 64) :
    ∃ w, v.load q cycle b = ((0, 0), w) ∧ look w.pages (pageImage b).pageid = some ((pageImage b).page q cycle) := by
  rw [Serai.load, h]
  simp only [hp, Option.isSome_none, Bool.false_eq_true, if_false, if_neg (Nat.not_le.2 hlen)]
  exact ⟨_, rfl, look_put_same ..⟩

end

/-! ## Bindings (R173) -/

theorem Chip.sinkOf_congr {c c' : Chip} (h : c'.binds = c.binds) (e : Ep) : c'.sinkOf e = c.sinkOf e := by
  rw [Chip.sinkOf, h]; rfl

theorem Chip.sinkOf_eq_none {c : Chip} {e : Ep} (h : ∀ b ∈ c.binds, b.1 ≠ e) : c.sinkOf e = none := by
  rw [Chip.sinkOf, List.find?_eq_none.2 fun b hb => by simpa using h b hb]; rfl

theorem Chip.sinkOf_unbind (c : Chip) (e : Ep) : (c.unbind e).sinkOf e = none :=
  Chip.sinkOf_eq_none fun b hb => by simpa using (List.mem_filter.1 hb).2

section

variable {c : Chip} {u : Nat} {x y : Word}

theorem Chip.bindPair_noSource (h : c.endpoint u x.toNat = none) : c.bindPair u x y = (22, c) := by rw [Chip.bindPair, h]

variable {e f : Ep} (hx : c.endpoint u x.toNat = some e)

include hx

theorem Chip.bindPair_badSource (h : c.bindSource e = false) : c.bindPair u x y = (22, c) := by
  simp only [Chip.bindPair, hx, h, Bool.not_false, if_true]

variable (hs : c.bindSource e = true)

include hs

theorem Chip.bindPair_unbinds (hy : y.toNat = 0xF0000000) : c.bindPair u x y = (0, c.unbind e) := by
  simp [Chip.bindPair, hx, hs, hy]

variable (hy : y.toNat ≠ 0xF0000000)

include hy

theorem Chip.bindPair_noSink (h : c.endpoint u y.toNat = none) : c.bindPair u x y = (22, c) := by
  have hy : y.toNat ≠ 15 * 2 ^ 28 := hy
  simp only [Chip.bindPair, hx, hs, hy, h, Bool.not_true, Bool.false_eq_true, if_false]

variable (hf : c.endpoint u y.toNat = some f)

include hf

theorem Chip.bindPair_badSink (hbad : c.bindSink f = false ∨ c.boundSource e = true ∨ c.boundSink f = true ∨
    (e.isPorter && f.isPorter) = true) : c.bindPair u x y = (22, c) := by
  have hy : y.toNat ≠ 15 * 2 ^ 28 := hy
  have hbad : (!c.bindSink f || c.boundSource e || c.boundSink f || (e.isPorter && f.isPorter)) = true := by
    rcases hbad with h | h | h | h <;> simp [h]
  simp only [Chip.bindPair, hx, hs, hy, hf, Bool.not_true, Bool.false_eq_true, if_false, hbad, if_true]

theorem Chip.bindPair_binds (hsink : c.bindSink f = true) (he : c.boundSource e = false) (hbound : c.boundSink f = false)
    (hp : (e.isPorter && f.isPorter) = false) : c.bindPair u x y = (0, { c with binds := c.binds ++ [(e, f)] }) := by
  have hy : y.toNat ≠ 15 * 2 ^ 28 := hy
  simp only [Chip.bindPair, hx, hs, hy, hf, hsink, he, hbound, hp, Bool.not_true, Bool.or_self, Bool.false_eq_true, if_false]

end

/-! ## Dropped pages (R174) -/

theorem Chip.look_pages_dropPage (c : Chip) (n u pg : Nat) : look ((c.dropPage n u pg).serai n).pages pg = none := by
  have h : (c.dropPage n u pg).serai n = (c.onSerai n fun v => { v with pages := del v.pages pg }).serai n := rfl
  rw [h, Chip.serai_onSerai, look_del, if_pos rfl]

theorem Chip.sinkOf_dropPage (c : Chip) (n u pg i : Nat) : (c.dropPage n u pg).sinkOf (.portal u pg i) = none :=
  Chip.sinkOf_eq_none fun b hb e => by
    obtain ⟨-, hb⟩ := List.mem_filter.1 hb
    simp [e, Ep.ofPage] at hb

/-- The page that PGDROP's mode word selects: that of the quarter, or that of a pageid (R174). -/
def Serai.dropTarget (v : Serai) (q : BitVec 2) (m : Nat) : Option (Nat × Page) :=
  if m = 0 then v.resident q.toNat else (look v.pages (m - 1)).map fun g => (m - 1, g)

theorem Serai.quarter_calm {v : Serai} {q m : Nat} (h : m = 0 → v.condition q < 2) : (m == 0 && v.quarterBusy q) = false := by
  by_cases hm : m = 0
  · rw [Serai.quarterBusy_of_lt (h hm), Bool.and_false]
  · rw [beq_eq_false_iff_ne.2 hm, Bool.false_and]

/-! ## The word of PGSTAT (R175) -/

/-- A sum of distinct powers of two has their bits. -/
theorem testBit_sum_two_pow (p : Nat → Bool) (n : Nat) :
    (List.range n).foldl (fun m i => m + (if p i then 2 ^ i else 0)) 0 < 2 ^ n ∧
    ∀ i, i < n → ((List.range n).foldl (fun m i => m + (if p i then 2 ^ i else 0)) 0).testBit i = p i := by
  induction n with
  | zero => exact ⟨Nat.one_pos, nofun⟩
  | succ n ih =>
    obtain ⟨hlt, hbit⟩ := ih
    rw [List.range_succ, List.foldl_append, List.foldl_cons, List.foldl_nil, Nat.add_comm]
    refine ⟨?_, fun i hi => ?_⟩
    · have : (if p n then 2 ^ n else 0) ≤ 2 ^ n := by split <;> omega
      rw [Nat.pow_succ]; omega
    · rcases Nat.lt_succ_iff_lt_or_eq.1 hi with hi | rfl
      · split
        · rw [Nat.testBit_two_pow_add_gt hi, hbit i hi]
        · rw [Nat.zero_add, hbit i hi]
      · cases hp : p i
        · simp [Nat.testBit_lt_two_pow hlt]
        · simp [Nat.testBit_two_pow_add_eq, Nat.testBit_lt_two_pow hlt]

/-- The word that PGSTAT gives of banks: the condition in the low byte, a bit for each bank from bit 8 on. -/
theorem getLsbD_bankWord {bits k i : Nat} (hk : k ≤ 3) (hi : i < 32) :
    (BitVec.ofNat 64 (bits * 256 + k)).getLsbD (8 + i) = bits.testBit i := by
  have hdiv : (bits * 256 + k) / 2 ^ 8 = bits := by omega
  rw [BitVec.getLsbD_ofNat, decide_eq_true (by omega), Bool.true_and, Nat.add_comm 8 i, ← Nat.testBit_div_two_pow, hdiv]

section

variable (v : Serai) (q : Nat) {mode : Nat}

theorem Serai.pgstat_empty {k : BitVec 8} (hm : mode % 4 < 2) (hk : v.qcause[q]? = some k) (hr : v.resident q = none) :
    v.pgstat q mode = BitVec.ofNat 64 (k.toNat * 2 ^ 8 + v.condition q) := by
  simp only [Serai.pgstat, if_neg (Nat.not_le.2 hm), hk, Option.getD_some, hr]

theorem Serai.pgstat_page {k : BitVec 8} {pg : Nat} {g : Page} (hm : mode % 4 < 2) (hk : v.qcause[q]? = some k)
    (hr : v.resident q = some (pg, g)) : v.pgstat q mode =
      BitVec.ofNat 64 (g.firings.toNat * 2 ^ 48 + pg * 2 ^ 24 + g.flags * 2 ^ 16 + k.toNat * 2 ^ 8 + v.condition q) := by
  simp only [Serai.pgstat, if_neg (Nat.not_le.2 hm), hk, Option.getD_some, hr, Nat.add_assoc]

theorem Serai.pgstat_banks (hm : 2 ≤ mode % 4) : (v.pgstat q mode).toNat % 256 = v.condition q ∧
    ∀ i, i < 32 → ((v.pgstat q mode).getLsbD (8 + i) = true ↔
      ∃ k, look v.banks (wingCell q (32 * (mode % 4 - 2) + i)) = some k ∧ k.resident = true) := by
  obtain ⟨-, hbit⟩ := testBit_sum_two_pow
    (fun i => (look v.banks (wingCell q (32 * (mode % 4 - 2) + i))).any fun b => b.resident) 32
  have hk := v.condition_le q
  simp only [Serai.pgstat, if_pos hm]
  refine ⟨?_, fun i hi => ?_⟩
  · rw [BitVec.toNat_ofNat]; omega
  · rw [getLsbD_bankWord hk hi, hbit i hi, Option.any_eq_true]

end

end Sys2Proof.Machine

namespace Sys2Proof.Claims

open Sys2Proof.Machine

/-! ## PGLOAD -/

section

variable {s : State} {dr d1 : Drover} {n : Nat} {d b : BitVec 5} {q : BitVec 2} {x : Word} {img : List Byte} {c : Chip}
  (h : Cmd s dr n d) (hx : Ready1d s dr d1 d b x)

include h hx

theorem pgload_misaligned (ha : x.toNat % 64 ≠ 0) : Trapped s dr (.pgload d q b) 2 dr.regs.pc x := by
  obtain ⟨-, hsrc, hdst, -, hread⟩ := hx
  refine trapped_of_commands (q := dr.trapAt 2 x) h.1 rfl ?_ .rfl
  simp only [hsrc, hdst, hread, unlessStall_none, Res.ok_bind, ha, false_and, if_false]
  exact State.block_misaligned s s.chip dr ha _

theorem pgload_waits (ha : x.toNat % 64 = 0) (hq : 2 ≤ (s.chip.serai n).condition q.toNat) : Waits s dr (.pgload d q b) := by
  obtain ⟨-, hsrc, hdst, -, hread⟩ := hx
  refine waits_of_hold (b := some 32) h.1 rfl ?_
  simp only [hsrc, hdst, hread, unlessStall_none, Res.ok_bind, ha, Serai.quarterBusy_iff.2 hq, and_self, if_true]

/-- With its image at hand PGLOAD gives the status that the load answers, and leaves its serai. -/
theorem pgload_gives {k l : Nat} {v : Serai} {P : State → Drover → Prop} (hq : (s.chip.serai n).condition q.toNat < 2)
    (hblk : BlockIs s s.chip c dr x 4096 64 img) (hl : (c.serai n).load q.toNat s.cycle img = ((k, l), v))
    (hP : ∀ (t : State) d', t.chip.serai n = v → P t d') : Gives s dr (.pgload d q b) d (status k l) P := by
  obtain ⟨-, hsrc, hdst, -, hread⟩ := hx
  refine gives_of_status (c := c.setSerai n v) h (Drover.readX_sameBut hread) rfl rfl ?_ fun t d' ht => hP t d' ?_
  · simp only [hsrc, hdst, hread, unlessStall_none, Res.ok_bind, Serai.quarterBusy_of_lt hq, Bool.false_eq_true, and_false, if_false,
      State.block_of_blockIs hblk, hl, status_eq]
  · rw [serai_of_serais ht, Chip.serai_setSerai]

end

/-! ## PGCAST -/

section

variable {s : State} {dr d1 : Drover} {n : Nat} {d a b : BitVec 5} {x y : Word} {img blk del : List Byte} {c c2 : Chip}
  (h : Cmd s dr n d) (hx : Ready2d s dr d1 d a b x y)

include h hx

theorem pgcast_misaligned (ha : x.toNat % 64 ≠ 0) : Trapped s dr (.pgcast d a b) 2 dr.regs.pc x := by
  obtain ⟨-, hsrc, hdst, -, hread⟩ := hx
  refine trapped_of_commands (q := dr.trapAt 2 x) h.1 rfl ?_ .rfl
  simp only [hsrc, hdst, hread, unlessStall_none, Res.ok_bind, if_pos ha]

variable (ha : x.toNat % 64 = 0) (hblk : BlockIs s s.chip c dr y 64 64 blk)

include ha hblk

theorem pgcast_badBlock (hbad : castBad blk = true) : Gives s dr (.pgcast d a b) d (status 21 0) any := by
  obtain ⟨-, hsrc, hdst, -, hread⟩ := hx
  refine gives_of_status (c := c) h (Drover.read2_sameBut hread) rfl rfl ?_ fun _ _ _ => trivial
  simp only [hsrc, hdst, hread, unlessStall_none, Res.ok_bind, ha, ne_eq, not_true_eq_false, if_false, State.block_of_blockIs hblk,
    hbad, if_true, failWord, status_eq]

/-- Every chosen quarter takes a page: the image is loaded with the deltas of its block. -/
theorem pgcast_casts {c3 c' : Chip} {m k : Nat} (hbad : castBad blk = false)
    (hcalm : ∀ p ∈ c.castTo s.focus (byteAt blk 1), ∃ j, c.seraiOf p.2 = some j ∧ (c.serai j).condition (byteAt blk 0) < 2)
    (himg : BlockIs s c c2 dr x 4096 64 img)
    (hdel : c2.readBlock (blockAgent s.focus) s.focus dr (field blk 8 8) (8 * byteAt blk 2) = .ok del c3)
    (hgood : (imageWords del 0 8 (byteAt blk 2)).any deltaBad = false)
    (hcast : (c3.dropFar (blockAgent s.focus)).castAll (byteAt blk 0) s.cycle img (imageWords del 0 8 (byteAt blk 2))
      (c.castTo s.focus (byteAt blk 1)) 0 0 = (c', m, k)) :
    Gives s dr (.pgcast d a b) d (if m = 0 then 0 else BitVec.ofNat 64 (m * 2 ^ 16 + k * 256 + 34)) fun t _ =>
      t.chip.serais = c'.serais := by
  obtain ⟨-, hsrc, hdst, -, hread⟩ := hx
  refine gives_of_status (c := c') h (Drover.read2_sameBut hread) rfl rfl ?_ fun _ _ ht => ht
  simp only [hsrc, hdst, hread, unlessStall_none, Res.ok_bind, ha, ne_eq, not_true_eq_false, if_false, State.block_of_blockIs hblk,
    hbad, Bool.false_eq_true, State.block_of_blockIs himg, hdel, hgood, hcast]
  refine (if_neg ?calm).trans rfl
  case calm =>
    rw [Bool.not_eq_true, List.any_eq_false]
    intro p hp
    obtain ⟨j, hj, hlt⟩ := hcalm p hp
    simp [hj, Serai.quarterBusy_of_lt hlt]

end

theorem pageLoads : PageLoads := by
  rintro s dr d1 n d a b q x y img blk del c c2 _ h -
  refine ⟨pgload_misaligned h, pgload_waits h, fun hx hq hblk => ⟨fun k l hchk => ?image, fun hchk hdup => ?duplicate,
    fun hchk hnew hfull => ?full, fun hchk hnew hroom => ?loads⟩, pgcast_misaligned h, fun hx ha hblk => ⟨pgcast_badBlock h hx ha hblk,
    fun hbad hcalm himg c3 hdel hc4 hgood c' m k hcast => ?casts⟩⟩
  case image => exact pgload_gives h hx hq hblk (Serai.load_badImage _ _ hchk) fun _ _ _ => trivial
  case duplicate => exact pgload_gives h hx hq hblk (Serai.load_duplicate _ _ hchk hdup) fun _ _ _ => trivial
  case full => exact pgload_gives h hx hq hblk (Serai.load_full _ _ hchk hnew hfull) fun _ _ _ => trivial
  case loads =>
    obtain ⟨v, hl, hlook⟩ := Serai.load_loads q.toNat s.cycle hchk hnew hroom
    exact pgload_gives h hx hq hblk hl fun _ _ hv => ⟨_, (congrArg (fun v => look v.pages _) hv).trans hlook, rfl, rfl⟩
  case casts =>
    subst hc4
    refine pgcast_casts h hx ha hblk hbad (fun p hp => ?_) himg hdel hgood hcast
    have hp := List.all_eq_true.1 hcalm p hp
    split at hp
    case h_1 => cases hp
    case h_2 j hj => exact ⟨j, hj, of_decide_eq_true hp⟩

/-! ## PGBIND -/

section

variable {s : State} {dr d1 : Drover} {n : Nat} {d a b : BitVec 5} {x y : Word} {c : Chip} {k : Nat} {P : State → Drover → Prop}

/-- PGBIND gives the status that making the binding answers, and leaves its bindings. -/
theorem pgbind_gives (h : Cmd s dr n d) (hx : Ready2d s dr d1 d a b x y) (hb : s.chip.bindPair s.focus x y = (k, c))
    (hP : ∀ (t : State) d', t.chip.binds = c.binds → P t d') : Gives s dr (.pgbind d a b) d (status k 0) P := by
  obtain ⟨hc, hsrc, hdst, -, hread⟩ := hx
  refine gives_of_command (c := c) (d2 := d1) hc (State.commands_of_inSerai h.1 ..) rfl ?_ (Drover.read2_sameBut hread)
    fun t d' ht => hP t d' ht.binds
  simp only [hsrc, hdst, hread, unlessStall_none, Res.ok_bind, hb, failWord, status_eq]
  rfl

end

/-! ## PGDROP, PGSTAT -/

section

variable {s : State} {dr d1 : Drover} {n : Nat} {d : BitVec 5} {q : BitVec 2} {mode : Word}
  (h : Cmd s dr n d) (hread : dr.readX s.focus d = .ok (mode, d1))

include h hread

theorem pgdrop_badMode (hm : 257 ≤ mode.toNat ∨ (mode.toNat ≠ 0 ∧ q ≠ 0)) : Gives s dr (.pgdrop d q) d (status 20 0) any := by
  refine gives_of_status (c := s.chip) h (Drover.readX_sameBut hread) rfl rfl ?_ fun _ _ _ => trivial
  simp only [Drover.modeWord_of_ready h.2.1 hread, if_pos hm, failWord, status_eq]

theorem pgdrop_waits (hm : mode.toNat = 0) (hq : 2 ≤ (s.chip.serai n).condition q.toNat) : Waits s dr (.pgdrop d q) := by
  have hmode : ¬ (257 ≤ mode.toNat ∨ (mode.toNat ≠ 0 ∧ q ≠ 0)) := by omega
  refine waits_of_hold (b := some 32) h.1 rfl ?_
  simp only [Drover.modeWord_of_ready h.2.1 hread, if_neg hmode]
  simp only [hm, Serai.quarterBusy_iff.2 hq, beq_self_eq_true, Bool.and_self, Bool.true_or, if_true]

variable (hmode : ¬ (257 ≤ mode.toNat ∨ (mode.toNat ≠ 0 ∧ q ≠ 0)))
  (hcalm : mode.toNat = 0 → (s.chip.serai n).condition q.toNat < 2)

include hmode hcalm

/-- The mode word selects no page. -/
theorem pgdrop_noPage (ht : (s.chip.serai n).dropTarget q mode.toNat = none) : Gives s dr (.pgdrop d q) d (status 1 0) any := by
  have hquarter : (mode.toNat == 0 && (s.chip.serai n).quarterBusy q.toNat) = false := Serai.quarter_calm hcalm
  unfold Serai.dropTarget at ht
  refine gives_of_status (c := s.chip) h (Drover.readX_sameBut hread) rfl rfl ?_ fun _ _ _ => trivial
  simp only [Drover.modeWord_of_ready h.2.1 hread, if_neg hmode, hquarter, ht, Option.any_none, Bool.or_self, Bool.false_eq_true, if_false,
    failWord, status_eq]

/-- A page that is dropped is gone from the serai, and so is every binding of its portals. -/
theorem pgdrop_drops {pg : Nat} {g : Page} (ht : (s.chip.serai n).dropTarget q mode.toNat = some (pg, g))
    (hpager : (s.chip.serai n).pager.candidate ≠ some pg)
    (hquiet : ∀ k, g.quarter = some k → (s.chip.serai n).condition k < 2) :
    Gives s dr (.pgdrop d q) d 0 fun t _ => look (t.chip.serai n).pages pg = none ∧ ∀ i, t.chip.sinkOf (.portal s.focus pg i) = none := by
  have hquarter : (mode.toNat == 0 && (s.chip.serai n).quarterBusy q.toNat) = false := Serai.quarter_calm hcalm
  have hpage : (g.quarter.any fun k => (s.chip.serai n).quarterBusy k) = false := by
    cases hg : g.quarter with
    | none => rfl
    | some k => exact Serai.quarterBusy_of_lt (hquiet k hg)
  unfold Serai.dropTarget at ht
  refine gives_of_command (c := s.chip.dropPage n s.focus pg) (d2 := d1) h.1.1 (State.commands_of_inSerai h.1 ..) rfl ?_
    (Drover.readX_sameBut hread) fun t d' hlog => ⟨?_, fun i => ?_⟩
  · simp only [Drover.modeWord_of_ready h.2.1 hread, if_neg hmode, hquarter, ht, Option.any_some, beq_eq_false_iff_ne.2 hpager, hpage,
      Bool.or_self, Bool.false_eq_true, if_false]
    rfl
  · rw [serai_of_serais hlog.serais]
    exact Chip.look_pages_dropPage s.chip n s.focus pg
  · rw [Chip.sinkOf_congr hlog.binds]
    exact Chip.sinkOf_dropPage s.chip n s.focus pg i

omit hmode hcalm in
theorem pgstat_gives {v : Word} {P : State → Drover → Prop} (hv : (s.chip.serai n).pgstat q.toNat mode.toNat = v)
    (hP : ∀ t d', t.chip.serais = s.chip.serais → P t d') : Gives s dr (.pgstat d q) d v P := by
  refine gives_of_status (c := s.chip) h (Drover.readX_sameBut hread) rfl rfl ?_ hP
  simp only [Drover.modeWord_of_ready h.2.1 hread, hv]

end

theorem pageCommands : PageCommands := by
  intro s dr d1 n d a b q x y mode e f pg g h
  refine ⟨fun hx hnone => ?noSource, fun hx he => ⟨fun hs => ?badSource, fun hs hy => ?unbinds, fun hs hy hnone => ?noSink,
    fun hs hy hf => ⟨fun hsink hb1 hb2 hp => ?binds, fun hbad => ?badSink⟩⟩, fun hread => ?mode⟩
  case noSource => exact pgbind_gives h hx (Chip.bindPair_noSource hnone) fun _ _ _ => trivial
  case badSource => exact pgbind_gives h hx (Chip.bindPair_badSource he hs) fun _ _ _ => trivial
  case unbinds =>
    exact pgbind_gives h hx (Chip.bindPair_unbinds he hs hy) fun _ _ hb => (Chip.sinkOf_congr hb e).trans (Chip.sinkOf_unbind ..)
  case noSink => exact pgbind_gives h hx (Chip.bindPair_noSink he hs hy hnone) fun _ _ _ => trivial
  case binds => exact pgbind_gives h hx (Chip.bindPair_binds he hs hy hf hsink hb1 hb2 hp) fun _ _ hb => hb
  case badSink => exact pgbind_gives h hx (Chip.bindPair_badSink he hs hy hf hbad) fun _ _ hb => hb
  case mode =>
    refine ⟨pgdrop_badMode h hread, pgdrop_waits h hread, fun hm hq hres => ?noResident, fun hm hq hres hidle hg => ?dropsResident,
      fun hm hle hq => ⟨fun hnone => ?noPageid, fun g hg hout hpager => ?dropsPageid⟩,
      fun k hk => ⟨fun hm hres => ?empty, fun hm hres => ?page⟩,
      fun hm => ?banks⟩
    case noResident => exact pgdrop_noPage h hread (by omega) (fun _ => hq) ((if_pos hm).trans hres)
    case dropsResident =>
      refine pgdrop_drops h hread (by omega) (fun _ => hq) ((if_pos hm).trans hres) (by rw [hidle]; exact nofun) fun k hk => ?_
      cases hg.symm.trans hk
      exact hq
    case noPageid =>
      exact pgdrop_noPage h hread (by simp [hq]; omega) (absurd · hm) ((if_neg hm).trans (by rw [hnone]; rfl))
    case dropsPageid =>
      refine pgdrop_drops h hread (by simp [hq]; omega) (absurd · hm) ((if_neg hm).trans (by rw [hg]; rfl)) hpager fun k hk => ?_
      cases hout.symm.trans hk
    case empty => exact pgstat_gives h hread (Serai.pgstat_empty _ _ hm hk hres) fun _ _ _ => trivial
    case page => exact pgstat_gives h hread (Serai.pgstat_page _ _ hm hk hres) fun _ _ ht => ht
    case banks =>
      exact ⟨_, pgstat_gives h hread rfl fun _ _ ht => ht, Serai.pgstat_banks (s.chip.serai n) q.toNat hm⟩

/-- Settles O19: PGLOAD and PGCAST do what `Serai.load` and `Chip.castAll` answer, PGBIND what `Chip.bindPair` does, each with a lemma
for every case; PGDROP goes by the page that its mode word selects, PGSTAT by `Serai.pgstat`. -/
theorem pages : Obligations.Pages := ⟨pageLoads, pageCommands⟩

end Sys2Proof.Claims
end

section
/-!
SUPPORT. Weights and directives (R176 to R178): the tile that a WLOAD reads, the bank it fills, and a token put into a portal.
-/

namespace Sys2Proof.Machine

/-! ## Banks (R176, R177) -/

/-- The chip with a bank's bytes written, its marks cleared, and what stands for the bank replaced (R176). -/
def Chip.fillBank (c : Chip) (n cell : Nat) (bs : List Byte) (k : Bank) : Chip :=
  (c.onHomes fun h => (h.writeLong (bankAddr n cell 0) 32 bs).clearBad (bankAddr n cell 0) 65536).onSerai n fun v =>
    { v with banks := put v.banks cell k }

theorem Chip.look_banks_fillBank (c : Chip) (n cell : Nat) (bs : List Byte) (k : Bank) :
    look ((c.fillBank n cell bs k).serai n).banks cell = some k := by
  rw [Chip.fillBank, Chip.serai_onSerai]
  exact look_put_same ..

/-- The chip with a bank free of its weights, and its words empty (R177). -/
def Chip.freeWeights (c : Chip) (n cell : Nat) : Chip :=
  (c.onHomes fun h =>
    { h with tags := h.tags.filter fun k => decide (k < bankAddr n cell 0 / 8 ∨ bankAddr n cell 0 / 8 + 8192 ≤ k),
             badTags := h.badTags.filter fun k => decide (k < bankAddr n cell 0 / 8 ∨ bankAddr n cell 0 / 8 + 8192 ≤ k) }).onSerai n
    fun v => { v with banks := upd v.banks cell fun k => { k with resident := false } }

theorem Chip.bankResident_freeWeights (c : Chip) (n cell : Nat) : (c.freeWeights n cell).bankResident n cell = false := by
  rw [Chip.bankResident, Chip.freeWeights, Chip.serai_onSerai, look_upd, if_pos rfl]
  cases look ((c.onHomes _).serai n).banks cell <;> rfl

/-! ## Tokens at a portal (R178) -/

theorem Page.offer_full {g : Page} (cycle place : Nat) {i : Nat} (t : Token) (h : 16 ≤ (lookD g.fifos i []).length) :
    g.offer cycle place i t = none :=
  if_pos (Bool.or_eq_true_iff.2 (.inl (decide_eq_true h)))

/-- A portal with room takes a token, unless one whose place comes behind has entered in this cycle. -/
theorem Page.offer_enters {g : Page} {cycle place i : Nat} (t : Token) (hroom : (lookD g.fifos i []).length < 16)
    (hplace : ∀ e, look g.entered i = some e → e.1 = cycle → e.2 ≤ place) :
    ∃ h o, g.offer cycle place i t = some h ∧ look h.fifos i = some (lookD g.fifos i [] ++ [o]) ∧ o.tok = t := by
  refine ⟨_, _, if_neg ?_, look_put_same .., rfl⟩
  rw [Bool.or_eq_true_iff]
  rintro (hfull | hlate)
  · exact absurd hroom (Nat.not_lt.2 (of_decide_eq_true hfull))
  · obtain ⟨e, he, hcond⟩ := (Option.any_eq_true ..).1 hlate
    obtain ⟨hcycle, hlt⟩ := Bool.and_eq_true_iff.1 hcond
    exact absurd (hplace e he (beq_iff_eq.1 hcycle)) (Nat.not_le.2 (of_decide_eq_true hlt))

/-- The portal that WPOKE's word names. -/
theorem portal_of_word {w : Nat} (h : w < 2048) : w / 256 % 8 = w / 256 := Nat.mod_eq_of_lt (by omega)

theorem directiveOk_iff {k : Nat} : directiveOk k = true ↔ 1 ≤ k ∧ k ≤ 13 := by simp [directiveOk]

end Sys2Proof.Machine

namespace Sys2Proof.Claims

open Sys2Proof.Machine

/-! ## WLOAD: the checks in the order of the model (log 50) -/

section

variable {s : State} {dr d1 : Drover} {n : Nat} {d b : BitVec 5} {m : BitVec 4} {x : Word}
  (h : Cmd s dr n d) (hx : Ready1d s dr d1 d b x) (hdesc : descHolds dr m)

include h hx hdesc

theorem wload_badCell (hcell : 256 ≤ x.toNat) : Gives s dr (.wload d m b) d (status 21 0) any := by
  obtain ⟨-, hsrc, hdst, -, hread⟩ := hx
  obtain ⟨hpend, hbad⟩ := hdesc
  refine gives_of_status (c := s.chip) h (Drover.readX_sameBut hread) rfl rfl ?_ fun _ _ _ => trivial
  simp only [hsrc, hdst, hread, unlessStall_none, Res.ok_bind, Drover.useDesc_ready hpend hbad, if_pos hcell, failWord, status_eq]

variable (hcell : x.toNat < 256)

include hcell

theorem wload_waits (hq : 2 ≤ (s.chip.serai n).condition (quarterOf (x.toNat % 256))) : Waits s dr (.wload d m b) := by
  obtain ⟨-, hsrc, hdst, -, hread⟩ := hx
  obtain ⟨hpend, hbad⟩ := hdesc
  refine waits_of_hold (b := some 32) h.1 rfl ?_
  simp only [hsrc, hdst, hread, unlessStall_none, Res.ok_bind, Drover.useDesc_ready hpend hbad, if_neg (Nat.not_le.2 hcell),
    Serai.quarterBusy_iff.2 hq, if_true]

variable (hq : (s.chip.serai n).condition (quarterOf (x.toNat % 256)) < 2)

include hq

theorem wload_badDesc {k l : Nat} (hchk : (descOf (dr.regs.getD m)).check = some (k, l)) :
    Gives s dr (.wload d m b) d (status k l) any := by
  obtain ⟨-, hsrc, hdst, -, hread⟩ := hx
  obtain ⟨hpend, hbad⟩ := hdesc
  refine gives_of_status (c := s.chip) h (Drover.readX_sameBut hread) rfl rfl ?_ fun _ _ _ => trivial
  simp only [hsrc, hdst, hread, unlessStall_none, Res.ok_bind, Drover.useDesc_ready hpend hbad, if_neg (Nat.not_le.2 hcell),
    Serai.quarterBusy_of_lt hq, Bool.false_eq_true, if_false, hchk, status_eq]

variable (hchk : (descOf (dr.regs.getD m)).check = none)

include hchk

theorem wload_badTile (htile : (descOf (dr.regs.getD m)).badTile = true) : Gives s dr (.wload d m b) d (status 25 0) any := by
  obtain ⟨-, hsrc, hdst, -, hread⟩ := hx
  obtain ⟨hpend, hbad⟩ := hdesc
  refine gives_of_status (c := s.chip) h (Drover.readX_sameBut hread) rfl rfl ?_ fun _ _ _ => trivial
  simp only [hsrc, hdst, hread, unlessStall_none, Res.ok_bind, Drover.useDesc_ready hpend hbad, if_neg (Nat.not_le.2 hcell),
    Serai.quarterBusy_of_lt hq, Bool.false_eq_true, if_false, hchk, htile, if_true, failWord, status_eq]

variable (htile : (descOf (dr.regs.getD m)).badTile = false)

include htile

theorem wload_used (hused : (s.chip.serai n).bankUsed (x.toNat % 256) = true) : Gives s dr (.wload d m b) d (status 1 0) any := by
  obtain ⟨-, hsrc, hdst, -, hread⟩ := hx
  obtain ⟨hpend, hbad⟩ := hdesc
  refine gives_of_status (c := s.chip) h (Drover.readX_sameBut hread) rfl rfl ?_ fun _ _ _ => trivial
  simp only [hsrc, hdst, hread, unlessStall_none, Res.ok_bind, Drover.useDesc_ready hpend hbad, if_neg (Nat.not_le.2 hcell),
    Serai.quarterBusy_of_lt hq, Bool.false_eq_true, if_false, hchk, htile, hused, if_true, failWord, status_eq]

variable (hused : (s.chip.serai n).bankUsed (x.toNat % 256) = false)

include hused

theorem wload_pageFault {k a : Nat}
    (hfault : s.chip.tileFault s.focus dr (descOf (dr.regs.getD m)) (descOf (dr.regs.getD m)).tile = some (k, a)) :
    Trapped s dr (.wload d m b) k dr.regs.pc (BitVec.ofNat 64 a) := by
  obtain ⟨-, hsrc, hdst, -, hread⟩ := hx
  obtain ⟨hpend, hbad⟩ := hdesc
  refine trapped_of_commands (q := dr.trapAt k (BitVec.ofNat 64 a)) h.1 rfl ?_ .rfl
  simp only [hsrc, hdst, hread, unlessStall_none, Res.ok_bind, Drover.useDesc_ready hpend hbad, if_neg (Nat.not_le.2 hcell),
    Serai.quarterBusy_of_lt hq, Bool.false_eq_true, if_false, hchk, htile, hused, hfault]

variable {t : TileRead} {passed : Nat} {elems : List (Nat × Nat × Nat × Nat)} {got : List ReadChunk} {c0 : Chip}
  (hfault : s.chip.tileFault s.focus dr (descOf (dr.regs.getD m)) (descOf (dr.regs.getD m)).tile = none)
  (hstart : (dr.hold = .tile passed elems got ∧ c0 = s.chip) ∨ (dr.hold = .idle ∧ passed = 0 ∧ elems = [] ∧ got = [] ∧
    c0 = s.chip.dropFar (dr.tileEnd s.focus (descOf (dr.regs.getD m)).fmt).agent))
  (ht : t = TileRead.run (dr.tileEnd s.focus (descOf (dr.regs.getD m)).fmt) { descOf (dr.regs.getD m) with scaleOff := false }
    ((descOf (dr.regs.getD m)).tile.drop passed) { c := c0, passed := passed, elems := elems, got := got, stands := .going })

include hfault hstart ht

omit h in
/-- What WLOAD answers once its tile has been read as far as it can be. -/
theorem exec_wload_read : ∃ f, exec (.wload d m b) s = s.commands (.wload d m b) f ∧
    (t.stands = .waits → f n dr = .hold t.c { dr with hold := .tile t.passed t.elems t.got } (some 32)) ∧
    (∀ k a, t.stands = .bad k a → f n dr = .trap (dr.trapAt k (BitVec.ofNat 64 a)) dr) ∧
    (∀ r a, t.stands = .raced r a → f n dr = .trap { dr.trapAt 0x0E (BitVec.ofNat 64 a) with aux0 := s.chip.raceWord r } dr) ∧
    (t.stands = .lost → ∃ (c : Chip) (bs : List Byte), f n dr =
      Drover.status (c.fillBank n (x.toNat % 256) bs { resident := false, fmt := none, exps := [] }) d1 d (status 37 0)) ∧
    (t.stands = .going → ∃ exps, f n dr =
      Drover.status (t.c.fillBank n (x.toNat % 256) (tileBytes (descOf (dr.regs.getD m)).fmt t.elems)
        { resident := true, fmt := some (BitVec.ofNat 6 (descOf (dr.regs.getD m)).fmt), exps := exps }) d1 d
        (status 0 (if t.elems.any fun e => zeroOnNan (descOf (dr.regs.getD m)).fmt e.2.2.2 then 0x40 else 0))) := by
  obtain ⟨-, hsrc, hdst, -, hread⟩ := hx
  obtain ⟨hpend, hbad⟩ := hdesc
  refine ⟨_, rfl, ?_⟩
  rcases hstart with ⟨hhold, rfl⟩ | ⟨hhold, rfl, rfl, rfl, rfl⟩
  all_goals
    simp only [hsrc, hdst, hread, unlessStall_none, Res.ok_bind, Drover.useDesc_ready hpend hbad, if_neg (Nat.not_le.2 hcell),
      Serai.quarterBusy_of_lt hq, Bool.false_eq_true, if_false, hchk, htile, hused, hfault, hhold, ← ht]
    refine ⟨fun e => ?_, fun k a e => ?_, fun r a e => ?_, fun e => ?_, fun e => ?_⟩ <;> simp only [e, failWord, status_eq]
    · exact ⟨_, _, rfl⟩
    · exact ⟨_, rfl⟩

/-- WLOAD holds with what it has read. -/
theorem wload_holds (hs : t.stands = .waits) : ∃ u d', exec (.wload d m b) s = .next u ∧ u.cur? = some d' ∧
    d'.hold = .tile t.passed t.elems t.got ∧ d'.regs = dr.regs := by
  obtain ⟨f, hf, hwaits, -⟩ := exec_wload_read hx hdesc hcell hq hchk htile hused hfault hstart ht
  obtain ⟨u, hu, hcur, -⟩ := holds_of_hold h.1 hf (hwaits hs)
  exact ⟨u, _, hu, hcur, rfl, rfl⟩

theorem wload_traps {k a : Nat} (hs : t.stands = .bad k a) : Trapped s dr (.wload d m b) k dr.regs.pc (BitVec.ofNat 64 a) := by
  obtain ⟨f, hf, -, hbad, -⟩ := exec_wload_read hx hdesc hcell hq hchk htile hused hfault hstart ht
  exact trapped_of_commands h.1 hf (hbad k a hs) .rfl

theorem wload_races {r : Race} {a : Nat} (hs : t.stands = .raced r a) :
    Trapped s dr (.wload d m b) 0x0E dr.regs.pc (BitVec.ofNat 64 a) := by
  obtain ⟨f, hf, -, -, hraced, -⟩ := exec_wload_read hx hdesc hcell hq hchk htile hused hfault hstart ht
  exact trapped_of_commands h.1 hf (hraced r a hs) .rfl

/-- Lost data leaves the bank without a format. -/
theorem wload_loses (hs : t.stands = .lost) : Gives s dr (.wload d m b) d (status 37 0) fun u _ =>
    ∃ k, look (u.chip.serai n).banks (x.toNat % 256) = some k ∧ k.resident = false ∧ k.fmt = none := by
  obtain ⟨f, hf, -, -, -, hlost, -⟩ := exec_wload_read hx hdesc hcell hq hchk htile hused hfault hstart ht
  obtain ⟨c, bs, hc⟩ := hlost hs
  obtain ⟨-, -, -, -, hread⟩ := hx
  refine gives_of_status h (Drover.readX_sameBut hread) hf rfl hc fun u _ hu => ?_
  rw [serai_of_serais hu]
  exact ⟨_, Chip.look_banks_fillBank .., rfl, rfl⟩

/-- The bank holds the tile, and is weight resident. -/
theorem wload_fills (hs : t.stands = .going) : Gives s dr (.wload d m b) d
    (status 0 (if t.elems.any fun e => zeroOnNan (descOf (dr.regs.getD m)).fmt e.2.2.2 then 0x40 else 0)) fun u _ =>
      ∃ k, look (u.chip.serai n).banks (x.toNat % 256) = some k ∧ k.resident = true ∧
        k.fmt = some (BitVec.ofNat 6 (descOf (dr.regs.getD m)).fmt) := by
  obtain ⟨f, hf, -, -, -, -, hgoing⟩ := exec_wload_read hx hdesc hcell hq hchk htile hused hfault hstart ht
  obtain ⟨exps, hc⟩ := hgoing hs
  obtain ⟨-, -, -, -, hread⟩ := hx
  refine gives_of_status h (Drover.readX_sameBut hread) hf rfl hc fun u _ hu => ?_
  rw [serai_of_serais hu]
  exact ⟨_, Chip.look_banks_fillBank .., rfl, rfl⟩

end

/-! ## WDROP -/

section

variable {s : State} {dr d1 : Drover} {n : Nat} {d b : BitVec 5} {x : Word} (h : Cmd s dr n d) (hx : Ready1d s dr d1 d b x)

include h hx

theorem wdrop_badCell (hcell : 256 ≤ x.toNat) : Gives s dr (.wdrop d b) d (status 21 0) any := by
  obtain ⟨-, hsrc, hdst, -, hread⟩ := hx
  refine gives_of_status (c := s.chip) h (Drover.readX_sameBut hread) rfl rfl ?_ fun _ _ _ => trivial
  simp only [hsrc, hdst, hread, unlessStall_none, Res.ok_bind, if_pos hcell, failWord, status_eq]

variable (hcell : x.toNat < 256)

include hcell

theorem wdrop_waits (hq : 2 ≤ (s.chip.serai n).condition (quarterOf (x.toNat % 256))) : Waits s dr (.wdrop d b) := by
  obtain ⟨-, hsrc, hdst, -, hread⟩ := hx
  refine waits_of_hold (b := some 32) h.1 rfl ?_
  simp only [hsrc, hdst, hread, unlessStall_none, Res.ok_bind, if_neg (Nat.not_le.2 hcell), Serai.quarterBusy_iff.2 hq, if_true]

theorem wdrop_noPage (hq : (s.chip.serai n).condition (quarterOf (x.toNat % 256)) = 0) : Gives s dr (.wdrop d b) d (status 1 0) any := by
  obtain ⟨-, hsrc, hdst, -, hread⟩ := hx
  refine gives_of_status (c := s.chip) h (Drover.readX_sameBut hread) rfl rfl ?_ fun _ _ _ => trivial
  simp only [hsrc, hdst, hread, unlessStall_none, Res.ok_bind, if_neg (Nat.not_le.2 hcell),
    Serai.quarterBusy_of_lt (hq.trans_lt two_pos), Bool.false_eq_true, if_false, if_pos hq, failWord, status_eq]

variable (hq : (s.chip.serai n).condition (quarterOf (x.toNat % 256)) = 1)

include hq

theorem wdrop_notResident (hres : s.chip.bankResident n (x.toNat % 256) = false) : Gives s dr (.wdrop d b) d (status 26 0) any := by
  obtain ⟨-, hsrc, hdst, -, hread⟩ := hx
  refine gives_of_status (c := s.chip) h (Drover.readX_sameBut hread) rfl rfl ?_ fun _ _ _ => trivial
  simp only [hsrc, hdst, hread, unlessStall_none, Res.ok_bind, if_neg (Nat.not_le.2 hcell),
    Serai.quarterBusy_of_lt (hq.trans_lt one_lt_two), Bool.false_eq_true, if_false, hq, one_ne_zero, hres, Bool.not_false, if_true,
    failWord, status_eq]

theorem wdrop_drops (hres : s.chip.bankResident n (x.toNat % 256) = true) :
    Gives s dr (.wdrop d b) d 0 fun u _ => u.chip.bankResident n (x.toNat % 256) = false := by
  obtain ⟨-, hsrc, hdst, -, hread⟩ := hx
  refine gives_of_status (c := s.chip.freeWeights n (x.toNat % 256)) h (Drover.readX_sameBut hread) rfl rfl ?_ fun u _ hu => ?_
  · simp only [hsrc, hdst, hread, unlessStall_none, Res.ok_bind, if_neg (Nat.not_le.2 hcell),
      Serai.quarterBusy_of_lt (hq.trans_lt one_lt_two), Bool.false_eq_true, if_false, hq, one_ne_zero, hres, Bool.not_true]
    rfl
  · rw [Chip.bankResident, serai_of_serais hu]
    exact Chip.bankResident_freeWeights ..

end

/-! ## WPOKE -/

section

variable {s : State} {dr d1 : Drover} {n : Nat} {d b : BitVec 5} {q : BitVec 2} {x : Word} (h : Cmd s dr n d)
  (hx : Ready1d s dr d1 d b x)

include h hx

theorem wpoke_waits (hq : (s.chip.serai n).condition q.toNat = 3) : Waits s dr (.wpoke d q b) := by
  obtain ⟨-, hsrc, hdst, -, hread⟩ := hx
  refine waits_of_hold (b := some 32) h.1 rfl ?_
  simp only [hsrc, hdst, hread, unlessStall_none, Res.ok_bind, if_pos hq]

variable (hq : (s.chip.serai n).condition q.toNat ≠ 3)

include hq

theorem wpoke_badWord (hw : 2048 ≤ x.toNat) : Gives s dr (.wpoke d q b) d (status 21 0) any := by
  obtain ⟨-, hsrc, hdst, -, hread⟩ := hx
  refine gives_of_status (c := s.chip) h (Drover.readX_sameBut hread) rfl rfl ?_ fun _ _ _ => trivial
  simp only [hsrc, hdst, hread, unlessStall_none, Res.ok_bind, if_neg hq, if_pos hw, failWord, status_eq]

variable (hw : x.toNat < 2048)

include hw

theorem wpoke_badDirective (hcode : x.toNat % 256 = 0 ∨ 13 < x.toNat % 256) : Gives s dr (.wpoke d q b) d (status 12 0) any := by
  obtain ⟨-, hsrc, hdst, -, hread⟩ := hx
  have hcode : directiveOk (x.toNat % 256) = false := by
    rw [← Bool.not_eq_true, directiveOk_iff]; omega
  refine gives_of_status (c := s.chip) h (Drover.readX_sameBut hread) rfl rfl ?_ fun _ _ _ => trivial
  simp only [hsrc, hdst, hread, unlessStall_none, Res.ok_bind, if_neg hq, if_neg (Nat.not_le.2 hw), hcode, Bool.not_false, if_true,
    failWord, status_eq]

variable (hcode : directiveOk (x.toNat % 256) = true)

include hcode

theorem wpoke_noPage (hres : (s.chip.serai n).resident q.toNat = none) : Gives s dr (.wpoke d q b) d (status 1 0) any := by
  obtain ⟨-, hsrc, hdst, -, hread⟩ := hx
  refine gives_of_status (c := s.chip) h (Drover.readX_sameBut hread) rfl rfl ?_ fun _ _ _ => trivial
  simp only [hsrc, hdst, hread, unlessStall_none, Res.ok_bind, if_neg hq, if_neg (Nat.not_le.2 hw), hcode, Bool.not_true,
    Bool.false_eq_true, if_false, hres, failWord, status_eq]

variable {pg : Nat} {g : Page} (hres : (s.chip.serai n).resident q.toNat = some (pg, g))

include hres

theorem wpoke_badPortal (hp : g.portalIs (x.toNat / 256) false = false) : Gives s dr (.wpoke d q b) d (status 14 0) any := by
  obtain ⟨-, hsrc, hdst, -, hread⟩ := hx
  refine gives_of_status (c := s.chip) h (Drover.readX_sameBut hread) rfl rfl ?_ fun _ _ _ => trivial
  simp only [hsrc, hdst, hread, unlessStall_none, Res.ok_bind, if_neg hq, if_neg (Nat.not_le.2 hw), hcode, Bool.not_true,
    Bool.false_eq_true, if_false, hres, portal_of_word hw, hp, Bool.not_false, if_true, failWord, status_eq]

variable (hp : g.portalIs (x.toNat / 256) false = true)

include hp

theorem wpoke_full (hfull : 16 ≤ (lookD g.fifos (x.toNat / 256) []).length) : Waits s dr (.wpoke d q b) := by
  obtain ⟨-, hsrc, hdst, -, hread⟩ := hx
  refine waits_of_hold (b := some 32) h.1 rfl ?_
  simp only [hsrc, hdst, hread, unlessStall_none, Res.ok_bind, if_neg hq, if_neg (Nat.not_le.2 hw), hcode, Bool.not_true,
    Bool.false_eq_true, if_false, hres, portal_of_word hw, hp, Page.offer_full _ _ _ hfull]

theorem wpoke_enters (hroom : (lookD g.fifos (x.toNat / 256) []).length < 16)
    (hplace : ∀ e, look g.entered (x.toNat / 256) = some e → e.1 = s.cycle → e.2 ≤ wpokePlace) :
    Gives s dr (.wpoke d q b) d 0 fun u _ => ∃ h o, look (u.chip.serai n).pages pg = some h ∧
      look h.fifos (x.toNat / 256) = some (lookD g.fifos (x.toNat / 256) [] ++ [o]) ∧ o.tok = Token.directive (x.toNat % 256) := by
  obtain ⟨-, hsrc, hdst, -, hread⟩ := hx
  obtain ⟨g', o, hoffer, hfifo, htok⟩ := Page.offer_enters (Token.directive (x.toNat % 256)) hroom hplace
  refine gives_of_status (c := s.chip.onSerai n fun v => { v with pages := put v.pages pg g' }) h (Drover.readX_sameBut hread) rfl rfl ?_
    fun u _ hu => ⟨g', o, ?_, hfifo, htok⟩
  · simp only [hsrc, hdst, hread, unlessStall_none, Res.ok_bind, if_neg hq, if_neg (Nat.not_le.2 hw), hcode, Bool.not_true,
      Bool.false_eq_true, if_false, hres, portal_of_word hw, hp, hoffer, statusOk]
  · rw [serai_of_serais hu, Chip.serai_onSerai]
    exact look_put_same ..

end

/-- Settles O20: each command's refusals one by one in the order in which it makes them; what WLOAD does with the tile it has read
stands in `exec_wload_read`, a token's way into a portal in `Page.offer_enters`. -/
theorem weightCommands : Obligations.WeightCommands := by
  rintro s dr d1 n d b m q x _ _ passed elems got c0 t h hx rfl rfl
  refine ⟨fun hdesc => ⟨wload_badCell h hx hdesc, wload_waits h hx hdesc, fun hcell hq => ⟨fun _ _ => wload_badDesc h hx hdesc hcell hq,
      wload_badTile h hx hdesc hcell hq, wload_used h hx hdesc hcell hq, fun hchk htile hused =>
        ⟨fun _ _ => wload_pageFault h hx hdesc hcell hq hchk htile hused, fun hfault hstart ht => ?read⟩⟩⟩,
    wdrop_badCell h hx, wdrop_waits h hx, wdrop_noPage h hx, wdrop_notResident h hx, wdrop_drops h hx,
    wpoke_waits h hx, wpoke_badWord h hx, wpoke_badDirective h hx, fun hq hw h1 h13 => ?poke⟩
  case read =>
    exact ⟨wload_holds h hx hdesc hcell hq hchk htile hused hfault hstart ht,
      fun _ _ => wload_traps h hx hdesc hcell hq hchk htile hused hfault hstart ht,
      fun _ _ => wload_races h hx hdesc hcell hq hchk htile hused hfault hstart ht,
      wload_loses h hx hdesc hcell hq hchk htile hused hfault hstart ht,
      wload_fills h hx hdesc hcell hq hchk htile hused hfault hstart ht⟩
  case poke =>
    have hcode := directiveOk_iff.2 ⟨h1, h13⟩
    exact ⟨wpoke_noPage h hx hq hw hcode, fun pg g hres => ⟨wpoke_badPortal h hx hq hw hcode hres, wpoke_full h hx hq hw hcode hres,
      wpoke_enters h hx hq hw hcode hres⟩⟩

end Sys2Proof.Claims
end

section
/-!
SUPPORT. SPAWN (R184): the watches of an argument block, the refusals from the block on, and the caravan that it makes.
-/

namespace Sys2Proof.Machine

open Sys2Proof.Claims

/-! ## The watches of a block (R184, R283) -/

section

variable (c : Chip) (u : Nat) (d : Drover) (b : List Byte)

/-- The word that entry i of a block watches, where it has one. -/
def Chip.watchOf (i : Nat) : Option Nat :=
  if bitOf (byteAt b 29) i then
    match c.engineLeaf u d (field b (32 + 8 * i) 8) .read with
    | .ok l _ => some (watchWord l (l.pa (field b (32 + 8 * i) 8)))
    | _ => none
  else none

/-- The watches with entry i added. -/
def Chip.addWatch (m : SMap Nat) (i : Nat) : SMap Nat := (c.watchOf u d b i).elim m (put m i)

variable {c u d b}

theorem Chip.watchOf_ok {i : Nat} {l : Leaf} {c2 : Chip} (hi : bitOf (byteAt b 29) i = true)
    (hl : c.engineLeaf u d (field b (32 + 8 * i) 8) .read = .ok l c2) :
    c.watchOf u d b i = some (watchWord l (l.pa (field b (32 + 8 * i) 8))) := by
  simp [Chip.watchOf, hi, hl]

theorem Chip.watchList_cons {i : Nat} (h : WatchFits c u d b i) (r : List Nat) (m : SMap Nat) :
    c.watchList u d b (i :: r) m = c.watchList u d b r (c.addWatch u d b m i) := by
  rw [Chip.watchList]
  by_cases hi : bitOf (byteAt b 29) i = true
  · obtain ⟨halign, l, c2, hl, htag⟩ := h hi
    simp only [hi, Bool.not_true, Bool.false_eq_true, if_false, halign, ne_eq, not_true_eq_false, hl, htag, if_true, Chip.addWatch,
      Chip.watchOf_ok hi hl, Option.elim_some]
  · rw [Bool.not_eq_true] at hi
    simp [hi, Chip.addWatch, Chip.watchOf]

/-- Entries that fit are passed one by one. -/
theorem Chip.watchList_append {l : List Nat} (h : ∀ i ∈ l, WatchFits c u d b i) (r : List Nat) (m : SMap Nat) :
    c.watchList u d b (l ++ r) m = c.watchList u d b r (l.foldl (c.addWatch u d b) m) := by
  induction l generalizing m with
  | nil => rfl
  | cons i l ih =>
    rw [List.cons_append, Chip.watchList_cons (h i (.head _)), ih fun j hj => h j (.tail _ hj)]
    rfl

theorem Chip.watchList_ok (h : ∀ i, i < 4 → WatchFits c u d b i) :
    c.watchList u d b (List.range 4) [] = .ok ((List.range 4).foldl (c.addWatch u d b) []) := by
  have hl := Chip.watchList_append (fun i hi => h i (List.mem_range.1 hi)) [] []
  rwa [List.append_nil] at hl

/-- The first entry that does not fit is the one that counts. -/
theorem Chip.watchList_first {i : Nat} (hi : i < 4) (hbit : bitOf (byteAt b 29) i = true) (h : ∀ j, j < i → WatchFits c u d b j) :
    ∃ r m, c.watchList u d b (List.range 4) [] = c.watchList u d b (i :: r) m := by
  have hsplit : ∃ r, List.range 4 = List.range i ++ i :: r := by
    interval_cases i <;> exact ⟨_, rfl⟩
  obtain ⟨r, hr⟩ := hsplit
  exact ⟨r, _, hr ▸ Chip.watchList_append (fun j hj => h j (List.mem_range.1 hj)) (i :: r) []⟩

section

variable {i : Nat} (hbit : bitOf (byteAt b 29) i = true)

include hbit

theorem Chip.watchList_misaligned (h : field b (32 + 8 * i) 8 % 8 ≠ 0) (r : List Nat) (m : SMap Nat) :
    c.watchList u d b (i :: r) m = .bad := by
  simp only [Chip.watchList, hbit, Bool.not_true, Bool.false_eq_true, if_false, ne_eq, h, not_false_eq_true, if_true]

variable (halign : field b (32 + 8 * i) 8 % 8 = 0)

include halign

theorem Chip.watchList_untagged {l : Leaf} {c2 : Chip} (hl : c.engineLeaf u d (field b (32 + 8 * i) 8) .read = .ok l c2)
    (htag : l.tagged = false) (r : List Nat) (m : SMap Nat) : c.watchList u d b (i :: r) m = .bad := by
  simp only [Chip.watchList, hbit, Bool.not_true, Bool.false_eq_true, if_false, ne_eq, halign, not_true_eq_false, hl, htag]

theorem Chip.watchList_fault {k va : Nat} (hl : c.engineLeaf u d (field b (32 + 8 * i) 8) .read = .bad k va) (r : List Nat) (m : SMap Nat) :
    c.watchList u d b (i :: r) m = .fault k va := by
  simp only [Chip.watchList, hbit, Bool.not_true, Bool.false_eq_true, if_false, ne_eq, halign, not_true_eq_false, hl]

end

/-! ### Which words are watched -/

theorem Chip.look_addWatch {i w : Nat} (hw : c.watchOf u d b i = some w) {m : SMap Nat} (h : look m i = some w) (j : Nat) :
    look (c.addWatch u d b m j) i = some w := by
  rw [Chip.addWatch]
  by_cases hj : i = j
  · subst hj
    rw [hw]
    exact look_put_same ..
  · cases c.watchOf u d b j with
    | none => exact h
    | some x => exact (look_put_other m x hj).trans h

theorem Chip.look_foldl_addWatch {i w : Nat} (hw : c.watchOf u d b i = some w) {l : List Nat} {m : SMap Nat}
    (h : i ∈ l ∨ look m i = some w) : look (l.foldl (c.addWatch u d b) m) i = some w := by
  induction l generalizing m with
  | nil => exact h.resolve_left List.not_mem_nil
  | cons j l ih =>
    refine ih ?_
    rcases h with h | h
    · rcases List.mem_cons.1 h with rfl | h
      · exact .inr (by rw [Chip.addWatch, hw]; exact look_put_same ..)
      · exact .inl h
    · exact .inr (Chip.look_addWatch hw h j)

/-- A block with no entry present watches nothing. -/
theorem Chip.foldl_addWatch_none (h : byteAt b 29 = 0) (l : List Nat) (m : SMap Nat) : l.foldl (c.addWatch u d b) m = m := by
  have hnone : ∀ i, c.watchOf u d b i = none := fun i => by simp [Chip.watchOf, h, bitOf]
  induction l generalizing m with
  | nil => rfl
  | cons i l ih => rw [List.foldl_cons, Chip.addWatch, hnone, Option.elim_none, ih]

end

/-- A byte below 16 that is not zero has a bit among its low four. -/
theorem exists_bitOf {n : Nat} (h : n < 16) (h0 : n ≠ 0) : ∃ i, i < 4 ∧ bitOf n i = true := by
  have key : ∀ n, n < 16 → n ≠ 0 → ∃ i, i < 4 ∧ bitOf n i = true := by decide
  exact key n h h0

/-! ## A caravan made ready, or watching -/

/-- The chip once SPAWN has made its caravan: in the die's ready queue, or watching its words (R184). -/
def Chip.spawning (c : Chip) (cycle : Nat) (l : Launching) (m : SMap Nat) (die order : Nat) : Chip :=
  if m = [] then (c.newCaravan cycle l m .gone).1.enqueue c.sched.nextCv die cycle order
  else (c.newCaravan cycle l m (.watching die)).1

theorem Chip.newCaravan_caravans (c : Chip) (cycle : Nat) (l : Launching) (watches : SMap Nat) (place : Place) :
    ∃ v, (c.newCaravan cycle l watches place).1.sched.caravans = put c.sched.caravans c.sched.nextCv v ∧
      v.MadeFor l.exp l.tem.size l.prio ∧ v.watches = watches ∧ v.place = place := by
  refine ⟨_, congrArg (put · _ _) ?_, ⟨rfl, by simp, rfl⟩, rfl, rfl⟩
  apply foldl_caravans
  intro c i
  rfl

theorem Chip.caravan?_newCaravan (c : Chip) (cycle : Nat) (l : Launching) (watches : SMap Nat) (place : Place) :
    ∃ v, (c.newCaravan cycle l watches place).1.caravan? c.sched.nextCv = some v ∧ v.MadeFor l.exp l.tem.size l.prio ∧
      v.watches = watches ∧ v.place = place :=
  let ⟨v, hv, h⟩ := c.newCaravan_caravans cycle l watches place
  ⟨v, (congrArg (look · _) hv).trans (look_put_same ..), h⟩

theorem length_filter_put {α : Type} (p : Nat × α → Bool) (m : SMap α) {i : Nat} {v : α} (h : p (i, v) = false) :
    ((put m i v).filter p).length ≤ (m.filter p).length := by
  induction m with
  | nil => simp [put, h]
  | cons q m ih =>
    obtain ⟨k, w⟩ := q
    rw [put]
    split
    · rw [List.filter_cons_of_neg (by simp [h])]
    · split
      case isTrue hk =>
        subst hk
        rw [List.filter_cons_of_neg (by simp [h])]
        exact ((List.sublist_cons_self ..).filter p).length_le
      case isFalse =>
        cases hp : p (k, w)
        · rw [List.filter_cons_of_neg (by simp [hp]), List.filter_cons_of_neg (by simp [hp])]; exact ih
        · rw [List.filter_cons_of_pos hp, List.filter_cons_of_pos hp]; exact Nat.succ_le_succ ih

/-- A caravan made with no place fills no queue. -/
theorem Chip.queueLen_newCaravan (c : Chip) (cycle : Nat) (l : Launching) (m : SMap Nat) (die : Nat) :
    (c.newCaravan cycle l m .gone).1.queueLen die ≤ c.queueLen die := by
  obtain ⟨v, hv, -, -, hplace⟩ := c.newCaravan_caravans cycle l m .gone
  rw [Chip.queueLen, hv]
  refine length_filter_put _ _ ?_
  rw [hplace]

theorem Chip.enqueue_queued {c : Chip} {cv : Nat} {v : Caravan} (h : c.caravan? cv = some v) {die : Nat} (hroom : c.queueLen die < 2048)
    (time order : Nat) : (c.enqueue cv die time order).caravan? cv =
      some { v with ready := time, order := order, agedAt := time, passedAt := none, place := .queue die } := by
  unfold Chip.enqueue
  rw [h]
  simp only [hroom, decide_true, if_true]
  rw [Chip.caravan?, Chip.setMembers_caravans]
  exact Chip.onCaravan_caravan? h _

/-! ## SPAWN from its block on (R184) -/

theorem blockGroups_refused {b : List Byte} {ex : Expedition} :
    ((blockGroups b).any fun g => g.any fun k => (look ex.groups k).isNone) = true ↔
      ∃ i, i < 4 ∧ bitOf (byteAt b 28) i = true ∧ look ex.groups (byteAt b (24 + i)) = none := by
  rw [blockGroups, List.any_map, List.any_eq_true]
  refine exists_congr fun i => and_congr List.mem_range ?_
  cases hi : bitOf (byteAt b 28) i <;> simp [hi]

theorem argsBad_iff {b : List Byte} : argsBad b = true ↔ 16 ≤ byteAt b 28 ∨ 16 ≤ byteAt b 29 ∨ byteAt b 31 ≠ 0 := by
  simp [argsBad, or_assoc, Nat.lt_iff_add_one_le]

/-- What SPAWN launches (R184). -/
def Drover.launching (dr : Drover) (e w : Nat) (tem : Template) (b : List Byte) (m : SMap Nat) : Launching :=
  { exp := e, tmpl := w % 1024, tem := tem, prio := if bitOf w 15 then bitsOf w 10 3 else tem.prio,
    args := [BitVec.ofNat 64 (field b 0 8), BitVec.ofNat 64 (field b 8 8), BitVec.ofNat 64 (field b 16 8)], groups := blockGroups b,
    hint := byteAt b 30, near := m.head?.bind fun p => if p.2 < 2 ^ 48 then sliceNear p.2 else none, clk := dr.clk }

section

variable {s : State} {dr0 dr : Drover} {d : BitVec 5} {w : Nat} {b : List Byte} {c : Chip} {e : Nat} {ex : Expedition} {tem : Template}
  (he : c.groupExp dr0 = some e) (hex : c.exp? e = some ex)

include he hex

theorem State.spawn_noTemplate (ht : look ex.templates (w % 1024) = none) :
    s.spawn dr0 dr d w b c = Drover.status c dr d (failWord 28) := by
  simp only [State.spawn, he, hex, ht, Option.bind_some, Option.map_none]

variable (ht : look ex.templates (w % 1024) = some tem)

include ht

theorem State.spawn_noEntry (h0 : tem.entry = 0) : s.spawn dr0 dr d w b c = Drover.status c dr d (failWord 28) := by
  simp only [State.spawn, he, hex, ht, Option.bind_some, Option.map_some, if_pos h0]

variable (h0 : tem.entry ≠ 0)

include h0

theorem State.spawn_noGroup (hg : ((blockGroups b).any fun g => g.any fun k => (look ex.groups k).isNone) = true) :
    s.spawn dr0 dr d w b c = Drover.status c dr d (failWord 29) := by
  simp only [State.spawn, he, hex, ht, Option.bind_some, Option.map_some, if_neg h0, if_pos hg]

variable (hg : ¬ ((blockGroups b).any fun g => g.any fun k => (look ex.groups k).isNone) = true)

include hg

theorem State.spawn_badWatch (hw : c.watchList s.focus dr0 b (List.range 4) [] = .bad) :
    s.spawn dr0 dr d w b c = Drover.status c dr d (failWord 30) := by
  simp only [State.spawn, he, hex, ht, Option.bind_some, Option.map_some, if_neg h0, if_neg hg, hw]

theorem State.spawn_watchFault {k va : Nat} (hw : c.watchList s.focus dr0 b (List.range 4) [] = .fault k va) :
    s.spawn dr0 dr d w b c = .trap (dr0.trapAt k (BitVec.ofNat 64 va)) dr0 := by
  simp only [State.spawn, he, hex, ht, Option.bind_some, Option.map_some, if_neg h0, if_neg hg, hw]

variable {m : SMap Nat} (hw : c.watchList s.focus dr0 b (List.range 4) [] = .ok m)

include hw

theorem State.spawn_badArgs (ha : argsBad b = true) : s.spawn dr0 dr d w b c = Drover.status c dr d (failWord 21) := by
  simp only [State.spawn, he, hex, ht, Option.bind_some, Option.map_some, if_neg h0, if_neg hg, hw, if_pos ha]

variable (ha : ¬ argsBad b = true)

include ha

theorem State.spawn_full (hq : 2048 ≤ c.queueLen (c.bazaarDie dr0 e)) (hroom : c.spillRoom e = false) :
    s.spawn dr0 dr d w b c = Drover.status c dr d (failWord 24) := by
  simp only [State.spawn, he, hex, ht, Option.bind_some, Option.map_some, if_neg h0, if_neg hg, hw, if_neg ha, hq, hroom, Bool.not_false,
    and_self, if_true]

/-- With room for it the caravan is made, and its first TASKID is the answer. -/
theorem State.spawn_makes (hroom : c.queueLen (c.bazaarDie dr0 e) < 2048 ∨ c.spillRoom e = true) :
    ∃ order, s.spawn dr0 dr d w b c =
      Drover.status (c.spawning s.cycle ((dr.tick s.focus).launching e w tem b m) m (c.bazaarDie dr0 e) order) (dr.tick s.focus) d
        (statusWord 0 0 ex.nextTask) := by
  have hfits : ¬ (2048 ≤ c.queueLen (c.bazaarDie dr0 e) ∧ (!c.spillRoom e) = true) := by
    rintro ⟨hfull, hno⟩
    rcases hroom with h | h
    · omega
    · rw [h] at hno; cases hno
  have hid : ∀ (l : Launching) (place : Place), l.exp = e → (c.newCaravan s.cycle l m place).2.2 = ex.nextTask := by
    rintro l place rfl
    exact congrArg (fun x => (Option.map (·.nextTask) x).getD 1) hex
  simp only [State.spawn, he, hex, ht, Option.bind_some, Option.map_some, if_neg h0, if_neg hg, hw, if_neg ha, if_neg hfits]
  refine ⟨arbiterOrder 2 (if dr0.steward then 8192 + dr0.core.getD 0 else 1 + dr0.core.getD 0), ?_⟩
  rw [← hid ((dr.tick s.focus).launching e w tem b m) (if m = [] then .gone else .watching (c.bazaarDie dr0 e)) rfl, Chip.spawning]
  by_cases hm : m = []
  · simp only [hm, if_true]; rfl
  · simp only [hm, if_false]; rfl

end

end Sys2Proof.Machine

namespace Sys2Proof.Claims

open Sys2Proof.Machine

/-! ## SPAWN (R184) -/

section

variable {s : State} {dr d1 : Drover} {e : Nat} {d a b : BitVec 5} {x y : Word} {blk : List Byte} {c : Chip} {ex : Expedition}
  {tem : Template} {P : State → Drover → Prop} (h : Ready2d s dr d1 d a b x y)

include h

theorem spawn_badMode (hbad : 65536 ≤ x.toNat ∨ bitsOf x.toNat 13 2 ≠ 0) : Gives s dr (.spawn d a b) d (status 20 0) any := by
  obtain ⟨hc, hsrc, hdst, -, hread⟩ := h
  have hmode : x.toNat / 2 ^ 16 ≠ 0 ∨ bitsOf x.toNat 13 2 ≠ 0 := hbad.imp_left fun hbig => by omega
  refine gives_of_command (c := s.chip) (d2 := d1) hc rfl rfl ?_ (Drover.read2_sameBut hread) fun _ _ _ => trivial
  simp only [hsrc, hdst, hread, unlessStall_none, Res.ok_bind, if_pos hmode, ← status_eq]
  rfl

variable (hx : x.toNat < 65536) (hm : bitsOf x.toNat 13 2 = 0)

include hx hm

omit h hm in
theorem spawn_highBits : x.toNat / 2 ^ 16 = 0 := Nat.div_eq_of_lt hx

theorem spawn_unreleased (hrel : dr.released = false) : Waits s dr (.spawn d a b) := by
  obtain ⟨hc, hsrc, hdst, -, hread⟩ := h
  refine waits_of_stalled (b := some 32) (State.drives_stall (i := .spawn d a b) hc ?_)
  simp only [hsrc, hdst, hread, unlessStall_none, Res.ok_bind, spawn_highBits hx, hm, hrel, ne_eq, not_true_eq_false, or_self, if_false,
    Bool.not_false, if_true]

variable (hrel : dr.released = true)

include hrel

theorem spawn_misaligned (hb : b ≠ 0) (ha : y.toNat % 64 ≠ 0) : Trapped s dr (.spawn d a b) 2 dr.regs.pc y := by
  obtain ⟨hc, hsrc, hdst, -, hread⟩ := h
  refine trapped_of_drives (q := dr.trapAt 2 y) (j := .spawn d a b) hc rfl ?_ .rfl
  simp only [hsrc, hdst, hread, unlessStall_none, Res.ok_bind, spawn_highBits hx, hm, hrel, ne_eq, not_true_eq_false, or_self, if_false,
    Bool.not_true, Bool.false_eq_true, hb, State.block_misaligned s s.chip dr ha]

variable (hblk : SpawnBlock s dr b y blk c)

include hblk

/-- With its block at hand SPAWN is `State.spawn`. -/
theorem spawn_drives : ∃ f, exec (.spawn d a b) s = s.drives (.spawn d a b) f ∧ f dr = s.spawn dr d1 d x.toNat blk c := by
  obtain ⟨-, hsrc, hdst, -, hread⟩ := h
  refine ⟨_, rfl, ?_⟩
  simp only [hsrc, hdst, hread, unlessStall_none, Res.ok_bind, spawn_highBits hx, hm, hrel, ne_eq, not_true_eq_false, or_self, if_false,
    Bool.not_true, Bool.false_eq_true]
  rcases hblk with ⟨rfl, rfl, rfl⟩ | ⟨hb, hblk⟩
  · rw [if_pos rfl]
  · rw [if_neg hb, State.block_of_blockIs hblk]

theorem spawn_gives {v : Word} {c' : Chip} {d2 : Drover} (hs : s.spawn dr d1 d x.toNat blk c = Drover.status c' d2 d v)
    (h2 : d1.SameBut d2) (hP : ∀ t d', (c'.setDrover s.focus d').Logged t.chip → P t d') : Gives s dr (.spawn d a b) d v P := by
  obtain ⟨f, hi, hf⟩ := spawn_drives h hx hm hrel hblk
  obtain ⟨hc, -, -, -, hread⟩ := h
  exact gives_of_command hc hi rfl (hf.trans hs) ((Drover.read2_sameBut hread).trans h2) hP

theorem spawn_refused {k : Nat} (hs : s.spawn dr d1 d x.toNat blk c = Drover.status c d1 d (failWord k)) :
    Gives s dr (.spawn d a b) d (status k 0) any :=
  spawn_gives h hx hm hrel hblk (hs.trans (by rw [failWord, status_eq])) .rfl fun _ _ _ => trivial

variable (he : c.groupExp dr = some e) (hex : c.exp? e = some ex)

include he hex

variable (ht : look ex.templates (x.toNat % 1024) = some tem) (h0 : tem.entry ≠ 0)
  (hg : ∀ i, i < 4 → bitOf (byteAt blk 28) i = true → (look ex.groups (byteAt blk (24 + i))).isSome = true)

omit h hx hm hrel hblk he hex

include hg in
/-- Every group of the block is in the table. -/
theorem blockGroups_known : ¬ ((blockGroups blk).any fun g => g.any fun k => (look ex.groups k).isNone) = true := by
  rw [blockGroups_refused]
  rintro ⟨i, hi, hbit, hnone⟩
  simpa [hnone] using hg i hi hbit

include h hx hm hrel hblk he hex ht h0 hg

/-- The first watch entry that does not fit is refused or traps (R184). -/
theorem spawn_watch {i : Nat} (hi : i < 4) (hbit : bitOf (byteAt blk 29) i = true) (hfit : ∀ j, j < i → WatchFits c s.focus dr blk j) :
    (field blk (32 + 8 * i) 8 % 8 ≠ 0 → Gives s dr (.spawn d a b) d (status 30 0) any) ∧
    (field blk (32 + 8 * i) 8 % 8 = 0 →
      (∀ l c2, c.engineLeaf s.focus dr (field blk (32 + 8 * i) 8) .read = .ok l c2 → l.tagged = false →
        Gives s dr (.spawn d a b) d (status 30 0) any) ∧
      (∀ k va, c.engineLeaf s.focus dr (field blk (32 + 8 * i) 8) .read = .bad k va →
        Trapped s dr (.spawn d a b) k dr.regs.pc (BitVec.ofNat 64 va))) := by
  obtain ⟨r, m, hlist⟩ := Chip.watchList_first hi hbit hfit
  have refused (hbad : c.watchList s.focus dr blk (i :: r) m = .bad) : Gives s dr (.spawn d a b) d (status 30 0) any :=
    spawn_refused h hx hm hrel hblk (State.spawn_badWatch he hex ht h0 (blockGroups_known hg) (hlist.trans hbad))
  refine ⟨fun ha => refused (Chip.watchList_misaligned hbit ha r m), fun ha => ⟨fun l c2 hl htag => ?_, fun k va hl => ?_⟩⟩
  · exact refused (Chip.watchList_untagged hbit ha hl htag r m)
  · obtain ⟨f, hf, hans⟩ := spawn_drives h hx hm hrel hblk
    have hfault := hlist.trans (Chip.watchList_fault hbit ha hl r m)
    exact trapped_of_drives (q := dr.trapAt k (BitVec.ofNat 64 va)) h.1 hf
      (hans.trans (State.spawn_watchFault he hex ht h0 (blockGroups_known hg) hfault)) .rfl

variable (hfit : ∀ i, i < 4 → WatchFits c s.focus dr blk i)

include hfit

theorem spawn_badArgs (hbad : 16 ≤ byteAt blk 28 ∨ 16 ≤ byteAt blk 29 ∨ byteAt blk 31 ≠ 0) :
    Gives s dr (.spawn d a b) d (status 21 0) any :=
  spawn_refused h hx hm hrel hblk
    (State.spawn_badArgs he hex ht h0 (blockGroups_known hg) (Chip.watchList_ok hfit) (argsBad_iff.2 hbad))

variable (h28 : byteAt blk 28 < 16) (h29 : byteAt blk 29 < 16) (h31 : byteAt blk 31 = 0)

omit h hx hm hrel hblk he hex ht h0 hg hfit

include h28 h29 h31 in
theorem argsGood : ¬ argsBad blk = true := by
  rw [argsBad_iff]
  omega

include h hx hm hrel hblk he hex ht h0 hg hfit h28 h29 h31

theorem spawn_full (hq : 2048 ≤ c.queueLen (c.bazaarDie dr e)) (hroom : c.spillRoom e = false) :
    Gives s dr (.spawn d a b) d (status 24 0) any :=
  spawn_refused h hx hm hrel hblk
    (State.spawn_full he hex ht h0 (blockGroups_known hg) (Chip.watchList_ok hfit) (argsGood h28 h29 h31) hq hroom)

omit h hx hm hrel hblk he hex ht h0 hg hfit h28 h29 h31 in
/-- The answer of a SPAWN: the TASKID of member 0, over a status of 0. -/
theorem statusWord_task (id : Nat) : statusWord 0 0 id = BitVec.ofNat 64 (id % 2 ^ 32 * 2 ^ 32) := by
  simp [statusWord]

omit h hx hm hrel hblk he hex ht h0 hg hfit h28 h29 h31 in
theorem bitOf_eq_testBit (n i : Nat) : bitOf n i = n.testBit i := by
  rw [Nat.testBit_eq_decide_div_mod_eq, bitOf, beq_eq_decide]

theorem spawn_makes (hroom : c.queueLen (c.bazaarDie dr e) < 2048 ∨ c.spillRoom e = true) :
    Gives s dr (.spawn d a b) d (BitVec.ofNat 64 (ex.nextTask % 2 ^ 32 * 2 ^ 32)) fun t _ =>
      (byteAt blk 29 = 0 → c.queueLen (c.bazaarDie dr e) < 2048 → ∃ (w : Caravan),
        t.chip.caravan? c.sched.nextCv = some w ∧ w.exp = e ∧ w.members.length = tem.size ∧ w.watches = [] ∧
        w.prio = (if x.toNat.testBit 15 then bitsOf x.toNat 10 3 else tem.prio) ∧ w.place = .queue (c.bazaarDie dr e)) ∧
      (byteAt blk 29 ≠ 0 → ∃ (w : Caravan),
        t.chip.caravan? c.sched.nextCv = some w ∧ w.exp = e ∧ w.members.length = tem.size ∧
        w.prio = (if x.toNat.testBit 15 then bitsOf x.toNat 10 3 else tem.prio) ∧
        w.place = .watching (c.bazaarDie dr e) ∧ ∀ i l c2, i < 4 → bitOf (byteAt blk 29) i = true →
          c.engineLeaf s.focus dr (field blk (32 + 8 * i) 8) .read = .ok l c2 →
          look w.watches i = some (watchWord l (l.pa (field blk (32 + 8 * i) 8)))) := by
  obtain ⟨order, hs⟩ := State.spawn_makes (dr := d1) (d := d) he hex ht h0 (blockGroups_known hg)
    (Chip.watchList_ok hfit) (argsGood h28 h29 h31) hroom
  rw [statusWord_task] at hs
  refine spawn_gives h hx hm hrel hblk hs (d1.tick_sameBut s.focus) fun t d' hlog => ?_
  have hsched (k : Nat) : t.chip.caravan? k = Chip.caravan? (c.spawning s.cycle _ _ (c.bazaarDie dr e) order) k :=
    congrArg (fun sc : Sched => look sc.caravans k) hlog.sched
  have hwatched {i : Nat} {l : Leaf} {c2 : Chip} (hi : i < 4) (hbit : bitOf (byteAt blk 29) i = true)
      (hl : c.engineLeaf s.focus dr (field blk (32 + 8 * i) 8) .read = .ok l c2) :=
    Chip.look_foldl_addWatch (m := []) (Chip.watchOf_ok hbit hl) (.inl (List.mem_range.2 hi))
  rw [hsched, ← bitOf_eq_testBit]
  constructor
  · intro hnone hq
    rw [Chip.foldl_addWatch_none hnone, Chip.spawning, if_pos rfl]
    obtain ⟨w, hw, ⟨hexp, hlen, hprio⟩, hwatches, -⟩ := c.caravan?_newCaravan s.cycle _ [] .gone
    refine ⟨_, Chip.enqueue_queued hw (Nat.lt_of_le_of_lt (c.queueLen_newCaravan ..) hq) .., hexp, hlen, hwatches, hprio, rfl⟩
  · intro hsome
    obtain ⟨i, hi, hbit⟩ := exists_bitOf h29 hsome
    obtain ⟨-, l, c2, hl, -⟩ := hfit i hi hbit
    have hne : (List.range 4).foldl (c.addWatch s.focus dr blk) [] ≠ [] := fun hnil => by
      have hlook := hwatched hi hbit hl
      rw [hnil] at hlook
      cases hlook
    rw [Chip.spawning, if_neg hne]
    obtain ⟨w, hw, ⟨hexp, hlen, hprio⟩, hwatches, hplace⟩ := c.caravan?_newCaravan s.cycle _ _ (.watching (c.bazaarDie dr e))
    exact ⟨w, hw, hexp, hlen, hprio, hplace, fun i l c2 hi hbit hl => by rw [hwatches]; exact hwatched hi hbit hl⟩

end

end Sys2Proof.Claims
end

section
/-!
SUPPORT. What leaves the drovers and the tasks alone: writes of the engines, packets, the fault log, the end of a caravan; then
what the death of a member changes of them (R185, R189, R343).
-/

namespace Sys2Proof.Machine

/-! ## Drovers and tasks kept -/

/-- Drovers and tasks stand. -/
structure Chip.TasksKept (c c' : Chip) : Prop where
  drovers : c'.drovers = c.drovers
  tasks : c'.sched.tasks = c.sched.tasks

theorem Chip.TasksKept.rfl {c : Chip} : c.TasksKept c := ⟨.refl _, .refl _⟩

theorem Chip.TasksKept.trans {a b c : Chip} (h : a.TasksKept b) (k : b.TasksKept c) : a.TasksKept c :=
  ⟨k.drovers.trans h.drovers, k.tasks.trans h.tasks⟩

theorem Chip.Logged.tasksKept {c c' : Chip} (h : c.Logged c') : c.TasksKept c' := ⟨h.drovers, congrArg Sched.tasks h.sched⟩

theorem Chip.TasksKept.task? {c c' : Chip} (h : c.TasksKept c') (u : Nat) : c'.task? u = c.task? u := by
  rw [Chip.task?, h.tasks, Chip.task?]

theorem Chip.TasksKept.drover? {c c' : Chip} (h : c.TasksKept c') (u : Nat) : c'.drover? u = c.drover? u := Chip.drover?_congr h.drovers u

/-- Steps that each keep drovers and tasks keep them together. -/
theorem Chip.foldl_tasksKept {α : Type} {f : Chip → α → Chip} (hf : ∀ (c : Chip) a, c.TasksKept (f c a)) (l : List α) (c : Chip) :
    c.TasksKept (l.foldl f c) := by
  induction l generalizing c with
  | nil => exact .rfl
  | cons a l ih => exact (hf c a).trans (ih _)

theorem Chip.onTraps_tasksKept (c : Chip) (f : Traps → Traps) : c.TasksKept (c.onTraps f) := ⟨rfl, rfl⟩

theorem Chip.onSched_tasksKept (c : Chip) {f : Sched → Sched} (h : (f c.sched).tasks = c.sched.tasks) : c.TasksKept (c.onSched f) :=
  ⟨rfl, h⟩

theorem Chip.onExp_tasksKept (c : Chip) (e : Nat) (f : Expedition → Expedition) : c.TasksKept (c.onExp e f) := ⟨rfl, rfl⟩

theorem Chip.onCaravan_tasksKept (c : Chip) (cv : Nat) (f : Caravan → Caravan) : c.TasksKept (c.onCaravan cv f) := ⟨rfl, rfl⟩

theorem Chip.onLink_tasksKept (c : Chip) (l : Nat) (f : Link → Link) : c.TasksKept (c.onLink l f) := by
  obtain ⟨ls, h⟩ := c.onLink_frame l f
  rw [h]
  exact ⟨rfl, rfl⟩

theorem Chip.request_tasksKept {c c' : Chip} {dev ptype addr tag : Nat} {data : List Byte} {who : Nat → RemoteReq}
    (h : c.request dev ptype addr data who = some (tag, c')) : c.TasksKept c' := by
  unfold Chip.request at h
  split at h
  case h_1 => cases h
  case h_2 l _ =>
    cases h
    exact (c.onLink_tasksKept l _).trans ⟨rfl, rfl⟩

theorem Chip.keepLeaf_drovers (c : Chip) (die : Nat) (l : Leaf) : (c.keepLeaf die l).drovers = c.drovers := by
  unfold Chip.keepLeaf
  dsimp only
  split
  · rfl
  · split <;> rfl

/-- What an access of an engine leaves behind, where it leaves anything, has the drovers and tasks of c. -/
def Got.KeepsTasks {α : Type} (c : Chip) : Got α → Prop
  | .ok _ c' => c.TasksKept c'
  | .wait c' => c.TasksKept c'
  | .bad _ _ => True

theorem Got.KeepsTasks.bind {α β : Type} {c : Chip} {g : Got α} {f : α → Chip → Got β} (hg : g.KeepsTasks c)
    (hf : ∀ a c', (f a c').KeepsTasks c') : (g.bind f).KeepsTasks c := by
  cases g with
  | bad k va => trivial
  | wait c' => exact hg
  | ok a c' =>
    have h := hf a c'
    rw [Got.bind]
    cases hr : f a c' with
    | bad k va => trivial
    | wait c2 => rw [hr] at h; exact hg.trans h
    | ok b c2 => rw [hr] at h; exact hg.trans h

/-- A translation for the engines may keep its leaf, and does no more (R250). -/
theorem Chip.engineLeaf_keepsTasks (c : Chip) (u : Nat) (d : Drover) (va : Nat) (n : Need) (pins : List Leaf) :
    (c.engineLeaf u d va n pins).KeepsTasks c := by
  unfold Chip.engineLeaf
  split
  case h_1 =>
    split
    · trivial
    · exact .rfl
  case h_2 =>
    split
    case h_1 => trivial
    case h_2 => exact .rfl
    case h_3 =>
      split
      · trivial
      · exact .rfl
    case h_4 l _ =>
      split
      · trivial
      · rw [Got.KeepsTasks]
        split
        · exact ⟨c.keepLeaf_drovers .., congrArg Sched.tasks (c.keepLeaf_sched ..)⟩
        · exact .rfl

theorem Chip.writePiece_keepsTasks (c : Chip) (u : Nat) (d : Drover) (va : Nat) (bs : List Byte) (pins : List Leaf) :
    (c.writePiece u d va bs pins).KeepsTasks c := by
  refine (c.engineLeaf_keepsTasks u d va .write pins).bind fun l c1 => ?_
  dsimp only
  split
  · cases hr : c1.request l.dev 1 (l.pa va) bs fun k => .posted (blockAgent u) k with
    | none => trivial
    | some r => exact Chip.request_tasksKept hr
  · split
    · exact .rfl
    · exact ⟨rfl, rfl⟩

theorem Chip.writeVa_tasksKept (u : Nat) (d : Drover) (fuel : Nat) :
    ∀ (c : Chip) (va : Nat) (bs : List Byte), c.TasksKept (c.writeVa u d va fuel bs).1 := by
  induction fuel with
  | zero => intro c va bs; exact .rfl
  | succ fuel ih =>
    intro c va bs
    rw [Chip.writeVa]
    split
    · exact .rfl
    · have hpiece := c.writePiece_keepsTasks u d va (bs.take (min bs.length (64 - va % 64))) []
      dsimp only
      split
      case h_1 => exact .rfl
      case h_2 hp => rw [hp] at hpiece; exact hpiece
      case h_3 hp => rw [hp] at hpiece; exact hpiece.trans (ih ..)

theorem Chip.freeSlot_tasksKept (c : Chip) (u slot : Nat) : c.TasksKept (c.freeSlot u slot) := by
  unfold Chip.freeSlot
  split
  · exact Chip.writeVa_tasksKept ..
  · exact .rfl

theorem Chip.deliverRecord_tasksKept (c : Chip) (r : Record) : c.TasksKept (c.deliverRecord r) := by
  refine ⟨?_, congrArg Sched.tasks (c.deliverRecord_sched r)⟩
  unfold Chip.deliverRecord
  split
  case h_1 => rfl
  case h_2 =>
    dsimp only
    split
    · rfl
    · split <;> rfl

theorem Chip.raiseRecord_tasksKept (c : Chip) (die exp serai : Nat) (notask fatal defer : Bool) (task caravan : Option Nat) (q : TrapReq)
    (acc : Option Nat) (watch : Option (Nat × Nat)) :
    c.TasksKept (c.raiseRecord die exp serai notask fatal defer task caravan q acc watch) :=
  (c.onTraps_tasksKept _).trans (Chip.deliverRecord_tasksKept ..)

/-! ## The end of a caravan -/

theorem Chip.tellFate_tasksKept (c : Chip) (dev code cv : Nat) : c.TasksKept (c.tellFate dev code cv) := by
  unfold Chip.tellFate
  split
  case h_1 => exact .rfl
  case h_2 h => exact Chip.request_tasksKept h

theorem Chip.tellOrigin_tasksKept (c : Chip) (v : Caravan) : c.TasksKept (c.tellOrigin v) := by
  unfold Chip.tellOrigin
  split
  · exact .rfl
  · exact c.tellFate_tasksKept ..

theorem Chip.spillFreed_tasksKept (c : Chip) (e : Nat) : c.TasksKept (c.spillFreed e) := by
  unfold Chip.spillFreed
  split
  · exact c.onExp_tasksKept ..
  · exact .rfl

theorem Chip.caravanGone_tasksKept (c : Chip) (cv : Nat) : c.TasksKept (c.caravanGone cv) := by
  unfold Chip.caravanGone
  cases c.caravan? cv with
  | none => exact .rfl
  | some v =>
    have told : c.TasksKept (if v.place = .gone then c else c.tellOrigin v) := by
      split
      · exact .rfl
      · exact c.tellOrigin_tasksKept v
    have unbound := told.trans (Chip.foldl_tasksKept (f := fun c u => c.unbindTask u) (fun _ _ => ⟨rfl, rfl⟩) v.members _)
    dsimp only
    refine Chip.TasksKept.trans ?_ (Chip.onSched_tasksKept _ rfl)
    refine Chip.TasksKept.trans ?_ (Chip.spillFreed_tasksKept _ v.exp)
    refine Chip.TasksKept.trans ?_ (Chip.onCaravan_tasksKept _ cv _)
    exact unbound.trans (Chip.onSched_tasksKept _ rfl)

/-! ## The end of a task -/

theorem Chip.cancelWaiters_tasksKept (c : Chip) (u : Nat) : c.TasksKept (c.cancelWaiters u) := ⟨rfl, rfl⟩

theorem Chip.dropFeeds_tasksKept (c : Chip) (u : Nat) : c.TasksKept (c.dropFeeds u) := ⟨rfl, rfl⟩

theorem Chip.logUnread_tasksKept (c : Chip) (u : Nat) (d : Drover) : c.TasksKept (c.logUnread u d) :=
  (Chip.foldl_logLate_logged ..).tasksKept

/-- A serai reset and its windows dead. -/
theorem Chip.seraiDead_tasksKept (c : Chip) (n : Nat) : c.TasksKept ((c.setSerai n Serai.reset).onSched fun s =>
    { s with dead := insertNat s.dead n, lastExp := del s.lastExp n }) := ⟨rfl, rfl⟩

theorem Chip.onTask_task? (c : Chip) (u : Nat) (f : Task → Task) (m : Nat) :
    (c.onTask u f).task? m = if m = u then (c.task? u).map f else c.task? m := look_upd ..

/-- What becomes of a member that is killed, once its save slot is free. -/
def Chip.memberDies (c : Chip) (u : Nat) (d : Drover) : Chip :=
  let c := (c.setDrover u d.killed).onTask u fun t => { t with state := .killed, slot := none, full := false, heldAt := none }
  let c := ((c.logUnread u d).cancelWaiters u).dropFeeds u
  match d.core with
  | none => c
  | some n =>
    (c.setSerai n Serai.reset).onSched fun s => { s with dead := insertNat s.dead n, lastExp := del s.lastExp n }

/-- The drover ends and the task is killed; nothing else is done to drovers and tasks. -/
theorem Chip.memberDies_tasksKept (c : Chip) (u : Nat) (d : Drover) :
    ((c.setDrover u d.killed).onTask u fun t => { t with state := .killed, slot := none, full := false, heldAt := none }).TasksKept
      (c.memberDies u d) := by
  unfold Chip.memberDies
  have hends := ((Chip.logUnread_tasksKept
    ((c.setDrover u d.killed).onTask u fun t => { t with state := .killed, slot := none, full := false, heldAt := none }) u d).trans
    (Chip.cancelWaiters_tasksKept _ u)).trans (Chip.dropFeeds_tasksKept _ u)
  cases d.core with
  | none => exact hends
  | some n => exact hends.trans (Chip.seraiDead_tasksKept ..)

theorem Chip.killMember_alive {c : Chip} {u : Nat} {d : Drover} {t : Task} (hd : c.drover? u = some d) (ht : c.task? u = some t)
    (halive : t.alive = true) : ∃ c0, c.TasksKept c0 ∧ c.killMember u = c0.memberDies u d := by
  unfold Chip.killMember
  simp only [hd, ht, halive, Bool.not_true, Bool.false_eq_true, if_false]
  cases t.slot with
  | none => exact ⟨c, .rfl, rfl⟩
  | some k => exact ⟨c.freeSlot u k, c.freeSlot_tasksKept u k, rfl⟩

/-- Without a drover, or no longer alive, a member stands as it is. -/
theorem Chip.killMember_eq_self {c : Chip} {u : Nat} (h : c.drover? u = none ∨ ∀ t, c.task? u = some t → t.alive = false) :
    c.killMember u = c := by
  unfold Chip.killMember
  split
  case h_1 d t hd ht =>
    rcases h with h | h
    · rw [hd] at h; cases h
    · simp [h t ht]
  case h_2 => rfl

/-! ## A caravan killed (R189, R343) -/

theorem Chip.killMember_cases (c : Chip) (u : Nat) : c.killMember u = c ∨
    ∃ d t c0, c.drover? u = some d ∧ c.task? u = some t ∧ t.alive = true ∧ c.TasksKept c0 ∧ c.killMember u = c0.memberDies u d := by
  cases hd : c.drover? u with
  | none => exact .inl (Chip.killMember_eq_self (.inl hd))
  | some d =>
    cases ht : c.task? u with
    | none => exact .inl (Chip.killMember_eq_self (.inr fun t h => by rw [ht] at h; cases h))
    | some t =>
      cases halive : t.alive with
      | false => exact .inl (Chip.killMember_eq_self (.inr fun t' h => by cases ht.symm.trans h; exact halive))
      | true =>
        obtain ⟨c0, hk, heq⟩ := Chip.killMember_alive hd ht halive
        exact .inr ⟨d, t, c0, rfl, rfl, halive, hk, heq⟩

theorem Chip.memberDies_task? (c : Chip) (u : Nat) (d : Drover) (m : Nat) : (c.memberDies u d).task? m =
    if m = u then (c.task? u).map fun t => { t with state := .killed, slot := none, full := false, heldAt := none } else c.task? m :=
  ((c.memberDies_tasksKept u d).task? m).trans (Chip.onTask_task? ..)

theorem Chip.memberDies_drover? (c : Chip) (u : Nat) (d : Drover) (m : Nat) :
    (c.memberDies u d).drover? m = if m = u then some d.killed else c.drover? m :=
  ((c.memberDies_tasksKept u d).drover? m).trans (Chip.setDrover_drover? ..)

/-- The task of a member is killed, and its drover off. -/
def Chip.Dead (c : Chip) (m : Nat) : Prop :=
  (c.task? m).map (·.state) = some .killed ∧ (c.drover? m).map (·.run) = some .off

/-- The task of a member lives, and it has a drover. -/
def Chip.Lives (c : Chip) (m : Nat) : Prop := (c.task? m).any (·.alive) = true ∧ (c.drover? m).isSome = true

theorem Chip.TasksKept.dead {c c' : Chip} (h : c.TasksKept c') {m : Nat} (hm : c.Dead m) : c'.Dead m := by
  rwa [Chip.Dead, h.task?, h.drover?]

theorem Chip.TasksKept.lives {c c' : Chip} (h : c.TasksKept c') {m : Nat} (hm : c.Lives m) : c'.Lives m := by
  rwa [Chip.Lives, h.task?, h.drover?]

theorem Chip.killMember_kills {c : Chip} {m : Nat} (h : c.Lives m) : (c.killMember m).Dead m := by
  obtain ⟨ht, hd⟩ := h
  obtain ⟨d, hd⟩ := Option.isSome_iff_exists.1 hd
  obtain ⟨t, ht, halive⟩ := (Option.any_eq_true ..).1 ht
  obtain ⟨c0, hk, heq⟩ := Chip.killMember_alive hd ht halive
  rw [heq, Chip.Dead, Chip.memberDies_task?, Chip.memberDies_drover?, if_pos rfl, if_pos rfl, hk.task?, ht]
  exact ⟨rfl, rfl⟩

theorem Chip.killMember_other {c : Chip} {u m : Nat} (h : m ≠ u) :
    (c.killMember u).task? m = c.task? m ∧ (c.killMember u).drover? m = c.drover? m := by
  rcases c.killMember_cases u with heq | ⟨d, t, c0, -, -, -, hk, heq⟩
  · rw [heq]; exact ⟨rfl, rfl⟩
  · rw [heq, Chip.memberDies_task?, Chip.memberDies_drover?, if_neg h, if_neg h, hk.task?, hk.drover?]
    exact ⟨rfl, rfl⟩

/-- Who is dead stays so, whoever dies next. -/
theorem Chip.killMember_dead {c : Chip} {m : Nat} (h : c.Dead m) (u : Nat) : (c.killMember u).Dead m := by
  by_cases hu : m = u
  · subst hu
    rw [Chip.killMember_eq_self (.inr fun t ht => ?_)]
    · exact h
    · have hstate := h.1
      rw [ht] at hstate
      simp [Task.alive, Option.some.inj hstate]
  · rw [Chip.Dead, (Chip.killMember_other hu).1, (Chip.killMember_other hu).2]
    exact h

theorem Chip.foldl_killMember_dead {c : Chip} {m : Nat} (h : c.Dead m) (l : List Nat) : (l.foldl (fun c u => c.killMember u) c).Dead m := by
  induction l generalizing c with
  | nil => exact h
  | cons u l ih => exact ih (Chip.killMember_dead h u)

/-- Every living member of a list dies. -/
theorem Chip.foldl_killMember_kills {c : Chip} {m : Nat} (h : c.Lives m) {l : List Nat} (hm : m ∈ l) :
    (l.foldl (fun c u => c.killMember u) c).Dead m := by
  induction l generalizing c with
  | nil => cases hm
  | cons u l ih =>
    by_cases hu : m = u
    · subst hu
      exact Chip.foldl_killMember_dead (Chip.killMember_kills h) l
    · refine ih ?_ ((List.mem_cons.1 hm).resolve_left hu)
      rw [Chip.Lives, (Chip.killMember_other hu).1, (Chip.killMember_other hu).2]
      exact h

/-- Killing a caravan kills its living members. -/
theorem Chip.killCaravan_kills {c : Chip} {cv m : Nat} {v : Caravan} (hv : c.caravan? cv = some v) (hm : m ∈ v.members) (h : c.Lives m) :
    (c.killCaravan cv).Dead m := by
  unfold Chip.killCaravan
  rw [hv]
  refine (Chip.caravanGone_tasksKept ..).dead (Chip.TasksKept.dead
    (Chip.foldl_tasksKept (f := fun c n => (c.setSerai n Serai.reset).onSched fun s =>
      { s with dead := insertNat s.dead n, lastExp := del s.lastExp n }) Chip.seraiDead_tasksKept _ _) ?_)
  refine Chip.TasksKept.dead (c := v.members.foldl (fun c u => c.killMember u) _) ⟨rfl, rfl⟩ (Chip.foldl_killMember_kills ?_ hm)
  split
  · exact (c.tellFate_tasksKept ..).lives h
  · exact h

end Sys2Proof.Machine
end

section
/-!
SUPPORT. The commands about tasks (R184 to R189).
-/

namespace Sys2Proof.Machine

/-- A watch on a word that is not full is registered, sent or handed to a steward, and no drover or task is touched (R187, R283). -/
theorem Chip.registerWatch_tasksKept {c : Chip} {cv i : Nat}
    (h : ∀ v w, c.caravan? cv = some v → look v.watches i = some w → c.homes.tag w = false) (cycle : Nat) :
    c.TasksKept (c.registerWatch cycle cv i) := by
  unfold Chip.registerWatch
  split
  · exact .rfl
  next v hv =>
    split
    · exact .rfl
    next w hw =>
      rw [h v w hv hw]
      split
      · exact .rfl
      · split
        · split
          · exact .rfl
          next hr => exact Chip.request_tasksKept hr
        · rw [if_neg Bool.false_ne_true]
          split
          · exact ⟨rfl, rfl⟩
          · exact Chip.raiseRecord_tasksKept ..

/-- The chip once TWATCH of a word of this module has registered its watch: the caravan is to be saved unless it is pinned (R187). -/
def Chip.watchesWord (c : Chip) (u : Nat) (dr : Drover) (cycle cv i w : Nat) : Chip :=
  ((c.onCaravan cv fun v => { v with watches := put v.watches i w, reason := if v.pinned then v.reason else some (v.reason.getD 1) }).setDrover
    u { dr with hold := .waiting }).registerWatch cycle cv i

theorem Chip.watchesWord_drover? {c : Chip} {cv w : Nat} {v : Caravan} (hv : c.caravan? cv = some v) (hempty : c.homes.tag w = false)
    (u : Nat) (dr : Drover) (cycle i : Nat) : (c.watchesWord u dr cycle cv i w).drover? u = some { dr with hold := .waiting } := by
  unfold Chip.watchesWord
  refine (Chip.TasksKept.drover? (Chip.registerWatch_tasksKept (fun v' w' hv' hw' => ?_) cycle) u).trans
    ((Chip.setDrover_drover? ..).trans (if_pos rfl))
  have hsame := (Chip.onCaravan_caravan? hv _).symm.trans hv'
  cases hsame
  cases (look_put_same ..).symm.trans hw'
  exact hempty

end Sys2Proof.Machine

namespace Sys2Proof.Claims

open Sys2Proof.Machine

theorem caravan?_of_myCaravan {s : State} {cv : Nat} {v : Caravan} (h : s.myCaravan = some (cv, v)) : s.chip.caravan? cv = some v := by
  obtain ⟨t, -, ht⟩ := Option.bind_eq_some_iff.1 h
  obtain ⟨w, hw, heq⟩ := Option.map_eq_some_iff.1 ht
  cases heq
  exact hw

section

variable {s : State} {dr : Drover} {n cv : Nat} {ta : Task} {v : Caravan} (h : InSerai s dr n)

include h

/-! ## RETIRE (R185) -/

theorem retire_waits (hw : dr.writesOpen = true) : Waits s dr .retire := by
  refine waits_of_stalled (b := some 32) ((State.commands_of_inSerai h .retire _).trans (State.drives_stall h.1 ?_))
  rw [hw, if_pos rfl]

theorem retire_goes (hw : dr.writesOpen = false) (ht : s.chip.task? s.focus = some ta) : Goes s dr .retire fun t d' =>
    d'.run = .off ∧ d'.regs.x = dr.regs.x ∧ (t.chip.task? s.focus).map (·.state) = some .retired := by
  have hends : ∃ f c, exec .retire s = s.commands .retire f ∧ f n dr = .ok (c, dr.ended) ∧
      (s.chip.onTask s.focus fun t => { t with state := .retired }).TasksKept c := by
    refine ⟨_, _, rfl, by rw [hw, if_neg Bool.false_ne_true], ?_⟩
    split
    · exact ⟨rfl, rfl⟩
    · split
      · refine Chip.TasksKept.trans ?_ (Chip.caravanGone_tasksKept ..)
        exact ⟨rfl, rfl⟩
      · exact ⟨rfl, rfl⟩
  obtain ⟨f, c, hi, hf, hk⟩ := hends
  refine goes_of_drives h.1 (hi.trans (State.commands_of_inSerai h _ f)) rfl hf rfl rfl rfl rfl fun t hsched => ⟨rfl, rfl, ?_⟩
  have htask : t.chip.task? s.focus = c.task? s.focus := congrArg (fun sc : Sched => look sc.tasks s.focus) hsched
  rw [htask, hk.task?, Chip.onTask_task?, if_pos rfl, ht]
  rfl

/-! ## YIELD (R186) -/

/-- A YIELD with no effect. -/
theorem yield_passes {f : Nat → Drover → Res (Chip × Drover)} (hi : exec .yield s = s.commands .yield f) (hf : f n dr = .ok (s.chip, dr)) :
    Goes s dr .yield fun t d' => d'.regs.x = dr.regs.x ∧ t.chip.sched = s.chip.sched :=
  goes_of_drives h.1 (hi.trans (State.commands_of_inSerai h _ f)) rfl hf rfl rfl rfl rfl fun _ ht => ⟨rfl, ht⟩

theorem yield_saved {w : Word} (hw : dr.hold = .result w) : Goes s dr .yield fun t d' => d'.regs.x = dr.regs.x ∧ t.chip.sched = s.chip.sched :=
  yield_passes h rfl (by rw [hw])

variable (hidle : dr.hold = .idle) (ht : s.chip.task? s.focus = some ta) (hcv : ta.caravan = cv) (hv : s.chip.caravan? cv = some v)

omit h

include ht hcv hv in
theorem myCaravan_eq : s.myCaravan = some (cv, v) := by
  subst hcv
  rw [State.myCaravan, ht, Option.bind_some, hv]
  rfl

include h hidle ht hcv hv

theorem yield_pinned (hp : v.pinned = true) : Goes s dr .yield fun t d' => d'.regs.x = dr.regs.x ∧ t.chip.sched = s.chip.sched :=
  yield_passes h rfl (by rw [hidle, myCaravan_eq ht hcv hv]; exact if_pos hp)

theorem yield_saves (hp : v.pinned = false) : ∃ t d', exec .yield s = .next t ∧ t.cur? = some d' ∧ d'.hold = .yielding ∧ d'.regs = dr.regs ∧
    (t.chip.caravan? cv).map (fun v => (v.reason.isSome, v.wake)) = some (true, true) := by
  have hf : ∃ f, exec .yield s = s.commands .yield f ∧ f n dr =
      .hold (s.chip.onCaravan cv fun v => { v with reason := some (v.reason.getD 0), wake := true }) { dr with hold := .yielding } (some 32) := by
    refine ⟨_, rfl, ?_⟩
    rw [hidle, myCaravan_eq ht hcv hv]
    exact if_neg (by rw [hp]; exact Bool.false_ne_true)
  obtain ⟨f, hi, hf⟩ := hf
  refine ⟨_, _, hi.trans ((State.commands_of_inSerai h _ f).trans (State.drives_hold h.1 hf)), State.commit_cur? .., rfl, rfl, ?_⟩
  rw [Chip.caravan?, (State.commit_logged ..).sched]
  exact congrArg (Option.map _) (Chip.onCaravan_caravan? hv _)

end

/-- R184 to R186. -/
theorem taskLifetime : TaskLifetime := by
  intro s dr d1 n e d a b x y blk c ex tem ta cv v
  refine ⟨fun h => ⟨spawn_badMode h, fun hx hm => ⟨spawn_unreleased h hx hm, spawn_misaligned h hx hm, fun hrel hblk he hex => ?_⟩⟩,
    fun h => ⟨retire_waits h, retire_goes h, fun hidle ht hcv hv => ⟨yield_pinned h hidle ht hcv hv, yield_saves h hidle ht hcv hv⟩,
      fun w => yield_saved h⟩⟩
  have refused {k : Nat} (hs : s.spawn dr d1 d x.toNat blk c = Drover.status c d1 d (failWord k)) := spawn_refused h hx hm hrel hblk hs
  refine ⟨fun ht => refused (State.spawn_noTemplate he hex ht), fun ht => ⟨fun h0 => refused (State.spawn_noEntry he hex ht h0),
    fun h0 hg => refused (State.spawn_noGroup he hex ht h0 (blockGroups_refused.2 hg)),
    fun h0 hg => ⟨fun i => spawn_watch h hx hm hrel hblk he hex ht h0 hg, fun hfit =>
      ⟨spawn_badArgs h hx hm hrel hblk he hex ht h0 hg hfit, fun h28 h29 h31 => ⟨?_, ?_⟩⟩⟩⟩⟩
  · exact spawn_full h hx hm hrel hblk he hex ht h0 hg hfit h28 h29 h31
  · exact spawn_makes h hx hm hrel hblk he hex ht h0 hg hfit h28 h29 h31

/-! ## TWATCH (R187) -/

section

variable {s : State} {dr d1 : Drover} {n cv : Nat} {d a : BitVec 5} {x : Word} {mine : Caravan} {me : Task} (h : Ready1d s dr d1 d a x)
  (hin : InSerai s dr n)

include hin in
/-- TWATCH waits, with the registers as they were. -/
theorem twatch_waits {i : Instr} {f : Nat → Drover → Res (Chip × Drover)} {c' : Chip} {d' : Drover} (hi : exec i s = s.commands i f)
    (hf : f n dr = .hold c' d' (some 32)) (hd : d' = { dr with hold := .waiting }) :
    ∃ t d', exec i s = .next t ∧ t.cur? = some d' ∧ d'.hold = .waiting ∧ d'.regs = dr.regs := by
  subst hd
  exact ⟨_, _, hi.trans ((State.commands_of_inSerai hin _ f).trans (State.drives_hold hin.1 hf)), State.commit_cur? .., rfl, rfl⟩

include h hin

theorem twatch_full (hres : dr.hold = .result 0) : Gives s dr (.twatch d a) d 0 any := by
  obtain ⟨hc, -, -, -, hread⟩ := h
  have hf : ∃ f, exec (.twatch d a) s = s.commands (.twatch d a) f ∧ f n dr = Drover.status s.chip d1 d statusOk := by
    refine ⟨_, rfl, ?_⟩
    simp only [hres, hread, Res.ok_bind]
    rfl
  obtain ⟨f, hi, hf⟩ := hf
  exact gives_of_command hc (hi.trans (State.commands_of_inSerai hin _ f)) rfl hf (Drover.readX_sameBut hread) fun _ _ _ => trivial

variable (hidle : dr.hold = .idle)

include hidle

theorem twatch_misaligned (ha : x.toNat % 8 ≠ 0) : Trapped s dr (.twatch d a) 2 dr.regs.pc x := by
  obtain ⟨-, hsrc, hdst, -, hread⟩ := h
  refine trapped_of_commands (q := dr.trapAt 2 x) hin rfl ?_ .rfl
  simp only [hidle, hsrc, hdst, hread, unlessStall_none, Res.ok_bind, if_pos ha]

variable (ha : x.toNat % 8 = 0)

include ha

theorem twatch_fault {q va : Nat} (hl : s.chip.engineLeaf s.focus dr x.toNat .read = .bad q va) :
    Trapped s dr (.twatch d a) q dr.regs.pc (BitVec.ofNat 64 va) := by
  obtain ⟨-, hsrc, hdst, -, hread⟩ := h
  refine trapped_of_commands (q := dr.trapAt q (BitVec.ofNat 64 va)) hin rfl ?_ .rfl
  simp only [hidle, hsrc, hdst, hread, unlessStall_none, Res.ok_bind, ha, ne_eq, not_true_eq_false, if_false, hl]

variable {l : Leaf} {c : Chip} (hl : s.chip.engineLeaf s.focus dr x.toNat .read = .ok l c)

include hl

/-- A word is answered for at once: one of an untagged page with BADWATCH, a full one of this module with 0. -/
theorem twatch_untagged (htag : l.tagged = false) : Gives s dr (.twatch d a) d (status 30 0) any := by
  obtain ⟨hc, hsrc, hdst, -, hread⟩ := h
  refine gives_of_command (c := c) (d2 := d1) hc (State.commands_of_inSerai hin (.twatch d a) _) rfl ?_ (Drover.readX_sameBut hread)
    fun _ _ _ => trivial
  simp only [hidle, hsrc, hdst, hread, unlessStall_none, Res.ok_bind, ha, ne_eq, not_true_eq_false, if_false, hl, htag, Bool.not_false,
    if_true, ← status_eq]
  rfl

variable (htag : l.tagged = true)

include htag

theorem twatch_fullAtOnce (hrmt : l.rmt = false) (hfull : c.homes.tag (watchWord l (l.pa x.toNat)) = true) :
    Gives s dr (.twatch d a) d 0 any := by
  obtain ⟨hc, hsrc, hdst, -, hread⟩ := h
  refine gives_of_command (c := c) (d2 := d1) hc (State.commands_of_inSerai hin (.twatch d a) _) rfl ?_ (Drover.readX_sameBut hread)
    fun _ _ _ => trivial
  simp only [hidle, hsrc, hdst, hread, unlessStall_none, Res.ok_bind, ha, ne_eq, not_true_eq_false, if_false, hl, htag, hrmt, hfull, Bool.not_true,
    Bool.false_eq_true, Bool.not_false, Bool.and_self, if_true]
  rfl

variable (hmine : s.myCaravan = some (cv, mine)) (hme : c.task? s.focus = some me)

include hmine hme

theorem twatch_watches (hrmt : l.rmt = false) (hempty : c.homes.tag (watchWord l (l.pa x.toNat)) = false) :
    ∃ t d', exec (.twatch d a) s = .next t ∧ t.cur? = some d' ∧ d'.hold = .waiting ∧ d'.regs = dr.regs := by
  have hv : c.caravan? cv = some mine := by
    have hsched := s.chip.engineLeaf_keeps s.focus dr x.toNat .read []
    rw [hl] at hsched
    exact (congrArg (fun sc : Sched => look sc.caravans cv) hsched).trans (caravan?_of_myCaravan hmine)
  have hdrover := Chip.watchesWord_drover? hv hempty s.focus dr s.cycle (16 + me.index)
  obtain ⟨hc, hsrc, hdst, -, hread⟩ := h
  refine twatch_waits (c' := c.watchesWord s.focus dr s.cycle cv (16 + me.index) (watchWord l (l.pa x.toNat))) hin rfl ?_ rfl
  simp only [hidle, hsrc, hdst, hread, unlessStall_none, Res.ok_bind, ha, ne_eq, not_true_eq_false, if_false, hl, htag, hrmt, hempty, Bool.not_true,
    Bool.not_false, Bool.false_eq_true, Bool.and_false, hmine, hme, false_and, Chip.watchesWord] at hdrover ⊢
  rw [hdrover]
  rfl

theorem twatch_asks {k : Nat} {c2 : Chip} (hrmt : l.rmt = true)
    (hask : c.request l.dev 3 (l.pa x.toNat) tagPayload (fun q => .watch cv (32 + me.index) q) = some (k, c2)) :
    ∃ t d', exec (.twatch d a) s = .next t ∧ t.cur? = some d' ∧ d'.hold = .waiting ∧ d'.regs = dr.regs := by
  obtain ⟨hc, hsrc, hdst, -, hread⟩ := h
  refine twatch_waits (c' := c2) hin rfl ?_ rfl
  simp only [hidle, hsrc, hdst, hread, unlessStall_none, Res.ok_bind, ha, ne_eq, not_true_eq_false, if_false, hl, htag, hrmt, Bool.not_true,
    Bool.false_eq_true, Bool.false_and, hmine, hme, reduceCtorEq, and_false, true_and, not_false_eq_true, if_true, hask]

end

/-! ## TSTAT (R188) -/

section

variable {s : State} {dr d1 : Drover} {e u : Nat} {d a : BitVec 5} {x : Word} {ta me : Task} {v : Caravan} (h : Ready1d s dr d1 d a x)
  (he : s.chip.groupExp dr = some e)

include h he

theorem tstat_none (hk : s.chip.taskKey? e (x.toNat % 2 ^ 32) = none) :
    Gives s dr (.tstat d a) d (BitVec.ofNat 64 (x.toNat % 2 ^ 32 * 2 ^ 32 + 0xFFF * 256 + 15)) any := by
  obtain ⟨hc, hsrc, hdst, -, hread⟩ := h
  refine gives_of_command (c := s.chip) (d2 := d1) (j := .tstat d a) hc rfl rfl ?_ (Drover.readX_sameBut hread) fun _ _ _ => trivial
  simp only [hsrc, hdst, hread, unlessStall_none, Res.ok_bind, he, Option.bind_some, hk, Option.bind_none, Nat.add_assoc]
  rfl

theorem tstat_gives (hk : s.chip.taskKey? e (x.toNat % 2 ^ 32) = some u) (ht : s.chip.task? u = some ta)
    (hv : s.chip.caravan? ta.caravan = some v) :
    ∃ core, (s.chip.stateCode u ta < 3 ∨ 5 < s.chip.stateCode u ta → core = 0xFFF) ∧
      (3 ≤ s.chip.stateCode u ta → s.chip.stateCode u ta ≤ 5 → ∀ q, s.chip.seraiOf u = some q → core = q) ∧
      Gives s dr (.tstat d a) d (BitVec.ofNat 64 (x.toNat % 2 ^ 32 * 2 ^ 32 + v.watches.length % 16 * 2 ^ 20 + core * 2 ^ 8 +
        b2n v.pinned * 2 ^ 7 + v.prio % 8 * 2 ^ 4 + s.chip.stateCode u ta)) fun t _ => t.chip.sched = s.chip.sched := by
  obtain ⟨hc, hsrc, hdst, -, hread⟩ := h
  refine ⟨if 3 ≤ s.chip.stateCode u ta ∧ s.chip.stateCode u ta ≤ 5 then ((s.chip.seraiOf u).or
    ((s.chip.sched.restoring.find? fun p => p.2 == u).map fun p => p.1)).getD 0xFFF else 0xFFF,
    fun hout => if_neg (by omega), fun h3 h5 q hq => ?_, ?_⟩
  · rw [if_pos ⟨h3, h5⟩, hq]; rfl
  · refine gives_of_command (c := s.chip) (d2 := d1) (j := .tstat d a) hc rfl rfl ?_ (Drover.readX_sameBut hread) fun _ _ hlog => hlog.sched
    simp only [hsrc, hdst, hread, unlessStall_none, Res.ok_bind, he, Option.bind_some, hk, ht, Option.map_some, hv, Option.any_some,
      Option.getD_some]
    rfl

/-! ## TKILL (R189) -/

theorem tkill_none (hk : 2 ^ 32 ≤ x.toNat ∨ s.chip.taskKey? e x.toNat = none) : Gives s dr (.tkill d a) d (status 31 0) any := by
  obtain ⟨hc, hsrc, hdst, -, hread⟩ := h
  have hno : (if x.toNat < 2 ^ 32 then s.chip.taskKey? e x.toNat else none) = none := by
    rcases hk with hk | hk
    · exact if_neg (by omega)
    · rw [hk, ite_self]
  refine gives_of_command (c := s.chip) (d2 := d1) (j := .tkill d a) hc rfl rfl ?_ (Drover.readX_sameBut hread) fun _ _ _ => trivial
  simp only [hsrc, hdst, hread, unlessStall_none, Res.ok_bind, he, Option.bind_some, hno, ← status_eq]
  rfl

variable (hx : x.toNat < 2 ^ 32) (hk : s.chip.taskKey? e x.toNat = some u) (ht : s.chip.task? u = some ta)

include hx hk ht

theorem tkill_dead (halive : ta.alive = false) : Gives s dr (.tkill d a) d (status 31 0) any := by
  obtain ⟨hc, hsrc, hdst, -, hread⟩ := h
  refine gives_of_command (c := s.chip) (d2 := d1) (j := .tkill d a) hc rfl rfl ?_ (Drover.readX_sameBut hread) fun _ _ _ => trivial
  simp only [hsrc, hdst, hread, unlessStall_none, Res.ok_bind, he, Option.bind_some, if_pos hx, hk, ht, halive, Bool.not_false,
    if_true, ← status_eq]
  rfl

variable (halive : ta.alive = true) (hv : s.chip.caravan? ta.caravan = some v)

include halive hv

theorem tkill_other (hother : dr.steward = true ∨ ∀ tm, s.chip.task? s.focus = some tm → tm.caravan ≠ ta.caravan) :
    Gives s dr (.tkill d a) d 0 fun t _ => ∀ m tm, m ∈ v.members → s.chip.task? m = some tm → tm.alive = true →
      (s.chip.drover? m).isSome = true → (t.chip.task? m).map (·.state) = some .killed := by
  obtain ⟨hc, hsrc, hdst, -, hread⟩ := h
  have hnot : ¬ ((!dr.steward) = true ∧ ((s.chip.task? s.focus).any fun me => me.caravan == ta.caravan) = true) := by
    rintro ⟨hdrover, hmine⟩
    obtain ⟨tm, htm, hcar⟩ := (Option.any_eq_true ..).1 hmine
    rcases hother with hst | hother
    · rw [hst] at hdrover; cases hdrover
    · exact hother tm htm (beq_iff_eq.1 hcar)
  refine gives_of_command (c := s.chip.killCaravan ta.caravan) (d2 := d1) (j := .tkill d a) hc rfl rfl ?_ (Drover.readX_sameBut hread)
    fun t d' hlog m tm hm htm hal hd => ?_
  · simp only [hsrc, hdst, hread, unlessStall_none, Res.ok_bind, he, Option.bind_some, if_pos hx, hk, ht, halive, Bool.not_true,
      Bool.false_eq_true, if_false, hnot]
    rfl
  · rw [hlog.tasksKept.task?]
    exact (Chip.killCaravan_kills hv hm ⟨by rw [htm]; exact hal, hd⟩).1

theorem tkill_own (hme : s.chip.task? s.focus = some me) (hcar : me.caravan = ta.caravan) (hst : dr.steward = false) (hal : me.alive = true)
    (hmem : s.focus ∈ v.members) : ∃ t d', exec (.tkill d a) s = .next t ∧ t.cur? = some d' ∧ d'.run = .off ∧
      (t.chip.task? s.focus).map (·.state) = some .killed := by
  obtain ⟨hc, hsrc, hdst, -, hread⟩ := h
  obtain ⟨hkilled, hoff⟩ := Chip.killCaravan_kills hv hmem
    ⟨by rw [hme]; exact hal, by rw [show s.chip.drover? s.focus = some dr from hc]; rfl⟩
  obtain ⟨dk, hdk, hrun⟩ := Option.map_eq_some_iff.1 hoff
  have hf : ∃ f, exec (.tkill d a) s = s.drives (.tkill d a) f ∧ f dr = .hold (s.chip.killCaravan ta.caravan) dk none := by
    refine ⟨_, rfl, ?_⟩
    simp only [hsrc, hdst, hread, unlessStall_none, Res.ok_bind, he, Option.bind_some, if_pos hx, hk, ht, halive, Bool.not_true,
      Bool.false_eq_true, if_false, hst, hme, Option.any_some, hcar, beq_self_eq_true, Bool.not_false, and_self, if_true, hdk, Option.getD_some]
  obtain ⟨f, hi, hf⟩ := hf
  refine ⟨_, _, hi.trans (State.drives_hold hc hf), State.commit_cur? .., hrun, ?_⟩
  rw [(State.commit_logged ..).tasksKept.task?]
  exact hkilled

end

/-- R187 to R189. -/
theorem taskQueries : TaskQueries := by
  intro s dr d1 n e d a x l c c2 ta me u k cv v mine h
  refine ⟨fun hin => ⟨twatch_misaligned h hin, fun hidle ha => ⟨fun q va => twatch_fault h hin hidle ha, fun hl =>
    ⟨twatch_untagged h hin hidle ha hl, twatch_fullAtOnce h hin hidle ha hl, fun htag hrmt hempty hmine hme => ?_,
      fun htag hrmt hmine hme => twatch_asks h hin hidle ha hl htag hmine hme hrmt⟩⟩, twatch_full h hin⟩,
    fun he => ⟨tstat_none h he, tstat_gives h he, tkill_none h he, fun hx hk ht => ⟨tkill_dead h he hx hk ht, fun halive hv =>
      ⟨tkill_other h he hx hk ht halive hv, tkill_own h he hx hk ht halive hv⟩⟩⟩⟩
  exact twatch_watches h hin hidle ha hl htag hmine hme hrmt hempty

/-- Settles O22: SPAWN from its block on is `State.spawn`, whose caravan is the one that `Chip.newCaravan` makes (`spawn_makes`); a
task's end touches no other drover or task (`Chip.TasksKept`), and killing a caravan kills each living member
(`Chip.killCaravan_kills`). -/
theorem tasks : Obligations.Tasks := ⟨taskLifetime, taskQueries⟩

end Sys2Proof.Claims
end

section
/-!
SUPPORT. The expert-dispatch commands (R190 to R192, R303 to R305, R311 to R314), refused and accepted.
-/

namespace Sys2Proof.Machine

open Sys2Proof.Claims

/-! ## The shapes and ranges of the blocks, as the model checks them (R191) -/

theorem not_topkShape_iff (b : List Byte) : ¬ topkShape b ↔ 1 < byteAt b 1 ∨ (!zeroBytes b 6 2) = true ∨ (!zeroBytes b 12 4) = true ∨
    (!restZero b 32) = true ∨ field b 16 8 % 8 ≠ 0 ∨ field b 24 8 % 8 ≠ 0 := by
  simp only [topkShape, not_and_or, Nat.not_le, Bool.not_eq_true, Bool.not_eq_true', ne_eq]

theorem not_topkRange_iff (b : List Byte) : ¬ topkRange b ↔ byteAt b 0 < 1 ∨ 8 < byteAt b 0 ∨ field b 2 2 < 1 ∨ 4096 < field b 2 2 ∨
    field b 4 2 < 1 ∨ 4096 < field b 4 2 ∨ field b 8 4 < 1 ∨ 65536 < field b 8 4 := by
  simp only [topkRange, not_and_or, Nat.not_le]

theorem not_binShape_iff (b : List Byte) : ¬ binShape b ↔ (!zeroBytes b 14 2) = true ∨ (!restZero b 48) = true ∨ field b 0 8 % 8 ≠ 0 ∨
    field b 40 8 % 8 ≠ 0 ∨ field b 16 8 % 4 ≠ 0 ∨ field b 24 8 % 4 ≠ 0 ∨ field b 32 8 % 4 ≠ 0 := by
  simp only [binShape, not_and_or, Bool.not_eq_true, Bool.not_eq_true', ne_eq]

theorem not_binRange_iff (b : List Byte) :
    ¬ binRange b ↔ field b 8 4 < 1 ∨ 65536 < field b 8 4 ∨ field b 12 2 < 1 ∨ 4096 < field b 12 2 := by
  simp only [binRange, not_and_or, Nat.not_le]

theorem not_sendShape_iff (b : List Byte) : ¬ sendShape b ↔ 1 < byteAt b 0 ∨ (!zeroBytes b 1 7) = true ∨ (!zeroBytes b 20 4) = true ∨
    (!restZero b 48) = true ∨ field b 8 8 % 8 ≠ 0 ∨ field b 40 8 % 8 ≠ 0 ∨ field b 24 8 % 128 ≠ 0 ∨ field b 32 8 % 2 ≠ 0 := by
  simp only [sendShape, not_and_or, Nat.not_le, Bool.not_eq_true, Bool.not_eq_true', ne_eq]

theorem not_sendRange_iff (b : List Byte) : ¬ sendRange b ↔ field b 16 4 < 1 ∨ 65536 < field b 16 4 := by
  simp only [sendRange, not_and_or, Nat.not_le]

theorem not_recvShape_iff (b : List Byte) : ¬ recvShape b ↔ (!zeroBytes b 34 6) = true ∨ (!restZero b 48) = true ∨ field b 8 8 % 128 ≠ 0 ∨
    field b 16 8 % 8 ≠ 0 ∨ field b 24 8 % 4 ≠ 0 ∨ field b 40 8 % 8 ≠ 0 := by
  simp only [recvShape, not_and_or, Bool.not_eq_true, Bool.not_eq_true', ne_eq]

theorem not_recvRange_iff (b : List Byte) :
    ¬ recvRange b ↔ field b 2 2 < 1 ∨ 4096 < field b 0 2 + field b 2 2 ∨ field b 32 2 < 1 ∨ 512 < field b 32 2 := by
  simp only [recvRange, not_and_or, Nat.not_le]

/-- A pattern of FP32 is that of a finite number. -/
def finite32 (v : Nat) : Bool := match fp32.decode v with
  | .fin _ _ _ => true
  | _ => false

theorem finite32_iff (v : Nat) : finite32 v = true ↔ ∃ g m e, fp32.decode v = .fin g m e := by
  unfold finite32
  cases fp32.decode v <;> simp

theorem not_biasShape_iff (b : List Byte) : ¬ biasShape b ↔ (!zeroBytes b 10 6) = true ∨ (!restZero b 32) = true ∨ field b 16 8 % 4 ≠ 0 ∨
    field b 24 8 % 8 ≠ 0 ∨ field b 8 2 < 1 ∨ 4096 < field b 8 2 ∨ (!finite32 (field b 0 4)) = true ∨ (!finite32 (field b 4 4)) = true := by
  simp only [biasShape, ← finite32_iff, not_and_or, Nat.not_le, Bool.not_eq_true, Bool.not_eq_true', ne_eq]

/-- A check that is passed leads on. -/
theorem ite_of_passed {p q : Prop} [Decidable q] (h : ¬ p ↔ q) (hp : p) {α : Type} {a b : α} : (if q then a else b) = b :=
  if_neg fun hq => h.2 hq hp

/-! ## What the commands share (R190, R304) -/

theorem Chip.withDone_word {c : Chip} {u va w : Nat} {dr0 : Drover} (h : c.doneAt u dr0 va = .word w) (dr : Drover) (d : BitVec 5)
    (f : Nat → Res (Chip × Drover)) : c.withDone u dr0 dr d va f = f w := by
  rw [Chip.withDone, h]

section

variable {s : State} {dr d1 : Drover} {d a b : BitVec 5} {x y : Word} (h : Dispatches s dr d1 d a b x y)
  (f : Nat → List Byte → Drover → Chip → Res (Chip × Drover))

include h

theorem State.xdeCommand_big (hx : 2 ^ 32 ≤ x.toNat) : s.xdeCommand dr d a b f = Drover.status s.chip d1 d (failWord 21) := by
  obtain ⟨⟨-, hsrc, hdst, -, hread⟩, hrel, -⟩ := h
  simp only [State.xdeCommand, hsrc, hdst, hread, unlessStall_none, Res.ok_bind, hrel, Bool.not_true, Bool.false_eq_true, if_false, if_pos hx]

theorem State.xdeCommand_block {blk : List Byte} {c : Chip} (hx : x.toNat < 2 ^ 32) (hblk : BlockIs s s.chip c dr y 64 64 blk) :
    s.xdeCommand dr d a b f = f x.toNat blk (d1.tick s.focus) c := by
  obtain ⟨⟨-, hsrc, hdst, -, hread⟩, hrel, -⟩ := h
  simp only [State.xdeCommand, hsrc, hdst, hread, unlessStall_none, Res.ok_bind, hrel, Bool.not_true, Bool.false_eq_true, if_false,
    if_neg (Nat.not_le.2 hx), State.block_of_blockIs hblk]

end

/-- The request that XTOPK leaves with die 0's engine (R303). -/
def Drover.openReq (dr : Drover) (u mb : Nat) (blk : List Byte) (w : Nat) (clk : SMap Nat) : OpenReq :=
  { u := u, exp := dr.exp, die := dr.die, mb := mb, block := blk, done := w, clk := clk }

/-- The chip with XGATE's list on its way (R305): the leaf's work on its entries is done, and the round has seen the issuer's writes. -/
def Chip.gated (c : Chip) (mb tok : Nat) (r : Round) (es : List Nat) (clk : SMap Nat) : Chip :=
  let l := leafList ((c.xde.bias[r.slot]?).getD []) (bitOf (byteAt r.block 1) 0) r.experts es
  c.onXde fun x => { x with lists := x.lists ++ [{ mb := mb, tok := tok, nan := l.2, list := l.1 }],
                            rounds := upd x.rounds mb fun r => { r with clk := joinClk r.clk clk } }

/-! ## XSTAT (R192) -/

/-- What XSTAT reads under a selector. -/
def Chip.xstatWord (c : Chip) (u die : Nat) (x : Word) : Nat :=
  if 4 ≤ x.toNat then 2 ^ 64 - 1
  else if x = 0 then c.xde.roundsOf die + c.xde.sessionsOf die * 2 ^ 16 + c.xde.freeSlots die * 2 ^ 32
  else if x = 1 then c.xde.newest.toNat + b2n (c.xde.work.any fun w => w.op == 5) * 256
  else if x = 2 then (((c.seraiOf u).bind fun n => (c.serai n).joined).map fun m => m.1 % 2 ^ 32).getD (2 ^ 32 - 1)
  else lookD c.xde.refusals die 0 % 2 ^ 32

end Sys2Proof.Machine

namespace Sys2Proof.Claims

open Sys2Proof.Machine

section

variable {s : State} {dr d1 d2 : Drover} {d a b : BitVec 5} {x y : Word} {i j : Instr} {c : Chip} {f : Drover → Res (Chip × Drover)}
  (h : Dispatches s dr d1 d a b x y)

include h

theorem idle_of_dispatches : dr.hold = .idle := h.2.2

theorem xde_gives {v : Word} {P : State → Drover → Prop} (hi : exec i s = s.drives j f) (hb : Instr.bytes j = 4)
    (hf : f dr = Drover.status c d2 d v) (hs : d1.SameBut d2) (hP : ∀ t d', t.chip.xde = c.xde → P t d') : Gives s dr i d v P := by
  obtain ⟨⟨hc, -, -, -, hread⟩, -, -⟩ := h
  exact gives_of_command hc hi hb hf ((Drover.read2_sameBut hread).trans hs) fun t d' hlog => hP t d' hlog.xde

theorem xde_refused {k : Nat} (hi : exec i s = s.drives j f) (hb : Instr.bytes j = 4) (hf : f dr = Drover.status c d2 d (failWord k))
    (hs : d1.SameBut d2) : Gives s dr i d (status k 0) any :=
  xde_gives h hi hb (hf.trans (by rw [failWord, status_eq])) hs fun _ _ _ => trivial

end

section

variable {s : State} {dr d1 : Drover} {d a b : BitVec 5} {x y : Word} {blk recs : List Byte} {c c1 : Chip} {w : Nat}
  (h : Dispatches s dr d1 d a b x y)

include h

/-! ## A micro-batch number above 32 bits -/

theorem xde_bigBatch (hx : 2 ^ 32 ≤ x.toNat) : Gives s dr (.xtopk d a b) d (status 21 0) any ∧ Gives s dr (.xbin d a b) d (status 21 0) any ∧
    Gives s dr (.xsend d a b) d (status 21 0) any ∧ Gives s dr (.xrecv d a b) d (status 21 0) any ∧
    Gives s dr (.xbias d a b) d (status 21 0) any := by
  have refused (f) := State.xdeCommand_big h f hx
  refine ⟨xde_refused h (j := .xtopk d a b) (c := s.chip) rfl rfl ?_ .rfl, xde_refused h (j := .xbin d a b) rfl rfl (refused _) .rfl,
    xde_refused h (j := .xsend d a b) rfl rfl (refused _) .rfl, xde_refused h (j := .xrecv d a b) rfl rfl (refused _) .rfl,
    xde_refused h (j := .xbias d a b) rfl rfl (refused _) .rfl⟩
  simp only [idle_of_dispatches h]
  exact refused _

variable (hx : x.toNat < 2 ^ 32) (hblk : BlockIs s s.chip c dr y 64 64 blk)

include hx hblk

/-! ## XTOPK (R303) -/

section

theorem xtopk_badShape (hs : ¬ topkShape blk) : Gives s dr (.xtopk d a b) d (status 21 0) any := by
  refine xde_refused h (j := .xtopk d a b) (c := c) rfl rfl ?_ (d1.tick_sameBut s.focus)
  simp only [idle_of_dispatches h]
  exact (State.xdeCommand_block h _ hx hblk).trans (if_pos ((not_topkShape_iff blk).1 hs))

variable (hs : topkShape blk)

include hs

theorem xtopk_badRange (hr : ¬ topkRange blk) : Gives s dr (.xtopk d a b) d (status 33 0) any := by
  refine xde_refused h (j := .xtopk d a b) (c := c) rfl rfl ?_ (d1.tick_sameBut s.focus)
  simp only [idle_of_dispatches h]
  exact (State.xdeCommand_block h _ hx hblk).trans
    ((ite_of_passed (not_topkShape_iff blk) hs).trans (if_pos ((not_topkRange_iff blk).1 hr)))

theorem xtopk_opens (hr : topkRange blk) (hw : c.doneAt s.focus dr (field blk 24 8) = .word w) :
    ∃ (t : State) (d' : Drover) (o : OpenReq), exec (.xtopk d a b) s = .next t ∧ t.cur? = some d' ∧ d'.hold = .waiting ∧ d'.regs = dr.regs ∧
      t.chip.xde.opens = c.xde.opens ++ [o] ∧ o.mb = x.toNat ∧ o.block = blk ∧ o.u = s.focus := by
  have hf : ∃ f, exec (.xtopk d a b) s = s.drives (.xtopk d a b) f ∧ f dr = .hold (c.onXde fun q => { q with opens := q.opens ++
      [dr.openReq s.focus x.toNat blk w (d1.tick s.focus).clk] }) { dr with clk := (d1.tick s.focus).clk, hold := .waiting } (some 32) := by
    refine ⟨_, rfl, ?_⟩
    simp only [idle_of_dispatches h]
    exact (State.xdeCommand_block h _ hx hblk).trans ((ite_of_passed (not_topkShape_iff blk) hs).trans
      ((ite_of_passed (not_topkRange_iff blk) hr).trans (Chip.withDone_word hw ..)))
  obtain ⟨f, hi, hf⟩ := hf
  refine ⟨_, _, dr.openReq s.focus x.toNat blk w (d1.tick s.focus).clk, hi.trans (State.drives_hold h.1.1 hf), State.commit_cur? ..,
    rfl, rfl, ?_, rfl, rfl, rfl⟩
  rw [(State.commit_logged ..).xde]
  rfl

end

/-! ## XBIN (R312) -/

section

theorem xbin_badShape (hs : ¬ binShape blk) : Gives s dr (.xbin d a b) d (status 21 0) any :=
  xde_refused h (j := .xbin d a b) (c := c) rfl rfl ((State.xdeCommand_block h _ hx hblk).trans (if_pos ((not_binShape_iff blk).1 hs)))
    (d1.tick_sameBut s.focus)

variable (hs : binShape blk)

include hs

theorem xbin_badRange (hr : ¬ binRange blk) : Gives s dr (.xbin d a b) d (status 33 0) any :=
  xde_refused h (j := .xbin d a b) (c := c) rfl rfl ((State.xdeCommand_block h _ hx hblk).trans
    ((ite_of_passed (not_binShape_iff blk) hs).trans (if_pos ((not_binRange_iff blk).1 hr)))) (d1.tick_sameBut s.focus)

theorem xbin_works (hr : binRange blk) (hw : c.doneAt s.focus dr (field blk 40 8) = .word w)
    (hrecs : c.readBlock (xdeAgent s.focus) s.focus dr (field blk 0 8) (128 * field blk 8 4) = .ok recs c1) :
    Gives s dr (.xbin d a b) d 0 fun t _ => ∃ (k : XWork), t.chip.xde.work = c1.xde.work ++ [k] ∧ k.op = 2 ∧ k.recs = recs ∧
      k.block = blk ∧ k.done = w := by
  refine xde_gives h (j := .xbin d a b) (c := (c1.dropFar (xdeAgent s.focus)).addWork
      { XWork.start 2 dr.die x.toNat blk w s.focus dr.exp (d1.tick s.focus).clk with recs := recs }) rfl rfl
    ((State.xdeCommand_block h _ hx hblk).trans ((ite_of_passed (not_binShape_iff blk) hs).trans
      ((ite_of_passed (not_binRange_iff blk) hr).trans ((Chip.withDone_word hw ..).trans ?_))))
    (d1.tick_sameBut s.focus) fun t _ ht => ⟨_, by rw [ht]; rfl, rfl, rfl, rfl, rfl⟩
  simp only [hrecs]
  rfl

end

/-! ## XSEND (R313) -/

section

theorem xsend_badShape (hs : ¬ sendShape blk) : Gives s dr (.xsend d a b) d (status 21 0) any :=
  xde_refused h (j := .xsend d a b) (c := c) rfl rfl ((State.xdeCommand_block h _ hx hblk).trans (if_pos ((not_sendShape_iff blk).1 hs)))
    (d1.tick_sameBut s.focus)

variable (hs : sendShape blk)

include hs

theorem xsend_badRange (hr : ¬ sendRange blk) : Gives s dr (.xsend d a b) d (status 33 0) any :=
  xde_refused h (j := .xsend d a b) (c := c) rfl rfl ((State.xdeCommand_block h _ hx hblk).trans
    ((ite_of_passed (not_sendShape_iff blk) hs).trans (if_pos ((not_sendRange_iff blk).1 hr)))) (d1.tick_sameBut s.focus)

variable (hr : sendRange blk) (hw : c.doneAt s.focus dr (field blk 40 8) = .word w)

include hr hw

theorem xsend_noRound (hround : look c.xde.rounds x.toNat = none) : Gives s dr (.xsend d a b) d (status 1 0) any := by
  refine xde_refused h (j := .xsend d a b) (c := c) rfl rfl ((State.xdeCommand_block h _ hx hblk).trans
    ((ite_of_passed (not_sendShape_iff blk) hs).trans ((ite_of_passed (not_sendRange_iff blk) hr).trans
      ((Chip.withDone_word hw ..).trans ?_)))) (d1.tick_sameBut s.focus)
  simp only [hround]

theorem xsend_works {r : Round} (hround : look c.xde.rounds x.toNat = some r)
    (hdesc : c.readBlock (xdeAgent s.focus) s.focus dr (field blk 24 8) 128 = .ok recs c1)
    (hrank : (descOf (BitVec.ofNat 1024 (natOfBytes recs))).rank = 2) (hcheck : (descOf (BitVec.ofNat 1024 (natOfBytes recs))).check = none) :
    Gives s dr (.xsend d a b) d 0 fun t _ => ∃ (k : XWork), t.chip.xde.work = c1.xde.work ++ [k] ∧ k.op = 3 ∧ k.mb = x.toNat ∧
      k.block = blk ∧ k.experts = r.experts := by
  refine xde_gives h (j := .xsend d a b) (c := (c1.dropFar (xdeAgent s.focus)).addWork
      { XWork.start 3 dr.die x.toNat blk w s.focus dr.exp (d1.tick s.focus).clk with
        experts := r.experts, desc := BitVec.ofNat 1024 (natOfBytes recs) }) rfl rfl
    ((State.xdeCommand_block h _ hx hblk).trans ((ite_of_passed (not_sendShape_iff blk) hs).trans
      ((ite_of_passed (not_sendRange_iff blk) hr).trans ((Chip.withDone_word hw ..).trans ?_))))
    (d1.tick_sameBut s.focus) fun t _ ht => ⟨_, by rw [ht]; rfl, rfl, rfl, rfl, rfl⟩
  simp only [hround, hdesc, hrank, hcheck, ne_eq, not_true_eq_false, Option.isSome_none, Bool.false_eq_true, or_self, if_false]
  rfl

end

/-! ## XRECV (R314) -/

section

theorem xrecv_badShape (hs : ¬ recvShape blk) : Gives s dr (.xrecv d a b) d (status 21 0) any :=
  xde_refused h (j := .xrecv d a b) (c := c) rfl rfl ((State.xdeCommand_block h _ hx hblk).trans (if_pos ((not_recvShape_iff blk).1 hs)))
    (d1.tick_sameBut s.focus)

variable (hs : recvShape blk)

include hs

theorem xrecv_badRange (hr : ¬ recvRange blk) : Gives s dr (.xrecv d a b) d (status 33 0) any :=
  xde_refused h (j := .xrecv d a b) (c := c) rfl rfl ((State.xdeCommand_block h _ hx hblk).trans
    ((ite_of_passed (not_recvShape_iff blk) hs).trans (if_pos ((not_recvRange_iff blk).1 hr)))) (d1.tick_sameBut s.focus)

omit h hx hblk hs in
/-- With no session of the micro-batch on the die there is none to refuse the command with BUSY. -/
theorem noSession {mb f l : Nat}
    (hfree : ∀ z, z ∈ c.xde.sessions → z.mb = mb → z.die ≠ dr.die ∧ (f + l ≤ z.first ∨ z.first + z.experts ≤ f)) :
    ¬ (c.xde.sessions.any fun z => z.mb == mb && z.die == dr.die) = true := by
  rw [List.any_eq_true]
  rintro ⟨z, hz, hsame⟩
  rw [Bool.and_eq_true, beq_iff_eq, beq_iff_eq] at hsame
  exact (hfree z hz hsame.1).1 hsame.2

omit h hx hblk hs in
/-- Nor does the range of another die's session meet the one asked for. -/
theorem noOverlap {mb f l : Nat}
    (hfree : ∀ z, z ∈ c.xde.sessions → z.mb = mb → z.die ≠ dr.die ∧ (f + l ≤ z.first ∨ z.first + z.experts ≤ f)) :
    ¬ (c.xde.sessions.any fun z => z.mb == mb && z.die != dr.die && decide (z.first < f + l ∧ f < z.first + z.experts)) = true := by
  rw [List.any_eq_true]
  rintro ⟨z, hz, hmeets⟩
  rw [Bool.and_eq_true, Bool.and_eq_true, beq_iff_eq, decide_eq_true_eq] at hmeets
  obtain ⟨⟨hmb, -⟩, hmeets⟩ := hmeets
  have hapart := (hfree z hz hmb).2
  omega

theorem xrecv_opens (hr : recvRange blk) (hw : c.doneAt s.focus dr (field blk 40 8) = .word w)
    (hfree : ∀ z, z ∈ c.xde.sessions → (z.mb = x.toNat → z.die ≠ dr.die ∧
      (field blk 0 2 + field blk 2 2 ≤ z.first ∨ z.first + z.experts ≤ field blk 0 2)))
    (hslot : 0 < c.xde.freeSlots dr.die) (hdesc : c.readBlock (xdeAgent s.focus) s.focus dr (field blk 8 8) 128 = .ok recs c1)
    {de : Desc} (hde : de = descOf (BitVec.ofNat 1024 (natOfBytes recs))) (hrank : de.rank = 3) (hcheck : de.check = none)
    (hcap : field blk 4 4 ≤ (de.lev 2).count) (hexperts : field blk 2 2 ≤ (de.lev 3).count) :
    Gives s dr (.xrecv d a b) d 0 fun t _ => ∃ (z : Session), t.chip.xde.sessions = c1.xde.sessions ++ [z] ∧ z.mb = x.toNat ∧
      z.die = dr.die ∧ z.block = blk ∧ z.admitted = List.replicate (field blk 2 2) 0 := by
  subst hde
  refine xde_gives h (j := .xrecv d a b) (c := (c1.dropFar (xdeAgent s.focus)).onXde fun q => { q with sessions := q.sessions ++
      [{ die := dr.die, mb := x.toNat, block := blk, desc := BitVec.ofNat 1024 (natOfBytes recs),
         admitted := List.replicate (field blk 2 2) 0, finishes := 0, done := w, cut := none, ending := none, exp := dr.exp,
         owner := s.focus, clk := (d1.tick s.focus).clk }] }) rfl rfl
    ((State.xdeCommand_block h _ hx hblk).trans ((ite_of_passed (not_recvShape_iff blk) hs).trans
      ((ite_of_passed (not_recvRange_iff blk) hr).trans ((Chip.withDone_word hw ..).trans ?_))))
    (d1.tick_sameBut s.focus) fun t _ ht => ⟨_, by rw [ht]; rfl, rfl, rfl, rfl, rfl⟩
  simp only [noSession hfree, noOverlap hfree, Nat.ne_of_gt hslot, hdesc, hrank, hcheck, Nat.not_lt.2 hcap, Nat.not_lt.2 hexperts, ne_eq,
    not_true_eq_false, Option.isSome_none, Bool.false_eq_true, or_self, if_false]
  rfl

end

/-! ## XBIAS (R311) -/

section

theorem xbias_badShape (hs : ¬ biasShape blk) : Gives s dr (.xbias d a b) d (status 21 0) any :=
  xde_refused h (j := .xbias d a b) (c := c) rfl rfl ((State.xdeCommand_block h _ hx hblk).trans (if_pos ((not_biasShape_iff blk).1 hs)))
    (d1.tick_sameBut s.focus)

variable (hs : biasShape blk) (hw : c.doneAt s.focus dr (field blk 24 8) = .word w)

include hs hw

theorem xbias_busy (hbusy : ∃ k, k ∈ c.xde.work ∧ k.op = 5) : Gives s dr (.xbias d a b) d (status 1 0) any := by
  have hany : (c.xde.work.any fun k => k.op == 5) = true := by simpa using hbusy
  exact xde_refused h (j := .xbias d a b) (c := c) rfl rfl ((State.xdeCommand_block h _ hx hblk).trans
    ((ite_of_passed (not_biasShape_iff blk) hs).trans ((Chip.withDone_word hw ..).trans (if_pos hany))))
    (d1.tick_sameBut s.focus)

theorem xbias_works (hidle : ∀ k, k ∈ c.xde.work → k.op ≠ 5) : Gives s dr (.xbias d a b) d 0 fun t _ => ∃ (k : XWork),
    t.chip.xde.work = c.xde.work ++ [k] ∧ k.op = 5 ∧ k.block = blk ∧ k.done = w := by
  have hnone : ¬ (c.xde.work.any fun k => k.op == 5) = true := by simpa using hidle
  exact xde_gives h (j := .xbias d a b) (c := c.addWork (XWork.start 5 dr.die x.toNat blk w s.focus dr.exp (d1.tick s.focus).clk)) rfl rfl
    ((State.xdeCommand_block h _ hx hblk).trans ((ite_of_passed (not_biasShape_iff blk) hs).trans
      ((Chip.withDone_word hw ..).trans (if_neg hnone))))
    (d1.tick_sameBut s.focus) fun t _ ht => ⟨_, by rw [ht]; rfl, rfl, rfl, rfl⟩

end

end

/-! ## XGATE (R305) -/

section

variable {s : State} {dr d1 : Drover} {d a b : BitVec 5} {x y : Word} {blk : List Byte} {c : Chip} {mb : Nat} {r : Round}
  (h : Dispatches s dr d1 d a b x y)

include h

theorem xgate_misaligned (ha : y.toNat % 8 ≠ 0) : Trapped s dr (.xgate d a b) 2 dr.regs.pc y := by
  obtain ⟨⟨hc, hsrc, hdst, -, hread⟩, -, -⟩ := h
  refine trapped_of_drives (q := dr.trapAt 2 y) (j := .xgate d a b) hc rfl ?_ .rfl
  simp only [hsrc, hdst, hread, unlessStall_none, Res.ok_bind, if_pos ha]

variable (ha : y.toNat % 8 = 0)

include ha

theorem xgate_noRound (hj : s.chip.joinedRound s.focus = none) : Gives s dr (.xgate d a b) d (status 1 0) any := by
  have ⟨⟨_, hsrc, hdst, _, hread⟩, hrel, _⟩ := h
  refine xde_refused h (j := .xgate d a b) (c := s.chip) rfl rfl ?_ .rfl
  simp only [hsrc, hdst, hread, unlessStall_none, Res.ok_bind, ha, ne_eq, not_true_eq_false, if_false, hrel, Bool.not_true,
    Bool.false_eq_true, hj]

variable (hj : s.chip.joinedRound s.focus = some (mb, r))

include hj

theorem xgate_badToken (htok : r.tokens ≤ bitsOf x.toNat 0 16) : Gives s dr (.xgate d a b) d (status 33 0) any := by
  have ⟨⟨_, hsrc, hdst, _, hread⟩, hrel, _⟩ := h
  refine xde_refused h (j := .xgate d a b) (c := s.chip) rfl rfl ?_ .rfl
  simp only [hsrc, hdst, hread, unlessStall_none, Res.ok_bind, ha, ne_eq, not_true_eq_false, if_false, hrel, Bool.not_true,
    Bool.false_eq_true, hj, if_pos htok]

variable (htok : bitsOf x.toNat 0 16 < r.tokens)

include htok

theorem xgate_contributed (hall : r.contributors ≤ s.chip.xde.contributed mb (bitsOf x.toNat 0 16) r) :
    Gives s dr (.xgate d a b) d (status 1 0) any := by
  have ⟨⟨_, hsrc, hdst, _, hread⟩, hrel, _⟩ := h
  refine xde_refused h (j := .xgate d a b) (c := s.chip) rfl rfl ?_ .rfl
  simp only [hsrc, hdst, hread, unlessStall_none, Res.ok_bind, ha, ne_eq, not_true_eq_false, if_false, hrel, Bool.not_true,
    Bool.false_eq_true, hj, if_neg (Nat.not_le.2 htok), if_pos hall]

variable (hroom : s.chip.xde.contributed mb (bitsOf x.toNat 0 16) r < r.contributors)

include hroom

theorem xgate_badCount (hbad : 8 < bitsOf x.toNat 16 4 ∨ 2 ^ 20 ≤ x.toNat) : Gives s dr (.xgate d a b) d (status 21 0) any := by
  have ⟨⟨_, hsrc, hdst, _, hread⟩, hrel, _⟩ := h
  refine xde_refused h (j := .xgate d a b) (c := s.chip) rfl rfl ?_ .rfl
  simp only [hsrc, hdst, hread, unlessStall_none, Res.ok_bind, ha, ne_eq, not_true_eq_false, if_false, hrel, Bool.not_true,
    Bool.false_eq_true, hj, if_neg (Nat.not_le.2 htok), if_neg (Nat.not_le.2 hroom), if_pos hbad]

/-- The list is on its way to its token. -/
theorem xgate_lists (hgood : ¬ (8 < bitsOf x.toNat 16 4 ∨ 2 ^ 20 ≤ x.toNat)) (hblk : BlockIs s s.chip c dr y (8 * bitsOf x.toNat 16 4) 8 blk)
    (hentries : ∀ i, i < bitsOf x.toNat 16 4 → field blk (8 * i) 8 < 2 ^ 44) :
    Gives s dr (.xgate d a b) d 0 fun t _ => ∃ (l : GateList), t.chip.xde.lists = c.xde.lists ++ [l] ∧ l.mb = mb ∧
      l.tok = bitsOf x.toNat 0 16 := by
  have ⟨⟨_, hsrc, hdst, _, hread⟩, hrel, _⟩ := h
  have hall : ¬ (((List.range (bitsOf x.toNat 16 4)).map fun i => field blk (8 * i) 8).any fun e => decide (2 ^ 44 ≤ e)) = true := by
    rw [List.any_map, List.any_eq_true]
    rintro ⟨i, hi, hbig⟩
    exact Nat.not_le.2 (hentries i (List.mem_range.1 hi)) (of_decide_eq_true hbig)
  refine xde_gives h (j := .xgate d a b) (c := c.gated mb (bitsOf x.toNat 0 16) r
    ((List.range (bitsOf x.toNat 16 4)).map fun i => field blk (8 * i) 8) (d1.tick s.focus).clk) rfl rfl ?_ (d1.tick_sameBut s.focus)
    fun t _ ht => ⟨_, by rw [ht]; rfl, rfl, rfl⟩
  simp only [hsrc, hdst, hread, unlessStall_none, Res.ok_bind, ha, ne_eq, not_true_eq_false, if_false, hrel, Bool.not_true,
    Bool.false_eq_true, hj, if_neg (Nat.not_le.2 htok), if_neg (Nat.not_le.2 hroom), if_neg hgood, State.block_of_blockIs hblk, if_neg hall]
  rfl

end

/-! ## What is read (R192, R303) -/

theorem xtopk_answer {s : State} {dr d1 : Drover} {d a b : BitVec 5} {x y v : Word} (hc : s.cur? = some dr) (hv : dr.hold = .result v)
    (hread : dr.read2 s.focus a b = .ok (x, y, d1)) : Gives s dr (.xtopk d a b) d v any := by
  refine gives_of_command (j := .xtopk d a b) (c := s.chip) hc rfl rfl ?_ (Drover.read2_sameBut hread) fun _ _ _ => trivial
  simp only [hv, hread, Res.ok_bind]
  rfl

section

variable {s : State} {dr d1 : Drover} {d a : BitVec 5} {x : Word} (h : Ready1d s dr d1 d a x)

include h

theorem xstat_gives {v : Word} (hv : BitVec.ofNat 64 (s.chip.xstatWord s.focus dr.die x) = v) : Gives s dr (.xstat d a) d v any := by
  obtain ⟨hc, hsrc, hdst, -, hread⟩ := h
  subst hv
  refine gives_of_command (j := .xstat d a) (c := s.chip) hc rfl rfl ?_ (Drover.readX_sameBut hread) fun _ _ _ => trivial
  simp only [hsrc, hdst, hread, unlessStall_none, Res.ok_bind]
  rfl

end

theorem xstat_joined (c : Chip) {u n : Nat} (die : Nat) (hn : c.seraiOf u = some n) :
    c.xstatWord u die 2 = (((c.serai n).joined).map fun m => m.1 % 2 ^ 32).getD (2 ^ 32 - 1) := by
  change ((((c.seraiOf u).bind fun n => (c.serai n).joined).map fun m => m.1 % 2 ^ 32).getD (2 ^ 32 - 1)) = _
  rw [hn]
  rfl

/-! ## The obligation -/

theorem bitsOf_low16 (n : Nat) : bitsOf n 0 16 = n % 65536 := by simp [bitsOf]

theorem bitsOf_next4 (n : Nat) : bitsOf n 16 4 = n / 65536 % 16 := rfl

theorem dispatchRefusals : DispatchRefusals := by
  intro s dr d1 d a b x y blk c h
  refine ⟨xde_bigBatch h, fun hx hblk => ⟨xtopk_badShape h hx hblk, xtopk_badRange h hx hblk, xbin_badShape h hx hblk,
    xbin_badRange h hx hblk, xsend_badShape h hx hblk, xsend_badRange h hx hblk, xrecv_badShape h hx hblk, xrecv_badRange h hx hblk,
    xbias_badShape h hx hblk⟩, xgate_misaligned h, xgate_noRound h, fun mb r ha hj => ?_⟩
  rw [← bitsOf_low16, ← bitsOf_next4]
  exact ⟨xgate_badToken h ha hj, xgate_contributed h ha hj, xgate_badCount h ha hj⟩

theorem gateAccepted : GateAccepted := by
  intro s dr d1 d a b x y blk c mb r h hj hx hn htok hroom hblk hentries
  have hcount : x.toNat / 65536 = bitsOf x.toNat 16 4 := by rw [bitsOf_next4]; omega
  rw [hcount] at hn hblk hentries
  rw [← bitsOf_low16] at htok hroom ⊢
  exact xgate_lists h hblk.1 hj htok hroom (by omega) hblk hentries

theorem dispatchReads : DispatchReads := by
  intro s dr d1 d a b x y
  refine ⟨fun hc _ v => xtopk_answer hc, fun h => ⟨?_, ?_, ?_, ?_, fun hx => ?_⟩⟩
  · rintro rfl; exact xstat_gives h rfl
  · rintro rfl; exact xstat_gives h rfl
  · rintro rfl
    exact ⟨fun n j hn hj => xstat_gives h (by rw [xstat_joined _ _ hn, hj]; rfl),
      fun n hn hj => xstat_gives h (by rw [xstat_joined _ _ hn, hj]; rfl)⟩
  · rintro rfl; exact xstat_gives h rfl
  · exact xstat_gives h (by rw [Chip.xstatWord, if_pos hx]; rfl)

/-- Settles O23: each command's block is checked shape before range (`State.xdeCommand_block`); an accepted one leaves its request, work,
session or list in the engines (`xtopk_opens`, `xbin_works`, `xsend_works`, `xrecv_opens`, `xbias_works`, `xgate_lists`). -/
theorem expertDispatch : Obligations.ExpertDispatch :=
  ⟨dispatchRefusals, fun _ _ _ _ _ _ _ _ _ _ _ h hx hblk => xtopk_opens h hx hblk, fun _ _ _ _ _ _ _ _ _ _ _ _ _ h hx hblk => xbin_works h hx hblk,
    fun _ _ _ _ _ _ _ _ _ _ _ _ _ h hx hblk hs hr hw => ⟨xsend_noRound h hx hblk hs hr hw, fun _ => xsend_works h hx hblk hs hr hw⟩,
    fun _ _ _ _ _ _ _ _ _ _ _ _ _ h hx hblk hs hr hw hfree hslot hdesc _ hde => xrecv_opens h hx hblk hs hr hw hfree hslot hdesc hde,
    fun _ _ _ _ _ _ _ _ _ _ _ h hx hblk hs hw => ⟨xbias_busy h hx hblk hs hw, xbias_works h hx hblk hs hw⟩, gateAccepted, dispatchReads⟩

end Sys2Proof.Claims
end

section
/-!
SUPPORT. Tokens on veins, at portals and through routers (R194, R195, R220 to R223).
-/

namespace Sys2Proof.Machine

/-! ## Pages and hops (R194) -/

theorem Chip.setPage_page (c : Chip) (n pg : Nat) (g : Page) :
    look ((c.setPage n pg g).serai n).pages pg = some { g with made := 0 } := by
  simp only [Chip.setPage, Chip.onSerai, Chip.serai_setSerai, Serai.setPage, look_put_same]

theorem arriveFirst_singleton (x : HopTok) : arriveFirst [x] = [{ x with here := true }] := by
  unfold arriveFirst
  split
  case isTrue hhere => rw [← hhere]; rfl
  case isFalse => rfl

/-! ## What the operators of a router do (R221 to R223) -/

/-- The registers that a step leaves in its router, where it creates no poison of its own. -/
def Routed.registers (o : Routed) : Router :=
  { out := o.toks.head?, dirs := BitVec.ofNat 4 o.dirs, portal := o.portal, emit := o.toks.drop 1, loop := o.loop, held := o.held }

theorem Page.routed_registers (g : Page) (n q pg i : Nat) {o : Routed} (h : o.skew = false) :
    look (g.routed n q pg i o).xst i = some o.registers := by
  simp [Page.routed, Page.setRouter, Routed.registers, h]

/-- FORK's step (R221). -/
def forkStep (x : XvWord) (r : Router) (h : XvHeads) : Option Routed :=
  h.a.map fun t => { takes := [x.ina], toks := [t], dirs := x.omt, portal := oportOf x.oport, loop := r.loop, held := r.held }

section

variable {x : XvWord} {r : Router} {h : XvHeads} {t k : Token}

/-- A control token of STEER other than POISON sends its data token to one side, and to nothing where the false side has no
destinations. -/
theorem steerStep_data (ha : h.a = some t) (hs : t.isStructure = false) (hc : h.ctl = some k) (hk : k.kind ≠ 4) :
    steerStep x r h = some { takes := [x.ctl, x.ina], toks := if k.truth.1 = false ∧ x.omf = 0 then [] else [t],
                             dirs := if k.truth.1 then x.omt else x.omf, portal := none, loop := r.loop, held := r.held } := by
  simp only [steerStep, ha, hs, hc, hk, Bool.false_eq_true, if_false]
  cases k.truth.1 <;> simp

theorem mergeStep_left (ha : h.a = some t) (hb : h.b = none) (hs : t.isStructure = false) (hc : h.ctl = some k)
    (hk : k.truth = (true, false)) :
    mergeStep x r h = some { takes := [x.ctl, x.ina], toks := [t], dirs := x.omt, portal := oportOf x.oport, loop := r.loop,
                             held := r.held } := by
  simp [mergeStep, ha, hb, hs, hc, hk]

theorem carryStep_initial (hl : r.loop = false) (ha : h.a = some t) (hs : t.isStructure = false) (hb : h.b = none) :
    carryStep x r h = some { takes := [x.ina], toks := [t], dirs := x.omt, portal := oportOf x.oport, loop := true,
                             held := r.held } := by
  simp [carryStep, hl, ha, hs, hb]

theorem invStep_repeats (hr : r.held = some t) (ha : h.a = none) (hc : h.ctl = some k) (hk : k.truth = (true, false)) :
    invStep x r h = some { takes := [x.ctl], toks := [t], dirs := x.omt, portal := oportOf x.oport, loop := r.loop,
                           held := some t } := by
  simp [invStep, hr, ha, hc, hk]

end

end Sys2Proof.Machine

namespace Sys2Proof.Claims

open Sys2Proof.Machine

section

variable {s : State} {n : BitVec 12} {q : BitVec 2} {i : BitVec 6} {pg : Nat} {g : Page} {j : Instr}

theorem pageIs_setPage (c : Chip) (n : BitVec 12) (pg : Nat) (g : Page) : pageIs (c.setPage n.toNat pg g) n pg g :=
  Chip.setPage_page ..

/-! ## Steps of engines and of pages -/

/-- A step of an engine of a serai that a task holds and whose engines move. -/
theorem after_engineStep {u : Nat} {d : Drover} {v : Serai} {f : Chip → Nat → Nat → Drover → Serai → Chip} {P : Chip → Prop}
    (h : Engine s n u d v) (hj : exec j s = s.engineStep n f) (hP : P (f s.chip s.cycle u d v)) : After s j P := by
  rw [Engine] at h
  refine ⟨_, hj, rfl, rfl, rfl, ?_⟩
  simp only [State.onChip_chip, h]
  exact hP

/-- A step of the page in a quarter, where one stands there and its quarter moves. -/
theorem after_pageStep {f : Chip → Nat → Nat → Nat → Page → Chip} {P : Chip → Prop} (h : PageAt s n q pg g)
    (hj : exec j s = s.pageStep n q f) (hP : ∀ u, P (f s.chip s.cycle u pg g)) : After s j P := by
  obtain ⟨u, d, v, hengine, hresident, hruns⟩ := h
  refine after_engineStep hengine hj ?_
  simp only [hresident, hruns, if_true]
  exact hP u

/-! ## Movement (R194, R195) -/

theorem exec_outputMove (xv : BitVec 1) : exec (.outputMove n q i xv) s = execOutputMove n q i xv s := rfl

theorem exec_veinHop (d : BitVec 2) : exec (.veinHop n q i d) s = execVeinHop n q i d s := rfl

theorem outputMove_cell {t : Token} (h : PageAt s n q pg g) (ht : (g.cellAt i.toNat).out = some t) :
    After s (.outputMove n q i 0) fun c => c =
      if g.roomFor i.toNat (g.word i.toNat).omask (oportOf (g.word i.toNat).oport) then
        s.chip.setPage n.toNat pg ((g.setCell i.toNat { g.cellAt i.toNat with out := none }).deliver i.toNat
          (g.word i.toNat).omask (oportOf (g.word i.toNat).oport) t)
      else s.chip := by
  refine after_pageStep h (exec_outputMove 0) fun _ => ?_
  simp only [if_true, ht]

theorem outputMove_router {t : Token} {r : Router} (h : PageAt s n q pg g) (hr : r = g.routerAt i.toNat) (ht : r.out = some t)
    (hroom : g.roomFor i.toNat r.dirs.toNat r.portal = true) :
    After s (.outputMove n q i 1) fun c => pageIs c n pg
      ((g.setRouter i.toNat { r with out := r.emit.head?, emit := r.emit.drop 1 }).deliver i.toNat r.dirs.toNat r.portal t) := by
  subst hr
  refine after_pageStep h (exec_outputMove 1) fun _ => ?_
  simp only [ht, hroom, if_true]
  exact pageIs_setPage ..

/-- A hop moves its first token: to the far end, or away where nothing reads it. -/
theorem veinHop_hop (h : PageAt s n q pg g) (d : BitVec 2) :
    After s (.veinHop n q i d) fun c => ∃ g', pageIs c n pg g' ∧ look g'.hops (hopKey i.toNat d.toNat) =
      some (if g.hopRead (hopKey i.toNat d.toNat) then arriveFirst (lookD g.hops (hopKey i.toNat d.toNat) [])
        else (lookD g.hops (hopKey i.toNat d.toNat) []).drop 1) :=
  after_pageStep h (exec_veinHop d) fun _ => ⟨_, pageIs_setPage .., look_put_same ..⟩

theorem tokenMoves : TokenMoves := by
  intro s n q i d pg g t h
  refine ⟨fun ht => ⟨fun hroom => ?_, fun hroom => ?_⟩, fun r hr ht hroom => outputMove_router h hr ht hroom, ?_⟩
  · refine (outputMove_cell h ht).mono fun c hc => ?_
    rw [hc, if_pos hroom]
    exact pageIs_setPage ..
  · refine (outputMove_cell h ht).mono fun c hc => ?_
    rw [hc, hroom]
    rfl
  · rintro l x rfl
    refine ⟨fun hread hl => (veinHop_hop h d).mono fun c => ?_, fun hread => (veinHop_hop h d).mono fun c => ?_⟩
    · rintro ⟨g', hpage, hhop⟩
      rw [hread, if_pos rfl, hl, arriveFirst_singleton] at hhop
      exact ⟨g', hpage, hhop⟩
    · rintro ⟨g', hpage, hhop⟩
      rw [hread] at hhop
      exact ⟨g', hpage, hhop⟩

/-! ## Routers (R220 to R223) -/

theorem exec_route (d : BitVec 2) : exec (.route n q i d) s = execRoute n q i d s := rfl

/-- The five operators that a router's `xop` names run as steps of one shape. -/
theorem exec_router {k : Nat}
    (hj : (j, k) ∈ [(.steer n q i, 1), (.merge n q i, 2), (.carry n q i, 3), (.inv n q i, 4), (.fork n q i, 5)]) :
    ∃ f, exec j s = s.routerStep n q i k f := by
  simp only [List.mem_cons, Prod.mk.injEq, List.not_mem_nil, or_false] at hj
  obtain ⟨rfl, rfl⟩ | ⟨rfl, rfl⟩ | ⟨rfl, rfl⟩ | ⟨rfl, rfl⟩ | ⟨rfl, rfl⟩ := hj
  · exact ⟨steerStep, rfl⟩
  · exact ⟨mergeStep, rfl⟩
  · exact ⟨carryStep, rfl⟩
  · exact ⟨invStep, rfl⟩
  · exact ⟨forkStep, rfl⟩

variable {f : XvWord → Router → XvHeads → Option Routed} (h : PageAt s n q pg g) (hfree : (g.routerAt i.toNat).out = none)

include h hfree

/-- A structure token at the control input is consumed (R220). -/
theorem routerStep_structure (hj : exec j s = s.routerStep n q i (g.xv i.toNat).xop f)
    (hctl : (g.xvHeads i.toNat (g.xv i.toNat)).ctl.any Token.isStructure = true) :
    After s j fun c => pageIs c n pg (g.take i.toNat (g.xv i.toNat).ctl true) := by
  refine after_pageStep h hj fun _ => ?_
  simp only [hfree, hctl, ne_eq, not_true_eq_false, Option.isSome_none, Bool.false_eq_true, or_self, if_false, if_true]
  exact pageIs_setPage ..

/-- With none there, the step of the operator leaves its registers in the router. -/
theorem routerStep_routed {o : Routed} {xop : Nat} (hj : exec j s = s.routerStep n q i xop f) (hop : (g.xv i.toNat).xop = xop)
    (hctl : (g.xvHeads i.toNat (g.xv i.toNat)).ctl.any Token.isStructure = false)
    (ho : f (g.xv i.toNat) (g.routerAt i.toNat) (g.xvHeads i.toNat (g.xv i.toNat)) = some o) (hskew : o.skew = false) :
    After s j fun c => ∃ g', pageIs c n pg g' ∧ look g'.xst i.toNat = some o.registers := by
  refine after_pageStep h hj fun _ => ?_
  simp only [hfree, hctl, hop, ho, ne_eq, not_true_eq_false, Option.isSome_none, Bool.false_eq_true, or_self, if_false]
  exact ⟨_, pageIs_setPage .., Page.routed_registers _ _ _ _ _ hskew⟩

theorem route_passes {d : BitVec 2} {t : Token} {sel : Nat} (hop : (g.xv i.toNat).xop = 0)
    (hsel : (g.xv i.toNat).rmap[d.toNat]? = some sel) (hne : sel ≠ 0) (ht : g.head i.toNat sel true = some t) :
    After s (.route n q i d) fun c => ∃ g', pageIs c n pg g' ∧ (look g'.xst i.toNat).map (·.out) = some (some t) := by
  refine after_pageStep h (exec_route d) fun _ => ?_
  simp only [hfree, hop, hsel, hne, ht, ne_eq, not_true_eq_false, Option.getD_some, Option.isSome_none, Bool.false_eq_true, or_self,
    if_false]
  exact ⟨_, pageIs_setPage .., by rw [Page.routed_registers _ _ _ _ _ rfl]; rfl⟩

end

/-- A fact about the registers that a step has left, from the registers. -/
theorem After.registers {s : State} {j : Instr} {n : BitVec 12} {pg i : Nat} {r : Router} {α : Type} {f : Router → α} {v : α}
    (h : After s j fun c => ∃ g', pageIs c n pg g' ∧ look g'.xst i = some r) (hv : f r = v) :
    After s j fun c => ∃ g', pageIs c n pg g' ∧ (look g'.xst i).map f = some v :=
  h.mono fun _ ⟨g', hpage, hr⟩ => ⟨g', hpage, by rw [hr, Option.map_some, hv]⟩

theorem routerSteps : RouterSteps := by
  rintro s n q i pg g x r h hp rfl rfl rfl hfree
  refine ⟨fun j k hj hop hctl => ?_, fun hctl t => ⟨fun hop ha => ?_, fun hop ha hs k hk hkind => ?_,
    fun hop ha hb hs k hk htrue => ?_, fun hop hl ha hs hb => ?_, fun hop hheld ha k hk htrue => ?_⟩,
    fun d t sel hop hsel hne ht => route_passes hp hfree hop hsel hne ht⟩
  · obtain ⟨f, hf⟩ := exec_router (s := s) hj
    exact routerStep_structure hp hfree (hop ▸ hf) hctl
  · exact (routerStep_routed (f := forkStep) hp hfree rfl hop hctl (congrArg (Option.map _) ha) rfl).registers rfl
  · refine (routerStep_routed hp hfree rfl hop hctl (steerStep_data ha hs hk hkind) rfl).mono fun c => ?_
    rintro ⟨g', hpage, hr⟩
    refine ⟨g', hpage, _, hr, fun htrue => ?_, fun hfalse hne => ?_, fun hfalse hzero => ?_⟩
    · simp [Routed.registers, htrue]
    · simp [Routed.registers, hfalse, hne]
    · simp [Routed.registers, hfalse, hzero]
  · exact (routerStep_routed hp hfree rfl hop hctl (mergeStep_left ha hb hs hk htrue) rfl).registers rfl
  · exact (routerStep_routed hp hfree rfl hop hctl (carryStep_initial hl ha hs hb) rfl).registers rfl
  · exact (routerStep_routed hp hfree rfl hop hctl (invStep_repeats hheld ha hk htrue) rfl).registers rfl

/-- Settles O35: an output register empties into all its destinations at once (`outputMove_cell`, `outputMove_router`) and a hop moves
its first token (`veinHop_hop`); a free router consumes a structure token (`routerStep_structure`) or is left with the registers of its
operator's step (`routerStep_routed`, `route_passes`). -/
theorem tokenTransport : Obligations.TokenTransport := ⟨tokenMoves, routerSteps⟩

end Sys2Proof.Claims
end

section
/-!
SUPPORT. Remote caches (R260), walks (R250, R261) and invalidations (R263): what a fill keeps with its die, what the end of a walk
gives the drover that waits for it, and what an invalidation takes out of the TLBs.
-/

namespace Sys2Proof.Machine

open Sys2Proof.Claims

/-! ## Remote caches (R260) -/

section

variable {c : Chip} {u : Nat} {d : Drover} {a : Access}

/-- The line stands in the die's cache, whichever line made room for it. -/
theorem Chip.remoteKeep_line (c : Chip) (die pa : Nat) :
    look (c.remoteKeep die pa).homes.rcache (remoteKey die pa) = some (c.homes.line pa) := by
  unfold Chip.remoteKeep
  dsimp only
  split
  · exact look_put_same ..
  · exact look_put_same ..

theorem Chip.remoteKeep_mem (c : Chip) (die pa : Nat) : (c.remoteKeep die pa).homes.mem = c.homes.mem := by
  unfold Chip.remoteKeep
  dsimp only
  split <;> rfl

theorem Chip.release_rcache (c : Chip) (u : Nat) (d : Drover) (a : Access) :
    (c.release u d a).homes.rcache = c.homes.rcache := by
  unfold Chip.release
  split <;> rfl

/-- A load leaves its home's bytes and copies as they are. -/
theorem Chip.performAcc_load (hk : a.kind = .load) :
    (c.performAcc u d a).homes.rcache = c.homes.rcache ∧ (c.performAcc u d a).homes.mem = c.homes.mem := by
  simp only [Chip.performAcc, hk]
  exact ⟨Chip.release_rcache .., (Chip.release_alike ..).mem⟩

/-- The die's cache serves a replicable page of another die that is not watched. -/
theorem remoteServes_of_atSlice {die : Nat} (hrep : a.leaf.replicable = true) (hslice : a.atSlice = true) (hdie : die < 8)
    (haway : sliceOf a.pa / 64 ≠ die) (hw : a.leaf.watched = false) : remoteServes die a.leaf a.pa = true := by
  simp only [Access.atSlice, Bool.and_eq_true] at hslice
  simp [remoteServes, hrep, hslice, hdie, haway, hw]

end

/-! ## Walks (R250, R261) -/

section

variable (c : Chip) (u : Nat) (d : Drover)

theorem Chip.keepLeaf_mgmt (die : Nat) (l : Leaf) : (c.keepLeaf die l).mgmt = c.mgmt := by
  unfold Chip.keepLeaf
  dsimp only
  split
  · rfl
  · split <;> rfl

theorem Chip.localLeaf_congr {c c' : Chip} (h : c'.mgmt = c.mgmt) (l : Leaf) : c'.localLeaf l = c.localLeaf l := by
  rw [Chip.localLeaf, Chip.localLeaf, h]

theorem mem_fillTlb (t : List Leaf) (l : Leaf) (victim : Nat) : l ∈ fillTlb t l victim := by simp [fillTlb]

variable {c u d}

/-- A walk that finds a leaf gives it to the drover that waits for the address, and the wait ends. -/
theorem Chip.walkFound_serves {va : Nat} (hwait : d.hold = .walk va) (hrun : d.run = .running) (l : Leaf) :
    ∃ d', (c.walkFound u d va l).drover? u = some d' ∧ d'.hold = .idle ∧ c.localLeaf l ∈ d'.mem.tlb := by
  have hlocal := Chip.localLeaf_congr (c.keepLeaf_mgmt d.site l) l
  simp only [Chip.walkFound, hwait, hrun, and_self, if_true]
  refine ⟨_, (Chip.setDrover_drover? ..).trans (if_pos rfl), rfl, ?_⟩
  split
  · exact hlocal ▸ mem_fillTlb ..
  · exact hlocal ▸ mem_fillTlb ..

/-- One that fails traps the drover that waits for the address. -/
theorem Chip.walkLost_traps {va : Word} (hwait : d.hold = .walk va.toNat) (hrun : d.run = .running) :
    (c.walkLost u d va).drover? u = some (d.takeTrap (d.trapAt 3 va)) := by
  rw [Chip.walkLost, if_pos ⟨hwait, hrun⟩]
  exact (Chip.setDrover_drover? ..).trans (if_pos rfl)

end

/-! ## Invalidations (R263) -/

theorem look_map {α β : Type} (f : α → β) (m : SMap α) (i : Nat) :
    look (m.map fun p => (p.1, f p.2)) i = (look m i).map f := by
  induction m with
  | nil => rfl
  | cons p m ih =>
    rw [List.map_cons, look, look, ih]
    split <;> rfl

/-- No TLB holds a translation that an invalidation matches. -/
def Chip.NoHit (c : Chip) (v : Inval) : Prop :=
  ∀ w dw, c.drover? w = some dw → ∀ l, l ∈ dw.mem.tlb → v.hits l = false

/-- A drover without the translations that an invalidation matches. -/
def Drover.forgets (d : Drover) (v : Inval) : Drover :=
  { d with mem := { d.mem with tlb := d.mem.tlb.filter fun l => !v.hits l } }

theorem Chip.dropLeaves_noHit (c : Chip) (v : Inval) : (c.dropLeaves v).NoHit v := by
  intro w dw hdw l hl
  have hmap : (c.dropLeaves v).drover? w = (c.drover? w).map (·.forgets v) :=
    look_map (fun d : Drover => d.forgets v) c.drovers w
  rw [hmap] at hdw
  obtain ⟨d, -, rfl⟩ := Option.map_eq_some_iff.1 hdw
  simpa using (List.mem_filter.1 hl).2

theorem Chip.NoHit.congr {c c' : Chip} {v : Inval} (h : c.NoHit v) (hd : c'.drovers = c.drovers) : c'.NoHit v :=
  fun w dw hdw => h w dw (Chip.drover?_congr hd w ▸ hdw)

theorem Chip.NoHit.onHomes {c : Chip} {v : Inval} (h : c.NoHit v) (f : Homes → Homes) : (c.onHomes f).NoHit v := h.congr rfl

@[simp] theorem Chip.onDrover_homes (c : Chip) (u : Nat) (f : Drover → Drover) : (c.onDrover u f).homes = c.homes := by
  unfold Chip.onDrover
  split <;> rfl

/-- A change of a drover that leaves its TLB. -/
theorem Chip.NoHit.onDrover {c : Chip} {v : Inval} (h : c.NoHit v) (u : Nat) {f : Drover → Drover}
    (hf : ∀ d, (f d).mem.tlb = d.mem.tlb) : (c.onDrover u f).NoHit v := by
  unfold Chip.onDrover
  split
  · exact h
  · next d hd =>
    intro w dw hdw l hl
    rw [Chip.setDrover_drover?] at hdw
    split at hdw
    · cases hdw
      exact h u d hd l (hf d ▸ hl)
    · exact h w dw hdw l hl

theorem Drover.settle_tlb (d : Drover) : d.settle.mem.tlb = d.mem.tlb := by
  refine List.foldlRecOn _ _ (motive := fun d' : Drover => d'.mem.tlb = d.mem.tlb) rfl fun d' h m _ => ?_
  dsimp only
  split
  · split <;> exact h
  · exact h

theorem Drover.acquireFrom_tlb (d : Drover) (u q : Nat) (k : SMap Nat) : (d.acquireFrom u q k).mem.tlb = d.mem.tlb := rfl

theorem Drover.dropAcc_tlb (d : Drover) (q : Nat) : (d.dropAcc q).mem.tlb = d.mem.tlb := rfl

theorem Drover.leave_tlb (d : Drover) (u : Nat) (a : Access) (k : SMap Nat) : (d.leave u a k).mem.tlb = d.mem.tlb := by
  grind [Drover.leave, Drover.settle_tlb, Drover.acquireFrom_tlb, Drover.dropAcc_tlb]

theorem Drover.writtenDrop_tlb (d : Drover) (u q : Nat) (k : SMap Nat) : (d.writtenDrop u q k).mem.tlb = d.mem.tlb := by
  unfold Drover.writtenDrop
  split
  · rfl
  · rw [Drover.leave_tlb, Drover.dropLine]
    split <;> rfl

end Sys2Proof.Machine

namespace Sys2Proof.Claims

open Sys2Proof.Machine

/-! ## Remote caches (R260) -/

theorem exec_remoteCacheFill (s : State) (e : BitVec 3) (u q : Nat) :
    exec (.remoteCacheFill e u q) s = execRemoteCacheFill e u q s := rfl

theorem exec_remoteCacheEvict (s : State) (e : BitVec 3) (line : Nat) :
    exec (.remoteCacheEvict e line) s = execRemoteCacheEvict e line s := rfl

theorem exec_remoteCacheInvalidate (s : State) (e : BitVec 3) (line : Nat) :
    exec (.remoteCacheInvalidate e line) s = execRemoteCacheInvalidate e line s := rfl

section

variable {s : State} {u q : Nat} {d : Drover} {a : Access} {e : BitVec 3} {P : Chip → Prop} (h : HasAcc s u q d a)
  (harr : s.chip.arrived u d a = true) (hserves : remoteServes e.toNat a.leaf a.pa = true) (hsite : d.site = e.toNat)
  (hk : a.kind = .load)

include h harr hserves hsite hk

/-- A plain load is answered from the die's copy of its line. -/
theorem after_remoteCacheFill_hit {l : BitVec 512} (hl : look s.chip.homes.rcache (remoteKey e.toNat a.pa) = some l)
    (hP : P (s.chip.setDrover u (d.answer u q (a.kind.extend a.size (field (leBytes l.toNat 64) (a.pa % 64) a.size)) none
      (if a.cacheable = true then some l else none) (s.chip.learned u d a)))) : After s (.remoteCacheFill e u q) P := by
  refine after_of_withAcc h (exec_remoteCacheFill ..) ?_
  simp only [harr, hserves, hsite, hk, hl, beq_self_eq_true, Bool.true_or, Bool.and_self, if_true] at hP ⊢
  exact hP

/-- Without a copy it is performed at its home, and the die keeps the line. -/
theorem after_remoteCacheFill_miss (hl : look s.chip.homes.rcache (remoteKey e.toNat a.pa) = none)
    (hgood : s.chip.homes.anyBad (a.pa / 64 * 64) 64 = false) (hP : P ((s.chip.remoteKeep e.toNat a.pa).performAcc u d a)) :
    After s (.remoteCacheFill e u q) P := by
  refine after_of_withAcc h (exec_remoteCacheFill ..) ?_
  simp only [harr, hserves, hsite, hk, hl, hgood, beq_self_eq_true, Bool.true_or, Bool.and_self, if_true, Bool.false_eq_true,
    if_false]
  exact hP

end

theorem remoteCaches : RemoteCaches := by
  intro s u q d a e line
  refine ⟨fun h harr hrep hslice hsite haway hw hk => ?fill, ?evict, ?invalidate⟩
  case fill =>
    have hserves := remoteServes_of_atSlice hrep hslice e.isLt haway hw
    refine ⟨fun l hl => ?hit, fun hl hgood => ?miss⟩
    case hit =>
      exact after_remoteCacheFill_hit h harr hserves hsite hk hl ((Chip.setDrover_drover? ..).trans (if_pos rfl))
    case miss =>
      obtain ⟨hcache, hmem⟩ := Chip.performAcc_load (c := s.chip.remoteKeep e.toNat a.pa) (u := u) (d := d) hk
      exact after_remoteCacheFill_miss h harr hserves hsite hk hl hgood
        ⟨hcache ▸ s.chip.remoteKeep_line .., hmem.trans (s.chip.remoteKeep_mem ..)⟩
  case evict => exact after_of_eventStep (exec_remoteCacheEvict ..) ⟨(look_del ..).trans (if_pos rfl), rfl⟩
  case invalidate => exact after_of_eventStep (exec_remoteCacheInvalidate ..) ⟨(look_del ..).trans (if_pos rfl), rfl⟩

/-! ## Walks (R250, R261) -/

section

variable {s : State} {u : Nat} {d : Drover} {va : Word}

theorem exec_translationWalk (s : State) (u : Nat) (va : Word) :
    exec (.translationWalk u va) s = execTranslationWalk u va s := rfl

/-- The walk that serves an address is the one that `WalkAt` names. -/
theorem walkAt_iff (s : State) (d : Drover) (va : Word) (w : TableWalk) : WalkAt s d va w ↔
    (s.chip.walkers.walks.find? fun (w : TableWalk) => w.die == d.site && w.tag == d.expTag && w.va == va.toNat).getD
      { die := d.site, tag := d.expTag, va := va.toNat, level := 1, table := (s.chip.rootOf d).toNat * 4096 } = w := by
  unfold WalkAt
  dsimp only
  cases s.chip.walkers.walks.find? _ with
  | none => simp [eq_comm]
  | some w' => simp

variable (hd : s.chip.drover? u = some d) (hwait : d.hold = .walk va.toNat) (hrun : d.run = .running)
  (hwalks : d.walks va.toNat = true)

include hd hwait hrun hwalks

theorem walkTraps_of_unwalkable (h : walkable (s.chip.rootOf d) va.toNat = false) : WalkTraps s u va := by
  refine after_of_eventStep (exec_translationWalk ..) ?_
  simp only [hd, hwalks, h, Bool.not_true, Bool.not_false, Bool.false_eq_true, if_true, if_false]
  exact ⟨_, _, Chip.walkLost_traps hwait hrun, rfl, rfl, rfl⟩

variable (hroot : walkable (s.chip.rootOf d) va.toNat = true)

include hroot

theorem walkFinds_of_cached {l : Leaf} (h : s.chip.cachedLeaf d.site d.expTag va.toNat = some l) : WalkFinds s u va l := by
  refine after_of_eventStep (exec_translationWalk ..) ?_
  simp only [hd, hwalks, hroot, h, Bool.not_true, Bool.false_eq_true, if_false]
  exact Chip.walkFound_serves hwait hrun l

/-- One entry is read, where no leaf of the die serves. -/
theorem translationWalk_reads (hnone : s.chip.cachedLeaf d.site d.expTag va.toNat = none) {w : TableWalk} (hw : WalkAt s d va w) :
    (∀ l, s.chip.homes.walkStep d.expTag va.toNat w.level w.table = .done l → WalkFinds s u va l) ∧
    (∀ t, s.chip.homes.walkStep d.expTag va.toNat w.level w.table = .on t →
      After s (.translationWalk u va) fun c => c.drover? u = some d ∧
        { w with level := w.level + 1, table := t } ∈ c.walkers.walks) ∧
    (s.chip.homes.walkStep d.expTag va.toNat w.level w.table = .fault → WalkTraps s u va) ∧
    (∀ b, s.chip.homes.walkStep d.expTag va.toNat w.level w.table = .bad b → WalkTraps s u va) := by
  have hw := (walkAt_iff ..).1 hw
  refine ⟨fun l h => after_of_eventStep (exec_translationWalk ..) ?done,
    fun t h => after_of_eventStep (exec_translationWalk ..) ?on, fun h => after_of_eventStep (exec_translationWalk ..) ?fault, fun b h => after_of_eventStep (exec_translationWalk ..) ?bad⟩
  all_goals simp only [hd, hwalks, hroot, hnone, hw, h, Bool.not_true, Bool.false_eq_true, if_false]
  case done => exact Chip.walkFound_serves hwait hrun l
  case on => exact ⟨hd, List.mem_append_right _ (List.mem_singleton_self _)⟩
  case fault => exact ⟨_, _, Chip.walkLost_traps hwait hrun, rfl, rfl, rfl⟩
  case bad => exact ⟨_, _, Chip.walkLost_traps hwait hrun, rfl, rfl, rfl⟩

end

/-! ## Invalidations (R263) -/

/-- A store to the control port of one of the three kinds is accepted, and every TLB drops what matches. -/
theorem after_acceptInval {s : State} {u q k : Nat} {d : Drover} {a : Access} {i : Instr} (h : HasAcc s u q d a)
    (hi : exec i s = s.withAcc u q fun c _ d a => c.acceptInval u d a k) (hk : a.kind = .store) (hreg : a.region = .tcp)
    (hpage : a.pa % 4096 = 0) (harr : s.chip.arrived u d a = true) (hcode : a.data.toNat / 2 ^ 61 = k) :
    After s i fun c => ∃ v : Inval, c.homes.invals = s.chip.homes.invals ++ [v] ∧ v.kind = k ∧
      v.exp = a.data.toNat / 2 ^ 45 % 65536 ∧ v.vpn = a.data.toNat % 2 ^ 45 ∧ c.NoHit v := by
  refine after_of_withAcc h hi ?_
  simp only [Chip.acceptInval, hk, hreg, hpage, harr, hcode, bne_self_eq_false, Bool.not_true, Bool.or_self, Bool.false_eq_true,
    if_false]
  refine ⟨_, rfl, rfl, rfl, ?_, (Chip.dropLeaves_noHit _ _).congr rfl⟩
  simp [bitsOf]

theorem exec_invalidationPerformed (s : State) : exec .invalidationPerformed s = execInvalidationPerformed s := rfl

theorem after_invalidationPerformed {s : State} {v : Inval} {r : List Inval} (h : s.chip.homes.invals = v :: r)
    (hfly : s.chip.inFlight v = false) (hpin : s.chip.pinned v = false) :
    After s .invalidationPerformed fun c => c.homes.invals = r ∧ c.NoHit v := by
  refine after_of_eventStep (exec_invalidationPerformed s) ?_
  simp only [h, hfly, hpin, Bool.or_self, Bool.false_eq_true, if_false]
  exact ⟨congrArg Homes.invals (Chip.onDrover_homes ..),
    ((s.chip.dropLeaves_noHit v).onHomes _).onDrover v.u fun d => d.writtenDrop_tlb ..⟩

theorem translationSteps : TranslationSteps := by
  intro s u q d a va
  refine ⟨fun hd hwait hrun hwalks => ⟨walkTraps_of_unwalkable hd hwait hrun hwalks, fun hroot =>
      ⟨fun l => walkFinds_of_cached hd hwait hrun hwalks hroot,
        fun hnone w => translationWalk_reads hd hwait hrun hwalks hroot hnone⟩⟩,
    fun h hk hreg hpage harr i k hi hcode => ?accepted, fun v r => after_invalidationPerformed⟩
  have hexec : exec i s = s.withAcc u q fun c _ d a => c.acceptInval u d a k := by
    simp only [List.mem_cons, Prod.mk.injEq, List.not_mem_nil, or_false] at hi
    obtain ⟨rfl, rfl⟩ | ⟨rfl, rfl⟩ | ⟨rfl, rfl⟩ := hi
    · rfl
    · rfl
    · rfl
  exact after_acceptInval h hexec hk hreg hpage harr hcode

/-- Settles O29: a fill answers from the die's copy or keeps the line (`after_remoteCacheFill`); a walk is served by the die's
leaf (`walkFinds_of_cached`) or reads one entry (`translationWalk_reads`); an invalidation leaves no match in any TLB when it is
accepted (`after_acceptInval`) and when it is performed (`after_invalidationPerformed`). -/
theorem cachesAndTranslation : Obligations.CachesAndTranslation := ⟨remoteCaches, translationSteps⟩

end Sys2Proof.Claims
end

section
/-!
SUPPORT. The canonical form of memory (log 2) over a chip and the answers that carry one, and what leaves the homes as they are.
-/

namespace Sys2Proof.Machine

/-- Memory of a chip in canonical form: what `Claims.Canonical` asks of a state's chip. -/
abbrev Chip.Wf (c : Chip) : Prop := c.homes.mem.wf = true

abbrev Homes.Wf (h : Homes) : Prop := h.mem.wf = true

/-! ## Answers: every chip that one carries is canonical -/

@[simp] def Got.Wf {α : Type} : Got α → Prop
  | .ok _ c => c.Wf
  | .wait c => c.Wf
  | .bad _ _ => True

@[simp] def EndRes.Wf {α : Type} : EndRes α → Prop
  | .ok _ c _ => c.Wf
  | .wait c => c.Wf
  | .stop _ _ => True

@[simp] def SideRes.Wf : SideRes → Prop
  | .ok _ c => c.Wf
  | .wait c => c.Wf
  | .stop _ _ => True
  | .err _ => True

theorem Got.bind_wf {α β : Type} {g : Got α} {f : α → Chip → Got β} (hg : g.Wf)
    (hf : ∀ a c, c.Wf → (f a c).Wf) : (g.bind f).Wf := by
  cases g with
  | ok a c => exact hf a c hg
  | wait c => exact hg
  | bad k va => trivial

section

variable {α : Type} {c c' : Chip} {g : Got α} {x : EndRes α} {a : α} {l : Option Leaf}

theorem Got.Wf.of_ok (h : g.Wf) (e : g = .ok a c') : c'.Wf := by rwa [e] at h

theorem Got.Wf.of_wait (h : g.Wf) (e : g = .wait c') : c'.Wf := by rwa [e] at h

theorem EndRes.Wf.of_ok (h : x.Wf) (e : x = .ok a c' l) : c'.Wf := by rwa [e] at h

theorem EndRes.Wf.of_wait (h : x.Wf) (e : x = .wait c') : c'.Wf := by rwa [e] at h

end

@[simp] def SideList.Wf : SideList → Prop
  | .ok _ c => c.Wf
  | .wait c => c.Wf
  | .stop _ _ _ => True
  | .err _ => True

@[simp] def Prep.Wf : Prep → Prop
  | .ok _ _ c => c.Wf
  | .wait c => c.Wf
  | .bad _ _ => True
  | .lost _ => True
  | .raced _ _ => True

@[simp] def CopyRes.Wf : CopyRes → Prop
  | .refused _ => True
  | .accepted _ c => c.Wf
  | .wait c => c.Wf
  | .fault _ _ => True

@[simp] def Pins.Wf : Pins → Prop
  | .ok _ => True
  | .wait c => c.Wf
  | .bad _ _ => True

@[simp] def Watches.Wf : Watches → Prop
  | .ok _ => True
  | .bad => True
  | .fault _ _ => True
  | .wait c => c.Wf

@[simp] def MemDone.Wf : MemDone → Prop
  | .waits => True
  | .done _ _ c => c.Wf

abbrev Pull.Wf (p : Pull) : Prop := p.c.Wf

abbrev TileRead.Wf (p : TileRead) : Prop := p.c.Wf

/-! ## Folds -/

section

variable {α : Type} (l : List α)

theorem foldl_wf {f : Chip → α → Chip} {c : Chip} (hf : ∀ c a, c.Wf → (f c a).Wf) (hc : c.Wf) : (l.foldl f c).Wf :=
  List.foldlRecOn _ _ (motive := Chip.Wf) hc fun c h a _ => hf c a h

theorem foldl_homes {f : Chip → α → Chip} {c : Chip} (hf : ∀ c a, (f c a).homes = c.homes) :
    (l.foldl f c).homes = c.homes :=
  List.foldlRecOn _ _ (motive := fun c' : Chip => c'.homes = c.homes) rfl fun c' h a _ => (hf c' a).trans h

theorem foldl_mem {f : Homes → α → Homes} {h : Homes} (hf : ∀ h a, (f h a).mem = h.mem) : (l.foldl f h).mem = h.mem :=
  List.foldlRecOn _ _ (motive := fun h' : Homes => h'.mem = h.mem) rfl fun h' k a _ => (hf h' a).trans k

end

section

variable {c c' : Chip}

theorem Chip.Wf.of_fst {α : Type} {x : Chip × α} {a : α} (h : x.1.Wf) (e : x = (c', a)) : c'.Wf := by rwa [e] at h

theorem ite_wf {p : Prop} [Decidable p] {a b : Chip} (ha : a.Wf) (hb : b.Wf) : (if p then a else b).Wf := by
  split
  · exact ha
  · exact hb

end

/-! ## Operations that leave the homes alone -/

section

variable (c : Chip) {c' : Chip}

@[simp] theorem Chip.onLink_homes (l : Nat) (f : Link → Link) : (c.onLink l f).homes = c.homes := by
  unfold Chip.onLink
  split <;> rfl

@[simp] theorem Chip.onPort_homes (i : Nat) (f : Port → Port) : (c.onPort i f).homes = c.homes := by
  unfold Chip.onPort
  split <;> rfl

@[simp] theorem Chip.queuePacket_homes (l : Nat) (p : Packet) : (c.queuePacket l p).homes = c.homes := c.onLink_homes ..

@[simp] theorem Chip.onBazaar_homes (die : Nat) (f : Bazaar → Bazaar) : (c.onBazaar die f).homes = c.homes := rfl

@[simp] theorem Chip.setGroup_homes (e g : Nat) (v : Group) : (c.setGroup e g v).homes = c.homes := rfl

@[simp] theorem Chip.setPage_homes (n pg : Nat) (g : Page) : (c.setPage n pg g).homes = c.homes := rfl

@[simp] theorem Chip.setJob_homes (n ch : Nat) (j : CopyJob) : (c.setJob n ch j).homes = c.homes := rfl

@[simp] theorem Chip.dropFar_homes (agent : Nat) : (c.dropFar agent).homes = c.homes := rfl

@[simp] theorem Chip.dropLine_homes (agent : Nat) (l : Leaf) (pa : Nat) : (c.dropLine agent l pa).homes = c.homes := rfl

@[simp] theorem Chip.takeFree_homes : c.takeFree.2.homes = c.homes := rfl

@[simp] theorem Chip.nextSeq_homes (die : Nat) : (c.nextSeq die).2.homes = c.homes := rfl

@[simp] theorem Chip.numbered_homes (die : Nat) : (c.numbered die).homes = c.homes := rfl

@[simp] theorem Chip.onEngines_homes (u : Nat) (f : Serai → Serai) : (c.onEngines u f).homes = c.homes := by
  unfold Chip.onEngines
  split <;> rfl

@[simp] theorem Chip.raiseAsync_homes (u : Nat) (t : TrapReq) : (c.raiseAsync u t).homes = c.homes := c.onDrover_homes ..

@[simp] theorem Chip.streamRace_homes (u : Nat) (r : Race) (va : Nat) : (c.streamRace u r va).homes = c.homes :=
  c.raiseAsync_homes ..

@[simp] theorem Chip.setMembers_homes (v : Caravan) (st : TaskState) : (c.setMembers v st).homes = c.homes :=
  List.foldlRecOn _ _ (motive := fun c' : Chip => c'.homes = c.homes) rfl fun _ h _ _ => h

@[simp] theorem Chip.unbindTask_homes (u : Nat) : (c.unbindTask u).homes = c.homes := rfl

@[simp] theorem Chip.spillFreed_homes (e : Nat) : (c.spillFreed e).homes = c.homes := by
  unfold Chip.spillFreed
  split <;> rfl

@[simp] theorem Chip.dropFeeds_homes (u : Nat) : (c.dropFeeds u).homes = c.homes := rfl

@[simp] theorem Chip.dropJoined_homes (u q : Nat) : (c.dropJoined u q).homes = c.homes := rfl

@[simp] theorem Chip.dropLeaves_homes (i : Inval) : (c.dropLeaves i).homes = c.homes := rfl

@[simp] theorem Chip.sinkPoison_homes (u : Nat) (o : Bool) (k sink aux2 : Nat) (w : Word) :
    (c.sinkPoison u o k sink aux2 w).1.homes = c.homes := by
  unfold Chip.sinkPoison
  split
  · rfl
  · exact c.raiseAsync_homes ..

@[simp] theorem Chip.keepLeaf_homes (die : Nat) (l : Leaf) : (c.keepLeaf die l).homes = c.homes := by
  grind [Chip.keepLeaf, Chip.takeFree_homes]

theorem Chip.request_homes {dev ptype addr tag : Nat} {data : List Byte} {who : Nat → RemoteReq}
    (h : c.request dev ptype addr data who = some (tag, c')) : c'.homes = c.homes := by
  grind [Chip.request, Chip.queuePacket_homes]

theorem Chip.Wf.of_request {c c' : Chip} {dev ptype addr tag : Nat} {data : List Byte} {who : Nat → RemoteReq} (hc : c.Wf)
    (e : c.request dev ptype addr data who = some (tag, c')) : c'.Wf := by rwa [Chip.Wf, c.request_homes e]

@[simp] theorem Chip.dropLane_homes (l : Lane) : (c.dropHead l).homes = c.homes := by
  cases l
  case link l => exact c.dropHead_homes l
  case own => rfl
  case ownResp => rfl

@[simp] theorem Chip.ship_homes (p : Packet) : (c.ship p).1.homes = c.homes := by
  grind [Chip.ship, Chip.onXde_homes, Chip.queuePacket_homes]

theorem Chip.foldl_ship_homes {α : Type} (l : List α) (f : Chip → α → Packet) :
    (l.foldl (fun c a => (c.ship (f c a)).1) c).homes = c.homes :=
  foldl_homes _ fun c _ => c.ship_homes _

@[simp] theorem Chip.selfAnswer_homes (die header dev : Nat) : (c.selfAnswer die header dev).homes = c.homes := c.ship_homes _

@[simp] theorem Chip.tellFate_homes (dev code cv : Nat) : (c.tellFate dev code cv).homes = c.homes := by
  grind [Chip.tellFate, Chip.request_homes]

@[simp] theorem Chip.tellOrigin_homes (v : Caravan) : (c.tellOrigin v).homes = c.homes := by
  unfold Chip.tellOrigin
  split
  · rfl
  · exact c.tellFate_homes ..

@[simp] theorem Chip.caravanGone_homes (cv : Nat) : (c.caravanGone cv).homes = c.homes := by
  unfold Chip.caravanGone
  split
  · rfl
  · next v _ =>
    have hunbound (c0 : Chip) : (v.members.foldl (fun c u => c.unbindTask u) c0).homes = c0.homes :=
      List.foldlRecOn _ _ (motive := fun c' : Chip => c'.homes = c0.homes) rfl fun _ h _ _ => h
    simp only [Chip.onSched_homes, Chip.spillFreed_homes, Chip.onCaravan_homes, hunbound]
    split <;> simp

end

end Sys2Proof.Machine
end

section
/-!
SUPPORT. Memory stays in canonical form through the shared operations of the model, in the order in which they use each other:
one lemma per function, named `f_wf`, or `f_homes` and `f_mem` where the homes or their memory stay as they are.
-/

namespace Sys2Proof.Machine

section

variable {c c' : Chip} {h' : Homes}

/-! ### The counters of cycles -/

theorem Chip.ageTick_wf {cycle n : Nat} (hc : c.Wf) : (c.ageTick cycle n).Wf := by
  grind [Chip.ageTick]

@[simp] theorem Chip.tickDeadlock_homes {cycle : Nat} : (c.tickDeadlock cycle).homes = c.homes :=
  foldl_homes _ fun _ _ => foldl_homes _ fun _ _ => rfl

theorem Chip.tickPassed_wf (hc : c.Wf) : c.tickPassed.Wf := by
  grind [Chip.tickPassed, Chip.onSched_homes]

theorem Chip.tickMaps_wf (hc : c.Wf) : c.tickMaps.Wf := by
  grind [Chip.tickMaps]

theorem Chip.ticked_wf {cycle n : Nat} (hc : c.Wf) : (c.ticked cycle n).Wf := by
  grind [Chip.ticked, Chip.ageTick_wf, Chip.tickDeadlock_homes, Chip.tickPassed_wf, Chip.tickMaps_wf]

theorem Chip.settleAges_wf {old : Chip} (hc : c.Wf) : (c.settleAges old).Wf := by
  grind [Chip.settleAges]

/-! ### Records, logs and the engines' reads and writes through a task's translations -/

theorem Chip.logFault_wf {die e : Nat} {entry : LogEntry} (hc : c.Wf) : (c.logFault die e entry).Wf := by
  grind [Chip.logFault, Chip.nextSeq_homes, Chip.onHomes, Homes.writeNum_wf, Homes.write_wf]

theorem Chip.logLate_wf {u : Nat} {d : Drover} {l : LateErr} (hc : c.Wf) : (c.logLate u d l).Wf := by
  grind [Chip.logLate, Chip.logFault_wf]

theorem Chip.engineLeaf_wf {u : Nat} {d : Drover} {va : Nat} {n : Need} {pins : List Leaf} (hc : c.Wf) :
    (c.engineLeaf u d va n pins).Wf := by
  grind [Chip.engineLeaf, Chip.keepLeaf_homes, Got.Wf]

theorem Chip.writeFails_wf {pa : Nat} (hc : c.Wf) : (c.writeFails pa).2.Wf := by
  grind [Chip.writeFails, Chip.takeFree_homes]

@[simp] theorem Homes.unrelease_mem {h : Homes} {pa n : Nat} : (h.unrelease pa n).mem = h.mem := rfl

@[simp] theorem Homes.dropCopies_mem {h : Homes} {pa : Nat} : (h.dropCopies pa).mem = h.mem := rfl

theorem Homes.storeBytes_wf {h : Homes} {pa : Nat} {bs : List Byte} (k : h.Wf) : (h.storeBytes pa bs).Wf :=
  Memory.write_wf _ _ k

theorem Chip.writePiece_wf {u : Nat} {d : Drover} {va : Nat} {bs : List Byte} {pins : List Leaf} (hc : c.Wf) :
    (c.writePiece u d va bs pins).Wf := by
  refine Got.bind_wf (Chip.engineLeaf_wf hc) fun l c hc => ?_
  grind [Chip.request_homes, Homes.storeBytes_wf, Chip.onHomes, Got.Wf]

theorem Chip.storeVa_wf {u : Nat} {d : Drover} {pins : List Leaf} (va fuel : Nat) (bs : List Byte) (hc : c.Wf) :
    (c.storeVa u d pins va fuel bs).1.Wf := by
  induction fuel generalizing c va bs with
  | zero => exact hc
  | succ fuel ih => grind [Chip.storeVa, Chip.engineLeaf_wf, Chip.writeFails_wf, Chip.writePiece_wf, Got.Wf]

theorem Chip.storeBlock_wf {u : Nat} {d : Drover} {va : Nat} {bs : List Byte} {pins : List Leaf} (hc : c.Wf) :
    (c.storeBlock u d va bs pins).1.Wf :=
  Chip.storeVa_wf _ _ _ hc

theorem Chip.deliverRecord_wf {r : Record} (hc : c.Wf) : (c.deliverRecord r).Wf := by
  have hstore (pa : Nat) : (c.homes.storeBytes pa r.image).Wf := Homes.storeBytes_wf hc
  grind [Chip.deliverRecord, Chip.onTraps_homes, Chip.onHomes]

theorem Chip.raiseRecord_wf {die exp serai : Nat} {notask fatal defer : Bool} {task caravan : Option Nat} {q : TrapReq}
    {acc : Option Nat} {watch : Option (Nat × Nat)} (hc : c.Wf) :
    (c.raiseRecord die exp serai notask fatal defer task caravan q acc watch).Wf := by
  grind [Chip.raiseRecord, Chip.nextSeq_homes, Chip.deliverRecord_wf]

theorem Chip.writeSpill_wf {e die : Nat} (hc : c.Wf) : (c.writeSpill e die).Wf := by
  grind [Chip.writeSpill, Chip.storeBlock_wf, Chip.raiseRecord_wf, Chip.onExp_homes]

theorem Chip.enqueue_wf {v die time order : Nat} (hc : c.Wf) : (c.enqueue v die time order).Wf := by
  grind [Chip.enqueue, Chip.setMembers_homes, Chip.onCaravan_homes, Chip.writeSpill_wf]

theorem Chip.wakeCaravan_wf {cycle v : Nat} (hc : c.Wf) : (c.wakeCaravan cycle v).Wf := by
  grind [Chip.wakeCaravan, Chip.enqueue_wf, Chip.onCaravan_homes]

theorem Chip.writeVa_wf {u : Nat} {d : Drover} (va fuel : Nat) (bs : List Byte) (hc : c.Wf) :
    (c.writeVa u d va fuel bs).1.Wf := by
  induction fuel generalizing c va bs with
  | zero => exact hc
  | succ fuel ih => grind [Chip.writeVa, Chip.writePiece_wf, Got.Wf]

theorem Chip.writeBlock_wf {u : Nat} {d : Drover} {va : Nat} {bs : List Byte} (hc : c.Wf) : (c.writeBlock u d va bs).1.Wf :=
  Chip.writeVa_wf _ _ _ hc

theorem Chip.syncImage_wf {u : Nat} (hc : c.Wf) : (c.syncImage u).Wf := by
  grind [Chip.syncImage, Chip.onTask_homes, Chip.writeBlock_wf]

theorem Chip.resumeTask_wf {cycle u : Nat} {r : Record} {pc : Word} (hc : c.Wf) : (c.resumeTask cycle u r pc).Wf := by
  grind [Chip.resumeTask, Chip.onEngines_homes, Chip.setDrover, Chip.wakeCaravan_wf, Chip.syncImage_wf]

theorem Chip.watchDone_wf {cycle v i : Nat} {k : SMap Nat} (hc : c.Wf) : (c.watchDone cycle v i k).Wf := by
  unfold Chip.watchDone
  split
  · exact hc
  · next x _ =>
    have hacq : (x.members.foldl (fun (c : Chip) u => c.onDrover u fun d => d.acquire u k) c).homes = c.homes :=
      foldl_homes _ fun _ _ => Chip.onDrover_homes ..
    grind [Chip.onDrover_homes, Chip.onCaravan_homes, Chip.enqueue_wf]

theorem Chip.completeDefer_wf {cycle : Nat} {r : Record} (hc : c.Wf) : (c.completeDefer cycle r).Wf := by
  unfold Chip.completeDefer
  split
  · exact Chip.watchDone_wf hc
  · split
    · split
      · exact hc
      · split
        · exact hc
        · grind [Chip.setDrover]
    · exact hc

theorem Chip.retrySave_wf {r : Record} (hc : c.Wf) : (c.retrySave r).Wf := by
  grind [Chip.retrySave, Chip.onSched_homes]

theorem Chip.endRecord_wf {cycle : Nat} {r : Record} {pc : Word} (hc : c.Wf) : (c.endRecord cycle r pc).Wf := by
  grind [Chip.endRecord, Chip.resumeTask_wf, Chip.completeDefer_wf, Chip.retrySave_wf, Chip.onExp_homes]

theorem Chip.redeliver_wf {r : Record} (hc : c.Wf) : (c.redeliver r).Wf := by
  grind [Chip.redeliver, Chip.deliverRecord_wf]

theorem Chip.emptySteward_wf {k : Nat} (hc : c.Wf) : (c.emptySteward k).Wf := foldl_wf _ (fun _ _ => Chip.redeliver_wf) hc

theorem Chip.farPiece_wf {agent : Nat} {l : Leaf} {pa n va : Nat} (hc : c.Wf) : (c.farPiece agent l pa n va).Wf := by
  grind [Chip.farPiece, Chip.request_homes, Got.Wf]

theorem Chip.readPiece_wf {agent u : Nat} {d : Drover} {va n : Nat} {pins : List Leaf} (hc : c.Wf) :
    (c.readPiece agent u d va n pins).Wf := by
  refine Got.bind_wf (Chip.engineLeaf_wf hc) fun l c hc => ?_
  grind [Chip.farPiece_wf, Got.Wf]

theorem Chip.readVa_wf {agent u : Nat} {d : Drover} (va fuel n : Nat) (hc : c.Wf) : (c.readVa agent u d va fuel n).Wf := by
  induction fuel generalizing c va n with
  | zero => exact hc
  | succ fuel ih =>
    unfold Chip.readVa
    dsimp only
    have hread := Chip.readPiece_wf (agent := agent) (u := u) (d := d) (va := va) (n := min n (64 - va % 64)) (pins := []) hc
    split
    · exact hc
    · split
      · trivial
      · next e => exact Got.bind_wf (ih _ _ (hread.of_ok e)) fun _ _ h => h
      · next e =>
        have hrest := ih (va + min n (64 - va % 64)) (n - min n (64 - va % 64)) (hread.of_wait e)
        split
        · trivial
        · next e => exact hrest.of_ok e
        · next e => exact hrest.of_wait e

theorem Chip.readBlock_wf {agent u : Nat} {d : Drover} {va n : Nat} (hc : c.Wf) : (c.readBlock agent u d va n).Wf :=
  Chip.readVa_wf _ _ _ hc

/-! ### Streams, copies and pages as commands open them -/

theorem Chip.openStream_wf {n u : Nat} {d : Drover} {p : Nat} {mode : Word} {v : BitVec 1024} (hc : c.Wf) :
    (c.openStream n u d p mode v).2.Wf := by
  grind [Chip.openStream, Chip.onSerai_homes, Chip.dropFar_homes]

theorem SideList.prep_wf {s : SideList} {f : List Nat → Chip → Prep} (hs : s.Wf) (hf : ∀ l c, c.Wf → (f l c).Wf) :
    (s.prep f).Wf := by
  unfold SideList.prep
  split
  · exact hf _ _ hs
  · exact hs
  all_goals trivial

theorem Chip.endLeaf_wf {m : MemEnd} {va : Nat} {n : Need} (hc : c.Wf) : (c.endLeaf m va n).Wf := by
  grind [Chip.endLeaf, Chip.engineLeaf_wf, Got.Wf, EndRes.Wf]

theorem Chip.remoteKeep_wf {die pa : Nat} (hc : c.Wf) : (c.remoteKeep die pa).Wf := by
  grind [Chip.remoteKeep, Chip.onHomes, Chip.takeFree_homes]

theorem Chip.chunkRead_wf {die : Nat} {l : Leaf} {pa : Nat} (hc : c.Wf) : (c.chunkRead die l pa).2.Wf := by
  grind [Chip.chunkRead, Chip.remoteKeep_wf]

@[simp] theorem Homes.record_mem {h : Homes} {clk : SMap Nat} {me cls : Nat} {rel : Bool} {pa n : Nat} {isWrite : Bool} :
    (h.record clk me cls rel pa n isWrite).mem = h.mem :=
  List.foldlRecOn _ _ (motive := fun h' : Homes => h'.mem = h.mem) rfl fun _ h _ _ => h

theorem Chip.endNote_wf {m : MemEnd} {l : Leaf} {pa n : Nat} {wr : Bool} (hc : c.Wf) : (c.endNote m l pa n wr).Wf := by
  grind [Chip.endNote, Chip.onHomes, Homes.record_mem]

theorem Chip.endChunk_wf {m : MemEnd} {k : Nat} (hc : c.Wf) : (c.endChunk m k).Wf := by
  grind [Chip.endChunk, Chip.endLeaf_wf, Chip.farPiece_wf, Chip.dropLine_homes, Chip.chunkRead_wf, Chip.endNote_wf, Got.Wf,
    EndRes.Wf]

theorem Chip.sideEntry_wf {m : MemEnd} {va : Nat} (hc : c.Wf) : (c.sideEntry m va).Wf := by
  grind [Chip.sideEntry, Chip.endChunk_wf, EndRes.Wf, SideRes.Wf]

theorem Chip.sideAll_wf {m : MemEnd} (va n : Nat) (l : List Nat) (hc : c.Wf) : (c.sideAll m va n l).Wf := by
  induction n generalizing c va l with
  | zero => exact hc
  | succ n ih => grind [Chip.sideAll, Chip.sideEntry_wf, SideRes.Wf, SideList.Wf]

theorem Chip.pinAll_wf {u : Nat} {d : Drover} {n : Need} (vas : List Nat) (l : List Leaf) (hc : c.Wf) :
    (c.pinAll u d n vas l).Wf := by
  induction vas generalizing l with
  | nil => trivial
  | cons va r ih => grind [Chip.pinAll, Chip.engineLeaf_wf, Got.Wf, Pins.Wf]

theorem Chip.prepare_wf {u : Nat} {d : Drover} {m : MemEnd} {ds : Desc} {wr : Bool} (hc : c.Wf) :
    (c.prepare u d m ds wr).Wf := by
  unfold Chip.prepare
  split
  · exact hc
  · refine SideList.prep_wf (Chip.sideAll_wf _ _ _ hc) fun offs c hc =>
      SideList.prep_wf (Chip.sideAll_wf _ _ _ hc) fun list c hc => ?_
    have hpin := @Chip.pinAll_wf c u d (if wr then .write else .read)
    grind [Pins.Wf, Prep.Wf]

theorem Chip.acceptCopy_wf {n u : Nat} {d : Drover} {b : List Byte} {off : Word} {scope rd : Nat} {cmd : Option Nat}
    (hc : c.Wf) : (c.acceptCopy n u d b off scope rd cmd).Wf := by
  unfold Chip.acceptCopy
  grind [Chip.onSerai_homes, Chip.streamRace_homes, Chip.prepare_wf, Chip.readBlock_wf, CopyRes.Wf, Prep.Wf, Got.Wf]

theorem Chip.rememberTemplate_wf {n va : Nat} {b : List Byte} (hc : c.Wf) : (c.rememberTemplate n va b).Wf := by
  grind [Chip.rememberTemplate, Chip.onSerai_homes, Chip.takeFree_homes]

theorem Chip.castAll_wf {q cycle : Nat} {img : List Byte} {deltas : List Nat} (ms : List (Nat × Nat)) (m k : Nat) (hc : c.Wf) :
    (c.castAll q cycle img deltas ms m k).1.Wf := by
  induction ms generalizing c m k with
  | nil => exact hc
  | cons x r ih => grind [Chip.castAll, Chip.setSerai_homes]

theorem Chip.unbind_wf {src : Ep} (hc : c.Wf) : (c.unbind src).Wf := by
  grind [Chip.unbind]

theorem Chip.bindPair_wf {u : Nat} {src snk : Word} (hc : c.Wf) : (c.bindPair u src snk).2.Wf := by
  grind [Chip.bindPair, Chip.unbind_wf]

theorem Chip.dropPage_wf {n u pg : Nat} (hc : c.Wf) : (c.dropPage n u pg).Wf := by
  grind [Chip.dropPage, Chip.onSerai_homes]

theorem TileRead.fetch_wf {m : MemEnd} (ks : List Nat) {s : TileRead} (hs : s.Wf) : (TileRead.fetch m ks s).Wf := by
  induction ks generalizing s with
  | nil => exact hs
  | cons k r ih => grind [TileRead.fetch, Chip.endChunk_wf, EndRes.Wf]

theorem TileRead.run_wf {m : MemEnd} {ds : Desc} (es : List (Nat × Nat × Option Int)) {s : TileRead} (hs : s.Wf) :
    (TileRead.run m ds es s).Wf := by
  induction es generalizing s with
  | nil => exact hs
  | cons e r ih =>
    obtain ⟨k, j, _ | p⟩ := e
    · exact ih hs
    · have hfetch := TileRead.fetch_wf (m := m) (ds.needs p) (s := { s with got := turnTo s.got (ds.needs p) }) hs
      unfold TileRead.run
      dsimp only
      split
      · exact hfetch
      · split
        · exact ih hfetch
        · exact hfetch

/-! ### Caravans: watches, launches and their end -/

theorem Chip.freeBytes_wf {n : Nat} (hc : c.Wf) : (c.freeBytes n).2.Wf := by
  grind [Chip.freeBytes]

theorem Chip.watchList_wf {u : Nat} {d : Drover} {b : List Byte} (is : List Nat) (m : SMap Nat) (hc : c.Wf) :
    (c.watchList u d b is m).Wf := by
  induction is generalizing m with
  | nil => trivial
  | cons i r ih => grind [Chip.watchList, Chip.engineLeaf_wf, Got.Wf, Watches.Wf]

theorem Chip.newCaravan_homes {cycle : Nat} {l : Launching} {watches : SMap Nat} {place : Place} :
    (c.newCaravan cycle l watches place).1.homes = c.homes := by
  unfold Chip.newCaravan
  exact foldl_homes _ fun _ _ => rfl

theorem Chip.cancelWaiters_wf {u : Nat} (hc : c.Wf) : (c.cancelWaiters u).Wf := by
  grind [Chip.cancelWaiters, Chip.onHomes]

theorem Chip.watchToSteward_wf {cv i : Nat} {v : Caravan} {w : Nat} (hc : c.Wf) : (c.watchToSteward cv i v w).Wf := by
  grind [Chip.watchToSteward, Chip.raiseRecord_wf]

theorem Chip.registerWatch_wf {cycle cv i : Nat} (hc : c.Wf) : (c.registerWatch cycle cv i).Wf := by
  grind [Chip.registerWatch, Chip.request_homes, Chip.watchDone_wf, Chip.onHomes, Chip.watchToSteward_wf]

theorem Chip.freeSlot_wf {u slot : Nat} (hc : c.Wf) : (c.freeSlot u slot).Wf := by
  grind [Chip.freeSlot, Chip.writeBlock_wf]

theorem Chip.logUnread_wf {u : Nat} {d : Drover} (hc : c.Wf) : (c.logUnread u d).Wf :=
  foldl_wf _ (fun _ _ => Chip.logLate_wf) hc

theorem Chip.killMember_wf {u : Nat} (hc : c.Wf) : (c.killMember u).Wf := by
  grind [Chip.killMember, Chip.freeSlot_wf, Chip.onTask_homes, Chip.setDrover, Chip.dropFeeds_homes, Chip.cancelWaiters_wf,
    Chip.logUnread_wf, Chip.onSched_homes, Chip.setSerai_homes]

theorem Chip.killCaravan_wf {cv : Nat} (hc : c.Wf) : (c.killCaravan cv).Wf := by
  have htold (v : Caravan) : (match v.place with
      | .module dev => c.tellFate dev 22 cv
      | _ => c).Wf := by
    split
    · rwa [Chip.Wf, Chip.tellFate_homes]
    · exact hc
  have hdead (l : List Nat) (c : Chip) : (l.foldl (fun (c : Chip) n => (c.setSerai n Serai.reset).onSched fun s =>
      { s with dead := insertNat s.dead n, lastExp := del s.lastExp n }) c).homes = c.homes := foldl_homes _ fun _ _ => rfl
  unfold Chip.killCaravan
  split
  · exact hc
  · next v _ =>
    dsimp only
    rw [Chip.Wf, Chip.caravanGone_homes, hdead]
    exact foldl_wf v.members (fun c u (h : c.Wf) => Chip.killMember_wf h) (htold v)

theorem Chip.addWork_wf {w : XWork} (hc : c.Wf) : (c.addWork w).Wf := by
  grind [Chip.addWork, Chip.onXde_homes]

/-! ### Accesses at their home -/

theorem Homes.perform_wf {h : Homes} {t : AccKind} {pa size : Nat} {data data2 : Word} (k : h.Wf) :
    (h.perform t pa size data data2).homes.Wf := by
  have hrmw (n : Nat) (f : Nat → Nat) : (h.performRmw pa n f).homes.Wf := by
    grind [Homes.performRmw, Homes.writeNum_wf, Homes.dropCopies_mem]
  have hwrite : (h.storeBytes pa (leBytes data.toNat size)).Wf := Homes.storeBytes_wf k
  cases t <;> grind [Homes.perform, Homes.performRead, Homes.performWrite, Homes.setTag_mem]

@[simp] theorem Homes.releaseOn_mem {h : Homes} {pa n : Nat} {r : Release} : (h.releaseOn pa n r).mem = h.mem := rfl

theorem Chip.release_wf {u : Nat} {d : Drover} {a : Access} (hc : c.Wf) : (c.release u d a).Wf := by
  grind [Chip.release, Chip.onHomes, Homes.releaseOn_mem]

theorem Chip.logWrite_wf {u : Nat} {d : Drover} {a : Access} (hc : c.Wf) : (c.logWrite u d a).Wf := by
  grind [Chip.logWrite, Chip.logFault_wf]

theorem Chip.performAcc_wf {u : Nat} {d : Drover} {a : Access} (hc : c.Wf) : (c.performAcc u d a).Wf := by
  grind [Chip.performAcc, Homes.perform_wf, Chip.release_wf, Chip.setDrover, Chip.logWrite_wf, Chip.dropJoined_homes]

theorem Chip.raceCheck_wf {u : Nat} {d : Drover} {a : Access} (hc : c.Wf) : (c.raceCheck u d a).2.Wf := by
  unfold Chip.raceCheck
  split
  · exact hc
  · dsimp only
    split
    · exact hc
    · split
      · exact hc
      · exact (congrArg Memory.wf Homes.record_mem).trans hc

theorem Chip.performNoted_wf {u : Nat} {d : Drover} {a : Access} (hc : c.Wf) : (c.performNoted u d a).Wf := by
  grind [Chip.performNoted, Chip.performAcc_wf, Chip.raceCheck_wf]

theorem Chip.serveOne_wf {cycle : Nat} {w : Waiter} (hc : c.Wf) : (c.serveOne cycle w).Wf := by
  have htaken : (c.onHomes fun h => { h with waiters := h.waiters.erase w }).Wf := hc
  unfold Chip.serveOne
  cases w with
  | access _ _ u q => grind [Chip.performNoted_wf]
  | watch _ pa v i => exact Chip.watchDone_wf htaken
  | push _ _ _ => exact htaken
  | remote _ src tag k pa size data =>
    dsimp only
    rw [Chip.Wf, Chip.answerRemote_homes]
    exact Homes.perform_wf htaken

theorem Chip.serveWord_wf {cycle key : Nat} (fuel : Nat) (hc : c.Wf) : (c.serveWord cycle key fuel).Wf := by
  induction fuel generalizing c with
  | zero => exact hc
  | succ fuel ih => grind [Chip.serveWord, Chip.serveOne_wf]

theorem Chip.serve_wf {cycle pa : Nat} (hc : c.Wf) : (c.serve cycle pa).Wf := by
  grind [Chip.serve, Chip.serveWord_wf]

theorem Chip.writeDone_wf {cycle exp u a : Nat} {w : Word} {clk : SMap Nat} (hc : c.Wf) :
    (c.writeDone cycle exp u a w clk).Wf := by
  grind [Chip.writeDone, Chip.request_homes, Chip.serve_wf, Homes.releaseOn_mem, Homes.perform_wf]

theorem Chip.failAccessAs_wf {u q cause : Nat} (hc : c.Wf) : (c.failAccessAs u q cause).Wf := by
  grind [Chip.failAccessAs, Chip.setDrover, Chip.logWrite_wf]

theorem Chip.failAccess_wf {u q : Nat} (hc : c.Wf) : (c.failAccess u q).Wf := by
  grind [Chip.failAccess, Chip.failAccessAs_wf]

theorem Chip.sendAccess_wf {u : Nat} {d : Drover} {a : Access} (hc : c.Wf) : (c.sendAccess u d a).Wf := by
  grind [Chip.sendAccess, Chip.request_homes, Chip.failAccess_wf, Chip.setDrover]

theorem Chip.takeRace_wf {u : Nat} {d : Drover} {a : Access} {r : Race} (hc : c.Wf) : (c.takeRace u d a r).Wf := by
  grind [Chip.takeRace, Chip.setDrover]

theorem Chip.noteJoined_wf {u q : Nat} (hc : c.Wf) : (c.noteJoined u q).Wf :=
  foldl_wf _ (fun _ _ h => foldl_wf _ (fun _ _ => Chip.raceCheck_wf) h) hc

theorem Chip.spillFull_wf {e slice : Nat} (hc : c.Wf) : (c.spillFull e slice).Wf := by
  grind [Chip.spillFull, Chip.raiseRecord_wf, Chip.onExp_homes]

theorem Chip.continuation_wf {k : AccKind} {exp pa : Nat} {b new : Word} {l : Launch} (hc : c.Wf) :
    (c.continuation k exp pa b new l).1.Wf := by
  grind [Chip.continuation, Chip.spillFull_wf, Chip.onHomes, Homes.writeNum_wf, Homes.dropCopies_mem, Chip.onExp_homes,
    Chip.writeSpill_wf]

theorem Chip.noteCont_wf {u : Nat} {d : Drover} {a : Access} (hc : c.Wf) : (c.noteCont u d a).1.Wf := by
  grind [Chip.noteCont, Chip.onHomes, Homes.record_mem]

theorem Chip.exhausted_wf {u : Nat} {d : Drover} {a : Access} (hc : c.Wf) : (c.exhausted u d a).Wf := by
  grind [Chip.exhausted, Chip.setDrover, Chip.raiseRecord_wf]

theorem Chip.fullEmpty_wf {cycle u : Nat} {d : Drover} {a : Access} (hc : c.Wf) : (c.fullEmpty cycle u d a).Wf := by
  grind [Chip.fullEmpty, Chip.serve_wf, Chip.performNoted_wf, Chip.setDrover, Chip.onHomes, Chip.exhausted_wf]

/-! ### What a performed access reaches -/

theorem Chip.reached_wf {cycle u what : Nat} {token : Bool} (hc : c.Wf) : (c.reached cycle u what token).Wf := by
  grind [Chip.reached, Chip.syncImage_wf, Chip.wakeCaravan_wf]

theorem Chip.walkLost_wf {u : Nat} {d : Drover} {va : BitVec 64} (hc : c.Wf) : (c.walkLost u d va).Wf := by
  grind [Chip.walkLost, Chip.setDrover]

theorem Chip.walkFound_wf {u : Nat} {d : Drover} {va : Nat} {l : Leaf} (hc : c.Wf) : (c.walkFound u d va l).Wf := by
  grind [Chip.walkFound, Chip.keepLeaf_homes, Chip.takeFree_homes, Chip.setDrover]

theorem Chip.logEntry_wf {u : Nat} {d : Drover} {a : Nat} (hc : c.Wf) : (c.logEntry u d a).Wf := by
  grind [Chip.logEntry, Chip.logFault_wf]

theorem Chip.mapWrite_wf {cycle m k : Nat} {v : Word} {clk : SMap Nat} (hc : c.Wf) : (c.mapWrite cycle m k v clk).Wf := by
  unfold Chip.mapWrite
  split
  · exact hc
  · exact Chip.reached_wf (foldl_wf _ (fun _ _ => Chip.logLate_wf) hc)

theorem Chip.dropPush_wf {u q : Nat} {d : Drover} (hc : c.Wf) : (c.dropPush u q d).Wf := by
  grind [Chip.dropPush, Chip.onHomes, Chip.setDrover]

theorem Chip.acceptInval_wf {u : Nat} {d : Drover} {a : Access} {kind : Nat} (hc : c.Wf) : (c.acceptInval u d a kind).Wf := by
  grind [Chip.acceptInval, Chip.onHomes, Chip.dropLeaves_homes, Chip.setDrover]

/-! ### Groups and collectives -/

theorem Chip.groupDone_wf {g : Nat} {w : PhaseWait} {v : Word} {rels : List Release} (hc : c.Wf) :
    (c.groupDone g w v rels).Wf := by
  grind [Chip.groupDone, Chip.onDrover_homes]

theorem Chip.arriveFreed_wf {u g : Nat} (hc : c.Wf) : (c.arriveFreed u g).Wf := by
  grind [Chip.arriveFreed, Chip.groupDone_wf, Chip.onDrover_homes]

theorem Chip.deliver_wf {g : Nat} {gr : Group} {w : Word} (hc : c.Wf) : (c.deliver g gr w).Wf := by
  refine foldl_wf _ (fun c a h => ?_) hc
  grind [Chip.onDrover_homes, Chip.groupDone_wf]

theorem Chip.completePhase_wf {e g : Nat} {gr : Group} (hc : c.Wf) : (c.completePhase e g gr).Wf := by
  grind [Chip.completePhase, Chip.deliver_wf, Chip.setGroup_homes]

theorem Chip.evalPhase_wf {e g : Nat} (hc : c.Wf) : (c.evalPhase e g).Wf := by
  grind [Chip.evalPhase, Chip.completePhase_wf]

theorem Chip.collAnswer_wf {e g : Nat} {gr : Group} {w : Group → Word} (hc : c.Wf) : (c.collAnswer e g gr w).Wf :=
  Chip.completePhase_wf (foldl_wf _ (fun _ _ h => by rwa [Chip.Wf, Chip.onDrover_homes]) hc)

theorem Chip.collOrder_wf {l : List Contribution} (hc : c.Wf) : (c.collOrder l).Wf := by
  grind [Chip.collOrder, Chip.onHomes]

theorem Chip.collEnd_wf {e g : Nat} {gr : Group} {l : List Contribution} (hc : c.Wf) : (c.collEnd e g gr l).Wf :=
  Chip.collAnswer_wf (foldl_wf _ (fun _ _ h => by rwa [Chip.Wf, Chip.onDrover_homes]) (Chip.collOrder_wf hc))

theorem Chip.collRead_wf (l : List Contribution) (hc : c.Wf) : (c.collRead l).Wf := by
  induction l generalizing c with
  | nil => exact hc
  | cons x l ih =>
    unfold Chip.collRead
    split
    · trivial
    · exact Got.bind_wf (Chip.readBlock_wf hc) fun b c hc => Got.bind_wf (ih hc) fun _ _ h => h

/-! ### Porters and copy channels -/

theorem Chip.porterFault_homes {n u p : Nat} {q : Porter} {m : MemEnd} {w : Walk} {cause : Nat} {r : Option (Race × Nat)} :
    (c.porterFault n u p q m w cause r).homes = c.homes := by
  cases r with
  | none => exact (Chip.onSerai_homes ..).trans (c.sinkPoison_homes ..)
  | some x => exact (Chip.onSerai_homes ..).trans (c.streamRace_homes ..)

theorem Chip.sideFault_homes {n u p : Nat} {q : Porter} {m : MemEnd} {cause : Nat} {r : Option (Race × Nat)} :
    (c.sideFault n u p q m cause r).homes = c.homes := by
  unfold Chip.sideFault
  split
  · exact Chip.porterFault_homes
  · cases r with
    | none => exact Chip.onSerai_homes ..
    | some x => exact (Chip.onSerai_homes ..).trans (c.streamRace_homes ..)

theorem Walk.readAhead_wf {w : Walk} {m : MemEnd} {d : Desc} {n : Nat} (hc : c.Wf) : (w.readAhead c m d n).1.Wf := by
  grind [Walk.readAhead, Chip.endChunk_wf, EndRes.Wf]

theorem Pull.emit_c {s : Pull} {d : Desc} : (s.emit d).c = s.c := rfl

theorem Pull.element_c {s : Pull} {m : MemEnd} {d : Desc} {x : Where} : (s.element m d x).c = s.c := by
  unfold Pull.element
  dsimp only
  split
  · rfl
  · split <;> rfl

theorem Pull.fail_c {s : Pull} {m : MemEnd} {d : Desc} {cause : Nat} {r : Option (Race × Nat)} : (s.fail m d cause r).c = s.c :=
  rfl

theorem Pull.run_wf {m : MemEnd} {d : Desc} (f : Nat) (read : Bool) {s : Pull} (hs : s.Wf) : (Pull.run m d f read s).Wf := by
  induction f generalizing read s with
  | zero => exact hs
  | succ f ih => grind [Pull.run, Pull.emit_c, Pull.fail_c, Pull.element_c, Chip.endChunk_wf, EndRes.Wf]

theorem Homes.storeChunk_wf {h : Homes} {x : Chunk} (k : h.Wf) : (h.storeChunk x).Wf := by
  have hbad (l : List Nat) (h : Homes) : (l.foldl (fun h i => h.setBad (x.pa + 8 * i) false) h).mem = h.mem :=
    foldl_mem _ fun _ _ => rfl
  have hrel (l : List (Byte × Nat)) (h : Homes) : (l.foldl (fun h b => h.unrelease (x.pa + b.2) 1) h).mem = h.mem :=
    foldl_mem _ fun _ _ => rfl
  unfold Homes.storeChunk
  rw [Homes.Wf, hrel, hbad]
  exact Memory.write_wf _ _ k

theorem Chip.doChunk_wf {cycle : Nat} {m : MemEnd} {k : Chunk} (hc : c.Wf) : (c.doChunk cycle m k).Wf := by
  have hnote := Chip.endNote_wf (m := m) (l := k.leaf) (pa := k.pa) (n := 64) (wr := true) hc
  have hstore : (((c.endNote m k.leaf k.pa 64 true).onHomes fun h => h.storeChunk k)).Wf := Homes.storeChunk_wf hnote
  unfold Chip.doChunk
  dsimp only
  split
  · exact foldl_wf _ (fun _ _ h => Chip.serve_wf h) hstore
  · exact hstore

theorem Chip.performChunk_wf {cycle : Nat} {m : MemEnd} {k : Chunk} (hc : c.Wf) : (c.performChunk cycle m k).1.Wf := by
  have hdo (m : MemEnd) : (c.doChunk cycle m k).Wf := Chip.doChunk_wf hc
  unfold Chip.performChunk
  dsimp only
  split
  · exact hc
  · split
    · split
      · exact hc
      · split
        · exact hc
        · exact hdo _
    · exact hdo _

theorem Chip.addRuns_wf {m : MemEnd} (f : Nat) (rs : List ByteRun) (h : Option Leaf) (ks : List Chunk) (hc : c.Wf) :
    (c.addRuns m f rs h ks).1.Wf := by
  induction f generalizing c rs h ks with
  | zero => exact hc
  | succ f ih =>
    cases rs with
    | nil => exact hc
    | cons r rest => grind [Chip.addRuns, Chip.endLeaf_wf, EndRes.Wf]

theorem Chip.consume_wf {n u p : Nat} {d : Drover} {q : Porter} {t : Token} (hc : c.Wf) : (c.consume n u p d q t).Wf := by
  grind [Chip.consume, Chip.onSerai_homes, Chip.sinkPoison_homes, Chip.addRuns_wf, Chip.porterFault_homes, EndRes.Wf]

theorem Chip.copyTake_homes {j : CopyJob} {x : Token} (e : c.copyTake j = some (x, c')) : c'.homes = c.homes := by
  unfold Chip.copyTake at e
  grind [Chip.onSerai_homes, Option.bind_eq_some_iff]

theorem Chip.copyConsume_wf {c0 : Chip} {n u ch : Nat} {j : CopyJob} {m : MemEnd} {t : Token} (k : c0.Wf) (hc : c.Wf) :
    (c0.copyConsume c n u ch j m t).Wf := by
  grind [Chip.copyConsume, Chip.setJob_homes, Chip.sinkPoison_homes, Chip.addRuns_wf, EndRes.Wf]

theorem Chip.accept_wf {cycle : Nat} {p : Ep} {t : Token} (hc : c.Wf) (e : c.accept cycle p t = some c') : c'.Wf := by
  unfold Chip.accept at e
  grind [Chip.onDrover_homes, Chip.onSerai_homes, Chip.reached_wf, Chip.sinkPoison_homes, Option.bind_eq_some_iff,
    Option.map_eq_some_iff]

theorem Chip.copyDeliver_wf {cycle n ch : Nat} {j : CopyJob} (hc : c.Wf) (e : c.copyDeliver cycle n ch j = some c') :
    c'.Wf := by
  grind [Chip.copyDeliver, Chip.setJob_homes, Chip.accept_wf, Option.map_eq_some_iff]

theorem Chip.copyPulled_wf {n u ch : Nat} {j : CopyJob} {m : MemEnd} {s : Pull} (hc : c.Wf) :
    (c.copyPulled n u ch j m s).Wf := by
  grind [Chip.copyPulled, Chip.setJob_homes, Chip.streamRace_homes]

theorem Chip.sendBlocks_homes {dev : Nat} {who : Nat → RemoteReq} (bs : List (Nat × Nat × List Byte)) (tags : List Nat)
    {x : List Nat} (e : c.sendBlocks dev who bs tags = some (x, c')) : c'.homes = c.homes := by
  induction bs generalizing c tags with
  | nil => grind [Chip.sendBlocks]
  | cons p r ih => grind [Chip.sendBlocks, Chip.queuePacket_homes]

/-! ### Cells and banks -/

theorem Chip.countCim_wf {cycle n q i len : Nat} (hc : c.Wf) : (c.countCim cycle n q i len).Wf := by
  grind [Chip.countCim]

theorem Chip.cimStep_wf {cycle : Nat} {st : Seat} {x : Cell} {f : Chip → Chip} (hc : c.Wf)
    (hf : ∀ c : Chip, c.Wf → (f c).Wf) : (c.cimStep cycle st x f).Wf := by
  grind [Chip.cimStep, Chip.countCim_wf]

theorem Chip.bankWrites_wf {cycle n cell : Nat} {writes : List (Nat × List Byte)} {tags : List (Nat × Bool)} (hc : c.Wf) :
    (c.bankWrites cycle n cell writes tags).Wf :=
  foldl_wf _ (fun _ _ h => Chip.serve_wf h) (foldl_wf _ (fun _ _ h => Homes.writeLong_wf _ _ _ h) hc)

theorem Chip.fire_wf {cycle : Nat} {st : Seat} {g : Page} {f : Fire} {pos : BitVec 24} (hc : c.Wf) :
    (c.fire cycle st g f pos).Wf := by
  grind [Chip.fire, Chip.bankWrites_wf, Chip.setPage_homes]

theorem Chip.sideStep_wf {cycle : Nat} {st : Seat} {g : Page} {sel : Nat} {t : Token} {f : Fire} (hc : c.Wf) :
    (c.sideStep cycle st g sel t f).Wf := by
  grind [Chip.sideStep, Chip.cimStep_wf, Chip.fire_wf]

theorem Chip.rowOp_wf {cycle : Nat} {st : Seat} {q d : Token} (hc : c.Wf) : (c.rowOp cycle st q d).Wf := by
  unfold Chip.rowOp
  dsimp only
  split
  · exact hc
  · split
    · split <;> exact hc
    · split
      · exact hc
      · exact Chip.bankWrites_wf (foldl_wf _ (fun _ _ => Chip.bankWrites_wf) hc)

theorem Chip.gatherOp_wf {cycle u : Nat} {st : Seat} {a d : Token} (hc : c.Wf) : (c.gatherOp cycle u st a d).Wf := by
  unfold Chip.gatherOp
  dsimp only
  split
  · exact hc
  · split
    · trivial
    · split
      · split
        · exact hc
        · refine foldl_wf _ (fun c x h => ?_) hc
          split
          · exact h
          · exact Chip.bankWrites_wf h
      · split
        · exact hc
        · split <;> exact hc

theorem Chip.deadAccess_wf {u : Nat} {d : Drover} {a : Access} (hc : c.Wf) : (c.deadAccess u d a).Wf := by
  grind [Chip.deadAccess, Chip.setDrover]

theorem Chip.residentAccess_wf {cycle u : Nat} {d : Drover} {a : Access} (hc : c.Wf) : (c.residentAccess cycle u d a).Wf := by
  grind [Chip.residentAccess, Chip.setDrover, Chip.fullEmpty_wf]

theorem Chip.bankAccess_wf {cycle u : Nat} {d : Drover} {a : Access} {stateWord : Window → Nat → Word} (hc : c.Wf) :
    (c.bankAccess cycle u d a stateWord).Wf := by
  grind [Chip.bankAccess, Chip.deadAccess_wf, Chip.residentAccess_wf, Chip.fullEmpty_wf, Chip.raceCheck_wf, Chip.takeRace_wf,
    Chip.performAcc_wf, Chip.setDrover]

/-! ### Sequencer contexts -/

theorem Chip.ctxStep_wf {n u g : Nat} {o : CtxStep} (hc : c.Wf) : (c.ctxStep n u g o).Wf := by
  grind [Chip.ctxStep, Chip.onSerai_homes, Chip.raiseAsync_homes]

theorem Chip.ctxDeliver_wf {cycle n u g : Nat} {t : Token} (hc : c.Wf) (e : c.ctxDeliver cycle n u g t = some c') : c'.Wf := by
  grind [Chip.ctxDeliver, Chip.accept_wf, Chip.sinkPoison_homes, Chip.onSerai_homes]

theorem Chip.injectFails_wf {n u g : Nat} {a : Fired} (hc : c.Wf) : (c.injectFails n u g a).Wf := by
  grind [Chip.injectFails, Chip.onSerai_homes, Chip.raiseAsync_homes]

/-! ### The scheduler -/

theorem Chip.deliverLaunch_wf {cycle sl ready : Nat} {l : Launch} (hc : c.Wf) : (c.deliverLaunch cycle sl ready l).Wf := by
  grind [Chip.deliverLaunch, Chip.newCaravan_homes, Chip.onCaravan_homes, Chip.enqueue_wf, Chip.logFault_wf]

theorem Chip.refillLaunch_wf {cycle e i : Nat} (hc : c.Wf) : (c.refillLaunch cycle e i).Wf := by
  grind [Chip.refillLaunch, Chip.deliverLaunch_wf, Chip.spillFreed_homes, Chip.onExp_homes]

theorem Chip.teamDead_wf {die cv : Nat} {v : Caravan} (hc : c.Wf) : (c.teamDead die cv v).Wf := by
  grind [Chip.teamDead, Chip.raiseRecord_wf, Chip.logFault_wf, Chip.onBazaar_homes, Chip.killCaravan_wf]

theorem Chip.passOver_homes {die cycle : Nat} {stop : Option Caravan} : (c.passOver die cycle stop).homes = c.homes := by
  refine foldl_homes _ fun c p => ?_
  split <;> rfl

theorem Chip.prepareSerai_wf {e n : Nat} (hc : c.Wf) : (c.prepareSerai e n).Wf := by
  unfold Chip.prepareSerai
  split
  · exact List.foldlRecOn _ _ (motive := Homes.Wf) hc fun _ h _ _ => Homes.freeBank_wf _ _ _ h
  · exact Homes.clearBanks_wf _ hc

theorem Chip.placeMember_wf {cycle e : Nat} {p : Nat × Nat} (hc : c.Wf) : (c.placeMember cycle e p).Wf := by
  grind [Chip.placeMember, Chip.onDrover_homes, Chip.onSched_homes, Chip.prepareSerai_wf]

theorem Chip.refuseSave_wf {cycle cv : Nat} (hc : c.Wf) : (c.refuseSave cycle cv).Wf := by
  unfold Chip.refuseSave
  split
  · exact hc
  · refine foldl_wf _ (fun c u h => ?_) hc
    grind [Chip.freeSlot_wf, Chip.onSched_homes, Chip.onDrover_homes]

theorem Chip.saveRecord_wf {u n slot reason : Nat} (hc : c.Wf) : (c.saveRecord u n slot reason).Wf := by
  grind [Chip.saveRecord, Chip.raiseRecord_wf]

/-! ### Saving and restoring -/

theorem Chip.slotPage_wf {u : Nat} {d : Drover} {va : Nat} {tagged : Bool} (hc : c.Wf) : (c.slotPage u d va tagged).Wf := by
  grind [Chip.slotPage, Chip.engineLeaf_wf, Got.Wf]

theorem Chip.slotWalk_wf {u : Nat} {d : Drover} {va : Nat} {tagged : Bool} (n : Nat) (hc : c.Wf) :
    (c.slotWalk u d va tagged n).Wf := by
  induction n generalizing c with
  | zero => exact hc
  | succ n ih => exact Got.bind_wf (ih hc) fun _ _ h => Got.bind_wf (Chip.slotPage_wf h) fun _ _ h => h

theorem Chip.saveFault_wf {u n slot va : Nat} {full : Bool} (hc : c.Wf) : (c.saveFault u n slot va full).Wf := by
  grind [Chip.saveFault, Chip.saveRecord_wf, Chip.onSched_homes]

theorem Chip.sendTags_homes {u : Nat} {l : Leaf} {src dst : Nat} (n : Nat) : (c.sendTags u l src dst n).homes = c.homes := by
  induction n generalizing c with
  | zero => rfl
  | succ n ih => grind [Chip.sendTags, Chip.request_homes]

theorem Homes.copyTags_mem {h : Homes} {src dst words : Nat} : (h.copyTags src dst words).mem = h.mem :=
  foldl_mem _ fun _ _ => rfl

theorem Chip.writeBanks_wf {u : Nat} {d : Drover} {pins : List Leaf} {n va : Nat} (i : Nat) (hc : c.Wf) :
    (c.writeBanks u d pins n va i).1.Wf := by
  induction i with
  | zero => exact hc
  | succ i ih =>
    unfold Chip.writeBanks
    grind [Chip.storeBlock_wf, Chip.engineLeaf_wf, Chip.sendTags_homes, Homes.copyTags_mem, Chip.onHomes, Got.Wf]

theorem Chip.fenceNext_wf {die : Nat} (hc : c.Wf) : (c.fenceNext die).Wf := by
  grind [Chip.fenceNext, Chip.onSched_homes]

theorem Chip.savedCaravan_wf {cycle cv die : Nat} (hc : c.Wf) : (c.savedCaravan cycle cv die).Wf := by
  unfold Chip.savedCaravan
  split
  · exact hc
  · next v _ =>
    have hleft (live : List Nat) (c : Chip) : (v.members.foldl (fun c u =>
        if live.contains u then c.onDrover u fun d => { d with core := none }
        else (c.onDrover u fun d => { d with core := none }).unbindTask u) c).homes = c.homes := foldl_homes _ fun c u => by
      split
      · exact Chip.onDrover_homes ..
      · exact (Chip.unbindTask_homes ..).trans (Chip.onDrover_homes ..)
    have hdone : c.homes.Wf := hc
    dsimp only
    split
    · exact hc
    · split
      · split
        · exact Chip.enqueue_wf (by simpa only [Chip.Wf, Chip.onSched_homes, Chip.onCaravan_homes, hleft])
        · simpa only [Chip.Wf, Chip.setMembers_homes, Chip.onSched_homes, Chip.onCaravan_homes, hleft]
      · split
        · exact Chip.enqueue_wf (by simpa only [Chip.Wf, Chip.onSched_homes, Chip.onCaravan_homes, hleft])
        · simpa only [Chip.Wf, Chip.setMembers_homes, Chip.onSched_homes, Chip.onCaravan_homes, hleft]
      · exact Chip.enqueue_wf (by simpa only [Chip.Wf, Chip.onSched_homes, Chip.onCaravan_homes, hleft])

theorem Chip.goodImage_wf {u : Nat} (hc : c.Wf) : (c.goodImage u).Wf := by
  grind [Chip.goodImage, Got.bind_wf, Chip.slotWalk_wf, Chip.readBlock_wf, Got.Wf]

theorem Chip.badImage_wf (us : List Nat) (hc : c.Wf) : (c.badImage us).Wf := by
  induction us generalizing c with
  | nil => exact hc
  | cons u r ih => grind [Chip.badImage, Chip.goodImage_wf, Got.Wf]

theorem Chip.refuseRestore_wf {cv die : Nat} {v : Caravan} (hc : c.Wf) : (c.refuseRestore cv die v).Wf := by
  grind [Chip.refuseRestore, Chip.onSched_homes, Chip.setMembers_homes, Chip.onCaravan_homes]

theorem Chip.banksHere_wf {u : Nat} {d : Drover} {va : Nat} (n : Nat) (hc : c.Wf) : (c.banksHere u d va n).Wf := by
  induction n generalizing c with
  | zero => exact hc
  | succ n ih => exact Got.bind_wf (ih hc) fun _ _ h => Got.bind_wf (Chip.readBlock_wf h) fun _ _ h => h

theorem Homes.putTags_mem {h : Homes} {pa : Nat} {tags : BitVec 8} : (h.putTags pa tags).mem = h.mem :=
  foldl_mem _ fun _ _ => rfl

theorem Chip.readBanks_wf {u : Nat} {d : Drover} {n va : Nat} (i : Nat) (hc : c.Wf) : (c.readBanks u d n va i).Wf := by
  induction i with
  | zero => exact hc
  | succ i ih =>
    have hlong (b : Nat) (bs : List Byte) := Homes.writeLong_wf b 2 bs ih
    have hputs (h : Homes) (b : Nat) (f : Nat → BitVec 8) (l : List Nat) :
        (l.foldl (fun h i => h.putTags (b + 64 * i) (f i)) h).mem = h.mem := foldl_mem _ fun _ _ => Homes.putTags_mem
    unfold Chip.readBanks
    dsimp only
    split
    · refine (congrArg Memory.wf ?_).trans (hlong (bankAddr n 0 0 + 4096 * i) ?_)
      split
      · exact hputs ..
      · exact Homes.copyTags_mem
    · exact ih

theorem Chip.flushRecords_wf (hc : c.Wf) : c.flushRecords.Wf := foldl_wf _ (fun _ _ => Chip.deliverRecord_wf) hc

/-! ### Errors, links and the host -/

theorem Chip.toTest_wf {t : TestUnit} (hc : c.Wf) : (c.toTest t).Wf := by
  grind [Chip.toTest]

theorem Homes.setBadTag_wf {h : Homes} {pa : Nat} (k : h.Wf) : (h.setBadTag pa).Wf := by
  grind [Homes.setBadTag]

theorem Chip.controlError_wf {n : Nat} (hc : c.Wf) : (c.controlError n).Wf := by
  grind [Chip.controlError, Chip.logFault_wf, Chip.killCaravan_wf]

theorem Chip.fenced_wf {n : Nat} (hc : c.Wf) : (c.fenced n).Wf := by
  grind [Chip.fenced, Chip.numbered_homes, Chip.onSched_homes, Chip.onHomes, Chip.setSerai_homes, Homes.clearBanks_wf]

theorem Chip.removeLanes_wf {l : Nat} {good : BitVec 16} (hc : c.Wf) : (c.removeLanes l good).Wf := by
  grind [Chip.removeLanes, Chip.onLink_homes, Chip.numbered_homes]

theorem Chip.porterAnswered_wf {u p tag : Nat} {failed : Bool} (hc : c.Wf) : (c.porterAnswered u p tag failed).Wf := by
  grind [Chip.porterAnswered, Chip.onEngines_homes, Chip.porterFault_homes]

theorem Chip.copyAnswered_wf {u ch id tag : Nat} {failed : Bool} (hc : c.Wf) : (c.copyAnswered u ch id tag failed).Wf := by
  grind [Chip.copyAnswered, Chip.onEngines_homes]

theorem Chip.probeAnswered_wf {cv i : Nat} {w : Word} (hc : c.Wf) : (c.probeAnswered cv i w).Wf := by
  grind [Chip.probeAnswered, Chip.onDrover_homes]

theorem Chip.watchRefused_wf {cv i : Nat} (hc : c.Wf) : (c.watchRefused cv i).Wf := by
  grind [Chip.watchRefused, Chip.watchToSteward_wf]

theorem Chip.failRequest_wf {tag : Nat} {r : RemoteReq} (hc : c.Wf) : (c.failRequest tag r).Wf := by
  have hfree : ({ c with requests := del c.requests tag } : Chip).Wf := hc
  unfold Chip.failRequest
  cases r with
  | access u q _ => exact Chip.failAccess_wf hfree
  | porter u p _ => exact Chip.porterAnswered_wf hfree
  | copy u ch id _ => exact Chip.copyAnswered_wf hfree
  | line key _ => exact hc
  | posted _ _ => exact hc
  | watch cv i _ =>
    dsimp only
    split
    · exact Chip.probeAnswered_wf hfree
    · exact Chip.watchRefused_wf hfree

theorem Chip.linkDown_wf {l : Nat} (hc : c.Wf) : (c.linkDown l).Wf := by
  have hdown (f : Link → Link) : (c.onLink l f).Wf := by
    rwa [Chip.Wf, Chip.onLink_homes]
  refine foldl_wf _ (fun c w h => foldl_wf _ (fun c q h => ?_) h) (foldl_wf _ (fun c r h => Chip.failRequest_wf h) (hdown _))
  split
  · rwa [Chip.Wf, Chip.selfAnswer_homes]
  · exact h

theorem Chip.testFailed_wf {t : TestUnit} (hc : c.Wf) : (c.testFailed t).Wf := by
  cases t with
  | serai n => exact Chip.fenced_wf hc
  | lane l k => grind [Chip.testFailed, Chip.removeLanes_wf, Chip.linkDown_wf]
  | _ => exact hc

theorem Chip.signal_wf {i : Nat} (hc : c.Wf) : (c.signal i).Wf := by
  grind [Chip.signal, Chip.onMgmt_homes]

theorem Chip.hostWrite_wf {a : Nat} {bs : List Byte} (hc : c.Wf) : (c.hostWrite a bs).Wf := by
  grind [Chip.hostWrite, Chip.onHomes, Homes.writeLong_wf]

theorem Chip.completion_wf {port : Nat} {key : Word} {expid status entries : Nat} (hc : c.Wf) :
    (c.completion port key expid status entries).Wf := by
  grind [Chip.completion, Chip.signal_wf, Chip.hostWrite_wf]

theorem Chip.countLinkErr_wf {l : Nat} (hc : c.Wf) : (c.countLinkErr l).Wf := by
  grind [Chip.countLinkErr, Chip.numbered_homes, Chip.onMgmt_homes]

theorem Chip.takePacket_wf {l : Nat} {b : List Byte} (hc : c.Wf) : (c.takePacket l b).Wf := by
  grind [Chip.takePacket, Chip.countLinkErr_wf, Chip.onLink_homes]

theorem Chip.acceptFlit_wf {l : Nat} {k : Link} {f : List Byte} (hc : c.Wf) : (c.acceptFlit l k f).Wf := by
  grind [Chip.acceptFlit, Chip.onLink_homes, Chip.takePacket_wf]

theorem Chip.receiveFlit_wf {cycle l : Nat} {f : List Byte} (hc : c.Wf) : (c.receiveFlit cycle l f).Wf := by
  grind [Chip.receiveFlit, Chip.onLink_homes, Chip.countLinkErr_wf, Chip.acceptFlit_wf]

/-! ### Packets of other modules -/

theorem Chip.remoteChunk_wf {cycle : Nat} {tags : Bool} {k : Chunk} (hc : c.Wf) : (c.remoteChunk cycle tags k).Wf := by
  unfold Chip.remoteChunk
  dsimp only
  split
  · exact foldl_wf _ (fun _ _ h => Chip.serve_wf h) (Homes.storeChunk_wf hc)
  · exact Homes.storeChunk_wf hc

theorem Chip.answered_wf {p : Packet} {f : Chip → RemoteReq → Chip} (hf : ∀ c r, c.Wf → (f c r).Wf) (hc : c.Wf) :
    (c.answered p f).Wf := by
  unfold Chip.answered
  split
  · exact hc
  · exact hf _ _ hc

theorem Chip.endedAway_wf {src cv : Nat} (hc : c.Wf) : (c.endedAway src cv).Wf := by
  grind [Chip.endedAway, Chip.caravanGone_homes, Chip.setMembers_homes]

theorem Chip.killedAway_wf {src cv : Nat} (hc : c.Wf) : (c.killedAway src cv).Wf := by
  grind [Chip.killedAway, Chip.killCaravan_wf]

theorem Chip.remoteCont_wf {cycle : Nat} {p : Packet} {k : AccKind} {d1 d2 : Word} (hc : c.Wf) :
    (c.remoteCont cycle p k d1 d2).Wf := by
  grind [Chip.remoteCont, Chip.answerRemote_homes, Chip.continuation_wf]

theorem Chip.launchLost_wf {u : Nat} {d : Drover} {a : Access} {old : Nat} (hc : c.Wf) : (c.launchLost u d a old).Wf := by
  grind [Chip.launchLost, Chip.logFault_wf]

/-! ### Expert dispatch -/

theorem Chip.finishRound_wf {cycle mb : Nat} {r : Round} {w : Word} (hc : c.Wf) : (c.finishRound cycle mb r w).Wf := by
  grind [Chip.finishRound, Chip.onXde_homes, Chip.writeDone_wf]

theorem Chip.dropped16_wf {n : Nat} (hc : c.Wf) : (c.dropped16 n).2.Wf := by
  grind [Chip.dropped16, Chip.takeFree_homes]

theorem Chip.closeRound_wf {cycle mb code : Nat} {r : Round} (hc : c.Wf) : (c.closeRound cycle mb code r).Wf := by
  grind [Chip.closeRound, Chip.dropped16_wf, Chip.finishRound_wf]

theorem Chip.mergeList_wf {cycle : Nat} {l : GateList} {rest : List GateList} (hc : c.Wf) : (c.mergeList cycle l rest).Wf := by
  grind [Chip.mergeList, Chip.onXde_homes, Chip.writeBlock_wf, Chip.closeRound_wf]

theorem Chip.setWork_wf {old new : XWork} (hc : c.Wf) : (c.setWork old new).Wf := by
  grind [Chip.setWork, Chip.onXde_homes]

theorem Chip.descSide_wf {agent u : Nat} {dr : Drover} {d : Desc} {idx : Nat} (hc : c.Wf) :
    (c.descSide agent u dr d idx).Wf := by
  grind [Chip.descSide, Got.bind_wf, Chip.readBlock_wf, Got.Wf]

theorem Chip.readElems_wf {agent u : Nat} {dr : Drover} {d : Desc} {w : Walk} (ks : List Nat) (hc : c.Wf) :
    (c.readElems agent u dr d w ks).Wf := by
  induction ks generalizing c with
  | nil => exact hc
  | cons k r ih =>
    unfold Chip.readElems
    refine Got.bind_wf ?_ fun v c h => Got.bind_wf ?_ fun sc c h => Got.bind_wf (ih h) fun _ _ h => h
    · split
      · exact hc
      · split
        · exact hc
        · exact Got.bind_wf (Chip.readBlock_wf hc) fun _ _ h => h
    · split
      · split
        · exact h
        · split
          · exact h
          · exact Got.bind_wf (Chip.readBlock_wf h) fun _ _ h => h
      · exact h

theorem Chip.readRow_wf {agent u : Nat} {dr : Drover} {d : Desc} {j : Nat} (hc : c.Wf) : (c.readRow agent u dr d j).Wf := by
  grind [Chip.readRow, Got.bind_wf, Chip.descSide_wf, Chip.readElems_wf, Got.Wf]

theorem Chip.sendCopy_wf {old w : XWork} {dr : Drover} {tok rank entry : Nat} (hc : c.Wf) :
    (c.sendCopy old w dr tok rank entry).Wf := by
  have hgot (a n u : Nat) (d : Desc) (x : Nat) (f : List Byte → Nat) : ((c.readBlock x w.owner dr a n).bind fun m c =>
      (c.readRow x w.owner dr d u).bind fun (row, n) c => .ok (f m, row, n) c).Wf :=
    Got.bind_wf (Chip.readBlock_wf hc) fun _ _ h => Got.bind_wf (Chip.readRow_wf h) fun (_, _) _ h => h
  unfold Chip.sendCopy
  dsimp only
  split
  · next e => exact (hgot ..).of_wait e
  · exact hc
  · next e =>
    have h := (hgot ..).of_ok e
    split
    · rw [Chip.Wf, Chip.selfAnswer_homes]
      exact h
    · rw [Chip.Wf, Chip.foldl_ship_homes]
      exact h

theorem Chip.nextCopy_wf {w : XWork} {dr : Drover} (fuel tok rank : Nat) (hc : c.Wf) : (c.nextCopy w dr fuel tok rank).Wf := by
  induction fuel generalizing c tok rank with
  | zero => exact hc
  | succ fuel ih =>
    refine Got.bind_wf (Chip.readBlock_wf hc) fun _ _ h => ?_
    dsimp only
    split
    · exact h
    · exact ih _ _ h

theorem Chip.writeElem_wf {agent u : Nat} {dr : Drover} {fmt base : Nat} {p : Int} {bits : Nat} (hc : c.Wf) :
    (c.writeElem agent u dr fmt base p bits).Wf := by
  grind [Chip.writeElem, Got.bind_wf, Chip.readBlock_wf, Chip.writeBlock_wf, Got.Wf]

theorem Chip.writeElems_wf {agent u : Nat} {dr : Drover} {d : Desc} {w : Walk} {row : List Byte} {n : Nat} (ks : List Nat)
    (hc : c.Wf) : (c.writeElems agent u dr d w row n ks).Wf := by
  induction ks generalizing c with
  | nil => exact hc
  | cons k r ih =>
    refine Got.bind_wf ?_ fun _ _ h => ih h
    split
    · exact hc
    · split
      · exact hc
      · exact Got.bind_wf (Chip.writeElem_wf hc) fun _ c h => by grind [Chip.writeBlock_wf, Got.Wf]

theorem Chip.admitRow_wf {s : Session} {dr : Drover} {row : List Byte} {n1 header expert : Nat} (hc : c.Wf) :
    (c.admitRow s dr row n1 header expert).Wf := by
  grind [Chip.admitRow, Got.bind_wf, Chip.descSide_wf, Chip.writeElems_wf, Chip.writeBlock_wf, Got.Wf]

theorem Chip.setSession_wf {old new : Session} (hc : c.Wf) : (c.setSession old new).Wf := by
  grind [Chip.setSession, Chip.onXde_homes]

theorem Chip.refuseCopy_wf {old w : XWork} {dev tok rank : Nat} {choice reach : Bool} {code : Nat} (hc : c.Wf) :
    (c.refuseCopy old w dev tok rank choice reach code).Wf := by
  grind [Chip.refuseCopy, Chip.readBlock_wf, Chip.setWork_wf, Chip.writeBlock_wf, Chip.dropFar_homes, Got.Wf]

theorem Chip.finishWork_wf {cycle : Nat} {w : XWork} {word : Word} (hc : c.Wf) : (c.finishWork cycle w word).Wf := by
  grind [Chip.finishWork, Chip.setWork_wf, Chip.writeDone_wf, Chip.onXde_homes]

theorem Chip.endWork_wf {cycle : Nat} {w : XWork} {count dropped code : Nat} (hc : c.Wf) :
    (c.endWork cycle w count dropped code).Wf := by
  grind [Chip.endWork, Chip.finishWork_wf]

theorem Chip.finishSession_wf {cycle : Nat} {s : Session} {w : Word} (hc : c.Wf) : (c.finishSession cycle s w).Wf := by
  grind [Chip.finishSession, Chip.setSession_wf, Chip.writeDone_wf, Chip.onXde_homes]

theorem Chip.writeWords_wf {u : Nat} {d : Drover} (va : Nat) (ws : List Nat) (n : Nat) (hc : c.Wf) :
    (c.writeWords u d va ws n).1.Wf := by
  induction ws generalizing c va n with
  | nil => exact hc
  | cons w r ih => grind [Chip.writeWords, Chip.writeBlock_wf]

theorem Chip.endSession_wf {cycle : Nat} {s : Session} (hc : c.Wf) : (c.endSession cycle s).Wf :=
  Chip.finishSession_wf (Chip.writeWords_wf _ _ _ hc)

theorem Chip.sessionStep_wf {cycle : Nat} {s : Session} (hc : c.Wf) : (c.sessionStep cycle s).Wf := by
  grind [Chip.sessionStep, Chip.finishSession_wf, Chip.endSession_wf]

/-! ### Migration -/

theorem Chip.answerMigration_wf {p : Packet} {code : Nat} (hc : c.Wf) : (c.answerMigration p code).Wf := by
  grind [Chip.answerMigration, Chip.send_homes]

theorem Chip.giveSlots_homes {ms : List Nat} {data : List Byte} : (c.giveSlots ms data).homes = c.homes := by
  refine foldl_homes _ fun c p => ?_
  dsimp only
  split <;> rfl

theorem Chip.takeMigrated_wf {cycle : Nat} {p : Packet} (hc : c.Wf) : (c.takeMigrated cycle p).Wf := by
  grind [Chip.takeMigrated, Chip.answerMigration_wf, Chip.newCaravan_homes, Chip.onExp_homes, Chip.onCaravan_homes,
    Chip.giveSlots_homes, Chip.onBazaar_homes, Chip.enqueue_wf]

/-! ### Loading an expedition and the firmware -/

theorem Homes.emptyPage_wf {h : Homes} {pfn : Nat} (k : h.Wf) : (h.emptyPage pfn).Wf := by
  grind [Homes.emptyPage]

theorem Homes.putEntry_wf {h : Homes} {a : Nat} {e : Nat × Nat} (k : h.Wf) : (h.putEntry a e).Wf := by
  grind [Homes.putEntry, Homes.writeNum_wf]

theorem planMapPage_wf {h : Homes} {p : LoadPlan} {vpn : Nat} {w x tagged : Bool} (k : h.Wf)
    (e : planMapPage p h vpn w x tagged = some h') : h'.Wf := by
  grind [planMapPage, Homes.putEntry_wf]

theorem planStore_wf {p : LoadPlan} {h : Homes} (va fuel : Nat) (bs : List Byte) (k : h.Wf) :
    (planStore p h va fuel bs).Wf := by
  induction fuel generalizing h va bs with
  | zero => exact k
  | succ fuel ih =>
    unfold planStore
    split
    · exact k
    · exact ih _ _ (Homes.write_wf _ _ k)

theorem planPlace_wf {h : Homes} {p : LoadPlan} {b : List Byte} (k : h.Wf) (e : planPlace p h b = some h') : h'.Wf := by
  have hstores (l : List Section) {h : Homes} (k : h.Wf) :
      (l.foldl (fun h x => planStore p h x.va (x.bytes.length / 4096 + 2) x.bytes) h).Wf :=
    List.foldlRecOn _ _ (motive := Homes.Wf) k fun _ k _ _ => planStore_wf _ _ _ k
  have hmaps {α : Type} (l : List α) (f : α → Homes → Option Homes) (hf : ∀ a h h', h.Wf → f a h = some h' → h'.Wf)
      {o : Option Homes} (ho : ∀ h, o = some h → h.Wf) :
      ∀ h, l.foldl (fun o a => o.bind (f a)) o = some h → h.Wf :=
    List.foldlRecOn _ _ (motive := fun o : Option Homes => ∀ h, o = some h → h.Wf) ho fun o ho a _ h e => by
      obtain ⟨h0, e0, e1⟩ := Option.bind_eq_some_iff.1 e
      exact hf a h0 h (ho h0 e0) e1
  unfold planPlace at e
  dsimp only at e
  split at e
  · cases e
  · obtain ⟨h1, e1, rfl⟩ := Option.map_eq_some_iff.1 e
    refine planStore_wf _ _ _ (hstores _ ?_)
    refine hmaps _ _ (fun a h h' k e => planMapPage_wf k e) (hmaps _ _ (fun v h h' k e => ?_) ?_) h1 e1
    · obtain ⟨h2, e2, rfl⟩ := Option.map_eq_some_iff.1 e
      have h2wf := planMapPage_wf k e2
      split
      · exact h2wf
      · exact h2wf
    · rintro h0 e0
      cases e0
      exact k

theorem Homes.openLog_wf {h : Homes} {flog cap : Nat} (k : h.Wf) : (h.openLog flog cap).Wf := by
  grind [Homes.openLog, Homes.write_wf]

theorem Chip.startExpedition_wf {homes : Homes} {cycle port : Nat} {p : LoadPlan} {b : List Byte} {key arg : Word}
    (h : homes.Wf) : (c.startExpedition cycle port p b key arg homes).Wf := by
  grind [Chip.startExpedition, Homes.openLog_wf, Chip.onSched_homes, Chip.onMgmt_homes, Chip.newCaravan_homes, Chip.enqueue_wf]

theorem Chip.startFirmware_wf {h body : List Byte} (hc : c.Wf) : (c.startFirmware h body).Wf := by
  grind [Chip.startFirmware, Chip.onHomes, Homes.writeLong_wf, Chip.onMgmt_homes]

theorem Chip.afterReset_wf {m : Mgmt} {h : Health} : (Chip.afterReset m h).Wf := rfl

theorem Chip.begun_wf {u : Nat} {d : Drover} (hc : c.Wf) : (c.begun u d).Wf := by
  grind [Chip.begun, Chip.setDrover]

theorem Chip.started_wf {u : Nat} (hc : c.Wf) : (c.started u).Wf := by
  grind [Chip.started, Chip.freeSlot_wf, Chip.onTask_homes]

end

end Sys2Proof.Machine
end

section
/-!
SUPPORT. Memory stays in canonical form through the issue of an instruction and through an event, whatever the instruction or the
event does between.
-/

namespace Sys2Proof.Machine

/-! ## Issue attempts -/

/-- What an issue attempt answers satisfies P, and the chip of a hold is canonical. -/
@[simp] def Res.Keeps {α : Type} (P : α → Prop) : Res α → Prop
  | .ok a => P a
  | .stall _ => True
  | .hold c _ _ => c.Wf
  | .trap _ _ => True

/-- An outcome that goes on leaves memory canonical. -/
@[simp] def NextWf : Host.Outcome State Fault Refusal → Prop
  | .next s => s.chip.Wf
  | .fault _ => True
  | .refused _ => True

section

variable {α β : Type} {P : α → Prop} {Q : β → Prop} {r : Res α} {f : α → Res β} {d : Drover} {u : Nat} {c : Chip}

theorem Res.bind_keeps (hr : r.Keeps P) (hf : ∀ a, P a → (f a).Keeps Q) : (r.bind f).Keeps Q := by
  cases r with
  | ok a => exact hf a hr
  | hold c d b => exact hr
  | stall b => trivial
  | trap t d => trivial

theorem unlessStall_keeps {o : Option (Option Nat)} (hr : r.Keeps P) : (unlessStall o r).Keeps P := by
  cases o with
  | none => exact hr
  | some b => trivial

theorem Drover.unlessLate_keeps {l : List (BitVec 5)} (hr : r.Keeps P) : (d.unlessLate l r).Keeps P := by
  unfold Drover.unlessLate
  split
  · trivial
  · exact hr

theorem Drover.useDesc_keeps {n : BitVec 4} {k : BitVec 1024 → Res α} (hk : ∀ v, (k v).Keeps P) :
    (d.useDesc n k).Keeps P := by
  unfold Drover.useDesc
  split
  · trivial
  · split
    · trivial
    · exact hk _

theorem Drover.readX_keeps {a : BitVec 5} : (d.readX u a).Keeps fun _ => True := by
  grind [Drover.readX, Res.Keeps]

/-- A source is read: nothing begins. -/
theorem Drover.readX_bind_keeps {a : BitVec 5} {f : Word × Drover → Res β} (hf : ∀ x d', (f (x, d')).Keeps Q) :
    ((d.readX u a).bind f).Keeps Q :=
  Res.bind_keeps Drover.readX_keeps fun x _ => hf x.1 x.2

theorem Drover.read2_keeps {a b : BitVec 5} : (d.read2 u a b).Keeps fun _ => True :=
  Drover.unlessLate_keeps <| Drover.readX_bind_keeps fun _ _ => Drover.readX_bind_keeps fun _ _ => trivial

theorem Drover.read2_bind_keeps {a b : BitVec 5} {f : Word × Word × Drover → Res β}
    (hf : ∀ x y d', (f (x, y, d')).Keeps Q) : ((d.read2 u a b).bind f).Keeps Q :=
  Res.bind_keeps Drover.read2_keeps fun x _ => hf x.1 x.2.1 x.2.2

/-- A command's chip is canonical. -/
abbrev Res.Commands (r : Res (Chip × Drover)) : Prop := r.Keeps fun x => x.1.Wf

theorem Drover.modeWord_commands {a : BitVec 5} {k : Word → Drover → Res (Chip × Drover)}
    (hk : ∀ w d', (k w d').Commands) : (d.modeWord u a k).Commands :=
  unlessStall_keeps <| Drover.readX_bind_keeps hk

theorem Drover.status_commands {a : BitVec 5} {w : Word} (hc : c.Wf) : (Drover.status c d a w).Commands := hc

end

section

variable {c c' : Chip}

theorem ite_keeps {α : Type} {P : α → Prop} {p : Prop} [Decidable p] {a b : Res α} (ha : a.Keeps P) (hb : b.Keeps P) :
    (if p then a else b).Keeps P := by
  split
  · exact ha
  · exact hb

theorem Chip.Wf.of_copyTake {j : CopyJob} {x : Token} (hc : c.Wf) (e : c.copyTake j = some (x, c')) : c'.Wf := by
  rwa [Chip.Wf, Chip.copyTake_homes e]

end

/-! ## Instructions -/

section

variable {s : State} {i : Instr} {d d0 : Drover}

theorem State.commit_wf {old new : Drover} (h : s.chip.Wf) : (s.commit old new).chip.Wf :=
  foldl_wf _ (fun _ _ => Chip.logLate_wf) h

section

variable {α : Type} {P : α → Prop}

theorem State.result_keeps {a : BitVec 5} {v : Word} : (s.result d a v).Keeps fun _ => True := by
  grind [State.result, Res.Keeps]

variable (h : s.chip.Wf)

include h

theorem State.leafFor_keeps {va : Nat} {a : Ask} : (s.leafFor d0 va a).Keeps fun _ => True := by
  grind [State.leafFor, Res.Keeps]

theorem State.memory_keeps {va : Word} {a : Ask} {fin : Drover → Nat → Drover} :
    (s.memory d0 d va a fin).Keeps fun _ => True := by
  unfold State.memory
  split
  · trivial
  · trivial
  · split
    · trivial
    · split
      · trivial
      · refine Res.bind_keeps (State.leafFor_keeps h) fun l _ => ?_
        split
        · exact h
        · trivial

end

theorem State.block_keeps {α : Type} {P : α → Prop} {c : Chip} {va : Word} {n align : Nat} {k : List Byte → Chip → Res α}
    (hc : c.Wf) (hk : ∀ b c, c.Wf → (k b c).Keeps P) : (s.block c d0 va n align k).Keeps P := by
  have hread := Chip.readBlock_wf (agent := blockAgent s.focus) (u := s.focus) (d := d0) (va := va.toNat) (n := n) hc
  unfold State.block
  split
  · trivial
  · split
    · trivial
    · split
      · next e =>
        have hgot := hread.of_ok e
        exact hk _ _ hgot
      · next e => exact hread.of_wait e
      · split <;> trivial

variable (h : s.chip.Wf)

include h

theorem State.issues_wf {n : Nat} {f : Drover → Res Drover} (hf : ∀ d, (f d).Keeps fun _ => True) :
    NextWf (s.issues i n f) := by
  unfold State.issues
  split
  · exact h
  · next d _ =>
    have hd := hf d
    split
    · exact State.commit_wf h
    · exact h
    · next e => rw [e] at hd; exact State.commit_wf (s := { s with chip := _ }) hd
    · exact h

theorem State.drove_wf {f : Drover → Res Drover} (hf : ∀ d, (f d).Keeps fun _ => True) : NextWf (s.drove i f) :=
  State.issues_wf h hf

theorem State.drives_wf {f : Drover → Res (Chip × Drover)} (hf : ∀ d, (f d).Commands) : NextWf (s.drives i f) := by
  unfold State.drives
  split
  · exact h
  · next d _ =>
    have hd := hf d
    split
    · next e => rw [e] at hd; exact State.commit_wf (s := { s with chip := _ }) hd
    · exact h
    · next e => rw [e] at hd; exact State.commit_wf (s := { s with chip := _ }) hd
    · exact h

theorem State.commands_wf {f : Nat → Drover → Res (Chip × Drover)} (hf : ∀ n d, (f n d).Commands) :
    NextWf (s.commands i f) := by
  unfold State.commands
  split
  · exact h
  · split
    · trivial
    · split
      · exact h
      · exact State.drives_wf h (hf _)

theorem State.op2_wf {d a b : BitVec 5} {f : Word → Word → Word} : NextWf (s.op2 i d a b f) :=
  State.drove_wf h fun _ => unlessStall_keeps <| unlessStall_keeps <| Drover.read2_bind_keeps fun _ _ _ => State.result_keeps

theorem State.op1_wf {d a : BitVec 5} {f : Word → Word} : NextWf (s.op1 i d a f) :=
  State.drove_wf h fun _ => unlessStall_keeps <| unlessStall_keeps <| Drover.readX_bind_keeps fun _ _ => State.result_keeps

theorem State.op0_wf {d : BitVec 5} {f : Drover → Word} : NextWf (s.op0 i d f) :=
  State.drove_wf h fun _ => unlessStall_keeps State.result_keeps

theorem State.cmp2_wf {p : BitVec 3} {a b : BitVec 5} {f : Word → Word → Bool} : NextWf (s.cmp2 i p a b f) :=
  State.drove_wf h fun _ => unlessStall_keeps <| Drover.read2_bind_keeps fun _ _ _ => trivial

theorem State.cmp1_wf {p : BitVec 3} {a : BitVec 5} {f : Word → Bool} : NextWf (s.cmp1 i p a f) :=
  State.drove_wf h fun _ => unlessStall_keeps <| Drover.readX_bind_keeps fun _ _ => trivial

theorem State.pred_wf {p : BitVec 3} {f : Regs → Bool} : NextWf (s.pred i p f) := State.drove_wf h fun _ => trivial

theorem State.fop2_wf {d a b : BitVec 5} {f : Word → Word → Word × BitVec 7} : NextWf (s.fop2 i d a b f) :=
  State.drove_wf h fun _ => unlessStall_keeps <| unlessStall_keeps <| Drover.read2_bind_keeps fun _ _ _ => State.result_keeps

theorem State.fop1_wf {d a : BitVec 5} {f : Word → Word × BitVec 7} : NextWf (s.fop1 i d a f) :=
  State.drove_wf h fun _ => unlessStall_keeps <| unlessStall_keeps <| Drover.readX_bind_keeps fun _ _ => State.result_keeps

theorem State.loadM_wf {k : AccKind} {d a : BitVec 5} {z : BitVec 2} {acq rel : Bool} {f : BitVec 12} :
    NextWf (s.loadM i k d a z acq rel f) :=
  State.drove_wf h fun _ => unlessStall_keeps <| unlessStall_keeps <| Drover.readX_bind_keeps fun _ _ => State.memory_keeps h

theorem State.storeM_wf {k : AccKind} {d a : BitVec 5} {z : BitVec 2} {acq rel : Bool} {f : BitVec 12} :
    NextWf (s.storeM i k d a z acq rel f) :=
  State.drove_wf h fun _ => unlessStall_keeps <| Drover.read2_bind_keeps fun _ _ _ => State.memory_keeps h

theorem State.prefetch_wf {a : BitVec 5} : NextWf (s.prefetch i a) :=
  State.drove_wf h fun _ => unlessStall_keeps <| Drover.readX_bind_keeps fun _ _ => trivial

theorem State.amo_wf {op : Nat} {d a b : BitVec 5} {z : BitVec 3} {o : BitVec 2} : NextWf (s.amo i op d a b z o) :=
  State.drove_wf h fun _ => unlessStall_keeps <| unlessStall_keeps <| Drover.read2_bind_keeps fun _ _ _ => State.memory_keeps h

theorem State.casLike_wf {d a b : BitVec 5} {k : Word → Word → Ask} : NextWf (s.casLike i d a b k) :=
  State.drove_wf h fun _ => unlessStall_keeps <| unlessStall_keeps <| Drover.unlessLate_keeps <|
    Drover.read2_bind_keeps fun _ _ _ => Drover.readX_bind_keeps fun _ _ => State.memory_keeps h

theorem State.red_wf {op : Nat} {w : BitVec 1} {a b : BitVec 5} {z : BitVec 3} {o : BitVec 2} : NextWf (s.red i op w a b z o) :=
  State.drove_wf h fun _ => unlessStall_keeps <| Drover.read2_bind_keeps fun _ _ _ => State.memory_keeps h

theorem State.onGroup_wf {d : BitVec 5} {srcs : List (BitVec 5)}
    {f : Option Nat → Word → Word → Drover → Res (Chip × Drover)}
    {a b : BitVec 5} (hf : ∀ e x y d, (f e x y d).Commands) : NextWf (s.onGroup i d srcs f a b) := by
  refine State.drives_wf h fun _ => unlessStall_keeps <| unlessStall_keeps ?_
  split
  · exact Drover.readX_bind_keeps fun _ _ => hf ..
  · exact Drover.read2_bind_keeps fun _ _ _ => hf ..

theorem State.xdeCommand_commands {d a b : BitVec 5} {f : Nat → List Byte → Drover → Chip → Res (Chip × Drover)}
    {dr : Drover} (hf : ∀ mb blk d1 c, c.Wf → (f mb blk d1 c).Commands) : (s.xdeCommand dr d a b f).Commands := by
  refine unlessStall_keeps <| unlessStall_keeps <| Drover.read2_bind_keeps fun x y dr1 => ?_
  dsimp only
  split
  · trivial
  · split
    · exact h
    · exact State.block_keeps h fun b c => hf _ _ _ _

omit h in
theorem Chip.withDone_commands {c : Chip} {u : Nat} {dr : Drover} {d : BitVec 5} {va : Nat} {f : Nat → Res (Chip × Drover)}
    (hc : c.Wf) (hf : ∀ w, (f w).Commands) : (c.withDone u d0 dr d va f).Commands := by
  unfold Chip.withDone
  split
  · trivial
  · exact hc
  · exact hf _

omit h in
theorem State.spawn_commands {dr : Drover} {a : BitVec 5} {w : Nat} {b : List Byte} {c : Chip} (hc : c.Wf) :
    (s.spawn d0 dr a w b c).Commands := by
  grind [State.spawn, Drover.status, Chip.watchList_wf, Chip.newCaravan_homes, Chip.enqueue_wf, Watches.Wf, Res.Keeps]

/-! ## Events -/

theorem State.eventStep_wf {f : Chip → Nat → Chip} (hf : ∀ c cycle, c.Wf → (f c cycle).Wf) : NextWf (s.eventStep f) :=
  hf _ _ h

theorem State.withAcc_wf {u q : Nat} {f : Chip → Nat → Drover → Access → Chip}
    (hf : ∀ c cycle d a, c.Wf → (f c cycle d a).Wf) : NextWf (s.withAcc u q f) := by
  refine State.eventStep_wf h fun c cycle hc => ?_
  split
  · exact hc
  · split
    · exact hc
    · exact hf _ _ _ _ hc

theorem State.engineStep_wf {n : BitVec 12} {f : Chip → Nat → Nat → Drover → Serai → Chip}
    (hf : ∀ c cycle u d v, c.Wf → (f c cycle u d v).Wf) : NextWf (s.engineStep n f) := by
  refine State.eventStep_wf h fun c cycle hc => ?_
  split
  · exact hc
  · exact hf _ _ _ _ _ hc

theorem State.pageStep_wf {n : BitVec 12} {q : BitVec 2} {f : Chip → Nat → Nat → Nat → Page → Chip}
    (hf : ∀ c cycle u pg g, c.Wf → (f c cycle u pg g).Wf) : NextWf (s.pageStep n q f) := by
  refine State.engineStep_wf h fun c cycle u d v hc => ?_
  split
  · exact hc
  · split
    · exact hf _ _ _ _ _ hc
    · exact hc

theorem State.cellStep_wf {n : BitVec 12} {q : BitVec 2} {j : BitVec 6} {f : Chip → Nat → Nat → Nat → Page → Chip}
    (hf : ∀ c cycle u pg g, c.Wf → (f c cycle u pg g).Wf) : NextWf (s.cellStep n q j f) := by
  refine State.pageStep_wf h fun c cycle u pg g hc => ?_
  split
  · exact hc
  · exact hf _ _ _ _ _ hc

theorem State.routerStep_wf {n : BitVec 12} {q : BitVec 2} {j : BitVec 6} {xop : Nat}
    {f : XvWord → Router → XvHeads → Option Routed} : NextWf (s.routerStep n q j xop f) := by
  refine State.pageStep_wf h fun c cycle u pg g hc => ?_
  grind [Chip.setPage_homes]

theorem State.sequence_wf {n : BitVec 12} {g : BitVec 2} {k : StepKind} : NextWf (s.sequence n g k) := by
  refine State.engineStep_wf h fun c cycle u d v hc => ?_
  grind [Chip.ctxStep_wf]

theorem State.packetStep_wf {l : BitVec 5} {ptype : Nat} {f : Chip → Nat → Packet → Chip}
    (hf : ∀ c cycle p, c.Wf → (f c cycle p).Wf) : NextWf (s.packetStep l ptype f) := by
  refine State.eventStep_wf h fun c cycle hc => ?_
  split
  · exact hc
  · exact hf _ _ _ (by rwa [Chip.Wf, Chip.dropLane_homes])

theorem State.ageTrap_wf {n : BitVec 12} {k cause : Nat} {count : Age → Nat} {lim : Expedition → Nat} {clear : Age → Age} :
    NextWf (s.ageTrap n k cause count lim clear) := by
  refine State.engineStep_wf h fun c cycle u d v hc => ?_
  grind [Chip.setSerai_homes, Chip.raiseAsync_homes]

end

end Sys2Proof.Machine
end

section
/-!
SUPPORT. Memory stays in canonical form through every instruction and every event: one lemma per arm of `exec`.
-/

namespace Sys2Proof.Machine

section

variable {s : State} (h : s.chip.Wf)

include h

/-! ### Arithmetic, conversions and predicates -/

theorem execIll_wf {x : BitVec 26} : NextWf (execIll x s) := State.drove_wf h fun _ => trivial

theorem execAdd_wf {d a b : BitVec 5} {w : BitVec 1} : NextWf (execAdd d a b w s) := State.op2_wf h

theorem execSub_wf {d a b : BitVec 5} {w : BitVec 1} : NextWf (execSub d a b w s) := State.op2_wf h

theorem execAnd_wf {d a b : BitVec 5} : NextWf (execAnd d a b s) := State.op2_wf h

theorem execOr_wf {d a b : BitVec 5} : NextWf (execOr d a b s) := State.op2_wf h

theorem execXor_wf {d a b : BitVec 5} : NextWf (execXor d a b s) := State.op2_wf h

theorem execAndn_wf {d a b : BitVec 5} : NextWf (execAndn d a b s) := State.op2_wf h

theorem execShl_wf {d a b : BitVec 5} {w : BitVec 1} : NextWf (execShl d a b w s) := State.op2_wf h

theorem execShr_wf {d a b : BitVec 5} {w : BitVec 1} : NextWf (execShr d a b w s) := State.op2_wf h

theorem execSar_wf {d a b : BitVec 5} {w : BitVec 1} : NextWf (execSar d a b w s) := State.op2_wf h

theorem execRol_wf {d a b : BitVec 5} {w : BitVec 1} : NextWf (execRol d a b w s) := State.op2_wf h

theorem execMul_wf {d a b : BitVec 5} {w : BitVec 1} : NextWf (execMul d a b w s) := State.op2_wf h

theorem execMulh_wf {d a b : BitVec 5} : NextWf (execMulh d a b s) := State.op2_wf h

theorem execMulhu_wf {d a b : BitVec 5} : NextWf (execMulhu d a b s) := State.op2_wf h

theorem execDiv_wf {d a b : BitVec 5} {w : BitVec 1} : NextWf (execDiv d a b w s) := State.op2_wf h

theorem execDivu_wf {d a b : BitVec 5} {w : BitVec 1} : NextWf (execDivu d a b w s) := State.op2_wf h

theorem execRem_wf {d a b : BitVec 5} {w : BitVec 1} : NextWf (execRem d a b w s) := State.op2_wf h

theorem execRemu_wf {d a b : BitVec 5} {w : BitVec 1} : NextWf (execRemu d a b w s) := State.op2_wf h

theorem execMin_wf {d a b : BitVec 5} {w : BitVec 1} : NextWf (execMin d a b w s) := State.op2_wf h

theorem execMax_wf {d a b : BitVec 5} {w : BitVec 1} : NextWf (execMax d a b w s) := State.op2_wf h

theorem execMinu_wf {d a b : BitVec 5} {w : BitVec 1} : NextWf (execMinu d a b w s) := State.op2_wf h

theorem execMaxu_wf {d a b : BitVec 5} {w : BitVec 1} : NextWf (execMaxu d a b w s) := State.op2_wf h

theorem execClz_wf {d a : BitVec 5} {w : BitVec 1} : NextWf (execClz d a w s) := State.op1_wf h

theorem execCtz_wf {d a : BitVec 5} {w : BitVec 1} : NextWf (execCtz d a w s) := State.op1_wf h

theorem execPopc_wf {d a : BitVec 5} {w : BitVec 1} : NextWf (execPopc d a w s) := State.op1_wf h

theorem execSextb_wf {d a : BitVec 5} : NextWf (execSextb d a s) := State.op1_wf h

theorem execSexth_wf {d a : BitVec 5} : NextWf (execSexth d a s) := State.op1_wf h

theorem execSextw_wf {d a : BitVec 5} : NextWf (execSextw d a s) := State.op1_wf h

theorem execBswap_wf {d a : BitVec 5} : NextWf (execBswap d a s) := State.op1_wf h

theorem execAddi_wf {d a : BitVec 5} {i : BitVec 16} : NextWf (execAddi d a i s) := State.op1_wf h

theorem execAndi_wf {d a : BitVec 5} {i : BitVec 16} : NextWf (execAndi d a i s) := State.op1_wf h

theorem execOri_wf {d a : BitVec 5} {i : BitVec 16} : NextWf (execOri d a i s) := State.op1_wf h

theorem execXori_wf {d a : BitVec 5} {i : BitVec 16} : NextWf (execXori d a i s) := State.op1_wf h

theorem execShli_wf {d a : BitVec 5} {w : BitVec 1} {n : BitVec 6} : NextWf (execShli d a w n s) := State.op1_wf h

theorem execShri_wf {d a : BitVec 5} {w : BitVec 1} {n : BitVec 6} : NextWf (execShri d a w n s) := State.op1_wf h

theorem execSari_wf {d a : BitVec 5} {w : BitVec 1} {n : BitVec 6} : NextWf (execSari d a w n s) := State.op1_wf h

theorem execLui_wf {d : BitVec 5} {i : BitVec 16} : NextWf (execLui d i s) := State.op0_wf h

theorem execCeq_wf {p : BitVec 3} {a b : BitVec 5} {w : BitVec 1} : NextWf (execCeq p a b w s) := State.cmp2_wf h

theorem execCne_wf {p : BitVec 3} {a b : BitVec 5} {w : BitVec 1} : NextWf (execCne p a b w s) := State.cmp2_wf h

theorem execClt_wf {p : BitVec 3} {a b : BitVec 5} {w : BitVec 1} : NextWf (execClt p a b w s) := State.cmp2_wf h

theorem execCltu_wf {p : BitVec 3} {a b : BitVec 5} {w : BitVec 1} : NextWf (execCltu p a b w s) := State.cmp2_wf h

theorem execCle_wf {p : BitVec 3} {a b : BitVec 5} {w : BitVec 1} : NextWf (execCle p a b w s) := State.cmp2_wf h

theorem execCleu_wf {p : BitVec 3} {a b : BitVec 5} {w : BitVec 1} : NextWf (execCleu p a b w s) := State.cmp2_wf h

theorem execCmpiEq_wf {p : BitVec 3} {a : BitVec 5} {i : BitVec 16} : NextWf (execCmpiEq p a i s) := State.cmp1_wf h

theorem execCmpiLt_wf {p : BitVec 3} {a : BitVec 5} {i : BitVec 16} : NextWf (execCmpiLt p a i s) := State.cmp1_wf h

theorem execCmpiLtu_wf {p : BitVec 3} {a : BitVec 5} {i : BitVec 16} : NextWf (execCmpiLtu p a i s) := State.cmp1_wf h

theorem execCmpiLe_wf {p : BitVec 3} {a : BitVec 5} {i : BitVec 16} : NextWf (execCmpiLe p a i s) := State.cmp1_wf h

theorem execPand_wf {d a b : BitVec 3} : NextWf (execPand d a b s) := State.pred_wf h

theorem execPor_wf {d a b : BitVec 3} : NextWf (execPor d a b s) := State.pred_wf h

theorem execPxor_wf {d a b : BitVec 3} : NextWf (execPxor d a b s) := State.pred_wf h

theorem execPandn_wf {d a b : BitVec 3} : NextWf (execPandn d a b s) := State.pred_wf h

theorem execPnot_wf {d a : BitVec 3} : NextWf (execPnot d a s) := State.pred_wf h

theorem execPset_wf {d : BitVec 3} {a : BitVec 5} : NextWf (execPset d a s) := State.cmp1_wf h

theorem execPget_wf {d : BitVec 5} {a : BitVec 3} : NextWf (execPget d a s) := State.op0_wf h

theorem execSel_wf {d a b : BitVec 5} {c : BitVec 3} : NextWf (execSel d a b c s) :=
  State.drove_wf h fun _ => unlessStall_keeps <| unlessStall_keeps <| Drover.read2_bind_keeps fun _ _ _ => State.result_keeps

theorem execFadd_wf {d a b : BitVec 5} {p : BitVec 1} {r : BitVec 2} : NextWf (execFadd d a b p r s) := State.fop2_wf h

theorem execFsub_wf {d a b : BitVec 5} {p : BitVec 1} {r : BitVec 2} : NextWf (execFsub d a b p r s) := State.fop2_wf h

theorem execFmul_wf {d a b : BitVec 5} {p : BitVec 1} {r : BitVec 2} : NextWf (execFmul d a b p r s) := State.fop2_wf h

theorem execFdiv_wf {d a b : BitVec 5} {p : BitVec 1} {r : BitVec 2} : NextWf (execFdiv d a b p r s) := State.fop2_wf h

theorem execFsqrt_wf {d a : BitVec 5} {p : BitVec 1} {r : BitVec 2} : NextWf (execFsqrt d a p r s) := State.fop1_wf h

theorem execFmin_wf {d a b : BitVec 5} {p : BitVec 1} : NextWf (execFmin d a b p s) := State.fop2_wf h

theorem execFmax_wf {d a b : BitVec 5} {p : BitVec 1} : NextWf (execFmax d a b p s) := State.fop2_wf h

theorem execFma_wf {d a b : BitVec 5} {p : BitVec 1} {r : BitVec 2} : NextWf (execFma d a b p r s) := by
  refine State.drove_wf h fun dr => unlessStall_keeps <| unlessStall_keeps <| Drover.unlessLate_keeps <|
    Drover.readX_bind_keeps fun vd dr => Drover.read2_bind_keeps fun va vb dr => ?_
  grind [State.result_keeps, Res.Keeps]

theorem execFcvtif_wf {d a : BitVec 5} {w u p : BitVec 1} {r : BitVec 2} : NextWf (execFcvtif d a w u p r s) := State.fop1_wf h

theorem execFcvtfi_wf {d a : BitVec 5} {w u p : BitVec 1} {r : BitVec 2} : NextWf (execFcvtfi d a w u p r s) := State.fop1_wf h

theorem execFcvtff_wf {d a : BitVec 5} {p : BitVec 1} {r : BitVec 2} : NextWf (execFcvtff d a p r s) := State.fop1_wf h

theorem execFceq_wf {d : BitVec 3} {a b : BitVec 5} {p : BitVec 1} : NextWf (execFceq d a b p s) := State.cmp2_wf h

theorem execFclt_wf {d : BitVec 3} {a b : BitVec 5} {p : BitVec 1} : NextWf (execFclt d a b p s) := State.cmp2_wf h

theorem execFcle_wf {d : BitVec 3} {a b : BitVec 5} {p : BitVec 1} : NextWf (execFcle d a b p s) := State.cmp2_wf h

theorem execFclass_wf {d a : BitVec 5} {p : BitVec 1} : NextWf (execFclass d a p s) := State.op1_wf h

/-! ### Loads, stores and branches -/

theorem execLd_wf {d a : BitVec 5} {z o : BitVec 2} {f : BitVec 12} : NextWf (execLd d a z o f s) := State.loadM_wf h

theorem execLdu_wf {d a : BitVec 5} {z o : BitVec 2} {f : BitVec 12} : NextWf (execLdu d a z o f s) := State.loadM_wf h

theorem execSt_wf {d a : BitVec 5} {z o : BitVec 2} {f : BitVec 12} : NextWf (execSt d a z o f s) := State.storeM_wf h

theorem execLdf_wf {d a : BitVec 5} {z : BitVec 2} {f : BitVec 12} : NextWf (execLdf d a z f s) := State.loadM_wf h

theorem execLdfe_wf {d a : BitVec 5} {z : BitVec 2} {f : BitVec 12} : NextWf (execLdfe d a z f s) := State.loadM_wf h

theorem execStef_wf {d a : BitVec 5} {z : BitVec 2} {f : BitVec 12} : NextWf (execStef d a z f s) := State.storeM_wf h

theorem execStf_wf {d a : BitVec 5} {z : BitVec 2} {f : BitVec 12} : NextWf (execStf d a z f s) := State.storeM_wf h

theorem execSete_wf {a : BitVec 5} {z : BitVec 2} {f : BitVec 12} : NextWf (execSete a z f s) :=
  State.drove_wf h fun _ => unlessStall_keeps <| Drover.readX_bind_keeps fun _ _ => State.memory_keeps h

theorem execPrefR_wf {a : BitVec 5} {f : BitVec 12} : NextWf (execPrefR a f s) := State.prefetch_wf h

theorem execPrefW_wf {a : BitVec 5} {f : BitVec 12} : NextWf (execPrefW a f s) := State.prefetch_wf h

theorem execDld_wf {d : BitVec 4} {a b : BitVec 5} {sc : BitVec 3} {o : BitVec 2} : NextWf (execDld d a b sc o s) :=
  State.drove_wf h fun _ => unlessStall_keeps <| ite_keeps trivial <| Drover.read2_bind_keeps fun _ _ _ => State.memory_keeps h

theorem execDst_wf {d : BitVec 4} {a b : BitVec 5} {sc : BitVec 3} {o : BitVec 2} : NextWf (execDst d a b sc o s) :=
  State.drove_wf h fun _ => unlessStall_keeps <| Drover.useDesc_keeps fun _ => Drover.read2_bind_keeps fun _ _ _ =>
    State.memory_keeps h

theorem execBr_wf {n : BitVec 1} {k : BitVec 3} {f : BitVec 22} : NextWf (execBr n k f s) := State.issues_wf h fun _ => trivial

theorem execCall_wf {n : BitVec 1} {k : BitVec 3} {f : BitVec 22} : NextWf (execCall n k f s) := by
  refine State.issues_wf h fun d => ?_
  split
  · exact unlessStall_keeps trivial
  · trivial

theorem execJr_wf {a : BitVec 5} : NextWf (execJr a s) := by
  refine State.issues_wf h fun d => unlessStall_keeps <| Drover.readX_bind_keeps fun t d' => ?_
  grind [Res.Keeps]

theorem execJalr_wf {d a : BitVec 5} : NextWf (execJalr d a s) := by
  refine State.issues_wf h fun dr => unlessStall_keeps <| unlessStall_keeps <| Drover.readX_bind_keeps fun t dr' => ?_
  dsimp only
  split
  · trivial
  · exact Res.bind_keeps State.result_keeps fun _ _ => trivial

theorem execNop_wf : NextWf (execNop s) := State.drove_wf h fun _ => trivial

/-! ### System instructions -/

theorem execTrap_wf {a : BitVec 5} : NextWf (execTrap a s) :=
  State.drove_wf h fun _ => unlessStall_keeps <| Drover.readX_bind_keeps fun _ _ => trivial

theorem execEret_wf : NextWf (execEret s) := by
  refine State.drives_wf h fun d => ?_
  grind [Chip.endRecord_wf, Chip.onTraps_homes, Res.Keeps]

theorem execFence_wf {sc : BitVec 3} {o : BitVec 2} : NextWf (execFence sc o s) := by
  refine State.drove_wf h fun d => ?_
  grind [Res.Keeps]

theorem execSleep_wf : NextWf (execSleep s) := by
  refine State.drove_wf h fun d => ?_
  grind [Res.Keeps]

theorem execBrk_wf : NextWf (execBrk s) := State.drove_wf h fun _ => trivial

theorem execIflush_wf : NextWf (execIflush s) := by
  refine State.drove_wf h fun d => ?_
  grind [Res.Keeps]

theorem execHalt_wf : NextWf (execHalt s) := by
  refine State.drives_wf h fun d => ?_
  grind [Chip.emptySteward_wf, Chip.setDrover, Res.Keeps]

theorem execMfc_wf {d : BitVec 5} {n : BitVec 9} : NextWf (execMfc d n s) := by
  refine State.drives_wf h fun dr => unlessStall_keeps ?_
  split
  · trivial
  · refine Res.bind_keeps State.result_keeps fun _ _ => ?_
    show Chip.Wf _
    split <;> exact h

theorem execMtc_wf {a : BitVec 5} {n : BitVec 9} : NextWf (execMtc a n s) := by
  refine State.drove_wf h fun dr => unlessStall_keeps ?_
  split
  · trivial
  · exact Drover.readX_bind_keeps fun v dr' => unlessStall_keeps trivial

/-! ### Atomics and reductions -/

theorem execAmoSwap_wf {d a b : BitVec 5} {sc : BitVec 3} {o : BitVec 2} : NextWf (execAmoSwap d a b sc o s) := State.amo_wf h

theorem execAmoAdd_wf {d a b : BitVec 5} {sc : BitVec 3} {o : BitVec 2} : NextWf (execAmoAdd d a b sc o s) := State.amo_wf h

theorem execAmoAnd_wf {d a b : BitVec 5} {sc : BitVec 3} {o : BitVec 2} : NextWf (execAmoAnd d a b sc o s) := State.amo_wf h

theorem execAmoOr_wf {d a b : BitVec 5} {sc : BitVec 3} {o : BitVec 2} : NextWf (execAmoOr d a b sc o s) := State.amo_wf h

theorem execAmoXor_wf {d a b : BitVec 5} {sc : BitVec 3} {o : BitVec 2} : NextWf (execAmoXor d a b sc o s) := State.amo_wf h

theorem execAmoMin_wf {d a b : BitVec 5} {sc : BitVec 3} {o : BitVec 2} : NextWf (execAmoMin d a b sc o s) := State.amo_wf h

theorem execAmoMax_wf {d a b : BitVec 5} {sc : BitVec 3} {o : BitVec 2} : NextWf (execAmoMax d a b sc o s) := State.amo_wf h

theorem execAmoMinu_wf {d a b : BitVec 5} {sc : BitVec 3} {o : BitVec 2} : NextWf (execAmoMinu d a b sc o s) := State.amo_wf h

theorem execAmoMaxu_wf {d a b : BitVec 5} {sc : BitVec 3} {o : BitVec 2} : NextWf (execAmoMaxu d a b sc o s) := State.amo_wf h

theorem execAmoFadd_wf {d a b : BitVec 5} {sc : BitVec 3} {o : BitVec 2} : NextWf (execAmoFadd d a b sc o s) := State.amo_wf h

theorem execAmoCas_wf {d a b : BitVec 5} {sc : BitVec 3} {o : BitVec 2} : NextWf (execAmoCas d a b sc o s) := State.casLike_wf h

theorem execRedAdd_wf {w : BitVec 1} {a b : BitVec 5} {sc : BitVec 3} {o : BitVec 2} : NextWf (execRedAdd w a b sc o s) :=
  State.red_wf h

theorem execRedAnd_wf {w : BitVec 1} {a b : BitVec 5} {sc : BitVec 3} {o : BitVec 2} : NextWf (execRedAnd w a b sc o s) :=
  State.red_wf h

theorem execRedOr_wf {w : BitVec 1} {a b : BitVec 5} {sc : BitVec 3} {o : BitVec 2} : NextWf (execRedOr w a b sc o s) :=
  State.red_wf h

theorem execRedXor_wf {w : BitVec 1} {a b : BitVec 5} {sc : BitVec 3} {o : BitVec 2} : NextWf (execRedXor w a b sc o s) :=
  State.red_wf h

theorem execRedMin_wf {w : BitVec 1} {a b : BitVec 5} {sc : BitVec 3} {o : BitVec 2} : NextWf (execRedMin w a b sc o s) :=
  State.red_wf h

theorem execRedMax_wf {w : BitVec 1} {a b : BitVec 5} {sc : BitVec 3} {o : BitVec 2} : NextWf (execRedMax w a b sc o s) :=
  State.red_wf h

theorem execRedMinu_wf {w : BitVec 1} {a b : BitVec 5} {sc : BitVec 3} {o : BitVec 2} : NextWf (execRedMinu w a b sc o s) :=
  State.red_wf h

theorem execRedMaxu_wf {w : BitVec 1} {a b : BitVec 5} {sc : BitVec 3} {o : BitVec 2} : NextWf (execRedMaxu w a b sc o s) :=
  State.red_wf h

theorem execRedFadd_wf {w : BitVec 1} {a b : BitVec 5} {sc : BitVec 3} {o : BitVec 2} : NextWf (execRedFadd w a b sc o s) :=
  State.red_wf h

theorem execRedFmin_wf {w : BitVec 1} {a b : BitVec 5} {sc : BitVec 3} {o : BitVec 2} : NextWf (execRedFmin w a b sc o s) :=
  State.red_wf h

theorem execRedFmax_wf {w : BitVec 1} {a b : BitVec 5} {sc : BitVec 3} {o : BitVec 2} : NextWf (execRedFmax w a b sc o s) :=
  State.red_wf h

/-! ### Groups and queues -/

theorem execGarrive_wf {d a : BitVec 5} {sc : BitVec 3} {o : BitVec 2} : NextWf (execGarrive d a sc o s) := by
  refine State.drove_wf h fun dr => unlessStall_keeps <| unlessStall_keeps <| Drover.readX_bind_keeps fun x dr' => ?_
  grind [Res.Keeps]

theorem execGwait_wf {d a : BitVec 5} {sc : BitVec 3} {o : BitVec 2} : NextWf (execGwait d a sc o s) := by
  refine State.drives_wf h fun dr => unlessStall_keeps <| unlessStall_keeps <| Drover.readX_bind_keeps fun x dr' => ?_
  grind [Chip.onExp_homes, Res.Keeps]

theorem execGbar_wf {d a : BitVec 5} {sc : BitVec 3} {o : BitVec 2} : NextWf (execGbar d a sc o s) := by
  refine State.drove_wf h fun dr => unlessStall_keeps <| unlessStall_keeps <| Drover.readX_bind_keeps fun x dr' => ?_
  grind [Res.Keeps]

theorem execGset_wf {d a b : BitVec 5} : NextWf (execGset d a b s) := by
  refine State.onGroup_wf h fun e x y dr => ?_
  grind [Chip.setGroup_homes, Res.Keeps]

theorem execGinfo_wf {d a : BitVec 5} : NextWf (execGinfo d a s) := by
  refine State.onGroup_wf h fun e x _ dr => ?_
  grind [Res.Keeps]

theorem execGcoll_wf {d a b : BitVec 5} {sc : BitVec 3} : NextWf (execGcoll d a b sc s) := by
  refine State.drives_wf h fun dr => ?_
  split
  · trivial
  · exact Drover.read2_bind_keeps fun _ _ _ => h
  · refine unlessStall_keeps <| unlessStall_keeps <| Drover.read2_bind_keeps fun x y dr' => ?_
    dsimp only
    split
    · exact h
    · refine State.block_keeps h fun p c hc => ?_
      grind [Chip.setGroup_homes, Res.Keeps]

theorem execGalloc_wf {d a : BitVec 5} : NextWf (execGalloc d a s) := by
  refine State.onGroup_wf h fun e x _ dr => ?_
  grind [Chip.setGroup_homes, Res.Keeps]

theorem execGfree_wf {d a : BitVec 5} : NextWf (execGfree d a s) := by
  refine State.onGroup_wf h fun e x _ dr => ?_
  grind [Chip.onExp_homes, Res.Keeps]

theorem execQsel_wf {a : BitVec 5} : NextWf (execQsel a s) :=
  State.drove_wf h fun _ => unlessStall_keeps <| Drover.readX_bind_keeps fun _ _ => trivial

theorem execQlen_wf {d : BitVec 5} {q : BitVec 2} : NextWf (execQlen d q s) := State.op0_wf h

theorem execQpeek_wf {d : BitVec 5} {q : BitVec 2} : NextWf (execQpeek d q s) := by
  refine State.drove_wf h fun dr => unlessStall_keeps <| ?_
  grind [State.result_keeps, Res.Keeps]

/-! ### Engine commands -/

theorem execSopen_wf {d : BitVec 5} {p : BitVec 3} {b : BitVec 4} : NextWf (execSopen d p b s) := by
  refine State.commands_wf h fun n dr => Drover.modeWord_commands fun mode dr1 => Drover.useDesc_keeps fun v => ?_
  grind [Chip.openStream_wf, Drover.status, Res.Keeps]

theorem execSclose_wf {d : BitVec 5} {p : BitVec 3} : NextWf (execSclose d p s) := by
  refine State.commands_wf h fun n dr => unlessStall_keeps <| ?_
  grind [Drover.status, Chip.onSerai_homes, Res.Keeps]

theorem execSbar_wf {d sc : BitVec 3} : NextWf (execSbar d sc s) := by
  refine State.commands_wf h fun n dr => ?_
  grind [Res.Keeps]

theorem execSstat_wf {d : BitVec 5} {p : BitVec 3} : NextWf (execSstat d p s) :=
  State.commands_wf h fun _ _ => unlessStall_keeps <| h

theorem execSlink_wf {d : BitVec 5} {a b : BitVec 3} : NextWf (execSlink d a b s) := by
  refine State.commands_wf h fun n dr => unlessStall_keeps <| ?_
  grind [Drover.status, Chip.onSerai_homes, Res.Keeps]

theorem execCopy_wf {d a b : BitVec 5} {sc : BitVec 3} : NextWf (execCopy d a b sc s) := by
  refine State.commands_wf h fun n dr => unlessStall_keeps <| unlessStall_keeps <| Drover.read2_bind_keeps fun x y dr1 => ?_
  dsimp -zeta only
  extract_lets dr2 go
  have hgo (blk : List Byte) (c : Chip) (hc : c.Wf) : (go blk c).Commands := by
    have hcopy := Chip.acceptCopy_wf (n := n) (u := s.focus) (d := dr1.tick s.focus) (b := blk) (off := y)
      (scope := sc.toNat) (rd := d.toNat) (cmd := none) hc
    grind [Drover.status, CopyRes.Wf, Res.Keeps]
  have hread (k : Nat) := State.block_keeps (s := s) (d0 := dr) (va := x) (n := 64) (align := 64) h
    fun b c hc => hgo b (c.rememberTemplate n k b) (Chip.rememberTemplate_wf hc)
  refine ite_keeps trivial ?_
  split
  · exact ite_keeps (hgo _ _ h) (hread _)
  · exact hread _

theorem execCpflush_wf : NextWf (execCpflush s) := by
  refine State.commands_wf h fun n dr => ?_
  grind [Chip.onSerai_homes, Res.Keeps]

theorem execCpstat_wf {d : BitVec 5} : NextWf (execCpstat d s) := by
  refine State.commands_wf h fun n dr => unlessStall_keeps <| ?_
  grind [Drover.status, Res.Keeps]

theorem execPgload_wf {d : BitVec 5} {q : BitVec 2} {b : BitVec 5} : NextWf (execPgload d q b s) := by
  refine State.commands_wf h fun n dr => unlessStall_keeps <| unlessStall_keeps <| Drover.readX_bind_keeps fun x dr1 => ?_
  grind [State.block, Chip.readBlock_wf, Chip.dropFar_homes, Got.Wf, Drover.status, Chip.setSerai_homes, Res.Keeps]

theorem execPgcast_wf {d a b : BitVec 5} : NextWf (execPgcast d a b s) := by
  refine State.commands_wf h fun n dr => unlessStall_keeps <| unlessStall_keeps <| Drover.read2_bind_keeps fun x y dr1 => ?_
  refine ite_keeps trivial <| State.block_keeps h fun blk c hc => ite_keeps hc <| ite_keeps hc <|
    State.block_keeps hc fun img c hc => ?_
  have hread (u : Nat) (d : Drover) (va n : Nat) :=
    Chip.readBlock_wf (agent := blockAgent u) (u := u) (d := d) (va := va) (n := n) hc
  split
  · next e => exact (hread ..).of_wait e
  · exact hc
  · next e =>
    have hread := (hread ..).of_ok e
    exact ite_keeps hread (Chip.castAll_wf _ _ _ hread)

theorem execPgbind_wf {d a b : BitVec 5} : NextWf (execPgbind d a b s) := by
  refine State.commands_wf h fun _ dr => unlessStall_keeps <| unlessStall_keeps <| Drover.read2_bind_keeps fun x y dr1 => ?_
  grind [Res.bind, Chip.bindPair_wf, Drover.status, Res.Keeps]

theorem execPgdrop_wf {d : BitVec 5} {q : BitVec 2} : NextWf (execPgdrop d q s) := by
  refine State.commands_wf h fun n dr => Drover.modeWord_commands fun mode dr1 => ?_
  grind [Drover.status, Chip.dropPage_wf, Res.Keeps]

theorem execPgstat_wf {d : BitVec 5} {q : BitVec 2} : NextWf (execPgstat d q s) :=
  State.commands_wf h fun _ _ => Drover.modeWord_commands fun _ _ => h

theorem execWload_wf {d : BitVec 5} {m : BitVec 4} {b : BitVec 5} : NextWf (execWload d m b s) := by
  refine State.commands_wf h fun n dr => unlessStall_keeps <| unlessStall_keeps <| Drover.useDesc_keeps fun desc =>
    Drover.readX_bind_keeps fun x dr1 => ?_
  grind [Drover.status, Chip.dropFar_homes, TileRead.run_wf, Chip.onSerai_homes, Chip.onHomes, Homes.clearBad_mem,
    Homes.writeLong_wf, Chip.freeBytes_wf, Res.Keeps]

theorem execWdrop_wf {d b : BitVec 5} : NextWf (execWdrop d b s) := by
  refine State.commands_wf h fun n dr => unlessStall_keeps <| unlessStall_keeps <| Drover.readX_bind_keeps fun x dr1 => ?_
  grind [Drover.status, Chip.onHomes, Chip.onSerai_homes, Res.Keeps]

theorem execWpoke_wf {d : BitVec 5} {q : BitVec 2} {b : BitVec 5} : NextWf (execWpoke d q b s) := by
  refine State.commands_wf h fun n dr => unlessStall_keeps <| unlessStall_keeps <| Drover.readX_bind_keeps fun x dr1 => ?_
  grind [Drover.status, Chip.onSerai_homes, Res.Keeps]

theorem execGload_wf {d : BitVec 5} {g : BitVec 2} {b : BitVec 5} : NextWf (execGload d g b s) := by
  refine State.commands_wf h fun n dr => unlessStall_keeps <| unlessStall_keeps <| Drover.readX_bind_keeps fun x dr1 => ?_
  grind [Drover.status, State.block, Chip.readBlock_wf, Chip.dropFar_homes, Got.Wf, Chip.onSerai_homes, Res.Keeps]

theorem execGstart_wf {d : BitVec 5} {g : BitVec 2} {p : BitVec 3} : NextWf (execGstart d g p s) := by
  refine State.commands_wf h fun n dr => Drover.modeWord_commands fun mode dr1 => ?_
  dsimp only
  split
  · exact h
  · split
    · exact h
    · split
      · exact h
      · split
        · exact h
        · split
          · split <;> exact h
          · refine State.block_keeps h fun tab c hc => ?_
            split <;> exact hc

theorem execGstop_wf {d : BitVec 5} {g : BitVec 2} : NextWf (execGstop d g s) := by
  refine State.commands_wf h fun n dr => unlessStall_keeps <| ?_
  grind [Chip.onSerai_homes, Drover.status, Res.Keeps]

theorem execGstat_wf {d : BitVec 5} {g : BitVec 2} : NextWf (execGstat d g s) :=
  State.commands_wf h fun _ _ => unlessStall_keeps <| h

theorem execWaita_wf {d : BitVec 5} {g : BitVec 2} : NextWf (execWaita d g s) := by
  refine State.commands_wf h fun n dr => unlessStall_keeps <| ?_
  grind [Drover.status, Res.Keeps]

theorem execActdone_wf {g : BitVec 2} : NextWf (execActdone g s) := by
  refine State.commands_wf h fun n dr => ?_
  grind [Chip.onSerai_homes, Res.Keeps]

/-! ### Tasks -/

theorem execSpawn_wf {d a b : BitVec 5} : NextWf (execSpawn d a b s) := by
  refine State.drives_wf h fun dr => unlessStall_keeps <| unlessStall_keeps <| Drover.read2_bind_keeps fun x y dr1 => ?_
  grind [Drover.status, State.spawn_commands, State.block, Chip.readBlock_wf, Chip.dropFar_homes, Got.Wf, Res.Keeps]

theorem execRetire_wf : NextWf (execRetire s) := by
  refine State.commands_wf h fun n dr => ?_
  grind [Chip.onTask_homes, Chip.onSerai_homes, Chip.dropFeeds_homes, Chip.cancelWaiters_wf, Chip.caravanGone_homes, Res.Keeps]

theorem execYield_wf : NextWf (execYield s) := by
  refine State.commands_wf h fun _ dr => ?_
  cases dr.hold with
  | result _ => exact h
  | yielding => trivial
  | _ =>
    cases s.myCaravan with
    | none => exact h
    | some p => exact ite_keeps h h

theorem execTwatch_wf {d a : BitVec 5} : NextWf (execTwatch d a s) := by
  refine State.commands_wf h fun _ dr => ?_
  split
  · exact Drover.readX_bind_keeps fun _ _ => h
  · trivial
  · refine unlessStall_keeps <| unlessStall_keeps <| Drover.readX_bind_keeps fun x dr1 => ite_keeps trivial ?_
    have hleaf := Chip.engineLeaf_wf (u := s.focus) (d := dr) (va := x.toNat) (n := .read) (pins := []) h
    split
    · trivial
    · next e => exact hleaf.of_wait e
    · next e =>
      have hc := hleaf.of_ok e
      refine ite_keeps hc <| ite_keeps hc ?_
      split
      · refine ite_keeps trivial <| ite_keeps ?_ ?_
        · split
          · trivial
          · next e => exact hc.of_request e
        · exact Chip.registerWatch_wf hc
      · exact hc

theorem execTstat_wf {d a : BitVec 5} : NextWf (execTstat d a s) := by
  refine State.drives_wf h fun dr => unlessStall_keeps <| unlessStall_keeps <| Drover.readX_bind_keeps fun x dr1 => ?_
  grind [Res.bind, Drover.status, Res.Keeps]

theorem execTkill_wf {d a : BitVec 5} : NextWf (execTkill d a s) := by
  refine State.drives_wf h fun dr => unlessStall_keeps <| unlessStall_keeps <| Drover.readX_bind_keeps fun x dr1 => ?_
  grind [Res.bind, Drover.status, Chip.killCaravan_wf, Res.Keeps]

/-! ### Expert dispatch -/

theorem execXgate_wf {d a b : BitVec 5} : NextWf (execXgate d a b s) := by
  refine State.drives_wf h fun dr => unlessStall_keeps <| unlessStall_keeps <| Drover.read2_bind_keeps fun x y dr1 => ?_
  grind [Drover.status, State.block, Chip.readBlock_wf, Chip.dropFar_homes, Got.Wf, Chip.onXde_homes, Res.Keeps]

theorem execXtopk_wf {d a b : BitVec 5} : NextWf (execXtopk d a b s) := by
  refine State.drives_wf h fun dr => ?_
  cases dr.hold with
  | result w => exact Drover.read2_bind_keeps fun _ _ _ => h
  | waiting => trivial
  | _ =>
    exact State.xdeCommand_commands h fun mb blk dr1 c hc => ite_keeps hc <| ite_keeps hc <| Chip.withDone_commands hc fun w => hc

theorem execXbin_wf {d a b : BitVec 5} : NextWf (execXbin d a b s) := by
  refine State.drives_wf h fun dr => State.xdeCommand_commands h fun mb blk dr1 c hc => ?_
  grind [Drover.status, Chip.withDone, Chip.readBlock_wf, Chip.addWork_wf, Chip.dropFar_homes, Got.Wf, Res.Keeps]

theorem execXsend_wf {d a b : BitVec 5} : NextWf (execXsend d a b s) := by
  refine State.drives_wf h fun dr => State.xdeCommand_commands h fun mb blk dr1 c hc => ite_keeps hc <| ite_keeps hc <|
    Chip.withDone_commands hc fun w => ?_
  have hread (u va n : Nat) (d : Drover) := Chip.readBlock_wf (agent := xdeAgent u) (u := u) (d := d) (va := va) (n := n) hc
  split
  · exact hc
  · split
    · next e => exact (hread ..).of_wait e
    · exact hc
    · next e =>
      have hread := (hread ..).of_ok e
      exact ite_keeps hread hread

theorem execXrecv_wf {d a b : BitVec 5} : NextWf (execXrecv d a b s) := by
  refine State.drives_wf h fun dr => State.xdeCommand_commands h fun mb blk dr1 c hc => ite_keeps hc <| ite_keeps hc <|
    Chip.withDone_commands hc fun w => ite_keeps hc <| ite_keeps hc <| ite_keeps hc ?_
  have hread (u va n : Nat) (d : Drover) := Chip.readBlock_wf (agent := xdeAgent u) (u := u) (d := d) (va := va) (n := n) hc
  split
  · next e => exact (hread ..).of_wait e
  · exact Chip.writeDone_wf hc
  · next e =>
    have hread := (hread ..).of_ok e
    exact ite_keeps hread hread

theorem execXbias_wf {d a b : BitVec 5} : NextWf (execXbias d a b s) := by
  refine State.drives_wf h fun dr => State.xdeCommand_commands h fun mb blk dr1 c hc => ?_
  grind [Drover.status, Chip.withDone, Chip.addWork_wf, Res.Keeps]

theorem execXstat_wf {d a : BitVec 5} : NextWf (execXstat d a s) := by
  refine State.drives_wf h fun dr => unlessStall_keeps <| unlessStall_keeps <| Drover.readX_bind_keeps fun x dr1 => ?_
  grind [Res.bind, Drover.status, Res.Keeps]

/-! ### Two-word instructions -/

theorem execLiw_wf {d : BitVec 5} {i : BitVec 32} : NextWf (execLiw d i s) := State.op0_wf h

theorem execLih_wf {d : BitVec 5} {i : BitVec 32} : NextWf (execLih d i s) := State.op1_wf h

theorem execAmocCas_wf {d a b : BitVec 5} {sc : BitVec 3} {o : BitVec 2} {t : BitVec 10} {g : BitVec 22} :
    NextWf (execAmocCas d a b sc o t g s) :=
  State.casLike_wf h

theorem execAmocDecz_wf {d a : BitVec 5} {sc : BitVec 3} {o : BitVec 2} {t : BitVec 10} {g : BitVec 22} :
    NextWf (execAmocDecz d a sc o t g s) :=
  State.drove_wf h fun _ => unlessStall_keeps <| unlessStall_keeps <| Drover.readX_bind_keeps fun _ _ => State.memory_keeps h

theorem execAmocAddge_wf {d a b : BitVec 5} {sc : BitVec 3} {o : BitVec 2} {t : BitVec 10} {g : BitVec 22} :
    NextWf (execAmocAddge d a b sc o t g s) :=
  State.drove_wf h fun _ => unlessStall_keeps <| unlessStall_keeps <| Drover.read2_bind_keeps fun _ _ _ => State.memory_keeps h

/-! ### Events of the memory hierarchy -/

theorem execDrainWrite_wf {u q : Nat} : NextWf (execDrainWrite u q s) := by
  refine State.withAcc_wf h fun c cycle d a hc => ?_
  grind [Chip.sendAccess_wf]

theorem execForward_wf {u q : Nat} : NextWf (execForward u q s) := by
  refine State.withAcc_wf h fun c cycle d a hc => ?_
  grind [Chip.setDrover]

theorem execHit_wf {u q : Nat} : NextWf (execHit u q s) := by
  refine State.withAcc_wf h fun c cycle d a hc => ?_
  grind [Chip.setDrover]

theorem execSendRead_wf {u q : Nat} : NextWf (execSendRead u q s) := by
  refine State.withAcc_wf h fun c cycle d a hc => ?_
  grind [Chip.sendAccess_wf]

theorem execOrderPoint_wf {u q : Nat} : NextWf (execOrderPoint u q s) := by
  refine State.withAcc_wf h fun c cycle d a hc => ?_
  grind [Chip.setDrover, Chip.raceCheck_wf, Chip.takeRace_wf, Chip.performAcc_wf]

theorem execHomeAmo_wf {u q : Nat} : NextWf (execHomeAmo u q s) := by
  refine State.withAcc_wf h fun c cycle d a hc => ?_
  grind [Chip.performNoted_wf]

theorem execHomeRed_wf {u q : Nat} : NextWf (execHomeRed u q s) := by
  refine State.withAcc_wf h fun c cycle d a hc => ?_
  grind [Chip.performNoted_wf, Chip.noteJoined_wf]

theorem execHomeContinuation_wf {u q : Nat} : NextWf (execHomeContinuation u q s) := by
  refine State.withAcc_wf h fun c cycle d a hc => ?_
  grind [Chip.continuation_wf, Chip.setDrover, Chip.noteCont_wf, Chip.release_wf]

theorem execHomeFullEmpty_wf {u q : Nat} : NextWf (execHomeFullEmpty u q s) := by
  refine State.withAcc_wf h fun c cycle d a hc => ?_
  grind [Chip.fullEmpty_wf]

theorem execComplete_wf {u q : Nat} : NextWf (execComplete u q s) := by
  refine State.withAcc_wf h fun c cycle d a hc => ?_
  grind [Chip.setDrover, Chip.logLate_wf, Chip.reached_wf]

theorem execJunction_wf {u q u2 q2 : Nat} : NextWf (execJunction u q u2 q2 s) := by
  refine State.withAcc_wf h fun c cycle d a hc => ?_
  grind [Chip.onDrover_homes]

theorem execRemoteCacheFill_wf {die : BitVec 3} {u q : Nat} : NextWf (execRemoteCacheFill die u q s) := by
  refine State.withAcc_wf h fun c cycle d a hc => ?_
  grind [Chip.setDrover, Chip.remoteKeep_wf, Chip.performAcc_wf]

theorem execRemoteCacheEvict_wf {die : BitVec 3} {line : Nat} : NextWf (execRemoteCacheEvict die line s) := by
  refine State.eventStep_wf h fun c cycle hc => ?_
  grind [Chip.onHomes]

theorem execRemoteCacheInvalidate_wf {die : BitVec 3} {line : Nat} : NextWf (execRemoteCacheInvalidate die line s) := by
  refine State.eventStep_wf h fun c cycle hc => ?_
  grind [Chip.onHomes]

theorem execTranslationWalk_wf {u : Nat} {va : BitVec 64} : NextWf (execTranslationWalk u va s) := by
  refine State.eventStep_wf h fun c cycle hc => ?_
  grind [Chip.walkLost_wf, Chip.walkFound_wf, Chip.logEntry_wf]

theorem execInboxMapWrite_wf {u q : Nat} : NextWf (execInboxMapWrite u q s) := by
  refine State.withAcc_wf h fun c cycle d a hc => ?_
  grind [Chip.setDrover, Chip.mapWrite_wf]

theorem execMailboxPush_wf {u q : Nat} : NextWf (execMailboxPush u q s) := by
  refine State.withAcc_wf h fun c cycle d a hc => ?_
  grind [Chip.dropPush_wf, Chip.onHomes, Chip.setDrover, Chip.onDrover_homes, Chip.reached_wf]

theorem execPeerQueueTransfer_wf {u : Nat} {peer : BitVec 4} : NextWf (execPeerQueueTransfer u peer s) := by
  refine State.eventStep_wf h fun c cycle hc => ?_
  grind [Chip.onDrover_homes, Chip.reached_wf]

theorem execInvalidatePage_wf {u q : Nat} : NextWf (execInvalidatePage u q s) := by
  refine State.withAcc_wf h fun c cycle d a hc => ?_
  grind [Chip.acceptInval_wf]

theorem execInvalidateExpedition_wf {u q : Nat} : NextWf (execInvalidateExpedition u q s) := by
  refine State.withAcc_wf h fun c cycle d a hc => ?_
  grind [Chip.acceptInval_wf]

theorem execInvalidateAll_wf {u q : Nat} : NextWf (execInvalidateAll u q s) := by
  refine State.withAcc_wf h fun c cycle d a hc => ?_
  grind [Chip.acceptInval_wf]

theorem execInvalidationPerformed_wf : NextWf (execInvalidationPerformed s) := by
  refine State.eventStep_wf h fun c cycle hc => ?_
  grind [Chip.onDrover_homes, Chip.onHomes, Chip.dropLeaves_homes]

/-! ### Events of groups and collectives -/

theorem execGroupArrival_wf {u q : Nat} : NextWf (execGroupArrival u q s) := by
  refine State.eventStep_wf h fun c cycle hc => ?_
  split
  · exact hc
  · split
    · exact hc
    · split
      · split
        · exact hc
        · grind [Chip.setDrover, Chip.arriveFreed_wf, Chip.setGroup_homes, Chip.onDrover_homes, Chip.evalPhase_wf]
      · exact hc

theorem execGroupDeparture_wf {u : Nat} {m : BitVec 2} : NextWf (execGroupDeparture u m s) := by
  refine State.eventStep_wf h fun c cycle hc => ?_
  grind [Chip.onTask_homes, Chip.setGroup_homes, Chip.evalPhase_wf]

theorem execCollectiveCombine_wf {e : Nat} {g : BitVec 8} : NextWf (execCollectiveCombine e g s) := by
  refine State.eventStep_wf h fun c cycle hc => ?_
  have hread (l : List Contribution) := Chip.collRead_wf l hc
  have hdrop (l : List Contribution) {c : Chip} (hc : c.Wf) : (l.foldl (fun (c : Chip) x => c.dropFar (blockAgent x.u)) c).Wf :=
    foldl_wf _ (fun _ _ h => h) hc
  have hwrite (l : List Contribution) (out : List (Nat × List Byte)) {c : Chip} (hc : c.Wf) : (l.foldl (fun c x =>
      match c.drover? x.u with
      | none => c
      | some d => out.foldl (fun c p => (c.writeBlock x.u d (field x.param 24 8 + p.1) p.2).1) c) c).Wf := by
    refine foldl_wf _ (fun c x h => ?_) hc
    split
    · exact h
    · exact foldl_wf _ (fun _ _ h => Chip.writeBlock_wf h) h
  dsimp only
  split
  · exact hc
  · split
    · exact hc
    · split
      · exact Chip.collAnswer_wf hc
      · split
        · exact Chip.collAnswer_wf hc
        · split
          · split
            · exact hc
            · exact Chip.collEnd_wf hc
          · split
            · exact hc
            · split
              · next e => exact (hread _).of_wait e
              · exact Chip.collAnswer_wf hc
              · next e =>
                split
                · exact hwrite _ _ (hdrop _ ((hread _).of_ok e))
                · exact Chip.collEnd_wf (hwrite _ _ (hdrop _ ((hread _).of_ok e)))

/-! ### Events of porters and copies -/

theorem execOffsetsRead_wf {n : BitVec 12} {p : BitVec 3} : NextWf (execOffsetsRead n p s) := by
  refine State.engineStep_wf h fun c cycle u d v hc => ?_
  grind [Chip.sideEntry_wf, Chip.sideFault_homes, Chip.onSerai_homes, SideRes.Wf]

theorem execGatherEntryRead_wf {n : BitVec 12} {p : BitVec 3} : NextWf (execGatherEntryRead n p s) := by
  refine State.engineStep_wf h fun c cycle u d v hc => ?_
  grind [Chip.onSerai_homes, Chip.sideEntry_wf, Chip.sideFault_homes, SideRes.Wf]

theorem execPorterRead_wf {n : BitVec 12} {p : BitVec 3} : NextWf (execPorterRead n p s) := by
  refine State.engineStep_wf h fun c cycle u d v hc => ?_
  grind [Chip.onSerai_homes, Walk.readAhead_wf, Pull.run_wf, Chip.streamRace_homes]

theorem execPorterWrite_wf {n : BitVec 12} {p : BitVec 3} : NextWf (execPorterWrite n p s) := by
  refine State.engineStep_wf h fun c cycle u d v hc => ?_
  grind [Chip.performChunk_wf, Chip.porterFault_homes, Chip.onSerai_homes, Chip.consume_wf]

theorem execStreamDrained_wf {n : BitVec 12} {p : BitVec 3} : NextWf (execStreamDrained n p s) := by
  refine State.eventStep_wf h fun c cycle hc => ?_
  grind [Chip.onSerai_homes]

theorem execCopyMove_wf {n : BitVec 12} {ch : BitVec 1} : NextWf (execCopyMove n ch s) := by
  refine State.engineStep_wf h fun c cycle u d v hc => ?_
  split
  · exact hc
  · next j _ _ =>
    dsimp only
    split
    · exact hc
    · split
      · split
        · exact Walk.readAhead_wf hc
        · exact hc
      · split
        · split
          · exact hc
          · split
            · rw [Chip.Wf, Chip.setJob_homes, Chip.streamRace_homes]
              exact Chip.performChunk_wf hc
            · exact Chip.performChunk_wf hc
        · split
          · exact hc
          · split
            · exact hc
            · split
              · split
                · exact hc
                · next e => exact Chip.copyConsume_wf hc (hc.of_copyTake e)
              · split
                · next e => exact Chip.copyDeliver_wf hc e
                · split
                  · split
                    · exact hc
                    · exact Chip.copyPulled_wf (Pull.run_wf _ _ hc)
                  · split
                    · exact hc
                    · split
                      · exact hc
                      · next e => have htake := hc.of_copyTake e; exact htake

theorem execCopyComplete_wf {n : BitVec 12} {ch : BitVec 1} : NextWf (execCopyComplete n ch s) := by
  refine State.engineStep_wf h fun c cycle u d v hc => ?_
  grind [Chip.takeFree_homes, Chip.onSerai_homes, Chip.logLate_wf, Chip.reached_wf, Chip.setDrover]

theorem execWritePacketSend_wf {n : BitVec 12} {i : Nat} : NextWf (execWritePacketSend n i s) := by
  refine State.engineStep_wf h fun c cycle u d v hc => ?_
  grind [Chip.sendBlocks_homes, Chip.onSerai_homes, Chip.porterFault_homes, Chip.setJob_homes]

/-! ### Events of pages -/

theorem execCellDataFiring_wf {n : BitVec 12} {q : BitVec 2} {i : BitVec 6} : NextWf (execCellDataFiring n q i s) := by
  refine State.cellStep_wf h fun c cycle u pg g hc => ?_
  grind [Chip.setPage_homes, Chip.cimStep_wf, Chip.fire_wf]

theorem execCellMarkStep_wf {n : BitVec 12} {q : BitVec 2} {i : BitVec 6} : NextWf (execCellMarkStep n q i s) := by
  refine State.cellStep_wf h fun c cycle u pg g hc => ?_
  grind [Chip.cimStep_wf, Chip.fire_wf]

theorem execCellScaleStep_wf {n : BitVec 12} {q : BitVec 2} {i : BitVec 6} : NextWf (execCellScaleStep n q i s) := by
  refine State.cellStep_wf h fun c cycle u pg g hc => ?_
  grind [Chip.sideStep_wf]

theorem execCellDirectiveStep_wf {n : BitVec 12} {q : BitVec 2} {i : BitVec 6} : NextWf (execCellDirectiveStep n q i s) := by
  refine State.cellStep_wf h fun c cycle u pg g hc => ?_
  grind [Chip.sideStep_wf]

theorem execCellEmitNext_wf {n : BitVec 12} {q : BitVec 2} {i : BitVec 6} : NextWf (execCellEmitNext n q i s) := by
  refine State.cellStep_wf h fun c cycle u pg g hc => ?_
  grind [Chip.setPage_homes]

theorem execOutputMove_wf {n : BitVec 12} {q : BitVec 2} {i : BitVec 6} {xv : BitVec 1} :
    NextWf (execOutputMove n q i xv s) := by
  refine State.pageStep_wf h fun c cycle u pg g hc => ?_
  grind [Chip.setPage_homes]

theorem execVeinHop_wf {n : BitVec 12} {q : BitVec 2} {i : BitVec 6} {d : BitVec 2} : NextWf (execVeinHop n q i d s) := by
  refine State.pageStep_wf h fun c cycle u pg g hc => ?_
  grind [Chip.setPage_homes]

theorem execRoute_wf {n : BitVec 12} {q : BitVec 2} {i : BitVec 6} {d : BitVec 2} : NextWf (execRoute n q i d s) := by
  refine State.pageStep_wf h fun c cycle u pg g hc => ?_
  grind [Chip.setPage_homes]

theorem execFork_wf {n : BitVec 12} {q : BitVec 2} {i : BitVec 6} : NextWf (execFork n q i s) := State.routerStep_wf h

theorem execSteer_wf {n : BitVec 12} {q : BitVec 2} {i : BitVec 6} : NextWf (execSteer n q i s) := State.routerStep_wf h

theorem execMerge_wf {n : BitVec 12} {q : BitVec 2} {i : BitVec 6} : NextWf (execMerge n q i s) := State.routerStep_wf h

theorem execCarry_wf {n : BitVec 12} {q : BitVec 2} {i : BitVec 6} : NextWf (execCarry n q i s) := State.routerStep_wf h

theorem execInv_wf {n : BitVec 12} {q : BitVec 2} {i : BitVec 6} : NextWf (execInv n q i s) := State.routerStep_wf h

theorem execAccUpdate_wf {n : BitVec 12} {q : BitVec 2} {i : BitVec 6} : NextWf (execAccUpdate n q i s) := by
  refine State.cellStep_wf h fun c cycle u pg g hc => ?_
  grind [Chip.fire_wf]

theorem execWaveOrderPerform_wf {n : BitVec 12} {q : BitVec 2} {k : Nat} : NextWf (execWaveOrderPerform n q k s) := by
  refine State.pageStep_wf h fun c cycle u pg g hc => ?_
  grind [Chip.rowOp_wf, Chip.gatherOp_wf, Chip.setPage_homes, MemDone.Wf]

theorem execBankPortAccess_wf {u q : Nat} : NextWf (execBankPortAccess u q s) := by
  refine State.withAcc_wf h fun c cycle d a hc => ?_
  grind [Chip.bankAccess_wf]

theorem execFiringAdmit_wf {n : BitVec 12} {q : BitVec 2} : NextWf (execFiringAdmit n q s) := by
  refine State.engineStep_wf h fun c cycle u d v hc => ?_
  grind [Chip.setPage_homes]

theorem execPagerClose_wf {n : BitVec 12} : NextWf (execPagerClose n s) := by
  refine State.engineStep_wf h fun c cycle u d v hc => ?_
  grind [Chip.onSerai_homes]

theorem execPagerCloseTimeout_wf {n : BitVec 12} : NextWf (execPagerCloseTimeout n s) := by
  refine State.engineStep_wf h fun c cycle u d v hc => ?_
  grind [Chip.onSerai_homes]

theorem execPagerSave_wf {n : BitVec 12} : NextWf (execPagerSave n s) := by
  refine State.engineStep_wf h fun c cycle u d v hc => ?_
  grind [Chip.onSerai_homes]

theorem execPagerLoad_wf {n : BitVec 12} : NextWf (execPagerLoad n s) := by
  refine State.engineStep_wf h fun c cycle u d v hc => ?_
  grind [Chip.onSerai_homes]

theorem execPagerOpen_wf {n : BitVec 12} : NextWf (execPagerOpen n s) := by
  refine State.engineStep_wf h fun c cycle u d v hc => ?_
  grind [Chip.onSerai_homes]

theorem execPageIdleExpiry_wf {n : BitVec 12} {g : BitVec 8} : NextWf (execPageIdleExpiry n g s) := by
  refine State.engineStep_wf h fun c cycle u d v hc => ?_
  grind [Chip.onSerai_homes]

theorem execPagerExclusionExpiry_wf {n : BitVec 12} {g : BitVec 8} : NextWf (execPagerExclusionExpiry n g s) := by
  refine State.engineStep_wf h fun c cycle u d v hc => ?_
  grind [Chip.onSerai_homes]

/-! ### Events of sequencers -/

theorem execParseStep_wf {n : BitVec 12} {g : BitVec 2} : NextWf (execParseStep n g s) := State.sequence_wf h

theorem execContextForward_wf {n : BitVec 12} {g : BitVec 2} : NextWf (execContextForward n g s) := by
  refine State.engineStep_wf h fun c cycle u d v hc => ?_
  grind [Chip.ctxDeliver_wf, Chip.onSerai_homes]

theorem execSkip_wf {n : BitVec 12} {g : BitVec 2} : NextWf (execSkip n g s) := State.sequence_wf h

theorem execRecoveryPop_wf {n : BitVec 12} {g : BitVec 2} : NextWf (execRecoveryPop n g s) := State.sequence_wf h

theorem execInject_wf {n : BitVec 12} {g : BitVec 2} : NextWf (execInject n g s) := by
  refine State.engineStep_wf h fun c cycle u d v hc => ?_
  grind [Chip.injectFails_wf, Chip.onSerai_homes]

theorem execPost_wf {n : BitVec 12} {g : BitVec 2} : NextWf (execPost n g s) := by
  refine State.engineStep_wf h fun c cycle u d v hc => ?_
  grind [Chip.onSerai_homes, Chip.setDrover, Chip.reached_wf]

theorem execCommand_wf {n : BitVec 12} {g : BitVec 2} : NextWf (execCommand n g s) := by
  refine State.engineStep_wf h fun c cycle u d v hc => ?_
  grind [Chip.onSerai_homes, Chip.readBlock_wf, Chip.openStream_wf, Chip.dropFar_homes, Chip.acceptCopy_wf, Got.Wf, CopyRes.Wf]

theorem execTrapAction_wf {n : BitVec 12} {g : BitVec 2} : NextWf (execTrapAction n g s) := by
  refine State.engineStep_wf h fun c cycle u d v hc => ?_
  grind [Chip.raiseAsync_homes, Chip.onSerai_homes]

/-! ### Events of the scheduler -/

theorem execLaunchDelivery_wf {sl : BitVec 9} {e : Nat} : NextWf (execLaunchDelivery sl e s) := by
  refine State.eventStep_wf h fun c cycle hc => ?_
  grind [Chip.deliverLaunch_wf, Chip.onHomes, Chip.refillLaunch_wf]

theorem execWatchRegister_wf {cv : Nat} {i : BitVec 2} : NextWf (execWatchRegister cv i s) := by
  refine State.eventStep_wf h fun c cycle hc => ?_
  grind [Chip.registerWatch_wf]

theorem execYieldThreshold_wf {cv : Nat} : NextWf (execYieldThreshold cv s) := by
  refine State.eventStep_wf h fun c cycle hc => ?_
  grind [Chip.onCaravan_homes]

theorem execDispatch_wf {die : BitVec 3} : NextWf (execDispatch die s) := by
  refine State.eventStep_wf h fun c cycle hc => ?_
  have hover (v : Option Caravan) : (c.passOver die.toNat cycle v).Wf := by rwa [Chip.Wf, Chip.passOver_homes]
  dsimp only
  split
  · exact Chip.teamDead_wf hc
  · split
    · exact hc
    · split
      · split
        · exact hc
        · exact hover _
      · split
        · exact hc
        · split
          · exact foldl_wf _ (fun _ _ => Chip.placeMember_wf) ((congrArg Homes.Wf (Chip.setMembers_homes ..)).mpr hc)
          · exact foldl_wf _ (fun _ _ => Chip.placeMember_wf) ((congrArg Homes.Wf (Chip.setMembers_homes ..)).mpr (hover _))

theorem execReserving_wf {die : BitVec 3} : NextWf (execReserving die s) := by
  refine State.eventStep_wf h fun c cycle hc => ?_
  grind [Chip.onBazaar_homes]

theorem execAging_wf {cv : Nat} : NextWf (execAging cv s) := by
  refine State.eventStep_wf h fun c cycle hc => ?_
  grind [Chip.onCaravan_homes]

theorem execSpillRefill_wf {die : BitVec 3} {e : Nat} : NextWf (execSpillRefill die e s) := by
  refine State.eventStep_wf h fun c cycle hc => ?_
  grind [Chip.refillLaunch_wf, Chip.spillFreed_homes, Chip.onCaravan_homes]

theorem execAdvertise_wf {die : BitVec 3} : NextWf (execAdvertise die s) := by
  refine State.eventStep_wf h fun c cycle hc => ?_
  grind [Chip.onBazaar_homes, Chip.onSched_homes]

theorem execMigrationSend_wf {die : BitVec 3} : NextWf (execMigrationSend die s) := by
  refine State.eventStep_wf h fun c cycle hc => ?_
  grind [Chip.onBazaar_homes, Chip.onCaravan_homes]

theorem execMigrationReceive_wf {die : BitVec 3} : NextWf (execMigrationReceive die s) := by
  refine State.eventStep_wf h fun c cycle hc => ?_
  grind [Chip.onBazaar_homes, Chip.onCaravan_homes, Chip.writeSpill_wf]

theorem execModuleAdvertise_wf {dev : BitVec 9} : NextWf (execModuleAdvertise dev s) := by
  refine State.eventStep_wf h fun c cycle hc => ?_
  grind [Chip.send_homes, Chip.onSched_homes]

theorem execModuleMigration_wf {die : BitVec 3} {dev : BitVec 9} : NextWf (execModuleMigration die dev s) := by
  refine State.eventStep_wf h fun c cycle hc => ?_
  grind [Chip.send_homes, Chip.onBazaar_homes, Chip.onCaravan_homes]

theorem execDeadlockPreempt_wf {die : BitVec 3} {e : Nat} : NextWf (execDeadlockPreempt die e s) := by
  refine State.eventStep_wf h fun c cycle hc => ?_
  grind [Chip.onBazaar_homes, Chip.onCaravan_homes]

/-! ### Saving and restoring -/

theorem execSaveWalk_wf {u : Nat} : NextWf (execSaveWalk u s) := by
  refine State.eventStep_wf h fun c cycle hc => ?_
  split
  · split
    · split
      · exact hc
      · split
        · exact hc
        · extract_lets fail
          have hfail {c : Chip} {slot why : Nat} (hc : c.Wf) : (fail c slot why).Wf := by
            refine Chip.saveRecord_wf ?_
            split
            · exact hc
            · exact Chip.refuseSave_wf hc
          split
          · next e =>
            have hread := (Chip.readBlock_wf hc).of_wait e
            split
            · exact hread
            · exact hfail hread
          · exact hfail hc
          · next table c1 e =>
            have hc1 := (Chip.readBlock_wf hc).of_ok e
            have hread : (c1.dropFar (blockAgent u)).Wf := hc1
            dsimp only
            split
            · exact hfail hread
            · split
              · next e => exact (Chip.slotWalk_wf _ hread).of_wait e
              · exact hfail hread
              · next e => exact Chip.writeBlock_wf ((Chip.slotWalk_wf _ hread).of_ok e)
    · exact hc
  · exact hc

theorem execGating_wf {u : Nat} : NextWf (execGating u s) := by
  refine State.eventStep_wf h fun c cycle hc => ?_
  grind [Chip.setDrover, Chip.storeBlock_wf, Chip.onSched_homes, Chip.saveFault_wf]

theorem execSaveCommit_wf {u : Nat} : NextWf (execSaveCommit u s) := by
  refine State.eventStep_wf h fun c cycle hc => ?_
  split
  · split
    · refine ite_wf hc ?_
      have hfree : ({ c with free := c.free + 1 } : Chip).Wf := hc
      dsimp only
      split
      · next e => exact Chip.saveFault_wf ((Chip.storeBlock_wf hfree).of_fst e)
      · next e =>
        have hbody := (Chip.storeBlock_wf hfree).of_fst e
        split
        · next e => exact Chip.saveFault_wf (Chip.Wf.of_fst (by split; exacts [Chip.writeBanks_wf _ hbody, hbody]) e)
        · next e =>
          have hbanks := Chip.Wf.of_fst (by split; exacts [Chip.writeBanks_wf _ hbody, hbody]) e
          split
          · next e => exact Chip.saveFault_wf ((Chip.storeBlock_wf hbanks).of_fst e)
          · next e =>
            have hhead := (Chip.storeBlock_wf hbanks).of_fst e
            refine Chip.fenceNext_wf (Chip.savedCaravan_wf ?_)
            split
            · exact Chip.freeSlot_wf hhead
            · exact hhead
    · exact hc
  · exact hc

theorem execRestore_wf {u : Nat} : NextWf (execRestore u s) := by
  refine State.eventStep_wf h fun c cycle hc => ?_
  split
  · split
    · extract_lets own full waiting
      refine ite_wf hc ?_
      split
      · exact hc
      · next e => exact (Chip.badImage_wf _ hc).of_wait e
      · next e =>
        have himage := (Chip.badImage_wf _ hc).of_ok e
        exact ite_wf (Chip.saveRecord_wf (Chip.refuseRestore_wf himage)) himage
      · next e =>
        have himage := (Chip.badImage_wf _ hc).of_ok e
        have hread {va k : Nat} {d : Drover} {c : Chip} (hc : c.Wf) :
            ((c.goodImage u).bind fun b c => (c.banksHere u d va k).bind fun _ c => .ok b c).Wf :=
          Got.bind_wf (Chip.goodImage_wf hc) fun _ _ h => Got.bind_wf (Chip.banksHere_wf _ h) fun _ _ h => h
        split
        · exact himage
        · next e => exact (hread himage).of_wait e
        · next e =>
          have hbanks := (hread himage).of_ok e
          exact ite_wf (Chip.readBanks_wf _ (Homes.clearBanks_wf _ hbanks)) hbanks
    · exact hc
  · exact hc

theorem execHeldBankWriteout_wf {n : BitVec 12} : NextWf (execHeldBankWriteout n s) := by
  obtain ⟨slotWalk, hslot⟩ : ∃ f, f = Chip.slotWalk := ⟨_, rfl⟩
  obtain ⟨writeBanks, hwrite⟩ : ∃ f, f = Chip.writeBanks := ⟨_, rfl⟩
  have hwalk := @Chip.slotWalk_wf
  have hbanks := @Chip.writeBanks_wf
  unfold execHeldBankWriteout
  rw [← hslot] at hwalk ⊢
  rw [← hwrite] at hbanks ⊢
  refine State.eventStep_wf h fun c cycle hc => ?_
  dsimp only
  split
  · exact hc
  · split
    · split
      · refine ite_wf hc ?_
        split
        · next e => exact (hwalk _ hc).of_wait e
        · exact Chip.saveRecord_wf hc
        · next e =>
          have hc := (hwalk _ hc).of_ok e
          split
          · next e => exact (Chip.goodImage_wf hc).of_wait e
          · exact Chip.saveRecord_wf hc
          · next e =>
            have hc := (Chip.goodImage_wf hc).of_ok e
            split
            · next e => exact Chip.saveRecord_wf ((hbanks _ hc).of_fst e)
            · next e =>
              have hc := (hbanks _ hc).of_fst e
              split
              · next e => exact Chip.saveRecord_wf ((Chip.storeBlock_wf hc).of_fst e)
              · next e =>
                have hstore := (Chip.storeBlock_wf hc).of_fst e
                exact hstore
      · exact hc
    · exact hc

/-! ### Traps and errors -/

theorem execTrapDelivery_wf {u : Nat} : NextWf (execTrapDelivery u s) := by
  refine State.eventStep_wf h fun c cycle hc => ?_
  grind [Chip.emptySteward_wf, Chip.setDrover, Chip.raiseRecord_wf, Chip.nextSeq_homes, Chip.deliverRecord_wf]

theorem execRecordTake_wf {k : BitVec 4} : NextWf (execRecordTake k s) := by
  refine State.eventStep_wf h fun c cycle hc => ?_
  grind [Chip.setDrover, Chip.flushRecords_wf, Chip.onTraps_homes]

theorem execAge_wf {n : BitVec 12} {edge : Nat} : NextWf (execAge n edge s) := State.ageTrap_wf h

theorem execWaitlong_wf {n : BitVec 12} {edge : Nat} : NextWf (execWaitlong n edge s) := State.ageTrap_wf h

theorem execEccError_wf {site : EccSite} : NextWf (execEccError site s) := by
  refine State.eventStep_wf h fun c cycle hc => ?_
  grind [Chip.toTest_wf, Chip.numbered_homes, Chip.onMgmt_homes, Chip.onHomes, Homes.setBad_mem, Homes.setBadTag_wf,
    Chip.controlError_wf]

theorem execSelfTest_wf {site : TestUnit} {pass : Bool} : NextWf (execSelfTest site pass s) := by
  refine State.eventStep_wf h fun c cycle hc => ?_
  grind [Chip.numbered_homes, Chip.onHomes, Chip.testFailed_wf]

theorem execExpeditionEnd_wf {e : Nat} : NextWf (execExpeditionEnd e s) := by
  refine State.eventStep_wf h fun c cycle hc => ?_
  grind [Chip.onXde_homes, Chip.onSched_homes, Chip.completion_wf]

/-! ### Events of links and packets -/

theorem execFlitSend_wf {link : BitVec 5} : NextWf (execFlitSend link s) := by
  refine State.eventStep_wf h fun c cycle hc => ?_
  grind [Chip.onLink_homes]

theorem execDataFlitReceive_wf {link : BitVec 5} {flit : List (BitVec 8)} : NextWf (execDataFlitReceive link flit s) := by
  refine State.eventStep_wf h fun c cycle hc => ?_
  grind [Chip.receiveFlit_wf]

theorem execNak_wf {link : BitVec 5} {flit : List (BitVec 8)} : NextWf (execNak link flit s) := by
  refine State.eventStep_wf h fun c cycle hc => ?_
  grind [Chip.receiveFlit_wf]

theorem execIdle_wf {link : BitVec 5} : NextWf (execIdle link s) := by
  refine State.eventStep_wf h fun c cycle hc => ?_
  grind [Chip.onLink_homes]

theorem execNakTimeout_wf {link : BitVec 5} : NextWf (execNakTimeout link s) := by
  refine State.eventStep_wf h fun c cycle hc => ?_
  grind [Chip.onLink_homes]

theorem execReplayTimeout_wf {link : BitVec 5} : NextWf (execReplayTimeout link s) := by
  refine State.eventStep_wf h fun c cycle hc => ?_
  grind [Chip.onLink_homes]

theorem execLossOfLock_wf {link : BitVec 5} {lanes : BitVec 16} : NextWf (execLossOfLock link lanes s) := by
  refine State.eventStep_wf h fun c cycle hc => ?_
  grind [Chip.onLink_homes]

theorem execRetrainComplete_wf {link : BitVec 5} {good : BitVec 16} {ack : Option (BitVec 12)} :
    NextWf (execRetrainComplete link good ack s) := by
  refine State.eventStep_wf h fun c cycle hc => ?_
  grind [Chip.removeLanes_wf, Chip.onLink_homes, Chip.linkDown_wf]

theorem execPacketForward_wf {link : BitVec 5} : NextWf (execPacketForward link s) := by
  refine State.eventStep_wf h fun c cycle hc => ?_
  grind [Chip.dropLane_homes, Chip.queuePacket_homes, Chip.countLinkErr_wf, Chip.send_homes]

theorem execReadPacket_wf {link : BitVec 5} : NextWf (execReadPacket link s) := by
  refine State.packetStep_wf h fun c cycle p hc => ?_
  grind [Chip.answerRemote_homes]

theorem execWritePacket_wf {link : BitVec 5} : NextWf (execWritePacket link s) := by
  refine State.packetStep_wf h fun c cycle p hc => ?_
  dsimp only
  split
  · rwa [Chip.Wf, Chip.answerRemote_homes]
  · rw [Chip.Wf, Chip.answerRemote_homes]
    exact foldl_wf _ (fun _ _ => Chip.remoteChunk_wf) hc

theorem execReadData_wf {link : BitVec 5} : NextWf (execReadData link s) := by
  refine State.packetStep_wf h fun c cycle p hc => ?_
  grind [Chip.answered_wf, Chip.failAccessAs_wf, Chip.onDrover_homes]

theorem execAtomicPacket_wf {link : BitVec 5} : NextWf (execAtomicPacket link s) := by
  refine State.packetStep_wf h fun c cycle p hc => ?_
  grind [Chip.answerRemote_homes, Chip.endedAway_wf, Chip.killedAway_wf, Chip.onHomes, Homes.putTags_mem, Chip.remoteCont_wf,
    Homes.perform_wf, Chip.serve_wf]

theorem execAtomicResult_wf {link : BitVec 5} : NextWf (execAtomicResult link s) := by
  refine State.packetStep_wf h fun c cycle p hc => ?_
  grind [Chip.answered_wf, Chip.failAccessAs_wf, Chip.exhausted_wf, Chip.launchLost_wf, Chip.setDrover, Chip.probeAnswered_wf,
    Chip.watchRefused_wf, Chip.watchDone_wf]

theorem execWriteDone_wf {link : BitVec 5} : NextWf (execWriteDone link s) := by
  refine State.packetStep_wf h fun c cycle p hc => ?_
  grind [Chip.answered_wf, Chip.failAccessAs_wf, Chip.onDrover_homes, Chip.porterAnswered_wf, Chip.copyAnswered_wf]

/-! ### Events of expert dispatch -/

theorem execRoundOpen_wf {die : BitVec 3} : NextWf (execRoundOpen die s) := by
  refine State.eventStep_wf h fun c cycle hc => ?_
  grind [Chip.onDrover_homes, Chip.onEngines_homes]

theorem execGateMerge_wf : NextWf (execGateMerge s) := by
  refine State.eventStep_wf h fun c cycle hc => ?_
  grind [Chip.finishRound_wf, Chip.mergeList_wf]

theorem execXsendRowSend_wf {die : BitVec 3} : NextWf (execXsendRowSend die s) := by
  refine State.eventStep_wf h fun c cycle hc => ?_
  grind [Chip.readBlock_wf, Chip.setWork_wf, Chip.sendCopy_wf, Chip.nextCopy_wf, Got.Wf]

theorem execXdeRow_wf : NextWf (execXdeRow s) := by
  refine State.eventStep_wf h fun c cycle hc => ?_
  grind [Chip.onXde_homes, Chip.dropLane_homes, Chip.ship_homes, Chip.admitRow_wf, Chip.setSession_wf, Chip.dropFar_homes,
    Got.Wf]

theorem execXdeResponse_wf : NextWf (execXdeResponse s) := by
  refine State.eventStep_wf h fun c cycle hc => ?_
  grind [Chip.dropLane_homes, Chip.onXde_homes, Chip.setWork_wf, Chip.refuseCopy_wf, Got.Wf]

theorem execXsendFinish_wf {die : BitVec 3} : NextWf (execXsendFinish die s) := by
  refine State.eventStep_wf h fun c cycle hc => ?_
  split
  · exact Chip.finishWork_wf hc
  · split
    · exact hc
    · dsimp only
      split
      · next e => exact (Chip.readBlock_wf hc).of_wait e
      · exact Chip.endWork_wf hc
      · next e =>
        refine Chip.endWork_wf (c := Chip.dropFar _ _) (Chip.dropped16_wf ?_)
        rw [Chip.Wf, Chip.foldl_ship_homes]
        exact (Chip.readBlock_wf hc).of_ok e

theorem execXdeFinish_wf : NextWf (execXdeFinish s) := by
  refine State.eventStep_wf h fun c cycle hc => foldl_wf _ (fun _ _ => Chip.sessionStep_wf) ?_
  split
  · exact hc
  · exact (congrArg Homes.Wf (Chip.dropLane_homes ..)).mpr hc

theorem execXbinWork_wf {die : BitVec 3} : NextWf (execXbinWork die s) := by
  refine State.eventStep_wf h fun c cycle hc => ?_
  have hwrite {c : Chip} {u : Nat} {d : Drover} {va n : Nat} {ws : List Nat} {r : Chip × Nat × Option Nat}
      (hc : c.Wf) (e : c.writeWords u d va ws n = r) : r.1.Wf := e ▸ Chip.writeWords_wf _ _ _ hc
  split
  · exact Chip.finishWork_wf hc
  · split
    · exact hc
    · split
      · exact Chip.endWork_wf hc
      · dsimp only
        split
        · exact hc
        · split
          · next e => exact Chip.endWork_wf (hwrite hc e)
          · next e =>
            have hc := hwrite hc e
            split
            · next e => exact Chip.endWork_wf (hwrite hc e)
            · next e =>
              have hc := hwrite hc e
              split
              · next e => exact Chip.endWork_wf (hwrite hc e)
              · next e => exact Chip.endWork_wf (hwrite hc e)

theorem execXbiasBuild_wf : NextWf (execXbiasBuild s) := by
  refine State.eventStep_wf h fun c cycle hc => ?_
  grind [Chip.finishWork_wf, Chip.readBlock_wf, Chip.endWork_wf, Chip.onXde_homes, Chip.dropFar_homes, Got.Wf]

/-! ### Migration, the host and management -/

theorem execMigrationPacket_wf {link : BitVec 5} : NextWf (execMigrationPacket link s) := by
  refine State.packetStep_wf h fun c cycle p hc => ?_
  grind [Chip.takeMigrated_wf, Chip.tellFate_homes, Chip.onBazaar_homes, Chip.onCaravan_homes]

theorem execAdvertisementPacket_wf {link : BitVec 5} : NextWf (execAdvertisementPacket link s) := by
  refine State.packetStep_wf h fun c cycle p hc => ?_
  grind [Chip.onSched_homes]

theorem execFifoWrite_wf {port : BitVec 6} {off : Nat} {data : List (BitVec 8)} : NextWf (execFifoWrite port off data s) := by
  refine State.eventStep_wf h fun c cycle hc => ?_
  grind [Chip.onPort_homes]

theorem execPctlWrite_wf {port : BitVec 6} {v : BitVec 64} : NextWf (execPctlWrite port v s) := by
  refine State.eventStep_wf h fun c cycle hc => ?_
  grind [Chip.onPort_homes]

theorem execLaunchStream_wf {port : BitVec 6} {plan : LoadPlan} : NextWf (execLaunchStream port plan s) := by
  refine State.eventStep_wf h fun c cycle hc => ?_
  grind [Chip.onPort_homes, Chip.completion_wf, planPlace_wf, Chip.onMgmt_homes, Chip.startExpedition_wf]

theorem execFeed_wf {port : BitVec 6} : NextWf (execFeed port s) := by
  refine State.eventStep_wf h fun c cycle hc => ?_
  grind [Chip.onPort_homes, Chip.accept_wf]

theorem execFunctionLevelReset_wf : NextWf (execFunctionLevelReset s) := by
  refine State.eventStep_wf h fun c cycle hc => ?_
  have hkill (l : List Nat) {c : Chip} (hc : c.Wf) : (l.foldl (fun c cv => c.killCaravan cv) c).Wf :=
    foldl_wf _ (fun _ _ => Chip.killCaravan_wf) hc
  exact hkill _ hc

theorem execRoutingTableWrite_wf {dev : BitVec 9} {v : BitVec 8} : NextWf (execRoutingTableWrite dev v s) :=
  State.eventStep_wf h fun _ _ hc => hc

theorem execDevidWrite_wf {v : BitVec 64} : NextWf (execDevidWrite v s) := by
  refine State.eventStep_wf h fun c cycle hc => ?_
  grind [Chip.onMgmt_homes]

theorem execPowlimWrite_wf {v : BitVec 64} : NextWf (execPowlimWrite v s) := by
  refine State.eventStep_wf h fun c cycle hc => ?_
  grind [Chip.onMgmt_homes]

theorem execThermClear_wf {v : BitVec 64} : NextWf (execThermClear v s) := by
  refine State.eventStep_wf h fun c cycle hc => ?_
  grind [Chip.onMgmt_homes]

theorem execAttreq_wf {addr : BitVec 64} : NextWf (execAttreq addr s) := by
  refine State.eventStep_wf h fun c cycle hc => ?_
  grind [Chip.signal_wf, Chip.hostWrite_wf, Chip.onMgmt_homes]

theorem execHostRegisterWrite_wf {off : Nat} {v : BitVec 64} : NextWf (execHostRegisterWrite off v s) := by
  refine State.eventStep_wf h fun c cycle hc => ?_
  grind [Chip.onPort_homes]

theorem execBoot_wf : NextWf (execBoot s) := by
  refine State.eventStep_wf h fun c cycle hc => ?_
  grind [Chip.onMgmt_homes, Chip.startFirmware_wf]

theorem execRecoveryImage_wf {image : List (BitVec 8)} : NextWf (execRecoveryImage image s) := by
  refine State.eventStep_wf h fun c cycle hc => ?_
  grind [Chip.onPort_homes, Chip.startFirmware_wf]

omit h in
theorem execModuleReset_wf : NextWf (execModuleReset s) := by
  grind [execModuleReset, Chip.afterReset_wf, NextWf]

theorem execGovernorWindow_wf {n : BitVec 12} {q : BitVec 2} {i : BitVec 6} : NextWf (execGovernorWindow n q i s) := by
  refine State.pageStep_wf h fun c cycle u pg g hc => ?_
  grind [Chip.onMgmt_homes, Chip.onDrover_homes]

theorem execThrottle_wf {die : BitVec 3} : NextWf (execThrottle die s) := by
  refine State.eventStep_wf h fun c cycle hc => ?_
  grind [Chip.onMgmt_homes]

theorem execTrip_wf : NextWf (execTrip s) := by
  refine State.eventStep_wf h fun c cycle hc => ?_
  grind [Chip.signal_wf, Chip.onMgmt_homes]

theorem execIllegalInstruction_wf {w : BitVec 32} : NextWf (execIllegalInstruction w s) := by
  grind [execIllegalInstruction, State.onChip, Chip.setDrover, State.takeTrap, NextWf]

theorem execBindingTransfer_wf {n : BitVec 12} {b : BindSrc} : NextWf (execBindingTransfer n b s) := by
  refine State.engineStep_wf h fun c cycle u d v hc => ?_
  split
  · dsimp only
    split
    · split
      · exact hc
      · split
        · exact hc
        · next e =>
          have haccept := Chip.accept_wf hc e
          exact haccept
    · exact hc
  · split
    · split
      · exact hc
      · split
        · exact hc
        · next e =>
          have haccept := Chip.accept_wf hc e
          exact haccept
    · exact hc

theorem execThrottleRelease_wf {die : BitVec 3} : NextWf (execThrottleRelease die s) := by
  refine State.eventStep_wf h fun c cycle hc => ?_
  grind [Chip.onMgmt_homes]

end

end Sys2Proof.Machine
end

section
/-!
SUPPORT. The step keeps the canonical form of memory: every arm of `exec`, the issue of the drover in focus, the turns of
the agenda.
-/

namespace Sys2Proof.Machine

theorem exec_migrationSend {s : State} {die : BitVec 3} :
    exec (.migrationSend die) s = execMigrationSend die s := by rfl

theorem exec_moduleMigration {s : State} {die : BitVec 3} {dev : BitVec 9} :
    exec (.moduleMigration die dev) s = execModuleMigration die dev s := by rfl

theorem exec_wf {s : State} (i : Instr) (h : s.chip.Wf) : NextWf (exec i s) := by
  cases i with
  | ill => exact execIll_wf h
  | add => exact execAdd_wf h
  | sub => exact execSub_wf h
  | and => exact execAnd_wf h
  | or => exact execOr_wf h
  | xor => exact execXor_wf h
  | andn => exact execAndn_wf h
  | shl => exact execShl_wf h
  | shr => exact execShr_wf h
  | sar => exact execSar_wf h
  | rol => exact execRol_wf h
  | mul => exact execMul_wf h
  | mulh => exact execMulh_wf h
  | mulhu => exact execMulhu_wf h
  | div => exact execDiv_wf h
  | divu => exact execDivu_wf h
  | rem => exact execRem_wf h
  | remu => exact execRemu_wf h
  | min => exact execMin_wf h
  | max => exact execMax_wf h
  | minu => exact execMinu_wf h
  | maxu => exact execMaxu_wf h
  | clz => exact execClz_wf h
  | ctz => exact execCtz_wf h
  | popc => exact execPopc_wf h
  | sextb => exact execSextb_wf h
  | sexth => exact execSexth_wf h
  | sextw => exact execSextw_wf h
  | bswap => exact execBswap_wf h
  | addi => exact execAddi_wf h
  | andi => exact execAndi_wf h
  | ori => exact execOri_wf h
  | xori => exact execXori_wf h
  | shli => exact execShli_wf h
  | shri => exact execShri_wf h
  | sari => exact execSari_wf h
  | lui => exact execLui_wf h
  | ceq => exact execCeq_wf h
  | cne => exact execCne_wf h
  | clt => exact execClt_wf h
  | cltu => exact execCltu_wf h
  | cle => exact execCle_wf h
  | cleu => exact execCleu_wf h
  | cmpiEq => exact execCmpiEq_wf h
  | cmpiLt => exact execCmpiLt_wf h
  | cmpiLtu => exact execCmpiLtu_wf h
  | cmpiLe => exact execCmpiLe_wf h
  | pand => exact execPand_wf h
  | por => exact execPor_wf h
  | pxor => exact execPxor_wf h
  | pandn => exact execPandn_wf h
  | pnot => exact execPnot_wf h
  | pset => exact execPset_wf h
  | pget => exact execPget_wf h
  | sel => exact execSel_wf h
  | fadd => exact execFadd_wf h
  | fsub => exact execFsub_wf h
  | fmul => exact execFmul_wf h
  | fdiv => exact execFdiv_wf h
  | fsqrt => exact execFsqrt_wf h
  | fmin => exact execFmin_wf h
  | fmax => exact execFmax_wf h
  | fma => exact execFma_wf h
  | fcvtif => exact execFcvtif_wf h
  | fcvtfi => exact execFcvtfi_wf h
  | fcvtff => exact execFcvtff_wf h
  | fceq => exact execFceq_wf h
  | fclt => exact execFclt_wf h
  | fcle => exact execFcle_wf h
  | fclass => exact execFclass_wf h
  | ld => exact execLd_wf h
  | ldu => exact execLdu_wf h
  | st => exact execSt_wf h
  | ldf => exact execLdf_wf h
  | ldfe => exact execLdfe_wf h
  | stef => exact execStef_wf h
  | stf => exact execStf_wf h
  | sete => exact execSete_wf h
  | prefR => exact execPrefR_wf h
  | prefW => exact execPrefW_wf h
  | dld => exact execDld_wf h
  | dst => exact execDst_wf h
  | br => exact execBr_wf h
  | call => exact execCall_wf h
  | jr => exact execJr_wf h
  | jalr => exact execJalr_wf h
  | nop => exact execNop_wf h
  | trap => exact execTrap_wf h
  | eret => exact execEret_wf h
  | fence => exact execFence_wf h
  | sleep => exact execSleep_wf h
  | brk => exact execBrk_wf h
  | iflush => exact execIflush_wf h
  | halt => exact execHalt_wf h
  | mfc => exact execMfc_wf h
  | mtc => exact execMtc_wf h
  | amoSwap => exact execAmoSwap_wf h
  | amoAdd => exact execAmoAdd_wf h
  | amoAnd => exact execAmoAnd_wf h
  | amoOr => exact execAmoOr_wf h
  | amoXor => exact execAmoXor_wf h
  | amoMin => exact execAmoMin_wf h
  | amoMax => exact execAmoMax_wf h
  | amoMinu => exact execAmoMinu_wf h
  | amoMaxu => exact execAmoMaxu_wf h
  | amoFadd => exact execAmoFadd_wf h
  | amoCas => exact execAmoCas_wf h
  | redAdd => exact execRedAdd_wf h
  | redAnd => exact execRedAnd_wf h
  | redOr => exact execRedOr_wf h
  | redXor => exact execRedXor_wf h
  | redMin => exact execRedMin_wf h
  | redMax => exact execRedMax_wf h
  | redMinu => exact execRedMinu_wf h
  | redMaxu => exact execRedMaxu_wf h
  | redFadd => exact execRedFadd_wf h
  | redFmin => exact execRedFmin_wf h
  | redFmax => exact execRedFmax_wf h
  | garrive => exact execGarrive_wf h
  | gwait => exact execGwait_wf h
  | gbar => exact execGbar_wf h
  | gset => exact execGset_wf h
  | ginfo => exact execGinfo_wf h
  | gcoll => exact execGcoll_wf h
  | galloc => exact execGalloc_wf h
  | gfree => exact execGfree_wf h
  | qsel => exact execQsel_wf h
  | qlen => exact execQlen_wf h
  | qpeek => exact execQpeek_wf h
  | sopen => exact execSopen_wf h
  | sclose => exact execSclose_wf h
  | sbar => exact execSbar_wf h
  | sstat => exact execSstat_wf h
  | slink => exact execSlink_wf h
  | copy => exact execCopy_wf h
  | cpflush => exact execCpflush_wf h
  | cpstat => exact execCpstat_wf h
  | pgload => exact execPgload_wf h
  | pgcast => exact execPgcast_wf h
  | pgbind => exact execPgbind_wf h
  | pgdrop => exact execPgdrop_wf h
  | pgstat => exact execPgstat_wf h
  | wload => exact execWload_wf h
  | wdrop => exact execWdrop_wf h
  | wpoke => exact execWpoke_wf h
  | gload => exact execGload_wf h
  | gstart => exact execGstart_wf h
  | gstop => exact execGstop_wf h
  | gstat => exact execGstat_wf h
  | waita => exact execWaita_wf h
  | actdone => exact execActdone_wf h
  | spawn => exact execSpawn_wf h
  | retire => exact execRetire_wf h
  | yield => exact execYield_wf h
  | twatch => exact execTwatch_wf h
  | tstat => exact execTstat_wf h
  | tkill => exact execTkill_wf h
  | xgate => exact execXgate_wf h
  | xtopk => exact execXtopk_wf h
  | xbin => exact execXbin_wf h
  | xsend => exact execXsend_wf h
  | xrecv => exact execXrecv_wf h
  | xbias => exact execXbias_wf h
  | xstat => exact execXstat_wf h
  | liw => exact execLiw_wf h
  | lih => exact execLih_wf h
  | amocCas => exact execAmocCas_wf h
  | amocDecz => exact execAmocDecz_wf h
  | amocAddge => exact execAmocAddge_wf h
  | drainWrite => exact execDrainWrite_wf h
  | forward => exact execForward_wf h
  | hit => exact execHit_wf h
  | sendRead => exact execSendRead_wf h
  | orderPoint => exact execOrderPoint_wf h
  | homeAmo => exact execHomeAmo_wf h
  | homeRed => exact execHomeRed_wf h
  | homeContinuation => exact execHomeContinuation_wf h
  | homeFullEmpty => exact execHomeFullEmpty_wf h
  | complete => exact execComplete_wf h
  | junction => exact execJunction_wf h
  | remoteCacheFill => exact execRemoteCacheFill_wf h
  | remoteCacheEvict => exact execRemoteCacheEvict_wf h
  | remoteCacheInvalidate => exact execRemoteCacheInvalidate_wf h
  | translationWalk => exact execTranslationWalk_wf h
  | inboxMapWrite => exact execInboxMapWrite_wf h
  | mailboxPush => exact execMailboxPush_wf h
  | peerQueueTransfer => exact execPeerQueueTransfer_wf h
  | invalidatePage => exact execInvalidatePage_wf h
  | invalidateExpedition => exact execInvalidateExpedition_wf h
  | invalidateAll => exact execInvalidateAll_wf h
  | invalidationPerformed => exact execInvalidationPerformed_wf h
  | groupArrival => exact execGroupArrival_wf h
  | groupDeparture => exact execGroupDeparture_wf h
  | collectiveCombine => exact execCollectiveCombine_wf h
  | offsetsRead => exact execOffsetsRead_wf h
  | gatherEntryRead => exact execGatherEntryRead_wf h
  | porterRead => exact execPorterRead_wf h
  | porterWrite => exact execPorterWrite_wf h
  | streamDrained => exact execStreamDrained_wf h
  | copyMove => exact execCopyMove_wf h
  | copyComplete => exact execCopyComplete_wf h
  | writePacketSend => exact execWritePacketSend_wf h
  | cellDataFiring => exact execCellDataFiring_wf h
  | cellMarkStep => exact execCellMarkStep_wf h
  | cellScaleStep => exact execCellScaleStep_wf h
  | cellDirectiveStep => exact execCellDirectiveStep_wf h
  | cellEmitNext => exact execCellEmitNext_wf h
  | outputMove => exact execOutputMove_wf h
  | veinHop => exact execVeinHop_wf h
  | route => exact execRoute_wf h
  | fork => exact execFork_wf h
  | steer => exact execSteer_wf h
  | merge => exact execMerge_wf h
  | carry => exact execCarry_wf h
  | inv => exact execInv_wf h
  | accUpdate => exact execAccUpdate_wf h
  | waveOrderPerform => exact execWaveOrderPerform_wf h
  | bankPortAccess => exact execBankPortAccess_wf h
  | firingAdmit => exact execFiringAdmit_wf h
  | pagerClose => exact execPagerClose_wf h
  | pagerCloseTimeout => exact execPagerCloseTimeout_wf h
  | pagerSave => exact execPagerSave_wf h
  | pagerLoad => exact execPagerLoad_wf h
  | pagerOpen => exact execPagerOpen_wf h
  | pageIdleExpiry => exact execPageIdleExpiry_wf h
  | pagerExclusionExpiry => exact execPagerExclusionExpiry_wf h
  | parseStep => exact execParseStep_wf h
  | contextForward => exact execContextForward_wf h
  | skip => exact execSkip_wf h
  | recoveryPop => exact execRecoveryPop_wf h
  | inject => exact execInject_wf h
  | post => exact execPost_wf h
  | command => exact execCommand_wf h
  | trapAction => exact execTrapAction_wf h
  | launchDelivery => exact execLaunchDelivery_wf h
  | watchRegister => exact execWatchRegister_wf h
  | yieldThreshold => exact execYieldThreshold_wf h
  | dispatch => exact execDispatch_wf h
  | reserving => exact execReserving_wf h
  | aging => exact execAging_wf h
  | spillRefill => exact execSpillRefill_wf h
  | advertise => exact execAdvertise_wf h
  | migrationSend => exact exec_migrationSend ▸ execMigrationSend_wf h
  | migrationReceive => exact execMigrationReceive_wf h
  | moduleAdvertise => exact execModuleAdvertise_wf h
  | moduleMigration => exact exec_moduleMigration ▸ execModuleMigration_wf h
  | deadlockPreempt => exact execDeadlockPreempt_wf h
  | saveWalk => exact execSaveWalk_wf h
  | gating => exact execGating_wf h
  | saveCommit => exact execSaveCommit_wf h
  | restore => exact execRestore_wf h
  | heldBankWriteout => exact execHeldBankWriteout_wf h
  | trapDelivery => exact execTrapDelivery_wf h
  | recordTake => exact execRecordTake_wf h
  | age => exact execAge_wf h
  | waitlong => exact execWaitlong_wf h
  | eccError => exact execEccError_wf h
  | selfTest => exact execSelfTest_wf h
  | expeditionEnd => exact execExpeditionEnd_wf h
  | flitSend => exact execFlitSend_wf h
  | dataFlitReceive => exact execDataFlitReceive_wf h
  | nak => exact execNak_wf h
  | idle => exact execIdle_wf h
  | nakTimeout => exact execNakTimeout_wf h
  | replayTimeout => exact execReplayTimeout_wf h
  | lossOfLock => exact execLossOfLock_wf h
  | retrainComplete => exact execRetrainComplete_wf h
  | packetForward => exact execPacketForward_wf h
  | readPacket => exact execReadPacket_wf h
  | writePacket => exact execWritePacket_wf h
  | readData => exact execReadData_wf h
  | atomicPacket => exact execAtomicPacket_wf h
  | atomicResult => exact execAtomicResult_wf h
  | writeDone => exact execWriteDone_wf h
  | roundOpen => exact execRoundOpen_wf h
  | gateMerge => exact execGateMerge_wf h
  | xsendRowSend => exact execXsendRowSend_wf h
  | xdeRow => exact execXdeRow_wf h
  | xdeResponse => exact execXdeResponse_wf h
  | xsendFinish => exact execXsendFinish_wf h
  | xdeFinish => exact execXdeFinish_wf h
  | xbinWork => exact execXbinWork_wf h
  | xbiasBuild => exact execXbiasBuild_wf h
  | migrationPacket => exact execMigrationPacket_wf h
  | advertisementPacket => exact execAdvertisementPacket_wf h
  | fifoWrite => exact execFifoWrite_wf h
  | pctlWrite => exact execPctlWrite_wf h
  | launchStream => exact execLaunchStream_wf h
  | feed => exact execFeed_wf h
  | functionLevelReset => exact execFunctionLevelReset_wf h
  | routingTableWrite => exact execRoutingTableWrite_wf h
  | devidWrite => exact execDevidWrite_wf h
  | powlimWrite => exact execPowlimWrite_wf h
  | thermClear => exact execThermClear_wf h
  | attreq => exact execAttreq_wf h
  | hostRegisterWrite => exact execHostRegisterWrite_wf h
  | boot => exact execBoot_wf h
  | recoveryImage => exact execRecoveryImage_wf h
  | moduleReset => exact execModuleReset_wf
  | governorWindow => exact execGovernorWindow_wf h
  | throttle => exact execThrottle_wf h
  | trip => exact execTrip_wf h
  | illegalInstruction => exact execIllegalInstruction_wf h
  | bindingTransfer => exact execBindingTransfer_wf h
  | throttleRelease => exact execThrottleRelease_wf h

section

variable {s : State}

theorem State.takeTrap_wf {t : TrapReq} {d : Drover} (h : s.chip.Wf) : (s.takeTrap t d).chip.Wf := h

theorem State.fetchFar_wf {d : Drover} {l : Leaf} {va : Nat} (h : s.chip.Wf) : (s.fetchFar d l va).chip.Wf := by
  have hpiece := Chip.farPiece_wf (agent := blockAgent s.focus + 1) (l := l) (pa := l.pa va / 64 * 64) (n := 64) (va := va) h
  unfold State.fetchFar
  dsimp only
  split
  · next e =>
    have hc := hpiece.of_ok e
    exact hc
  · next e => exact hpiece.of_wait e
  · exact State.takeTrap_wf h

theorem State.runs_wf {d : Drover} {i : Instr} (h : s.chip.Wf) : NextWf (s.runs d i) := by
  have hfirst : NextWf (exec i (s.onChip fun c => c.setDrover s.focus d)) := exec_wf i h
  have hagain : NextWf (exec i ((s.onChip fun c => c.setDrover s.focus d).onChip fun c => c.started s.focus)) :=
    exec_wf i (Chip.started_wf h)
  unfold State.runs
  dsimp only
  split
  · split
    · split
      · exact hagain
      · exact hfirst
    · exact hfirst
    · exact hfirst
  · exact hfirst

theorem State.issue_wf (h : s.chip.Wf) : NextWf s.issue := by
  unfold State.issue
  split
  · exact h
  · next d0 _ =>
    split
    · exact h
    · have hbegun : (s.onChip fun c => c.begun s.focus d0).chip.Wf := Chip.begun_wf h
      dsimp only
      split
      · exact hbegun
      · split
        · exact hbegun
        · split
          · exact hbegun
          · exact State.fetchFar_wf hbegun
          · exact hbegun
          · exact State.runs_wf hbegun

theorem passed_wf {o : Host.Outcome State Fault Refusal} {n : Nat} (h : NextWf o) : NextWf (passed n o) := by
  cases o with
  | next t =>
    have hticked : (t.chip.ticked t.cycle n).Wf := Chip.ticked_wf h
    exact hticked
  | fault | refused => trivial

theorem settled_wf {o : Host.Outcome State Fault Refusal} (h : NextWf o) : NextWf (settled s o) := by
  cases o with
  | next t =>
    have hages : (t.chip.settleAges s.chip).Wf := Chip.settleAges_wf h
    exact hages
  | fault | refused => trivial

theorem State.turn_wf (t : Turn) (h : s.chip.Wf) : NextWf (s.turn t) := by
  cases t with
  | event i =>
    dsimp only [State.turn]
    split
    · exact settled_wf (exec_wf i h)
    · exact h
  | issue u => exact settled_wf (State.issue_wf (s := { s with focus := u }) h)
  | tick n => exact passed_wf (o := .next s) h
  | ahead n => exact h

theorem State.idleTurn_wf (h : s.chip.Wf) : NextWf s.idleTurn := by
  refine passed_wf (settled_wf ?_)
  split
  · exact exec_wf .boot h
  · exact State.issue_wf h

theorem step_wf (h : s.chip.Wf) : NextWf (step s) := by
  unfold step
  split
  · split
    · trivial
    · exact State.idleTurn_wf h
  · split
    · trivial
    · exact State.turn_wf (s := { s with agenda := _ }) _ h

end

end Sys2Proof.Machine
end

section
/-!
PROOF. The canonical form of memory is kept by every step.
-/

namespace Sys2Proof.Claims
open Sys2Proof.Machine

/-- Settles O57: memory is put only by the operations whose laws say that they keep its form (`Memory.write_wf`,
`Memory.filter_wf` and those built on them), or emptied by a reset; `step_wf` follows every chip that a step makes back to one of these. -/
theorem memoryStaysCanonical : Obligations.MemoryStaysCanonical := by
  unfold Obligations.MemoryStaysCanonical
  intro s t hs ht
  have hnext : NextWf (step s) := step_wf hs
  rwa [ht] at hnext

end Sys2Proof.Claims
end

section
/-!
SUPPORT. The drover's side of the ordering model (S2 to S7 of R268): what keeps a drover's registers and scoreboard, and what a
wake-up leaves of the drovers, whatever queue the woken caravan enters.
-/

namespace Sys2Proof.Machine

/-! ## Drovers that settle -/

/-- Registers, scoreboard and serai stand. -/
structure Drover.RegsKept (d d' : Drover) : Prop where
  regs : d'.regs = d.regs
  board : d'.board = d.board
  core : d'.core = d.core

theorem Drover.RegsKept.trans {d d1 d2 : Drover} (h : d.RegsKept d1) (k : d1.RegsKept d2) : d.RegsKept d2 :=
  ⟨k.regs.trans h.regs, k.board.trans h.board, k.core.trans h.core⟩

theorem Drover.settle_regsKept (d : Drover) : d.RegsKept d.settle := by
  refine List.foldlRecOn _ _ (motive := d.RegsKept) ⟨rfl, rfl, rfl⟩ fun d' h m _ => h.trans ?_
  dsimp only
  split
  · split <;> exact ⟨rfl, rfl, rfl⟩
  · exact ⟨rfl, rfl, rfl⟩

theorem Drover.dropAcc_regsKept (d : Drover) (q : Nat) : d.RegsKept (d.dropAcc q) := ⟨rfl, rfl, rfl⟩

theorem Drover.wake_regsKept (d : Drover) : d.RegsKept d.wake := by
  unfold Drover.wake
  split <;> exact ⟨rfl, rfl, rfl⟩

/-- A reply without an error whose register awaits it makes the register ready (R16). -/
theorem Drover.completeAcc_load {d : Drover} {a : Access} (hk : a.kind = .load)
    (hpend : look d.board.pend a.rd = some (.access a.seq)) (hlate : a.late = none) :
    d.completeAcc a = d.completeX a.rd a.reply := by
  simp only [Drover.completeAcc, hk, hpend, hlate, if_true]

/-- A register made ready holds the value, and awaits nothing. -/
theorem Drover.completeX_ready {d d' : Drover} {r : Nat} {v : Word} (hpos : 0 < r) (hlt : r < 28) (h : (d.completeX r v).RegsKept d') :
    d'.regs.getX (BitVec.ofNat 5 r) = v ∧ look d'.board.pend r = none := by
  have hne : BitVec.ofNat 5 r ≠ 0 := by bv_omega
  rw [h.regs, h.board]
  exact ⟨(Regs.getX_setX ..).trans (if_pos ⟨rfl, hne⟩), (look_del ..).trans (if_pos rfl)⟩

/-- An access with the number that `onAcc` changes is what the change makes of one. -/
theorem Drover.mem_onAcc {d : Drover} {q : Nat} {f : Access → Access} {x : Access} (hx : x ∈ (d.onAcc q f).mem.accs)
    (hq : x.seq = q) : ∃ a, x = f a := by
  obtain ⟨a, -, rfl⟩ := List.mem_map.1 hx
  by_cases hseq : a.seq = q
  · exact ⟨a, if_pos hseq⟩
  · rw [if_neg hseq] at hq
    exact absurd hq hseq

/-! ## What a caravan that wakes leaves of the drovers (R282, R287) -/

section

variable (c : Chip)

theorem Chip.writeFails_tasksKept (pa : Nat) : c.TasksKept (c.writeFails pa).2 := by
  unfold Chip.writeFails
  split <;> exact ⟨rfl, rfl⟩

theorem Chip.storeVa_tasksKept (u : Nat) (d : Drover) (pins : List Leaf) (va fuel : Nat) (bs : List Byte) :
    c.TasksKept (c.storeVa u d pins va fuel bs).1 := by
  induction fuel generalizing c va bs with
  | zero => exact .rfl
  | succ fuel ih =>
    rw [Chip.storeVa]
    split
    · exact .rfl
    have hleaf := c.engineLeaf_keepsTasks u d va .write pins
    dsimp only
    split
    case h_1 => exact .rfl
    case h_2 he => rw [he] at hleaf; exact hleaf
    case h_3 l c1 he =>
      rw [he] at hleaf
      have hfails : c1.TasksKept (if l.rmt then (false, c1) else c1.writeFails (l.pa va)).2 := by
        split
        · exact .rfl
        · exact c1.writeFails_tasksKept _
      generalize (if l.rmt then (false, c1) else c1.writeFails (l.pa va)) = w at hfails ⊢
      obtain ⟨failed, c2⟩ := w
      replace hfails : c.TasksKept c2 := hleaf.trans hfails
      cases failed
      case true => exact hfails
      case false =>
        have hpiece := c2.writePiece_keepsTasks u d va (bs.take (min bs.length (64 - va % 64))) pins
        dsimp only
        split
        case h_1 => exact hfails
        case h_2 hp => rw [hp] at hpiece; exact hfails.trans hpiece
        case h_3 hp => rw [hp] at hpiece; exact (hfails.trans hpiece).trans (ih ..)

theorem Chip.writeSpill_tasksKept (e die : Nat) : c.TasksKept (c.writeSpill e die) := by
  unfold Chip.writeSpill
  cases c.exp? e with
  | none => exact .rfl
  | some x =>
    have hstore := Chip.storeVa_tasksKept { c with free := c.free + 1 } (2 ^ 32) (spiller e die) []
      (x.spillAddr + 64 * (c.spillUsed e % max x.spillCap 1))
      (((List.range 64).map fun i => Config.freeByte c.free i).length / 64 + 2) ((List.range 64).map fun i => Config.freeByte c.free i)
    have hfree : c.TasksKept { c with free := c.free + 1 } := ⟨rfl, rfl⟩
    replace hstore := hfree.trans hstore
    dsimp only [Chip.storeBlock]
    split
    case h_1 h => rw [h] at hstore; exact hstore
    case h_2 h =>
      rw [h] at hstore
      exact hstore.trans ((Chip.onExp_tasksKept ..).trans (Chip.raiseRecord_tasksKept ..))

@[simp] theorem Chip.setMembers_drovers (v : Caravan) (st : TaskState) : (c.setMembers v st).drovers = c.drovers :=
  List.foldlRecOn _ _ (motive := fun c' : Chip => c'.drovers = c.drovers) rfl fun _ h _ _ => h

theorem Chip.enqueue_drovers (v die time order : Nat) : (c.enqueue v die time order).drovers = c.drovers := by
  unfold Chip.enqueue
  split
  · rfl
  · dsimp only
    split
    · exact Chip.setMembers_drovers ..
    · exact (Chip.writeSpill_tasksKept ..).drovers.trans (Chip.setMembers_drovers ..)

theorem Chip.wakeCaravan_drovers (cycle v : Nat) : (c.wakeCaravan cycle v).drovers = c.drovers := by
  unfold Chip.wakeCaravan
  split
  · rfl
  · split
    · exact Chip.enqueue_drovers ..
    · split <;> rfl
    · rfl

variable {c}

/-- What reaches a task on its serai wakes its caravan at most: there is no image to bring up to date. -/
theorem Chip.reached_drovers {u : Nat} {d : Drover} (hd : c.drover? u = some d) (hcore : d.core.isSome = true) (cycle what : Nat)
    (token : Bool) : (c.reached cycle u what token).drovers = c.drovers := by
  have himage : d.core.isNone = false := by rw [Option.isNone_eq_false_iff]; exact hcore
  unfold Chip.reached
  split
  case h_2 => rfl
  case h_1 hd' =>
    obtain rfl := Option.some.inj (hd.symm.trans hd')
    simp only [himage, Bool.false_eq_true, if_false]
    split
    · split
      · exact Chip.wakeCaravan_drovers ..
      · rfl
    · rfl

/-- A drover on its serai whose register r is made ready with v has it whatever the register's completion reaches. -/
theorem Chip.reached_completes {u r : Nat} {d d1 : Drover} {v : Word} (hkept : (d.completeX r v).RegsKept d1)
    (hcore : d.core.isSome = true) (hpos : 0 < r) (hlt : r < 28) (cycle : Nat) (token : Bool) :
    ∃ d', ((c.setDrover u d1).reached cycle u r token).drover? u = some d' ∧ d'.regs.getX (BitVec.ofNat 5 r) = v ∧
      look d'.board.pend r = none := by
  have hset : (c.setDrover u d1).drover? u = some d1 := (Chip.setDrover_drover? ..).trans (if_pos rfl)
  have hcore1 : d1.core.isSome = true := by rw [hkept.core]; exact hcore
  have hstands := Chip.reached_drovers hset hcore1 cycle r token
  exact ⟨d1, (Chip.drover?_congr hstands u).trans hset, Drover.completeX_ready hpos hlt hkept⟩

/-! ## Changes of the drovers one by one -/

theorem look_map_key {α β : Type} (g : Nat × α → β) (m : SMap α) (i : Nat) :
    look (m.map fun p => (p.1, g p)) i = (look m i).map fun v => g (i, v) := by
  induction m with
  | nil => rfl
  | cons p m ih =>
    rw [List.map_cons, look, look, ih]
    split
    · subst_vars; rfl
    · rfl

/-- A drover that there is stays, whichever is changed. -/
theorem Chip.onDrover_stands {u v : Nat} (h : ∃ d, c.drover? v = some d) (f : Drover → Drover) :
    ∃ d, (c.onDrover u f).drover? v = some d := by
  unfold Chip.onDrover
  split
  · exact h
  · rw [Chip.setDrover_drover?]
    split
    · exact ⟨_, rfl⟩
    · exact h

/-- A change that always leaves P leaves it of the drover that is changed. -/
theorem Chip.onDrover_leaves {u : Nat} (h : ∃ d, c.drover? u = some d) {f : Drover → Drover} {P : Drover → Prop}
    (hP : ∀ d, P (f d)) : ∃ d, (c.onDrover u f).drover? u = some d ∧ P d := by
  obtain ⟨d, hd⟩ := h
  exact ⟨f d, Chip.onDrover_drover? hd f, hP d⟩

end

end Sys2Proof.Machine

namespace Sys2Proof.Claims

open Sys2Proof.Machine

/-! ## The queues' steps (S2 to S5, S7, S12 of R268) -/

theorem exec_drainWrite (s : State) (u q : Nat) : exec (.drainWrite u q) s = execDrainWrite u q s := rfl

theorem exec_sendRead (s : State) (u q : Nat) : exec (.sendRead u q) s = execSendRead u q s := rfl

theorem exec_forward (s : State) (u q : Nat) : exec (.forward u q) s = execForward u q s := rfl

theorem exec_hit (s : State) (u q : Nat) : exec (.hit u q) s = execHit u q s := rfl

theorem exec_complete (s : State) (u q : Nat) : exec (.complete u q) s = execComplete u q s := rfl

theorem exec_junction (s : State) (u q u2 q2 : Nat) : exec (.junction u q u2 q2) s = execJunction u q u2 q2 s := rfl

/-- An access of a local page leaves its queue for its home. -/
theorem sendAccess_home {c : Chip} {u : Nat} {d : Drover} {a : Access} (hloc : a.leaf.rmt = false) :
    (c.sendAccess u d a).drover? u = some (sentOn d a.seq).settle := by
  simp only [Chip.sendAccess, hloc, Bool.false_eq_true, if_false]
  exact (Chip.setDrover_drover? ..).trans (if_pos rfl)

/-- One of another module's page leaves it as a packet, and awaits the answer under the packet's tag. -/
theorem sendAccess_remote {c c' : Chip} {u tag : Nat} {d : Drover} {a : Access} (hfar : a.leaf.rmt = true)
    (hreq : c.request a.leaf.dev a.kind.ptype a.pa (a.payload d.exp) (fun k => .access u a.seq k) = some (tag, c')) :
    (c.sendAccess u d a).drover? u = some (d.onAcc a.seq fun a => { a with phase := .remote tag }).settle := by
  simp only [Chip.sendAccess, hfar, hreq, if_true]
  exact (Chip.setDrover_drover? ..).trans (if_pos rfl)

section

variable {s : State} {u q : Nat} {d : Drover} {a : Access} {P : Chip → Prop} (h : HasAcc s u q d a)

include h

theorem after_junction {u2 q2 : Nat} {d2 : Drover} {b : Access} (h2 : HasAcc s u2 q2 d2 b) (hcomb : combinable a b = true)
    (hne : u ≠ u2 ∨ q ≠ q2) : After s (.junction u q u2 q2) fun c => ∃ d', c.drover? u2 = some d' ∧
      ∀ x, x ∈ d'.mem.accs → x.seq = q2 → x.phase = .joined u q := by
  obtain ⟨hd2, hb⟩ := h2
  have hdiff : (u != u2 || q != q2) = true := by simpa using hne
  refine after_of_withAcc h (exec_junction ..) ?_
  simp only [hd2, hb, hcomb, hdiff, Bool.and_self, if_true]
  refine Chip.onDrover_leaves (Chip.onDrover_stands ?stands _) fun d' x hx hq => ?rides
  case stands => exact ⟨_, (look_map_key ..).trans (congrArg _ hd2)⟩
  case rides =>
    obtain ⟨_, rfl⟩ := Drover.mem_onAcc hx hq
    rfl

variable (hmoves : s.chip.moves u d = true)

include hmoves

theorem after_drainWrite (hcan : d.canDrain a = true) (hP : P (s.chip.sendAccess u d a)) : After s (.drainWrite u q) P := by
  refine after_of_withAcc h (exec_drainWrite ..) ?_
  simp only [hcan, hmoves, Bool.and_self, if_true]
  exact hP

theorem after_sendRead (hcan : d.canSendRead a = true) (hP : P (s.chip.sendAccess u d a)) : After s (.sendRead u q) P := by
  refine after_of_withAcc h (exec_sendRead ..) ?_
  simp only [hcan, hmoves, Bool.and_self, if_true]
  exact hP

/-- The youngest older store that overlaps the read covers it (S3). -/
theorem after_forward (heasy : a.easy = true) {x : Access} (hlast : (d.overlaps a).getLast? = some x)
    (hk : x.kind = .store ∨ x.kind = .dstore) (hmap : x.mapWrite = false) (hlo : x.pa ≤ a.pa) (hhi : a.pa + a.size ≤ x.pa + x.size) :
    After s (.forward u q) fun c => c.drover? u =
      some (d.answer u q (a.kind.extend a.size (x.data.toNat / 2 ^ (8 * (a.pa - x.pa)))) none none []) := by
  have hstore : (x.kind == .store || x.kind == .dstore) = true := by simpa using hk
  refine after_of_withAcc h (exec_forward ..) ?_
  simp only [heasy, hmoves, hlast, hstore, hmap, hlo, hhi, and_self, decide_true, Bool.not_false, Bool.and_self, if_true]
  exact (Chip.setDrover_drover? ..).trans (if_pos rfl)

/-- The line of the read stands in the data cache, and nothing older stands against it (S4). -/
theorem after_hit (heasy : a.easy = true) (hcache : a.cacheable = true) (hfree : d.lineFree a = true)
    (hacq : d.acquiresDone a = true) (hover : d.overlaps a = []) {l : BitVec 512} (hl : look d.mem.dcache (a.pa / 64) = some l) :
    After s (.hit u q) fun c => c.drover? u =
      some (d.answer u q (a.kind.extend a.size (field (leBytes l.toNat 64) (a.pa % 64) a.size)) none none []) := by
  refine after_of_withAcc h (exec_hit ..) ?_
  simp only [heasy, hmoves, hcache, hfree, hacq, hover, hl, List.isEmpty_nil, Bool.and_self, if_true]
  exact (Chip.setDrover_drover? ..).trans (if_pos rfl)

omit hmoves

/-- The reply of a load reaches the register that awaits it (S7). -/
theorem after_complete (hcan : d.canComplete a = true) (hk : a.kind = .load) (hpos : 0 < a.rd) (hlt : a.rd < 28)
    (hpend : look d.board.pend a.rd = some (.access a.seq)) (hlate : a.late = none) (hline : a.line = none)
    (hcore : d.core.isSome = true) :
    After s (.complete u q) fun c => ∃ d', c.drover? u = some d' ∧ d'.regs.getX (BitVec.ofNat 5 a.rd) = a.reply ∧
      look d'.board.pend a.rd = none := by
  have hload : (a.kind == .dload) = false := by rw [hk]; rfl
  refine after_of_withAcc h (exec_complete ..) ?_
  simp only [hcan, hlate, hline, hload, Drover.completeAcc_load hk hpend hlate, Bool.false_eq_true, if_true, if_false]
  refine Chip.reached_completes (.trans ?_ (Drover.settle_regsKept _)) hcore hpos hlt _ _
  split
  · exact Drover.dropAcc_regsKept ..
  · exact (Drover.dropAcc_regsKept ..).trans (Drover.wake_regsKept _)

end

/-- Settles O25: an access leaves its queue as `Chip.sendAccess` says (`sendAccess_home`, `sendAccess_remote`); a read is answered
from a store (`after_forward`) or from a line (`after_hit`); a reply that reaches its register stays there, whatever caravan it wakes
(`Chip.reached_drovers`); of two reductions that combine the second waits for the first (`after_junction`). -/
theorem queueSteps : Obligations.QueueSteps := by
  intro s u q d a h hmoves
  refine ⟨fun hcan hloc => ?drains, fun hcan hloc => ?sends, fun hcan hfar tag c' hreq => ?sendsFar, fun heasy x => ?forwards,
    fun heasy hcache hfree hacq hover l => ?hits, ?completes, fun u2 q2 d2 b => ?joins⟩
  case drains => exact after_drainWrite h hmoves hcan (sendAccess_home hloc)
  case sends => exact after_sendRead h hmoves hcan (sendAccess_home hloc)
  case sendsFar => exact after_sendRead h hmoves hcan (sendAccess_remote hfar hreq)
  case forwards => exact after_forward h hmoves heasy
  case hits => exact after_hit h hmoves heasy hcache hfree hacq hover
  case completes => exact after_complete h
  case joins => exact after_junction h

end Sys2Proof.Claims
end

section
/-!
PROOF. The pager's steps (R298, R299): each changes one serai, by its own change of the pager and of a page.
-/

namespace Sys2Proof.Claims

open Sys2Proof.Machine

/-! ## The events -/

theorem exec_pagerClose (s : State) (n : BitVec 12) : exec (.pagerClose n) s = execPagerClose n s := rfl

theorem exec_pagerCloseTimeout (s : State) (n : BitVec 12) : exec (.pagerCloseTimeout n) s = execPagerCloseTimeout n s := rfl

theorem exec_pagerSave (s : State) (n : BitVec 12) : exec (.pagerSave n) s = execPagerSave n s := rfl

theorem exec_pagerLoad (s : State) (n : BitVec 12) : exec (.pagerLoad n) s = execPagerLoad n s := rfl

theorem exec_pagerOpen (s : State) (n : BitVec 12) : exec (.pagerOpen n) s = execPagerOpen n s := rfl

theorem exec_pageIdleExpiry (s : State) (n : BitVec 12) (k : BitVec 8) : exec (.pageIdleExpiry n k) s = execPageIdleExpiry n k s := rfl

theorem exec_pagerExclusionExpiry (s : State) (n : BitVec 12) (k : BitVec 8) :
    exec (.pagerExclusionExpiry n k) s = execPagerExclusionExpiry n k s := rfl

section

variable {s : State} {n : BitVec 12} {u : Nat} {d : Drover} {v : Serai} (h : Engine s n u d v) (hv : v = s.chip.serai n.toNat)

include h hv

/-- A step of an engine that changes its own serai by g. -/
theorem after_seraiStep {j : Instr} {f : Chip → Nat → Nat → Drover → Serai → Chip} {g : Serai → Serai} {P : Serai → Prop}
    (hj : exec j s = s.engineStep n f) (hf : f s.chip s.cycle u d v = s.chip.onSerai n.toNat g) (hP : P (g v)) :
    After s j fun c => P (c.serai n.toNat) := by
  refine after_engineStep h hj ?_
  rw [hf, Chip.serai_onSerai, ← hv]
  exact hP

/-! ## Closing a quarter (R298) -/

section

variable {pg : Nat} {g : Page} (hidle : v.pager = .idle) (hcand : v.pageCandidate = some (pg, g))

include hidle hcand

theorem after_pagerClose_free {k : Nat} (hk : (List.range 4).find? (fun q => (v.resident q).isNone) = some k) :
    After s (.pagerClose n) fun c => (c.serai n.toNat).pager = .saved k pg s.cycle := by
  refine after_seraiStep h hv (P := fun w => w.pager = _) (g := fun v => { v with pager := .saved k pg s.cycle })
    (exec_pagerClose ..) ?_ rfl
  simp only [hidle, ne_eq, not_true_eq_false, if_false, hcand, hk]

theorem after_pagerClose_victim (hfull : ∀ k, k < 4 → (v.resident k).isSome = true) {vic q : Nat} {x : Page}
    (hvic : v.pageVictim g.waiting = some (vic, x)) (hq : x.quarter = some q) :
    After s (.pagerClose n) fun c => (c.serai n.toNat).pager = .closing q pg vic s.cycle := by
  have hnone : (List.range 4).find? (fun q => (v.resident q).isNone) = none :=
    List.find?_eq_none.2 fun k hk => by
      rw [Bool.not_eq_true, Option.isNone_eq_false_iff]
      exact hfull k (List.mem_range.1 hk)
  refine after_seraiStep h hv (P := fun w => w.pager = _) (g := fun v => { v with pager := .closing q pg vic s.cycle })
    (exec_pagerClose ..) ?_ rfl
  simp only [hidle, ne_eq, not_true_eq_false, if_false, hcand, hnone, hvic, hq, Option.getD_some]

end

/-! ## Giving up, saving, loading and opening (R299) -/

theorem after_pagerCloseTimeout {q pg vic since : Nat} {x : Page} (hclosing : v.pager = .closing q pg vic since)
    (hx : look v.pages vic = some x) (hbusy : x.quiescent = false) (hlate : since + 4096 ≤ s.cycle) :
    After s (.pagerCloseTimeout n) fun c => (c.serai n.toNat).pager = .idle ∧
      (look (c.serai n.toNat).pages vic).map (·.excludedAt) = some (some s.cycle) := by
  refine after_seraiStep h hv (P := fun w => w.pager = _ ∧ (look w.pages vic).map (·.excludedAt) = _)
    (g := fun v => { v with pager := .idle, pages := upd v.pages vic fun g => { g with excludedAt := some s.cycle } })
    (exec_pagerCloseTimeout ..) ?_ ⟨rfl, ?_⟩
  · simp only [hclosing, hx, hbusy, Bool.false_eq_true, false_or, if_neg (Nat.not_lt.2 hlate)]
  · rw [look_upd, if_pos rfl, hx]; rfl

theorem after_pagerSave {q pg vic since : Nat} {x : Page} (hclosing : v.pager = .closing q pg vic since)
    (hx : look v.pages vic = some x) (hquiet : x.quiescent = true) :
    After s (.pagerSave n) fun c => (c.serai n.toNat).pager = .saved q pg (s.cycle + 64) ∧
      look (c.serai n.toNat).pages vic = some { x with quarter := none } := by
  refine after_seraiStep h hv (P := fun w => w.pager = _ ∧ look w.pages vic = _)
    (g := fun v => { v with pager := .saved q pg (s.cycle + 64), pages := upd v.pages vic fun g => { g with quarter := none } })
    (exec_pagerSave ..) ?_ ⟨rfl, ?_⟩
  · simp only [hclosing, hx, hquiet, if_true]
  · rw [look_upd, if_pos rfl, hx]; rfl

theorem after_pagerLoad {q pg since : Nat} {g : Page} (hsaved : v.pager = .saved q pg since) (hg : look v.pages pg = some g)
    (hdue : since ≤ s.cycle) :
    After s (.pagerLoad n) fun c => (look (c.serai n.toNat).pages pg).map (·.quarter) = some (some q) ∧
      (c.serai n.toNat).pager = .loaded q pg (s.cycle + 256 + 64) := by
  refine after_seraiStep h hv (P := fun w => (look w.pages pg).map (·.quarter) = _ ∧ w.pager = _)
    (g := fun v => { v with pager := .loaded q pg (s.cycle + 320), pages := upd v.pages pg fun g =>
      { g with quarter := some q, since := s.cycle, enabledAt := s.cycle, idle := false } }) (exec_pagerLoad ..) ?_ ⟨?_, rfl⟩
  · simp only [hsaved, hg, if_neg (Nat.not_lt.2 hdue)]
  · rw [look_upd, if_pos rfl, hg]; rfl

theorem after_pagerOpen {q pg since : Nat} (hloaded : v.pager = .loaded q pg since) (hdue : since ≤ s.cycle)
    (hfree : v.injectWaits q = false) : After s (.pagerOpen n) fun c => (c.serai n.toNat).pager = .idle := by
  refine after_seraiStep h hv (P := fun w => w.pager = _) (g := fun v => { v with pager := .idle }) (exec_pagerOpen ..) ?_ rfl
  simp only [hloaded, hfree, Bool.false_eq_true, or_false, if_neg (Nat.not_lt.2 hdue)]

/-! ## Limits that expire (R298, R299) -/

theorem after_pageIdleExpiry {k : BitVec 8} {g : Page} (hg : look v.pages k.toNat = some g) (hres : g.quarter.isSome = true)
    (hoff : g.enabled = false) (hlate : g.enabledAt + 4096 ≤ s.cycle) :
    After s (.pageIdleExpiry n k) fun c => look (c.serai n.toNat).pages k.toNat = some { g with idle := true } := by
  refine after_seraiStep h hv (P := fun w => look w.pages k.toNat = _)
    (g := fun v => { v with pages := upd v.pages k.toNat fun x => { x with idle := true } }) (exec_pageIdleExpiry ..) ?_ ?_
  · simp only [hg, Option.isNone_eq_false_iff.2 hres, hoff, Bool.false_eq_true, false_or, if_neg (Nat.not_lt.2 hlate)]
  · rw [look_upd, if_pos rfl, hg]; rfl

theorem after_pagerExclusionExpiry {k : BitVec 8} {g : Page} {t : Nat} (hg : look v.pages k.toNat = some g)
    (ht : g.excludedAt = some t) (hlate : t + 65536 ≤ s.cycle) :
    After s (.pagerExclusionExpiry n k) fun c => look (c.serai n.toNat).pages k.toNat = some { g with excludedAt := none } := by
  refine after_seraiStep h hv (P := fun w => look w.pages k.toNat = _)
    (g := fun v => { v with pages := upd v.pages k.toNat fun x => { x with excludedAt := none } }) (exec_pagerExclusionExpiry ..) ?_ ?_
  · simp only [hg, Option.bind_some, ht, if_neg (Nat.not_lt.2 hlate)]
  · rw [look_upd, if_pos rfl, hg]; rfl

end

/-- Settles O37: every step of the pager is a change of its own serai (`after_seraiStep`), one lemma for each step and outcome. -/
theorem pagerSteps : Obligations.PagerSteps := by
  intro s n u d v pg vic q since g x h hv
  refine ⟨fun hidle hcand => ⟨fun k => after_pagerClose_free h hv hidle hcand,
      fun hfull => after_pagerClose_victim h hv hidle hcand hfull⟩,
    fun hclosing hx => ⟨after_pagerCloseTimeout h hv hclosing hx, after_pagerSave h hv hclosing hx⟩,
    after_pagerLoad h hv, after_pagerOpen h hv,
    fun k hg => ⟨after_pageIdleExpiry h hv hg, fun t => after_pagerExclusionExpiry h hv hg⟩⟩

end Sys2Proof.Claims
end

section
/-!
SUPPORT. The bazaar (R284 to R295): the first of some entries, what happens to tasks and drovers when a caravan is put on its
serais, and what passing over leaves of a caravan.
-/

namespace Sys2Proof.Machine

/-! ## The first of a list -/

theorem mem_of_firstBy {α : Type} {before : α → α → Bool} {l : List α} {a : α} (h : firstBy before l = some a) : a ∈ l := by
  induction l generalizing a with
  | nil => cases h
  | cons x r ih =>
    rw [firstBy] at h
    cases hr : firstBy before r with
    | none => rw [hr] at h; cases h; exact .head _
    | some b =>
      rw [hr] at h
      dsimp only at h
      split at h
      · cases h; exact .tail _ (ih hr)
      · cases h; exact .head _

/-- An entry that stands before every other is the first, wherever it stands in the list. -/
theorem firstBy_eq_some {α : Type} {before : α → α → Bool} {a : α} {l : List α} (ha : a ∈ l)
    (hfirst : ∀ b, b ∈ l → b = a ∨ (before a b = true ∧ before b a = false)) : firstBy before l = some a := by
  induction l with
  | nil => cases ha
  | cons x r ih =>
    have hrest : ∀ b, b ∈ r → b = a ∨ (before a b = true ∧ before b a = false) := fun b hb => hfirst b (.tail _ hb)
    rw [firstBy]
    by_cases har : a ∈ r
    · rw [ih har hrest]
      rcases hfirst x (.head _) with rfl | ⟨hax, -⟩
      · exact ite_self _
      · exact if_pos hax
    · obtain rfl : a = x := (List.mem_cons.1 ha).resolve_right har
      cases hr : firstBy before r with
      | none => rfl
      | some b =>
        rcases hrest b (mem_of_firstBy hr) with rfl | ⟨-, hba⟩
        · exact ite_self _
        · exact if_neg (by rw [hba]; exact Bool.false_ne_true)

theorem mem_of_look {α : Type} {m : SMap α} {i : Nat} {v : α} (h : look m i = some v) : (i, v) ∈ m := by
  induction m with
  | nil => cases h
  | cons p m ih =>
    rw [look] at h
    split at h
    · cases h; subst_vars; exact .head _
    · exact .tail _ (ih h)

/-! ## What a step of the bazaar leaves of a caravan -/

section

variable {c : Chip} {cv : Nat} {v : Caravan}

theorem Chip.spillFreed_caravan? (e : Nat) : (c.spillFreed e).caravan? cv = c.caravan? cv := by
  unfold Chip.spillFreed
  split <;> rfl

theorem Chip.onBazaar_caravan? (die : Nat) (f : Bazaar → Bazaar) : (c.onBazaar die f).caravan? cv = c.caravan? cv := rfl

theorem Chip.onBazaar_tasksKept (c : Chip) (die : Nat) (f : Bazaar → Bazaar) : c.TasksKept (c.onBazaar die f) := ⟨rfl, rfl⟩

theorem Chip.onBazaar_bazaar {die : Nat} {b : Bazaar} (h : c.sched.bazaars[die]? = some b) (f : Bazaar → Bazaar) :
    (c.onBazaar die f).sched.bazaars[die]? = some (f b) := by
  obtain ⟨hlt, rfl⟩ := Vector.getElem?_eq_some_iff.1 h
  simp [Chip.onBazaar, hlt]

/-- A caravan that a scan passes over keeps everything but the cycle since which it is passed over (R288). -/
theorem Chip.passOver_caravan? (h : c.caravan? cv = some v) (die cycle : Nat) (stop : Option Caravan) :
    ∃ t, (c.passOver die cycle stop).caravan? cv = some { v with passedAt := t } := by
  refine List.foldlRecOn _ _ (motive := fun c' : Chip => ∃ t, c'.caravan? cv = some { v with passedAt := t }) ⟨_, h⟩
    fun c' ⟨t, ht⟩ p _ => ?_
  split
  · exact ⟨t, ht⟩
  · by_cases hp : cv = p.1
    · subst hp
      exact ⟨_, Chip.onCaravan_caravan? ht _⟩
    · exact ⟨t, (look_upd ..).trans ((if_neg hp).trans ht)⟩

theorem Chip.passOver_tasksKept (c : Chip) (die cycle : Nat) (stop : Option Caravan) : c.TasksKept (c.passOver die cycle stop) := by
  refine Chip.foldl_tasksKept (fun c' p => ?_) _ _
  split
  · exact .rfl
  · exact c'.onCaravan_tasksKept ..

end

/-! ## Members (R280) -/

/-- Tasks changed one by one: those of the list are changed, and no other. -/
theorem Chip.foldl_onTask_task? {f : Task → Task} (hf : ∀ t, f (f t) = f t) (l : List Nat) (c : Chip) (m : Nat) :
    (l.foldl (fun c u => c.onTask u f) c).task? m = if m ∈ l then (c.task? m).map f else c.task? m := by
  induction l generalizing c with
  | nil => rfl
  | cons u l ih =>
    rw [List.foldl_cons, ih, Chip.onTask_task?]
    by_cases hu : m = u
    · subst hu
      simp [Function.comp_def, hf]
    · simp [hu]

theorem Chip.setMembers_task? (c : Chip) (v : Caravan) (st : TaskState) (m : Nat) : (c.setMembers v st).task? m =
    if m ∈ c.living v then (c.task? m).map fun t => { t with state := st } else c.task? m :=
  Chip.foldl_onTask_task? (f := fun t => { t with state := st }) (fun _ => rfl) ..

theorem Chip.TasksKept.living {c c' : Chip} (h : c.TasksKept c') (v : Caravan) : c'.living v = c.living v := by
  simp only [Chip.living, h.task?]

theorem Chip.mem_living {c : Chip} {v : Caravan} {u : Nat} {t : Task} (hu : u ∈ v.members) (ht : c.task? u = some t)
    (halive : t.alive = true) : u ∈ c.living v :=
  List.mem_filter.2 ⟨hu, by rw [ht]; exact halive⟩

/-! ## A member put on its serai (R290) -/

theorem Chip.onDrover_sched (c : Chip) (u : Nat) (f : Drover → Drover) : (c.onDrover u f).sched = c.sched := by
  unfold Chip.onDrover
  split <;> rfl

theorem Chip.prepareSerai_tasksKept (c : Chip) (e n : Nat) : c.TasksKept (c.prepareSerai e n) := by
  unfold Chip.prepareSerai
  split <;> exact ⟨rfl, rfl⟩

theorem Chip.prepareSerai_sched (c : Chip) (e n : Nat) : (c.prepareSerai e n).sched = c.sched := by
  unfold Chip.prepareSerai
  split <;> rfl

/-- Whoever held a serai is off it, and its windows live again. -/
def Chip.vacated (c : Chip) (n : Nat) : Chip :=
  (match c.holder? n with
    | some u => c.onDrover u fun d => { d with core := none }
    | none => c).onSched fun s => { s with dead := eraseNat s.dead n }

theorem Chip.placeMember_saved {c : Chip} {p : Nat × Nat} (h : ((c.vacated p.2).task? p.1).any (fun t => t.slot.isSome) = true)
    (cycle e : Nat) : c.placeMember cycle e p =
      ((c.vacated p.2).onSched fun s => { s with restoring := put s.restoring p.2 p.1 }).onDrover p.1 fun d =>
        { d with blockedAt := if d.held then some (cycle, 34) else none } := if_pos h

theorem Chip.placeMember_new {c : Chip} {p : Nat × Nat} (h : ((c.vacated p.2).task? p.1).any (fun t => t.slot.isSome) = false)
    (cycle e : Nat) : c.placeMember cycle e p =
      (((c.vacated p.2).prepareSerai e p.2).onSched fun s => { s with lastExp := put s.lastExp p.2 e }).onDrover p.1 fun d =>
        { d with core := some p.2, run := .starting cycle } := if_neg ((Bool.not_eq_true _).mpr h)

theorem Chip.vacated_sched (c : Chip) (n : Nat) : (c.vacated n).sched = { c.sched with dead := eraseNat c.sched.dead n } := by
  unfold Chip.vacated
  split
  · rw [Chip.onSched_sched, Chip.onDrover_sched]
  · rfl

/-- A drover keeps all but its serai when one is vacated. -/
theorem Chip.vacated_drover? {c : Chip} {u : Nat} {d : Drover} (h : c.drover? u = some d) (n : Nat) :
    ∃ k, (c.vacated n).drover? u = some { d with core := k } := by
  unfold Chip.vacated
  split
  case h_1 w _ =>
    by_cases hw : u = w
    · subst hw
      exact ⟨none, Chip.onDrover_drover? h _⟩
    · refine ⟨d.core, Eq.trans ?_ h⟩
      unfold Chip.onDrover
      split
      · rfl
      · exact (Chip.setDrover_drover? ..).trans (if_neg hw)
  case h_2 => exact ⟨d.core, h⟩

/-- Placing a member changes no task and no caravan. -/
theorem Chip.placeMember_kept (c : Chip) (cycle e : Nat) (p : Nat × Nat) :
    (c.placeMember cycle e p).sched.tasks = c.sched.tasks ∧ (c.placeMember cycle e p).sched.caravans = c.sched.caravans := by
  cases h : ((c.vacated p.2).task? p.1).any fun t => t.slot.isSome with
  | true => rw [Chip.placeMember_saved h, Chip.onDrover_sched, Chip.onSched_sched, Chip.vacated_sched]; exact ⟨rfl, rfl⟩
  | false =>
    rw [Chip.placeMember_new h, Chip.onDrover_sched, Chip.onSched_sched, Chip.prepareSerai_sched, Chip.vacated_sched]
    exact ⟨rfl, rfl⟩

theorem Chip.foldl_placeMember_kept (c : Chip) (cycle e : Nat) (l : List (Nat × Nat)) :
    (l.foldl (fun c p => c.placeMember cycle e p) c).sched.tasks = c.sched.tasks ∧
      (l.foldl (fun c p => c.placeMember cycle e p) c).sched.caravans = c.sched.caravans :=
  List.foldlRecOn _ _ (motive := fun c' : Chip => c'.sched.tasks = c.sched.tasks ∧ c'.sched.caravans = c.sched.caravans) ⟨rfl, rfl⟩
    fun c' ⟨ht, hc⟩ p _ => ⟨(c'.placeMember_kept cycle e p).1.trans ht, (c'.placeMember_kept cycle e p).2.trans hc⟩

/-- The drover of a task that was never saved starts on its serai. -/
theorem Chip.placeMember_starts {c : Chip} {u n : Nat} {d : Drover} (hd : c.drover? u = some d)
    (hslot : ∀ t, c.task? u = some t → t.slot = none) (cycle e : Nat) :
    (c.placeMember cycle e (u, n)).drover? u = some { d with core := some n, run := .starting cycle } := by
  have hnew : ((c.vacated n).task? u).any (fun t => t.slot.isSome) = false := by
    rw [Chip.task?, Chip.vacated_sched]
    refine Option.any_eq_false .. |>.2 fun t ht => ?_
    rw [hslot t ht]; rfl
  obtain ⟨k, hk⟩ := Chip.vacated_drover? hd n
  rw [Chip.placeMember_new (p := (u, n)) hnew]
  exact Chip.onDrover_drover? (d := { d with core := k })
    (((((c.vacated n).prepareSerai_tasksKept e n).trans (Chip.onSched_tasksKept _ rfl)).drover? u).trans hk) _

/-! ## Dispatch (R288) -/

/-- The chip with a caravan's members on their serais: the entries that came before it have been passed over, unless one reserves. -/
def Chip.boarded (c : Chip) (cycle die : Nat) (v : Caravan) (l : List (Nat × Nat)) : Chip :=
  l.foldl (fun c p => c.placeMember cycle v.exp p)
    ((if ((c.sched.bazaars[die]?).bind (·.reserving)).isSome then c else c.passOver die cycle (some v)).setMembers v .dispatched)

section

variable {c : Chip} {cv : Nat} {v : Caravan} (h : c.caravan? cv = some v) (cycle die : Nat) (w : Caravan) (l : List (Nat × Nat))

/-- The chip after the scan of a dispatch. -/
theorem Chip.scanned_tasksKept (c : Chip) :
    c.TasksKept (if ((c.sched.bazaars[die]?).bind (·.reserving)).isSome then c else c.passOver die cycle (some w)) := by
  split
  · exact .rfl
  · exact c.passOver_tasksKept ..

include h in
theorem Chip.boarded_caravan? : ∃ t, (c.boarded cycle die w l).caravan? cv = some { v with passedAt := t } := by
  have hscan : ∃ t, (if ((c.sched.bazaars[die]?).bind (·.reserving)).isSome then c else c.passOver die cycle (some w)).caravan? cv =
      some { v with passedAt := t } := by
    split
    · exact ⟨_, h⟩
    · exact Chip.passOver_caravan? h ..
  obtain ⟨t, ht⟩ := hscan
  refine ⟨t, ?_⟩
  rw [Chip.caravan?, Chip.boarded, (Chip.foldl_placeMember_kept ..).2, Chip.setMembers_caravans]
  exact ht

theorem Chip.boarded_task? (u : Nat) : (c.boarded cycle die w l).task? u =
    if u ∈ c.living w then (c.task? u).map fun t => { t with state := .dispatched } else c.task? u := by
  have hscan := c.scanned_tasksKept cycle die w
  rw [Chip.task?, Chip.boarded, (Chip.foldl_placeMember_kept ..).1]
  refine (Chip.setMembers_task? ..).trans ?_
  rw [hscan.living, hscan.task?]

/-- The drover of a caravan's one member, which was never saved, starts on its serai. -/
theorem Chip.boarded_starts {u n : Nat} {d : Drover} {t : Task} (hd : c.drover? u = some d) (ht : c.task? u = some t)
    (hslot : t.slot = none) : (c.boarded cycle die w [(u, n)]).drover? u = some { d with core := some n, run := .starting cycle } := by
  have hscan := c.scanned_tasksKept cycle die w
  refine Chip.placeMember_starts ?_ (fun t' ht' => ?_) ..
  · exact (Chip.drover?_congr (Chip.setMembers_drovers ..) u).trans ((hscan.drover? u).trans hd)
  · rw [Chip.setMembers_task?, hscan.living, hscan.task?, ht] at ht'
    split at ht'
    · cases ht'; exact hslot
    · cases ht'; exact hslot

end

/-! ## Places in the queues (R287, R292) -/

theorem Chip.onBazaar_queueLen (c : Chip) (k : Nat) (f : Bazaar → Bazaar) (die : Nat) :
    (c.onBazaar k f).queueLen die = c.queueLen die := rfl

theorem Chip.onBazaar_takesEntry (c : Chip) (k : Nat) (f : Bazaar → Bazaar) (die e : Nat) :
    (c.onBazaar k f).takesEntry die e = c.takesEntry die e := rfl

end Sys2Proof.Machine
end

section
/-!
PROOF. The bazaar's own steps (R286 to R295).
-/

namespace Sys2Proof.Claims

open Sys2Proof.Machine

/-! ## The events -/

theorem exec_dispatch (s : State) (die : BitVec 3) : exec (.dispatch die) s = execDispatch die s := rfl

theorem exec_reserving (s : State) (die : BitVec 3) : exec (.reserving die) s = execReserving die s := rfl

theorem exec_aging (s : State) (cv : Nat) : exec (.aging cv) s = execAging cv s := rfl

theorem exec_spillRefill (s : State) (die : BitVec 3) (e : Nat) : exec (.spillRefill die e) s = execSpillRefill die e s := rfl

theorem exec_advertise (s : State) (die : BitVec 3) : exec (.advertise die) s = execAdvertise die s := rfl

theorem exec_migrationSend (s : State) (die : BitVec 3) : exec (.migrationSend die) s = execMigrationSend die s := rfl

theorem exec_migrationReceive (s : State) (die : BitVec 3) : exec (.migrationReceive die) s = execMigrationReceive die s := rfl

theorem exec_yieldThreshold (s : State) (cv : Nat) : exec (.yieldThreshold cv) s = execYieldThreshold cv s := rfl

theorem exec_deadlockPreempt (s : State) (die : BitVec 3) (e : Nat) : exec (.deadlockPreempt die e) s = execDeadlockPreempt die e s := rfl

theorem exec_moduleAdvertise (s : State) (dev : BitVec 9) : exec (.moduleAdvertise dev) s = execModuleAdvertise dev s := rfl

theorem exec_moduleMigration (s : State) (die : BitVec 3) (dev : BitVec 9) :
    exec (.moduleMigration die dev) s = execModuleMigration die dev s := rfl

section

variable {s : State} {cv : Nat} {v : Caravan} (h : s.chip.caravan? cv = some v)

include h

/-! ## Dispatch (R288) -/

omit h in
/-- The entry that is next, with nothing to write out for it, boards. -/
theorem after_dispatch {die : BitVec 3} {l : List (Nat × Nat)} {w : Caravan} {P : Chip → Prop}
    (hfits : firstEntry ((s.chip.queuedAt s.cycle die.toNat).filter fun p => s.chip.neverFits p.2) = none)
    (hidle : s.chip.dispatched s.cycle die.toNat = false) (hnext : s.chip.nextDispatch s.cycle die.toNat = some (cv, w, l))
    (hout : s.chip.writeouts l = [])
    (hP : ∀ g, P (((s.chip.boarded s.cycle die.toNat w l).onCaravan cv fun x =>
      { x with place := .resident die.toNat, dispatchedAt := s.cycle, passedAt := none, prio := w.prio, reason := none,
               wake := false }).onBazaar die.toNat g)) : After s (.dispatch die) P := by
  refine after_of_eventStep (exec_dispatch ..) ?_
  simp only [hfits, hidle, Bool.false_eq_true, if_false, hnext, hout, ne_eq, not_true_eq_false]
  exact hP _

theorem after_dispatch_next {die : BitVec 3} {l : List (Nat × Nat)}
    (hfits : firstEntry ((s.chip.queuedAt s.cycle die.toNat).filter fun p => s.chip.neverFits p.2) = none)
    (hidle : s.chip.dispatched s.cycle die.toNat = false)
    (hnext : s.chip.nextDispatch s.cycle die.toNat = some (cv, { v with prio := v.levelAt s.cycle }, l))
    (hout : s.chip.writeouts l = []) : After s (.dispatch die) fun c =>
      CaravanIs c cv { v with place := .resident die.toNat, dispatchedAt := s.cycle, passedAt := none, prio := v.levelAt s.cycle,
                              reason := none, wake := false } ∧
        (∀ u t, u ∈ v.members → s.chip.task? u = some t → t.alive = true → ∃ t', c.task? u = some t' ∧ t'.state = .dispatched) ∧
        (∀ u n d t, l = [(u, n)] → s.chip.drover? u = some d → s.chip.task? u = some t → t.slot = none →
          c.drover? u = some { d with core := some n, run := .starting s.cycle }) := by
  refine after_dispatch hfits hidle hnext hout fun g => ?_
  have hkept := ((s.chip.boarded s.cycle die.toNat { v with prio := v.levelAt s.cycle } l).onCaravan_tasksKept cv fun x =>
    { x with place := .resident die.toNat, dispatchedAt := s.cycle, passedAt := none, prio := v.levelAt s.cycle, reason := none,
             wake := false }).trans (Chip.onBazaar_tasksKept _ die.toNat g)
  refine ⟨?resident, ?members, ?starts⟩
  case resident =>
    obtain ⟨t, ht⟩ := Chip.boarded_caravan? h s.cycle die.toNat { v with prio := v.levelAt s.cycle } l
    exact (Chip.onBazaar_caravan? ..).trans (Chip.onCaravan_caravan? ht _)
  case members =>
    intro u t hu ht halive
    refine ⟨{ t with state := .dispatched }, (hkept.task? u).trans ((Chip.boarded_task? ..).trans ?_), rfl⟩
    have hliving : u ∈ s.chip.living { v with prio := v.levelAt s.cycle } := Chip.mem_living hu ht halive
    rw [if_pos hliving, ht]
    rfl
  case starts =>
    rintro u n d t rfl hd ht hslot
    exact (hkept.drover? u).trans (Chip.boarded_starts s.cycle die.toNat _ hd ht hslot)

omit h in
theorem after_reserving {die : BitVec 3} {b : Bazaar} {t : Nat} (hhead : firstEntry (s.chip.queued die.toNat) = some (cv, v))
    (hb : s.chip.sched.bazaars[die.toNat]? = some b) (hnone : b.reserving = none) (hpassed : v.passedAt = some t)
    (hlate : t + 65536 ≤ s.cycle) :
    After s (.reserving die) fun c => c.sched.bazaars[die.toNat]? = some { b with reserving := some cv } := by
  have hdue : (v.passedAt.any fun t => decide (t + 65536 ≤ s.cycle)) = true :=
    (Option.any_eq_true ..).2 ⟨t, hpassed, decide_eq_true hlate⟩
  refine after_of_eventStep (exec_reserving ..) ?_
  simp only [hhead, hb, Option.bind_some, hnone, hdue, if_true]
  exact Chip.onBazaar_bazaar hb fun b => { b with reserving := some cv }

/-! ## Aging and the spill area (R286, R287) -/

theorem after_aging {die : Nat} (hplace : v.place = .queue die) (hdue : v.agedAt + 2 ^ 20 ≤ s.cycle) :
    After s (.aging cv) fun c => CaravanIs c cv { v with prio := min 7 (v.prio + 1), agedAt := v.agedAt + 2 ^ 20,
                                                         rose := if v.prio < 7 then some s.cycle else v.rose } := by
  refine after_of_eventStep (exec_aging ..) ((Chip.onCaravan_caravan? h _).trans ?_)
  simp only [hplace, if_pos hdue]

theorem after_spillRefill {die : BitVec 3} {k : Nat} (hroom : s.chip.queueLen die.toNat < 2048)
    (hnext : s.chip.nextSpilled die.toNat v.exp = some (k, false, cv)) :
    After s (.spillRefill die v.exp) fun c => CaravanIs c cv { v with place := .queue die.toNat, agedAt := s.cycle } := by
  refine after_of_eventStep (exec_spillRefill ..) ?_
  simp only [if_neg (Nat.not_le.2 hroom), hnext]
  exact (Chip.spillFreed_caravan? ..).trans (Chip.onCaravan_caravan? h _)

/-! ## Migration (R292, R293) -/

theorem after_migrationSend {die : BitVec 3} {k : Nat} (hpick : s.chip.migrationPick die.toNat = some (cv, v, k))
    (hfull : s.chip.imagesFull v = true) :
    After s (.migrationSend die) fun c => CaravanIs c cv { v with place := .migrating die.toNat k } := by
  refine after_of_eventStep (exec_migrationSend ..) ?_
  simp only [hpick, hfull, if_true]
  exact Chip.onCaravan_caravan? h _

/-- The one entry that comes to a die is the one that it receives. -/
theorem firstBy_arriving {die src : Nat} (hplace : v.place = .migrating src die)
    (honly : ∀ p, p ∈ s.chip.sched.caravans → (p.2.comesTo die).isSome = true → p = (cv, v))
    (before : Nat × Caravan → Nat × Caravan → Bool) :
    firstBy before (s.chip.sched.caravans.filter fun p => (p.2.comesTo die).isSome) = some (cv, v) := by
  have hcomes : (v.comesTo die).isSome = true := by simp [Caravan.comesTo, hplace]
  refine firstBy_eq_some (List.mem_filter.2 ⟨mem_of_look h, hcomes⟩) fun p hp => ?_
  obtain ⟨hmem, hcome⟩ := List.mem_filter.1 hp
  exact .inl (honly p hmem hcome)

theorem after_migrationReceive {die : BitVec 3} {src : Nat} (hplace : v.place = .migrating src die.toNat)
    (honly : ∀ p, p ∈ s.chip.sched.caravans → (p.2.comesTo die.toNat).isSome = true → p = (cv, v)) :
    After s (.migrationReceive die) fun c => ∃ v', CaravanIs c cv v' ∧ v'.prio = v.prio ∧ v'.ready = v.ready ∧ v'.members = v.members ∧
      v'.place = if s.chip.takesEntry die.toNat v.exp = false then .queue src
        else if s.chip.queueLen die.toNat < 2048 then .queue die.toNat else .spilled die.toNat := by
  have hsrc : (v.comesTo die.toNat).getD 0 = src := by simp [Caravan.comesTo, hplace]
  refine after_of_eventStep (exec_migrationReceive ..) ?_
  simp only [firstBy_arriving h hplace honly, hsrc, Chip.onBazaar_takesEntry, Chip.onBazaar_queueLen]
  cases htakes : s.chip.takesEntry die.toNat v.exp with
  | false =>
    refine ⟨_, Chip.onCaravan_caravan? (v := v) ?_ _, rfl, rfl, rfl, rfl⟩
    rw [Chip.onBazaar_caravan?]
    exact h
  | true =>
    by_cases hroom : s.chip.queueLen die.toNat < 2048
    · simp only [hroom, decide_true, Bool.not_true, Bool.false_eq_true, Bool.true_eq_false, if_false, if_true]
      refine ⟨_, Chip.onCaravan_caravan? (v := v) ?_ _, rfl, rfl, rfl, rfl⟩
      rw [Chip.onBazaar_caravan?, Chip.onBazaar_caravan?, Chip.onBazaar_caravan?]
      exact h
    · simp only [hroom, decide_false, Bool.not_true, Bool.false_eq_true, Bool.true_eq_false, if_false]
      refine ⟨_, (congrArg (look · cv) (Chip.writeSpill_caravans ..)).trans (Chip.onCaravan_caravan? (v := v) ?_ _), rfl, rfl, rfl, rfl⟩
      rw [Chip.onBazaar_caravan?, Chip.onBazaar_caravan?, Chip.onBazaar_caravan?]
      exact h

theorem after_moduleMigration {die : BitVec 3} {dev : BitVec 9} (hpick : s.chip.modulePick s.cycle die.toNat = some (cv, v))
    (htravel : s.chip.mayTravel v = true) (hset : ∃ x, s.chip.exp? v.exp = some x ∧ x.modules.contains dev.toNat = true)
    (haway : dev ≠ s.chip.mgmt.devid) (hlink : (s.chip.linkTo dev.toNat).isSome = true)
    (hroom : v.members.length ≤ lookD s.chip.sched.modAdverts dev.toNat 0) :
    After s (.moduleMigration die dev) fun c => CaravanIs c cv { v with place := .migrating die.toNat (8 + dev.toNat) } := by
  obtain ⟨x, hx, hmod⟩ := hset
  have hne : (dev.toNat != s.chip.mgmt.devid.toNat) = true := bne_iff_ne.2 fun he => haway (BitVec.eq_of_toNat_eq he)
  refine after_of_eventStep (exec_moduleMigration ..) ?_
  simp only [hpick, htravel, hx, Option.any_some, hmod, hne, hlink, hroom, decide_true, Bool.and_self, if_true]
  rw [CaravanIs, Chip.caravan?, Chip.send_sched]
  exact Chip.onCaravan_caravan? h _

/-! ## Yield and resident deadlock (R281, R294, R295) -/

theorem after_yieldThreshold {die : Nat} (hplace : v.place = .resident die) (hpin : v.pinned = false) (hreason : v.reason = none)
    (hliving : s.chip.living v ≠ []) (hblocked : s.chip.allBlocked s.cycle (fun d => d.ctl.yieldth.toNat) v = true) :
    After s (.yieldThreshold cv) fun c => CaravanIs c cv { v with reason := some 0 } := by
  have hsaved : CaravanIs (s.chip.onCaravan cv fun v => { v with reason := some 0 }) cv { v with reason := some 0 } :=
    Chip.onCaravan_caravan? h _
  refine after_of_eventStep (exec_yieldThreshold ..) ?_
  generalize ({ v with reason := some 0 } : Caravan) = w at hsaved ⊢
  simp only [h, hplace, hpin, hreason, hliving, hblocked, Bool.not_false, ne_eq, not_false_eq_true, and_self, if_true]
  exact hsaved

theorem after_deadlockPreempt {die : BitVec 3} {b : Bazaar} {t : Nat} (hb : s.chip.sched.bazaars[die.toNat]? = some b)
    (ht : look b.deadlock v.exp = some t) (hlate : t + 65536 ≤ s.cycle) (hres : (cv, v) ∈ s.chip.residents die.toNat v.exp)
    (hreason : v.reason = none)
    (hfirst : ∀ p, p ∈ s.chip.residents die.toNat v.exp → p.2.reason = none → p = (cv, v) ∨ sooner v p.2) :
    After s (.deadlockPreempt die v.exp) fun c => CaravanIs c cv { v with reason := some 2 } := by
  have hdue : ((look b.deadlock v.exp).any fun t => decide (t + 65536 ≤ s.cycle)) = true :=
    (Option.any_eq_true ..).2 ⟨t, ht, decide_eq_true hlate⟩
  refine after_of_eventStep (exec_deadlockPreempt ..) ?_
  simp only [hb, Option.bind_some, hdue, Bool.not_true, Bool.false_eq_true, if_false]
  rw [firstBy_eq_some (a := (cv, v)) (List.mem_filter.2 ⟨hres, by simp [hreason]⟩) fun p hp => ?first]
  case first =>
    obtain ⟨hmem, hnone⟩ := List.mem_filter.1 hp
    refine (hfirst p hmem (Option.isNone_iff_eq_none.1 hnone)).imp_right fun hs => ?_
    unfold sooner at hs
    dsimp only
    exact ⟨decide_eq_true hs, decide_eq_false (by omega)⟩
  exact Chip.onCaravan_caravan? h _

end

/-- R286 to R295. -/
theorem bazaarSteps : BazaarSteps := by
  intro s cv v h
  exact ⟨fun die l => after_dispatch_next h, fun die b t => after_reserving, fun die => after_aging h, fun die k => after_spillRefill h,
    fun die k => after_migrationSend h, fun die src => after_migrationReceive h, fun die dev => after_moduleMigration h,
    fun die => after_yieldThreshold h, fun die b t => after_deadlockPreempt h⟩

/-! ## Advertisements (R292, R293) -/

section

variable {s : State}

theorem after_advertise {die : BitVec 3} {b : Bazaar} (hb : s.chip.sched.bazaars[die.toNat]? = some b)
    (hdue : b.advertisedAt + 4096 ≤ s.cycle) : After s (.advertise die) fun c => c.sched.bazaars[die.toNat]? =
      some { b with advertised := (s.chip.freeSerais die.toNat).length, advertisedAt := s.cycle } := by
  refine after_of_eventStep (exec_advertise ..) ?_
  simp only [hb, Option.any_some, decide_eq_false (Nat.not_lt.2 hdue), Bool.false_eq_true, if_false]
  exact Chip.onBazaar_bazaar hb fun b => { b with advertised := (s.chip.freeSerais die.toNat).length, advertisedAt := s.cycle }

/-- A packet sent is queued on the link that leads to its device. -/
theorem shipped_send (p : Packet) {c : Chip} (hto : c.linkTo p.dst = s.chip.linkTo p.dst) (hlinks : c.links = s.chip.links) :
    Shipped s (c.send p) p := by
  intro l k hl hk
  rw [Chip.send, hto, hl]
  exact (Chip.queuePacket_links? ..).trans (by rw [if_pos rfl, hlinks, hk]; rfl)

theorem after_moduleAdvertise {dev : BitVec 9} (hmod : s.chip.modules.contains dev.toNat = true) (haway : dev ≠ s.chip.mgmt.devid)
    (hdue : ∀ t, look s.chip.sched.advertSent dev.toNat = some t → t + 65536 ≤ s.cycle) :
    After s (.moduleAdvertise dev) fun c => look c.sched.advertSent dev.toNat = some s.cycle ∧
      Shipped s c { ptype := 10, err := 0, dst := dev.toNat, src := s.chip.mgmt.devid.toNat, tag := 0, addr := 0,
                    data := leBytes s.chip.roomiest.2 2 ++ leBytes s.chip.largestDie 2 } := by
  have hne : (dev.toNat == s.chip.mgmt.devid.toNat) = false := beq_false_of_ne fun he => haway (BitVec.eq_of_toNat_eq he)
  have hquiet : (look s.chip.sched.advertSent dev.toNat).any (fun t => decide (s.cycle < t + 65536)) = false :=
    (Option.any_eq_false ..).2 fun t ht => by
      rw [decide_eq_false (Nat.not_lt.2 (hdue t ht))]
  refine after_of_eventStep (exec_moduleAdvertise ..) ?_
  simp only [hmod, hne, hquiet, Bool.not_true, Bool.or_self, Bool.false_eq_true, if_false]
  exact ⟨by rw [Chip.send_sched]; exact look_put_same .., shipped_send _ rfl rfl⟩

end

/-- R292, R293. -/
theorem advertisements : Advertisements :=
  fun _ => ⟨fun _ _ => after_advertise, fun _ => after_moduleAdvertise⟩

/-- Settles O39: the entry that is dispatched boards, whatever the scan has passed over (`Chip.boarded_caravan?`,
`Chip.boarded_task?`, `Chip.boarded_starts`); the entry that comes to a die and the one that resident deadlock saves are the first of
their lists (`firstBy_eq_some`); the other steps are one change of their caravan, their bazaar or their link each. -/
theorem bazaar : Obligations.Bazaar := ⟨bazaarSteps, advertisements⟩

end Sys2Proof.Claims
end

section
/-!
SUPPORT. Host memory (R253, R356): what a long write leaves of every byte.
-/

namespace Sys2Proof.Machine

/-- Host memory has one name for each byte. -/
theorem canon_host {pa : Nat} (h1 : hostBase ≤ pa) (h2 : pa < hostBase + hostBytes) : canon pa = pa := by
  simp only [hostBase, hostBytes] at h1 h2
  have hregion : regionOf pa = .host := by
    unfold regionOf
    iterate 8 rw [if_neg (by omega)]
    rw [if_pos (by omega)]
  rw [canon, hregion]

theorem Homes.byte_write (h : Homes) (pa : Nat) (bs : List Byte) (x : Nat) : (h.write pa bs).byte x =
    if canon pa ≤ canon x ∧ canon x < canon pa + bs.length then bs.getD (canon x - canon pa) Memory.background else h.byte x :=
  Memory.read_write ..

/-- A long write over bytes that each have one name: the bytes written there, and every other byte as it was. -/
theorem Homes.byte_writeLong {pa : Nat} {bs : List Byte} (hname : ∀ x, pa ≤ x → x < pa + bs.length → canon x = x) {fuel : Nat}
    (hfuel : bs.length + pa % 4096 ≤ 4096 * fuel) (h : Homes) (x : Nat) : (h.writeLong pa fuel bs).byte x =
      if pa ≤ canon x ∧ canon x < pa + bs.length then bs.getD (canon x - pa) Memory.background else h.byte x := by
  induction fuel generalizing h pa bs with
  | zero =>
    have hempty : bs.length = 0 := by omega
    rw [if_neg (by omega)]
    rfl
  | succ fuel ih =>
    rw [Homes.writeLong]
    by_cases hbs : bs = []
    · subst hbs
      rw [if_pos rfl, if_neg (by simp)]
    have hpos : 0 < bs.length := List.length_pos_iff.2 hbs
    have hhere : canon pa = pa := hname pa (Nat.le_refl _) (by omega)
    have hmod : (pa + (4096 - pa % 4096)) % 4096 = 0 := by omega
    have hdrop : (bs.drop (4096 - pa % 4096)).length = bs.length - (4096 - pa % 4096) := List.length_drop
    have htake : (bs.take (4096 - pa % 4096)).length = min (4096 - pa % 4096) bs.length := List.length_take
    rw [if_neg hbs]
    dsimp only
    rw [ih (fun y h1 h2 => hname y (by omega) (by omega)) (by omega), Homes.byte_write, hhere, hdrop, htake]
    by_cases hin : pa ≤ canon x ∧ canon x < pa + bs.length
    · obtain ⟨hlo, hhi⟩ := hin
      rw [if_pos (And.intro hlo hhi)]
      by_cases hframe : pa + (4096 - pa % 4096) ≤ canon x
      · rw [if_pos (by omega), List.getD_eq_getElem?_getD, List.getD_eq_getElem?_getD, List.getElem?_drop]
        congr 2
        omega
      · rw [if_neg (by omega), if_pos (by omega), List.getD_eq_getElem?_getD, List.getD_eq_getElem?_getD,
          List.getElem?_take_of_lt (by omega)]
    · rw [if_neg hin, if_neg (by omega), if_neg (by omega)]

end Sys2Proof.Machine

namespace Sys2Proof.Claims

open Sys2Proof.Machine

theorem hostHas_congr {b b' c c' : Chip} {a : Nat} {bs : List Byte} (h : HostHas b c a bs) (hb : b'.homes = b.homes)
    (hc : c'.homes = c.homes) : HostHas b' c' a bs := by
  unfold HostHas
  rw [hb, hc]
  exact h

/-- A write of host memory. -/
theorem hostHas_hostWrite (c : Chip) (a : Nat) (bs : List Byte) : HostHas c (c.hostWrite a bs) a bs := by
  intro hfit
  have hbyte (x : Nat) : (c.hostWrite a bs).homes.byte x = if hostBase + a ≤ canon x ∧ canon x < hostBase + a + bs.length then
      bs.getD (canon x - (hostBase + a)) Memory.background else c.homes.byte x := by
    rw [Chip.hostWrite, if_pos hfit, Chip.onHomes_homes]
    exact Homes.byte_writeLong (fun y h1 h2 => canon_host (by omega) (by omega)) (by omega) ..
  refine ⟨fun i hi => ?_, fun pa hpa => ?_⟩
  · have hname : canon (hostBase + a + i) = hostBase + a + i := canon_host (by omega) (by omega)
    rw [hbyte, hname, if_pos (by omega), Nat.add_sub_cancel_left, List.getD_eq_getElem?_getD]
    rfl
  · rw [hbyte, if_neg]
    rintro ⟨hlo, hhi⟩
    exact hpa (canon pa - (hostBase + a)) (by omega) (by omega)

/-- A completion writes its record to host memory, and signals the port's vector (R358). -/
theorem completion_eq (c : Chip) (i : Nat) (key : Word) (e status entries : Nat) : c.completion i key e status entries =
    (c.hostWrite (c.port i).comp.toNat (recordOf key e status entries)).signal i := rfl

theorem signal_homes (c : Chip) (i : Nat) : (c.signal i).homes = c.homes := rfl

theorem hostHas_completion (c : Chip) (i : Nat) (key : Word) (e status entries : Nat) :
    HostHas c (c.completion i key e status entries) (c.port i).comp.toNat (recordOf key e status entries) := by
  rw [completion_eq]
  exact hostHas_congr (hostHas_hostWrite _ _ _) rfl (signal_homes ..)

theorem hostWrite_frame (c : Chip) (a : Nat) (bs : List Byte) : ∃ h, c.hostWrite a bs = c.onHomes fun _ => h := by
  unfold Chip.hostWrite
  split
  · exact ⟨_, rfl⟩
  · exact ⟨c.homes, rfl⟩

/-- A completion changes host memory and the vectors, and no more. -/
theorem completion_frame (c : Chip) (i : Nat) (key : Word) (e status entries : Nat) :
    ∃ h, c.completion i key e status entries = (c.onHomes fun _ => h).signal i := by
  obtain ⟨h, hw⟩ := hostWrite_frame c (c.port i).comp.toNat (recordOf key e status entries)
  exact ⟨h, by rw [completion_eq, hw]⟩

theorem signal_vector (c : Chip) {i : Nat} (hi : i < 65) : (c.signal i).mgmt.vectors.getLsbD i = true := by
  rw [Chip.signal, Chip.onMgmt_mgmt, BitVec.getLsbD_or, BitVec.getLsbD_ofNat, Nat.testBit_two_pow_self]
  simp [hi]

end Sys2Proof.Claims
end

section
/-!
SUPPORT. What a write of the engines, a caravan made or queued, and a caravan killed leave of the host's side of the module, and
of an expedition (R279, R358, R360).
-/

namespace Sys2Proof.Machine

/-! ## What an access of an engine changes -/

/-- An access of an engine changes the homes, the walkers, the links with what is asked over them, and the free values taken; all
else of the chip stands. -/
def Chip.Accessed (c c' : Chip) : Prop := ∃ hs ws ls rs n f,
  c' = { c with homes := hs, walkers := ws, links := ls, requests := rs, nextTag := n, free := f }

theorem Chip.Accessed.rfl {c : Chip} : c.Accessed c := ⟨_, _, _, _, _, _, .refl _⟩

theorem Chip.Accessed.trans {a b c : Chip} (h : a.Accessed b) (k : b.Accessed c) : a.Accessed c := by
  obtain ⟨_, _, _, _, _, _, rfl⟩ := h
  obtain ⟨_, _, _, _, _, _, rfl⟩ := k
  exact ⟨_, _, _, _, _, _, .refl _⟩

theorem Chip.Accessed.sched {c c' : Chip} (h : c.Accessed c') : c'.sched = c.sched := by
  obtain ⟨_, _, _, _, _, _, rfl⟩ := h
  exact .refl _

theorem Chip.onLink_accessed (c : Chip) (l : Nat) (f : Link → Link) : c.Accessed (c.onLink l f) := by
  obtain ⟨ls, h⟩ := c.onLink_frame l f
  exact ⟨_, _, ls, _, _, _, h⟩

/-- What an access of an engine leaves behind, where it leaves anything, has been reached from c. -/
def Got.Reaches {α : Type} (c : Chip) : Got α → Prop
  | .ok _ c' => c.Accessed c'
  | .wait c' => c.Accessed c'
  | .bad _ _ => True

theorem Got.Reaches.bind {α β : Type} {c : Chip} {g : Got α} {f : α → Chip → Got β} (hg : g.Reaches c)
    (hf : ∀ a c', (f a c').Reaches c') : (g.bind f).Reaches c := by
  cases g with
  | bad k va => trivial
  | wait c' => exact hg
  | ok a c' =>
    have h := hf a c'
    rw [Got.bind]
    cases hr : f a c' with
    | bad k va => trivial
    | wait c2 => rw [hr] at h; exact hg.trans h
    | ok b c2 => rw [hr] at h; exact hg.trans h

theorem Chip.keepLeaf_accessed (c : Chip) (die : Nat) (l : Leaf) : c.Accessed (c.keepLeaf die l) := by
  unfold Chip.keepLeaf
  dsimp only
  split
  · exact ⟨_, _, _, _, _, _, rfl⟩
  · split <;> exact ⟨_, _, _, _, _, _, rfl⟩

theorem Chip.engineLeaf_reaches (c : Chip) (u : Nat) (d : Drover) (va : Nat) (n : Need) (pins : List Leaf) :
    (c.engineLeaf u d va n pins).Reaches c := by
  unfold Chip.engineLeaf
  split
  case h_1 =>
    split
    · trivial
    · exact .rfl
  case h_2 =>
    split
    case h_1 => trivial
    case h_2 => exact .rfl
    case h_3 =>
      split
      · trivial
      · exact .rfl
    case h_4 =>
      split
      · trivial
      · rw [Got.Reaches]
        split
        · exact c.keepLeaf_accessed ..
        · exact .rfl

theorem Chip.request_accessed {c c' : Chip} {dev ptype addr tag : Nat} {data : List Byte} {who : Nat → RemoteReq}
    (h : c.request dev ptype addr data who = some (tag, c')) : c.Accessed c' := by
  unfold Chip.request at h
  split at h
  case h_1 => cases h
  case h_2 l _ =>
    cases h
    exact (c.onLink_accessed l _).trans ⟨_, _, _, _, _, _, rfl⟩

theorem Chip.writePiece_reaches (c : Chip) (u : Nat) (d : Drover) (va : Nat) (bs : List Byte) (pins : List Leaf) :
    (c.writePiece u d va bs pins).Reaches c := by
  refine (c.engineLeaf_reaches u d va .write pins).bind fun l c1 => ?_
  dsimp only
  split
  · cases hr : c1.request l.dev 1 (l.pa va) bs fun k => .posted (blockAgent u) k with
    | none => trivial
    | some r => exact Chip.request_accessed hr
  · split
    · exact .rfl
    · exact ⟨_, _, _, _, _, _, rfl⟩

theorem Chip.writeFails_accessed (c : Chip) (pa : Nat) : c.Accessed (c.writeFails pa).2 := by
  unfold Chip.writeFails
  split <;> exact ⟨_, _, _, _, _, _, rfl⟩

theorem Chip.storeVa_accessed (c : Chip) (u : Nat) (d : Drover) (pins : List Leaf) (va fuel : Nat) (bs : List Byte) :
    c.Accessed (c.storeVa u d pins va fuel bs).1 := by
  induction fuel generalizing c va bs with
  | zero => exact .rfl
  | succ fuel ih =>
    rw [Chip.storeVa]
    split
    · exact .rfl
    have hleaf := c.engineLeaf_reaches u d va .write pins
    dsimp only
    split
    case h_1 => exact .rfl
    case h_2 he => rw [he] at hleaf; exact hleaf
    case h_3 l c1 he =>
      rw [he] at hleaf
      have hfails : c1.Accessed (if l.rmt then (false, c1) else c1.writeFails (l.pa va)).2 := by
        split
        · exact .rfl
        · exact c1.writeFails_accessed _
      generalize (if l.rmt then (false, c1) else c1.writeFails (l.pa va)) = w at hfails ⊢
      obtain ⟨failed, c2⟩ := w
      replace hfails : c.Accessed c2 := hleaf.trans hfails
      cases failed
      case true => exact hfails
      case false =>
        have hpiece := c2.writePiece_reaches u d va (bs.take (min bs.length (64 - va % 64))) pins
        dsimp only
        split
        case h_1 => exact hfails
        case h_2 hp => rw [hp] at hpiece; exact hfails.trans hpiece
        case h_3 hp => rw [hp] at hpiece; exact (hfails.trans hpiece).trans (ih ..)

theorem Chip.writeVa_accessed (c : Chip) (u : Nat) (d : Drover) (va fuel : Nat) (bs : List Byte) :
    c.Accessed (c.writeVa u d va fuel bs).1 := by
  induction fuel generalizing c va bs with
  | zero => exact .rfl
  | succ fuel ih =>
    rw [Chip.writeVa]
    split
    · exact .rfl
    · have hpiece := c.writePiece_reaches u d va (bs.take (min bs.length (64 - va % 64))) []
      dsimp only
      split
      case h_1 => exact .rfl
      case h_2 hp => rw [hp] at hpiece; exact hpiece
      case h_3 hp => rw [hp] at hpiece; exact hpiece.trans (ih ..)

/-! ## Ports, images and management registers kept -/

/-- Management registers, ports and images stand. -/
structure Chip.HostKept (c c' : Chip) : Prop where
  mgmt : c'.mgmt = c.mgmt
  ports : c'.ports = c.ports
  images : c'.images = c.images

theorem Chip.HostKept.rfl {c : Chip} : c.HostKept c := ⟨.refl _, .refl _, .refl _⟩

theorem Chip.HostKept.trans {a b c : Chip} (h : a.HostKept b) (k : b.HostKept c) : a.HostKept c :=
  ⟨k.mgmt.trans h.mgmt, k.ports.trans h.ports, k.images.trans h.images⟩

/-- Steps that each keep the host's side keep it together. -/
theorem Chip.foldl_hostKept {α : Type} {f : Chip → α → Chip} (hf : ∀ (c : Chip) a, c.HostKept (f c a)) (l : List α) (c : Chip) :
    c.HostKept (l.foldl f c) := by
  induction l generalizing c with
  | nil => exact .rfl
  | cons a l ih => exact (hf c a).trans (ih _)

theorem Chip.onSched_hostKept (c : Chip) (f : Sched → Sched) : c.HostKept (c.onSched f) := ⟨rfl, rfl, rfl⟩

theorem Chip.onTraps_hostKept (c : Chip) (f : Traps → Traps) : c.HostKept (c.onTraps f) := ⟨rfl, rfl, rfl⟩

theorem Chip.Accessed.hostKept {c c' : Chip} (h : c.Accessed c') : c.HostKept c' := by
  obtain ⟨_, _, _, _, _, _, rfl⟩ := h
  exact ⟨.refl _, .refl _, .refl _⟩

theorem Chip.deliverRecord_hostKept (c : Chip) (r : Record) : c.HostKept (c.deliverRecord r) := by
  unfold Chip.deliverRecord
  split
  case h_1 => exact ⟨rfl, rfl, rfl⟩
  case h_2 =>
    dsimp only
    split
    · exact ⟨rfl, rfl, rfl⟩
    · split <;> exact ⟨rfl, rfl, rfl⟩

theorem Chip.raiseRecord_hostKept (c : Chip) (die exp serai : Nat) (notask fatal defer : Bool) (task caravan : Option Nat) (q : TrapReq)
    (acc : Option Nat) (watch : Option (Nat × Nat)) :
    c.HostKept (c.raiseRecord die exp serai notask fatal defer task caravan q acc watch) :=
  (c.onTraps_hostKept _).trans (Chip.deliverRecord_hostKept ..)

theorem Chip.onExp_exp? {c : Chip} {k : Nat} {x : Expedition} (h : c.exp? k = some x) (e : Nat) (f : Expedition → Expedition) :
    (c.onExp e f).exp? k = some (if k = e then f x else x) := by
  refine (look_upd ..).trans ?_
  by_cases hk : k = e
  · subst hk
    rw [if_pos rfl, if_pos rfl]
    exact congrArg (Option.map f) h
  · rw [if_neg hk, if_neg hk]
    exact h

/-! ## A spill entry, an entry queued, a caravan made (R279, R287) -/

/-- The chip of a spill entry: the host's side stands, and an expedition keeps all but whether its spill area is open. -/
theorem Chip.writeSpill_keeps (c : Chip) (e die : Nat) : c.HostKept (c.writeSpill e die) ∧
    ∀ k x, c.exp? k = some x → ∃ b, (c.writeSpill e die).exp? k = some { x with spillOpen := b } := by
  unfold Chip.writeSpill
  cases c.exp? e with
  | none => exact ⟨.rfl, fun k x hx => ⟨_, hx⟩⟩
  | some y =>
    have hstore := Chip.storeVa_accessed { c with free := c.free + 1 } (2 ^ 32) (spiller e die) []
      (y.spillAddr + 64 * (c.spillUsed e % max y.spillCap 1))
      (((List.range 64).map fun i => Config.freeByte c.free i).length / 64 + 2) ((List.range 64).map fun i => Config.freeByte c.free i)
    have hfree : c.Accessed { c with free := c.free + 1 } := ⟨_, _, _, _, _, _, rfl⟩
    replace hstore := hfree.trans hstore
    have hexp : ∀ k, (Chip.exp? _ k) = c.exp? k := fun k => congrArg (fun t : Sched => look t.exps k) hstore.sched
    dsimp only [Chip.storeBlock]
    split
    case h_1 h =>
      rw [h] at hstore hexp
      exact ⟨hstore.hostKept, fun k x hx => ⟨x.spillOpen, (hexp k).trans hx⟩⟩
    case h_2 c1 cause h =>
      rw [h] at hstore hexp
      refine ⟨hstore.hostKept.trans ((Chip.onSched_hostKept ..).trans (Chip.raiseRecord_hostKept ..)), fun k x hx => ?_⟩
      rw [Chip.exp?, Chip.raiseRecord_sched]
      refine ⟨if k = e then false else x.spillOpen, (Chip.onExp_exp? ((hexp k).trans hx) ..).trans ?_⟩
      split <;> rfl

theorem Chip.setMembers_hostKept (c : Chip) (v : Caravan) (st : TaskState) : c.HostKept (c.setMembers v st) :=
  Chip.foldl_hostKept (f := fun c u => c.onTask u fun t => { t with state := st }) (fun c _ => c.onSched_hostKept _) ..

theorem Chip.setMembers_exps (c : Chip) (v : Caravan) (st : TaskState) : (c.setMembers v st).sched.exps = c.sched.exps :=
  List.foldlRecOn _ _ (motive := fun c' : Chip => c'.sched.exps = c.sched.exps) rfl fun _ h _ _ => h

/-- The chip of an entry queued: the host's side stands, and an expedition keeps all but whether its spill area is open. -/
theorem Chip.enqueue_keeps (c : Chip) (v die time order : Nat) : c.HostKept (c.enqueue v die time order) ∧
    ∀ k x, c.exp? k = some x → ∃ b, (c.enqueue v die time order).exp? k = some { x with spillOpen := b } := by
  unfold Chip.enqueue
  cases c.caravan? v with
  | none => exact ⟨.rfl, fun k x hx => ⟨_, hx⟩⟩
  | some y =>
    dsimp only
    generalize hc1 : (c.onCaravan v fun x =>
      { x with ready := time, order := order, agedAt := time, passedAt := none,
               place := if decide (c.queueLen die < 2048) = true then .queue die else .spilled die }).setMembers y .ready = c1
    have hhost : c.HostKept c1 := hc1 ▸ (Chip.onSched_hostKept ..).trans (Chip.setMembers_hostKept ..)
    have hexp (k : Nat) : c1.exp? k = c.exp? k :=
      hc1 ▸ congrArg (look · k) (Chip.setMembers_exps (c.onCaravan v _) y .ready)
    split
    · exact ⟨hhost, fun k x hx => ⟨x.spillOpen, (hexp k).trans hx⟩⟩
    · obtain ⟨hspill, hexps⟩ := c1.writeSpill_keeps y.exp die
      exact ⟨hhost.trans hspill, fun k x hx => hexps k x ((hexp k).trans hx)⟩

/-- Steps that each put one drover: the first of a list stands at its key. -/
theorem foldl_drover? {f : Chip → Nat → Chip} {u i : Nat} {g : Nat → Drover}
    (hf : ∀ c j, (f c j).drover? (u + i) = if j = i then some (g j) else c.drover? (u + i)) {l : List Nat} (hi : i ∈ l) (c : Chip) :
    (l.foldl f c).drover? (u + i) = some (g i) := by
  have hstays : ∀ (l : List Nat) (c : Chip), c.drover? (u + i) = some (g i) → (l.foldl f c).drover? (u + i) = some (g i) :=
    fun l c h => List.foldlRecOn l f (motive := fun c' : Chip => c'.drover? (u + i) = some (g i)) h fun c' hc j _ => by
      rw [hf]
      split
      · subst_vars; rfl
      · exact hc
  induction l generalizing c with
  | nil => cases hi
  | cons j l ih =>
    by_cases hj : j = i
    · subst hj
      exact hstays l _ ((hf c j).trans (if_pos rfl))
    · exact ih ((List.mem_cons.1 hi).resolve_left (Ne.symm hj)) _

/-- The chip with member i of a caravan made: its drover and its task, i past a key. -/
def Chip.addMember (c : Chip) (l : Launching) (u i : Nat) (t : Task) : Chip :=
  { c with drovers := put c.drovers (u + i) (l.drover (u + i) i), sched := { c.sched with tasks := put c.sched.tasks (u + i) t } }

section

variable (c : Chip) (cycle : Nat) (l : Launching) (watches : SMap Nat) (place : Place)

/-- What a caravan made changes: its members one by one, the next keys, its own entry, and its expedition's next TASKID. -/
theorem Chip.newCaravan_chip : ∃ (t : Nat → Task) (f : Sched → Sched) (n : Nat),
    (c.newCaravan cycle l watches place).1 =
      (((List.range l.tem.size).foldl (fun c' i => c'.addMember l c.sched.nextKey i (t i)) c).onSched f).onExp l.exp
        (fun x => { x with nextTask := n }) ∧ ∀ sc, (f sc).exps = sc.exps := ⟨_, _, _, rfl, fun _ => rfl⟩

theorem Chip.newCaravan_hostKept : c.HostKept (c.newCaravan cycle l watches place).1 := by
  obtain ⟨t, f, n, heq, -⟩ := c.newCaravan_chip cycle l watches place
  rw [heq]
  exact (Chip.foldl_hostKept (f := fun c' i => c'.addMember l c.sched.nextKey i (t i)) (fun _ _ => ⟨rfl, rfl, rfl⟩) ..).trans
    ((Chip.onSched_hostKept ..).trans (Chip.onSched_hostKept ..))

/-- An expedition keeps all but the TASKID that is next. -/
theorem Chip.newCaravan_exp? {k : Nat} {x : Expedition} (h : c.exp? k = some x) :
    ∃ n, (c.newCaravan cycle l watches place).1.exp? k = some { x with nextTask := n } := by
  obtain ⟨t, f, n, heq, hf⟩ := c.newCaravan_chip cycle l watches place
  have hexps : ((List.range l.tem.size).foldl (fun c' i => c'.addMember l c.sched.nextKey i (t i)) c).sched.exps = c.sched.exps :=
    List.foldlRecOn _ _ (motive := fun c' : Chip => c'.sched.exps = c.sched.exps) rfl fun _ h _ _ => h
  rw [heq]
  refine ⟨if k = l.exp then n else x.nextTask, (Chip.onExp_exp? (x := x) ?_ ..).trans ?_⟩
  · rw [Chip.exp?, Chip.onSched_sched, hf, hexps]
    exact h
  · split <;> rfl

/-- The drover of the first member stands under the next key. -/
theorem Chip.newCaravan_drover? (hsize : 0 < l.tem.size) :
    (c.newCaravan cycle l watches place).1.drover? c.sched.nextKey = some (l.drover c.sched.nextKey 0) := by
  obtain ⟨t, f, n, heq, -⟩ := c.newCaravan_chip cycle l watches place
  rw [heq]
  refine foldl_drover? (f := fun c' i => c'.addMember l c.sched.nextKey i (t i)) (u := c.sched.nextKey) (i := 0)
    (g := fun i => l.drover (c.sched.nextKey + i) i) (fun c' j => (look_put ..).trans ?_) (List.mem_range.2 hsize) c
  by_cases hj : j = 0
  · subst hj
    rw [if_pos rfl, if_pos rfl]
  · rw [if_neg (by omega), if_neg hj]
    rfl

end

end Sys2Proof.Machine
end

section
/-!
SUPPORT. A caravan killed leaves the expeditions (R189, R343, R360): one of them may note that its spill area has room, and no more.
-/

namespace Sys2Proof.Machine

theorem Chip.freeSlot_sched (c : Chip) (u slot : Nat) : (c.freeSlot u slot).sched = c.sched := by
  unfold Chip.freeSlot
  split
  · exact (Chip.writeVa_accessed ..).sched
  · rfl

theorem Chip.memberDies_exps (c : Chip) (u : Nat) (d : Drover) : (c.memberDies u d).sched.exps = c.sched.exps := by
  have hlogged := congrArg Sched.exps (Chip.foldl_logLate_logged u d (lostErrors d d.ended) ((c.setDrover u d.killed).onTask u fun t =>
    { t with state := .killed, slot := none, full := false, heldAt := none })).sched
  unfold Chip.memberDies
  cases d.core with
  | none => exact hlogged
  | some n => exact hlogged

theorem Chip.killMember_exps (c : Chip) (u : Nat) : (c.killMember u).sched.exps = c.sched.exps := by
  unfold Chip.killMember
  split
  case h_1 d t _ _ =>
    split
    · rfl
    · cases t.slot with
      | none => exact c.memberDies_exps u d
      | some k => exact ((c.freeSlot u k).memberDies_exps u d).trans (congrArg Sched.exps (c.freeSlot_sched u k))
  case h_2 => rfl

theorem Chip.tellFate_exps (c : Chip) (dev code cv : Nat) : (c.tellFate dev code cv).sched.exps = c.sched.exps := by
  unfold Chip.tellFate
  split
  case h_1 => rfl
  case h_2 h => exact congrArg Sched.exps (Chip.request_sched h)

theorem Chip.tellOrigin_exps (c : Chip) (v : Caravan) : (c.tellOrigin v).sched.exps = c.sched.exps := by
  unfold Chip.tellOrigin
  split
  · rfl
  · exact c.tellFate_exps ..

/-- Steps that each leave the expeditions leave them together. -/
theorem foldl_exps {α : Type} {f : Chip → α → Chip} (hf : ∀ c a, (f c a).sched.exps = c.sched.exps) (l : List α) (c : Chip) :
    (l.foldl f c).sched.exps = c.sched.exps :=
  List.foldlRecOn _ _ (motive := fun c' : Chip => c'.sched.exps = c.sched.exps) rfl fun c' h a _ => (hf c' a).trans h

section

variable {c : Chip} {k : Nat} {x : Expedition} (h : c.exp? k = some x)

include h

theorem Chip.spillFreed_exp? (e : Nat) : ∃ l, (c.spillFreed e).exp? k = some { x with spillNoted := l } := by
  unfold Chip.spillFreed
  split
  · refine ⟨if k = e then [] else x.spillNoted, (Chip.onExp_exp? h ..).trans ?_⟩
    split <;> rfl
  · exact ⟨_, h⟩

theorem Chip.caravanGone_exp? (cv : Nat) : ∃ l, (c.caravanGone cv).exp? k = some { x with spillNoted := l } := by
  unfold Chip.caravanGone
  cases c.caravan? cv with
  | none => exact ⟨_, h⟩
  | some v =>
    have told : (if v.place = .gone then c else c.tellOrigin v).sched.exps = c.sched.exps := by
      split
      · rfl
      · exact c.tellOrigin_exps v
    have unbound := (foldl_exps (f := fun c u => c.unbindTask u) (fun _ _ => rfl) v.members _).trans told
    dsimp only
    refine Chip.spillFreed_exp? (c := Chip.onCaravan (Chip.onSched (v.members.foldl _ _) _) cv _) ?_ v.exp
    exact (congrArg (look · k) unbound).trans h

/-- Of an expedition a caravan's death changes the note of a full spill area at most. -/
theorem Chip.killCaravan_exp? (cv : Nat) : ∃ l, (c.killCaravan cv).exp? k = some { x with spillNoted := l } := by
  unfold Chip.killCaravan
  cases c.caravan? cv with
  | none => exact ⟨_, h⟩
  | some v =>
    dsimp only
    refine Chip.caravanGone_exp? ((congrArg (look · k) ?_).trans h) cv
    refine (foldl_exps (f := fun c n => (c.setSerai n Serai.reset).onSched fun s =>
      { s with dead := insertNat s.dead n, lastExp := del s.lastExp n }) (fun _ _ => rfl) _ _).trans ?_
    refine (foldl_exps (f := fun c u => c.killMember u) Chip.killMember_exps v.members _).trans ?_
    split
    · exact c.tellFate_exps ..
    · rfl

theorem Chip.foldl_killCaravan_exp? (l : List Nat) :
    ∃ n, (l.foldl (fun c cv => c.killCaravan cv) c).exp? k = some { x with spillNoted := n } :=
  List.foldlRecOn _ _ (motive := fun c' : Chip => ∃ n, c'.exp? k = some { x with spillNoted := n }) ⟨_, h⟩
    fun _ ⟨_, hn⟩ cv _ => Chip.killCaravan_exp? hn cv

end

/-- What a map leaves at a key, when each entry keeps its key. -/
theorem look_map_entry {α : Type} {f : Nat × α → Nat × α} (hf : ∀ p, (f p).1 = p.1) (m : SMap α) (i : Nat) :
    look (m.map f) i = (look m i).map fun v => (f (i, v)).2 := by
  have hsplit : f = fun p => (p.1, (f p).2) := funext fun p => Prod.ext (hf p) rfl
  rw [hsplit]
  exact look_map_key (fun p => (f p).2) m i

end Sys2Proof.Machine
end

section
/-!
PROOF. Expeditions (R279, R358, R359, R360): started by a LAUNCH stream, refused, ended, and ended by the host.
-/

namespace Sys2Proof.Machine

/-! ## An expedition started (R279, R358) -/

/-- The chip in which an expedition is about to start: its log open, its record kept, and the module's launch noted. -/
def Chip.openExpedition (c : Chip) (port : Nat) (p : LoadPlan) (b : List Byte) (key : Word) (homes : Homes) : Chip :=
  ({ c with homes := homes.openLog p.flog (field b 104 4) }.onSched fun s =>
    { s with exps := put s.exps p.expid.toNat (planExpedition p b port key) }).onMgmt fun m => { m with launched := true }

/-- What an expedition's first caravan is made from. -/
def startLaunching (port : Nat) (p : LoadPlan) (b : List Byte) (arg : Word) : Launching :=
  { exp := p.expid.toNat, tmpl := field b 16 2, tem := templateOf (templateEntry b (field b 16 2)),
    prio := (templateOf (templateEntry b (field b 16 2))).prio, args := [arg, BitVec.ofNat 64 port, 0], groups := [], hint := 0,
    near := none, clk := [] }

theorem Chip.openExpedition_keys (c : Chip) (port : Nat) (p : LoadPlan) (b : List Byte) (key : Word) (homes : Homes) :
    c.sched.nextKey = (c.openExpedition port p b key homes).sched.nextKey ∧
      c.sched.nextCv = (c.openExpedition port p b key homes).sched.nextCv := ⟨rfl, rfl⟩

theorem Chip.openExpedition_exp? (c : Chip) (port : Nat) (p : LoadPlan) (b : List Byte) (key : Word) (homes : Homes) :
    (c.openExpedition port p b key homes).exp? p.expid.toNat = some (planExpedition p b port key) := look_put_same ..

theorem Chip.startExpedition_eq (c : Chip) (cycle port : Nat) (p : LoadPlan) (b : List Byte) (key arg : Word) (homes : Homes) :
    c.startExpedition cycle port p b key arg homes =
      ((c.openExpedition port p b key homes).newCaravan cycle (startLaunching port p b arg) [] .gone).1.enqueue
        (c.openExpedition port p b key homes).sched.nextCv (p.slice.toNat / 64) cycle (arbiterOrder 2 0) := rfl

/-- A new task finds its arguments in x1 and x2, and starts at its template's entry (R14). -/
theorem Launching.drover_starts (l : Launching) (u index : Nat) : (l.drover u index).regs.getX 1 = (l.args[0]?).getD 0 ∧
    (l.drover u index).regs.getX 2 = (l.args[1]?).getD 0 ∧ (l.drover u index).regs.pc = l.tem.entry := by
  have hregs (r : BitVec 5) : (l.drover u index).regs.getX r =
      ((((Drover.fresh false none).regs.setX 1 ((l.args[0]?).getD 0)).setX 2 ((l.args[1]?).getD 0)).setX 3 ((l.args[2]?).getD 0)).getX r :=
    rfl
  refine ⟨?_, ?_, rfl⟩
  · rw [hregs, Regs.getX_setX, if_neg (by decide), Regs.getX_setX, if_neg (by decide), Regs.getX_setX, if_pos (by decide)]
  · rw [hregs, Regs.getX_setX, if_neg (by decide), Regs.getX_setX, if_pos (by decide)]

section

variable (c : Chip) (cycle port : Nat) (p : LoadPlan) (b : List Byte) (key arg : Word) (homes : Homes)

theorem Chip.startExpedition_host : (c.startExpedition cycle port p b key arg homes).mgmt.launched = true ∧
    (c.startExpedition cycle port p b key arg homes).ports = c.ports ∧
    (c.startExpedition cycle port p b key arg homes).images = c.images := by
  have hmade := (c.openExpedition port p b key homes).newCaravan_hostKept cycle (startLaunching port p b arg) [] .gone
  have hkept := hmade.trans (Chip.enqueue_keeps _ (c.openExpedition port p b key homes).sched.nextCv (p.slice.toNat / 64) cycle
    (arbiterOrder 2 0)).1
  rw [Chip.startExpedition_eq, hkept.mgmt, hkept.ports, hkept.images]
  exact ⟨rfl, rfl, rfl⟩

theorem Chip.startExpedition_exp? : ∃ n o, (c.startExpedition cycle port p b key arg homes).exp? p.expid.toNat =
    some { planExpedition p b port key with nextTask := n, spillOpen := o } := by
  rw [Chip.startExpedition_eq]
  obtain ⟨n, hn⟩ := Chip.newCaravan_exp? _ cycle (startLaunching port p b arg) [] .gone (c.openExpedition_exp? port p b key homes)
  obtain ⟨o, ho⟩ := (Chip.enqueue_keeps _ (c.openExpedition port p b key homes).sched.nextCv (p.slice.toNat / 64) cycle
    (arbiterOrder 2 0)).2 _ _ hn
  exact ⟨n, o, ho⟩

theorem Chip.startExpedition_caravan? : ∃ v, (c.startExpedition cycle port p b key arg homes).caravan? c.sched.nextCv = some v ∧
    v.exp = p.expid.toNat ∧ v.ready = cycle ∧ (v.place = .queue (p.slice.toNat / 64) ∨ v.place = .spilled (p.slice.toNat / 64)) := by
  rw [Chip.startExpedition_eq, (c.openExpedition_keys port p b key homes).2]
  obtain ⟨v, hv, hmade, -, -⟩ := (c.openExpedition port p b key homes).newCaravan_caravan? cycle (startLaunching port p b arg) [] .gone
  obtain ⟨y, hy, hexp, -, -, hready, hplace⟩ := Chip.enqueue_caravan? hv (p.slice.toNat / 64) cycle (arbiterOrder 2 0)
  exact ⟨y, hy, hexp.trans hmade, hready, hplace⟩

theorem Chip.startExpedition_drover? : (c.startExpedition cycle port p b key arg homes).drover? c.sched.nextKey =
    some ((startLaunching port p b arg).drover c.sched.nextKey 0) := by
  rw [Chip.startExpedition_eq, (c.openExpedition_keys port p b key homes).1]
  exact (Chip.drover?_congr (Chip.enqueue_drovers ..) _).trans (Chip.newCaravan_drover? _ cycle _ [] .gone (Nat.succ_pos _))

end

/-! ## An expedition ended (R279) -/

/-- The chip without what the module keeps of an expedition. -/
def Chip.withoutExp (c : Chip) (e : Nat) : Chip :=
  let own := fun (u : Nat) => (c.task? u).any fun t => t.exp == e
  let c := c.onXde fun x => x.without own
  let c := { c with drovers := c.drovers.filter (fun p => p.2.steward || p.2.exp != e), walkers := c.walkers.without e }
  c.onSched fun s =>
    { s with exps := del s.exps e, tasks := s.tasks.filter fun p => p.2.exp != e, caravans := s.caravans.filter fun p => p.2.exp != e,
             lastExp := s.lastExp.filter fun p => p.2 != e }

theorem mem_of_look_filter {α : Type} {m : SMap α} {q : Nat × α → Bool} {i : Nat} {v : α} (h : look (m.filter q) i = some v) :
    q (i, v) = true := (List.mem_filter.1 (mem_of_look h)).2

/-- No expedition, task or drover of a task is left. -/
theorem Chip.withoutExp_gone (c : Chip) (e : Nat) : (c.withoutExp e).exp? e = none ∧
    (∀ u t, (c.withoutExp e).task? u = some t → t.exp ≠ e) ∧
    ∀ u d, (c.withoutExp e).drover? u = some d → d.steward = true ∨ d.exp ≠ e := by
  refine ⟨(look_del ..).trans (if_pos rfl), fun u t ht => ?_, fun u d hd => ?_⟩
  · exact bne_iff_ne.1 (mem_of_look_filter ht)
  · exact (Bool.or_eq_true_iff.1 (mem_of_look_filter hd)).imp_right bne_iff_ne.1

/-! ## Ports (R357, R358) -/

theorem Port.launchStream_stream {p : Port} {t m : Token} {rest : List Token} (hfifo : p.fifo = t :: m :: rest) (hkind : t.kind = 0)
    (heot : m.isEot = true) : ∃ p', p.launchStream = .stream t p' ∧ p'.fifo = rest ∧ p'.comp = p.comp := by
  refine ⟨{ p with fifo := rest }, ?_, rfl, rfl⟩
  simp only [Port.launchStream, hfifo, hkind, ne_eq, not_true_eq_false, if_false, heot, if_true]

theorem Chip.onPort_port? {c : Chip} {i : Nat} {p : Port} (h : c.ports[i]? = some p) (f : Port → Port) :
    (c.onPort i f).ports[i]? = some (f p) := by
  obtain ⟨hlt, rfl⟩ := Vector.getElem?_eq_some_iff.1 h
  simp [Chip.onPort, hlt]

theorem Chip.onPort_frame (c : Chip) (i : Nat) (f : Port → Port) : ∃ ps, c.onPort i f = { c with ports := ps } := by
  unfold Chip.onPort
  split <;> exact ⟨_, rfl⟩

theorem Chip.port_eq {c : Chip} {i : Nat} {p : Port} (h : c.ports[i]? = some p) : c.port i = p := by
  rw [Chip.port, h, Option.getD_some]

end Sys2Proof.Machine

namespace Sys2Proof.Claims

open Sys2Proof.Machine

/-! ## The events -/

theorem exec_launchStream (s : State) (i : BitVec 6) (plan : LoadPlan) : exec (.launchStream i plan) s = execLaunchStream i plan s := rfl

theorem exec_expeditionEnd (s : State) (e : Nat) : exec (.expeditionEnd e) s = execExpeditionEnd e s := rfl

theorem exec_functionLevelReset (s : State) : exec .functionLevelReset s = execFunctionLevelReset s := rfl

/-! ## LAUNCH streams (R358, R359) -/

section

variable {s : State} {i : BitVec 6} {p : Port} {t m : Token} {rest : List Token} {key : Word} {b : List Byte} {plan : LoadPlan}
  (hp : s.chip.ports[i.toNat]? = some p) (hmode : p.mode = false) (hboot : s.chip.mgmt.bootst = 1) (hfifo : p.fifo = t :: m :: rest)
  (hkind : t.kind = 0) (heot : m.isEot = true) (hkey : key = BitVec.ofNat 64 t.payload.toNat) (hnew : look s.chip.images key.toNat = none)
  (hb : b = s.chip.hostRead (bitsOf t.payload.toNat 64 64) (bitsOf t.payload.toNat 128 64))

include hp hmode hboot hfifo hkind heot hkey hnew hb

theorem after_launchStream_bad (hbad : imageGood b = false) : After s (.launchStream i plan) fun c =>
    c.mgmt.vectors.getLsbD i.toNat = true ∧ (∃ p', c.ports[i.toNat]? = some p' ∧ p'.fifo = rest) ∧
      HostHas s.chip c p.comp.toNat (recordOf key 0 2 0) := by
  obtain ⟨p', hstream, hrest, hcomp⟩ := Port.launchStream_stream hfifo hkind heot
  have hport := Chip.onPort_port? hp fun _ => p'
  refine after_of_eventStep (exec_launchStream ..) ?_
  simp only [Chip.port_eq hp, hmode, hboot, hstream, ← hkey, hnew, Option.getD_none, ← hb, hbad,
    Option.isNone_none, Bool.not_false, Bool.and_self, bne_self_eq_false, Bool.or_self, Bool.false_eq_true, if_false, if_true]
  obtain ⟨h, hframe⟩ := completion_frame (s.chip.onPort i.toNat fun _ => p') i.toNat key 0 2 0
  have hhas := hostHas_completion (s.chip.onPort i.toNat fun _ => p') i.toNat key 0 2 0
  rw [Chip.port_eq hport, hcomp] at hhas
  refine ⟨?_, ⟨p', ?_, hrest⟩, ?_⟩
  · rw [hframe]
    exact signal_vector _ (by omega)
  · rw [hframe]
    exact hport
  · obtain ⟨ps, hps⟩ := s.chip.onPort_frame i.toNat fun _ => p'
    exact hostHas_congr hhas (by rw [hps]) rfl

theorem after_launchStream_good {h : Homes} (hgood : imageGood b = true) (hsound : planSound plan = true)
    (hfree : s.chip.exp? plan.expid.toNat = none) (hplace : planPlace plan s.chip.homes b = some h) :
    After s (.launchStream i plan) fun c => (∃ p', c.ports[i.toNat]? = some p' ∧ p'.fifo = rest) ∧ c.mgmt.launched = true ∧
      look c.images key.toNat = some b ∧
      (∃ x, c.exp? plan.expid.toNat = some x ∧ x.port = some i.toNat ∧ x.key = key ∧ x.ptroot = plan.ptroot ∧
        x.templates = (planExpedition plan b i.toNat key).templates ∧ x.flogCap = field b 104 4) ∧
      (∃ v, CaravanIs c s.chip.sched.nextCv v ∧ v.exp = plan.expid.toNat ∧ v.ready = s.cycle ∧
        (v.place = .queue (plan.slice.toNat / 64) ∨ v.place = .spilled (plan.slice.toNat / 64))) ∧
      (∃ d, c.drover? s.chip.sched.nextKey = some d ∧ d.regs.getX 1 = BitVec.ofNat 64 (t.payload.toNat / 2 ^ 192) ∧
        d.regs.getX 2 = BitVec.ofNat 64 i.toNat ∧ d.regs.pc = (templateOf (templateEntry b (field b 16 2))).entry) := by
  obtain ⟨p', hstream, hrest, -⟩ := Port.launchStream_stream hfifo hkind heot
  refine after_of_eventStep (exec_launchStream ..) ?_
  simp only [Chip.port_eq hp, hmode, hboot, hstream, ← hkey, hnew, Option.getD_none, ← hb, hgood, hsound,
    hfree, hplace, Option.isNone_none, Option.isSome_none, Bool.not_true, Bool.and_false, bne_self_eq_false, Bool.or_self,
    Bool.false_eq_true, if_false]
  generalize hread : { s.chip with images := put s.chip.images key.toNat b }.onMgmt (fun g => g.noteImage b) = c
  have hport := Chip.onPort_port? (c := c) (i := i.toNat) (p := p) (by rw [← hread]; exact hp) fun _ => p'
  obtain ⟨ps, hps⟩ := c.onPort_frame i.toNat fun _ => p'
  have hsched : (c.onPort i.toNat fun _ => p').sched = s.chip.sched := by rw [hps, ← hread]; rfl
  have himages : (c.onPort i.toNat fun _ => p').images = put s.chip.images key.toNat b := by rw [hps, ← hread]; rfl
  generalize (c.onPort i.toNat fun _ => p') = c1 at hport hsched himages ⊢
  obtain ⟨hlaunched, hports, hkept⟩ := c1.startExpedition_host s.cycle i.toNat plan b key (BitVec.ofNat 64 (t.payload.toNat / 2 ^ 192)) h
  obtain ⟨n, o, hexp⟩ := c1.startExpedition_exp? s.cycle i.toNat plan b key (BitVec.ofNat 64 (t.payload.toNat / 2 ^ 192)) h
  have hcaravan := c1.startExpedition_caravan? s.cycle i.toNat plan b key (BitVec.ofNat 64 (t.payload.toNat / 2 ^ 192)) h
  have hdrover := c1.startExpedition_drover? s.cycle i.toNat plan b key (BitVec.ofNat 64 (t.payload.toNat / 2 ^ 192)) h
  rw [hsched] at hcaravan hdrover
  refine ⟨⟨p', ?_, hrest⟩, hlaunched, ?_, ⟨_, hexp, rfl, rfl, rfl, rfl, rfl⟩, hcaravan, ⟨_, hdrover, Launching.drover_starts ..⟩⟩
  · rw [hports]
    exact hport
  · rw [hkept, himages]
    exact look_put_same ..

end

/-! ## The end of an expedition (R279, R358) -/

/-- An expedition that may end ends, and the port that launched it is told. -/
theorem after_expeditionEnd_of {s : State} {e : Nat} {x : Expedition} {P : Chip → Prop} (hx : s.chip.exp? e = some x)
    (hend : s.chip.mayEnd e x = true) (hP : P (x.port.elim (s.chip.withoutExp e) fun i =>
      (s.chip.withoutExp e).completion i x.key e (b2n (s.chip.homes.logFails x.flog)) (s.chip.homes.num x.flog 8))) :
    After s (.expeditionEnd e) P := by
  refine after_of_eventStep (exec_expeditionEnd ..) ?_
  simp only [hx, hend, Bool.not_true, Bool.false_eq_true, if_false]
  unfold Chip.withoutExp at hP
  cases hport : x.port with
  | none => rw [hport, Option.elim_none] at hP; exact hP
  | some i => rw [hport, Option.elim_some] at hP; exact hP

theorem after_expeditionEnd {s : State} {e : Nat} {x : Expedition} (hx : s.chip.exp? e = some x) (hend : s.chip.mayEnd e x = true) :
    After s (.expeditionEnd e) fun c => c.exp? e = none ∧ (∀ u t, c.task? u = some t → t.exp ≠ e) ∧
      (∀ u d, c.drover? u = some d → d.steward = true ∨ d.exp ≠ e) ∧
      ∀ i, x.port = some i → i < 64 → c.mgmt.vectors.getLsbD i = true ∧ HostHas s.chip c (s.chip.port i).comp.toNat
        (recordOf x.key e (b2n (s.chip.homes.logFails x.flog)) (s.chip.homes.num x.flog 8)) := by
  obtain ⟨hexp, htasks, hdrovers⟩ := s.chip.withoutExp_gone e
  refine after_expeditionEnd_of hx hend ?_
  cases x.port with
  | none => exact ⟨hexp, htasks, hdrovers, fun i hi => nomatch hi⟩
  | some i =>
    have hhas := hostHas_completion (s.chip.withoutExp e) i x.key e (b2n (s.chip.homes.logFails x.flog)) (s.chip.homes.num x.flog 8)
    obtain ⟨h, hframe⟩ := completion_frame (s.chip.withoutExp e) i x.key e (b2n (s.chip.homes.logFails x.flog)) (s.chip.homes.num x.flog 8)
    rw [Option.elim_some]
    refine ⟨?_, ?_, ?_, ?_⟩
    · rw [hframe]; exact hexp
    · rw [hframe]; exact htasks
    · rw [hframe]; exact hdrovers
    · rintro j hj hlt
      obtain rfl := Option.some.inj hj
      refine ⟨?_, hostHas_congr hhas rfl rfl⟩
      rw [hframe]
      exact signal_vector _ (by omega)

/-! ## Function Level Reset (R360) -/

theorem after_functionLevelReset (s : State) : After s .functionLevelReset fun c =>
    (∀ (i : Nat) (p : Port), c.ports[i]? = some p →
      p.fifo = [] ∧ p.mode = false ∧ p.portal = 0 ∧ p.pageid = 0 ∧ p.expid = 0 ∧ p.taskid = 0) ∧
    ∀ e x, s.chip.exp? e = some x → x.port.isSome = true → ∃ x', c.exp? e = some x' ∧ x'.ending = true := by
  refine after_of_eventStep (exec_functionLevelReset s) ⟨fun i p hp => ?ports, fun e x hx hport => ?ending⟩
  case ports =>
    rw [Vector.getElem?_map] at hp
    obtain ⟨q, -, rfl⟩ := Option.map_eq_some_iff.1 hp
    exact ⟨rfl, rfl, rfl, rfl, rfl, rfl⟩
  case ending =>
    have hends : (s.chip.onSched fun s => { s with exps := s.exps.map fun p =>
        if p.2.port.isSome then (p.1, { p.2 with ending := true }) else p }).exp? e = some { x with ending := true } := by
      refine (look_map_entry (fun p => ?_) ..).trans ?_
      · dsimp only
        split <;> rfl
      · rw [show look s.chip.sched.exps e = some x from hx, Option.map_some, if_pos hport]
    obtain ⟨n, hn⟩ := Chip.foldl_killCaravan_exp? hends ((s.chip.sched.caravans.filter fun p =>
      ((s.chip.exp? p.2.exp).any fun x => x.port.isSome) && p.2.place != .gone).map fun p => p.1)
    exact ⟨_, hn, rfl⟩

/-- Settles O47: a good image starts its expedition, and what the host and the first task find stands in the chip that
`Chip.startExpedition` makes (`Chip.startExpedition_host`, `Chip.startExpedition_exp?` and their fellows); a completion record stands in
host memory byte by byte (`hostHas_completion`); an expedition that ends is left out of the records (`Chip.withoutExp_gone`), and one
that is ending stays so whichever caravans are killed (`Chip.foldl_killCaravan_exp?`). -/
theorem expeditionSteps : Obligations.ExpeditionSteps := by
  intro s
  refine ⟨fun i p t m rest key b plan hp hmode hboot hfifo hkind heot hkey hnew hb => ⟨?bad, fun h => ?good⟩,
    fun e x => after_expeditionEnd, after_functionLevelReset s⟩
  case bad => exact after_launchStream_bad hp hmode hboot hfifo hkind heot hkey hnew hb
  case good => exact after_launchStream_good hp hmode hboot hfifo hkind heot hkey hnew hb

end Sys2Proof.Claims
end
